-- ==== Sys2Proof/Word.lean ====
section
/-!
DEFINITION. Word.lean: the byte, and the plainest arithmetic on the values of fields. A field's value is a Nat below
2^width; bit vectors are kept for what the manual treats as bits (bytes of memory).
-/
namespace Sys2Proof

/-- One byte of memory or of a structure (R2). -/
abbrev Byte := BitVec 8

/-- A value reduced to `w` bits. -/
def wrap (w n : Nat) : Nat := n % 2 ^ w

/-- Addition that stays at the largest value of `w` bits (a saturating counter). -/
def satAdd (w a b : Nat) : Nat := min (a + b) (2 ^ w - 1)

/-- Bits [hi:lo] of `n`. -/
def bitsOf (hi lo n : Nat) : Nat := n / 2 ^ lo % 2 ^ (hi + 1 - lo)

/-- One bit as a Nat. -/
def b2n (b : Bool) : Nat := if b then 1 else 0

/-- Little-endian value of a list of bytes (R2). -/
def leNat : List Byte → Nat
  | [] => 0
  | b :: bs => b.toNat + 256 * leNat bs

/-- The `k` low bytes of `n`, least significant first (R2). -/
def leBytes : Nat → Nat → List Byte
  | 0, _ => []
  | k + 1, n => BitVec.ofNat 8 n :: leBytes k (n / 256)

/-- Ceiling of `a / b` (zero where `b` is zero). -/
def ceilDiv (a b : Nat) : Nat := if b = 0 then 0 else (a + b - 1) / b

end Sys2Proof
end

