-- ==== Sys2Proof/Syntax.lean ====
section
/-!
DEFINITION. Syntax.lean: the commands of the block, one constructor per row of spec/opcode_table.json, with the operands
each row takes: the fields of the entry, message, flit or access that carries it (laid out in the rule cited), what the
environment did (a medium's answer, a signature's validity), and the choice the device makes where the spec leaves one
open. `t` is the Lens time in nanoseconds at which a timed command comes.
-/
namespace Sys2Proof

/-! ### Who sends a command, and what a queue entry carries -/

/-- The masters of R484. -/
inductive Master where
  | portA | portB | bmc
  deriving DecidableEq, Repr

/-- The master's code (R484). -/
def Master.code : Master → Nat
  | .portA => 1
  | .portB => 2
  | .bmc => 3

/-- The PCIe function addressed: the physical function, or virtual function `n` (R498). -/
inductive Fn where
  | pf
  | vf (n : Nat)
  deriving DecidableEq, Repr

/-- One access to BAR0, or with `bar2` to BAR2: who, through which function, the offset and the bytes accessed (R4, R573). -/
structure RegAccess where
  master : Master
  fn : Fn
  bar2 : Bool
  off : Nat
  bytes : Nat
  deriving DecidableEq, Repr

/-- Where a submission entry came from: a hardware queue, the MCTP ADMIN message (R500), or the device itself. -/
inductive EntrySrc where
  | queue (q : Nat)
  | mctp
  | internal
  deriving DecidableEq, Repr

/-- Bytes 0x01 to 0x0F of a submission entry (R493). -/
structure EntryHdr where
  src : EntrySrc
  cid : Nat
  irq : Bool
  cookie : Nat
  deriving DecidableEq, Repr

/-- The fields of QUEUE_CREATE (R497). -/
structure QueueSpec where
  queue : Nat
  kind : Nat
  owner : Nat
  location : Nat
  ringLog2 : Nat
  payloadLog2 : Nat
  peer : Nat
  ringAddr : Nat
  cplAddr : Nat
  payloadAddr : Nat
  vector : Nat
  rkey : Nat
  remoteQpn : Nat
  deriving DecidableEq, Repr

/-- A peer-table entry (R511). -/
structure PeerEntry where
  kind : Nat
  ipVersion : Nat
  ports : Nat
  servicePort : Nat
  address : Nat
  subnqn : List Byte
  deriving DecidableEq, Repr

/-- A received Lemdin frame (R501): its header, and what FEC made of it. -/
structure LinkFrame where
  port : Nat
  cls : Nat
  seq : Nat
  ack : Nat
  pool : Nat
  credits : Nat
  corrected : Bool
  uncorrectable : Bool
  deriving DecidableEq, Repr

/-- The IDENT flit (R505). -/
structure Ident where
  partNumber : Nat
  chipId : Nat
  groupId : Nat
  groupSizeM1 : Nat
  position : Nat
  port : Nat
  use : Nat
  fwVersion : Nat
  deriving DecidableEq, Repr

/-- A Locator entry (R69). -/
structure LocEntry where
  sid : Nat
  buoy : Nat
  state : Nat
  valid : Bool
  pinned : Bool
  home : Nat
  group : Nat
  chip : Nat
  gen : Nat
  sector : Nat
  deriving DecidableEq, Repr

/-- A connection over RoCEv2 (R508): a location-2 queue's, a file-store target's, or a pool host's. -/
inductive QpRef where
  | queue (q : Nat)
  | target (peer : Nat)
  | host (h : Nat)
  deriving DecidableEq, Repr

/-- Events of a Foghorn report (R560). -/
structure FogReport where
  id : Nat
  severity : Nat
  cls : Nat
  reporter : Nat
  deriving DecidableEq, Repr

/-- The operations of PCIe, SPDM, IDE and TDISP that name a function: port 0 or 1 and the function. -/
structure FnRef where
  port : Nat
  fn : Fn
  deriving DecidableEq, Repr

/-- A counter of R539: chip counter `k`, or counter `k` of core `c`. -/
inductive CounterRef where
  | chip (k : Nat)
  | core (c k : Nat)
  deriving DecidableEq, Repr

/-! ### Layer images and engine commands -/

/-- A layer-slot entry (R181). -/
structure LayerSlot where
  layerId : Nat
  kind : Nat
  kvFormat : Nat
  p : Nat
  dim32 : Nat
  g : Nat
  kvHeads : Nat
  window : Nat
  recBytes : Nat
  deriving DecidableEq, Repr

/-- An operand descriptor (R139). -/
structure Operand where
  address : Nat
  space : Nat
  format : Nat
  rows : Nat
  cols : Nat
  rowStride : Nat
  scaleOffset : Nat
  scaleStride : Nat
  deriving DecidableEq, Repr

/-- The sequencing field of an engine command (R169). -/
structure Sequencing where
  waitA : Nat
  waitAEn : Bool
  waitACount : Nat
  waitB : Nat
  waitBEn : Bool
  waitBCount : Nat
  fence : Bool
  signalSlot : Nat
  signalEn : Bool
  signalRemote : Bool
  remoteCore : Nat
  mStep : Bool
  stepEnd : Bool
  deriving DecidableEq, Repr

/-- An engine command (R138). -/
structure EngCmd where
  opcode : Nat
  acc : Bool
  sr : Bool
  sat : Bool
  layerId : Nat
  operatorId : Nat
  outFormat : Nat
  epilogue : Nat
  alpha : Nat
  beta : Nat
  param0 : Nat
  param1 : Nat
  seqn : Sequencing
  a : Operand
  b : Operand
  c : Operand
  d : Operand
  deriving DecidableEq, Repr

/-- A core-table entry (R182) with its two lists. Regions are (base, size) of LIST, WEIGHT, STATE, ACT, STEP, IO. -/
structure CoreEntry where
  index : Nat
  regions : List (Nat × Nat)
  step : List EngCmd
  refine : List EngCmd
  deriving DecidableEq, Repr

/-- A blob entry (R183) with its bytes. -/
structure Blob where
  size : Nat
  placement : Nat
  core : Nat
  sramOffset : Nat
  bytes : List Byte
  deriving DecidableEq, Repr

/-- A relocation entry (R184). -/
structure Reloc where
  core : Nat
  list : Nat
  operand : Nat
  command : Nat
  target : Nat
  deriving DecidableEq, Repr

/-- A segment entry (R185). `out` is direction 1. -/
structure SegEntry where
  out : Bool
  number : Nat
  mask : Nat
  ioOffset : Nat
  bytesPerRow : Nat
  deriving DecidableEq, Repr

/-- A mixture-of-experts entry (R194). -/
structure MoeEntry where
  layerId : Nat
  experts : Nat
  topK : Nat
  gateNorm : Nat
  selectCore : Nat
  firstCore : Nat
  perCore : Nat
  logitsOffset : Nat
  routeOffset : Nat
  deriving DecidableEq, Repr

/-- A signature section (R457) as the device finds it: its fields, whether each signature verifies over the message of
R458, and the SHA-256 of the public keys used. -/
structure Signature where
  signer : Nat
  securityVersion : Nat
  keyId : Nat
  ecdsaOk : Bool
  mldsaOk : Bool
  keysHash : Nat
  deriving DecidableEq, Repr

/-- What a check of a signature section's two signatures comes to, and the SHA-256 of the public keys used (R458). -/
structure SigVerdict where
  ecdsaOk : Bool
  mldsaOk : Bool
  keysHash : Nat
  deriving DecidableEq, Repr

/-- A layer image as read (R179 to R185): its header, its section table (kind, count, offset) and its sections. `sectionsOk` says that
mandatory sections are there, none but kinds 8 and 9 twice, sections lie in bounds and reserved fields are zero (R180, R187 check 2). -/
structure Image where
  magic : Nat
  version : Nat
  sectionsOk : Bool
  coreCount : Nat
  sections : List (Nat × Nat × Nat)
  recLayout : List Byte
  sig : Signature
  beacon : Bool
  modelRevision : Nat
  role : Nat
  groupSizeM1 : Nat
  position : Nat
  layerSlots : Nat
  kvHeads : Nat
  lps : Nat
  maxRows : Nat
  imageLength : Nat
  tier1Bytes : Nat
  tier0Bytes : Nat
  recBytes : Nat
  layerDigest : Nat
  slots : List LayerSlot
  cores : List CoreEntry
  blobs : List Blob
  relocs : List Reloc
  segs : List SegEntry
  moe : List MoeEntry
  deriving DecidableEq, Repr

/-- What of a session lies in a stack block that failed: nothing, its Buoy (R42), a page's header (R68), or the rest of its
parts. -/
inductive FaultPart where
  | nothing
  | buoy
  | page (stream ordinal : Nat)
  | part
  deriving DecidableEq, Repr

/-- A stack access of a command that stays uncorrectable (R424), or whose MAC fails twice (R430): the stack, channel
and block, the session whose part lies there (0 for none), and what of it. -/
structure StackFault where
  stack : Nat
  chan : Nat
  block : Nat
  mac : Bool
  sid : Nat
  what : FaultPart
  deriving DecidableEq, Repr

/-! ### Sectors and sessions -/

/-- A Sector descriptor of a composition map (R340). -/
structure SectorDesc where
  present : Bool
  isSealed : Bool
  userCounters : Bool
  cores : Nat
  t0d0 : Nat
  t0d1 : Nat
  t1Chunks : Nat
  groups : Nat
  t2Gib : Nat
  deriving DecidableEq, Repr

/-- A composition map (R340): header fields and sixteen descriptors. -/
structure SectorMap where
  magic : Nat
  version : Nat
  epoch : Nat
  reservedZero : Bool
  sects : List SectorDesc
  deriving DecidableEq, Repr

/-- A location field (R41): tier 0, 1 or 2 (3 for the none location) and the index of a 4 KiB unit. -/
structure Loc where
  tier : Nat
  unit : Nat
  deriving DecidableEq, Repr

/-- A session command's entry (R88). -/
structure SesCmd where
  hdr : EntryHdr
  sid : Nat
  explicit : Bool
  prefetch : Bool
  checkGen : Bool
  cold : Bool
  expectGen : Nat
  placement : Nat
  handleGroup : Nat
  handleChip : Nat
  handleSeq : Nat
  peerGroup : Nat
  peerChip : Nat
  deriving DecidableEq, Repr

/-- A session control message (R93). -/
structure SesMsg where
  kind : Nat
  opcode : Nat
  coldFallback : Bool
  explicit : Bool
  sid : Nat
  seq : Nat
  gen : Nat
  status : Nat
  failPos : Nat
  units : Nat
  aux : Nat
  deriving DecidableEq, Repr

/-- One key-value page of a session as its page table and header describe it (R49, R64). `bad` says that hdr_crc does
not verify (R68). -/
structure Page where
  stream : Nat
  ordinal : Nat
  loc : Loc
  shared : Bool
  dirty : Nat
  first : Nat
  valid : Nat
  cap : Nat
  format : Nat
  dim32 : Nat
  layerId : Nat
  kvHead : Nat
  key : Nat
  keyed : Bool
  bad : Bool
  deriving DecidableEq, Repr

/-- The geometry that a move compares (R115, R118): layer digest, lps, and the layer-slot table as bytes. -/
structure Geometry where
  modelRevision : Nat
  layerSlots : Nat
  kvHeads : Nat
  layerDigest : Nat
  lps : Nat
  slots : List LayerSlot
  deriving DecidableEq, Repr

/-- A digest-table entry (R209): the SHA-256 state as chaining words, tail and length, and its valid flag. -/
structure DigestEntry where
  words : List Nat
  tail : List Byte
  length : Nat
  valid : Bool
  deriving DecidableEq, Repr

/-- The move record of a source HEAD (R117). `claim` is 0 OPEN, 1 CLAIMED, 2 ABORTED. -/
structure MoveRecord where
  groupSize : Nat
  sid : Nat
  modelRevision : Nat
  claim : Nat
  claimGroup : Nat
  fromState : Nat
  gen : Nat
  ctx : Nat
  seq : Nat
  sourceGroup : Nat
  sourceChip : Nat
  chipIds : List Nat
  digest : DigestEntry
  deriving DecidableEq, Repr

/-- A session's control block CTRL (R53): what its 4 KiB hold beside the fields that its Buoy and Mooring give. `chip` and `gen` are
those of its last write. -/
structure Ctrl where
  chip : Nat
  gen : Nat
  carry : List Byte
  grmState : Nat
  grmStack : List Nat
  seed : Nat
  held : Option Nat
  toolSeq : Nat
  toolPos : Nat
  toolTag : Nat
  toolQueue : Nat
  detok : List Byte
  turnBytes : Nat
  deriving DecidableEq, Repr

/-- A Buoy (R40). `bad` says that its check does not verify (R42). -/
structure Buoy where
  sid : Nat
  state : Nat
  busy : Bool
  beacon : Bool
  refine : Bool
  vocab : Nat
  sector : Nat
  grammarId : Nat
  grammarOn : Bool
  pendingOp : Nat
  account : Nat
  mapEpoch : Nat
  ctx : Nat
  kvRoot : Loc
  remGroup : Nat
  remChip : Nat
  ctrlLoc : Loc
  recLoc : Loc
  statLoc : Loc
  adapterRef : Nat
  adapterRank : Nat
  sampler : Nat
  toolSeq : Nat
  toolPending : Bool
  waitSince : Nat
  gen : Nat
  bad : Bool
  deriving DecidableEq, Repr

/-- A source chip's move manifest with its objects as the reading chip finds them (R118, R119): the geometry and Buoy
objects, the pages, CTRL, REC and STAT sizes, whether every digest verifies, the adapter, and the bytes of each page and of REC
and STAT. -/
structure MoveManifest where
  geometry : Geometry
  buoy : Buoy
  pages : List Page
  ctrl : Ctrl
  recUnits : Nat
  statUnits : Nat
  digestsOk : Bool
  adapter : Option (List Byte)
  pageBytes : List (List Byte)
  recBytes : List Byte
  statBytes : List Byte
  deriving DecidableEq, Repr

/-- The bytes of a coded copy's objects as its members gave them (R103, R360): each page, REC and STAT. -/
structure CodedBytes where
  pages : List (List Byte)
  recBytes : List Byte
  statBytes : List Byte
  deriving DecidableEq, Repr

/-- Where a part of a session was lost (R112): on this chip, with what of the coded copy can be read; or on another chip of the group, as
HEAD learns of it: the context length of the copy that chip rebuilt from, none where no copy served. -/
inductive LossSite where
  | here (coded : Option CodedBytes)
  | elsewhere (rebuiltAt : Option Nat)
  deriving DecidableEq, Repr

/-- What a chip's own work for a session command met (R94, R103, R107, R112): all well, or an unreadable part; what of the coded copy
could be read then; whether the write-back of R102 was acknowledged. -/
structure WorkResult where
  unreadable : Bool
  coded : Option CodedBytes
  writeBackOk : Bool
  deriving DecidableEq, Repr

/-- The text and parameters of a TURN entry (R204). `payloadOk` says that the text lies inside the payload window. -/
structure TurnEntry where
  hdr : EntryHdr
  sid : Nat
  account : Nat
  vocab : Nat
  grammarId : Nat
  grammarOn : Bool
  tag : Nat
  payloadOffset : Nat
  text : List Byte
  egress : Nat
  mapEpoch : Nat
  maxNew : Nat
  toolSeq : Nat
  seed : Nat
  more : Bool
  tokenIds : Bool
  noSpec : Bool
  deadEnd : Bool
  parkHint : Nat
  temperature : Nat
  topK : Nat
  topP : Nat
  minP : Nat
  deriving DecidableEq, Repr

/-- A SEG flit (R218). -/
structure SegFlit where
  sector : Nat
  batch : Nat
  segment : Nat
  leaveOnly : Bool
  cut : Bool
  step : Nat
  mapEpoch : Nat
  rowsTotal : Nat
  rowsPort : Nat
  positionsTotal : Nat
  positionsPort : Nat
  bytesPerPosition : Nat
  headDaymark : Nat
  deriving DecidableEq, Repr

/-- A ROW flit (R219). -/
structure RowFlit where
  sid : Nat
  step : Nat
  batchRow : Nat
  invalid : Bool
  tree : Bool
  leave : Bool
  join : Bool
  lastChunk : Bool
  window : Bool
  ended : Bool
  qbase : Nat
  qcount : Nat
  prevCommit : Nat
  digests : Nat
  prevPath : List Nat
  account : Nat
  status : Nat
  parents : List Nat
  tBase : Nat
  tNew : List Nat
  deriving DecidableEq, Repr

/-- A TOKENS entry (R227). -/
structure TokensEntry where
  sid : Nat
  step : Nat
  batchRow : Nat
  valid : Bool
  leave : Bool
  maskLate : Bool
  emitted : Nat
  pathLen : Nat
  endReason : Nat
  status : Nat
  tokens : List Nat
  drafts : List Nat
  draftParents : List Nat
  draftNodes : Nat
  path : List Nat
  deriving DecidableEq, Repr

/-! ### Media, start-up and power -/

/-- A flash target's identity as its parameter page gives it (R435). -/
structure FlashTarget where
  chan : Nat
  target : Nat
  nvLpddr4 : Bool
  pageBytes : Nat
  spareBytes : Nat
  planes : Nat
  luns : Nat
  pagesPerBlock : Nat
  blocksPerLun : Nat
  deriving DecidableEq, Repr

/-- What a start finds at step 7 (R519): PLL lock, the stacks that train, the flash targets that answer, and each
channel's trained rate in MT/s (0 for a channel that does not train). -/
structure MediaEnv where
  pllLock : Bool
  trainedStacks : List Nat
  targets : List FlashTarget
  rates : List (Nat × Nat)
  deriving DecidableEq, Repr

/-- The firmware part of a Light List (R518, R461): signature, whether its GCM tag verifies, plaintext digest. -/
structure FwPart where
  sig : Signature
  tagOk : Bool
  digest : Nat
  deriving DecidableEq, Repr

/-- The configuration part of a Light List: signature, hash of its anchor keys, image signing keys listed, whether its
certificate section's keys are the device's, every LL field by register field key, whether it carries OWN_CFG.hb_ms,
the Sector composition, chunks reserved, the queue map, the peer table, and the 64 KiB extents of the flash table area
(R438, R518, R519). -/
structure CfgPart where
  sig : Signature
  anchor : Nat
  imageKeys : List Nat
  certsMatch : Bool
  fields : List (Nat × Nat)
  composition : SectorMap
  reservedChunks : List Nat
  queues : List QueueSpec
  peers : List (Nat × PeerEntry)
  tableExtents : Nat
  deriving DecidableEq, Repr

/-- A Light List as it lies in the NOR or in a host buffer (R518). -/
structure LightList where
  magic : Nat
  version : Nat
  bytes : Nat
  fw : FwPart
  cfg : CfgPart
  deriving DecidableEq, Repr

/-- What the ROM meets at steps 1 and 3 of a start (R451, R453). -/
structure RomEnv where
  pufOk : Bool
  countersOk : Bool
  uid : Nat
  deriving DecidableEq, Repr

/-- The wake sources of R533. -/
inductive WakeSource where
  | wakeN
  | comparator (k : Nat)
  | mctp
  deriving DecidableEq, Repr

/-- The source's bit in PWR_WAKE_EN (R533). -/
def WakeSource.bit : WakeSource → Nat
  | .wakeN => 0
  | .comparator k => 1 + k
  | .mctp => 5

/-- A debug token (R475). -/
structure DebugToken where
  magic : Nat
  level : Nat
  chipId : Nat
  nonce : Nat
  sig : Signature
  deriving DecidableEq, Repr

/-- An SPDM session and channel through which a message came (R467, R469): session 0 for none. -/
structure SecChannel where
  transport : Nat
  fn : Fn
  session : Nat
  deriving DecidableEq, Repr

/-! ### Composition and the shared tier -/

/-- A recomposition message (R345). -/
structure CompMsg where
  kind : Nat
  newEpoch : Nat
  present : Nat
  status : Nat
  failPos : Nat
  lastOldStep : List Nat
  deriving DecidableEq, Repr

/-- A pool request (R353). `tagOk` says whether its GCM tag verifies (R355). -/
structure PoolReq where
  op : Nat
  flags : Nat
  host : Nat
  tag : Nat
  handle : Nat
  mapEpoch : Nat
  offset : Nat
  length : Nat
  auxHandle : Nat
  auxOffset : Nat
  value : Nat
  data : List Byte
  tagOk : Bool
  deriving DecidableEq, Repr

/-- The fields of an extent command (R352). -/
structure ExtentCmd where
  hdr : EntryHdr
  host : Nat
  tier : Nat
  rights : Nat
  handle : Nat
  bytes : Nat
  drainUs : Nat
  deriving DecidableEq, Repr

/-- A pool response as a requester receives it (R354). -/
structure PoolResp where
  op : Nat
  load : Nat
  status : Nat
  tag : Nat
  credit : Nat
  result : Nat
  version : Nat
  data : List Byte
  deriving DecidableEq, Repr

/-! ### Vocabularies and grammars -/

/-- A trie node (R268). -/
structure TrieNode where
  value : Nat
  first : Nat
  next : Nat
  byte : Nat
  deriving DecidableEq, Repr

/-- A merge-table entry (R269). -/
structure MergeEntry where
  left : Nat
  right : Nat
  result : Nat
  rank : Nat
  deriving DecidableEq, Repr

/-- A vocabulary image as read from its bytes (R265 to R271). `sectionsOk` says that its section table, the places its tables name and its
reserved fields are in order; a piece is its input and output bytes. -/
structure VocabImage where
  magic : Nat
  version : Nat
  sectionsOk : Bool
  sig : Signature
  byteLevel : Bool
  prefixOn : Bool
  specialInText : Bool
  kind : Nat
  invalidMode : Nat
  pre : List Byte
  endToken : Nat
  unkToken : Nat
  byteBase : Nat
  unkScore : Nat
  imageLength : Nat
  digest : Nat
  attrs : List Nat
  pieces : List (List Byte × List Byte)
  trie : List TrieNode
  merges : List MergeEntry
  scores : List Nat
  classPages : List Nat
  classBytes : List (List Nat)
  breaks : List Nat
  normTrie : List TrieNode
  normRules : List (List Byte)
  specialTrie : List TrieNode
  deriving DecidableEq, Repr

/-- A grammar state (R286). -/
structure GramState where
  edgeFirst : Nat
  edgeCount : Nat
  returnable : Bool
  final : Bool
  maskRef : Nat
  deriving DecidableEq, Repr

/-- A grammar edge (R286); `call` is kind 1. -/
structure GramEdge where
  lo : Nat
  hi : Nat
  call : Bool
  target : Nat
  ret : Nat
  deriving DecidableEq, Repr

/-- A mask entry with its data (R287): a bitmap's bytes, a list's token IDs, and the context-dependent list. -/
structure GramMask where
  kind : Nat
  bitmap : List Byte
  ids : List Nat
  ctx : List Nat
  deriving DecidableEq, Repr

/-- A compiled grammar as read from its bytes (R285 to R287). -/
structure GramImage where
  magic : Nat
  version : Nat
  sectionsOk : Bool
  sig : Signature
  start : Nat
  vocabDigest : Nat
  tokens : Nat
  imageLength : Nat
  states : List GramState
  edges : List GramEdge
  masks : List GramMask
  deriving DecidableEq, Repr

/-- An image of either kind (R262). -/
inductive TokImage where
  | vocab (v : VocabImage)
  | gram (g : GramImage)
  deriving DecidableEq, Repr

/-- What TURN_CFG tells TAIL of a turn (R292). The sampling fields of the TURN entry travel with it (a log entry). -/
structure TurnCfg where
  sid : Nat
  vocab : Nat
  grammarId : Nat
  grammarOn : Bool
  deadEnd : Bool
  egress : Nat
  tag : Nat
  tokenIds : Bool
  noSpec : Bool
  maxNew : Nat
  seed : Nat
  temperature : Nat
  topK : Nat
  topP : Nat
  minP : Nat
  deriving DecidableEq, Repr

/-! ### Vector search -/

/-- The fields of VEC_QUERY (R316). -/
structure VecQuery where
  index : Nat
  rerank : Bool
  k : Nat
  l : Nat
  beam : Nat
  rerankN : Nat
  maxReads : Nat
  vectorOffset : Nat
  resultOffset : Nat
  deriving DecidableEq, Repr

/-! ### Checkpoint and restore -/

/-- A checkpoint message (R399). -/
structure CkptMsg where
  kind : Nat
  full : Bool
  sectors : Nat
  groupId : Nat
  status : Nat
  seq : Nat
  failPos : Nat
  entries : Nat
  deriving DecidableEq, Repr

/-- A chip entry of a manifest (R413), with the chip's layer-slot table. -/
structure CkptChip where
  groupId : Nat
  position : Nat
  chipId : Nat
  firstShard : Nat
  shards : Nat
  layerDigest : Nat
  slots : List LayerSlot
  deriving DecidableEq, Repr

/-- A shard entry of a manifest (R413). -/
structure ShardEntry where
  nguid : Nat
  lba : Nat
  blocks : Nat
  kind : Nat
  sector : Nat
  reference : Bool
  digest : Nat
  deriving DecidableEq, Repr

/-- A group entry of a manifest (R413): group, size, and the cut step of each covered Sector. -/
structure CkptGroup where
  groupId : Nat
  size : Nat
  cutSteps : List (Nat × Nat)
  deriving DecidableEq, Repr

/-- A manifest (R413). -/
structure Manifest where
  domain : Nat
  full : Bool
  seq : Nat
  baseSeq : Nat
  chainLen : Nat
  sectors : Nat
  modelRevision : Nat
  cutDaymark : Nat
  groups : List CkptGroup
  chips : List CkptChip
  shards : List ShardEntry
  deriving DecidableEq, Repr

/-- What an object of a shard holds (R408). -/
inductive CkptBody where
  | buoy (b : Buoy)
  | ctrl (c : Ctrl) (bytes : List Byte)
  | page (p : Page) (bytes : List Byte)
  | part (bytes : List Byte)
  | shared (key : Nat)
  | adapter (bytes : List Byte)
  | dropMark
  | record (r : MoveRecord)
  deriving DecidableEq, Repr

/-- An object of a shard: its 32-byte entry and what follows (R408). -/
structure CkptObj where
  kind : Nat
  layerId : Nat
  sid : Nat
  ordinal : Nat
  kvHead : Nat
  bytes : Nat
  body : CkptBody
  deriving DecidableEq, Repr

/-- A session as a chip of the target group takes it from a checkpoint chain (R415, R416): its Buoy and CTRL as the
source HEAD and TAIL give them, the pages, REC and STAT of the chip's own layers with their bytes, its move record, and its adapter. -/
structure RestoredSession where
  buoy : Buoy
  ctrl : Ctrl
  pages : List Page
  recUnits : Nat
  statUnits : Nat
  record : Option MoveRecord
  pageBytes : List (List Byte)
  recBytes : List Byte
  statBytes : List Byte
  adapter : Option (List Byte)
  deriving DecidableEq, Repr

/-- A shard as a chip reads it back (R407, R415): whether its hdr_crc holds, the domain and ckpt_seq of its header, whether the GCM tag
and the digest verify, and its objects. -/
structure ShardFile where
  hdrOk : Bool
  domain : Nat
  seq : Nat
  tagOk : Bool
  digestOk : Bool
  objects : List CkptObj
  deriving DecidableEq, Repr

/-- One checkpoint of a chain as the directory gives it (R413, R415): whether its slot is valid and its manifest matches the slot's digest,
the manifest, and the shards that this chip reads, by the index of their written entry. -/
structure ChainLink where
  slotOk : Bool
  digestOk : Bool
  manifest : Manifest
  files : List (Nat × ShardFile)
  deriving DecidableEq, Repr

/-- What a restore finds at one candidate (R415, R416): the ckpt_seq of its slot, its chain from the candidate back, and what the other
target chips find: their layer slots, whether their streams' pages fit, whether their tiers have room, and the first failure of a shard's
checks there (ST_OK for none). -/
structure RestoreCand where
  seq : Nat
  chain : List ChainLink
  otherSlots : List LayerSlot
  otherPagesFit : Bool
  otherRoom : Bool
  otherShards : Nat
  deriving DecidableEq, Repr

/-- The commands and events of the block, one constructor per row of the table. -/
inductive Instr where
  /-- REGISTER_WRITE (R6): A write to a register field that has no row of its own takes effect under its access code, or is ignored or counted when the writer is not allowed. -/
  | registerWrite (a : RegAccess) (value late : Nat)
  /-- RC_COUNTER_READ (R6): A read of an RC field returns its value and clears it in the same read, keeping any event that arrives during the read. -/
  | rcCounterRead (a : RegAccess) (late : Nat)
  /-- BAR0_BAD_ACCESS (R4): An access to BAR0 that is not naturally aligned or not of the register's full width completes with Unsupported Request and has no other effect. -/
  | bar0BadAccess (a : RegAccess) (write : Bool)
  /-- IDX_EPOCH_READ (R336): A read of IDX_EPOCHLn returns the low word of the index epoch and latches the high word for the next read of IDX_EPOCHHn. -/
  | idxEpochRead (a : RegAccess)
  /-- GLB_SCRATCH_LOCK (R575): Writing 1 to GLB_LOCK.scratch_lock locks the scratch registers until the next device reset. -/
  | glbScratchLock (m : Master) (same : Option (Nat × Nat))
  /-- SES_COMMIT (R78): Writing 1 captures the SH fields of SES_CFG, the Sector quotas and the Sector session-ID ranges into a pending set. -/
  | sesCommit (m : Master) (t : Nat)
  /-- SEL_COMMIT (R256): Writing 1 captures the SH fields of the merge slots into a pending set. -/
  | selCommit (m : Master) (t : Nat)
  /-- IDX_COMMIT (R333): Writing 1 captures the table-core fields of all Sectors into a pending set. -/
  | idxCommit (m : Master) (t : Nat)
  /-- SCT_COMMIT (R361): Writing 1 captures the Sector bandwidth shares into a pending set. -/
  | sctCommit (m : Master) (t : Nat)
  /-- LENS_COMMIT (R388): Writing 1 captures LENS_CFG.slot_w and the SH fields of every shaper and account entry into a pending set. -/
  | lensCommit (m : Master) (t : Nat)
  /-- CORE_SEQ_CFG_WRITE (R384): A write to CORE_SEQ_CFG shadows step_timeout until the core's Sector reaches its next step boundary, and applies refine_enable at once. -/
  | coreSeqCfgWrite (m : Master) (core value t : Nat)
  /-- COMMIT_FALLBACK_TIMER (R385): When no step boundary falls within 1 ms of a commit write, the pending set takes effect 1 ms after the write. -/
  | commitFallbackTimer (t : Nat)
  /-- SES_QUERY_GO (R84): Writing go while done is set starts a snapshot query of the Buoy of the session named in SES_QRY_SID. -/
  | sesQueryGo (m : Master)
  /-- SES_QUERY_DONE (R84): The Buoy query finishes, leaving a consistent snapshot and its status, and sets done. -/
  | sesQueryDone
  /-- PARK_WARM (R99): The session command copies the session's private tier-0 parts into tier 1 on every chip and commits PARKED_WARM, or falls back to a cold park. -/
  | parkWarm (c : SesCmd)
  /-- PARK_COLD (R100): The session command writes the session's parts to flash in a fixed order on every chip and commits PARKED_COLD. -/
  | parkCold (c : SesCmd)
  /-- REVIVE (R104): The session command reads a parked session back into tiers 0 and 1 on every chip and commits it READY or WAITING. -/
  | revive (c : SesCmd)
  /-- MOVE_OUT (R116): The session command exports the session's manifest, its parts and a move record to a peer group, and commits the session MOVING. -/
  | moveOut (c : SesCmd)
  /-- MOVE_IN (R119): The session command fetches and verifies a session exported by another group, claims its move record, and commits the session parked. -/
  | moveIn (c : SesCmd) (record : Option MoveRecord) (manifest : Option MoveManifest) (buoy : Nat)
  /-- MOVE_COMMIT (R120): At the source, the session command makes a claimed move final: the session becomes REMOTE, its parts are freed and its exports are revoked. -/
  | moveCommit (c : SesCmd)
  /-- MOVE_ABORT (R120): The session command changes an OPEN move claim to ABORTED and returns the source session to the state the move left. -/
  | moveAbort (c : SesCmd)
  /-- DROP (R122): The session command frees the session's parts and copies on every chip and returns its Buoy to ABSENT. -/
  | drop (c : SesCmd)
  /-- PREPARE (R94): A session control message reaches a chip, which checks its Buoy, reserves space, sets busy and forwards the message; on return to HEAD it decides GO, the cold fallback or CANCEL. -/
  | prepare (m : SesMsg) (manifest : Option MoveManifest) (buoy : Nat)
  /-- GO (R94): A chip forwards GO and starts its work for the session command. -/
  | go (m : SesMsg)
  /-- SESSION_WORK_COMPLETE (R94): A chip finishes its work for a session command and commits its Buoy and Locator entry, or reports a failure on DONE. -/
  | sessionWorkComplete (sid : Nat) (r : WorkResult)
  /-- DONE (R94): A chip forwards DONE after its own commit; on return to HEAD the command completes, or HEAD sends LOSE. -/
  | done (m : SesMsg) (claim : Nat)
  /-- SES_CANCEL (R94): A chip releases its reservation and clears busy without changing the generation, and forwards the message; on return to HEAD the command completes. -/
  | sesCancel (m : SesMsg)
  /-- LOSE (R95): A chip sets the session's Buoy to LOST, frees its private parts and forwards the message. -/
  | lose (m : SesMsg)
  /-- FINAL (R119): A destination chip commits its inbound Buoy to PARKED_WARM or PARKED_COLD, and destination HEAD installs the digest state. -/
  | final (m : SesMsg)
  /-- SESSION_MSG_RESEND (R97): A session control pass has not returned within 10 ms, so HEAD resends its last message and reports the first resend of the pass. -/
  | sessionMsgResend (sid t : Nat)
  /-- COORD_PASS_FAIL (R98): A pass still missing 10 ms after its 100th resend fails: HEAD completes the command with ST_SES_COORD and ends the held turn requests. -/
  | coordPassFail (sid t : Nat)
  /-- SESSION_SLOT_ADMIT (R106): When a park, revive or move slot frees, the next waiting revive or park starts in the prescribed order of classes and Sectors. -/
  | sessionSlotAdmit (t : Nat)
  /-- PAGE_MIGRATION_START (R62): Keeper firmware starts copying a page to another tier. -/
  | pageMigrationStart (sid stream ordinal : Nat) (dest : Loc)
  /-- PAGE_MIGRATION_SWITCH (R62): The page copy completes and is verified, and the page-table entry is switched in one 8-byte write. -/
  | pageMigrationSwitch (sid stream ordinal : Nat) (verified : Bool)
  /-- PART_LOSS_REBUILD (R112): A part of a session with a request in progress becomes unreadable; the chip rebuilds it from a qualifying copy and HEAD replays the positions, or the session is lost. -/
  | partLossRebuild (sid : Nat) (site : LossSite)
  /-- GEMM (R142): The engine command computes D = epi(alpha × A·B). -/
  | gemm (core img : Nat)
  /-- GEMM_GATED (R142): The engine command computes a gated product with SiLU. -/
  | gemmGated (core img : Nat)
  /-- GEMM_GATHER (R142): The engine command scatters weighted products of indexed rows into D. -/
  | gemmGather (core img : Nat)
  /-- NORM (R142): The engine command applies RMS normalisation and a weight to each row. -/
  | norm (core img : Nat)
  /-- ROPE (R142): The engine command applies rotary position embedding to the rows. -/
  | rope (core img : Nat)
  /-- ELEMWISE (R142): The engine command performs the elementwise operation that param0 selects. -/
  | elemwise (core img : Nat)
  /-- ATTN_FWD (R151): The engine command runs fused attention over the descriptors' key-value pages, tile by tile, with online softmax. -/
  | attnFwd (core img : Nat) (faults : List StackFault)
  /-- ATTN_BWD (R158): The engine command recomputes attention from the saved row statistics and produces dQ, dK and dV. -/
  | attnBwd (core img : Nat) (faults : List StackFault)
  /-- KV_APPEND (R156): The engine command quantises new key-value rows and appends them to pages or to the provisional block. -/
  | kvAppend (core img : Nat) (copying : List Nat)
  /-- RECUR (R196): The engine command updates each batch row's linear-recurrent state in place. -/
  | recur (core img : Nat)
  /-- DIST_TABLE (R313): The engine command computes per-query distance tables for vector search. -/
  | distTable (core t : Nat)
  /-- ADAPT (R142): The engine command adds each batch row's own low-rank adapter product to a projection output. -/
  | adapt (core img : Nat)
  /-- ENGINE_FAIL (R167): An engine fails its residue or parity check, so its running command fails and the spare engine takes its place. -/
  | engineFail (core engine t : Nat)
  /-- COMMAND_COMPLETE (R170): An engine command completes or fails and delivers its signal, which may poison a slot, start a fixed-function unit or send an outbound segment. -/
  | commandComplete (core img index t : Nat)
  /-- ROUTE_BUILD_DONE (R195): The route builder finishes writing the routes and increments ROUTE_DONE on the cores that hold the experts. -/
  | routeBuildDone (sector entry t : Nat)
  /-- CORE_STEP_START (R173): Keeper firmware starts a step on a core, and the sequencer resets the scoreboard and begins at command 0. -/
  | coreStepStart (core step rows t : Nat)
  /-- CORE_STEP_END (R174): A core finishes its step list and outbound segments and reports the step's status, and three consecutive failed steps mark the image FAULTED. -/
  | coreStepEnd (core t : Nat)
  /-- REFINE_ISSUE (R175): While no step is pending, the sequencer issues the next command of the refine list. -/
  | refineIssue (core img : Nat)
  /-- STEP_WATCHDOG_EXPIRY (R177): The step watchdog expires, so every unfinished command fails with ST_IMG_TIMEOUT and every slot is poisoned. -/
  | stepWatchdogExpiry (core t : Nat)
  /-- STEP_BOUNDARY (R211): A batch step boundary falls on a chip: provisional rows are resolved, context lengths committed, configuration committed and batch membership changed. -/
  | stepBoundary (sector batch t : Nat)
  /-- IMAGE_LOAD (R187): The administration command reads a layer image, checks it and stages it. -/
  | imageLoad (hdr : EntryHdr) (sector sourceKind source length : Nat) (host : List Byte) (sig : SigVerdict)
  /-- IMAGE_ACTIVATE (R190): The administration command makes the staged image active at the next step boundary. -/
  | imageActivate (hdr : EntryHdr) (sector t : Nat)
  /-- IMAGE_ACTIVATE_TIMER (R190): When the Sector runs no step, activation is performed 1 ms after the command. -/
  | imageActivateTimer (sector t : Nat)
  /-- IMAGE_DISCARD (R186): The administration command frees the staged image. -/
  | imageDiscard (hdr : EntryHdr) (sector : Nat)
  /-- IMAGE_UNLOAD (R191): The administration command frees the active image when the Sector holds no session. -/
  | imageUnload (hdr : EntryHdr) (sector : Nat)
  /-- TURN (R205): A request-ingress entry starts a turn after its checks, creating the session or holding the request as needed. -/
  | turn (e : TurnEntry) (buoy t : Nat)
  /-- TURN_TEXT (R206): A request-ingress entry adds text to the open turn of a session. -/
  | turnText (hdr : EntryHdr) (sid tag payloadOffset : Nat) (text : List Byte) (more : Bool)
  /-- CANCEL (R206): A request-ingress entry ends the turn that its session ID and tag name. -/
  | cancel (hdr : EntryHdr) (sid tag : Nat)
  /-- HEAD_STEP_START (R212): HEAD starts a step of an interleaved batch, forming its rows, charging accounts and sending the segment. -/
  | headStepStart (sector batch t : Nat)
  /-- SEG (R220): A segment header flit of a step arrives and begins the step or segment on the receiving chip. -/
  | seg (f : SegFlit)
  /-- ROW (R222): A batch-row flit arrives, carrying joins, leaves, the outcome of the previous step and invalid marks. -/
  | row (f : RowFlit) (sector batch buoy : Nat)
  /-- DIGEST (R219): A flit arrives with eight further token digests of a row. -/
  | digest (sector batch sid : Nat) (ds : List Nat)
  /-- DATA (R220): A flit of segment data arrives and is staged, and IN is incremented when the segment is complete on every port. -/
  | data (sector batch segment : Nat) (last : Bool) (addr : Nat) (bytes : List Byte)
  /-- TOKENS (R227): A TOKENS flit from TAIL reaches HEAD, which logs the emitted tokens, completes ended turns and prepares the next rows. -/
  | tokens (sector batch : Nat) (e : TokensEntry)
  /-- EGRESS_RECORD_SEND (R230): When its shaper and ring room allow, the device delivers the next record of a streaming-egress queue, or ends the queue's turns on overrun. -/
  | egressRecordSend (q t : Nat)
  /-- WARM_PARK_TIMER (R232): warm_delay has passed since the session began to wait, so Keeper firmware issues PARK_WARM. -/
  | warmParkTimer (sid t : Nat)
  /-- COLD_PARK_CHECK (R232): At each change of Daymark bit 30, Keeper firmware issues PARK_COLD for sessions that have waited cold_delay units. -/
  | coldParkCheck (t : Nat)
  /-- SEL_JOB_DONE (R239): A selection job's last result is written and handed on, and SEL_DONE is incremented. -/
  | selJobDone (core img : Nat) (ties : List (List Nat)) (t : Nat)
  /-- SEL_MERGE (R249): When all sources' partial results for a row have arrived, the merge unit combines them into one result. -/
  | selMerge (slot row : Nat) (ties : List Nat) (heads : List (List Nat))
  /-- VOCAB_LOAD (R262): The administration command loads and checks a vocabulary image on HEAD and TAIL. -/
  | vocabLoad (hdr : EntryHdr) (id sectors sourceKind source length : Nat) (host : List Byte) (sig : SigVerdict) (t : Nat)
  /-- VOCAB_UNLOAD (R263): The administration command frees a vocabulary slot that no session, turn or grammar uses. -/
  | vocabUnload (hdr : EntryHdr) (id t : Nat)
  /-- GRAMMAR_LOAD (R262): The administration command loads and checks a compiled grammar on HEAD and TAIL. -/
  | grammarLoad (hdr : EntryHdr) (id sectors sourceKind source length : Nat) (host : List Byte) (sig : SigVerdict) (t : Nat)
  /-- GRAMMAR_UNLOAD (R263): The administration command frees a grammar slot that no turn uses. -/
  | grammarUnload (hdr : EntryHdr) (id t : Nat)
  /-- TOKEN_SLOT_TIMER (R262): With no step boundary within 1 ms, a checked load becomes resident, or an unload takes effect, 1 ms later. -/
  | tokenSlotTimer (t : Nat)
  /-- BULK_START (R502): A control message announces a bulk image transfer with its length and SHA-256. -/
  | bulkStart (transfer length sha : Nat) (isGram : Bool) (id sectors : Nat)
  /-- BULK (R502): A flit carries 248 bytes of a vocabulary or grammar image to TAIL. -/
  | bulk (transfer offset : Nat) (bytes : List Byte) (sig : SigVerdict)
  /-- TOKENIZE_ENTRY (R272): A free tokenizer lane takes the next ready entry in round-robin Sector order and tokenizes its text. -/
  | tokenizeEntry (t : Nat)
  /-- TURN_CFG (R292): TAIL receives a turn's vocabulary, grammar, policy and egress queue, checks the queue and sets the starting grammar configuration. -/
  | turnCfg (c : TurnCfg)
  /-- MASK_JOB_START (R295): Once a step's ROW flits have arrived, a mask job for its sampled rows is queued on the grammar engine. -/
  | maskJobStart (sector batch t : Nat)
  /-- GRM_SLICE_END (R296): A grammar engine slice ends, and the round robin moves to the next Sector. -/
  | grmSliceEnd (t : Nat)
  /-- MASK_READY (R291): A row's token mask is complete and is marked ready, releasing a selection row waiting on it. -/
  | maskReady (sector row t : Nat)
  /-- INDEX_CREATE (R317): The command opens a vector index from host memory or from a shared-tier extent. -/
  | indexCreate (hdr : EntryHdr) (index sourceKind source length : Nat) (content : List (Nat × List Byte))
  /-- INDEX_DROP (R318): The command drops an index, ending its waiting and running commands. -/
  | indexDrop (hdr : EntryHdr) (index : Nat)
  /-- VEC_QUERY (R319): The command admits a nearest-neighbour query and gathers it for a distance table. -/
  | vecQuery (hdr : EntryHdr) (q : VecQuery) (vector : List Byte) (t : Nat)
  /-- VEC_INSERT (R326): The command encodes a vector, searches for its neighbours and queues its write phase. -/
  | vecInsert (hdr : EntryHdr) (index key vectorOffset resultOffset : Nat) (vector : List Byte) (t : Nat)
  /-- VEC_DELETE (R327): The command tombstones a node at the next epoch. -/
  | vecDelete (hdr : EntryHdr) (index node : Nat)
  /-- QUERY_BATCH_TIMER (R319): batch_us expires after the first gathered query, and a DIST_TABLE for the gathered queries is issued. -/
  | queryBatchTimer (sector t : Nat)
  /-- TABLE_WAIT_TIMER (R314): A pending DIST_TABLE has waited table_wait_us, so it is issued ahead of the step list. -/
  | tableWaitTimer (core t : Nat)
  /-- QUERY_ROUND_DONE (R321): The record reads of a query round complete and are scored, the candidate list is updated, and the next round or the result follows. -/
  | queryRoundDone (query : Nat) (failed : List Nat)
  /-- INSERT_WRITE_PHASE (R325): The index writer runs an insert or delete write phase and sets the epoch once the translation layer acknowledges it. -/
  | insertWritePhase (index : Nat) (unreadable : Bool)
  /-- REPAIR_SWEEP (R329): Background repair re-prunes a record whose neighbour list names tombstoned nodes. -/
  | repairSweep (index : Nat) (unreadable : Bool)
  /-- NODE_SLOT_FREE (R330): Once no running query has a start epoch below its delete epoch, a repaired tombstoned node's slot is freed. -/
  | nodeSlotFree (index node : Nat)
  /-- SECTOR_COMPOSE (R341): The administration command checks and stages a new composition map. -/
  | sectorCompose (hdr : EntryHdr) (map : List Byte)
  /-- COMPOSE_REQ (R345): A chip that has staged a map asks HEAD, round the ring, for a composition pass. -/
  | composeReq (m : CompMsg) (t : Nat)
  /-- COMPOSE (R345): Each chip adopts or checks its staged map for the new epoch and forwards the message. -/
  | compose (m : CompMsg) (t : Nat)
  /-- SWITCH (R345): Each chip switches its current epoch and opens the grace period. -/
  | switch (m : CompMsg) (t : Nat)
  /-- COMPOSE_CANCEL (R345): Each chip discards its staged map. -/
  | composeCancel (m : CompMsg)
  /-- MAP_DRAIN_DONE (R344): The previous map's in-flight count reaches zero, so resources pass to the new map and the compose command completes. -/
  | mapDrainDone
  /-- GRACE_EXPIRY (R343): The grace period expires, and requests under the previous epoch are refused from then on. -/
  | graceExpiry (t : Nat)
  /-- EXTENT_CREATE (R352): The owner's command carves a pool extent from a host's partition. -/
  | extentCreate (c : ExtentCmd)
  /-- EXTENT_SHARE (R352): The owner's command adds a grant to an extent. -/
  | extentShare (c : ExtentCmd)
  /-- EXTENT_REVOKE (R358): The owner's command puts grants into DRAINING for revocation. -/
  | extentRevoke (c : ExtentCmd) (t : Nat)
  /-- GRANT_DESTROY (R358): A draining grant's in-flight count reaches zero or drain_us passes, so its key is destroyed and an emptied extent is zeroed. -/
  | grantDestroy (extent host t : Nat)
  /-- POOL_READ (R354): A pool request reads extent data after the exporter's checks. -/
  | poolRead (r : PoolReq) (t : Nat)
  /-- POOL_WRITE (R353): A pool request writes data into an extent. -/
  | poolWrite (r : PoolReq) (t : Nat)
  /-- POOL_FILL (R357): A near-memory operation repeats a pattern over a range. -/
  | poolFill (r : PoolReq) (t : Nat)
  /-- POOL_COPY (R357): A near-memory operation copies a source range to the target. -/
  | poolCopy (r : PoolReq) (t : Nat)
  /-- POOL_COMPARE (R357): A near-memory operation compares a range with data and, with swap set, writes atomically when they are equal. -/
  | poolCompare (r : PoolReq) (t : Nat)
  /-- POOL_REDUCE (R357): A near-memory operation sums or takes the maximum of data into target elements. -/
  | poolReduce (r : PoolReq) (t : Nat)
  /-- POOL_PUBLISH (R359): The writer of record stages a new version of a published region for the publish window. -/
  | poolPublish (r : PoolReq) (t : Nat)
  /-- POOL_HANDOVER (R359): The writer of record makes another host the writer of record, with an overlap. -/
  | poolHandover (r : PoolReq) (t : Nat)
  /-- POOL_RELEASE (R359): The old writer gives up its publishing right. -/
  | poolRelease (r : PoolReq) (t : Nat)
  /-- POOL_QUEUE_RELEASE (R356): A host's queued pool request proceeds when its token bucket allows. -/
  | poolQueueRelease (r : PoolReq) (t : Nat)
  /-- POOL_RESPONSE (R354): As a requester, the device receives a pool response, and discards it when the grant is closed. -/
  | poolResponse (p : PoolResp)
  /-- PUBLISH_WINDOW_END (R359): The publish window ends, so the winning staged publish becomes current and the others complete with ST_POOL_CONFLICT. -/
  | publishWindowEnd (extent t : Nat)
  /-- HANDOVER_OVERLAP_END (R359): The handover overlap passes, and the old writer loses its publishing right. -/
  | handoverOverlapEnd (extent t : Nat)
  /-- CODE_MEMBER_TIMEOUT (R360): A coding-set member has not acknowledged within code_timeout_ms and is left out of the coded copy. -/
  | codeMemberTimeout (sid member t : Nat)
  /-- LENS_SLOT_VISIT (R367): The Lens calendar visits a slot and releases or re-places its entries. -/
  | lensSlotVisit (slot t : Nat)
  /-- SAMPLE_SWEEP (R381): Every interval rotations, the sampler writes a marker and the depth and delay samples of the queues to the host ring. -/
  | sampleSweep (t : Nat)
  /-- CKPT_TAKE (R397): The coordinator checks the command and starts a checkpoint by sending QUIESCE. -/
  | ckptTake (hdr : EntryHdr) (sectors : Nat) (full peersAnswer : Bool) (newest t : Nat)
  /-- CKPT_RESTORE (R414): The target HEAD checks the command and restores a checkpoint chain from the file store. -/
  | ckptRestore (hdr : EntryHdr) (sectors : Nat) (cold : Bool) (seq sourceDomain sourceGroup : Nat) (seedStatus : Nat) (cands : List RestoreCand)
  /-- CKPT_INTERVAL_TIMER (R397): interval_s has passed, so the coordinator issues CKPT_TAKE internally. -/
  | ckptIntervalTimer (peersAnswer : Bool) (newest t : Nat)
  /-- QUIESCE (R400): HEAD stops sending GO for covered Sectors, checks the seeds, and sends READY once quiet. -/
  | quiesce (m : CkptMsg) (t : Nat)
  /-- CKPT_READY (R400): A group reports to the coordinator that it is quiet. -/
  | ckptReady (m : CkptMsg) (t : Nat)
  /-- QUIESCE_TIMEOUT (R400): READY has not arrived from every group within quiesce_ms, so the coordinator abandons the checkpoint. -/
  | quiesceTimeout (t : Nat)
  /-- CUT (R401): HEAD marks the next step of each covered batch as a cut step. -/
  | cut (m : CkptMsg) (t : Nat)
  /-- CHIP_CUT (R402): When the cut conditions hold, a chip advances its checkpoint epoch, swaps the touched sets and fixes the pending set. -/
  | chipCut (t : Nat)
  /-- CKPT_COPY (R405): The background copy packs pending objects into encrypted shards and writes them to the file store. -/
  | ckptCopy (fits writes : Bool) (t : Nat)
  /-- DEDUP_LIST_TIMEOUT (R411): After 10 ms without a peer's digest list, the list is treated as empty. -/
  | dedupListTimeout (t : Nat)
  /-- REPORT (R412): A chip's shard report reaches its HEAD or the coordinator; with every report in, the coordinator writes the manifest and the directory slot. -/
  | report (m : CkptMsg) (chips : List CkptChip) (shards : List ShardEntry) (groups : List CkptGroup) (manifestStatus t : Nat)
  /-- CKPT_COMMIT (R412): Each chip records the checkpoint as its base. -/
  | ckptCommit (m : CkptMsg) (t : Nat)
  /-- ABANDON (R412): The checkpoint is abandoned: held commands resume and touched sets are merged. -/
  | abandon (m : CkptMsg)
  /-- RESTORE_COMMIT (R418): Every chip has placed its objects, so Buoys, Locator entries and sharing tables are written. -/
  | restoreCommit (sectors : Nat) (cold : Bool) (sourceGroup : Nat) (cand : RestoreCand) (status : Nat)
  /-- STACK_TEMP_EVENT (R423): A stack sensor crosses 85, 100 or 110 °C, changing refresh, halving shares or halting access. -/
  | stackTempEvent (stack temp : Nat)
  /-- SCRUB_PASS (R425): Scrubbing reads a channel's regions and writes back corrected blocks. -/
  | scrubPass (stack chan corrected : Nat) (poison failedNodes : List Nat) (macFail : List Nat) (pinTwice retrainFail : Bool)
  /-- STK_SPARE_START (R449): Writing start begins sparing of the named channel. -/
  | stkSpareStart (m : Master) (stack chan : Nat)
  /-- CHANNEL_SPARE_DONE (R432): The sparing copy ends, and the spare takes the logical slot in one switch. -/
  | channelSpareDone (stack : Nat)
  /-- FLASH_PROGRAM_DONE (R439): A flash extent program succeeds, so the table entry is switched and the write acknowledged. -/
  | flashProgramDone (sector extent t : Nat) (ok : Bool)
  /-- FLASH_GC (R441): A LUN's free block groups fall below gc_low, so valid extents are relocated and a block group erased. -/
  | flashGc (lun : Nat) (unreadable : List Nat) (eraseOk : Bool) (t : Nat)
  /-- WEAR_LEVEL (R445): A LUN's erase-count spread exceeds wl_spread, so the least-erased data is relocated. -/
  | wearLevel (lun t : Nat)
  /-- READ_DISTURB_RELOCATE (R446): An erase block's read count or corrected bits reach the limit, so its block group is relocated. -/
  | readDisturbRelocate (lun group reads : Nat) (weak : Bool) (t : Nat)
  /-- RETENTION_SCAN (R447): The periodic scan reads written pages and relocates weak ones. -/
  | retentionScan (lun group : Nat) (weak : Bool) (unreadable : List Nat) (t : Nat)
  /-- TABLE_FLUSH (R442): Changed translation-table pages are written to flash within flush_ms. -/
  | tableFlush (t : Nat)
  /-- FLASH_CHANNEL_LOST (R436): A flash channel stops answering, its extents read as failed and a root fault is raised. -/
  | flashChannelLost (chan : Nat)
  /-- ANCHOR_SET (R459): The security message replaces the anchor record with a key_id that the current anchor signed. -/
  | anchorSet (ch : SecChannel) (keyId : Nat) (sig : Signature)
  /-- HOST_KEY_SET (R465): The security message installs a host key for a host that holds no grant. -/
  | hostKeySet (ch : SecChannel) (host key : Nat)
  /-- DOMAIN_SEED_SET (R465): The security message installs a checkpoint seed for a domain and Sectors. -/
  | domainSeedSet (ch : SecChannel) (sectors domain seed : Nat)
  /-- SVN_COMMIT (R460): The security message raises counters 0 and 1 to the running security versions. -/
  | svnCommit (ch : SecChannel) (counterOk : Bool)
  /-- DEBUG_CHALLENGE (R475): The security message returns a fresh nonce for a debug unlock. -/
  | debugChallenge (ch : SecChannel)
  /-- DEBUG_UNLOCK (R476): The security message verifies a token and raises the debug level, advancing counter 2 and erroring TDIs for level 2. -/
  | debugUnlock (ch : SecChannel) (tok : DebugToken) (counterOk : Bool)
  /-- EVIDENCE_PQ (R470): The security message returns the measurements signed with the ML-DSA-65 alias key. -/
  | evidencePq (ch : SecChannel) (nonce mask : Nat)
  /-- GET_VERSION (R469): The SPDM request returns the supported SPDM version. -/
  | getVersion (ch : SecChannel)
  /-- GET_CAPABILITIES (R469): The SPDM request returns the responder's capabilities. -/
  | getCapabilities (ch : SecChannel)
  /-- NEGOTIATE_ALGORITHMS (R469): The SPDM request selects the supported algorithms. -/
  | negotiateAlgorithms (ch : SecChannel) (p384 mldsa aes256gcm : Bool)
  /-- GET_DIGESTS (R469): The SPDM request returns the digests of the certificate chains. -/
  | getDigests (ch : SecChannel)
  /-- GET_CERTIFICATE (R456): The SPDM request returns a certificate chain, which is empty for slot 0 on a mismatch. -/
  | getCertificate (ch : SecChannel) (slot : Nat)
  /-- CHALLENGE (R469): The SPDM request authenticates the device with its identity key. -/
  | challenge (ch : SecChannel) (nonce : Nat)
  /-- GET_MEASUREMENTS (R470): The SPDM request returns the measurement blocks, filtered for a virtual function. -/
  | getMeasurements (ch : SecChannel) (index : Nat)
  /-- KEY_EXCHANGE (R469): The SPDM request opens a secure session, up to eight in all. -/
  | keyExchange (ch : SecChannel) (master : Nat) (mutualAuth anchorChain : Bool)
  /-- FINISH (R469): The SPDM request completes a secure session handshake. -/
  | finish (ch : SecChannel) (verified : Bool)
  /-- HEARTBEAT (R469): The SPDM request keeps a secure session alive. -/
  | heartbeat (ch : SecChannel)
  /-- KEY_UPDATE (R469): The SPDM request updates a secure session's keys. -/
  | keyUpdate (ch : SecChannel)
  /-- END_SESSION (R469): The SPDM request closes a secure session. -/
  | endSession (ch : SecChannel)
  /-- KEY_PROG (R471): The IDE_KM message programs a key into an IDE stream. -/
  | keyProg (ch : SecChannel) (port stream set key : Nat)
  /-- K_SET_GO (R471): The IDE_KM message activates a key set. -/
  | kSetGo (ch : SecChannel) (port stream set : Nat)
  /-- K_SET_STOP (R471): The IDE_KM message stops a key set. -/
  | kSetStop (ch : SecChannel) (port stream set : Nat)
  /-- IDE_KM_QUERY (R471): The IDE_KM QUERY message returns the port's IDE configuration. -/
  | ideKmQuery (ch : SecChannel) (port : Nat)
  /-- IDE_CHECK_FAIL (R471): A received TLP fails its IDE check, so it is dropped, the stream becomes insecure and its bound TDIs enter ERROR. -/
  | ideCheckFail (port stream : Nat)
  /-- GET_TDISP_VERSION (R472): The TDISP message returns the supported version. -/
  | getTdispVersion (ch : SecChannel) (tdi : Nat)
  /-- GET_TDISP_CAPABILITIES (R472): The TDISP message returns the device's capabilities. -/
  | getTdispCapabilities (ch : SecChannel) (tdi : Nat)
  /-- LOCK_INTERFACE_REQUEST (R474): The TDISP message locks a TDI's configuration, and fails while invasive debug is in force. -/
  | lockInterfaceRequest (ch : SecChannel) (tdi : Nat)
  /-- GET_DEVICE_INTERFACE_REPORT (R472): The TDISP message returns the TDI's windows, Sector, sealed flag and epoch. -/
  | getDeviceInterfaceReport (ch : SecChannel) (tdi : Nat)
  /-- GET_DEVICE_INTERFACE_STATE (R472): The TDISP message returns the TDI's state. -/
  | getDeviceInterfaceState (ch : SecChannel) (tdi : Nat)
  /-- START_INTERFACE_REQUEST (R472): The TDISP message moves a locked TDI to RUN. -/
  | startInterfaceRequest (ch : SecChannel) (tdi : Nat)
  /-- STOP_INTERFACE_REQUEST (R473): The TDISP message returns a TDI to CONFIG_UNLOCKED. -/
  | stopInterfaceRequest (ch : SecChannel) (tdi : Nat)
  /-- TAP_SEC_CHAL (R557): The TAP instruction shifts out a fresh debug nonce. -/
  | tapSecChal
  /-- TAP_SEC_TOKEN (R557): The TAP instruction takes a debug unlock token. -/
  | tapSecToken (tok : DebugToken) (counterOk : Bool)
  /-- FRZ_DATA (R558): Each capture reads 8 bytes at FRZ_ADDR during a freeze, subject to the debug level, and advances the address. -/
  | frzData (load : Option Nat) (blockOk : Bool)
  /-- EXTEST (R557): The TAP instruction drives and captures the boundary-scan cells. -/
  | extest (cells : List Bool)
  /-- OWN_CLAIM (R485): A write of the claim value, or of its complement within 1 ms, completes a master's claim, which takes ownership when the rules allow. -/
  | ownClaim (m : Master) (value t : Nat)
  /-- CLAIM_WINDOW_END (R486): The 2 s claim window closes, and the highest-priority claimant becomes owner. -/
  | claimWindowEnd (t : Nat)
  /-- OWN_HEARTBEAT (R488): A write by the owner renews ownership. -/
  | ownHeartbeat (m : Master) (t : Nat)
  /-- HEARTBEAT_LAPSE (R488): No heartbeat arrives for hb_ms, so ownership lapses and a new claim window opens. -/
  | heartbeatLapse (t : Nat)
  /-- OWN_HANDOVER (R489): The owner names a handover target. -/
  | ownHandover (m : Master) (target t : Nat)
  /-- HANDOVER_TIMEOUT (R489): The target has not claimed within 2 s, so the handover is cancelled. -/
  | handoverTimeout (t : Nat)
  /-- QUEUE_CREATE (R497): The administration command creates a queue of a given kind, owner and location. -/
  | queueCreate (hdr : EntryHdr) (q : QueueSpec)
  /-- QUEUE_DELETE (R497): The administration command stops fetching, ends the queue's turns and deletes the queue. -/
  | queueDelete (hdr : EntryHdr) (q : Nat)
  /-- PEER_SET (R511): The administration command writes a peer-table entry. -/
  | peerSet (hdr : EntryHdr) (index : Nat) (entry : PeerEntry)
  /-- ADMIN_UNKNOWN_OPCODE (R494): An administration entry with an opcode that no chapter accepts completes with ST_HOST_OPCODE. -/
  | adminUnknownOpcode (hdr : EntryHdr) (opcode : Nat)
  /-- QUE_SQ_TAIL (R494): A doorbell write of the submission tail lets the device fetch entries, and is ignored when out of range. -/
  | queSqTail (m : Master) (fn : Fn) (q tail : Nat)
  /-- QUE_CQ_HEAD (R495): A write of the completion head or consumed egress bytes frees ring room and releases held completions and records. -/
  | queCqHead (m : Master) (fn : Fn) (q head : Nat)
  /-- RDMA_DOORBELL (R492): An RDMA WRITE to a location-2 queue's doorbell updates its submission tail and completion head. -/
  | rdmaDoorbell (q tail head : Nat)
  /-- IRQ_COALESCE_TIMER (R496): delay_us after the first pending event, the queue's vector fires. -/
  | irqCoalesceTimer (q t : Nat)
  /-- VF_FLR (R499): A virtual-function FLR empties that Sector's queues on the port and unlocks its TDI. -/
  | vfFlr (port vf : Nat)
  /-- PF_FLR (R499): A PF FLR empties every queue on the port, clears its administration queue and may lapse ownership. -/
  | pfFlr (port t : Nat)
  /-- SURPRISE_LINK_DOWN (R499): A PCIe link goes down unannounced, making its queues DEAD and closing its IDE streams and SPDM sessions. -/
  | surpriseLinkDown (port t : Nat)
  /-- PCIE_LINK_RETURN (R499): A PCIe link returns, and the port enumerates afresh. -/
  | pcieLinkReturn (port speed width : Nat) (flitMode : Bool)
  /-- PERST (R517): A PCIe fundamental reset resets only its port. -/
  | perst (port t : Nat)
  /-- MCTP_CLAIM (R485): The MCTP vendor message carries both claim values for the baseboard controller. -/
  | mctpClaim (t : Nat)
  /-- MCTP_HEARTBEAT (R488): The MCTP vendor message is the baseboard owner's heartbeat. -/
  | mctpHeartbeat (t : Nat)
  /-- MCTP_ADMIN (R500): The MCTP vendor message carries one submission entry, up to four outstanding. -/
  | mctpAdmin (hdr : EntryHdr)
  /-- REGREAD (R500): The MCTP vendor message reads one BAR0 register as a PF access by master 3. -/
  | regread (off width late : Nat)
  /-- REGWRITE (R500): The MCTP vendor message writes one BAR0 register as a PF access by master 3. -/
  | regwrite (off width value late : Nat)
  /-- PLDM_REQUEST (R500): A PLDM platform monitoring request returns sensor readings. -/
  | pldmRequest (sensor : Nat)
  /-- MCTP_CONTROL (R500): An MCTP control message is handled, including endpoint discovery. -/
  | mctpControl (command operand : Nat)
  /-- MCTP_LINK_LOSS (R488): The MCTP link is lost, lapsing ownership if the baseboard controller is owner. -/
  | mctpLinkLoss (t : Nat)
  /-- LINK_FRAME (R504): A Lemdin frame is received and checked: sequenced frames are delivered in order, credits and acks updated, and reserved classes dropped. -/
  | linkFrame (f : LinkFrame)
  /-- NAK (R504): A NAK makes the sender replay from the named sequence. -/
  | nak (port expected t : Nat)
  /-- LINK_RETRAIN (R504): Ten replays within 1 ms make the port retrain. -/
  | linkRetrain (port t : Nat)
  /-- PORT_TRAIN (R505): A port trains lanes, deskews and locks frames, and moves to identity exchange. -/
  | portTrain (port lanes : Nat)
  /-- PORT_TRAIN_TIMEOUT (R505): A port not trained within 50 ms is down, and retries every 1 s. -/
  | portTrainTimeout (port t : Nat)
  /-- IDENT (R24): An identity flit is checked against group and position, and the port goes up or into mismatch. -/
  | ident (port : Nat) (x : Ident)
  /-- LOC_QUERY (R506): A LOC query flit is answered from the same die's Locator copy within 24 ns. -/
  | locQuery (port exchange chip group : Nat) (sids : List Nat) (fecOk : Bool)
  /-- LOC_REPLY (R71): A querier receives a LOC reply and keeps or discards each answer by generation. -/
  | locReply (exchange chip : Nat) (replies : List LocEntry)
  /-- LANE_ERROR_THRESHOLD (R566): A lane loses lock or exceeds 1,000 FEC corrections in 1 ms, so the port drops it. -/
  | laneErrorThreshold (port lane : Nat)
  /-- LANE_DROP (R566): The LINK message makes both sides restripe without the named lane. -/
  | laneDrop (port lane : Nat)
  /-- LANE_TRAIN_RETRY (R566): A removed lane trains alone once every 1 s. -/
  | laneTrainRetry (port lane : Nat) (errorFree : Bool) (t : Nat)
  /-- LANE_ADD (R566): The LINK message returns a lane that has trained without error. -/
  | laneAdd (port lane : Nat)
  /-- LINK_DOWN_TIMER (R510): With no working DOWN port for down_ms, the Foghorn records a root fault. -/
  | linkDownTimer (t : Nat)
  /-- ETH_LINK_DOWN (R510): An Ethernet port's link goes down. -/
  | ethLinkDown (port : Nat)
  /-- ROCE_RETX_TIMEOUT (R508): retx_us expires, so the QP retransmits go-back-N, or enters the error state after seven retries and kills its queues. -/
  | roceRetxTimeout (qp : QpRef)
  /-- ECN_MARKED_PACKET (R508): A received ECN-marked packet is answered with a CNP. -/
  | ecnMarkedPacket (qp : QpRef)
  /-- CNP (R508): A received CNP halves the QP's rate, at most once per 50 µs. -/
  | cnp (qp : QpRef) (t : Nat)
  /-- CNP_RATE_RECOVER (R508): Each 500 µs without a CNP restores 1/16 of line rate. -/
  | cnpRateRecover (qp : QpRef) (t : Nat)
  /-- PTP_SYNC (R509): A PTP exchange measures the offset, and the Daymark is stepped or slewed. -/
  | ptpSync (offset : Int) (t : Nat)
  /-- POWER_ON_RESET (R517): The always-on supply rises and every domain resets. -/
  | powerOnReset (fitted : Option LightList) (env : RomEnv)
  /-- RESET_N (R517): The reset ball held low for at least 1 µs resets the device. -/
  | resetN (lowNs : Nat) (env : RomEnv)
  /-- BROWN_OUT (R535): The always-on regulator browns out, resetting the device. -/
  | brownOut (env : RomEnv)
  /-- PWR_CTRL_RESET (R517): The owner writes PWR_CTRL.reset and the device resets. -/
  | pwrCtrlReset (m : Master) (env : RomEnv)
  /-- RECOVERY_LOAD (R521): Writing PWR_RCV_CTRL.go verifies a host-supplied Light List, writes it to the NOR and resets. -/
  | recoveryLoad (m : Master) (image : LightList) (env : RomEnv)
  /-- FW_UPDATE (R523): The administration command verifies new firmware, exchanges the Keepers one by one, and reprograms the NOR. -/
  | fwUpdate (hdr : EntryHdr) (sourceKind : Nat) (image : LightList)
  /-- POWER_STATE_REQUEST (R532): Writing PWR_CTRL.go checks quietness and begins entry to SLEEP, DEEP or OFF. -/
  | powerStateRequest (m : Master) (target : Nat)
  /-- POWER_ENTRY_COMPLETE (R534): Entry completes, and asserted level wake sources start exit at once. -/
  | powerEntryComplete (env : RomEnv) (t : Nat)
  /-- WAKE_EVENT (R533): An enabled wake source wakes the device from SLEEP, DEEP or OFF, or abandons an entry in progress. -/
  | wakeEvent (src : WakeSource) (inLast8 : Bool) (env : RomEnv) (t : Nat)
  /-- COMPARATOR_MATCH (R529): The Daymark reaches a comparator's value, raising an edge event or asserting a level source. -/
  | comparatorMatch (k : Nat) (inLast8 : Bool) (env : RomEnv) (t : Nat)
  /-- QUAD_IDLE_TIMER (R531): A quad with no step or refine command for idle_us gates its clocks. -/
  | quadIdleTimer (quad t : Nat)
  /-- VCORE_PG_FALL (R530): VCORE_PG falls in RUN, so every quad is stretched to s = 12 and a root fault is raised. -/
  | vcorePgFall
  /-- POWER_STRETCH_ADJUST (R526): Every 1 µs, the power manager adjusts the ACLK stretch of each quad to hold the power limits. -/
  | powerStretchAdjust (powerMw avgMw overMs : Nat) (t : Nat)
  /-- CLK_DAYMARK_SET (R528): The owner's write sets the Daymark at the next REFCLK edge, unless PTP disciplines it. -/
  | clkDaymarkSet (m : Master) (value : Nat)
  /-- FREEZE (R556): FREEZE_N going low stops all clocks except AOCLK and TCK, and puts the stacks in self-refresh. -/
  | freeze (lowNs : Nat)
  /-- COUNTER_OVERFLOW (R544): A counter wraps, setting its overflow bit, raising its interrupt and latching a core sample. -/
  | counterOverflow (c : CounterRef) (stepNo cmdIndex : Nat)
  /-- LANTERN_FRAME (R551): Each frame slot, the Lantern port sends a trace frame of the slot's kind, or an idle frame. -/
  | lanternFrame
  /-- LANTERN_SYNC (R553): Every 1 µs, a sync record with the full Daymark is queued for a general slot. -/
  | lanternSync (t : Nat)
  /-- DEBUG_MEM_READ (R559): Writing DBG_MEM_CTRL.go at debug level 2 reads 256 plaintext bytes at a fall-back address. -/
  | debugMemRead (m : Master)
  /-- FOG_ENTRY_FREE (R562): Writing 1 to FOG_INFOe.valid frees and zeroes the entry. -/
  | fogEntryFree (m : Master) (e : Nat) (same : Option FogReport)
  /-- FOG_GAP_END (R563): The storm-limiter gap ends, and one interrupt fires for the deferred Foghorn causes. -/
  | fogGapEnd (t : Nat)
  /-- KEEPER_FAILOVER (R567): A Keeper fails its watchdog, SRAM or checks, and a spare takes its work and re-runs its journal. -/
  | keeperFailover (k : Nat)
  /-- VCORE_PG_RISE (R536): VCORE_PG rises after VCORE_EN, so cores and Keepers are powered and start on BOSC, continuing start-up step 5 or the DEEP exit. -/
  | vcorePgRise (env : MediaEnv) (t : Nat)
  /-- VCORE_PG_TIMEOUT (R580): VCORE_PG has not risen within 50 ms of VCORE_EN, so start-up ends with ST_PWR_CLOCK and the device enters recovery. -/
  | vcorePgTimeout (t : Nat)
  /-- SEQUENCER_CHECK_FAIL (R564): A core's sequencer fails its own checks, so the core is retired and a repair map is staged. -/
  | sequencerCheckFail (core : Nat)
  /-- COMPOSE_RESEND (R345): A recomposition pass has not returned within 10 ms, so HEAD resends its last message, and keeps doing so every 10 ms. -/
  | composeResend (t : Nat)
  /-- CKPT_MSG_RESEND (R399): A checkpoint message pass has not returned within 10 ms, so it is resent, and resent every 10 ms until it returns or the command fails. -/
  | ckptMsgResend (t : Nat)
  /-- DEDUP_DIGEST_LIST (R411): A replica peer's list of shared-page and adapter shard digests arrives, and the lowest chip ID writes each shared digest while the others record references. -/
  | dedupDigestList (chip : Nat) (digests : List Nat)
  /-- TOKEN_IMAGE_CHECK_REPORT (R262): TAIL's result of repeating the checks on a vocabulary or grammar image reaches HEAD, which fails the load or lets the slot become resident at the next boundary. -/
  | tokenImageCheckReport (isGram : Bool) (id status t : Nat)
  /-- RDMA_WRITE_ACK (R495): The acknowledgement of a location-2 record's RDMA WRITE arrives, and only then does the device write the queue's produce count. -/
  | rdmaWriteAck (q : Nat)
  /-- ETH_LINK_UP (R510): An Ethernet port's link comes up again, and NET_PORTp.link_up is set. -/
  | ethLinkUp (port : Nat)
  deriving DecidableEq, Repr

end Sys2Proof
end

