-- ==== Sys2Proof/Config.lean ====
section
/-!
DEFINITION. Config.lean: the values the spec leaves open. Each is an opaque constant: no proof can see what it is, so a
claim holds whatever it is (log entry 2).
-/
namespace Sys2Proof.Config

/-- A fresh value the device chooses and the spec leaves open (nonces, keys, remote keys, QP numbers): the `n`-th
drawn. -/
opaque freshValue : Nat → Nat

/-- The bytes of a certificate, a measurement block or a signature over a list of values: the standard's, not computed by the model
(log entry 8). -/
opaque digest : List Nat → Nat

/-- Where within its bound the result of an arithmetic function lies that the spec bounds and does not fix (exp, reciprocal, ln, GELU,
SiLU): the function's code and the operand's bits (log entry 110). -/
opaque mathFn : Nat → Nat → Nat

/-- The value of an operation for which the spec states no result: the operation's code and its operands. -/
opaque unstated : Nat → List Nat → Nat

end Sys2Proof.Config
end

