-- ==== Sys2Proof/Machine/Table.lean ====
section
/-!
DEFINITION. Machine/Table.lean: sparse tables (a list of key and value, keys rising) and the shapes of a register
field and of a register (R4 to R6).
-/
namespace Sys2Proof.Machine

/-- A sparse table: entries by rising key. -/
abbrev Tab (α : Type) := List (Nat × α)

/-- The entry at key `k`. -/
def Tab.look {α : Type} (k : Nat) : Tab α → Option α
  | [] => none
  | (j, v) :: t => if j = k then some v else Tab.look k t

/-- The table with the entry `v` at key `k`. -/
def Tab.put {α : Type} (k : Nat) (v : α) : Tab α → Tab α
  | [] => [(k, v)]
  | (j, w) :: t => if k < j then (k, v) :: (j, w) :: t else if j = k then (k, v) :: t else (j, w) :: Tab.put k v t

/-- The table without an entry at key `k`. -/
def Tab.del {α : Type} (k : Nat) : Tab α → Tab α
  | [] => []
  | (j, w) :: t => if j = k then Tab.del k t else (j, w) :: Tab.del k t

/-- The entry at key `k` changed by `f`, where there is one. -/
def Tab.upd {α : Type} (k : Nat) (f : α → α) : Tab α → Tab α
  | [] => []
  | (j, w) :: t => if j = k then (j, f w) :: Tab.upd k f t else (j, w) :: Tab.upd k f t

/-- Every entry changed by `f`. -/
def Tab.mapv {α β : Type} (f : Nat → α → β) : Tab α → Tab β
  | [] => []
  | (j, w) :: t => (j, f j w) :: Tab.mapv f t

/-- Does the table hold key `k`? -/
def Tab.has {α : Type} (k : Nat) (t : Tab α) : Bool := (Tab.look k t).isSome

/-- The entry at `k`, or `d`. -/
def Tab.getD {α : Type} (k : Nat) (d : α) (t : Tab α) : α := (Tab.look k t).getD d

/-- The first key at or after `lo` and below `hi` that the table does not hold. -/
def Tab.firstFree {α : Type} (t : Tab α) : (lo fuel : Nat) → Option Nat
  | _, 0 => none
  | lo, n + 1 => if Tab.has lo t then Tab.firstFree t (lo + 1) n else some lo

/-- Keys strictly rise. -/
def Tab.rising {α : Type} : Tab α → Bool
  | [] => true
  | (j, _) :: t => t.all (fun e => decide (j < e.1)) && Tab.rising t

/-- The access codes of R6. -/
inductive Acc where
  | ro | rw | sh | w1c | w1s | rc | wo | rwl
  deriving DecidableEq, Repr

/-- One register field: offset in BAR0 of its register, lowest bit, width, access code, reset value, LL mark. -/
structure Fld where
  off : Nat
  lo : Nat
  width : Nat
  acc : Acc
  reset : Nat
  ll : Bool
  deriving DecidableEq, Repr

/-- The key under which the field's value is kept. -/
def Fld.key (f : Fld) : Nat := f.off * 64 + f.lo

/-- The same field of the register `d` bytes further on. -/
def Fld.shift (f : Fld) (d : Nat) : Fld := { f with off := f.off + d }

/-- One row of a register table: a register, or an array of one or two dimensions (stride, count), outer first. -/
structure RegDesc where
  name : String
  base : Nat
  dims : List (Nat × Nat)
  width : Nat
  fields : List Fld
  deriving DecidableEq, Repr

/-- Does the remainder `r` fall on an element of the array? -/
def hitDims : Nat → List (Nat × Nat) → Bool
  | r, [] => r == 0
  | r, (st, ct) :: ds => decide (r / st < ct) && hitDims (r % st) ds

/-- Does the register (one of the array) lie at offset `o`? -/
def RegDesc.hit (d : RegDesc) (o : Nat) : Bool := decide (d.base ≤ o) && hitDims (o - d.base) d.dims

/-- The fields of the register at offset `o` of the array. -/
def RegDesc.fieldsAt (d : RegDesc) (o : Nat) : List Fld := d.fields.map (fun f => f.shift (o - d.base))

end Sys2Proof.Machine
end

