-- ==== Sys2Proof/Machine/RegTable.lean ====
section
/-!
DEFINITION. Machine/RegTable.lean: every register field of BAR0, written from the register tables of the chapters
(R33 to R37, R76 to R86, and so on: each register names its rule). A field is its register's offset, its lowest bit,
its width, its access code (R6), its reset value, and whether the Light List loads it (LL: zero before loading).
-/
namespace Sys2Proof.Machine

namespace Reg.GLB_ID -- R33, 01_architecture.md
def part_number : Fld := ⟨0x00000000, 16, 16, .ro, 0x6120, false⟩
def die_step : Fld := ⟨0x00000000, 8, 8, .ro, 0x1, false⟩
def package_step : Fld := ⟨0x00000000, 0, 8, .ro, 0x1, false⟩
end Reg.GLB_ID

namespace Reg.GLB_ROLE -- R34, 01_architecture.md
def group_size_m1 : Fld := ⟨0x00000004, 16, 7, .ro, 0x0, true⟩
def position : Fld := ⟨0x00000004, 8, 7, .ro, 0x0, true⟩
def role : Fld := ⟨0x00000004, 0, 3, .ro, 0x0, true⟩
end Reg.GLB_ROLE

namespace Reg.GLB_GROUP -- R35, 01_architecture.md
def chip_id : Fld := ⟨0x00000008, 16, 16, .ro, 0x0, true⟩
def group_id : Fld := ⟨0x00000008, 0, 16, .ro, 0x0, true⟩
end Reg.GLB_GROUP

namespace Reg.GLB_CAP -- R36, 01_architecture.md
def active_keepers : Fld := ⟨0x0000000C, 24, 4, .ro, 0x8, false⟩
def spare_engines : Fld := ⟨0x0000000C, 16, 6, .ro, 0x20, false⟩
def active_engines : Fld := ⟨0x0000000C, 8, 8, .ro, 0x80, false⟩
def active_cores : Fld := ⟨0x0000000C, 0, 6, .ro, 0x20, false⟩
end Reg.GLB_CAP

namespace Reg.GLB_PORTMAP -- R37, 01_architecture.md
def port_use : Fld := ⟨0x00000010, 0, 16, .ro, 0x0, true⟩
end Reg.GLB_PORTMAP

namespace Reg.GLB_UID_LO -- R574, 18_register_index_and_balls.md
def uid_lo : Fld := ⟨0x00000014, 0, 32, .ro, 0x0, false⟩
end Reg.GLB_UID_LO

namespace Reg.GLB_UID_HI -- R574, 18_register_index_and_balls.md
def uid_hi : Fld := ⟨0x00000018, 0, 32, .ro, 0x0, false⟩
end Reg.GLB_UID_HI

namespace Reg.GLB_LOCK -- R574, 18_register_index_and_balls.md
def scratch_lock : Fld := ⟨0x0000001C, 0, 1, .w1s, 0x0, false⟩
end Reg.GLB_LOCK

namespace Reg.GLB_IRQ -- R574, 18_register_index_and_balls.md
def error_entry : Fld := ⟨0x00000040, 2, 1, .w1c, 0x0, false⟩
def root_fault : Fld := ⟨0x00000040, 1, 1, .w1c, 0x0, false⟩
def owner_change : Fld := ⟨0x00000040, 0, 1, .w1c, 0x0, false⟩
end Reg.GLB_IRQ

namespace Reg.GLB_SCRATCH -- R574, 18_register_index_and_balls.md
def value (i : Nat) : Fld := ⟨0x00000020 + 0x4 * i, 0, 32, .rwl, 0x0, false⟩
end Reg.GLB_SCRATCH

namespace Reg.OWN_STATE -- R512, 15_host_links_network.md
def changes : Fld := ⟨0x00010000, 16, 16, .ro, 0x0, false⟩
def state : Fld := ⟨0x00010000, 4, 4, .ro, 0x0, false⟩
def owner : Fld := ⟨0x00010000, 0, 4, .ro, 0x0, false⟩
end Reg.OWN_STATE

namespace Reg.OWN_CLAIM -- R512, 15_host_links_network.md
def value : Fld := ⟨0x00010004, 0, 32, .wo, 0x0, false⟩
end Reg.OWN_CLAIM

namespace Reg.OWN_SELF -- R512, 15_host_links_network.md
def master : Fld := ⟨0x00010008, 0, 2, .ro, 0x0, false⟩
end Reg.OWN_SELF

namespace Reg.OWN_HEARTBEAT -- R512, 15_host_links_network.md
def value : Fld := ⟨0x0001000C, 0, 32, .wo, 0x0, false⟩
end Reg.OWN_HEARTBEAT

namespace Reg.OWN_CFG -- R512, 15_host_links_network.md
def hb_ms : Fld := ⟨0x00010010, 16, 16, .rw, 0x0, true⟩
def priority : Fld := ⟨0x00010010, 0, 6, .ro, 0x0, true⟩
end Reg.OWN_CFG

namespace Reg.OWN_HANDOVER -- R512, 15_host_links_network.md
def pending : Fld := ⟨0x00010014, 31, 1, .ro, 0x0, false⟩
def target : Fld := ⟨0x00010014, 0, 2, .rw, 0x0, false⟩
end Reg.OWN_HANDOVER

namespace Reg.OWN_DENIED -- R512, 15_host_links_network.md
def count : Fld := ⟨0x00010018, 0, 32, .rc, 0x0, false⟩
end Reg.OWN_DENIED

namespace Reg.PWR_BOOT -- R537, 16_boot_clocks_power.md
def cause : Fld := ⟨0x00020000, 28, 4, .ro, 0x0, false⟩
def mode : Fld := ⟨0x00020000, 24, 4, .ro, 0x0, false⟩
def step : Fld := ⟨0x00020000, 16, 8, .ro, 0x0, false⟩
def status : Fld := ⟨0x00020000, 0, 16, .ro, 0x0, false⟩
end Reg.PWR_BOOT

namespace Reg.PWR_CTRL -- R537, 16_boot_clocks_power.md
def go : Fld := ⟨0x00020004, 31, 1, .wo, 0x0, false⟩
def reset : Fld := ⟨0x00020004, 30, 1, .wo, 0x0, false⟩
def target : Fld := ⟨0x00020004, 16, 3, .rw, 0x0, false⟩
def status : Fld := ⟨0x00020004, 0, 16, .ro, 0x0, false⟩
end Reg.PWR_CTRL

namespace Reg.PWR_STATUS -- R537, 16_boot_clocks_power.md
def state : Fld := ⟨0x00020008, 29, 3, .ro, 0x0, false⟩
def quads_idle : Fld := ⟨0x00020008, 0, 8, .ro, 0x0, false⟩
end Reg.PWR_STATUS

namespace Reg.PWR_RET -- R537, 16_boot_clocks_power.md
def banks : Fld := ⟨0x0002000C, 0, 16, .rw, 0x0, false⟩
end Reg.PWR_RET

namespace Reg.PWR_WAKE_EN -- R537, 16_boot_clocks_power.md
def sources : Fld := ⟨0x00020010, 0, 6, .rw, 0x1, false⟩
end Reg.PWR_WAKE_EN

namespace Reg.PWR_WAKE_CAUSE -- R537, 16_boot_clocks_power.md
def source : Fld := ⟨0x00020014, 0, 6, .ro, 0x0, false⟩
end Reg.PWR_WAKE_CAUSE

namespace Reg.PWR_CFG -- R537, 16_boot_clocks_power.md
def idle_us : Fld := ⟨0x00020018, 0, 16, .rw, 0x64, false⟩
end Reg.PWR_CFG

namespace Reg.PWR_AVS -- R537, 16_boot_clocks_power.md
def pg : Fld := ⟨0x0002001C, 31, 1, .ro, 0x0, false⟩
def vid : Fld := ⟨0x0002001C, 0, 8, .ro, 0xA0, false⟩
end Reg.PWR_AVS

namespace Reg.PWR_STRETCH -- R537, 16_boot_clocks_power.md
def count : Fld := ⟨0x00020020, 0, 32, .rc, 0x0, false⟩
end Reg.PWR_STRETCH

namespace Reg.PWR_ABORTS -- R537, 16_boot_clocks_power.md
def count : Fld := ⟨0x00020024, 0, 32, .rc, 0x0, false⟩
end Reg.PWR_ABORTS

namespace Reg.PWR_RCV_CTRL -- R537, 16_boot_clocks_power.md
def go : Fld := ⟨0x00020040, 0, 1, .wo, 0x0, false⟩
end Reg.PWR_RCV_CTRL

namespace Reg.PWR_RCV_ADDR -- R537, 16_boot_clocks_power.md
def address : Fld := ⟨0x00020048, 0, 64, .rw, 0x0, false⟩
end Reg.PWR_RCV_ADDR

namespace Reg.PWR_RCV_LEN -- R537, 16_boot_clocks_power.md
def bytes : Fld := ⟨0x00020050, 0, 32, .rw, 0x0, false⟩
end Reg.PWR_RCV_LEN

namespace Reg.PWR_RCV_STATUS -- R537, 16_boot_clocks_power.md
def busy : Fld := ⟨0x00020054, 31, 1, .ro, 0x0, false⟩
def status : Fld := ⟨0x00020054, 0, 16, .ro, 0x0, false⟩
end Reg.PWR_RCV_STATUS

namespace Reg.CLK_STATUS -- R538, 16_boot_clocks_power.md
def pll_lock : Fld := ⟨0x00030000, 31, 1, .ro, 0x0, false⟩
def on_bosc : Fld := ⟨0x00030000, 0, 4, .ro, 0xF, false⟩
end Reg.CLK_STATUS

namespace Reg.CLK_DAYMARK -- R538, 16_boot_clocks_power.md
def ns : Fld := ⟨0x00030008, 0, 64, .ro, 0x0, false⟩
end Reg.CLK_DAYMARK

namespace Reg.CLK_DAYMARK_SET -- R538, 16_boot_clocks_power.md
def ns : Fld := ⟨0x00030010, 0, 64, .wo, 0x0, false⟩
end Reg.CLK_DAYMARK_SET

namespace Reg.CLK_CMP -- R538, 16_boot_clocks_power.md
def value (i : Nat) : Fld := ⟨0x00030020 + 0x8 * i, 0, 64, .rw, 0xFFFFFFFFFFFFFFFF, false⟩
end Reg.CLK_CMP

namespace Reg.CLK_CMPCTL -- R538, 16_boot_clocks_power.md
def level (i : Nat) : Fld := ⟨0x00030040 + 0x4 * i, 1, 1, .rw, 0x0, false⟩
def enable (i : Nat) : Fld := ⟨0x00030040 + 0x4 * i, 0, 1, .rw, 0x0, false⟩
end Reg.CLK_CMPCTL

namespace Reg.SEC_STATUS -- R483, 14_security.md
def anchor_set : Fld := ⟨0x00040000, 31, 1, .ro, 0x0, false⟩
def cert_mismatch : Fld := ⟨0x00040000, 30, 1, .ro, 0x0, false⟩
def debug_level : Fld := ⟨0x00040000, 28, 2, .ro, 0x0, false⟩
def sessions : Fld := ⟨0x00040000, 24, 4, .ro, 0x0, false⟩
def boot_status : Fld := ⟨0x00040000, 0, 16, .ro, 0x0, false⟩
end Reg.SEC_STATUS

namespace Reg.SEC_SVN_FW -- R483, 14_security.md
def counter : Fld := ⟨0x00040004, 0, 32, .ro, 0x0, true⟩
end Reg.SEC_SVN_FW

namespace Reg.SEC_SVN_CFG -- R483, 14_security.md
def counter : Fld := ⟨0x00040008, 0, 32, .ro, 0x0, true⟩
end Reg.SEC_SVN_CFG

namespace Reg.SEC_SVN_RUN -- R483, 14_security.md
def cfg : Fld := ⟨0x0004000C, 16, 16, .ro, 0x0, true⟩
def fw : Fld := ⟨0x0004000C, 0, 16, .ro, 0x0, true⟩
end Reg.SEC_SVN_RUN

namespace Reg.SEC_DBG_COUNT -- R483, 14_security.md
def count : Fld := ⟨0x00040010, 0, 32, .ro, 0x0, true⟩
end Reg.SEC_DBG_COUNT

namespace Reg.SEC_ANCHOR -- R483, 14_security.md
def key_id_lo : Fld := ⟨0x00040014, 0, 32, .ro, 0x0, true⟩
end Reg.SEC_ANCHOR

namespace Reg.SEC_ERR -- R483, 14_security.md
def key_refused : Fld := ⟨0x00040018, 5, 1, .w1c, 0x0, false⟩
def tdi_error : Fld := ⟨0x00040018, 4, 1, .w1c, 0x0, false⟩
def counter_fail : Fld := ⟨0x00040018, 3, 1, .w1c, 0x0, false⟩
def unlock_fail : Fld := ⟨0x00040018, 2, 1, .w1c, 0x0, false⟩
def sig_fail : Fld := ⟨0x00040018, 1, 1, .w1c, 0x0, false⟩
def rollback : Fld := ⟨0x00040018, 0, 1, .w1c, 0x0, false⟩
end Reg.SEC_ERR

namespace Reg.SEC_IDE_FAIL -- R483, 14_security.md
def count : Fld := ⟨0x0004001C, 0, 32, .rc, 0x0, false⟩
end Reg.SEC_IDE_FAIL

namespace Reg.SEC_SIG_FAIL -- R483, 14_security.md
def count : Fld := ⟨0x00040020, 0, 32, .rc, 0x0, false⟩
end Reg.SEC_SIG_FAIL

namespace Reg.SEC_KEYGEN -- R483, 14_security.md
def gen (i : Nat) : Fld := ⟨0x00040040 + 0x4 * i, 0, 32, .ro, 0x0, true⟩
end Reg.SEC_KEYGEN

namespace Reg.SEC_TDI -- R483, 14_security.md
def state (i : Nat) : Fld := ⟨0x00040080 + 0x4 * i, 30, 2, .ro, 0x0, false⟩
def cause (i : Nat) : Fld := ⟨0x00040080 + 0x4 * i, 0, 8, .ro, 0x0, false⟩
end Reg.SEC_TDI

namespace Reg.QUE_SQ_TAIL -- R513, 15_host_links_network.md
def tail (i : Nat) : Fld := ⟨0x01000000 + 0x1000 * i, 0, 16, .rw, 0x0, false⟩
end Reg.QUE_SQ_TAIL

namespace Reg.QUE_CQ_HEAD -- R513, 15_host_links_network.md
def head (i : Nat) : Fld := ⟨0x01000004 + 0x1000 * i, 0, 32, .rw, 0x0, false⟩
end Reg.QUE_CQ_HEAD

namespace Reg.QUE_INFO -- R513, 15_host_links_network.md
def state (i : Nat) : Fld := ⟨0x01000008 + 0x1000 * i, 28, 4, .ro, 0x0, false⟩
def sector (i : Nat) : Fld := ⟨0x01000008 + 0x1000 * i, 16, 4, .ro, 0x0, false⟩
def pf (i : Nat) : Fld := ⟨0x01000008 + 0x1000 * i, 15, 1, .ro, 0x0, false⟩
def location (i : Nat) : Fld := ⟨0x01000008 + 0x1000 * i, 10, 2, .ro, 0x0, false⟩
def kind (i : Nat) : Fld := ⟨0x01000008 + 0x1000 * i, 8, 2, .ro, 0x0, false⟩
def ring_log2 (i : Nat) : Fld := ⟨0x01000008 + 0x1000 * i, 0, 5, .ro, 0x0, false⟩
end Reg.QUE_INFO

namespace Reg.QUE_IRQ -- R513, 15_host_links_network.md
def delay_us (i : Nat) : Fld := ⟨0x0100000C + 0x1000 * i, 16, 16, .rw, 0x0, false⟩
def count (i : Nat) : Fld := ⟨0x0100000C + 0x1000 * i, 0, 16, .rw, 0x1, false⟩
end Reg.QUE_IRQ

namespace Reg.QUE_ERR -- R513, 15_host_links_network.md
def bad_doorbell (i : Nat) : Fld := ⟨0x01000010 + 0x1000 * i, 1, 1, .w1c, 0x0, false⟩
def cq_full (i : Nat) : Fld := ⟨0x01000010 + 0x1000 * i, 0, 1, .w1c, 0x0, false⟩
end Reg.QUE_ERR

namespace Reg.QUE_SQ_HEAD -- R513, 15_host_links_network.md
def head (i : Nat) : Fld := ⟨0x01000014 + 0x1000 * i, 0, 16, .ro, 0x0, false⟩
end Reg.QUE_SQ_HEAD

namespace Reg.SES_CFG -- R77, 02_session_state.md
def stat_max : Fld := ⟨0x06000000, 16, 12, .sh, 0x40, false⟩
def dedup_horizon : Fld := ⟨0x06000000, 8, 8, .sh, 0x0, true⟩
def tier0_write : Fld := ⟨0x06000000, 2, 1, .sh, 0x1, false⟩
def refine_stats : Fld := ⟨0x06000000, 1, 1, .sh, 0x0, false⟩
def dedup_enable : Fld := ⟨0x06000000, 0, 1, .sh, 0x0, true⟩
end Reg.SES_CFG

namespace Reg.SES_COMMIT -- R78, 02_session_state.md
def commit : Fld := ⟨0x06000004, 0, 1, .wo, 0x0, false⟩
end Reg.SES_COMMIT

namespace Reg.SES_BUOYS -- R79, 02_session_state.md
def in_use : Fld := ⟨0x06000008, 0, 25, .ro, 0x0, false⟩
end Reg.SES_BUOYS

namespace Reg.SES_ERR -- R80, 02_session_state.md
def id_overlap : Fld := ⟨0x0600000C, 6, 1, .w1c, 0x0, false⟩
def stack_short : Fld := ⟨0x0600000C, 5, 1, .w1c, 0x0, false⟩
def tier0_short : Fld := ⟨0x0600000C, 4, 1, .w1c, 0x0, false⟩
def lc_install_fail : Fld := ⟨0x0600000C, 3, 1, .w1c, 0x0, false⟩
def dedup_full : Fld := ⟨0x0600000C, 2, 1, .w1c, 0x0, false⟩
def page_mismatch : Fld := ⟨0x0600000C, 1, 1, .w1c, 0x0, false⟩
def buoy_check : Fld := ⟨0x0600000C, 0, 1, .w1c, 0x0, false⟩
end Reg.SES_ERR

namespace Reg.SES_LC_HIT -- R81, 02_session_state.md
def count : Fld := ⟨0x06000010, 0, 32, .rc, 0x0, false⟩
end Reg.SES_LC_HIT

namespace Reg.SES_LC_MISS -- R81, 02_session_state.md
def count : Fld := ⟨0x06000014, 0, 32, .rc, 0x0, false⟩
end Reg.SES_LC_MISS

namespace Reg.SES_DEDUP_HIT -- R81, 02_session_state.md
def count : Fld := ⟨0x06000018, 0, 32, .rc, 0x0, false⟩
end Reg.SES_DEDUP_HIT

namespace Reg.SES_DEDUP_ENTRIES -- R82, 02_session_state.md
def entries : Fld := ⟨0x0600001C, 0, 23, .ro, 0x0, false⟩
end Reg.SES_DEDUP_ENTRIES

namespace Reg.SES_QRY_SID -- R84, 02_session_state.md
def session_id : Fld := ⟨0x06000100, 0, 32, .rw, 0x0, false⟩
end Reg.SES_QRY_SID

namespace Reg.SES_QRY_CTRL -- R84, 02_session_state.md
def go : Fld := ⟨0x06000104, 0, 1, .wo, 0x0, false⟩
end Reg.SES_QRY_CTRL

namespace Reg.SES_QRY_STATUS -- R84, 02_session_state.md
def done : Fld := ⟨0x06000108, 31, 1, .ro, 0x1, false⟩
def status : Fld := ⟨0x06000108, 0, 16, .ro, 0x0, false⟩
end Reg.SES_QRY_STATUS

namespace Reg.SES_MOV_CFG -- R124, 03_park_revive_move.md
def warm_verify : Fld := ⟨0x06000300, 31, 1, .rw, 0x1, false⟩
def retain_cold : Fld := ⟨0x06000300, 30, 1, .rw, 0x1, false⟩
def warm_writeback : Fld := ⟨0x06000300, 29, 1, .rw, 0x0, false⟩
def coded_park : Fld := ⟨0x06000300, 28, 1, .rw, 0x0, false⟩
def warm_share : Fld := ⟨0x06000300, 16, 8, .rw, 0x40, false⟩
def max_cold : Fld := ⟨0x06000300, 0, 10, .rw, 0x100, false⟩
end Reg.SES_MOV_CFG

namespace Reg.SES_MOV_LIM -- R125, 03_park_revive_move.md
def max_warm : Fld := ⟨0x06000304, 16, 11, .rw, 0x400, false⟩
def pending_m1 : Fld := ⟨0x06000304, 0, 16, .rw, 0xFFFF, false⟩
end Reg.SES_MOV_LIM

namespace Reg.SES_MOV_ACTIVE -- R125, 03_park_revive_move.md
def warm : Fld := ⟨0x06000308, 16, 11, .ro, 0x0, false⟩
def cold : Fld := ⟨0x06000308, 0, 10, .ro, 0x0, false⟩
end Reg.SES_MOV_ACTIVE

namespace Reg.SES_MOV_PENDING -- R125, 03_park_revive_move.md
def parks : Fld := ⟨0x0600030C, 17, 15, .ro, 0x0, false⟩
def pending : Fld := ⟨0x0600030C, 0, 17, .ro, 0x0, false⟩
end Reg.SES_MOV_PENDING

namespace Reg.SES_MOV_ERR -- R126, 03_park_revive_move.md
def coord_fail : Fld := ⟨0x06000310, 7, 1, .w1c, 0x0, false⟩
def coord_resend : Fld := ⟨0x06000310, 6, 1, .w1c, 0x0, false⟩
def migrate_deferred : Fld := ⟨0x06000310, 5, 1, .w1c, 0x0, false⟩
def pending_full : Fld := ⟨0x06000310, 4, 1, .w1c, 0x0, false⟩
def move_aborted : Fld := ⟨0x06000310, 3, 1, .w1c, 0x0, false⟩
def verify_fail : Fld := ⟨0x06000310, 2, 1, .w1c, 0x0, false⟩
def lost_tier : Fld := ⟨0x06000310, 1, 1, .w1c, 0x0, false⟩
def resumed : Fld := ⟨0x06000310, 0, 1, .w1c, 0x0, false⟩
end Reg.SES_MOV_ERR

namespace Reg.SES_CBW_STALL -- R127, 03_park_revive_move.md
def value : Fld := ⟨0x06000314, 0, 32, .rc, 0x0, false⟩
end Reg.SES_CBW_STALL

namespace Reg.SES_REV_WARM -- R127, 03_park_revive_move.md
def value : Fld := ⟨0x06000318, 0, 32, .rc, 0x0, false⟩
end Reg.SES_REV_WARM

namespace Reg.SES_REV_COLD -- R127, 03_park_revive_move.md
def value : Fld := ⟨0x0600031C, 0, 32, .rc, 0x0, false⟩
end Reg.SES_REV_COLD

namespace Reg.SES_REV_MAXLAT -- R127, 03_park_revive_move.md
def value : Fld := ⟨0x06000320, 0, 32, .rc, 0x0, false⟩
end Reg.SES_REV_MAXLAT

namespace Reg.SES_SRV_CFG -- R235, 06_serving_loop.md
def spec_allow : Fld := ⟨0x06000400, 16, 1, .rw, 0x1, false⟩
def egress_hold_kib : Fld := ⟨0x06000400, 0, 16, .rw, 0x1000, false⟩
end Reg.SES_SRV_CFG

namespace Reg.SES_SRV_TRACK -- R235, 06_serving_loop.md
def in_use : Fld := ⟨0x06000404, 0, 19, .ro, 0x0, false⟩
end Reg.SES_SRV_TRACK

namespace Reg.SES_SRV_ERR -- R236, 06_serving_loop.md
def digest_state : Fld := ⟨0x06000408, 6, 1, .w1c, 0x0, false⟩
def tool_seq : Fld := ⟨0x06000408, 5, 1, .w1c, 0x0, false⟩
def spec_shape : Fld := ⟨0x06000408, 4, 1, .w1c, 0x0, false⟩
def egress_overrun : Fld := ⟨0x06000408, 3, 1, .w1c, 0x0, false⟩
def track_full : Fld := ⟨0x06000408, 2, 1, .w1c, 0x0, false⟩
def row_invalid : Fld := ⟨0x06000408, 1, 1, .w1c, 0x0, false⟩
def segment_mismatch : Fld := ⟨0x06000408, 0, 1, .w1c, 0x0, false⟩
end Reg.SES_SRV_ERR

namespace Reg.SES_SRV_STEPS -- R237, 06_serving_loop.md
def count : Fld := ⟨0x06000410, 0, 32, .rc, 0x0, false⟩
end Reg.SES_SRV_STEPS

namespace Reg.SES_SRV_TOKENS -- R237, 06_serving_loop.md
def count : Fld := ⟨0x06000414, 0, 32, .rc, 0x0, false⟩
end Reg.SES_SRV_TOKENS

namespace Reg.SES_SRV_DRAFTS_PROP -- R237, 06_serving_loop.md
def count : Fld := ⟨0x06000418, 0, 32, .rc, 0x0, false⟩
end Reg.SES_SRV_DRAFTS_PROP

namespace Reg.SES_SRV_DRAFTS_ACC -- R237, 06_serving_loop.md
def count : Fld := ⟨0x0600041C, 0, 32, .rc, 0x0, false⟩
end Reg.SES_SRV_DRAFTS_ACC

namespace Reg.SES_SRV_ROWS_INVALID -- R237, 06_serving_loop.md
def count : Fld := ⟨0x06000420, 0, 32, .rc, 0x0, false⟩
end Reg.SES_SRV_ROWS_INVALID

namespace Reg.SES_STATE_CNT -- R83, 02_session_state.md
def count (i : Nat) : Fld := ⟨0x06000044 + 0x4 * i, 0, 25, .ro, 0x0, false⟩
end Reg.SES_STATE_CNT

namespace Reg.SES_QRY_DATA -- R85, 02_session_state.md
def bytes (i : Nat) : Fld := ⟨0x06000140 + 0x4 * i, 0, 32, .ro, 0x0, false⟩
end Reg.SES_QRY_DATA

namespace Reg.SES_QUOTA -- R85, 02_session_state.md
def max_buoys (i : Nat) : Fld := ⟨0x06000200 + 0x4 * i, 0, 25, .sh, 0x0, true⟩
end Reg.SES_QUOTA

namespace Reg.SES_IDBASE -- R86, 02_session_state.md
def base (i : Nat) : Fld := ⟨0x06000240 + 0x8 * i, 0, 32, .sh, 0x0, true⟩
end Reg.SES_IDBASE

namespace Reg.SES_IDLIM -- R86, 02_session_state.md
def limit (i : Nat) : Fld := ⟨0x06000244 + 0x8 * i, 0, 32, .sh, 0x0, true⟩
end Reg.SES_IDLIM

namespace Reg.SES_SRV_BATCH -- R238, 06_serving_loop.md
def prefill_chunk (i : Nat) : Fld := ⟨0x06000440 + 0x4 * i, 20, 12, .rw, 0x200, false⟩
def batch_rows (i : Nat) : Fld := ⟨0x06000440 + 0x4 * i, 8, 12, .rw, 0x100, false⟩
def batches_m1 (i : Nat) : Fld := ⟨0x06000440 + 0x4 * i, 0, 7, .rw, 0x0, true⟩
end Reg.SES_SRV_BATCH

namespace Reg.SES_SRV_SPEC -- R238, 06_serving_loop.md
def spec_on (i : Nat) : Fld := ⟨0x06000480 + 0x4 * i, 16, 1, .rw, 0x0, false⟩
def b4 (i : Nat) : Fld := ⟨0x06000480 + 0x4 * i, 12, 4, .rw, 0x1, false⟩
def b3 (i : Nat) : Fld := ⟨0x06000480 + 0x4 * i, 8, 4, .rw, 0x1, false⟩
def b2 (i : Nat) : Fld := ⟨0x06000480 + 0x4 * i, 4, 4, .rw, 0x1, false⟩
def b1 (i : Nat) : Fld := ⟨0x06000480 + 0x4 * i, 0, 4, .rw, 0x1, false⟩
end Reg.SES_SRV_SPEC

namespace Reg.SES_SRV_PARK -- R238, 06_serving_loop.md
def pressure_pct (i : Nat) : Fld := ⟨0x060004C0 + 0x4 * i, 24, 7, .rw, 0x0, false⟩
def cold_delay (i : Nat) : Fld := ⟨0x060004C0 + 0x4 * i, 16, 8, .rw, 0xFF, false⟩
def warm_delay (i : Nat) : Fld := ⟨0x060004C0 + 0x4 * i, 0, 16, .rw, 0xFFFF, false⟩
end Reg.SES_SRV_PARK

namespace Reg.LENS_CFG -- R388, 11_shaping_and_budgets.md
def slot_w : Fld := ⟨0x06100000, 0, 10, .sh, 0x19, false⟩
end Reg.LENS_CFG

namespace Reg.LENS_COMMIT -- R388, 11_shaping_and_budgets.md
def commit : Fld := ⟨0x06100004, 0, 1, .wo, 0x0, false⟩
end Reg.LENS_COMMIT

namespace Reg.LENS_STATUS -- R388, 11_shaping_and_budgets.md
def pending : Fld := ⟨0x06100008, 31, 1, .ro, 0x0, false⟩
def slot : Fld := ⟨0x06100008, 0, 12, .ro, 0x0, false⟩
end Reg.LENS_STATUS

namespace Reg.LENS_ERR -- R389, 11_shaping_and_budgets.md
def account_end : Fld := ⟨0x0610000C, 3, 1, .w1c, 0x0, false⟩
def refund_sat : Fld := ⟨0x0610000C, 2, 1, .w1c, 0x0, false⟩
def samp_drop : Fld := ⟨0x0610000C, 1, 1, .w1c, 0x0, false⟩
def late : Fld := ⟨0x0610000C, 0, 1, .w1c, 0x0, false⟩
end Reg.LENS_ERR

namespace Reg.LENS_LATE -- R390, 11_shaping_and_budgets.md
def value : Fld := ⟨0x06100010, 0, 32, .rc, 0x0, false⟩
end Reg.LENS_LATE

namespace Reg.LENS_MAXLAG -- R390, 11_shaping_and_budgets.md
def value : Fld := ⟨0x06100014, 0, 32, .rc, 0x0, false⟩
end Reg.LENS_MAXLAG

namespace Reg.LENS_SAMP_DROP -- R390, 11_shaping_and_budgets.md
def value : Fld := ⟨0x06100018, 0, 32, .rc, 0x0, false⟩
end Reg.LENS_SAMP_DROP

namespace Reg.LENS_UNCOVERED -- R390, 11_shaping_and_budgets.md
def value : Fld := ⟨0x0610001C, 0, 32, .rc, 0x0, false⟩
end Reg.LENS_UNCOVERED

namespace Reg.LENS_SAMP_CFG -- R391, 11_shaping_and_budgets.md
def enable : Fld := ⟨0x06100020, 31, 1, .rw, 0x0, false⟩
def path : Fld := ⟨0x06100020, 20, 2, .rw, 0x0, false⟩
def ring_log2 : Fld := ⟨0x06100020, 16, 4, .rw, 0x0, false⟩
def interval : Fld := ⟨0x06100020, 0, 8, .rw, 0x1, false⟩
end Reg.LENS_SAMP_CFG

namespace Reg.LENS_SAMP_HEAD -- R391, 11_shaping_and_budgets.md
def head : Fld := ⟨0x06100030, 0, 32, .ro, 0x0, false⟩
end Reg.LENS_SAMP_HEAD

namespace Reg.LENS_SAMP_TAIL -- R391, 11_shaping_and_budgets.md
def tail : Fld := ⟨0x06100034, 0, 32, .rw, 0x0, false⟩
end Reg.LENS_SAMP_TAIL

namespace Reg.LENS_SAMP_BASE -- R391, 11_shaping_and_budgets.md
def address : Fld := ⟨0x06100028, 12, 52, .rw, 0x0, false⟩
end Reg.LENS_SAMP_BASE

namespace Reg.LENS_QRATE -- R392, 11_shaping_and_budgets.md
def rate (i : Nat) : Fld := ⟨0x06140000 + 0x10 * i, 0, 32, .sh, 0x0, false⟩
end Reg.LENS_QRATE

namespace Reg.LENS_QDEPTH -- R392, 11_shaping_and_budgets.md
def depth (i : Nat) : Fld := ⟨0x06140004 + 0x10 * i, 0, 32, .sh, 0x0, false⟩
end Reg.LENS_QDEPTH

namespace Reg.LENS_QCTL -- R392, 11_shaping_and_budgets.md
def enable (i : Nat) : Fld := ⟨0x06140008 + 0x10 * i, 31, 1, .sh, 0x0, false⟩
def reset_mode (i : Nat) : Fld := ⟨0x06140008 + 0x10 * i, 30, 1, .sh, 0x0, false⟩
def unit (i : Nat) : Fld := ⟨0x06140008 + 0x10 * i, 29, 1, .sh, 0x0, false⟩
def sample (i : Nat) : Fld := ⟨0x06140008 + 0x10 * i, 28, 1, .sh, 0x1, false⟩
def overhead (i : Nat) : Fld := ⟨0x06140008 + 0x10 * i, 0, 16, .sh, 0x0, false⟩
end Reg.LENS_QCTL

namespace Reg.LENS_QTOK -- R392, 11_shaping_and_budgets.md
def tokens (i : Nat) : Fld := ⟨0x0614000C + 0x10 * i, 0, 32, .ro, 0x0, false⟩
end Reg.LENS_QTOK

namespace Reg.LENS_ARATE -- R393, 11_shaping_and_budgets.md
def rate (i : Nat) : Fld := ⟨0x06180000 + 0x10 * i, 0, 32, .sh, 0x0, false⟩
end Reg.LENS_ARATE

namespace Reg.LENS_ADEPTH -- R393, 11_shaping_and_budgets.md
def depth (i : Nat) : Fld := ⟨0x06180004 + 0x10 * i, 0, 32, .sh, 0x0, false⟩
end Reg.LENS_ADEPTH

namespace Reg.LENS_ACTL -- R393, 11_shaping_and_budgets.md
def enable (i : Nat) : Fld := ⟨0x06180008 + 0x10 * i, 31, 1, .sh, 0x0, false⟩
def reset_mode (i : Nat) : Fld := ⟨0x06180008 + 0x10 * i, 30, 1, .sh, 0x0, false⟩
def unmetered (i : Nat) : Fld := ⟨0x06180008 + 0x10 * i, 29, 1, .sh, 0x0, false⟩
def sector (i : Nat) : Fld := ⟨0x06180008 + 0x10 * i, 24, 4, .sh, 0x0, false⟩
def prefill_w (i : Nat) : Fld := ⟨0x06180008 + 0x10 * i, 16, 8, .sh, 0x10, false⟩
def decode_w (i : Nat) : Fld := ⟨0x06180008 + 0x10 * i, 8, 8, .sh, 0x10, false⟩
def row_charge (i : Nat) : Fld := ⟨0x06180008 + 0x10 * i, 0, 8, .sh, 0x0, false⟩
end Reg.LENS_ACTL

namespace Reg.LENS_ATOK -- R393, 11_shaping_and_budgets.md
def tokens (i : Nat) : Fld := ⟨0x0618000C + 0x10 * i, 0, 32, .ro, 0x0, false⟩
end Reg.LENS_ATOK

namespace Reg.LENS_PRATE -- R394, 11_shaping_and_budgets.md
def rate (i : Nat) : Fld := ⟨0x061A0000 + 0x10 * i, 0, 32, .sh, 0x0, false⟩
end Reg.LENS_PRATE

namespace Reg.LENS_PDEPTH -- R394, 11_shaping_and_budgets.md
def depth (i : Nat) : Fld := ⟨0x061A0004 + 0x10 * i, 0, 32, .sh, 0x0, false⟩
end Reg.LENS_PDEPTH

namespace Reg.LENS_PCTL -- R394, 11_shaping_and_budgets.md
def enable (i : Nat) : Fld := ⟨0x061A0008 + 0x10 * i, 31, 1, .sh, 0x0, false⟩
def reset_mode (i : Nat) : Fld := ⟨0x061A0008 + 0x10 * i, 30, 1, .sh, 0x0, false⟩
def overhead (i : Nat) : Fld := ⟨0x061A0008 + 0x10 * i, 0, 16, .sh, 0x14, false⟩
end Reg.LENS_PCTL

namespace Reg.LENS_PTOK -- R394, 11_shaping_and_budgets.md
def tokens (i : Nat) : Fld := ⟨0x061A000C + 0x10 * i, 0, 32, .ro, 0x0, false⟩
end Reg.LENS_PTOK

namespace Reg.TOK_SPACE -- R301, 08_tokens_and_grammar.md
def free_mib : Fld := ⟨0x06200000, 16, 16, .ro, 0x0, true⟩
def size_mib : Fld := ⟨0x06200000, 0, 16, .ro, 0x0, true⟩
end Reg.TOK_SPACE

namespace Reg.TOK_ERR -- R302, 08_tokens_and_grammar.md
def unk : Fld := ⟨0x06200004, 3, 1, .w1c, 0x0, false⟩
def pretoken_cut : Fld := ⟨0x06200004, 2, 1, .w1c, 0x0, false⟩
def rejected : Fld := ⟨0x06200004, 1, 1, .w1c, 0x0, false⟩
def invalid : Fld := ⟨0x06200004, 0, 1, .w1c, 0x0, false⟩
end Reg.TOK_ERR

namespace Reg.TOK_BYTES_IN -- R303, 08_tokens_and_grammar.md
def count : Fld := ⟨0x06200010, 0, 32, .rc, 0x0, false⟩
end Reg.TOK_BYTES_IN

namespace Reg.TOK_TOKENS_OUT -- R303, 08_tokens_and_grammar.md
def count : Fld := ⟨0x06200014, 0, 32, .rc, 0x0, false⟩
end Reg.TOK_TOKENS_OUT

namespace Reg.TOK_INVALID -- R303, 08_tokens_and_grammar.md
def count : Fld := ⟨0x06200018, 0, 32, .rc, 0x0, false⟩
end Reg.TOK_INVALID

namespace Reg.TOK_CARRIED -- R303, 08_tokens_and_grammar.md
def count : Fld := ⟨0x0620001C, 0, 32, .rc, 0x0, false⟩
end Reg.TOK_CARRIED

namespace Reg.TOK_DETOK_REPL -- R303, 08_tokens_and_grammar.md
def count : Fld := ⟨0x06200020, 0, 32, .rc, 0x0, false⟩
end Reg.TOK_DETOK_REPL

namespace Reg.TOK_VOCAB -- R301, 08_tokens_and_grammar.md
def resident (i : Nat) : Fld := ⟨0x06200040 + 0x4 * i, 31, 1, .ro, 0x0, false⟩
def loading (i : Nat) : Fld := ⟨0x06200040 + 0x4 * i, 30, 1, .ro, 0x0, false⟩
def kind (i : Nat) : Fld := ⟨0x06200040 + 0x4 * i, 28, 2, .ro, 0x0, false⟩
def sectors (i : Nat) : Fld := ⟨0x06200040 + 0x4 * i, 0, 16, .ro, 0x0, false⟩
end Reg.TOK_VOCAB

namespace Reg.GRM_CFG -- R305, 08_tokens_and_grammar.md
def slice_fclk : Fld := ⟨0x06300000, 16, 16, .rw, 0x800, false⟩
def late_report : Fld := ⟨0x06300000, 0, 1, .rw, 0x0, false⟩
end Reg.GRM_CFG

namespace Reg.GRM_ERR -- R306, 08_tokens_and_grammar.md
def stack_limit : Fld := ⟨0x06300004, 3, 1, .w1c, 0x0, false⟩
def eps_limit : Fld := ⟨0x06300004, 2, 1, .w1c, 0x0, false⟩
def dead : Fld := ⟨0x06300004, 1, 1, .w1c, 0x0, false⟩
def late : Fld := ⟨0x06300004, 0, 1, .w1c, 0x0, false⟩
end Reg.GRM_ERR

namespace Reg.GRM_MASKS -- R307, 08_tokens_and_grammar.md
def count : Fld := ⟨0x06300010, 0, 32, .rc, 0x0, false⟩
end Reg.GRM_MASKS

namespace Reg.GRM_LATE_ROWS -- R307, 08_tokens_and_grammar.md
def count : Fld := ⟨0x06300014, 0, 32, .rc, 0x0, false⟩
end Reg.GRM_LATE_ROWS

namespace Reg.GRM_LATE_WAIT -- R307, 08_tokens_and_grammar.md
def count : Fld := ⟨0x06300018, 0, 32, .rc, 0x0, false⟩
end Reg.GRM_LATE_WAIT

namespace Reg.GRM_DEAD -- R307, 08_tokens_and_grammar.md
def count : Fld := ⟨0x0630001C, 0, 32, .rc, 0x0, false⟩
end Reg.GRM_DEAD

namespace Reg.GRM_CTX_CHECKS -- R307, 08_tokens_and_grammar.md
def count : Fld := ⟨0x06300020, 0, 32, .rc, 0x0, false⟩
end Reg.GRM_CTX_CHECKS

namespace Reg.GRM_EPS_LIMIT -- R307, 08_tokens_and_grammar.md
def count : Fld := ⟨0x06300024, 0, 32, .rc, 0x0, false⟩
end Reg.GRM_EPS_LIMIT

namespace Reg.GRM_POOL -- R305, 08_tokens_and_grammar.md
def slots (i : Nat) : Fld := ⟨0x06300040 + 0x4 * i, 0, 16, .rw, 0x0, true⟩
end Reg.GRM_POOL

namespace Reg.GRM_GRAM -- R305, 08_tokens_and_grammar.md
def resident (i : Nat) : Fld := ⟨0x06300100 + 0x4 * i, 31, 1, .ro, 0x0, false⟩
def loading (i : Nat) : Fld := ⟨0x06300100 + 0x4 * i, 30, 1, .ro, 0x0, false⟩
def vocab_id (i : Nat) : Fld := ⟨0x06300100 + 0x4 * i, 16, 4, .ro, 0x0, false⟩
def sectors (i : Nat) : Fld := ⟨0x06300100 + 0x4 * i, 0, 16, .ro, 0x0, false⟩
end Reg.GRM_GRAM

namespace Reg.SEL_CFG -- R256, 07_selection_and_sampling.md
def nan_report : Fld := ⟨0x06380000, 0, 1, .rw, 0x0, false⟩
end Reg.SEL_CFG

namespace Reg.SEL_COMMIT -- R256, 07_selection_and_sampling.md
def commit : Fld := ⟨0x06380004, 0, 1, .wo, 0x0, false⟩
end Reg.SEL_COMMIT

namespace Reg.SEL_ERR -- R258, 07_selection_and_sampling.md
def nan_selected : Fld := ⟨0x06380008, 4, 1, .w1c, 0x0, false⟩
def k_clamp : Fld := ⟨0x06380008, 3, 1, .w1c, 0x0, false⟩
def no_valid : Fld := ⟨0x06380008, 2, 1, .w1c, 0x0, false⟩
def overlap : Fld := ⟨0x06380008, 1, 1, .w1c, 0x0, false⟩
def bad_job : Fld := ⟨0x06380008, 0, 1, .w1c, 0x0, false⟩
end Reg.SEL_ERR

namespace Reg.SEL_ROWS -- R259, 07_selection_and_sampling.md
def count : Fld := ⟨0x06380010, 0, 32, .rc, 0x0, false⟩
end Reg.SEL_ROWS

namespace Reg.SEL_SAMPLES -- R259, 07_selection_and_sampling.md
def count : Fld := ⟨0x06380014, 0, 32, .rc, 0x0, false⟩
end Reg.SEL_SAMPLES

namespace Reg.SEL_TAIL_CUT -- R259, 07_selection_and_sampling.md
def count : Fld := ⟨0x06380018, 0, 32, .rc, 0x0, false⟩
end Reg.SEL_TAIL_CUT

namespace Reg.SEL_NAN_ROWS -- R259, 07_selection_and_sampling.md
def count : Fld := ⟨0x0638001C, 0, 32, .rc, 0x0, false⟩
end Reg.SEL_NAN_ROWS

namespace Reg.SEL_ROWTAB -- R257, 07_selection_and_sampling.md
def address (i : Nat) (j : Nat) : Fld := ⟨0x06380100 + 0x10 * i + 0x8 * j, 0, 64, .rw, 0x0, false⟩
end Reg.SEL_ROWTAB

namespace Reg.SEL_MRG -- R257, 07_selection_and_sampling.md
def enable (i : Nat) : Fld := ⟨0x06380200 + 0x4 * i, 16, 1, .sh, 0x0, false⟩
def sector (i : Nat) : Fld := ⟨0x06380200 + 0x4 * i, 8, 4, .sh, 0x0, false⟩
def sources (i : Nat) : Fld := ⟨0x06380200 + 0x4 * i, 0, 6, .sh, 0x0, false⟩
end Reg.SEL_MRG

namespace Reg.IDX_CFG -- R333, 09_vector_search.md
def table_wait_us : Fld := ⟨0x06400000, 24, 8, .rw, 0x14, false⟩
def batch_us : Fld := ⟨0x06400000, 16, 8, .rw, 0x5, false⟩
def insert_par : Fld := ⟨0x06400000, 11, 5, .rw, 0x8, false⟩
def max_queries : Fld := ⟨0x06400000, 0, 11, .rw, 0x400, false⟩
end Reg.IDX_CFG

namespace Reg.IDX_COMMIT -- R333, 09_vector_search.md
def commit : Fld := ⟨0x06400004, 0, 1, .wo, 0x0, false⟩
end Reg.IDX_COMMIT

namespace Reg.IDX_ERR -- R334, 09_vector_search.md
def nan_dist : Fld := ⟨0x06400008, 2, 1, .w1c, 0x0, false⟩
def visited_full : Fld := ⟨0x06400008, 1, 1, .w1c, 0x0, false⟩
def read_error : Fld := ⟨0x06400008, 0, 1, .w1c, 0x0, false⟩
end Reg.IDX_ERR

namespace Reg.IDX_QUERIES -- R335, 09_vector_search.md
def count : Fld := ⟨0x06400010, 0, 32, .rc, 0x0, false⟩
end Reg.IDX_QUERIES

namespace Reg.IDX_READS -- R335, 09_vector_search.md
def count : Fld := ⟨0x06400014, 0, 32, .rc, 0x0, false⟩
end Reg.IDX_READS

namespace Reg.IDX_INSERTS -- R335, 09_vector_search.md
def count : Fld := ⟨0x06400018, 0, 32, .rc, 0x0, false⟩
end Reg.IDX_INSERTS

namespace Reg.IDX_DELETES -- R335, 09_vector_search.md
def count : Fld := ⟨0x0640001C, 0, 32, .rc, 0x0, false⟩
end Reg.IDX_DELETES

namespace Reg.IDX_READ_ERRORS -- R335, 09_vector_search.md
def count : Fld := ⟨0x06400020, 0, 32, .rc, 0x0, false⟩
end Reg.IDX_READ_ERRORS

namespace Reg.IDX_TABCORE -- R333, 09_vector_search.md
def core (i : Nat) : Fld := ⟨0x06400040 + 0x4 * i, 0, 5, .sh, 0x0, true⟩
end Reg.IDX_TABCORE

namespace Reg.IDX_STATE -- R336, 09_vector_search.md
def sector (i : Nat) : Fld := ⟨0x06400100 + 0x10 * i, 4, 4, .ro, 0x0, false⟩
def state (i : Nat) : Fld := ⟨0x06400100 + 0x10 * i, 0, 4, .ro, 0x0, false⟩
end Reg.IDX_STATE

namespace Reg.IDX_EPOCHL -- R336, 09_vector_search.md
def epoch_lo (i : Nat) : Fld := ⟨0x06400104 + 0x10 * i, 0, 32, .ro, 0x0, false⟩
end Reg.IDX_EPOCHL

namespace Reg.IDX_EPOCHH -- R336, 09_vector_search.md
def epoch_hi (i : Nat) : Fld := ⟨0x06400108 + 0x10 * i, 0, 16, .ro, 0x0, false⟩
end Reg.IDX_EPOCHH

namespace Reg.IDX_REPAIR -- R336, 09_vector_search.md
def passes (i : Nat) : Fld := ⟨0x0640010C + 0x10 * i, 16, 16, .ro, 0x0, false⟩
def share (i : Nat) : Fld := ⟨0x0640010C + 0x10 * i, 0, 8, .rw, 0x10, false⟩
end Reg.IDX_REPAIR

namespace Reg.POOL_CFG -- R362, 10_sectors_and_shared_tier.md
def drain_us : Fld := ⟨0x06500000, 16, 16, .rw, 0x3E8, false⟩
def pub_us : Fld := ⟨0x06500000, 8, 8, .rw, 0xA, false⟩
def code_timeout_ms : Fld := ⟨0x06500000, 0, 8, .rw, 0x14, false⟩
end Reg.POOL_CFG

namespace Reg.POOL_SIZE -- R362, 10_sectors_and_shared_tier.md
def t2_gib : Fld := ⟨0x06500004, 16, 16, .ro, 0x0, true⟩
def t1_chunks : Fld := ⟨0x06500004, 0, 16, .ro, 0x0, true⟩
end Reg.POOL_SIZE

namespace Reg.POOL_ERR -- R362, 10_sectors_and_shared_tier.md
def cap_locked : Fld := ⟨0x06500008, 4, 1, .w1c, 0x0, false⟩
def code_fail : Fld := ⟨0x06500008, 3, 1, .w1c, 0x0, false⟩
def code_degraded : Fld := ⟨0x06500008, 2, 1, .w1c, 0x0, false⟩
def late_discard : Fld := ⟨0x06500008, 1, 1, .w1c, 0x0, false⟩
def auth : Fld := ⟨0x06500008, 0, 1, .w1c, 0x0, false⟩
end Reg.POOL_ERR

namespace Reg.POOL_REQS -- R362, 10_sectors_and_shared_tier.md
def count : Fld := ⟨0x06500010, 0, 32, .rc, 0x0, false⟩
end Reg.POOL_REQS

namespace Reg.POOL_REVOKED -- R362, 10_sectors_and_shared_tier.md
def count : Fld := ⟨0x06500014, 0, 32, .rc, 0x0, false⟩
end Reg.POOL_REVOKED

namespace Reg.POOL_CONFLICTS -- R362, 10_sectors_and_shared_tier.md
def count : Fld := ⟨0x06500018, 0, 32, .rc, 0x0, false⟩
end Reg.POOL_CONFLICTS

namespace Reg.POOL_CODESET -- R362, 10_sectors_and_shared_tier.md
def enable : Fld := ⟨0x06500040, 31, 1, .rw, 0x0, false⟩
def d : Fld := ⟨0x06500040, 0, 3, .rw, 0x4, false⟩
end Reg.POOL_CODESET

namespace Reg.POOL_CODEMEM -- R362, 10_sectors_and_shared_tier.md
def handle (i : Nat) : Fld := ⟨0x06500060 + 0x8 * i, 32, 32, .rw, 0x0, false⟩
def valid (i : Nat) : Fld := ⟨0x06500060 + 0x8 * i, 8, 1, .rw, 0x0, false⟩
def host (i : Nat) : Fld := ⟨0x06500060 + 0x8 * i, 0, 8, .rw, 0x0, false⟩
end Reg.POOL_CODEMEM

namespace Reg.POOL_HOST_ID -- R362, 10_sectors_and_shared_tier.md
def kind (i : Nat) : Fld := ⟨0x06501000 + 0x10 * i, 30, 2, .rw, 0x0, true⟩
def id (i : Nat) : Fld := ⟨0x06501000 + 0x10 * i, 0, 16, .rw, 0x0, true⟩
end Reg.POOL_HOST_ID

namespace Reg.POOL_HOST_CAP -- R362, 10_sectors_and_shared_tier.md
def t2_gib (i : Nat) : Fld := ⟨0x06501004 + 0x10 * i, 16, 16, .rw, 0x0, true⟩
def t1_chunks (i : Nat) : Fld := ⟨0x06501004 + 0x10 * i, 0, 16, .rw, 0x0, true⟩
end Reg.POOL_HOST_CAP

namespace Reg.POOL_HOST_RATE -- R362, 10_sectors_and_shared_tier.md
def rate (i : Nat) : Fld := ⟨0x06501008 + 0x10 * i, 0, 16, .rw, 0x0, true⟩
end Reg.POOL_HOST_RATE

namespace Reg.POOL_HOST_STAT -- R362, 10_sectors_and_shared_tier.md
def extents (i : Nat) : Fld := ⟨0x0650100C + 0x10 * i, 16, 16, .ro, 0x0, false⟩
def load (i : Nat) : Fld := ⟨0x0650100C + 0x10 * i, 0, 2, .ro, 0x0, false⟩
end Reg.POOL_HOST_STAT

namespace Reg.CKPT_CFG -- R419, 12_checkpoint_restore.md
def interval_s : Fld := ⟨0x06600000, 16, 16, .rw, 0x0, false⟩
def quiesce_ms : Fld := ⟨0x06600000, 8, 8, .rw, 0x64, false⟩
def chain_max : Fld := ⟨0x06600000, 2, 6, .rw, 0x10, false⟩
end Reg.CKPT_CFG

namespace Reg.CKPT_DOMAIN -- R419, 12_checkpoint_restore.md
def domain_id : Fld := ⟨0x06600004, 16, 16, .rw, 0x0, true⟩
def keep : Fld := ⟨0x06600004, 12, 4, .rw, 0x2, false⟩
end Reg.CKPT_DOMAIN

namespace Reg.CKPT_STATUS -- R419, 12_checkpoint_restore.md
def phase : Fld := ⟨0x06600008, 28, 4, .ro, 0x0, false⟩
def status : Fld := ⟨0x06600008, 0, 16, .ro, 0x0, false⟩
end Reg.CKPT_STATUS

namespace Reg.CKPT_EPOCH -- R419, 12_checkpoint_restore.md
def epoch : Fld := ⟨0x0660000C, 0, 32, .ro, 0x1, false⟩
end Reg.CKPT_EPOCH

namespace Reg.CKPT_SEQ -- R419, 12_checkpoint_restore.md
def ckpt_seq : Fld := ⟨0x06600010, 0, 64, .ro, 0x0, false⟩
end Reg.CKPT_SEQ

namespace Reg.CKPT_ERR -- R419, 12_checkpoint_restore.md
def abandoned : Fld := ⟨0x06600018, 3, 1, .w1c, 0x0, false⟩
def target : Fld := ⟨0x06600018, 2, 1, .w1c, 0x0, false⟩
def verify : Fld := ⟨0x06600018, 1, 1, .w1c, 0x0, false⟩
def mixed : Fld := ⟨0x06600018, 0, 1, .w1c, 0x0, false⟩
end Reg.CKPT_ERR

namespace Reg.CKPT_MIB -- R419, 12_checkpoint_restore.md
def count : Fld := ⟨0x0660001C, 0, 32, .rc, 0x0, false⟩
end Reg.CKPT_MIB

namespace Reg.CKPT_REFS -- R419, 12_checkpoint_restore.md
def count : Fld := ⟨0x06600020, 0, 32, .rc, 0x0, false⟩
end Reg.CKPT_REFS

namespace Reg.CKPT_LAST_US -- R419, 12_checkpoint_restore.md
def count : Fld := ⟨0x06600024, 0, 32, .rc, 0x0, false⟩
end Reg.CKPT_LAST_US

namespace Reg.CKPT_PEER -- R419, 12_checkpoint_restore.md
def valid (i : Nat) : Fld := ⟨0x06600040 + 0x8 * i, 63, 1, .rw, 0x0, true⟩
def chip_id (i : Nat) : Fld := ⟨0x06600040 + 0x8 * i, 16, 16, .rw, 0x0, true⟩
def group_id (i : Nat) : Fld := ⟨0x06600040 + 0x8 * i, 0, 16, .rw, 0x0, true⟩
end Reg.CKPT_PEER

namespace Reg.CKPT_NS -- R419, 12_checkpoint_restore.md
def valid (i : Nat) : Fld := ⟨0x06600080 + 0x8 * i, 63, 1, .rw, 0x0, true⟩
def target (i : Nat) : Fld := ⟨0x06600080 + 0x8 * i, 48, 8, .rw, 0x0, true⟩
def nsid (i : Nat) : Fld := ⟨0x06600080 + 0x8 * i, 0, 32, .rw, 0x0, true⟩
end Reg.CKPT_NS

namespace Reg.SCT_CFG -- R361, 10_sectors_and_shared_tier.md
def grace_ms : Fld := ⟨0x06700000, 16, 16, .rw, 0x3E8, false⟩
end Reg.SCT_CFG

namespace Reg.SCT_COMMIT -- R361, 10_sectors_and_shared_tier.md
def commit : Fld := ⟨0x06700004, 0, 1, .wo, 0x0, false⟩
end Reg.SCT_COMMIT

namespace Reg.SCT_EPOCH -- R361, 10_sectors_and_shared_tier.md
def current : Fld := ⟨0x06700008, 16, 16, .ro, 0x0, true⟩
def previous : Fld := ⟨0x06700008, 0, 16, .ro, 0x0, false⟩
end Reg.SCT_EPOCH

namespace Reg.SCT_DRAIN -- R361, 10_sectors_and_shared_tier.md
def draining : Fld := ⟨0x0670000C, 31, 1, .ro, 0x0, false⟩
def old_inflight : Fld := ⟨0x0670000C, 0, 31, .ro, 0x0, false⟩
end Reg.SCT_DRAIN

namespace Reg.SCT_ERR -- R361, 10_sectors_and_shared_tier.md
def compose_cancel : Fld := ⟨0x06700010, 3, 1, .w1c, 0x0, false⟩
def share_over : Fld := ⟨0x06700010, 2, 1, .w1c, 0x0, false⟩
def repair_recompose : Fld := ⟨0x06700010, 1, 1, .w1c, 0x0, false⟩
def stale : Fld := ⟨0x06700010, 0, 1, .w1c, 0x0, false⟩
end Reg.SCT_ERR

namespace Reg.SCT_STALE -- R361, 10_sectors_and_shared_tier.md
def count : Fld := ⟨0x06700014, 0, 32, .rc, 0x0, false⟩
end Reg.SCT_STALE

namespace Reg.SCT_SWITCH_WAIT -- R361, 10_sectors_and_shared_tier.md
def count : Fld := ⟨0x06700018, 0, 32, .rc, 0x0, false⟩
end Reg.SCT_SWITCH_WAIT

namespace Reg.SCT_CORES -- R361, 10_sectors_and_shared_tier.md
def cores (i : Nat) : Fld := ⟨0x06700100 + 0x8 * i, 0, 32, .ro, 0x0, true⟩
end Reg.SCT_CORES

namespace Reg.SCT_INFO -- R361, 10_sectors_and_shared_tier.md
def present (i : Nat) : Fld := ⟨0x06700104 + 0x8 * i, 31, 1, .ro, 0x0, true⟩
def sealed (i : Nat) : Fld := ⟨0x06700104 + 0x8 * i, 30, 1, .ro, 0x0, true⟩
def user_counters (i : Nat) : Fld := ⟨0x06700104 + 0x8 * i, 29, 1, .ro, 0x0, true⟩
def t1_chunks (i : Nat) : Fld := ⟨0x06700104 + 0x8 * i, 0, 14, .ro, 0x0, true⟩
end Reg.SCT_INFO

namespace Reg.SCT_BW -- R361, 10_sectors_and_shared_tier.md
def ethernet (i : Nat) : Fld := ⟨0x06700200 + 0x8 * i, 24, 8, .sh, 0x0, true⟩
def lemdin (i : Nat) : Fld := ⟨0x06700200 + 0x8 * i, 16, 8, .sh, 0x0, true⟩
def flash (i : Nat) : Fld := ⟨0x06700200 + 0x8 * i, 8, 8, .sh, 0x0, true⟩
def stack (i : Nat) : Fld := ⟨0x06700200 + 0x8 * i, 0, 8, .sh, 0x0, true⟩
end Reg.SCT_BW

namespace Reg.SCT_BW2 -- R361, 10_sectors_and_shared_tier.md
def pcie (i : Nat) : Fld := ⟨0x06700204 + 0x8 * i, 0, 8, .sh, 0x0, true⟩
end Reg.SCT_BW2

namespace Reg.SCT_S_INFO -- R361, 10_sectors_and_shared_tier.md
def sector (i : Nat) : Fld := ⟨0x06701000 + 0x1000 * i, 28, 4, .ro, 0x0, true⟩
def cores (i : Nat) : Fld := ⟨0x06701000 + 0x1000 * i, 22, 6, .ro, 0x0, true⟩
def epoch (i : Nat) : Fld := ⟨0x06701000 + 0x1000 * i, 0, 16, .ro, 0x0, true⟩
end Reg.SCT_S_INFO

namespace Reg.SCT_S_THROTTLE -- R361, 10_sectors_and_shared_tier.md
def levels (i : Nat) : Fld := ⟨0x06701004 + 0x1000 * i, 0, 10, .ro, 0x0, false⟩
end Reg.SCT_S_THROTTLE

namespace Reg.SCT_S_ERR -- R361, 10_sectors_and_shared_tier.md
def stale (i : Nat) : Fld := ⟨0x06701008 + 0x1000 * i, 0, 1, .w1c, 0x0, false⟩
end Reg.SCT_S_ERR

namespace Reg.STK_CFG -- R449, 13_memory_media.md
def scrub_hours (i : Nat) : Fld := ⟨0x07000000 + 0x10000 * i, 24, 8, .rw, 0x18, false⟩
def spare_threshold (i : Nat) : Fld := ⟨0x07000000 + 0x10000 * i, 16, 8, .rw, 0x40, false⟩
def copy_share (i : Nat) : Fld := ⟨0x07000000 + 0x10000 * i, 8, 8, .rw, 0x40, false⟩
def auto_spare (i : Nat) : Fld := ⟨0x07000000 + 0x10000 * i, 0, 1, .rw, 0x1, false⟩
end Reg.STK_CFG

namespace Reg.STK_STATUS -- R449, 13_memory_media.md
def temp (i : Nat) : Fld := ⟨0x07000004 + 0x10000 * i, 24, 8, .ro, 0x0, false⟩
def refresh_2x (i : Nat) : Fld := ⟨0x07000004 + 0x10000 * i, 23, 1, .ro, 0x0, false⟩
def halted (i : Nat) : Fld := ⟨0x07000004 + 0x10000 * i, 22, 1, .ro, 0x0, false⟩
def spares_left (i : Nat) : Fld := ⟨0x07000004 + 0x10000 * i, 0, 4, .ro, 0x8, false⟩
end Reg.STK_STATUS

namespace Reg.STK_ERR -- R449, 13_memory_media.md
def group_retired (i : Nat) : Fld := ⟨0x07000008 + 0x10000 * i, 5, 1, .w1c, 0x0, false⟩
def tree_fail (i : Nat) : Fld := ⟨0x07000008 + 0x10000 * i, 4, 1, .w1c, 0x0, false⟩
def mac_fail (i : Nat) : Fld := ⟨0x07000008 + 0x10000 * i, 3, 1, .w1c, 0x0, false⟩
def uncorrectable (i : Nat) : Fld := ⟨0x07000008 + 0x10000 * i, 2, 1, .w1c, 0x0, false⟩
def spare_done (i : Nat) : Fld := ⟨0x07000008 + 0x10000 * i, 1, 1, .w1c, 0x0, false⟩
def corrected (i : Nat) : Fld := ⟨0x07000008 + 0x10000 * i, 0, 1, .w1c, 0x0, false⟩
end Reg.STK_ERR

namespace Reg.STK_SPARE -- R449, 13_memory_media.md
def busy (i : Nat) : Fld := ⟨0x0700000C + 0x10000 * i, 31, 1, .ro, 0x0, false⟩
def progress (i : Nat) : Fld := ⟨0x0700000C + 0x10000 * i, 24, 7, .ro, 0x0, false⟩
def spare (i : Nat) : Fld := ⟨0x0700000C + 0x10000 * i, 8, 7, .ro, 0x0, false⟩
def start (i : Nat) : Fld := ⟨0x0700000C + 0x10000 * i, 7, 1, .wo, 0x0, false⟩
def channel (i : Nat) : Fld := ⟨0x0700000C + 0x10000 * i, 0, 7, .rw, 0x0, false⟩
end Reg.STK_SPARE

namespace Reg.STK_CORR -- R449, 13_memory_media.md
def count (i : Nat) : Fld := ⟨0x07000010 + 0x10000 * i, 0, 32, .rc, 0x0, false⟩
end Reg.STK_CORR

namespace Reg.STK_UNCORR -- R449, 13_memory_media.md
def count (i : Nat) : Fld := ⟨0x07000014 + 0x10000 * i, 0, 32, .rc, 0x0, false⟩
end Reg.STK_UNCORR

namespace Reg.STK_MAC_FAIL -- R449, 13_memory_media.md
def count (i : Nat) : Fld := ⟨0x07000018 + 0x10000 * i, 0, 32, .rc, 0x0, false⟩
end Reg.STK_MAC_FAIL

namespace Reg.STK_CTR_OVF -- R449, 13_memory_media.md
def count (i : Nat) : Fld := ⟨0x0700001C + 0x10000 * i, 0, 32, .rc, 0x0, false⟩
end Reg.STK_CTR_OVF

namespace Reg.STK_CC_MISS -- R449, 13_memory_media.md
def count (i : Nat) : Fld := ⟨0x07000020 + 0x10000 * i, 0, 32, .rc, 0x0, false⟩
end Reg.STK_CC_MISS

namespace Reg.STK_CH -- R449, 13_memory_media.md
def state (i : Nat) (j : Nat) : Fld := ⟨0x07000100 + 0x10000 * i + 0x4 * j, 30, 2, .ro, 0x0, true⟩
def slot (i : Nat) (j : Nat) : Fld := ⟨0x07000100 + 0x10000 * i + 0x4 * j, 23, 7, .ro, 0x0, true⟩
def corrected (i : Nat) (j : Nat) : Fld := ⟨0x07000100 + 0x10000 * i + 0x4 * j, 0, 16, .ro, 0x0, false⟩
end Reg.STK_CH

namespace Reg.STK_GROUP -- R449, 13_memory_media.md
def retired (i : Nat) (j : Nat) : Fld := ⟨0x07000400 + 0x10000 * i + 0x4 * j, 0, 1, .ro, 0x0, false⟩
end Reg.STK_GROUP

namespace Reg.FLS_CFG -- R450, 13_memory_media.md
def rd_limit_k : Fld := ⟨0x06800000, 16, 16, .rw, 0x64, false⟩
def retention_days : Fld := ⟨0x06800000, 8, 8, .rw, 0x7, false⟩
def gc_low : Fld := ⟨0x06800000, 0, 8, .rw, 0x8, false⟩
end Reg.FLS_CFG

namespace Reg.FLS_CFG2 -- R450, 13_memory_media.md
def wl_spread : Fld := ⟨0x06800004, 16, 16, .rw, 0x100, false⟩
def flush_ms : Fld := ⟨0x06800004, 0, 16, .rw, 0x64, false⟩
end Reg.FLS_CFG2

namespace Reg.FLS_GEOM -- R450, 13_memory_media.md
def planes : Fld := ⟨0x06800008, 28, 4, .ro, 0x0, true⟩
def luns : Fld := ⟨0x06800008, 24, 4, .ro, 0x0, true⟩
def pages : Fld := ⟨0x06800008, 12, 12, .ro, 0x0, true⟩
def spare_bytes_div16 : Fld := ⟨0x06800008, 0, 12, .ro, 0x0, true⟩
end Reg.FLS_GEOM

namespace Reg.FLS_CAP -- R450, 13_memory_media.md
def gib : Fld := ⟨0x0680000C, 0, 32, .ro, 0x0, true⟩
end Reg.FLS_CAP

namespace Reg.FLS_ERR -- R450, 13_memory_media.md
def channel_lost : Fld := ⟨0x06800010, 3, 1, .w1c, 0x0, false⟩
def lun_retired : Fld := ⟨0x06800010, 2, 1, .w1c, 0x0, false⟩
def unreadable : Fld := ⟨0x06800010, 1, 1, .w1c, 0x0, false⟩
def gcm : Fld := ⟨0x06800010, 0, 1, .w1c, 0x0, false⟩
end Reg.FLS_ERR

namespace Reg.FLS_RETRIES -- R450, 13_memory_media.md
def count : Fld := ⟨0x06800020, 0, 32, .rc, 0x0, false⟩
end Reg.FLS_RETRIES

namespace Reg.FLS_UNCORR -- R450, 13_memory_media.md
def count : Fld := ⟨0x06800024, 0, 32, .rc, 0x0, false⟩
end Reg.FLS_UNCORR

namespace Reg.FLS_RETIRED -- R450, 13_memory_media.md
def count : Fld := ⟨0x06800028, 0, 32, .rc, 0x0, false⟩
end Reg.FLS_RETIRED

namespace Reg.FLS_RELOC -- R450, 13_memory_media.md
def count : Fld := ⟨0x0680002C, 0, 32, .rc, 0x0, false⟩
end Reg.FLS_RELOC

namespace Reg.FLS_ERASES -- R450, 13_memory_media.md
def count : Fld := ⟨0x06800030, 0, 32, .rc, 0x0, false⟩
end Reg.FLS_ERASES

namespace Reg.FLS_TGT -- R450, 13_memory_media.md
def state (i : Nat) : Fld := ⟨0x06800100 + 0x4 * i, 28, 4, .ro, 0x0, true⟩
def reason (i : Nat) : Fld := ⟨0x06800100 + 0x4 * i, 24, 4, .ro, 0x0, true⟩
def retired_blocks (i : Nat) : Fld := ⟨0x06800100 + 0x4 * i, 0, 16, .ro, 0x0, false⟩
end Reg.FLS_TGT

namespace Reg.FLS_CH -- R450, 13_memory_media.md
def state (i : Nat) : Fld := ⟨0x06800800 + 0x4 * i, 30, 2, .ro, 0x0, true⟩
def rate (i : Nat) : Fld := ⟨0x06800800 + 0x4 * i, 0, 12, .ro, 0x0, true⟩
end Reg.FLS_CH

namespace Reg.PCI_STATUS -- R514, 15_host_links_network.md
def speed (i : Nat) : Fld := ⟨0x06B00000 + 0x100 * i, 20, 4, .ro, 0x0, false⟩
def width (i : Nat) : Fld := ⟨0x06B00000 + 0x100 * i, 16, 4, .ro, 0x0, false⟩
def flit_mode (i : Nat) : Fld := ⟨0x06B00000 + 0x100 * i, 1, 1, .ro, 0x0, false⟩
def link_up (i : Nat) : Fld := ⟨0x06B00000 + 0x100 * i, 0, 1, .ro, 0x0, false⟩
end Reg.PCI_STATUS

namespace Reg.PCI_ERR -- R514, 15_host_links_network.md
def poisoned (i : Nat) : Fld := ⟨0x06B00004 + 0x100 * i, 3, 1, .w1c, 0x0, false⟩
def vf_flr (i : Nat) : Fld := ⟨0x06B00004 + 0x100 * i, 2, 1, .w1c, 0x0, false⟩
def pf_flr (i : Nat) : Fld := ⟨0x06B00004 + 0x100 * i, 1, 1, .w1c, 0x0, false⟩
def surprise_down (i : Nat) : Fld := ⟨0x06B00004 + 0x100 * i, 0, 1, .w1c, 0x0, false⟩
end Reg.PCI_ERR

namespace Reg.PCI_DROP -- R514, 15_host_links_network.md
def count (i : Nat) : Fld := ⟨0x06B00008 + 0x100 * i, 0, 32, .rc, 0x0, false⟩
end Reg.PCI_DROP

namespace Reg.PCI_ADMQ_CFG -- R514, 15_host_links_network.md
def enable (i : Nat) : Fld := ⟨0x06B0000C + 0x100 * i, 31, 1, .rw, 0x0, false⟩
def ring_log2 (i : Nat) : Fld := ⟨0x06B0000C + 0x100 * i, 16, 5, .rw, 0x0, false⟩
def vector (i : Nat) : Fld := ⟨0x06B0000C + 0x100 * i, 0, 16, .rw, 0x0, false⟩
end Reg.PCI_ADMQ_CFG

namespace Reg.PCI_ADMQ_RING -- R514, 15_host_links_network.md
def address (i : Nat) : Fld := ⟨0x06B00010 + 0x100 * i, 0, 64, .rw, 0x0, false⟩
end Reg.PCI_ADMQ_RING

namespace Reg.PCI_ADMQ_CQ -- R514, 15_host_links_network.md
def address (i : Nat) : Fld := ⟨0x06B00018 + 0x100 * i, 0, 64, .rw, 0x0, false⟩
end Reg.PCI_ADMQ_CQ

namespace Reg.PCI_ADMQ_PAY -- R514, 15_host_links_network.md
def address (i : Nat) : Fld := ⟨0x06B00020 + 0x100 * i, 12, 52, .rw, 0x0, false⟩
def log2 (i : Nat) : Fld := ⟨0x06B00020 + 0x100 * i, 0, 5, .rw, 0x0, false⟩
end Reg.PCI_ADMQ_PAY

namespace Reg.LNK_CFG -- R515, 15_host_links_network.md
def down_ms : Fld := ⟨0x06900000, 16, 16, .rw, 0x64, false⟩
end Reg.LNK_CFG

namespace Reg.LNK_ERR -- R515, 15_host_links_network.md
def bad_class : Fld := ⟨0x06900004, 4, 1, .w1c, 0x0, false⟩
def loc_drop : Fld := ⟨0x06900004, 3, 1, .w1c, 0x0, false⟩
def lane_lost : Fld := ⟨0x06900004, 2, 1, .w1c, 0x0, false⟩
def ident_mismatch : Fld := ⟨0x06900004, 1, 1, .w1c, 0x0, false⟩
def retrain : Fld := ⟨0x06900004, 0, 1, .w1c, 0x0, false⟩
end Reg.LNK_ERR

namespace Reg.LNK_LOC_Q -- R515, 15_host_links_network.md
def count : Fld := ⟨0x06900010, 0, 32, .rc, 0x0, false⟩
end Reg.LNK_LOC_Q

namespace Reg.LNK_LOC_MISS -- R515, 15_host_links_network.md
def count : Fld := ⟨0x06900014, 0, 32, .rc, 0x0, false⟩
end Reg.LNK_LOC_MISS

namespace Reg.LNK_LOC_DROP -- R515, 15_host_links_network.md
def count : Fld := ⟨0x06900018, 0, 32, .rc, 0x0, false⟩
end Reg.LNK_LOC_DROP

namespace Reg.LNK_REPLAY -- R515, 15_host_links_network.md
def count : Fld := ⟨0x0690001C, 0, 32, .rc, 0x0, false⟩
end Reg.LNK_REPLAY

namespace Reg.LNK_PORT -- R515, 15_host_links_network.md
def peer_chip (i : Nat) : Fld := ⟨0x06900100 + 0x10 * i, 16, 16, .ro, 0x0, false⟩
def lanes (i : Nat) : Fld := ⟨0x06900100 + 0x10 * i, 10, 3, .ro, 0x0, false⟩
def use (i : Nat) : Fld := ⟨0x06900100 + 0x10 * i, 8, 2, .ro, 0x0, true⟩
def state (i : Nat) : Fld := ⟨0x06900100 + 0x10 * i, 0, 3, .ro, 0x0, false⟩
end Reg.LNK_PORT

namespace Reg.LNK_PEER -- R515, 15_host_links_network.md
def group (i : Nat) : Fld := ⟨0x06900104 + 0x10 * i, 16, 16, .ro, 0x0, false⟩
def position (i : Nat) : Fld := ⟨0x06900104 + 0x10 * i, 8, 8, .ro, 0x0, false⟩
def port (i : Nat) : Fld := ⟨0x06900104 + 0x10 * i, 0, 8, .ro, 0x0, false⟩
end Reg.LNK_PEER

namespace Reg.LNK_CORR -- R515, 15_host_links_network.md
def count (i : Nat) : Fld := ⟨0x06900108 + 0x10 * i, 0, 32, .rc, 0x0, false⟩
end Reg.LNK_CORR

namespace Reg.NET_CFG -- R516, 15_host_links_network.md
def retx_us : Fld := ⟨0x06A00000, 16, 16, .rw, 0x64, false⟩
end Reg.NET_CFG

namespace Reg.NET_PTP -- R516, 15_host_links_network.md
def enable : Fld := ⟨0x06A00004, 31, 1, .rw, 0x0, false⟩
def locked : Fld := ⟨0x06A00004, 30, 1, .ro, 0x0, false⟩
def domain : Fld := ⟨0x06A00004, 16, 8, .rw, 0x0, true⟩
def step_ns : Fld := ⟨0x06A00004, 0, 16, .rw, 0x3E8, false⟩
end Reg.NET_PTP

namespace Reg.NET_PTP_OFFSET -- R516, 15_host_links_network.md
def offset : Fld := ⟨0x06A00008, 0, 32, .ro, 0x0, false⟩
end Reg.NET_PTP_OFFSET

namespace Reg.NET_ERR -- R516, 15_host_links_network.md
def unreachable : Fld := ⟨0x06A0000C, 3, 1, .w1c, 0x0, false⟩
def ptp_unlock : Fld := ⟨0x06A0000C, 2, 1, .w1c, 0x0, false⟩
def qp_error : Fld := ⟨0x06A0000C, 1, 1, .w1c, 0x0, false⟩
def link_down : Fld := ⟨0x06A0000C, 0, 1, .w1c, 0x0, false⟩
end Reg.NET_ERR

namespace Reg.NET_RETX -- R516, 15_host_links_network.md
def count : Fld := ⟨0x06A00010, 0, 32, .rc, 0x0, false⟩
end Reg.NET_RETX

namespace Reg.NET_CNP -- R516, 15_host_links_network.md
def count : Fld := ⟨0x06A00014, 0, 32, .rc, 0x0, false⟩
end Reg.NET_CNP

namespace Reg.NET_QP_ERR -- R516, 15_host_links_network.md
def count : Fld := ⟨0x06A00018, 0, 32, .rc, 0x0, false⟩
end Reg.NET_QP_ERR

namespace Reg.NET_PORT -- R516, 15_host_links_network.md
def link_up (i : Nat) : Fld := ⟨0x06A00100 + 0x4 * i, 31, 1, .ro, 0x0, false⟩
def mode (i : Nat) : Fld := ⟨0x06A00100 + 0x4 * i, 28, 3, .ro, 0x0, true⟩
end Reg.NET_PORT

namespace Reg.CORE_SEQ_CFG -- R200, 05_cores_and_layer_images.md
def step_timeout (i : Nat) : Fld := ⟨0x08000000 + 0x100000 * i, 16, 16, .sh, 0x2710, false⟩
def refine_enable (i : Nat) : Fld := ⟨0x08000000 + 0x100000 * i, 0, 1, .rw, 0x0, false⟩
end Reg.CORE_SEQ_CFG

namespace Reg.CORE_STEP -- R200, 05_cores_and_layer_images.md
def running (i : Nat) : Fld := ⟨0x08000004 + 0x100000 * i, 31, 1, .ro, 0x0, false⟩
def refine_running (i : Nat) : Fld := ⟨0x08000004 + 0x100000 * i, 30, 1, .ro, 0x0, false⟩
def step (i : Nat) : Fld := ⟨0x08000004 + 0x100000 * i, 0, 16, .ro, 0x0, false⟩
end Reg.CORE_STEP

namespace Reg.CORE_STEP_ERR -- R200, 05_cores_and_layer_images.md
def status (i : Nat) : Fld := ⟨0x08000008 + 0x100000 * i, 16, 16, .ro, 0x0, false⟩
def command (i : Nat) : Fld := ⟨0x08000008 + 0x100000 * i, 0, 16, .ro, 0x0, false⟩
end Reg.CORE_STEP_ERR

namespace Reg.CORE_IMAGE -- R201, 05_cores_and_layer_images.md
def hosted (i : Nat) : Fld := ⟨0x0800000C + 0x100000 * i, 24, 8, .ro, 0x0, false⟩
def image_core (i : Nat) : Fld := ⟨0x0800000C + 0x100000 * i, 16, 8, .ro, 0xFF, false⟩
def fail_run (i : Nat) : Fld := ⟨0x0800000C + 0x100000 * i, 8, 8, .ro, 0x0, false⟩
def sector (i : Nat) : Fld := ⟨0x0800000C + 0x100000 * i, 4, 4, .ro, 0x0, true⟩
def state (i : Nat) : Fld := ⟨0x0800000C + 0x100000 * i, 0, 4, .ro, 0x0, false⟩
end Reg.CORE_IMAGE

namespace Reg.CORE_ENG -- R201, 05_cores_and_layer_images.md
def spare_left (i : Nat) : Fld := ⟨0x08000010 + 0x100000 * i, 11, 1, .ro, 0x1, false⟩
def active (i : Nat) : Fld := ⟨0x08000010 + 0x100000 * i, 8, 3, .ro, 0x4, false⟩
def engine_ok (i : Nat) : Fld := ⟨0x08000010 + 0x100000 * i, 0, 5, .ro, 0x1F, false⟩
end Reg.CORE_ENG

namespace Reg.CORE_SRAM_FREE -- R201, 05_cores_and_layer_images.md
def bytes (i : Nat) : Fld := ⟨0x08000014 + 0x100000 * i, 0, 25, .ro, 0x1000000, false⟩
end Reg.CORE_SRAM_FREE

namespace Reg.CORE_STEPS_DONE -- R202, 05_cores_and_layer_images.md
def count (i : Nat) : Fld := ⟨0x08000020 + 0x100000 * i, 0, 32, .rc, 0x0, false⟩
end Reg.CORE_STEPS_DONE

namespace Reg.CORE_STEPS_FAILED -- R202, 05_cores_and_layer_images.md
def count (i : Nat) : Fld := ⟨0x08000024 + 0x100000 * i, 0, 32, .rc, 0x0, false⟩
end Reg.CORE_STEPS_FAILED

namespace Reg.CORE_SLOT_WAIT -- R202, 05_cores_and_layer_images.md
def count (i : Nat) : Fld := ⟨0x08000028 + 0x100000 * i, 0, 32, .rc, 0x0, false⟩
end Reg.CORE_SLOT_WAIT

namespace Reg.CORE_DESC_WAIT -- R202, 05_cores_and_layer_images.md
def count (i : Nat) : Fld := ⟨0x0800002C + 0x100000 * i, 0, 32, .rc, 0x0, false⟩
end Reg.CORE_DESC_WAIT

namespace Reg.CORE_FALLBACK -- R202, 05_cores_and_layer_images.md
def count (i : Nat) : Fld := ⟨0x08000030 + 0x100000 * i, 0, 32, .rc, 0x0, false⟩
end Reg.CORE_FALLBACK

namespace Reg.CORE_NUM_CFG -- R161, 04_engines_and_attention.md
def nan_report (i : Nat) : Fld := ⟨0x08008000 + 0x100000 * i, 1, 1, .rw, 0x0, false⟩
def sr_allow (i : Nat) : Fld := ⟨0x08008000 + 0x100000 * i, 0, 1, .rw, 0x0, false⟩
end Reg.CORE_NUM_CFG

namespace Reg.CORE_NUM_FLAGS -- R162, 04_engines_and_attention.md
def stat_mismatch (i : Nat) : Fld := ⟨0x08008004 + 0x100000 * i, 5, 1, .w1c, 0x0, false⟩
def empty_row (i : Nat) : Fld := ⟨0x08008004 + 0x100000 * i, 4, 1, .w1c, 0x0, false⟩
def int_sat (i : Nat) : Fld := ⟨0x08008004 + 0x100000 * i, 3, 1, .w1c, 0x0, false⟩
def overflow (i : Nat) : Fld := ⟨0x08008004 + 0x100000 * i, 2, 1, .w1c, 0x0, false⟩
def nan_out (i : Nat) : Fld := ⟨0x08008004 + 0x100000 * i, 1, 1, .w1c, 0x0, false⟩
end Reg.CORE_NUM_FLAGS

namespace Reg.CORE_ATTN_TILES -- R163, 04_engines_and_attention.md
def count (i : Nat) : Fld := ⟨0x08008008 + 0x100000 * i, 0, 32, .rc, 0x0, false⟩
end Reg.CORE_ATTN_TILES

namespace Reg.CORE_ATTN_WAIT -- R163, 04_engines_and_attention.md
def count (i : Nat) : Fld := ⟨0x0800800C + 0x100000 * i, 0, 32, .rc, 0x0, false⟩
end Reg.CORE_ATTN_WAIT

namespace Reg.CORE_ENG_STARVE -- R163, 04_engines_and_attention.md
def count (i : Nat) : Fld := ⟨0x08008010 + 0x100000 * i, 0, 32, .rc, 0x0, false⟩
end Reg.CORE_ENG_STARVE

namespace Reg.CNT_CFG -- R568, 17_observability_and_service.md
def enable : Fld := ⟨0x0F100000, 31, 1, .rw, 0x0, false⟩
def vector : Fld := ⟨0x0F100000, 0, 16, .rw, 0x0, false⟩
end Reg.CNT_CFG

namespace Reg.CNT_OVF -- R568, 17_observability_and_service.md
def overflow : Fld := ⟨0x0F100008, 0, 64, .w1c, 0x0, false⟩
end Reg.CNT_OVF

namespace Reg.CNT_C -- R568, 17_observability_and_service.md
def count (i : Nat) : Fld := ⟨0x0F100100 + 0x10 * i, 0, 48, .rw, 0x0, false⟩
end Reg.CNT_C

namespace Reg.CNT_SEL -- R568, 17_observability_and_service.md
def enable (i : Nat) : Fld := ⟨0x0F100108 + 0x10 * i, 31, 1, .rw, 0x0, false⟩
def chain (i : Nat) : Fld := ⟨0x0F100108 + 0x10 * i, 30, 1, .rw, 0x0, false⟩
def irq (i : Nat) : Fld := ⟨0x0F100108 + 0x10 * i, 29, 1, .rw, 0x0, false⟩
def view (i : Nat) : Fld := ⟨0x0F100108 + 0x10 * i, 28, 1, .rw, 0x0, false⟩
def view_sector (i : Nat) : Fld := ⟨0x0F100108 + 0x10 * i, 24, 4, .rw, 0x0, false⟩
def event (i : Nat) : Fld := ⟨0x0F100108 + 0x10 * i, 0, 12, .rw, 0x0, false⟩
end Reg.CNT_SEL

namespace Reg.CNT_FILT -- R568, 17_observability_and_service.md
def range (i : Nat) : Fld := ⟨0x0F10010C + 0x10 * i, 20, 3, .rw, 0x0, false⟩
def master_id (i : Nat) : Fld := ⟨0x0F10010C + 0x10 * i, 6, 14, .rw, 0x0, false⟩
def master_kind (i : Nat) : Fld := ⟨0x0F10010C + 0x10 * i, 4, 2, .rw, 0x0, false⟩
def privilege (i : Nat) : Fld := ⟨0x0F10010C + 0x10 * i, 0, 3, .rw, 0x7, false⟩
end Reg.CNT_FILT

namespace Reg.CNT_CC -- R568, 17_observability_and_service.md
def count (i : Nat) (j : Nat) : Fld := ⟨0x0F101000 + 0x200 * i + 0x10 * j, 0, 48, .rw, 0x0, false⟩
end Reg.CNT_CC

namespace Reg.CNT_CSEL -- R568, 17_observability_and_service.md
def enable (i : Nat) (j : Nat) : Fld := ⟨0x0F101008 + 0x200 * i + 0x10 * j, 31, 1, .rw, 0x0, false⟩
def chain (i : Nat) (j : Nat) : Fld := ⟨0x0F101008 + 0x200 * i + 0x10 * j, 30, 1, .rw, 0x0, false⟩
def irq (i : Nat) (j : Nat) : Fld := ⟨0x0F101008 + 0x200 * i + 0x10 * j, 29, 1, .rw, 0x0, false⟩
def view (i : Nat) (j : Nat) : Fld := ⟨0x0F101008 + 0x200 * i + 0x10 * j, 28, 1, .rw, 0x0, false⟩
def view_sector (i : Nat) (j : Nat) : Fld := ⟨0x0F101008 + 0x200 * i + 0x10 * j, 24, 4, .rw, 0x0, false⟩
def event (i : Nat) (j : Nat) : Fld := ⟨0x0F101008 + 0x200 * i + 0x10 * j, 0, 12, .rw, 0x0, false⟩
end Reg.CNT_CSEL

namespace Reg.CNT_CFILT -- R568, 17_observability_and_service.md
def range (i : Nat) (j : Nat) : Fld := ⟨0x0F10100C + 0x200 * i + 0x10 * j, 20, 3, .rw, 0x0, false⟩
def master_id (i : Nat) (j : Nat) : Fld := ⟨0x0F10100C + 0x200 * i + 0x10 * j, 6, 14, .rw, 0x0, false⟩
def master_kind (i : Nat) (j : Nat) : Fld := ⟨0x0F10100C + 0x200 * i + 0x10 * j, 4, 2, .rw, 0x0, false⟩
def privilege (i : Nat) (j : Nat) : Fld := ⟨0x0F10100C + 0x200 * i + 0x10 * j, 0, 3, .rw, 0x7, false⟩
end Reg.CNT_CFILT

namespace Reg.CNT_COVF -- R568, 17_observability_and_service.md
def overflow (i : Nat) : Fld := ⟨0x0F101100 + 0x200 * i, 0, 16, .w1c, 0x0, false⟩
end Reg.CNT_COVF

namespace Reg.CNT_CSAMP -- R568, 17_observability_and_service.md
def valid (i : Nat) : Fld := ⟨0x0F101108 + 0x200 * i, 63, 1, .w1c, 0x0, false⟩
def counter (i : Nat) : Fld := ⟨0x0F101108 + 0x200 * i, 48, 4, .ro, 0x0, false⟩
def step (i : Nat) : Fld := ⟨0x0F101108 + 0x200 * i, 32, 16, .ro, 0x0, false⟩
def command (i : Nat) : Fld := ⟨0x0F101108 + 0x200 * i, 0, 32, .ro, 0x0, false⟩
end Reg.CNT_CSAMP

namespace Reg.CNT_RANGE_LO -- R568, 17_observability_and_service.md
def address (i : Nat) : Fld := ⟨0x0F105000 + 0x10 * i, 0, 64, .rw, 0x0, false⟩
end Reg.CNT_RANGE_LO

namespace Reg.CNT_RANGE_HI -- R568, 17_observability_and_service.md
def address (i : Nat) : Fld := ⟨0x0F105008 + 0x10 * i, 0, 64, .rw, 0x0, false⟩
end Reg.CNT_RANGE_HI

namespace Reg.CNT_REC_CFG -- R568, 17_observability_and_service.md
def enable : Fld := ⟨0x0F105100, 31, 1, .rw, 0x0, false⟩
def path : Fld := ⟨0x0F105100, 20, 2, .rw, 0x0, false⟩
def ring_log2 : Fld := ⟨0x0F105100, 16, 4, .rw, 0x0, false⟩
def cnt_c : Fld := ⟨0x0F105100, 8, 4, .rw, 0x0, false⟩
def cnt_b : Fld := ⟨0x0F105100, 4, 4, .rw, 0x0, false⟩
def cnt_a : Fld := ⟨0x0F105100, 0, 4, .rw, 0x0, false⟩
end Reg.CNT_REC_CFG

namespace Reg.CNT_REC_LAYER -- R568, 17_observability_and_service.md
def layer_hi : Fld := ⟨0x0F105104, 16, 16, .rw, 0x0, false⟩
def layer_lo : Fld := ⟨0x0F105104, 0, 16, .rw, 0x0, false⟩
end Reg.CNT_REC_LAYER

namespace Reg.CNT_REC_BASE -- R568, 17_observability_and_service.md
def address : Fld := ⟨0x0F105108, 12, 52, .rw, 0x0, false⟩
end Reg.CNT_REC_BASE

namespace Reg.CNT_REC_HEAD -- R568, 17_observability_and_service.md
def head : Fld := ⟨0x0F105110, 0, 32, .ro, 0x0, false⟩
end Reg.CNT_REC_HEAD

namespace Reg.CNT_REC_TAIL -- R568, 17_observability_and_service.md
def tail : Fld := ⟨0x0F105114, 0, 32, .rw, 0x0, false⟩
end Reg.CNT_REC_TAIL

namespace Reg.CNT_REC_DROP -- R568, 17_observability_and_service.md
def count : Fld := ⟨0x0F105118, 0, 32, .rc, 0x0, false⟩
end Reg.CNT_REC_DROP

namespace Reg.CNT_V_VAL -- R568, 17_observability_and_service.md
def value (i : Nat) (j : Nat) : Fld := ⟨0x0F110000 + 0x1000 * i + 0x10 * j, 0, 64, .ro, 0x0, false⟩
end Reg.CNT_V_VAL

namespace Reg.CNT_V_SEL -- R568, 17_observability_and_service.md
def sel (i : Nat) (j : Nat) : Fld := ⟨0x0F110008 + 0x1000 * i + 0x10 * j, 0, 32, .ro, 0x0, false⟩
end Reg.CNT_V_SEL

namespace Reg.DBG_TRACE_CFG -- R569, 17_observability_and_service.md
def sectors : Fld := ⟨0x0F000000, 16, 16, .rw, 0xFFFF, false⟩
def enables : Fld := ⟨0x0F000000, 0, 4, .rw, 0x0, false⟩
end Reg.DBG_TRACE_CFG

namespace Reg.DBG_TRACE_STAT -- R569, 17_observability_and_service.md
def active : Fld := ⟨0x0F000004, 31, 1, .ro, 0x0, false⟩
end Reg.DBG_TRACE_STAT

namespace Reg.DBG_TRACE_LOST -- R569, 17_observability_and_service.md
def count : Fld := ⟨0x0F000008, 0, 32, .rc, 0x0, false⟩
end Reg.DBG_TRACE_LOST

namespace Reg.DBG_MEM_ADDR -- R569, 17_observability_and_service.md
def address : Fld := ⟨0x0F000010, 0, 64, .rw, 0x0, false⟩
end Reg.DBG_MEM_ADDR

namespace Reg.DBG_MEM_CTRL -- R569, 17_observability_and_service.md
def go : Fld := ⟨0x0F000018, 31, 1, .wo, 0x0, false⟩
def busy : Fld := ⟨0x0F000018, 30, 1, .ro, 0x0, false⟩
def sector : Fld := ⟨0x0F000018, 16, 4, .rw, 0x0, false⟩
def status : Fld := ⟨0x0F000018, 0, 16, .ro, 0x0, false⟩
end Reg.DBG_MEM_CTRL

namespace Reg.DBG_MEM_DATA -- R569, 17_observability_and_service.md
def bytes (i : Nat) : Fld := ⟨0x0F000100 + 0x4 * i, 0, 32, .ro, 0x0, false⟩
end Reg.DBG_MEM_DATA

namespace Reg.DBG_WCTL -- R569, 17_observability_and_service.md
def enable (i : Nat) (j : Nat) : Fld := ⟨0x0F001000 + 0x200 * i + 0x40 * j, 31, 1, .rw, 0x0, false⟩
def crc (i : Nat) (j : Nat) : Fld := ⟨0x0F001000 + 0x200 * i + 0x40 * j, 30, 1, .rw, 0x0, false⟩
def once (i : Nat) (j : Nat) : Fld := ⟨0x0F001000 + 0x200 * i + 0x40 * j, 29, 1, .rw, 0x0, false⟩
def fired (i : Nat) (j : Nat) : Fld := ⟨0x0F001000 + 0x200 * i + 0x40 * j, 28, 1, .w1c, 0x0, false⟩
def layer_id (i : Nat) (j : Nat) : Fld := ⟨0x0F001000 + 0x200 * i + 0x40 * j, 0, 16, .rw, 0x0, false⟩
end Reg.DBG_WCTL

namespace Reg.DBG_WOP -- R569, 17_observability_and_service.md
def operator_id (i : Nat) (j : Nat) : Fld := ⟨0x0F001004 + 0x200 * i + 0x40 * j, 0, 16, .rw, 0x0, false⟩
end Reg.DBG_WOP

namespace Reg.DBG_WMIN -- R569, 17_observability_and_service.md
def value (i : Nat) (j : Nat) : Fld := ⟨0x0F001008 + 0x200 * i + 0x40 * j, 0, 32, .ro, 0x0, false⟩
end Reg.DBG_WMIN

namespace Reg.DBG_WMAX -- R569, 17_observability_and_service.md
def value (i : Nat) (j : Nat) : Fld := ⟨0x0F00100C + 0x200 * i + 0x40 * j, 0, 32, .ro, 0x0, false⟩
end Reg.DBG_WMAX

namespace Reg.DBG_WSUM -- R569, 17_observability_and_service.md
def value (i : Nat) (j : Nat) : Fld := ⟨0x0F001010 + 0x200 * i + 0x40 * j, 0, 64, .ro, 0x0, false⟩
end Reg.DBG_WSUM

namespace Reg.DBG_WSUMSQ -- R569, 17_observability_and_service.md
def value (i : Nat) (j : Nat) : Fld := ⟨0x0F001018 + 0x200 * i + 0x40 * j, 0, 64, .ro, 0x0, false⟩
end Reg.DBG_WSUMSQ

namespace Reg.DBG_WNAN -- R569, 17_observability_and_service.md
def count (i : Nat) (j : Nat) : Fld := ⟨0x0F001020 + 0x200 * i + 0x40 * j, 0, 32, .ro, 0x0, false⟩
end Reg.DBG_WNAN

namespace Reg.DBG_WINF -- R569, 17_observability_and_service.md
def count (i : Nat) (j : Nat) : Fld := ⟨0x0F001024 + 0x200 * i + 0x40 * j, 0, 32, .ro, 0x0, false⟩
end Reg.DBG_WINF

namespace Reg.DBG_WCRC -- R569, 17_observability_and_service.md
def crc (i : Nat) (j : Nat) : Fld := ⟨0x0F001028 + 0x200 * i + 0x40 * j, 0, 64, .ro, 0x0, false⟩
end Reg.DBG_WCRC

namespace Reg.DBG_WSTEP -- R569, 17_observability_and_service.md
def value (i : Nat) (j : Nat) : Fld := ⟨0x0F001030 + 0x200 * i + 0x40 * j, 0, 32, .ro, 0x0, false⟩
end Reg.DBG_WSTEP

namespace Reg.DBG_WCMD -- R569, 17_observability_and_service.md
def value (i : Nat) (j : Nat) : Fld := ⟨0x0F001034 + 0x200 * i + 0x40 * j, 0, 32, .ro, 0x0, false⟩
end Reg.DBG_WCMD

namespace Reg.FOG_CFG -- R570, 17_observability_and_service.md
def irq_gap_us : Fld := ⟨0x0F200000, 16, 16, .rw, 0x64, false⟩
def err_irq : Fld := ⟨0x0F200000, 15, 1, .rw, 0x0, false⟩
def keeper_wd_us : Fld := ⟨0x0F200000, 0, 15, .rw, 0x3E8, false⟩
end Reg.FOG_CFG

namespace Reg.FOG_STATUS -- R570, 17_observability_and_service.md
def pending : Fld := ⟨0x0F200004, 31, 1, .ro, 0x0, false⟩
def root_lost : Fld := ⟨0x0F200004, 30, 1, .w1c, 0x0, false⟩
def entries : Fld := ⟨0x0F200004, 0, 11, .ro, 0x0, false⟩
end Reg.FOG_STATUS

namespace Reg.FOG_ROOTS -- R570, 17_observability_and_service.md
def count : Fld := ⟨0x0F200010, 0, 32, .rc, 0x0, false⟩
end Reg.FOG_ROOTS

namespace Reg.FOG_LOST -- R570, 17_observability_and_service.md
def count : Fld := ⟨0x0F200014, 0, 32, .rc, 0x0, false⟩
end Reg.FOG_LOST

namespace Reg.FOG_IRQ -- R570, 17_observability_and_service.md
def count : Fld := ⟨0x0F200018, 0, 32, .rc, 0x0, false⟩
end Reg.FOG_IRQ

namespace Reg.FOG_REP_ENGINE -- R570, 17_observability_and_service.md
def count : Fld := ⟨0x0F200020, 0, 32, .rc, 0x0, false⟩
end Reg.FOG_REP_ENGINE

namespace Reg.FOG_REP_CORE -- R570, 17_observability_and_service.md
def count : Fld := ⟨0x0F200024, 0, 32, .rc, 0x0, false⟩
end Reg.FOG_REP_CORE

namespace Reg.FOG_REP_CHANNEL -- R570, 17_observability_and_service.md
def count : Fld := ⟨0x0F200028, 0, 32, .rc, 0x0, false⟩
end Reg.FOG_REP_CHANNEL

namespace Reg.FOG_REP_FLASH -- R570, 17_observability_and_service.md
def count : Fld := ⟨0x0F20002C, 0, 32, .rc, 0x0, false⟩
end Reg.FOG_REP_FLASH

namespace Reg.FOG_REP_LANE -- R570, 17_observability_and_service.md
def count : Fld := ⟨0x0F200030, 0, 32, .rc, 0x0, false⟩
end Reg.FOG_REP_LANE

namespace Reg.FOG_REP_KEEPER -- R570, 17_observability_and_service.md
def count : Fld := ⟨0x0F200034, 0, 32, .rc, 0x0, false⟩
end Reg.FOG_REP_KEEPER

namespace Reg.FOG_ID -- R570, 17_observability_and_service.md
def fault_id (i : Nat) : Fld := ⟨0x0F201000 + 0x20 * i, 0, 32, .ro, 0x0, false⟩
end Reg.FOG_ID

namespace Reg.FOG_INFO -- R570, 17_observability_and_service.md
def valid (i : Nat) : Fld := ⟨0x0F201004 + 0x20 * i, 31, 1, .w1c, 0x0, false⟩
def severity (i : Nat) : Fld := ⟨0x0F201004 + 0x20 * i, 29, 2, .ro, 0x0, false⟩
def cls (i : Nat) : Fld := ⟨0x0F201004 + 0x20 * i, 27, 2, .ro, 0x0, false⟩
def reporter (i : Nat) : Fld := ⟨0x0F201004 + 0x20 * i, 0, 16, .ro, 0x0, false⟩
end Reg.FOG_INFO

namespace Reg.FOG_FIRST -- R570, 17_observability_and_service.md
def daymark (i : Nat) : Fld := ⟨0x0F201008 + 0x20 * i, 0, 64, .ro, 0x0, false⟩
end Reg.FOG_FIRST

namespace Reg.FOG_LAST -- R570, 17_observability_and_service.md
def daymark (i : Nat) : Fld := ⟨0x0F201010 + 0x20 * i, 0, 64, .ro, 0x0, false⟩
end Reg.FOG_LAST

namespace Reg.FOG_CNTA -- R570, 17_observability_and_service.md
def class1 (i : Nat) : Fld := ⟨0x0F201018 + 0x20 * i, 16, 16, .ro, 0x0, false⟩
def class0 (i : Nat) : Fld := ⟨0x0F201018 + 0x20 * i, 0, 16, .ro, 0x0, false⟩
end Reg.FOG_CNTA

namespace Reg.FOG_CNTB -- R570, 17_observability_and_service.md
def class3 (i : Nat) : Fld := ⟨0x0F20101C + 0x20 * i, 16, 16, .ro, 0x0, false⟩
def class2 (i : Nat) : Fld := ⟨0x0F20101C + 0x20 * i, 0, 16, .ro, 0x0, false⟩
end Reg.FOG_CNTB

/-- Registers of the tables, part 1. -/
def regRows0 : List RegDesc := [
  ⟨"GLB_ID", 0x00000000, [], 32, [Reg.GLB_ID.part_number, Reg.GLB_ID.die_step, Reg.GLB_ID.package_step]⟩,
  ⟨"GLB_ROLE", 0x00000004, [], 32, [Reg.GLB_ROLE.group_size_m1, Reg.GLB_ROLE.position, Reg.GLB_ROLE.role]⟩,
  ⟨"GLB_GROUP", 0x00000008, [], 32, [Reg.GLB_GROUP.chip_id, Reg.GLB_GROUP.group_id]⟩,
  ⟨"GLB_CAP", 0x0000000C, [], 32, [Reg.GLB_CAP.active_keepers, Reg.GLB_CAP.spare_engines, Reg.GLB_CAP.active_engines, Reg.GLB_CAP.active_cores]⟩,
  ⟨"GLB_PORTMAP", 0x00000010, [], 32, [Reg.GLB_PORTMAP.port_use]⟩,
  ⟨"GLB_UID_LO", 0x00000014, [], 32, [Reg.GLB_UID_LO.uid_lo]⟩,
  ⟨"GLB_UID_HI", 0x00000018, [], 32, [Reg.GLB_UID_HI.uid_hi]⟩,
  ⟨"GLB_LOCK", 0x0000001C, [], 32, [Reg.GLB_LOCK.scratch_lock]⟩,
  ⟨"GLB_IRQ", 0x00000040, [], 32, [Reg.GLB_IRQ.error_entry, Reg.GLB_IRQ.root_fault, Reg.GLB_IRQ.owner_change]⟩,
  ⟨"GLB_SCRATCH", 0x00000020, [(0x4, 8)], 32, [Reg.GLB_SCRATCH.value 0]⟩,
  ⟨"OWN_STATE", 0x00010000, [], 32, [Reg.OWN_STATE.changes, Reg.OWN_STATE.state, Reg.OWN_STATE.owner]⟩,
  ⟨"OWN_CLAIM", 0x00010004, [], 32, [Reg.OWN_CLAIM.value]⟩,
  ⟨"OWN_SELF", 0x00010008, [], 32, [Reg.OWN_SELF.master]⟩,
  ⟨"OWN_HEARTBEAT", 0x0001000C, [], 32, [Reg.OWN_HEARTBEAT.value]⟩,
  ⟨"OWN_CFG", 0x00010010, [], 32, [Reg.OWN_CFG.hb_ms, Reg.OWN_CFG.priority]⟩,
  ⟨"OWN_HANDOVER", 0x00010014, [], 32, [Reg.OWN_HANDOVER.pending, Reg.OWN_HANDOVER.target]⟩,
  ⟨"OWN_DENIED", 0x00010018, [], 32, [Reg.OWN_DENIED.count]⟩,
  ⟨"PWR_BOOT", 0x00020000, [], 32, [Reg.PWR_BOOT.cause, Reg.PWR_BOOT.mode, Reg.PWR_BOOT.step, Reg.PWR_BOOT.status]⟩,
  ⟨"PWR_CTRL", 0x00020004, [], 32, [Reg.PWR_CTRL.go, Reg.PWR_CTRL.reset, Reg.PWR_CTRL.target, Reg.PWR_CTRL.status]⟩,
  ⟨"PWR_STATUS", 0x00020008, [], 32, [Reg.PWR_STATUS.state, Reg.PWR_STATUS.quads_idle]⟩]

/-- Registers of the tables, part 2. -/
def regRows1 : List RegDesc := [
  ⟨"PWR_RET", 0x0002000C, [], 32, [Reg.PWR_RET.banks]⟩,
  ⟨"PWR_WAKE_EN", 0x00020010, [], 32, [Reg.PWR_WAKE_EN.sources]⟩,
  ⟨"PWR_WAKE_CAUSE", 0x00020014, [], 32, [Reg.PWR_WAKE_CAUSE.source]⟩,
  ⟨"PWR_CFG", 0x00020018, [], 32, [Reg.PWR_CFG.idle_us]⟩,
  ⟨"PWR_AVS", 0x0002001C, [], 32, [Reg.PWR_AVS.pg, Reg.PWR_AVS.vid]⟩,
  ⟨"PWR_STRETCH", 0x00020020, [], 32, [Reg.PWR_STRETCH.count]⟩,
  ⟨"PWR_ABORTS", 0x00020024, [], 32, [Reg.PWR_ABORTS.count]⟩,
  ⟨"PWR_RCV_CTRL", 0x00020040, [], 32, [Reg.PWR_RCV_CTRL.go]⟩,
  ⟨"PWR_RCV_ADDR", 0x00020048, [], 64, [Reg.PWR_RCV_ADDR.address]⟩,
  ⟨"PWR_RCV_LEN", 0x00020050, [], 32, [Reg.PWR_RCV_LEN.bytes]⟩,
  ⟨"PWR_RCV_STATUS", 0x00020054, [], 32, [Reg.PWR_RCV_STATUS.busy, Reg.PWR_RCV_STATUS.status]⟩,
  ⟨"CLK_STATUS", 0x00030000, [], 32, [Reg.CLK_STATUS.pll_lock, Reg.CLK_STATUS.on_bosc]⟩,
  ⟨"CLK_DAYMARK", 0x00030008, [], 64, [Reg.CLK_DAYMARK.ns]⟩,
  ⟨"CLK_DAYMARK_SET", 0x00030010, [], 64, [Reg.CLK_DAYMARK_SET.ns]⟩,
  ⟨"CLK_CMP", 0x00030020, [(0x8, 4)], 64, [Reg.CLK_CMP.value 0]⟩,
  ⟨"CLK_CMPCTL", 0x00030040, [(0x4, 4)], 32, [Reg.CLK_CMPCTL.level 0, Reg.CLK_CMPCTL.enable 0]⟩,
  ⟨"SEC_STATUS", 0x00040000, [], 32, [Reg.SEC_STATUS.anchor_set, Reg.SEC_STATUS.cert_mismatch, Reg.SEC_STATUS.debug_level, Reg.SEC_STATUS.sessions, Reg.SEC_STATUS.boot_status]⟩,
  ⟨"SEC_SVN_FW", 0x00040004, [], 32, [Reg.SEC_SVN_FW.counter]⟩,
  ⟨"SEC_SVN_CFG", 0x00040008, [], 32, [Reg.SEC_SVN_CFG.counter]⟩,
  ⟨"SEC_SVN_RUN", 0x0004000C, [], 32, [Reg.SEC_SVN_RUN.cfg, Reg.SEC_SVN_RUN.fw]⟩]

/-- Registers of the tables, part 3. -/
def regRows2 : List RegDesc := [
  ⟨"SEC_DBG_COUNT", 0x00040010, [], 32, [Reg.SEC_DBG_COUNT.count]⟩,
  ⟨"SEC_ANCHOR", 0x00040014, [], 32, [Reg.SEC_ANCHOR.key_id_lo]⟩,
  ⟨"SEC_ERR", 0x00040018, [], 32, [Reg.SEC_ERR.key_refused, Reg.SEC_ERR.tdi_error, Reg.SEC_ERR.counter_fail, Reg.SEC_ERR.unlock_fail, Reg.SEC_ERR.sig_fail, Reg.SEC_ERR.rollback]⟩,
  ⟨"SEC_IDE_FAIL", 0x0004001C, [], 32, [Reg.SEC_IDE_FAIL.count]⟩,
  ⟨"SEC_SIG_FAIL", 0x00040020, [], 32, [Reg.SEC_SIG_FAIL.count]⟩,
  ⟨"SEC_KEYGEN", 0x00040040, [(0x4, 16)], 32, [Reg.SEC_KEYGEN.gen 0]⟩,
  ⟨"SEC_TDI", 0x00040080, [(0x4, 32)], 32, [Reg.SEC_TDI.state 0, Reg.SEC_TDI.cause 0]⟩,
  ⟨"QUE_SQ_TAIL", 0x01000000, [(0x1000, 16384)], 32, [Reg.QUE_SQ_TAIL.tail 0]⟩,
  ⟨"QUE_CQ_HEAD", 0x01000004, [(0x1000, 16384)], 32, [Reg.QUE_CQ_HEAD.head 0]⟩,
  ⟨"QUE_INFO", 0x01000008, [(0x1000, 16384)], 32, [Reg.QUE_INFO.state 0, Reg.QUE_INFO.sector 0, Reg.QUE_INFO.pf 0, Reg.QUE_INFO.location 0, Reg.QUE_INFO.kind 0, Reg.QUE_INFO.ring_log2 0]⟩,
  ⟨"QUE_IRQ", 0x0100000C, [(0x1000, 16384)], 32, [Reg.QUE_IRQ.delay_us 0, Reg.QUE_IRQ.count 0]⟩,
  ⟨"QUE_ERR", 0x01000010, [(0x1000, 16384)], 32, [Reg.QUE_ERR.bad_doorbell 0, Reg.QUE_ERR.cq_full 0]⟩,
  ⟨"QUE_SQ_HEAD", 0x01000014, [(0x1000, 16384)], 32, [Reg.QUE_SQ_HEAD.head 0]⟩,
  ⟨"SES_CFG", 0x06000000, [], 32, [Reg.SES_CFG.stat_max, Reg.SES_CFG.dedup_horizon, Reg.SES_CFG.tier0_write, Reg.SES_CFG.refine_stats, Reg.SES_CFG.dedup_enable]⟩,
  ⟨"SES_COMMIT", 0x06000004, [], 32, [Reg.SES_COMMIT.commit]⟩,
  ⟨"SES_BUOYS", 0x06000008, [], 32, [Reg.SES_BUOYS.in_use]⟩,
  ⟨"SES_ERR", 0x0600000C, [], 32, [Reg.SES_ERR.id_overlap, Reg.SES_ERR.stack_short, Reg.SES_ERR.tier0_short, Reg.SES_ERR.lc_install_fail, Reg.SES_ERR.dedup_full, Reg.SES_ERR.page_mismatch, Reg.SES_ERR.buoy_check]⟩,
  ⟨"SES_LC_HIT", 0x06000010, [], 32, [Reg.SES_LC_HIT.count]⟩,
  ⟨"SES_LC_MISS", 0x06000014, [], 32, [Reg.SES_LC_MISS.count]⟩,
  ⟨"SES_DEDUP_HIT", 0x06000018, [], 32, [Reg.SES_DEDUP_HIT.count]⟩]

/-- Registers of the tables, part 4. -/
def regRows3 : List RegDesc := [
  ⟨"SES_DEDUP_ENTRIES", 0x0600001C, [], 32, [Reg.SES_DEDUP_ENTRIES.entries]⟩,
  ⟨"SES_QRY_SID", 0x06000100, [], 32, [Reg.SES_QRY_SID.session_id]⟩,
  ⟨"SES_QRY_CTRL", 0x06000104, [], 32, [Reg.SES_QRY_CTRL.go]⟩,
  ⟨"SES_QRY_STATUS", 0x06000108, [], 32, [Reg.SES_QRY_STATUS.done, Reg.SES_QRY_STATUS.status]⟩,
  ⟨"SES_MOV_CFG", 0x06000300, [], 32, [Reg.SES_MOV_CFG.warm_verify, Reg.SES_MOV_CFG.retain_cold, Reg.SES_MOV_CFG.warm_writeback, Reg.SES_MOV_CFG.coded_park, Reg.SES_MOV_CFG.warm_share, Reg.SES_MOV_CFG.max_cold]⟩,
  ⟨"SES_MOV_LIM", 0x06000304, [], 32, [Reg.SES_MOV_LIM.max_warm, Reg.SES_MOV_LIM.pending_m1]⟩,
  ⟨"SES_MOV_ACTIVE", 0x06000308, [], 32, [Reg.SES_MOV_ACTIVE.warm, Reg.SES_MOV_ACTIVE.cold]⟩,
  ⟨"SES_MOV_PENDING", 0x0600030C, [], 32, [Reg.SES_MOV_PENDING.parks, Reg.SES_MOV_PENDING.pending]⟩,
  ⟨"SES_MOV_ERR", 0x06000310, [], 32, [Reg.SES_MOV_ERR.coord_fail, Reg.SES_MOV_ERR.coord_resend, Reg.SES_MOV_ERR.migrate_deferred, Reg.SES_MOV_ERR.pending_full, Reg.SES_MOV_ERR.move_aborted, Reg.SES_MOV_ERR.verify_fail, Reg.SES_MOV_ERR.lost_tier, Reg.SES_MOV_ERR.resumed]⟩,
  ⟨"SES_CBW_STALL", 0x06000314, [], 32, [Reg.SES_CBW_STALL.value]⟩,
  ⟨"SES_REV_WARM", 0x06000318, [], 32, [Reg.SES_REV_WARM.value]⟩,
  ⟨"SES_REV_COLD", 0x0600031C, [], 32, [Reg.SES_REV_COLD.value]⟩,
  ⟨"SES_REV_MAXLAT", 0x06000320, [], 32, [Reg.SES_REV_MAXLAT.value]⟩,
  ⟨"SES_SRV_CFG", 0x06000400, [], 32, [Reg.SES_SRV_CFG.spec_allow, Reg.SES_SRV_CFG.egress_hold_kib]⟩,
  ⟨"SES_SRV_TRACK", 0x06000404, [], 32, [Reg.SES_SRV_TRACK.in_use]⟩,
  ⟨"SES_SRV_ERR", 0x06000408, [], 32, [Reg.SES_SRV_ERR.digest_state, Reg.SES_SRV_ERR.tool_seq, Reg.SES_SRV_ERR.spec_shape, Reg.SES_SRV_ERR.egress_overrun, Reg.SES_SRV_ERR.track_full, Reg.SES_SRV_ERR.row_invalid, Reg.SES_SRV_ERR.segment_mismatch]⟩,
  ⟨"SES_SRV_STEPS", 0x06000410, [], 32, [Reg.SES_SRV_STEPS.count]⟩,
  ⟨"SES_SRV_TOKENS", 0x06000414, [], 32, [Reg.SES_SRV_TOKENS.count]⟩,
  ⟨"SES_SRV_DRAFTS_PROP", 0x06000418, [], 32, [Reg.SES_SRV_DRAFTS_PROP.count]⟩,
  ⟨"SES_SRV_DRAFTS_ACC", 0x0600041C, [], 32, [Reg.SES_SRV_DRAFTS_ACC.count]⟩]

/-- Registers of the tables, part 5. -/
def regRows4 : List RegDesc := [
  ⟨"SES_SRV_ROWS_INVALID", 0x06000420, [], 32, [Reg.SES_SRV_ROWS_INVALID.count]⟩,
  ⟨"SES_STATE_CNT", 0x06000044, [(0x4, 8)], 32, [Reg.SES_STATE_CNT.count 0]⟩,
  ⟨"SES_QRY_DATA", 0x06000140, [(0x4, 16)], 32, [Reg.SES_QRY_DATA.bytes 0]⟩,
  ⟨"SES_QUOTA", 0x06000200, [(0x4, 16)], 32, [Reg.SES_QUOTA.max_buoys 0]⟩,
  ⟨"SES_IDBASE", 0x06000240, [(0x8, 16)], 32, [Reg.SES_IDBASE.base 0]⟩,
  ⟨"SES_IDLIM", 0x06000244, [(0x8, 16)], 32, [Reg.SES_IDLIM.limit 0]⟩,
  ⟨"SES_SRV_BATCH", 0x06000440, [(0x4, 16)], 32, [Reg.SES_SRV_BATCH.prefill_chunk 0, Reg.SES_SRV_BATCH.batch_rows 0, Reg.SES_SRV_BATCH.batches_m1 0]⟩,
  ⟨"SES_SRV_SPEC", 0x06000480, [(0x4, 16)], 32, [Reg.SES_SRV_SPEC.spec_on 0, Reg.SES_SRV_SPEC.b4 0, Reg.SES_SRV_SPEC.b3 0, Reg.SES_SRV_SPEC.b2 0, Reg.SES_SRV_SPEC.b1 0]⟩,
  ⟨"SES_SRV_PARK", 0x060004C0, [(0x4, 16)], 32, [Reg.SES_SRV_PARK.pressure_pct 0, Reg.SES_SRV_PARK.cold_delay 0, Reg.SES_SRV_PARK.warm_delay 0]⟩,
  ⟨"LENS_CFG", 0x06100000, [], 32, [Reg.LENS_CFG.slot_w]⟩,
  ⟨"LENS_COMMIT", 0x06100004, [], 32, [Reg.LENS_COMMIT.commit]⟩,
  ⟨"LENS_STATUS", 0x06100008, [], 32, [Reg.LENS_STATUS.pending, Reg.LENS_STATUS.slot]⟩,
  ⟨"LENS_ERR", 0x0610000C, [], 32, [Reg.LENS_ERR.account_end, Reg.LENS_ERR.refund_sat, Reg.LENS_ERR.samp_drop, Reg.LENS_ERR.late]⟩,
  ⟨"LENS_LATE", 0x06100010, [], 32, [Reg.LENS_LATE.value]⟩,
  ⟨"LENS_MAXLAG", 0x06100014, [], 32, [Reg.LENS_MAXLAG.value]⟩,
  ⟨"LENS_SAMP_DROP", 0x06100018, [], 32, [Reg.LENS_SAMP_DROP.value]⟩,
  ⟨"LENS_UNCOVERED", 0x0610001C, [], 32, [Reg.LENS_UNCOVERED.value]⟩,
  ⟨"LENS_SAMP_CFG", 0x06100020, [], 32, [Reg.LENS_SAMP_CFG.enable, Reg.LENS_SAMP_CFG.path, Reg.LENS_SAMP_CFG.ring_log2, Reg.LENS_SAMP_CFG.interval]⟩,
  ⟨"LENS_SAMP_HEAD", 0x06100030, [], 32, [Reg.LENS_SAMP_HEAD.head]⟩,
  ⟨"LENS_SAMP_TAIL", 0x06100034, [], 32, [Reg.LENS_SAMP_TAIL.tail]⟩]

/-- Registers of the tables, part 6. -/
def regRows5 : List RegDesc := [
  ⟨"LENS_SAMP_BASE", 0x06100028, [], 64, [Reg.LENS_SAMP_BASE.address]⟩,
  ⟨"LENS_QRATE", 0x06140000, [(0x10, 16384)], 32, [Reg.LENS_QRATE.rate 0]⟩,
  ⟨"LENS_QDEPTH", 0x06140004, [(0x10, 16384)], 32, [Reg.LENS_QDEPTH.depth 0]⟩,
  ⟨"LENS_QCTL", 0x06140008, [(0x10, 16384)], 32, [Reg.LENS_QCTL.enable 0, Reg.LENS_QCTL.reset_mode 0, Reg.LENS_QCTL.unit 0, Reg.LENS_QCTL.sample 0, Reg.LENS_QCTL.overhead 0]⟩,
  ⟨"LENS_QTOK", 0x0614000C, [(0x10, 16384)], 32, [Reg.LENS_QTOK.tokens 0]⟩,
  ⟨"LENS_ARATE", 0x06180000, [(0x10, 8192)], 32, [Reg.LENS_ARATE.rate 0]⟩,
  ⟨"LENS_ADEPTH", 0x06180004, [(0x10, 8192)], 32, [Reg.LENS_ADEPTH.depth 0]⟩,
  ⟨"LENS_ACTL", 0x06180008, [(0x10, 8192)], 32, [Reg.LENS_ACTL.enable 0, Reg.LENS_ACTL.reset_mode 0, Reg.LENS_ACTL.unmetered 0, Reg.LENS_ACTL.sector 0, Reg.LENS_ACTL.prefill_w 0, Reg.LENS_ACTL.decode_w 0, Reg.LENS_ACTL.row_charge 0]⟩,
  ⟨"LENS_ATOK", 0x0618000C, [(0x10, 8192)], 32, [Reg.LENS_ATOK.tokens 0]⟩,
  ⟨"LENS_PRATE", 0x061A0000, [(0x10, 32)], 32, [Reg.LENS_PRATE.rate 0]⟩,
  ⟨"LENS_PDEPTH", 0x061A0004, [(0x10, 32)], 32, [Reg.LENS_PDEPTH.depth 0]⟩,
  ⟨"LENS_PCTL", 0x061A0008, [(0x10, 32)], 32, [Reg.LENS_PCTL.enable 0, Reg.LENS_PCTL.reset_mode 0, Reg.LENS_PCTL.overhead 0]⟩,
  ⟨"LENS_PTOK", 0x061A000C, [(0x10, 32)], 32, [Reg.LENS_PTOK.tokens 0]⟩,
  ⟨"TOK_SPACE", 0x06200000, [], 32, [Reg.TOK_SPACE.free_mib, Reg.TOK_SPACE.size_mib]⟩,
  ⟨"TOK_ERR", 0x06200004, [], 32, [Reg.TOK_ERR.unk, Reg.TOK_ERR.pretoken_cut, Reg.TOK_ERR.rejected, Reg.TOK_ERR.invalid]⟩,
  ⟨"TOK_BYTES_IN", 0x06200010, [], 32, [Reg.TOK_BYTES_IN.count]⟩,
  ⟨"TOK_TOKENS_OUT", 0x06200014, [], 32, [Reg.TOK_TOKENS_OUT.count]⟩,
  ⟨"TOK_INVALID", 0x06200018, [], 32, [Reg.TOK_INVALID.count]⟩,
  ⟨"TOK_CARRIED", 0x0620001C, [], 32, [Reg.TOK_CARRIED.count]⟩,
  ⟨"TOK_DETOK_REPL", 0x06200020, [], 32, [Reg.TOK_DETOK_REPL.count]⟩]

/-- Registers of the tables, part 7. -/
def regRows6 : List RegDesc := [
  ⟨"TOK_VOCAB", 0x06200040, [(0x4, 16)], 32, [Reg.TOK_VOCAB.resident 0, Reg.TOK_VOCAB.loading 0, Reg.TOK_VOCAB.kind 0, Reg.TOK_VOCAB.sectors 0]⟩,
  ⟨"GRM_CFG", 0x06300000, [], 32, [Reg.GRM_CFG.slice_fclk, Reg.GRM_CFG.late_report]⟩,
  ⟨"GRM_ERR", 0x06300004, [], 32, [Reg.GRM_ERR.stack_limit, Reg.GRM_ERR.eps_limit, Reg.GRM_ERR.dead, Reg.GRM_ERR.late]⟩,
  ⟨"GRM_MASKS", 0x06300010, [], 32, [Reg.GRM_MASKS.count]⟩,
  ⟨"GRM_LATE_ROWS", 0x06300014, [], 32, [Reg.GRM_LATE_ROWS.count]⟩,
  ⟨"GRM_LATE_WAIT", 0x06300018, [], 32, [Reg.GRM_LATE_WAIT.count]⟩,
  ⟨"GRM_DEAD", 0x0630001C, [], 32, [Reg.GRM_DEAD.count]⟩,
  ⟨"GRM_CTX_CHECKS", 0x06300020, [], 32, [Reg.GRM_CTX_CHECKS.count]⟩,
  ⟨"GRM_EPS_LIMIT", 0x06300024, [], 32, [Reg.GRM_EPS_LIMIT.count]⟩,
  ⟨"GRM_POOL", 0x06300040, [(0x4, 16)], 32, [Reg.GRM_POOL.slots 0]⟩,
  ⟨"GRM_GRAM", 0x06300100, [(0x4, 64)], 32, [Reg.GRM_GRAM.resident 0, Reg.GRM_GRAM.loading 0, Reg.GRM_GRAM.vocab_id 0, Reg.GRM_GRAM.sectors 0]⟩,
  ⟨"SEL_CFG", 0x06380000, [], 32, [Reg.SEL_CFG.nan_report]⟩,
  ⟨"SEL_COMMIT", 0x06380004, [], 32, [Reg.SEL_COMMIT.commit]⟩,
  ⟨"SEL_ERR", 0x06380008, [], 32, [Reg.SEL_ERR.nan_selected, Reg.SEL_ERR.k_clamp, Reg.SEL_ERR.no_valid, Reg.SEL_ERR.overlap, Reg.SEL_ERR.bad_job]⟩,
  ⟨"SEL_ROWS", 0x06380010, [], 32, [Reg.SEL_ROWS.count]⟩,
  ⟨"SEL_SAMPLES", 0x06380014, [], 32, [Reg.SEL_SAMPLES.count]⟩,
  ⟨"SEL_TAIL_CUT", 0x06380018, [], 32, [Reg.SEL_TAIL_CUT.count]⟩,
  ⟨"SEL_NAN_ROWS", 0x0638001C, [], 32, [Reg.SEL_NAN_ROWS.count]⟩,
  ⟨"SEL_ROWTAB", 0x06380100, [(0x10, 16), (0x8, 2)], 64, [Reg.SEL_ROWTAB.address 0 0]⟩,
  ⟨"SEL_MRG", 0x06380200, [(0x4, 16)], 32, [Reg.SEL_MRG.enable 0, Reg.SEL_MRG.sector 0, Reg.SEL_MRG.sources 0]⟩]

/-- Registers of the tables, part 8. -/
def regRows7 : List RegDesc := [
  ⟨"IDX_CFG", 0x06400000, [], 32, [Reg.IDX_CFG.table_wait_us, Reg.IDX_CFG.batch_us, Reg.IDX_CFG.insert_par, Reg.IDX_CFG.max_queries]⟩,
  ⟨"IDX_COMMIT", 0x06400004, [], 32, [Reg.IDX_COMMIT.commit]⟩,
  ⟨"IDX_ERR", 0x06400008, [], 32, [Reg.IDX_ERR.nan_dist, Reg.IDX_ERR.visited_full, Reg.IDX_ERR.read_error]⟩,
  ⟨"IDX_QUERIES", 0x06400010, [], 32, [Reg.IDX_QUERIES.count]⟩,
  ⟨"IDX_READS", 0x06400014, [], 32, [Reg.IDX_READS.count]⟩,
  ⟨"IDX_INSERTS", 0x06400018, [], 32, [Reg.IDX_INSERTS.count]⟩,
  ⟨"IDX_DELETES", 0x0640001C, [], 32, [Reg.IDX_DELETES.count]⟩,
  ⟨"IDX_READ_ERRORS", 0x06400020, [], 32, [Reg.IDX_READ_ERRORS.count]⟩,
  ⟨"IDX_TABCORE", 0x06400040, [(0x4, 16)], 32, [Reg.IDX_TABCORE.core 0]⟩,
  ⟨"IDX_STATE", 0x06400100, [(0x10, 64)], 32, [Reg.IDX_STATE.sector 0, Reg.IDX_STATE.state 0]⟩,
  ⟨"IDX_EPOCHL", 0x06400104, [(0x10, 64)], 32, [Reg.IDX_EPOCHL.epoch_lo 0]⟩,
  ⟨"IDX_EPOCHH", 0x06400108, [(0x10, 64)], 32, [Reg.IDX_EPOCHH.epoch_hi 0]⟩,
  ⟨"IDX_REPAIR", 0x0640010C, [(0x10, 64)], 32, [Reg.IDX_REPAIR.passes 0, Reg.IDX_REPAIR.share 0]⟩,
  ⟨"POOL_CFG", 0x06500000, [], 32, [Reg.POOL_CFG.drain_us, Reg.POOL_CFG.pub_us, Reg.POOL_CFG.code_timeout_ms]⟩,
  ⟨"POOL_SIZE", 0x06500004, [], 32, [Reg.POOL_SIZE.t2_gib, Reg.POOL_SIZE.t1_chunks]⟩,
  ⟨"POOL_ERR", 0x06500008, [], 32, [Reg.POOL_ERR.cap_locked, Reg.POOL_ERR.code_fail, Reg.POOL_ERR.code_degraded, Reg.POOL_ERR.late_discard, Reg.POOL_ERR.auth]⟩,
  ⟨"POOL_REQS", 0x06500010, [], 32, [Reg.POOL_REQS.count]⟩,
  ⟨"POOL_REVOKED", 0x06500014, [], 32, [Reg.POOL_REVOKED.count]⟩,
  ⟨"POOL_CONFLICTS", 0x06500018, [], 32, [Reg.POOL_CONFLICTS.count]⟩,
  ⟨"POOL_CODESET", 0x06500040, [], 32, [Reg.POOL_CODESET.enable, Reg.POOL_CODESET.d]⟩]

/-- Registers of the tables, part 9. -/
def regRows8 : List RegDesc := [
  ⟨"POOL_CODEMEM", 0x06500060, [(0x8, 8)], 64, [Reg.POOL_CODEMEM.handle 0, Reg.POOL_CODEMEM.valid 0, Reg.POOL_CODEMEM.host 0]⟩,
  ⟨"POOL_HOST_ID", 0x06501000, [(0x10, 256)], 32, [Reg.POOL_HOST_ID.kind 0, Reg.POOL_HOST_ID.id 0]⟩,
  ⟨"POOL_HOST_CAP", 0x06501004, [(0x10, 256)], 32, [Reg.POOL_HOST_CAP.t2_gib 0, Reg.POOL_HOST_CAP.t1_chunks 0]⟩,
  ⟨"POOL_HOST_RATE", 0x06501008, [(0x10, 256)], 32, [Reg.POOL_HOST_RATE.rate 0]⟩,
  ⟨"POOL_HOST_STAT", 0x0650100C, [(0x10, 256)], 32, [Reg.POOL_HOST_STAT.extents 0, Reg.POOL_HOST_STAT.load 0]⟩,
  ⟨"CKPT_CFG", 0x06600000, [], 32, [Reg.CKPT_CFG.interval_s, Reg.CKPT_CFG.quiesce_ms, Reg.CKPT_CFG.chain_max]⟩,
  ⟨"CKPT_DOMAIN", 0x06600004, [], 32, [Reg.CKPT_DOMAIN.domain_id, Reg.CKPT_DOMAIN.keep]⟩,
  ⟨"CKPT_STATUS", 0x06600008, [], 32, [Reg.CKPT_STATUS.phase, Reg.CKPT_STATUS.status]⟩,
  ⟨"CKPT_EPOCH", 0x0660000C, [], 32, [Reg.CKPT_EPOCH.epoch]⟩,
  ⟨"CKPT_SEQ", 0x06600010, [], 64, [Reg.CKPT_SEQ.ckpt_seq]⟩,
  ⟨"CKPT_ERR", 0x06600018, [], 32, [Reg.CKPT_ERR.abandoned, Reg.CKPT_ERR.target, Reg.CKPT_ERR.verify, Reg.CKPT_ERR.mixed]⟩,
  ⟨"CKPT_MIB", 0x0660001C, [], 32, [Reg.CKPT_MIB.count]⟩,
  ⟨"CKPT_REFS", 0x06600020, [], 32, [Reg.CKPT_REFS.count]⟩,
  ⟨"CKPT_LAST_US", 0x06600024, [], 32, [Reg.CKPT_LAST_US.count]⟩,
  ⟨"CKPT_PEER", 0x06600040, [(0x8, 3)], 64, [Reg.CKPT_PEER.valid 0, Reg.CKPT_PEER.chip_id 0, Reg.CKPT_PEER.group_id 0]⟩,
  ⟨"CKPT_NS", 0x06600080, [(0x8, 16)], 64, [Reg.CKPT_NS.valid 0, Reg.CKPT_NS.target 0, Reg.CKPT_NS.nsid 0]⟩,
  ⟨"SCT_CFG", 0x06700000, [], 32, [Reg.SCT_CFG.grace_ms]⟩,
  ⟨"SCT_COMMIT", 0x06700004, [], 32, [Reg.SCT_COMMIT.commit]⟩,
  ⟨"SCT_EPOCH", 0x06700008, [], 32, [Reg.SCT_EPOCH.current, Reg.SCT_EPOCH.previous]⟩,
  ⟨"SCT_DRAIN", 0x0670000C, [], 32, [Reg.SCT_DRAIN.draining, Reg.SCT_DRAIN.old_inflight]⟩]

/-- Registers of the tables, part 10. -/
def regRows9 : List RegDesc := [
  ⟨"SCT_ERR", 0x06700010, [], 32, [Reg.SCT_ERR.compose_cancel, Reg.SCT_ERR.share_over, Reg.SCT_ERR.repair_recompose, Reg.SCT_ERR.stale]⟩,
  ⟨"SCT_STALE", 0x06700014, [], 32, [Reg.SCT_STALE.count]⟩,
  ⟨"SCT_SWITCH_WAIT", 0x06700018, [], 32, [Reg.SCT_SWITCH_WAIT.count]⟩,
  ⟨"SCT_CORES", 0x06700100, [(0x8, 16)], 32, [Reg.SCT_CORES.cores 0]⟩,
  ⟨"SCT_INFO", 0x06700104, [(0x8, 16)], 32, [Reg.SCT_INFO.present 0, Reg.SCT_INFO.sealed 0, Reg.SCT_INFO.user_counters 0, Reg.SCT_INFO.t1_chunks 0]⟩,
  ⟨"SCT_BW", 0x06700200, [(0x8, 16)], 32, [Reg.SCT_BW.ethernet 0, Reg.SCT_BW.lemdin 0, Reg.SCT_BW.flash 0, Reg.SCT_BW.stack 0]⟩,
  ⟨"SCT_BW2", 0x06700204, [(0x8, 16)], 32, [Reg.SCT_BW2.pcie 0]⟩,
  ⟨"SCT_S_INFO", 0x06701000, [(0x1000, 16)], 32, [Reg.SCT_S_INFO.sector 0, Reg.SCT_S_INFO.cores 0, Reg.SCT_S_INFO.epoch 0]⟩,
  ⟨"SCT_S_THROTTLE", 0x06701004, [(0x1000, 16)], 32, [Reg.SCT_S_THROTTLE.levels 0]⟩,
  ⟨"SCT_S_ERR", 0x06701008, [(0x1000, 16)], 32, [Reg.SCT_S_ERR.stale 0]⟩,
  ⟨"STK_CFG", 0x07000000, [(0x10000, 12)], 32, [Reg.STK_CFG.scrub_hours 0, Reg.STK_CFG.spare_threshold 0, Reg.STK_CFG.copy_share 0, Reg.STK_CFG.auto_spare 0]⟩,
  ⟨"STK_STATUS", 0x07000004, [(0x10000, 12)], 32, [Reg.STK_STATUS.temp 0, Reg.STK_STATUS.refresh_2x 0, Reg.STK_STATUS.halted 0, Reg.STK_STATUS.spares_left 0]⟩,
  ⟨"STK_ERR", 0x07000008, [(0x10000, 12)], 32, [Reg.STK_ERR.group_retired 0, Reg.STK_ERR.tree_fail 0, Reg.STK_ERR.mac_fail 0, Reg.STK_ERR.uncorrectable 0, Reg.STK_ERR.spare_done 0, Reg.STK_ERR.corrected 0]⟩,
  ⟨"STK_SPARE", 0x0700000C, [(0x10000, 12)], 32, [Reg.STK_SPARE.busy 0, Reg.STK_SPARE.progress 0, Reg.STK_SPARE.spare 0, Reg.STK_SPARE.start 0, Reg.STK_SPARE.channel 0]⟩,
  ⟨"STK_CORR", 0x07000010, [(0x10000, 12)], 32, [Reg.STK_CORR.count 0]⟩,
  ⟨"STK_UNCORR", 0x07000014, [(0x10000, 12)], 32, [Reg.STK_UNCORR.count 0]⟩,
  ⟨"STK_MAC_FAIL", 0x07000018, [(0x10000, 12)], 32, [Reg.STK_MAC_FAIL.count 0]⟩,
  ⟨"STK_CTR_OVF", 0x0700001C, [(0x10000, 12)], 32, [Reg.STK_CTR_OVF.count 0]⟩,
  ⟨"STK_CC_MISS", 0x07000020, [(0x10000, 12)], 32, [Reg.STK_CC_MISS.count 0]⟩,
  ⟨"STK_CH", 0x07000100, [(0x10000, 12), (0x4, 128)], 32, [Reg.STK_CH.state 0 0, Reg.STK_CH.slot 0 0, Reg.STK_CH.corrected 0 0]⟩]

/-- Registers of the tables, part 11. -/
def regRows10 : List RegDesc := [
  ⟨"STK_GROUP", 0x07000400, [(0x10000, 12), (0x4, 8)], 32, [Reg.STK_GROUP.retired 0 0]⟩,
  ⟨"FLS_CFG", 0x06800000, [], 32, [Reg.FLS_CFG.rd_limit_k, Reg.FLS_CFG.retention_days, Reg.FLS_CFG.gc_low]⟩,
  ⟨"FLS_CFG2", 0x06800004, [], 32, [Reg.FLS_CFG2.wl_spread, Reg.FLS_CFG2.flush_ms]⟩,
  ⟨"FLS_GEOM", 0x06800008, [], 32, [Reg.FLS_GEOM.planes, Reg.FLS_GEOM.luns, Reg.FLS_GEOM.pages, Reg.FLS_GEOM.spare_bytes_div16]⟩,
  ⟨"FLS_CAP", 0x0680000C, [], 32, [Reg.FLS_CAP.gib]⟩,
  ⟨"FLS_ERR", 0x06800010, [], 32, [Reg.FLS_ERR.channel_lost, Reg.FLS_ERR.lun_retired, Reg.FLS_ERR.unreadable, Reg.FLS_ERR.gcm]⟩,
  ⟨"FLS_RETRIES", 0x06800020, [], 32, [Reg.FLS_RETRIES.count]⟩,
  ⟨"FLS_UNCORR", 0x06800024, [], 32, [Reg.FLS_UNCORR.count]⟩,
  ⟨"FLS_RETIRED", 0x06800028, [], 32, [Reg.FLS_RETIRED.count]⟩,
  ⟨"FLS_RELOC", 0x0680002C, [], 32, [Reg.FLS_RELOC.count]⟩,
  ⟨"FLS_ERASES", 0x06800030, [], 32, [Reg.FLS_ERASES.count]⟩,
  ⟨"FLS_TGT", 0x06800100, [(0x4, 256)], 32, [Reg.FLS_TGT.state 0, Reg.FLS_TGT.reason 0, Reg.FLS_TGT.retired_blocks 0]⟩,
  ⟨"FLS_CH", 0x06800800, [(0x4, 32)], 32, [Reg.FLS_CH.state 0, Reg.FLS_CH.rate 0]⟩,
  ⟨"PCI_STATUS", 0x06B00000, [(0x100, 2)], 32, [Reg.PCI_STATUS.speed 0, Reg.PCI_STATUS.width 0, Reg.PCI_STATUS.flit_mode 0, Reg.PCI_STATUS.link_up 0]⟩,
  ⟨"PCI_ERR", 0x06B00004, [(0x100, 2)], 32, [Reg.PCI_ERR.poisoned 0, Reg.PCI_ERR.vf_flr 0, Reg.PCI_ERR.pf_flr 0, Reg.PCI_ERR.surprise_down 0]⟩,
  ⟨"PCI_DROP", 0x06B00008, [(0x100, 2)], 32, [Reg.PCI_DROP.count 0]⟩,
  ⟨"PCI_ADMQ_CFG", 0x06B0000C, [(0x100, 2)], 32, [Reg.PCI_ADMQ_CFG.enable 0, Reg.PCI_ADMQ_CFG.ring_log2 0, Reg.PCI_ADMQ_CFG.vector 0]⟩,
  ⟨"PCI_ADMQ_RING", 0x06B00010, [(0x100, 2)], 64, [Reg.PCI_ADMQ_RING.address 0]⟩,
  ⟨"PCI_ADMQ_CQ", 0x06B00018, [(0x100, 2)], 64, [Reg.PCI_ADMQ_CQ.address 0]⟩,
  ⟨"PCI_ADMQ_PAY", 0x06B00020, [(0x100, 2)], 64, [Reg.PCI_ADMQ_PAY.address 0, Reg.PCI_ADMQ_PAY.log2 0]⟩]

/-- Registers of the tables, part 12. -/
def regRows11 : List RegDesc := [
  ⟨"LNK_CFG", 0x06900000, [], 32, [Reg.LNK_CFG.down_ms]⟩,
  ⟨"LNK_ERR", 0x06900004, [], 32, [Reg.LNK_ERR.bad_class, Reg.LNK_ERR.loc_drop, Reg.LNK_ERR.lane_lost, Reg.LNK_ERR.ident_mismatch, Reg.LNK_ERR.retrain]⟩,
  ⟨"LNK_LOC_Q", 0x06900010, [], 32, [Reg.LNK_LOC_Q.count]⟩,
  ⟨"LNK_LOC_MISS", 0x06900014, [], 32, [Reg.LNK_LOC_MISS.count]⟩,
  ⟨"LNK_LOC_DROP", 0x06900018, [], 32, [Reg.LNK_LOC_DROP.count]⟩,
  ⟨"LNK_REPLAY", 0x0690001C, [], 32, [Reg.LNK_REPLAY.count]⟩,
  ⟨"LNK_PORT", 0x06900100, [(0x10, 8)], 32, [Reg.LNK_PORT.peer_chip 0, Reg.LNK_PORT.lanes 0, Reg.LNK_PORT.use 0, Reg.LNK_PORT.state 0]⟩,
  ⟨"LNK_PEER", 0x06900104, [(0x10, 8)], 32, [Reg.LNK_PEER.group 0, Reg.LNK_PEER.position 0, Reg.LNK_PEER.port 0]⟩,
  ⟨"LNK_CORR", 0x06900108, [(0x10, 8)], 32, [Reg.LNK_CORR.count 0]⟩,
  ⟨"NET_CFG", 0x06A00000, [], 32, [Reg.NET_CFG.retx_us]⟩,
  ⟨"NET_PTP", 0x06A00004, [], 32, [Reg.NET_PTP.enable, Reg.NET_PTP.locked, Reg.NET_PTP.domain, Reg.NET_PTP.step_ns]⟩,
  ⟨"NET_PTP_OFFSET", 0x06A00008, [], 32, [Reg.NET_PTP_OFFSET.offset]⟩,
  ⟨"NET_ERR", 0x06A0000C, [], 32, [Reg.NET_ERR.unreachable, Reg.NET_ERR.ptp_unlock, Reg.NET_ERR.qp_error, Reg.NET_ERR.link_down]⟩,
  ⟨"NET_RETX", 0x06A00010, [], 32, [Reg.NET_RETX.count]⟩,
  ⟨"NET_CNP", 0x06A00014, [], 32, [Reg.NET_CNP.count]⟩,
  ⟨"NET_QP_ERR", 0x06A00018, [], 32, [Reg.NET_QP_ERR.count]⟩,
  ⟨"NET_PORT", 0x06A00100, [(0x4, 2)], 32, [Reg.NET_PORT.link_up 0, Reg.NET_PORT.mode 0]⟩,
  ⟨"CORE_SEQ_CFG", 0x08000000, [(0x100000, 32)], 32, [Reg.CORE_SEQ_CFG.step_timeout 0, Reg.CORE_SEQ_CFG.refine_enable 0]⟩,
  ⟨"CORE_STEP", 0x08000004, [(0x100000, 32)], 32, [Reg.CORE_STEP.running 0, Reg.CORE_STEP.refine_running 0, Reg.CORE_STEP.step 0]⟩,
  ⟨"CORE_STEP_ERR", 0x08000008, [(0x100000, 32)], 32, [Reg.CORE_STEP_ERR.status 0, Reg.CORE_STEP_ERR.command 0]⟩]

/-- Registers of the tables, part 13. -/
def regRows12 : List RegDesc := [
  ⟨"CORE_IMAGE", 0x0800000C, [(0x100000, 32)], 32, [Reg.CORE_IMAGE.hosted 0, Reg.CORE_IMAGE.image_core 0, Reg.CORE_IMAGE.fail_run 0, Reg.CORE_IMAGE.sector 0, Reg.CORE_IMAGE.state 0]⟩,
  ⟨"CORE_ENG", 0x08000010, [(0x100000, 32)], 32, [Reg.CORE_ENG.spare_left 0, Reg.CORE_ENG.active 0, Reg.CORE_ENG.engine_ok 0]⟩,
  ⟨"CORE_SRAM_FREE", 0x08000014, [(0x100000, 32)], 32, [Reg.CORE_SRAM_FREE.bytes 0]⟩,
  ⟨"CORE_STEPS_DONE", 0x08000020, [(0x100000, 32)], 32, [Reg.CORE_STEPS_DONE.count 0]⟩,
  ⟨"CORE_STEPS_FAILED", 0x08000024, [(0x100000, 32)], 32, [Reg.CORE_STEPS_FAILED.count 0]⟩,
  ⟨"CORE_SLOT_WAIT", 0x08000028, [(0x100000, 32)], 32, [Reg.CORE_SLOT_WAIT.count 0]⟩,
  ⟨"CORE_DESC_WAIT", 0x0800002C, [(0x100000, 32)], 32, [Reg.CORE_DESC_WAIT.count 0]⟩,
  ⟨"CORE_FALLBACK", 0x08000030, [(0x100000, 32)], 32, [Reg.CORE_FALLBACK.count 0]⟩,
  ⟨"CORE_NUM_CFG", 0x08008000, [(0x100000, 32)], 32, [Reg.CORE_NUM_CFG.nan_report 0, Reg.CORE_NUM_CFG.sr_allow 0]⟩,
  ⟨"CORE_NUM_FLAGS", 0x08008004, [(0x100000, 32)], 32, [Reg.CORE_NUM_FLAGS.stat_mismatch 0, Reg.CORE_NUM_FLAGS.empty_row 0, Reg.CORE_NUM_FLAGS.int_sat 0, Reg.CORE_NUM_FLAGS.overflow 0, Reg.CORE_NUM_FLAGS.nan_out 0]⟩,
  ⟨"CORE_ATTN_TILES", 0x08008008, [(0x100000, 32)], 32, [Reg.CORE_ATTN_TILES.count 0]⟩,
  ⟨"CORE_ATTN_WAIT", 0x0800800C, [(0x100000, 32)], 32, [Reg.CORE_ATTN_WAIT.count 0]⟩,
  ⟨"CORE_ENG_STARVE", 0x08008010, [(0x100000, 32)], 32, [Reg.CORE_ENG_STARVE.count 0]⟩,
  ⟨"CNT_CFG", 0x0F100000, [], 32, [Reg.CNT_CFG.enable, Reg.CNT_CFG.vector]⟩,
  ⟨"CNT_OVF", 0x0F100008, [], 64, [Reg.CNT_OVF.overflow]⟩,
  ⟨"CNT_C", 0x0F100100, [(0x10, 64)], 64, [Reg.CNT_C.count 0]⟩,
  ⟨"CNT_SEL", 0x0F100108, [(0x10, 64)], 32, [Reg.CNT_SEL.enable 0, Reg.CNT_SEL.chain 0, Reg.CNT_SEL.irq 0, Reg.CNT_SEL.view 0, Reg.CNT_SEL.view_sector 0, Reg.CNT_SEL.event 0]⟩,
  ⟨"CNT_FILT", 0x0F10010C, [(0x10, 64)], 32, [Reg.CNT_FILT.range 0, Reg.CNT_FILT.master_id 0, Reg.CNT_FILT.master_kind 0, Reg.CNT_FILT.privilege 0]⟩,
  ⟨"CNT_CC", 0x0F101000, [(0x200, 32), (0x10, 16)], 64, [Reg.CNT_CC.count 0 0]⟩,
  ⟨"CNT_CSEL", 0x0F101008, [(0x200, 32), (0x10, 16)], 32, [Reg.CNT_CSEL.enable 0 0, Reg.CNT_CSEL.chain 0 0, Reg.CNT_CSEL.irq 0 0, Reg.CNT_CSEL.view 0 0, Reg.CNT_CSEL.view_sector 0 0, Reg.CNT_CSEL.event 0 0]⟩]

/-- Registers of the tables, part 14. -/
def regRows13 : List RegDesc := [
  ⟨"CNT_CFILT", 0x0F10100C, [(0x200, 32), (0x10, 16)], 32, [Reg.CNT_CFILT.range 0 0, Reg.CNT_CFILT.master_id 0 0, Reg.CNT_CFILT.master_kind 0 0, Reg.CNT_CFILT.privilege 0 0]⟩,
  ⟨"CNT_COVF", 0x0F101100, [(0x200, 32)], 32, [Reg.CNT_COVF.overflow 0]⟩,
  ⟨"CNT_CSAMP", 0x0F101108, [(0x200, 32)], 64, [Reg.CNT_CSAMP.valid 0, Reg.CNT_CSAMP.counter 0, Reg.CNT_CSAMP.step 0, Reg.CNT_CSAMP.command 0]⟩,
  ⟨"CNT_RANGE_LO", 0x0F105000, [(0x10, 7)], 64, [Reg.CNT_RANGE_LO.address 0]⟩,
  ⟨"CNT_RANGE_HI", 0x0F105008, [(0x10, 7)], 64, [Reg.CNT_RANGE_HI.address 0]⟩,
  ⟨"CNT_REC_CFG", 0x0F105100, [], 32, [Reg.CNT_REC_CFG.enable, Reg.CNT_REC_CFG.path, Reg.CNT_REC_CFG.ring_log2, Reg.CNT_REC_CFG.cnt_c, Reg.CNT_REC_CFG.cnt_b, Reg.CNT_REC_CFG.cnt_a]⟩,
  ⟨"CNT_REC_LAYER", 0x0F105104, [], 32, [Reg.CNT_REC_LAYER.layer_hi, Reg.CNT_REC_LAYER.layer_lo]⟩,
  ⟨"CNT_REC_BASE", 0x0F105108, [], 64, [Reg.CNT_REC_BASE.address]⟩,
  ⟨"CNT_REC_HEAD", 0x0F105110, [], 32, [Reg.CNT_REC_HEAD.head]⟩,
  ⟨"CNT_REC_TAIL", 0x0F105114, [], 32, [Reg.CNT_REC_TAIL.tail]⟩,
  ⟨"CNT_REC_DROP", 0x0F105118, [], 32, [Reg.CNT_REC_DROP.count]⟩,
  ⟨"CNT_V_VAL", 0x0F110000, [(0x1000, 16), (0x10, 64)], 64, [Reg.CNT_V_VAL.value 0 0]⟩,
  ⟨"CNT_V_SEL", 0x0F110008, [(0x1000, 16), (0x10, 64)], 32, [Reg.CNT_V_SEL.sel 0 0]⟩,
  ⟨"DBG_TRACE_CFG", 0x0F000000, [], 32, [Reg.DBG_TRACE_CFG.sectors, Reg.DBG_TRACE_CFG.enables]⟩,
  ⟨"DBG_TRACE_STAT", 0x0F000004, [], 32, [Reg.DBG_TRACE_STAT.active]⟩,
  ⟨"DBG_TRACE_LOST", 0x0F000008, [], 32, [Reg.DBG_TRACE_LOST.count]⟩,
  ⟨"DBG_MEM_ADDR", 0x0F000010, [], 64, [Reg.DBG_MEM_ADDR.address]⟩,
  ⟨"DBG_MEM_CTRL", 0x0F000018, [], 32, [Reg.DBG_MEM_CTRL.go, Reg.DBG_MEM_CTRL.busy, Reg.DBG_MEM_CTRL.sector, Reg.DBG_MEM_CTRL.status]⟩,
  ⟨"DBG_MEM_DATA", 0x0F000100, [(0x4, 64)], 32, [Reg.DBG_MEM_DATA.bytes 0]⟩,
  ⟨"DBG_WCTL", 0x0F001000, [(0x200, 32), (0x40, 8)], 32, [Reg.DBG_WCTL.enable 0 0, Reg.DBG_WCTL.crc 0 0, Reg.DBG_WCTL.once 0 0, Reg.DBG_WCTL.fired 0 0, Reg.DBG_WCTL.layer_id 0 0]⟩]

/-- Registers of the tables, part 15. -/
def regRows14 : List RegDesc := [
  ⟨"DBG_WOP", 0x0F001004, [(0x200, 32), (0x40, 8)], 32, [Reg.DBG_WOP.operator_id 0 0]⟩,
  ⟨"DBG_WMIN", 0x0F001008, [(0x200, 32), (0x40, 8)], 32, [Reg.DBG_WMIN.value 0 0]⟩,
  ⟨"DBG_WMAX", 0x0F00100C, [(0x200, 32), (0x40, 8)], 32, [Reg.DBG_WMAX.value 0 0]⟩,
  ⟨"DBG_WSUM", 0x0F001010, [(0x200, 32), (0x40, 8)], 64, [Reg.DBG_WSUM.value 0 0]⟩,
  ⟨"DBG_WSUMSQ", 0x0F001018, [(0x200, 32), (0x40, 8)], 64, [Reg.DBG_WSUMSQ.value 0 0]⟩,
  ⟨"DBG_WNAN", 0x0F001020, [(0x200, 32), (0x40, 8)], 32, [Reg.DBG_WNAN.count 0 0]⟩,
  ⟨"DBG_WINF", 0x0F001024, [(0x200, 32), (0x40, 8)], 32, [Reg.DBG_WINF.count 0 0]⟩,
  ⟨"DBG_WCRC", 0x0F001028, [(0x200, 32), (0x40, 8)], 64, [Reg.DBG_WCRC.crc 0 0]⟩,
  ⟨"DBG_WSTEP", 0x0F001030, [(0x200, 32), (0x40, 8)], 32, [Reg.DBG_WSTEP.value 0 0]⟩,
  ⟨"DBG_WCMD", 0x0F001034, [(0x200, 32), (0x40, 8)], 32, [Reg.DBG_WCMD.value 0 0]⟩,
  ⟨"FOG_CFG", 0x0F200000, [], 32, [Reg.FOG_CFG.irq_gap_us, Reg.FOG_CFG.err_irq, Reg.FOG_CFG.keeper_wd_us]⟩,
  ⟨"FOG_STATUS", 0x0F200004, [], 32, [Reg.FOG_STATUS.pending, Reg.FOG_STATUS.root_lost, Reg.FOG_STATUS.entries]⟩,
  ⟨"FOG_ROOTS", 0x0F200010, [], 32, [Reg.FOG_ROOTS.count]⟩,
  ⟨"FOG_LOST", 0x0F200014, [], 32, [Reg.FOG_LOST.count]⟩,
  ⟨"FOG_IRQ", 0x0F200018, [], 32, [Reg.FOG_IRQ.count]⟩,
  ⟨"FOG_REP_ENGINE", 0x0F200020, [], 32, [Reg.FOG_REP_ENGINE.count]⟩,
  ⟨"FOG_REP_CORE", 0x0F200024, [], 32, [Reg.FOG_REP_CORE.count]⟩,
  ⟨"FOG_REP_CHANNEL", 0x0F200028, [], 32, [Reg.FOG_REP_CHANNEL.count]⟩,
  ⟨"FOG_REP_FLASH", 0x0F20002C, [], 32, [Reg.FOG_REP_FLASH.count]⟩,
  ⟨"FOG_REP_LANE", 0x0F200030, [], 32, [Reg.FOG_REP_LANE.count]⟩]

/-- Registers of the tables, part 16. -/
def regRows15 : List RegDesc := [
  ⟨"FOG_REP_KEEPER", 0x0F200034, [], 32, [Reg.FOG_REP_KEEPER.count]⟩,
  ⟨"FOG_ID", 0x0F201000, [(0x20, 1024)], 32, [Reg.FOG_ID.fault_id 0]⟩,
  ⟨"FOG_INFO", 0x0F201004, [(0x20, 1024)], 32, [Reg.FOG_INFO.valid 0, Reg.FOG_INFO.severity 0, Reg.FOG_INFO.cls 0, Reg.FOG_INFO.reporter 0]⟩,
  ⟨"FOG_FIRST", 0x0F201008, [(0x20, 1024)], 64, [Reg.FOG_FIRST.daymark 0]⟩,
  ⟨"FOG_LAST", 0x0F201010, [(0x20, 1024)], 64, [Reg.FOG_LAST.daymark 0]⟩,
  ⟨"FOG_CNTA", 0x0F201018, [(0x20, 1024)], 32, [Reg.FOG_CNTA.class1 0, Reg.FOG_CNTA.class0 0]⟩,
  ⟨"FOG_CNTB", 0x0F20101C, [(0x20, 1024)], 32, [Reg.FOG_CNTB.class3 0, Reg.FOG_CNTB.class2 0]⟩]

/-- Every register of BAR0 (R571), in the chapters' order. -/
def regRows : List RegDesc :=
  regRows0 ++ regRows1 ++ regRows2 ++ regRows3 ++ regRows4 ++ regRows5 ++ regRows6 ++ regRows7 ++ regRows8 ++ regRows9 ++ regRows10 ++ regRows11 ++ regRows12 ++ regRows13 ++ regRows14 ++ regRows15

/-- The register at offset `o` of BAR0, or none where no register lies (R5). -/
def findReg (o : Nat) : Option RegDesc := regRows.find? (fun r => r.hit o)

end Sys2Proof.Machine
end

