-- ==== Sys2Proof/Machine/State.lean ====
section
/-!
DEFINITION. Machine/State.lean: everything the spec gives the machine, as plain data, and the machine right after
reset.
-/
namespace Sys2Proof.Machine

/-! ### Requests, queues and ports (spec/15) -/

/-- A fetched submission entry, kept until its completion (R493, R494). `serial` numbers the queue's fetches. -/
structure Ent where
  src : EntrySrc
  cid : Nat
  irq : Bool
  cookie : Nat
  serial : Nat
  deriving DecidableEq, Repr

/-- A completion entry (R493). -/
structure Completion where
  cid : Nat
  status : Nat
  sqHead : Nat
  phase : Nat
  cookie : Nat
  result : Nat
  daymark : Nat
  deriving DecidableEq, Repr

/-- QUE_INFO.state (R513). -/
inductive QSt where
  | running | dead | deleting
  deriving DecidableEq, Repr

/-- QUE_INFO.state's code (R513). -/
def QSt.code : QSt → Nat
  | .running => 1
  | .dead => 2
  | .deleting => 3

/-- An entry of a batch record (R229). -/
structure RecEntry where
  sid : Nat
  toolSeq : Nat
  tag : Nat
  status : Nat
  endReason : Nat
  tokens : List Nat
  text : List Byte
  idsPresent : Bool
  maskLate : Bool
  position : Nat
  deriving DecidableEq, Repr

/-- A batch record (R228). -/
structure BatchRecord where
  queue : Nat
  sector : Nat
  step : Nat
  bytes : Nat
  sequence : Nat
  daymark : Nat
  entries : List RecEntry
  deriving DecidableEq, Repr

/-- One hardware queue (R491 to R497): its description, its ring positions and what it holds. `unfetched` entries are
not device state; `opened` lists the serials of fetched entries without a completion; `held` and `heldRecs` are the
completions and records held for want of ring room (R494, R230); `produced` is the egress byte count (R495), `acks`
the counts that wait for an RDMA acknowledgement; `irqPending`, `irqFirst` coalesce (R496); `deleter` is the
QUEUE_DELETE that waits (R497). -/
structure Queue where
  kind : Nat
  pf : Bool
  sector : Nat
  location : Nat
  ringLog2 : Nat
  payloadLog2 : Nat
  peer : Nat
  ringAddr : Nat
  cplAddr : Nat
  payloadAddr : Nat
  vector : Nat
  rkey : Nat
  remoteQpn : Nat
  regionRkey : Nat
  qpn : Nat
  st : QSt
  sqHead : Nat
  fetched : Nat
  opened : List Nat
  cqPos : Nat
  held : List (Completion × Bool)
  recSeq : Nat
  heldRecs : List BatchRecord
  produced : Nat
  acks : List Nat
  irqPending : Nat
  irqFirst : Nat
  deleter : Option Ent
  deriving DecidableEq, Repr

/-- Ownership beside the OWN registers (R485 to R489): each master's first claim value and its time, the masters that
claimed in the open window, the window's end, the master that is no candidate in it, the last heartbeat, and the end
of a handover. -/
structure Own where
  half : Tab Nat
  claims : List Nat
  windowEnd : Option Nat
  barred : Nat
  hbAt : Nat
  handoverEnd : Option Nat
  deriving DecidableEq, Repr

/-- The MCTP link (R500): up or lost, the endpoint ID, the ADMIN entries that have come and are not yet taken, and all that are outstanding. -/
structure Mctp where
  up : Bool
  eid : Nat
  arrived : List EntryHdr
  outstanding : List EntryHdr
  deriving DecidableEq, Repr

/-- A sequenced frame (R501): sequence number, class, and the 256-byte flit. -/
structure SentFrame where
  seq : Nat
  cls : Nat
  flit : List Byte
  deriving DecidableEq, Repr

/-- One Lemdin port beside its LNK registers (R501 to R505, R566): sequence numbers, replay buffer,
classes and flits of frames that wait for room in it, frames sent without a returned credit for each pool, times of recent replays, start of training, lanes in use (a bit
each), lanes under retraining with the start of their error-free training, and whether the peer is known. -/
structure LPort where
  txSeq : Nat
  rxSeq : Nat
  replay : List SentFrame
  waiting : List (Nat × List Byte)
  usedCredits : Tab Nat
  replayTimes : List Nat
  trainStart : Option Nat
  lanes : Nat
  retrain : Tab Nat
  deriving DecidableEq, Repr

/-- A RoCEv2 queue pair (R508): retries made, its rate in sixteenths of sixteenths of line rate, the times of the last
CNP obeyed and of the last recovery, and the error state. -/
structure Qp where
  retries : Nat
  rate : Nat
  lastCnp : Option Nat
  lastRaise : Nat
  error : Bool
  deriving DecidableEq, Repr

/-! ### Faults, trace and repair (spec/17) -/

/-- One valid Foghorn entry (R562, R570). -/
structure FogEntry where
  id : Nat
  severity : Nat
  cls : Nat
  reporter : Nat
  first : Nat
  last : Nat
  c0 : Nat
  c1 : Nat
  c2 : Nat
  c3 : Nat
  deriving DecidableEq, Repr

/-- The storm limiter (R563): end of the gap in Lens time, and the causes deferred within it. -/
structure FogGap where
  until_ : Option Nat
  root : Bool
  error : Bool
  deriving DecidableEq, Repr

/-- A trace record of R553: type, size in bytes, and its fields in order. -/
structure TraceRec where
  type : Nat
  size : Nat
  fields : List Nat
  deriving DecidableEq, Repr

/-- A record queue of the Lantern port (R553, R554): waiting records, records lost since the last loss record, and the
Daymark of the first of them. -/
structure TraceQueue where
  recs : List TraceRec
  lost : Nat
  firstLost : Nat
  deriving DecidableEq, Repr

/-- The Lantern port (R551): frames sent, and the engine and general queues. -/
structure Lantern where
  frames : Nat
  engine : TraceQueue
  general : TraceQueue
  deriving DecidableEq, Repr

/-- A Keeper's part in the device (R20, R567): active, spare, or failed and held in reset; and the firmware digest it
runs. -/
inductive KeeperRole where
  | active | spare | failed
  deriving DecidableEq, Repr

/-- One Keeper. -/
structure Keeper where
  role : KeeperRole
  firmware : Nat
  deriving DecidableEq, Repr

/-- The TAP's data registers and the boundary-scan cells (R557, R558). -/
structure Tap where
  frzAddr : Nat
  denied : Bool
  error : Bool
  cells : List Bool
  deriving DecidableEq, Repr

/-! ### Security (spec/14) -/

/-- The key-generation record (R454) and the other NOR records and counters (R453). Reads of the counters are
authenticated while `countersOk`. -/
structure NorSecure where
  counter0 : Nat
  counter1 : Nat
  counter2 : Nat
  counter3 : Nat
  countersOk : Bool
  anchor : Option Nat
  genDev : Nat
  genPool : Nat
  gens : Tab Nat
  genCarried : Option Nat
  deriving DecidableEq, Repr

/-- The state of an SPDM session (R469). `transport` is 0, 1 for the DOE of a port, 2 for MCTP. -/
structure SpdmSession where
  transport : Nat
  fn : Fn
  established : Bool
  mutualAuth : Bool
  anchorChain : Bool
  master : Nat
  keyUpdates : Nat
  deriving DecidableEq, Repr

/-- How far SPDM negotiation has come on one transport and function (R469). -/
structure SpdmLink where
  version : Bool
  capabilities : Bool
  algorithms : Bool
  deriving DecidableEq, Repr

/-- One IDE stream (R471): stream n of a port, 0 for the PF and 1 + n for virtual function n. -/
structure IdeStream where
  keys : Tab Nat
  active : Option Nat
  insecure : Bool
  deriving DecidableEq, Repr

/-- Security beside the SEC registers: root secret reconstructed, running firmware digest and versions, anchor and
image-signing key IDs of the running configuration part, host keys and checkpoint seeds installed (R463, R465), debug
nonce (R475), SPDM sessions and negotiation, IDE streams, and the epoch each TDI was locked under. -/
structure Sec where
  nor : NorSecure
  puf : Bool
  fwDigest : Nat
  fwVersion : Nat
  cfgVersion : Nat
  cfgAnchor : Nat
  imageKeys : List Nat
  hostKeys : Tab Nat
  seeds : Tab Nat
  nonce : Option Nat
  spdm : Tab SpdmSession
  links : Tab SpdmLink
  ide : Tab IdeStream
  tdiEpoch : Tab Nat
  deriving DecidableEq, Repr

/-! ### Sessions (spec/02, spec/03) -/

/-- A copy of a session beside its parts: the retained copy (R101) or the coded copy (R103): the context length it was
written at, its pages and control block as they were then, where its root, CTRL, REC, STAT and leaves lie (the retention record of
R101; none for a coded copy), the units of REC and STAT, whether it is current (R102, R114), and a coded copy's place in the members'
extents and slice length (R360). -/
structure CopyRec where
  ctx : Nat
  pages : List Page
  ctrl : Ctrl
  root : Loc
  ctrlLoc : Loc
  recLoc : Loc
  statLoc : Loc
  leafLocs : Tab Loc
  recUnits : Nat
  statUnits : Nat
  current : Bool
  offset : Nat
  slice : Nat
  deriving DecidableEq, Repr

/-- A session's parts on this chip beside the Buoy: page table geometry, the generation at the root's last write, pages and the places of
their leaves by stream × 2^16 + leaf (R63, R64), CTRL (R53), sizes of REC and STAT in units, the position whose
statistics come first in STAT (R55), provisional rows by stream with the place
of their block and its units (R56), copies, objects waiting to be freed at the next boundary with their units (R62, R100), the page
that failed on the last walk (R68), migrations under way by stream × 2^20 + ordinal, their abandoned copies, and those that wait to
be retried at a boundary with their destinations (R110), the context length at which the turn began or its revive committed (R112), and the tier-1 place and
units of HEAD's turn token log (R111). -/
structure Moor where
  modelRevision : Nat
  layerSlots : Nat
  kvHeads : Nat
  lps : Nat
  rootGen : Nat
  pages : List Page
  leafLocs : Tab Loc
  ctrl : Ctrl
  recUnits : Nat
  statUnits : Nat
  statBase : Nat
  prov : Tab (List (List Byte))
  provLoc : Loc
  provUnits : Nat
  privateAdapter : Bool
  retained : Option CopyRec
  coded : Option CopyRec
  freeNext : List (Loc × Nat)
  failedPage : Option (Nat × Nat)
  migrating : Tab Loc
  abandons : Tab Nat
  backOff : Tab Loc
  startCtx : Nat
  logLoc : Loc
  logUnits : Nat
  deriving DecidableEq, Repr

/-- One object of a Mooring that a command places (R58, R91): CTRL, a leaf by its key, REC and STAT are 4 KiB objects; the root and the
pages are 16 KiB objects. -/
inductive ObjRef where
  | ctrl
  | leaf (key : Nat)
  | recurrent
  | stat
  | root
  | page (stream ordinal : Nat)
  deriving DecidableEq, Repr

/-- A place for an object: its location and units. -/
structure Spot where
  obj : ObjRef
  loc : Loc
  units : Nat
  deriving DecidableEq, Repr

/-- The passes of a session command (R93, R94), and the wait for admission (R106). -/
inductive Pass where
  | waiting | prepare | cancel | go | done | lose | final
  deriving DecidableEq, Repr

/-- The kind of slot an operation holds (R106). -/
inductive SlotKind where
  | cold | warm | none_
  deriving DecidableEq, Repr

/-- A session command under way on this chip (R94 to R98). On HEAD it carries the entry and the pass; on another chip
the work of GO. `msg` is the last message sent, `goMsg` a GO that has not returned when DONE is out, with the time it was sent and its
resends; `gen` is the generation at acceptance (R93); `fail` is the failure kept for the completion; `moved` the units its work moved;
`plan` the places it has reserved for its objects (R91, R94); `stopped` says that the resends of its passes have stopped (R98). -/
structure SesOp where
  opcode : Nat
  cmd : SesCmd
  ent : Option Ent
  seq : Nat
  gen : Nat
  pass : Pass
  slot : SlotKind
  holds : Bool
  coldFallback : Bool
  msg : SesMsg
  sentAt : Nat
  resends : Nat
  returned : Bool
  goMsg : Option (SesMsg × Nat × Nat)
  moved : Nat
  plan : List Spot
  working : Bool
  committed : Bool
  doneMsg : Option SesMsg
  fail : Nat
  arrived : Nat
  firstClass : Bool
  prepAt : Nat
  coordFailed : Bool
  stopped : Bool
  allocated : Bool
  inbound : Option MoveManifest
  record : Option MoveRecord
  deriving DecidableEq, Repr

/-- The session unit beside the SES registers: the Buoy table by index, Moorings by session ID, operations by session
ID, HEAD's sequence numbers, messages handled (R97), CANCELs kept for a broken ring (R98), exported move records by
session ID (R117), digest table by Buoy index (R209), the sharing table by Sector and key (R73) least recently used
first, round-robin positions of the pending lists (R106), the query snapshot under way (R84), and the count of commands accepted, which
orders their arrival (R106). -/
structure Ses where
  buoys : Tab Buoy
  moors : Tab Moor
  ops : Tab SesOp
  opSeq : Nat
  moveSeq : Nat
  handled : List (Nat × Nat)
  keptCancels : List SesMsg
  records : Tab MoveRecord
  digests : Tab DigestEntry
  sharing : List ((Nat × Nat) × Nat)
  rr1 : Nat
  rr2 : Nat
  adapters : Tab (Nat × Nat)
  query : Option Nat
  pressure : List Nat
  arrivals : Nat
  deriving DecidableEq, Repr

/-- The Locator cache (R16, R69, R70): a copy in each die buffer, by set, most recently used way first. -/
structure Locator where
  die0 : Tab (List LocEntry)
  die1 : Tab (List LocEntry)
  deriving DecidableEq, Repr

/-! ### Media (spec/13) -/

/-- One block group of a LUN (R438, R441, R445, R446, R448): 0 free, 1 open, 2 closed, 3 retired; erases, reads, next
page. -/
structure BlockGroup where
  st : Nat
  erases : Nat
  reads : Nat
  next : Nat
  deriving DecidableEq, Repr

/-- A translation-table entry (R438). `lun` is channel × 32 + target × 4 + LUN, the instance of fault kind 0x6. -/
structure FtlEntry where
  lun : Nat
  group : Nat
  page : Nat
  seq : Nat
  key : Nat
  deriving DecidableEq, Repr

/-- Flash beside the FLS registers: table by logical extent, block groups by LUN × 2^20 + group, block groups each LUN
has, write sequence, the last channel used for a Sector (R439), changed table pages with the time of the first change
(R442), sequence flushed, extents that read as failed, erase blocks retired by LUN. -/
structure Flash where
  table : Tab FtlEntry
  groups : Tab BlockGroup
  luns : Tab Nat
  seq : Nat
  lastChan : Tab Nat
  changed : Tab Nat
  flushedSeq : Nat
  failed : List Nat
  retiredBlocks : Tab Nat
  deriving DecidableEq, Repr

/-- A sparing copy under way (R432): channel, spare, logical slot. -/
structure Sparing where
  chan : Nat
  spare : Nat
  slot : Nat
  deriving DecidableEq, Repr

/-- One stack beside its STK registers: trained, poisoned blocks (channel slot × 2^24 + block), failed tree nodes,
sparing copy. -/
structure Stack where
  trained : Bool
  poisoned : List Nat
  failedNodes : List Nat
  sparing : Option Sparing
  deriving DecidableEq, Repr

/-- The stacks: each stack, the 7-bit minor and 64-bit major write counters of blocks and lines of stored memory, the 56-bit
counters of the integrity trees, the roots' among them (R429), by (stack × 8 + the child's level) × 2^24 + the child's index
(R428). The key a chunk is bound to (R426) follows from the map in force. -/
structure Media where
  stk : Tab Stack
  minor : Tab Nat
  major : Tab Nat
  tree : Tab Nat
  flash : Flash
  deriving DecidableEq, Repr

/-! ### Start-up and power (spec/16) -/

/-- The power phases behind PWR_STATUS.state (R531, R537): running, entering a state, in it, or exiting from it.
Targets are coded as PWR_CTRL.target. -/
inductive PowerPhase where
  | run
  | entering (target : Nat)
  | asleep (target : Nat)
  | exiting (target : Nat)
  deriving DecidableEq, Repr

/-- Start-up and power beside the PWR and CLK registers: the Light List in the NOR, the one running, what the ROM met,
waiting for VCORE_PG since (R580), the phase, VCORE_EN, quads idle since (R531), stretch s of each quad (R526), pulse
comparators already fired (R529), the resume state kept over DEEP (R536), frozen (R556). -/
structure Boot where
  nor : Option LightList
  running : Option LightList
  rom : RomEnv
  waitingPg : Option Nat
  phase : PowerPhase
  vcoreEn : Bool
  frozen : Bool
  lastBusy : Tab Nat
  stretch : Tab Nat
  fired : List Nat
  resume : Option Nat
  wakeN : Bool
  deriving DecidableEq, Repr

/-! ### Serving (spec/06) -/

/-- Tracked-turn states (R207). -/
inductive TurnSt where
  | held | reviving | queued | running | ending
  deriving DecidableEq, Repr

/-- A TURN or TURN_TEXT entry whose text waits for the tokenizer (R207, R272). -/
structure TextPiece where
  ent : Ent
  text : List Byte
  more : Bool
  isTurn : Bool
  order : Nat
  deriving DecidableEq, Repr

/-- A tracked turn on HEAD (R205 to R208, R111): the entry and its fields, state, text waiting, input tokens not yet
committed, log of token IDs, tokens to replay (R112), positions of
HEAD's context length that the next row starts before (R223), tokens emitted, charges debited
(R113), CANCEL entries that wait, end reason and status, and the Daymark at which the session became READY (R213). -/
structure Turn where
  ent : Ent
  entry : TurnEntry
  st : TurnSt
  textOpen : Bool
  texts : List TextPiece
  input : List Nat
  log : List Nat
  replay : List Nat
  back : Nat
  emitted : Nat
  charged : Nat
  cancels : List Ent
  endReason : Nat
  endStatus : Nat
  readyAt : Nat
  ran : Bool
  deriving DecidableEq, Repr

/-- A row of a step as HEAD formed it or as a chip received it (R213, R214, R219). `kind`, at HEAD, is 0 prefill, 1 decode, 2
replay. -/
structure StepRow where
  sid : Nat
  row : Nat
  kind : Nat
  qbase : Nat
  qcount : Nat
  join : Bool
  tree : Bool
  lastChunk : Bool
  window : Bool
  account : Nat
  charge : Nat
  invalid : Bool
  status : Nat
  tokens : List Nat
  parents : List Nat
  prevCommit : Nat
  prevPath : List Nat
  tBase : Nat
  tNew : List Nat
  deriving DecidableEq, Repr

/-- A leave reported with a step (R219, R222), and at HEAD whether its TOKENS entry has returned (R232). -/
structure StepLeave where
  sid : Nat
  returned : Bool
  ended : Bool
  status : Nat
  prevCommit : Nat
  prevPath : List Nat
  deriving DecidableEq, Repr

/-- A step of an interleaved batch on this chip (R211, R220): number, epoch, HEAD's Daymark at its start, rows, leaves, whether its cores have reported,
the segments arrived, positions, the cut flag, and the DOWN ports on which all its flits go (R25). -/
structure Step where
  number : Nat
  epoch : Nat
  headDaymark : Nat
  rows : List StepRow
  leaves : List StepLeave
  rowsTotal : Nat
  positions : Nat
  leaveOnly : Bool
  cut : Bool
  failed : Bool
  reported : Bool
  segs : List Nat
  ports : List Nat
  deriving DecidableEq, Repr

/-- One interleaved batch of a Sector on this chip (R210): members by batch row of their last step, the step that runs,
the next step whose flits are arriving, TOKENS entries received for the running step, and leaves to report. -/
structure Batch where
  members : List Nat
  running : Option Step
  next : Option Step
  tokens : List TokensEntry
  leaves : List StepLeave
  deriving DecidableEq, Repr

/-- The park policy armed for a session (R232): its hint, when its wait began on the Daymark, and whether a park fell
due while the session was busy. -/
structure ParkArm where
  hint : Nat
  since : Nat
  due : Nat
  deriving DecidableEq, Repr

/-- A turn on TAIL (R292): the fields of TURN_CFG and the sampled state of the session's rows. -/
structure TailTurn where
  tag : Nat
  vocab : Nat
  grammarId : Nat
  grammarOn : Bool
  deadEnd : Bool
  tokenIds : Bool
  noSpec : Bool
  egress : Nat
  maxNew : Nat
  seed : Nat
  temperature : Nat
  topK : Nat
  topP : Nat
  minP : Nat
  applied : Bool
  emitted : Nat
  ended : Bool
  egressOk : Bool
  overrun : Bool
  gone : Bool
  deriving DecidableEq, Repr

/-- What sampling made of one row at TAIL (R224): tokens emitted, path committed, end reason, status, late mask, next
tree, draws taken. -/
structure RowResult where
  sid : Nat
  emitted : List Nat
  path : List Nat
  endReason : Nat
  status : Nat
  maskLate : Bool
  drafts : List Nat
  draftParents : List Nat
  draws : Nat
  deriving DecidableEq, Repr

/-- The serving unit beside the SES_SRV registers: turns by session ID, interleaved batches by Sector × 256 + batch,
step numbers by Sector, park arms by session ID, tokens each session's next row starts from (last sampled token and the
draft tree proposed for it), turns known to TAIL by session ID, results of the running step at TAIL by session ID. -/
structure Srv where
  turns : Tab Turn
  batches : Tab Batch
  steps : Tab Nat
  arms : Tab ParkArm
  nextTree : Tab (Nat × List Nat × List Nat)
  tail : Tab TailTurn
  results : Tab RowResult
  pathOf : Tab (Nat × List Nat)
  deriving DecidableEq, Repr

/-! ### Composition and the shared tier (spec/10) -/

/-- A composition map in force (R339, R342): its epoch, the Sector descriptors, and each Sector's ordered lists
of chunks and of 1 GiB units of tier 2. -/
structure CompMap where
  epoch : Nat
  sects : List SectorDesc
  chunks : Tab (List Nat)
  units : Tab (List Nat)
  deriving DecidableEq, Repr

/-- Composition beside the SCT registers (R342 to R345): current map, previous map with the operations that
were under way at the switch as (kind, number), staged map with its SECTOR_COMPOSE, end of the grace period, steps listed by SWITCH that have not finished, the
pass under way at HEAD (its last message's kind, epoch and status, and when it was sent), and whether a repair map waits
(R347). -/
structure Comp where
  cur : CompMap
  prev : Option CompMap
  prevOps : List (Nat × Nat)
  staged : Option SectorMap
  stager : Option Ent
  repair : Bool
  graceEnd : Nat
  lastOld : List Nat
  passMsg : Option (Nat × Nat × Nat)
  passAt : Nat
  asked : Option Nat
  reserved : List Nat
  deriving DecidableEq, Repr

/-- A grant of an extent (R352, R358), with the EXTENT_REVOKE entries that wait for its end. Rights: read 1, write 2, writer of
record 4. -/
structure Grant where
  host : Nat
  rights : Nat
  draining : Bool
  drainEnd : Nat
  revokers : List Ent
  deriving DecidableEq, Repr

/-- A staged publish (R359), with the source bytes it copied. -/
structure StagedPub where
  host : Nat
  tag : Nat
  version : Nat
  offset : Nat
  bytes : List Byte
  arrival : Nat
  deriving DecidableEq, Repr

/-- An extent (R352): owner host, tier, bytes, publishable with its version and current half, grants, a window extent's
session, and whether it shows the move record (R116), staged publishes with the end of the window, and the old writer of a handover with its end (R359). -/
structure Extent where
  gen : Nat
  live : Bool
  host : Nat
  tier : Nat
  bytes : Nat
  publishable : Bool
  version : Nat
  half : Nat
  grants : List Grant
  window : Option Nat
  record : Bool
  staged : List StagedPub
  windowEnd : Option Nat
  oldWriter : Option (Nat × Nat)
  deriving DecidableEq, Repr

/-- A coded copy being written (R103, R360): the work of the park that waits for it, members with the requests each has still
to acknowledge, members left out, when it began, where its slices start in the members' extents, their length, and what came
of it. -/
structure CodedWrite where
  result : WorkResult
  members : Tab Nat
  failed : List Nat
  started : Nat
  offset : Nat
  slice : Nat
  outcome : Option Bool
  deriving DecidableEq, Repr

/-- A pool request that this chip has sent (R358, R360): session, member, the extent's handle, and whether its grant is still
open here. -/
structure PoolOut where
  sid : Nat
  member : Nat
  handle : Nat
  opened : Bool
  deriving DecidableEq, Repr

/-- The shared tier beside the POOL registers: extents by number, host token buckets in tenths of a byte with the time of the
last refill (R356), host queues, the version and bytes that a waiting READ of a publishable extent was accepted under (R359), requests this chip has sent by tag, coded writes by session ID, and the count of publishes
and of requests sent. -/
structure Pool where
  extents : Tab Extent
  bucket : Tab (Int × Nat)
  queues : Tab (List PoolReq)
  pinned : List (PoolReq × Nat × List Byte)
  requests : Tab PoolOut
  coded : Tab CodedWrite
  arrivals : Nat
  deriving DecidableEq, Repr

/-! ### The Lens (spec/11) -/

/-- A shaper or account (R368): tokens x, the fraction carried (in the entry's denominator), and T_last. -/
structure LensEnt where
  x : Int
  frac : Nat
  last : Nat
  deriving DecidableEq, Repr

/-- An entry in the calendar (R366): its key, eligible time t_e, slot, and the tokens that what
waits on it needs (R376). -/
structure CalEnt where
  key : Nat
  te : Nat
  slot : Nat
  need : Nat
  deriving DecidableEq, Repr

/-- The Lens beside its registers: entries by key (queue q, 0x10000 + account, 0x20000 + port shaper), the calendar in
the order of entry (R367), entries with an SH field written since their last commit (R378), the sampler's next sweep
(R381), and each queue's doorbells not yet fetched, as (tail, time) (R381). -/
structure Lens where
  ents : Tab LensEnt
  cal : List CalEnt
  changed : List Nat
  sweepAt : Nat
  bells : Tab (List (Nat × Nat))
  deriving DecidableEq, Repr

/-! ### Cores and layer images (spec/05) -/

/-- A command that runs (R546, R547, R68): its engine, the status it has met, the Daymark at issue, the three core counters at issue,
the first batch row reported and how many. -/
structure RunCmd where
  engine : Nat
  status : Nat
  start : Nat
  counters : List Nat
  firstRow : Nat
  rowsReported : Nat
  deriving DecidableEq, Repr

/-- One command list as the sequencer runs it (R170, R172, R175): the next command to issue, the commands that run with
the status each has met so far, scoreboard counts and poisoned slots. -/
structure ListRun where
  head : Nat
  running : Tab RunCmd
  slots : Tab Nat
  poison : List Nat
  deriving DecidableEq, Repr

/-- An image core hosted on a core (R193): its two lists, the OUT, SEL_GO and ROUTE signals of the step so far (R171),
whether the step_end command has completed, and the first failed command with its status (R174). -/
structure ImgRun where
  step : ListRun
  refine : ListRun
  outs : Nat
  selGos : Nat
  routes : Nat
  ended : Bool
  firstFail : Option (Nat × Nat)
  deriving DecidableEq, Repr

/-- A page descriptor (R66). -/
structure PageDesc where
  address : Nat
  first : Nat
  valid : Nat
  format : Nat
  last : Bool
  shared : Bool
  prov : Bool
  layerId : Nat
  kvHead : Nat
  row : Nat
  sid : Nat
  epoch : Nat
  deriving DecidableEq, Repr

/-- A core beside its CORE registers: image cores it hosts, the step's full number, row count and start on the Daymark
(R173, R177), whether its report of the step is out (R174), its descriptor buffer and the descriptors that Keeper firmware holds back
while the buffer is full (R67, R166), and the batch rows of the step whose tables it holds (R173). -/
structure CoreRun where
  imgs : Tab ImgRun
  stepNo : Nat
  rows : Nat
  startedAt : Nat
  reported : Bool
  stepFailed : Bool
  descs : List PageDesc
  held : List PageDesc
  table : List StepRow
  rowTab : Nat
  deriving DecidableEq, Repr

/-- A Sector's layer images (R186, R190 to R193): active and staged, an activation under way with its deadline, the
core that hosts each image core, blobs of preferred placement that lie in tier 1, image cores whose SRAM is a tier-1
shadow, the core table with its relocations applied, and FAULTED (R178). -/
structure SecImg where
  active : Option Image
  staged : Option Image
  activating : Option (Ent × Nat)
  hosts : List Nat
  blobsInTier1 : List Nat
  shadow : List Nat
  live : List CoreEntry
  faulted : Bool
  deriving DecidableEq, Repr

/-- Cores and images: cores by number, Sectors' images, cores that leave service at the next boundary and cores that
have left it (R565). -/
structure Eng where
  runs : Tab CoreRun
  imgs : Tab SecImg
  retiring : List Nat
  retired : List Nat
  deriving DecidableEq, Repr

/-! ### Selection, tokens and grammars (spec/07, spec/08) -/

/-- A row's result of a selection unit or of the merge unit (R243): header fields and slots (index, FP32 bits); `beta` is
the row's β as FP32 bits. -/
structure SelRes where
  source : Nat
  base : Nat
  length : Nat
  step : Nat
  row : Nat
  valid : Nat
  k : Nat
  beta : Nat
  sumExp : Bool
  nanSelected : Bool
  nanSeen : Bool
  posInf : Bool
  masked : Bool
  merged : Bool
  tieTotal : Nat
  tieIn : Nat
  m : Nat
  sSel : Nat
  sExc : Nat
  nanCount : Nat
  slots : List (Nat × Nat)
  deriving DecidableEq, Repr

/-- A selection unit's work for an image core in a step (R239): jobs done, rows of the current job written, and the row
that waits on its mask with the time since when (R241, R298). -/
structure SelRun where
  done : Nat
  row : Nat
  waiting : Option (Nat × Nat)
  deriving DecidableEq, Repr

/-- Selection: units by core × 32 + image core, partial results at the hub by merge slot, STEP half and row, merged results by
Sector, STEP half and row, the step rows whose mask was late likewise, and the MoE entries whose routes the
step has written by Sector × 2^16 + entry. -/
structure Sel where
  runs : Tab SelRun
  parts : Tab (List SelRes)
  merged : Tab SelRes
  late : List Nat
  routed : List Nat
  deriving DecidableEq, Repr

/-- The life of a vocabulary or grammar slot (R262, R263): loading, loaded on HEAD and waiting for TAIL's report, checked
and waiting for its boundary, resident, and unloading. -/
inductive SlotPhase where
  | loading | checked | resident | unloading
  deriving DecidableEq, Repr

/-- A vocabulary slot: the image's bytes as they lie in the token region and what they say, Sectors, phase with the time it was entered, and
the entry to complete. -/
structure VocabSlot where
  bytes : List Byte
  img : VocabImage
  sectors : Nat
  phase : SlotPhase
  since : Nat
  ent : Option Ent
  deriving DecidableEq, Repr

/-- A grammar slot. -/
structure GramSlot where
  bytes : List Byte
  img : GramImage
  sectors : Nat
  phase : SlotPhase
  since : Nat
  ent : Option Ent
  deriving DecidableEq, Repr

/-- A bulk transfer to TAIL (R262, R502): what it carries and the bytes that have come. -/
structure TokXfer where
  isGram : Bool
  id : Nat
  sectors : Nat
  length : Nat
  sha : Nat
  data : List Byte
  deriving DecidableEq, Repr

/-- Tokens: slots, transfers, the next transfer number at HEAD, the Sector from which a lane last took an entry (R282),
and the count of text entries accepted. -/
structure Tok where
  vocabs : Tab VocabSlot
  grams : Tab GramSlot
  xfers : Tab TokXfer
  xferSeq : Nat
  lastSector : Nat
  arrivals : Nat
  deriving DecidableEq, Repr

/-- One row of a mask job (R294, R295): step row, session, draft tokens from node 0 to its node, area taken, ready. -/
structure MaskRow where
  row : Nat
  sid : Nat
  path : List Nat
  area : Option Nat
  ready : Bool
  deriving DecidableEq, Repr

/-- A mask job (R295): batch, step number, the pool size read for it, its rows in ascending step row. -/
structure MaskJob where
  batch : Nat
  step : Nat
  slots : Nat
  rows : List MaskRow
  deriving DecidableEq, Repr

/-- The grammar engine: job queues by Sector, the Sector of the current slice (R296), and by Sector the ring of areas: the
next area and the areas in use with their step × 2^16 + row. -/
structure Grm where
  jobs : Tab (List MaskJob)
  turn : Nat
  pools : Tab (Nat × List (Nat × Nat))
  deriving DecidableEq, Repr

/-! ### Vector search (spec/09) -/

/-- A waiting insert or delete of an index's writer (R325), in submission order. An insert holds its key, vector and result
offset; `phase` is 0 while it waits to search, 1 while it searches, 2 when it is ready to write, with its code and the visible
nodes its search expanded. -/
inductive IdxWrite where
  | insert (ent : Ent) (key : Nat) (vector : List Byte) (resultOffset : Nat) (phase : Nat) (code : List Nat) (found : List Nat)
  | delete (ent : Ent) (node : Nat)
  deriving DecidableEq, Repr

/-- An index (R309, R317): its header's fields, the flat address of its range with its 4 KiB units, IDX_STATE's state (1 opening, 2
open, 3 dropping), the epoch in force, freed node IDs, the tombstone bitmap as a list, waiting writes, the INDEX_CREATE or
INDEX_DROP that waits, and the repair pass: next block, its start epoch, tombstones known at its start, whether it skipped a
block, and nodes whose slot may be freed with their delete epoch. -/
structure VecIndex where
  sector : Nat
  base : Nat
  units : Nat
  st : Nat
  metric : Nat
  c : Nat
  dim : Nat
  degree : Nat
  full : Bool
  rpb : Nat
  recordBytes : Nat
  capacity : Nat
  hwm : Nat
  epoch : Nat
  entries : List Nat
  cnormOff : Nat
  blocksOff : Nat
  vectorsOff : Nat
  alpha : Nat
  buildL : Nat
  freed : List Nat
  tombs : List Nat
  writes : List IdxWrite
  waiter : Option Ent
  sweepBlock : Nat
  sweepEpoch : Nat
  passTombs : List Nat
  skipped : Bool
  freeable : List (Nat × Nat)
  deriving DecidableEq, Repr

/-- A candidate of a query (R321): key (FP32 bits), node ID, expanded. -/
structure Cand where
  key : Nat
  node : Nat
  expanded : Bool
  deriving DecidableEq, Repr

/-- A query context (R319 to R323), which an insert's search uses too (`insert`): entry, command, vector, start epoch, the packed
table with 255 Δ and the base as exact values m × 2^e (m, e), an insert's code, candidates, visited nodes, results (key, node),
reads, errors, the nodes being read in the present round with their keys, the phase (0 waits for its table, 1 entry nodes, 2 a
round of the walk, 3 the rerank round), and the flags. -/
structure QueryCtx where
  ent : Ent
  insert : Bool
  q : VecQuery
  vector : List Byte
  epoch : Nat
  packed : List Nat
  span : Int × Int
  base : Int × Int
  code : List Nat
  cand : List Cand
  visited : List Nat
  results : List (Nat × Nat)
  reads : Nat
  errors : Nat
  round : List (Nat × Nat)
  phase : Nat
  hopLimit : Bool
  visitedFull : Bool
  deriving DecidableEq, Repr

/-- A distance table for the queries of a Sector (R314): query contexts, and since when it waits. -/
structure TableJob where
  sector : Nat
  queries : List Nat
  since : Nat
  urgent : Bool
  deriving DecidableEq, Repr

/-- Vector search: indexes by number, query contexts by number, queries gathered by index with the time of the first
(R319), and the distance tables waiting by core (R314). -/
structure Idx where
  idx : Tab VecIndex
  queries : Tab QueryCtx
  gather : Tab (List Nat × Nat)
  tables : Tab (List TableJob)
  deriving DecidableEq, Repr

/-! ### Checkpoint and restore (spec/12) -/

/-- A Sector's base checkpoint on this chip (R404, R412): ckpt_seq, the epoch its cut ended, incremental checkpoints since
the full one. -/
structure CkptBase where
  seq : Nat
  epoch : Nat
  chain : Nat
  deriving DecidableEq, Repr

/-- An object pending in the checkpoint's snapshot (R405): Sector, the entry's fields, where a page lay at the cut with its 4 KiB
units and its key, and its body as captured where it is no page. -/
structure PendObj where
  sector : Nat
  obj : CkptObj
  loc : Loc
  units : Nat
  key : Nat
  deriving DecidableEq, Repr

/-- A shard built (R407): kind, Sector, objects, payload bytes, digest. -/
structure Shard where
  kind : Nat
  sector : Nat
  objects : List CkptObj
  bytes : Nat
  digest : Nat
  deriving DecidableEq, Repr

/-- The checkpoint under way on this chip (R399 to R412). `coord`: this chip started it. `ringBack`: the QUIESCE of the group has
come back, with the status and position it brought; `readySent`; `ready`: groups that sent READY (coordinator). `batches`:
interleaved batches (Sector × 256 + batch) whose cut step HEAD has not started; `cutSteps`: c_n by Sector; `cutDone`: this chip
has taken its cut, which ended epoch `epoch`, with `fulls` the Sectors taken full. `pend` is the pending set, `copied` what the
copy has taken of it by Sector; `shards` the shards once built; `lists` digest lists of replica peers by chip, awaited since
`listsSince`; `chips`, `entries`, `groups`: what reports have brought; `blocks`: the
spans of blocks it has written. -/
structure CkptRun where
  seq : Nat
  sectors : Nat
  full : Bool
  coord : Bool
  ent : Option Ent
  startedAt : Nat
  ringBack : Bool
  status : Nat
  failPos : Nat
  readySent : Bool
  ready : List Nat
  cutDaymark : Nat
  cutting : Bool
  batches : List Nat
  cutSteps : Tab Nat
  cutDone : Bool
  epoch : Nat
  fulls : List Nat
  pend : List PendObj
  copied : List (Nat × CkptObj)
  shards : Option (List Shard)
  listsSince : Option Nat
  lists : Tab (List Nat)
  reported : Bool
  chips : List CkptChip
  entries : List ShardEntry
  groups : List CkptGroup
  blocks : List (Nat × Nat)
  deriving DecidableEq, Repr

/-- A page copied aside for the checkpoint's snapshot (R109): its Sector, session and key, where the copy lies, and its bytes. -/
structure AsideCopy where
  sector : Nat
  sid : Nat
  key : Nat
  loc : Loc
  bytes : List Byte
  deriving DecidableEq, Repr

/-- Checkpoint state: the run under way, the last ring message of HEAD with the time it was sent while it has not come back, and
Sectors' bases; touched sessions by Sector in the active and the capture set (R403), shared pages and adapters (kind, Sector,
key) new since the base, likewise; pages copied aside with their bytes (R109, R405); the next block of the namespace's log, and
what committed checkpoints hold of it, newest first, with whether each was full (R410); when
the last periodic checkpoint began; and a restore under way at HEAD: its entry, Sectors, cold flag, the candidate being placed
and the older ones, and the source group. -/
structure Ckpt where
  run : Option CkptRun
  passMsg : Option (CkptMsg × Nat)
  bases : Tab CkptBase
  touched : List (Nat × Nat)
  capture : List (Nat × Nat)
  news : List (Nat × Nat × Nat)
  newsCapture : List (Nat × Nat × Nat)
  aside : List AsideCopy
  log : Nat
  kept : List (Bool × List (Nat × Nat))
  lastAt : Nat
  restoring : Option (Ent × Nat × Bool × List RestoreCand × Nat)
  deriving DecidableEq, Repr


/-! ### What the device sends out, and the state -/

/-- What the device writes, sends or drives outwards: appended to the output log, latest first. The log is the model's
own field, not the device's. -/
inductive Emission where
  | completion (src : EntrySrc) (c : Completion)
  | mctpAdmin (c : Completion)
  | mctpBusy (cid : Nat)
  | mctpReg (status value : Nat)
  | mctpPldm (sensor code value : Nat)
  | mctpControl (command code value : Nat)
  | regValue (off value : Nat)
  | unsupportedRequest (off : Nat)
  | irq (port : Nat) (fn : Fn) (vector : Nat)
  | sesMsg (m : SesMsg)
  | compMsg (m : CompMsg)
  | seg (port : Nat) (f : SegFlit)
  | row (port : Nat) (f : RowFlit)
  | digest (port : Nat) (sid : Nat) (ds : List Nat)
  | segData (port sector batch segment : Nat) (bytes : List Byte)
  | tokens (a : TokensEntry) (b : Option TokensEntry)
  | leave (sid : Nat)
  | record (r : BatchRecord)
  | pad (queue bytes : Nat)
  | produced (queue count : Nat)
  | hostWrite (path addr : Nat) (bytes : List Byte)
  | link (port : Nat) (subtype value : Nat)
  | delivered (port cls seq : Nat)
  | nak (port expected : Nat)
  | replayed (port : Nat) (seqs : List Nat)
  | ident (port : Nat) (i : Ident)
  | locReply (port exchange chip group : Nat) (sids : List Nat) (replies : List LocEntry)
  | locKept (e : LocEntry)
  | askKeeper (sid chip : Nat)
  | retransmit (qp : QpRef)
  | cnp (qp : QpRef)
  | poolResp (host : Nat) (p : PoolResp)
  | poolReq (host : Nat) (r : PoolReq)
  | secResp (ch : SecChannel) (status : Nat) (vals : List Nat)
  | spdm (ch : SecChannel) (code : Nat) (vals : List Nat)
  | spdmError (ch : SecChannel) (code : Nat)
  | tdisp (ch : SecChannel) (code : Nat) (vals : List Nat)
  | tdispError (ch : SecChannel) (code : Nat)
  | tap (instr value : Nat)
  | frame (kind idle seq : Nat) (recs : List TraceRec) (daymark : Nat)
  | vcoreEn (b : Bool)
  | avsVid (code : Nat)
  | flash (op lun group page : Nat)
  | started (mode : Nat)
  | turnCfg (c : TurnCfg)
  | redirect (sid group chip : Nat)
  | tokReport (isGram : Bool) (id status : Nat)
  | bulkStart (transfer length sha : Nat) (isGram : Bool) (id sectors : Nat)
  | bulk (transfer offset : Nat) (data : List Byte)
  | ckptMsg (peer : Option Nat) (m : CkptMsg)
  | ckptReport (peer : Option Nat) (m : CkptMsg) (chips : List CkptChip) (shards : List ShardEntry) (groups : List CkptGroup)
  | ckptShard (nguid lba : Nat) (s : Shard) (bytes : List Byte)
  | ckptFlush
  | ckptManifest (lba : Nat) (m : Manifest) (bytes : List Byte)
  | ckptSlot (slot : Nat) (bytes : List Byte)
  | digestList (chip : Nat) (digests : List Nat)
  | restoreChain (seqs : List Nat)
  | payload (queue offset : Nat) (bytes : List Byte)
  | cmdRecord (index : Nat) (fields : List Nat)
  deriving DecidableEq, Repr

/-- A commit waiting for its commit point (R384, R385): the block, when the commit register was written, and the
captured value of each SH field by key. -/
structure PendSet where
  block : Nat
  at_ : Nat
  vals : List (Nat × Nat)
  deriving DecidableEq, Repr

/-- The device, but for the queue of waiting commands and the bytes of memory. `now` is Lens time T (R363); `daymark`
the Daymark (R527); `freeCtr` counts the free values drawn (the model's own field); `out` is the output log (the model's
own field); `regs` holds every register field whose value is not its reset value, `committed` every committed SH field
likewise. -/
structure Dev where
  now : Nat
  daymark : Nat
  freeCtr : Nat
  out : List Emission
  regs : Tab Nat
  committed : Tab Nat
  pends : List PendSet
  bar2 : Tab Nat
  idxLatch : Tab Nat
  own : Own
  que : Tab Queue
  peers : Tab PeerEntry
  peersNext : Tab PeerEntry
  qps : Tab Qp
  mctp : Mctp
  ports : Tab LPort
  ringWait : List (Nat × List Byte)
  locQuery : Tab LocEntry
  downSince : Option Nat
  ptpGood : Nat
  ptpAt : Nat
  fog : Tab FogEntry
  gap : FogGap
  lantern : Lantern
  keepers : List Keeper
  tap : Tap
  sec : Sec
  ses : Ses
  loc : Locator
  srv : Srv
  comp : Comp
  pool : Pool
  media : Media
  boot : Boot
  eng : Eng
  sel : Sel
  tok : Tok
  grm : Grm
  idx : Idx
  ckpt : Ckpt
  lens : Lens
  deriving DecidableEq, Repr

/-- The whole machine: the commands that wait, first in first out; the bytes of memory in canonical form; the device. -/
structure State where
  pending : List Instr
  mem : List Host.Cell
  dev : Dev
  deriving DecidableEq, Repr

/-- No meaning faults: every failure of the spec is a status, a sticky bit, a counter, a Foghorn report or an
interrupt, and the device goes on. Safe. -/
inductive Fault where
  deriving DecidableEq, Repr

/-- Refusals. -/
inductive Refusal where
  /-- Raised by an arm of `exec` whose command has no meaning yet. Safe: the machine stops. -/
  | notModelled (mnemonic : String)
  deriving DecidableEq, Repr

/-- No location (R41). -/
def Loc.none_ : Loc := ⟨3, 0⟩

/-- A Sector that is not present. -/
def SectorDesc.absent : SectorDesc := ⟨false, false, false, 0, 0, 0, 0, 0, 0⟩

/-- The flash before enumeration (R435). -/
def Flash.reset : Flash :=
  { table := [], groups := [], luns := [], seq := 0, lastChan := [], changed := [], flushedSeq := 0, failed := [],
    retiredBlocks := [] }

/-- The NOR's records and counters before any start (R453, R454). -/
def NorSecure.reset : NorSecure :=
  { counter0 := 0, counter1 := 0, counter2 := 0, counter3 := 0, countersOk := true, anchor := none, genDev := 0,
    genPool := 0, gens := [], genCarried := none }

/-- Security right after reset: no key, no session, debug level 0 (in SEC_STATUS). -/
def Sec.reset : Sec :=
  { nor := NorSecure.reset, puf := false, fwDigest := 0, fwVersion := 0, cfgVersion := 0, cfgAnchor := 0,
    imageKeys := [], hostKeys := [], seeds := [], nonce := none, spdm := [], links := [], ide := [], tdiEpoch := [] }

/-- No session on the chip. -/
def Ses.reset : Ses :=
  { buoys := [], moors := [], ops := [], opSeq := 0, moveSeq := 0, handled := [], keptCancels := [], records := [],
    digests := [], sharing := [], rr1 := 0, rr2 := 0, adapters := [], query := none, pressure := [], arrivals := 0 }

/-- No turn and no batch. -/
def Srv.reset : Srv :=
  { turns := [], batches := [], steps := [], arms := [], nextTree := [], tail := [], results := [], pathOf := [] }

/-- No composition before start step 6 (R519). -/
def Comp.reset : Comp :=
  { cur := ⟨0, [], [], []⟩, prev := none, prevOps := [], staged := none, stager := none, repair := false,
    graceEnd := 0, lastOld := [], passMsg := none, passAt := 0, asked := none, reserved := [] }

/-- No extent and no request. -/
def Pool.reset : Pool :=
  { extents := [], bucket := [], queues := [], pinned := [], requests := [], coded := [], arrivals := 0 }

/-- Media before training (R519). -/
def Media.reset : Media := { stk := [], minor := [], major := [], tree := [], flash := Flash.reset }

/-- Start-up state right after reset, before step 1 (R519); the NOR holds no Light List (a log entry). -/
def Boot.reset : Boot :=
  { nor := none, running := none, rom := ⟨false, false, 0⟩, waitingPg := none, phase := .run, vcoreEn := false,
    frozen := false, lastBusy := [], stretch := [], fired := [], resume := none, wakeN := false }

/-- Eight active Keepers and two spares (R20). -/
def keepersReset : List Keeper :=
  List.replicate 8 ⟨.active, 0⟩ ++ List.replicate 2 ⟨.spare, 0⟩

/-- The device right after reset. -/
def Dev.reset : Dev :=
  { now := 0, daymark := 0, freeCtr := 0, out := [], regs := [], committed := [], pends := [], bar2 := [],
    idxLatch := [],
    own := { half := [], claims := [], windowEnd := none, barred := 0, hbAt := 0, handoverEnd := none },
    que := [], peers := [], peersNext := [], qps := [], mctp := { up := false, eid := 0, arrived := [], outstanding := [] }, ports := [], ringWait := [],
    locQuery := [], downSince := none, ptpGood := 0, ptpAt := 0, fog := [], gap := ⟨none, false, false⟩,
    lantern := ⟨0, ⟨[], 0, 0⟩, ⟨[], 0, 0⟩⟩, keepers := keepersReset, tap := ⟨0, false, false, []⟩,
    sec := Sec.reset, ses := Ses.reset, loc := ⟨[], []⟩, srv := Srv.reset, comp := Comp.reset, pool := Pool.reset,
    media := Media.reset,
    eng := { runs := [], imgs := [], retiring := [], retired := [] },
    sel := ⟨[], [], [], [], []⟩, tok := ⟨[], [], [], 0, 0, 0⟩, grm := ⟨[], 0, []⟩, idx := ⟨[], [], [], []⟩,
    ckpt := { run := none, passMsg := none, bases := [], touched := [], capture := [], news := [], newsCapture := [], aside := [],
              log := 64, kept := [], lastAt := 0, restoring := none },
    lens := { ents := [], cal := [], changed := [], sweepAt := 0, bells := [] },
    boot := Boot.reset }

/-- The machine right after reset: nothing waits, no byte of memory is listed (it reads zero). -/
def State.reset : State := { pending := [], mem := [], dev := Dev.reset }

end Sys2Proof.Machine
end

