-- ==== Sys2Proof/Machine/Status.lean ====
section
/-!
DEFINITION. Machine/Status.lean: the status codes of R8 and R9, each with the code its chapter's table gives.
-/
namespace Sys2Proof.Machine.ST

def OK : Nat := 0x0000
def GRP_CONFIG : Nat := 0x0010
def ROLE_UNSERVED : Nat := 0x0011
def SES_UNKNOWN : Nat := 0x0101
def SES_BUSY : Nat := 0x0102
def SES_BADSTATE : Nat := 0x0103
def SES_LOST : Nat := 0x0104
def SES_NOBUOY : Nat := 0x0105
def SES_PAGEFAULT : Nat := 0x0106
def SES_NOSPACE : Nat := 0x0107
def SES_CTXFULL : Nat := 0x0108
def SES_REVFULL : Nat := 0x0109
def SES_MISMATCH : Nat := 0x010A
def SES_CLAIMED : Nat := 0x010B
def SES_REMOTE : Nat := 0x010C
def SES_PLACEMENT : Nat := 0x010D
def SES_GENMISMATCH : Nat := 0x010E
def SES_NOTHEAD : Nat := 0x010F
def SES_NOSTACK : Nat := 0x0110
def SES_ABORTED : Nat := 0x0111
def SES_VERIFY : Nat := 0x0112
def SES_COORD : Nat := 0x0113
def SES_NOMOVE : Nat := 0x0114
def SRV_NOTURN : Nat := 0x0201
def SRV_TRACKFULL : Nat := 0x0202
def SRV_TOOLSEQ : Nat := 0x0203
def SRV_PAYLOAD : Nat := 0x0204
def SRV_CANCELLED : Nat := 0x0205
def SRV_EGRESS : Nat := 0x0206
def SRV_SEGMENT : Nat := 0x0207
def SRV_BADPARAM : Nat := 0x0208
def SRV_EMPTY : Nat := 0x0209
def SRV_ACCOUNT : Nat := 0x0210
def GRM_DEAD : Nat := 0x0301
def TOK_INVALID : Nat := 0x0302
def TOK_DENIED : Nat := 0x0303
def TOK_NOTHEAD : Nat := 0x0304
def TOK_FORMAT : Nat := 0x0305
def TOK_SIGNATURE : Nat := 0x0306
def TOK_INUSE : Nat := 0x0307
def TOK_NOSPACE : Nat := 0x0308
def TOK_OCCUPIED : Nat := 0x0309
def GRM_VOCAB : Nat := 0x030A
def TOK_FREE : Nat := 0x030B
def TOK_SLOT : Nat := 0x030C
def SEL_BADJOB : Nat := 0x0401
def SEL_OVERLAP : Nat := 0x0402
def SEL_NOVALID : Nat := 0x0403
def IDX_UNKNOWN : Nat := 0x0501
def IDX_BADPARAM : Nat := 0x0502
def IDX_FULL : Nat := 0x0503
def IDX_NONODE : Nat := 0x0504
def IDX_DELETED : Nat := 0x0505
def IDX_BUSY : Nat := 0x0506
def IDX_FORMAT : Nat := 0x0507
def IDX_READFAIL : Nat := 0x0508
def IDX_NOSPACE : Nat := 0x0509
def IDX_DROPPED : Nat := 0x050A
def IDX_EXISTS : Nat := 0x050B
def IDX_NOTABLE : Nat := 0x050C
def POOL_NOEXTENT : Nat := 0x0601
def POOL_RANGE : Nat := 0x0602
def POOL_REVOKED : Nat := 0x0603
def POOL_NOTOWNER : Nat := 0x0604
def POOL_CONFLICT : Nat := 0x0605
def POOL_BUSY : Nat := 0x0606
def POOL_RIGHTS : Nat := 0x0607
def POOL_NOSPACE : Nat := 0x0608
def POOL_DENIED : Nat := 0x0609
def POOL_BADOP : Nat := 0x060A
def CKPT_DENIED : Nat := 0x0701
def CKPT_MIXED : Nat := 0x0702
def CKPT_BUSY : Nat := 0x0703
def CKPT_QUIESCE : Nat := 0x0704
def CKPT_TARGET : Nat := 0x0705
def CKPT_NOSPACE : Nat := 0x0706
def CKPT_NONE : Nat := 0x0707
def CKPT_PLACEMENT : Nat := 0x0708
def CKPT_NOTEMPTY : Nat := 0x0709
def CKPT_NOTCOORD : Nat := 0x070A
def CKPT_VERIFY : Nat := 0x070B
def CKPT_PEER : Nat := 0x070C
def CKPT_NOKEY : Nat := 0x070D
def IMG_NOFIT : Nat := 0x0801
def IMG_SIGNATURE : Nat := 0x0802
def IMG_FORMAT : Nat := 0x0803
def IMG_ROLE : Nat := 0x0804
def IMG_COMMAND : Nat := 0x0805
def IMG_SESSIONS : Nat := 0x0806
def IMG_DENIED : Nat := 0x0807
def IMG_NOSTAGED : Nat := 0x0808
def IMG_NOIMAGE : Nat := 0x0809
def IMG_OPERAND : Nat := 0x0820
def IMG_POISONED : Nat := 0x0821
def IMG_TIMEOUT : Nat := 0x0822
def IMG_ENGINE : Nat := 0x0823
def SEC_PUF : Nat := 0x0901
def SEC_SIG : Nat := 0x0902
def SEC_ROLLBACK : Nat := 0x0903
def SEC_COUNTER : Nat := 0x0904
def SEC_ANCHOR : Nat := 0x0905
def SEC_UNLOCK : Nat := 0x0906
def SEC_SESSION : Nat := 0x0907
def SEC_INUSE : Nat := 0x0908
def SEC_LEVEL : Nat := 0x0909
def HOST_DENIED : Nat := 0x0A01
def HOST_QUEUE : Nat := 0x0A02
def HOST_GONE : Nat := 0x0A03
def HOST_OPCODE : Nat := 0x0A04
def HOST_QBUSY : Nat := 0x0A05
def HOST_PEER : Nat := 0x0A06
def EPOCH_STALE : Nat := 0x0A07
def SCT_DENIED : Nat := 0x0A20
def SCT_FORMAT : Nat := 0x0A21
def SCT_EPOCH : Nat := 0x0A22
def SCT_OVERLAP : Nat := 0x0A23
def SCT_INUSE : Nat := 0x0A24
def SCT_CAPACITY : Nat := 0x0A25
def SCT_BUSY : Nat := 0x0A26
def SCT_GROUP : Nat := 0x0A27
def PWR_BUSY : Nat := 0x0B01
def PWR_RETAIN : Nat := 0x0B02
def PWR_STATE : Nat := 0x0B03
def PWR_NOSPARE : Nat := 0x0B04
def PWR_NOIMAGE : Nat := 0x0B06
def PWR_CLOCK : Nat := 0x0B07
def PWR_CONFIG : Nat := 0x0B08
def PWR_MEDIA : Nat := 0x0B09
def PWR_DENIED : Nat := 0x0B0A

end Sys2Proof.Machine.ST
end

