-- ==== Sys2Proof/Machine/Records.lean ====
section
/-!
DEFINITION. Machine/Records.lean: the bytes of the records that the manual lays out byte by byte and that State holds as structures:
Buoys, control blocks, page headers, page-table roots and leaves, page descriptors, Locator entries, move records and manifests, and
the two kinds of address of session state (R2, R40, R41, R49, R50, R53, R59, R60, R63, R64, R66, R69, R117, R118, R209).
-/
namespace Sys2Proof.Machine

/-- Bytes brought to a length: cut, or filled with zeros. -/
def padTo (n : Nat) (bs : List Byte) : List Byte := bs.take n ++ List.replicate (n - bs.length) 0

/-! ### Checks -/

/-- CRC-16/IBM-3740 of bytes (R40). -/
def crc16Bit (c : Nat) : Nat := if 0x8000 ≤ c then (2 * c % 65536) ^^^ 0x1021 else 2 * c % 65536

/-- One byte taken into the CRC. -/
def crc16Byte (c b : Nat) : Nat := (List.range 8).foldl (fun c _ => crc16Bit c) (c ^^^ (b * 256))

/-- The check field of a Buoy. -/
def crc16 (bs : List Byte) : Nat := bs.foldl (fun c b => crc16Byte c b.toNat) 0xFFFF

/-- A location field's value (R41). -/
def locBits (l : Loc) : Nat := if l.tier = 3 then 3 * 2 ^ 38 else l.tier * 2 ^ 38 + l.unit

/-- The Buoy's bytes 0x00 to 0x3D (R40). -/
def buoyBody (b : Buoy) : List Byte :=
  leBytes 4 b.sid ++ leBytes 1 (b.state + 16 * b2n b.busy + 32 * b2n b.beacon + 64 * b2n b.refine) ++ leBytes 1 (b.vocab + 16 * b.sector) ++
  leBytes 1 (b.grammarId + 64 * b2n b.grammarOn) ++ leBytes 1 b.pendingOp ++ leBytes 2 b.account ++ leBytes 2 b.mapEpoch ++ leBytes 4 b.ctx ++
  (if b.state = 7 then leBytes 2 b.remGroup ++ leBytes 2 b.remChip ++ leBytes 1 0 else leBytes 5 (locBits b.kvRoot)) ++
  leBytes 5 (locBits b.ctrlLoc) ++ leBytes 5 (locBits b.recLoc) ++ leBytes 5 (locBits b.statLoc) ++ leBytes 3 b.adapterRef ++ leBytes 1 b.adapterRank ++
  leBytes 8 b.sampler ++ leBytes 4 b.toolSeq ++ leBytes 1 (b2n b.toolPending) ++ leBytes 3 0 ++ leBytes 4 b.waitSince ++ leBytes 2 b.gen

/-- The Buoy's 64 bytes (R40). -/
def buoyBytes (b : Buoy) : List Byte := buoyBody b ++ leBytes 2 (crc16 (buoyBody b))

/-- One bit of CRC-32C: reflected polynomial 0x82F63B78. -/
def crc32cBit (c : Nat) : Nat := if c % 2 = 1 then (c / 2) ^^^ 0x82F63B78 else c / 2

/-- One byte taken into CRC-32C. -/
def crc32cByte (c b : Nat) : Nat := (List.range 8).foldl (fun c _ => crc32cBit c) (c ^^^ b)

/-- CRC-32C of bytes (R49). -/
def crc32c (bs : List Byte) : Nat := (bs.foldl (fun c b => crc32cByte c b.toNat) 0xFFFFFFFF) ^^^ 0xFFFFFFFF

/-! ### Key-value pages (R49, R50) -/

/-- Bytes of one row's elements and of its scales, by format and head dimension (R51). -/
def kvRowSizes (format d : Nat) : Nat × Nat :=
  match format with
  | 0 => (2 * d, 0)
  | 1 => (d, d / 32)
  | _ => (d / 2, d / 32)

/-- The first multiple of 32 at or after `n`. -/
def align32 (n : Nat) : Nat := (n + 31) / 32 * 32

/-- Offsets of the four regions of a page with `cap` positions (R50). -/
def pageRegions (format dim cap : Nat) : Nat × Nat × Nat × Nat :=
  let z := kvRowSizes format dim
  let ke := 0x40
  let ks := align32 (ke + cap * z.1)
  let ve := align32 (ks + cap * z.2)
  let vs := align32 (ve + cap * z.1)
  (ke, ks, ve, vs)

/-- The header's bytes 0x00 to 0x37 (R49). -/
def pageHeaderBody (sid modelRevision : Nat) (p : Page) : List Byte :=
  let o := pageRegions p.format (32 * p.dim32) p.cap
  let scaled (n : Nat) : Nat := if p.format = 0 then 0 else n
  leBytes 2 0x4B50 ++ leBytes 1 p.format ++ leBytes 1 p.dim32 ++ leBytes 2 p.cap ++ leBytes 2 p.valid ++ leBytes 4 p.first ++ leBytes 2 p.layerId ++
    leBytes 2 p.kvHead ++ leBytes 8 modelRevision ++ leBytes 4 (if p.shared then 0 else sid) ++ leBytes 2 (b2n p.shared + 2 * b2n (p.valid == p.cap)) ++
    leBytes 2 0 ++ (if p.keyed then leBytes 16 p.key else leBytes 16 0) ++ leBytes 2 o.1 ++ leBytes 2 (scaled o.2.1) ++
    leBytes 2 o.2.2.1 ++ leBytes 2 (scaled o.2.2.2)

/-- A page's 64-byte header (R49). -/
def pageHeader (sid modelRevision : Nat) (p : Page) : List Byte :=
  pageHeaderBody sid modelRevision p ++ leBytes 4 (crc32c (pageHeaderBody sid modelRevision p)) ++ leBytes 4 0

/-! ### Page tables (R63, R64) -/

/-- The key of a leaf among a Mooring's leaf locations. -/
def leafKey (stream leaf : Nat) : Nat := stream * 65536 + leaf

/-- Entries in use in a leaf. -/
def Moor.leafUsed (stream leaf : Nat) (m : Moor) : Nat := (m.pages.filter (fun p => p.stream == stream && p.ordinal / 512 == leaf)).length

/-- A leaf's location. -/
def Moor.leafLoc (stream leaf : Nat) (m : Moor) : Loc := Tab.getD (leafKey stream leaf) Loc.none_ m.leafLocs

/-- A page-table entry (R64): location, shared, dirty_epoch. -/
def pte (p : Page) : Nat := locBits p.loc + b2n p.shared * 2 ^ 40 + p.dirty % 4096 * 2 ^ 52

/-- The entry of an ordinal without a page: the none location. -/
def pteNone : Nat := locBits Loc.none_

/-- A leaf's entry `i`. -/
def Moor.leafEntry (stream leaf i : Nat) (m : Moor) : Nat :=
  match m.pages.find? (fun p => p.stream == stream && p.ordinal == leaf * 512 + i) with | some p => pte p | none => pteNone

/-- A leaf's 4 KiB (R64). -/
def Moor.leafBytes (stream leaf : Nat) (m : Moor) : List Byte := (List.range 512).flatMap (fun i => leBytes 8 (m.leafEntry stream leaf i))

/-- Streams of a page table (R63). -/
def Moor.streams (m : Moor) : Nat := m.layerSlots * m.kvHeads

/-- Directory entry `e` of the root: leaf e mod lps of stream e / lps (R63). -/
def Moor.dirEntry (e : Nat) (m : Moor) : Nat :=
  let s := e / max 1 m.lps
  let l := e % max 1 m.lps
  locBits (m.leafLoc s l) + m.leafUsed s l % 1024 * 2 ^ 40

/-- The root's 16 KiB (R63). -/
def rootBytes (b : Buoy) (m : Moor) : List Byte :=
  padTo 16384 (leBytes 2 0x5450 ++ leBytes 2 1 ++ leBytes 4 b.sid ++ leBytes 2 m.layerSlots ++ leBytes 2 m.kvHeads ++ leBytes 2 m.lps ++ leBytes 2 m.rootGen ++
    leBytes 4 b.ctx ++ leBytes 44 0 ++ (List.range (m.streams * m.lps)).flatMap (fun e => leBytes 8 (m.dirEntry e)))

/-! ### The control block (R53) -/

/-- Bits of part_mask: the parts that exist (R53). -/
def partMask (b : Buoy) (m : Moor) : Nat :=
  b2n (b.kvRoot.tier != 3) + 2 * b2n (b.recLoc.tier != 3) + 4 * b2n (b.statLoc.tier != 3) + 8 * b2n m.privateAdapter

/-- The carry word: count, then the carried bytes (R53). -/
def carryWord (bs : List Byte) : Nat := min 3 bs.length + 256 * leNat (bs.take 3)

/-- The 32-byte tool record: sequence, position, tag and queue (R53, R231); the order of its fields is not stated. [DESIGN CHOICE: log entry 108] -/
def toolRecord (c : Ctrl) : List Byte := padTo 32 (leBytes 4 c.toolSeq ++ leBytes 4 c.toolPos ++ leBytes 8 c.toolTag ++ leBytes 2 c.toolQueue)

/-- Bytes whose layout or value the manual leaves open: Keeper's tracking snapshot and the grammar engine's scratch (R53). [DESIGN CHOICE: log entry 108] -/
def openBytes (code sid n : Nat) : List Byte := (List.range n).map (fun k => BitVec.ofNat 8 (Config.unstated code [sid, k]))

/-- The detok region: pending count and bytes, turn_bytes (R284). -/
def detokRegion (c : Ctrl) : List Byte := padTo 1024 (leBytes 1 (min 3 c.detok.length) ++ padTo 3 c.detok ++ leBytes 4 c.turnBytes)

/-- CTRL's 4 KiB (R53). The 8 reserved bytes at 0x038 hold zero. -/
def ctrlBytes (b : Buoy) (m : Moor) : List Byte :=
  let c := m.ctrl
  let priv := (m.pages.filter (fun p => !p.shared)).length
  leBytes 4 0x524F4F4D ++ leBytes 2 1 ++ leBytes 2 c.chip ++ leBytes 4 b.sid ++ leBytes 2 c.gen ++ leBytes 2 (partMask b m) ++ leBytes 8 m.modelRevision ++
    leBytes 4 priv ++ leBytes 4 (4096 * m.recUnits) ++ leBytes 4 (4096 * m.statUnits) ++ leBytes 4 (carryWord c.carry) ++ leBytes 2 c.grmStack.length ++
    leBytes 2 c.grmState ++ leBytes 4 0 ++ leBytes 8 c.seed ++ leBytes 8 0 ++ toolRecord c ++ openBytes 65 b.sid 32 ++
    List.replicate 896 0 ++ padTo 1024 (c.grmStack.flatMap (leBytes 4)) ++ openBytes 66 b.sid 1024 ++ detokRegion c

/-! ### Addresses of session state (R59, R60) -/

/-- Parts of a Mooring by code (R39). -/
inductive Part where
  | ctrl | kv | recurrent | stat
  deriving DecidableEq, Repr

/-- The part's code (R39). -/
def Part.code : Part → Nat
  | .ctrl => 0
  | .kv => 1
  | .recurrent => 2
  | .stat => 3

/-- The part of a code. -/
def Part.ofCode (n : Nat) : Part := if n = 0 then .ctrl else if n = 1 then .kv else if n = 2 then .recurrent else .stat

/-- A unified address (R59): Buoy index, part, byte offset. -/
def unifiedAddr (buoy : Nat) (p : Part) (off : Nat) : Nat := buoy * 2 ^ 38 + p.code * 2 ^ 36 + off

/-- The offset of page ordinal `j` of a stream in the KV part (R59). -/
def kvOffset (lps stream j : Nat) : Nat := (stream * lps * 512 + j) * 16384

/-- The fall-back address of a location (R60). -/
def locAddr (l : Loc) : Nat := (l.tier + 1) * 2 ^ 62 + 4096 * l.unit

/-! ### Page descriptors (R66) -/

/-- A page descriptor (R66). -/
def PageDesc.bytes (x : PageDesc) : List Byte :=
  leBytes 8 x.address ++ leBytes 4 x.first ++
    leBytes 2 (x.valid % 512 + x.format * 512 + b2n x.last * 2 ^ 11 + b2n x.shared * 2 ^ 12 + b2n x.prov * 2 ^ 13) ++ leBytes 2 x.layerId ++
    leBytes 2 x.kvHead ++ leBytes 2 x.row ++ leBytes 4 x.sid ++ leBytes 2 x.epoch ++ leBytes 6 0

/-! ### Locator entries (R69) -/

/-- A Locator entry's 16 bytes (R69). -/
def LocEntry.bytes (e : LocEntry) : List Byte :=
  leBytes 4 e.sid ++ leBytes 3 e.buoy ++ leBytes 1 (e.state + 16 * b2n e.valid + 32 * b2n e.pinned + 64 * e.home) ++ leBytes 2 e.group ++ leBytes 2 e.chip ++
    leBytes 2 e.gen ++ leBytes 2 e.sector

/-! ### Digest entries, move records, manifests (R117, R118, R181, R209, R360) -/

/-- A digest-table entry's 128 bytes (R209). -/
def DigestEntry.bytes (e : DigestEntry) : List Byte :=
  padTo 32 (e.words.flatMap (leBytes 4)) ++ padTo 64 e.tail ++ leBytes 8 e.length ++ leBytes 1 (b2n e.valid) ++ leBytes 23 0

/-- A move record's bytes (R117). -/
def moveRecordBytes (m : MoveRecord) : List Byte :=
  leBytes 2 0x4D52 ++ leBytes 2 m.groupSize ++ leBytes 4 m.sid ++ leBytes 8 m.modelRevision ++ leBytes 4 (m.claim + m.claimGroup * 65536) ++
    leBytes 2 m.fromState ++ leBytes 2 m.gen ++ leBytes 4 m.ctx ++ leBytes 4 m.seq ++ leBytes 32 0 ++
    padTo (ceilDiv (2 * m.groupSize) 8 * 8) (m.chipIds.flatMap (leBytes 2)) ++ DigestEntry.bytes m.digest

/-- A layer-slot entry's 32 bytes (R181). -/
def slotBytes (s : LayerSlot) : List Byte :=
  leBytes 2 s.layerId ++ leBytes 1 s.kind ++ leBytes 1 s.kvFormat ++ leBytes 2 s.p ++ leBytes 1 s.dim32 ++ leBytes 1 s.g ++ leBytes 2 s.kvHeads ++ leBytes 2 0 ++
    leBytes 4 s.window ++ leBytes 4 s.recBytes ++ leBytes 12 0

/-- The geometry object of a manifest (R118). -/
def geometryBytes (g : Geometry) : List Byte := leBytes 2 g.lps ++ leBytes 2 0 ++ g.slots.flatMap slotBytes

/-- The header of a move manifest (R118). -/
def manifestHeader (sid position entries ctx : Nat) (g : Geometry) : List Byte :=
  leBytes 2 0x4D46 ++ leBytes 2 1 ++ leBytes 4 sid ++ leBytes 8 g.modelRevision ++ leBytes 2 position ++ leBytes 2 g.layerSlots ++ leBytes 2 g.kvHeads ++
    leBytes 2 0 ++ leBytes 4 entries ++ leBytes 4 ctx ++ leBytes 32 g.layerDigest

/-- A 48-byte entry of a manifest or of a coded copy (R118, R360). -/
def entryBytes (kind stream ordinal offset : Nat) (digest : List Byte) : List Byte :=
  leBytes 1 kind ++ leBytes 1 0 ++ leBytes 2 stream ++ leBytes 4 ordinal ++ leBytes 8 offset ++ padTo 32 digest

/-! ### Entries of checkpoint manifests (R413) -/

/-- A chip entry: 64 bytes (R413). -/
def chipEntryBytes (c : CkptChip) : List Byte :=
  leBytes 2 c.groupId ++ leBytes 2 c.position ++ leBytes 2 c.chipId ++ leBytes 2 c.slots.length ++ leBytes 4 c.firstShard ++ leBytes 4 c.shards ++ leBytes 16 0 ++
    leBytes 32 c.layerDigest

/-- A shard entry: 64 bytes (R413). -/
def shardEntryBytes (e : ShardEntry) : List Byte :=
  leBytes 16 e.nguid ++ leBytes 8 e.lba ++ leBytes 4 e.blocks ++ leBytes 1 e.kind ++ leBytes 1 e.sector ++ leBytes 1 (b2n e.reference) ++ leBytes 1 0 ++ leBytes 32 e.digest

end Sys2Proof.Machine
end

