-- ==== Sys2Proof/Machine/Wire.lean ====
section
/-!
DEFINITION. Machine/Wire.lean: the bytes of what the device sends over its links and writes to its queues: flits, group control messages, pool
messages, completions and batch records (R2, R93, R217 to R219, R227 to R229, R345, R353, R354, R399, R493, R495, R502, R505, R506).
-/
namespace Sys2Proof.Machine

/-! ### Flits of a step (R217 to R219, R227) -/

/-- Numbers in `n` slots of `w` bytes, a slot without one holding `fill`. -/
def slots (w fill n : Nat) (xs : List Nat) : List Byte := (List.range n).flatMap (fun i => leBytes w (xs.getD i fill))

/-- A SEG flit (R218). -/
def SegFlit.bytes (f : SegFlit) : List Byte :=
  leBytes 1 f.sector ++ leBytes 1 f.batch ++ leBytes 1 f.segment ++ leBytes 1 (b2n f.leaveOnly + 2 * b2n f.cut) ++ leBytes 4 f.step ++ leBytes 2 f.mapEpoch ++
    leBytes 2 f.rowsTotal ++ leBytes 2 f.rowsPort ++ leBytes 2 0 ++ leBytes 4 f.positionsTotal ++ leBytes 4 f.positionsPort ++ leBytes 4 f.bytesPerPosition ++
    leBytes 4 0 ++ leBytes 8 f.headDaymark ++ leBytes 216 0

/-- The flags of a ROW flit (R219). -/
def RowFlit.flags (f : RowFlit) : Nat :=
  b2n f.invalid + 2 * b2n f.tree + 4 * b2n f.leave + 8 * b2n f.join + 16 * b2n f.lastChunk + 32 * b2n f.window + 64 * b2n f.ended

/-- A ROW flit (R219). -/
def RowFlit.bytes (f : RowFlit) : List Byte :=
  leBytes 4 f.sid ++ leBytes 4 f.step ++ leBytes 2 f.batchRow ++ leBytes 2 (RowFlit.flags f) ++ leBytes 4 f.qbase ++ leBytes 2 f.qcount ++ leBytes 1 f.prevCommit ++
    leBytes 1 f.digests ++ slots 1 0xFF 8 f.prevPath ++ leBytes 2 f.account ++ leBytes 2 f.status ++ slots 1 0 16 f.parents ++ leBytes 16 0 ++
    leBytes 32 f.tBase ++ slots 32 0 5 f.tNew

/-- A TOKENS entry's 128 bytes (R227). -/
def TokensEntry.bytes (e : TokensEntry) : List Byte :=
  leBytes 4 e.sid ++ leBytes 4 e.step ++ leBytes 2 e.batchRow ++ leBytes 1 (b2n e.valid + 2 * b2n e.leave + 4 * b2n e.maskLate) ++ leBytes 1 e.emitted ++
    leBytes 1 e.pathLen ++ leBytes 1 e.endReason ++ leBytes 2 e.status ++ slots 4 0 5 e.tokens ++ slots 4 0 15 e.drafts ++ slots 1 0 15 e.draftParents ++
    leBytes 1 e.draftNodes ++ slots 1 0xFF 8 e.path ++ leBytes 8 0

/-! ### Group control messages (R93, R345, R399, R502) -/

/-- A session control message (R93). -/
def SesMsg.bytes (m : SesMsg) : List Byte :=
  leBytes 1 m.kind ++ leBytes 1 m.opcode ++ leBytes 2 (b2n m.coldFallback + 2 * b2n m.explicit) ++ leBytes 4 m.sid ++ leBytes 4 m.seq ++ leBytes 2 m.gen ++
    leBytes 2 m.status ++ leBytes 2 m.failPos ++ leBytes 2 0 ++ leBytes 4 m.units ++ leBytes 8 m.aux

/-- A recomposition message (R345). -/
def CompMsg.bytes (m : CompMsg) : List Byte :=
  leBytes 1 m.kind ++ leBytes 1 0 ++ leBytes 2 m.newEpoch ++ leBytes 2 m.present ++ leBytes 2 m.status ++ leBytes 2 m.failPos ++ leBytes 6 0 ++
    slots 4 0xFFFFFFFF 16 m.lastOldStep ++ leBytes 16 0

/-- A checkpoint message (R399). -/
def CkptMsg.bytes (m : CkptMsg) : List Byte :=
  leBytes 1 m.kind ++ leBytes 1 (b2n m.full) ++ leBytes 2 m.sectors ++ leBytes 2 m.groupId ++ leBytes 2 m.status ++ leBytes 8 m.seq ++ leBytes 2 m.failPos ++
    leBytes 2 m.entries ++ leBytes 44 0

/-- A message of which the manual gives the kind byte and the length, and not the layout: TURN_CFG and BULK_START (R502, R503). [DESIGN CHOICE: log entry 108] -/
def openMsg (kind : Nat) (fields : List Nat) : List Byte :=
  leBytes 1 kind ++ (List.range 31).map (fun k => BitVec.ofNat 8 (Config.unstated 75 (kind :: k :: fields)))

/-- TURN_CFG's fields. -/
def TurnCfg.fields (c : TurnCfg) : List Nat :=
  [c.sid, c.vocab, c.grammarId, b2n c.grammarOn, b2n c.deadEnd, c.egress, c.tag, b2n c.tokenIds, b2n c.noSpec, c.maxNew, c.seed, c.temperature, c.topK, c.topP, c.minP]

/-! ### Pool messages (R353, R354) -/

/-- A pool request: header and data (R353). -/
def PoolReq.bytes (r : PoolReq) : List Byte :=
  leBytes 1 r.op ++ leBytes 1 r.flags ++ leBytes 2 r.host ++ leBytes 4 r.tag ++ leBytes 4 r.handle ++ leBytes 2 r.mapEpoch ++ leBytes 2 0 ++ leBytes 8 r.offset ++
    leBytes 4 r.length ++ leBytes 4 r.auxHandle ++ leBytes 8 r.auxOffset ++ leBytes 8 r.value ++ leBytes 16 0 ++ r.data

/-- A pool response: header and data (R354). -/
def PoolResp.bytes (r : PoolResp) : List Byte :=
  leBytes 1 r.op ++ leBytes 1 r.load ++ leBytes 2 r.status ++ leBytes 4 r.tag ++ leBytes 2 r.credit ++ leBytes 6 0 ++ leBytes 8 r.result ++ leBytes 8 r.version ++ r.data

/-- A pool message on a SIDE port: its length, then the message (R502). -/
def poolMessage (bs : List Byte) : List Byte := leBytes 4 bs.length ++ bs

/-! ### Identity and Locator flits (R505, R506) -/

/-- The IDENT flit (R505). -/
def Ident.bytes (i : Ident) : List Byte :=
  leBytes 1 1 ++ leBytes 1 0 ++ leBytes 2 i.partNumber ++ leBytes 2 i.chipId ++ leBytes 2 i.groupId ++ leBytes 1 i.groupSizeM1 ++ leBytes 1 i.position ++
    leBytes 1 i.port ++ leBytes 1 i.use ++ leBytes 4 i.fwVersion ++ leBytes 240 0

/-- A LOC reply flit (R506): the queries as they came, and a reply for each. -/
def locReplyBytes (exchange chip group : Nat) (sids : List Nat) (replies : List LocEntry) : List Byte :=
  leBytes 4 exchange ++ leBytes 1 sids.length ++ leBytes 1 1 ++ leBytes 2 0 ++ leBytes 2 chip ++ leBytes 2 group ++ leBytes 4 0 ++ slots 4 0 8 sids ++
    padTo 128 (replies.flatMap LocEntry.bytes) ++ leBytes 80 0

/-! ### Queues (R228, R229, R493, R495) -/

/-- A completion entry's 32 bytes (R493). -/
def Completion.bytes (c : Completion) : List Byte :=
  leBytes 2 c.cid ++ leBytes 2 c.status ++ leBytes 2 c.sqHead ++ leBytes 2 c.phase ++ leBytes 8 c.cookie ++ leBytes 8 c.result ++ leBytes 8 c.daymark

/-- An entry of a batch record: header, token IDs, text filled up to a multiple of 8 (R229). -/
def RecEntry.image (e : RecEntry) : List Byte :=
  leBytes 4 e.sid ++ leBytes 4 e.toolSeq ++ leBytes 8 e.tag ++ leBytes 2 e.status ++ leBytes 1 e.endReason ++ leBytes 1 e.tokens.length ++
    leBytes 2 e.text.length ++ leBytes 2 (b2n e.idsPresent + 2 * b2n (e.endReason != 0) + 4 * b2n e.maskLate) ++ leBytes 4 e.position ++ leBytes 4 0 ++
    (if e.idsPresent then e.tokens.flatMap (leBytes 4) else []) ++ padTo (ceilDiv e.text.length 8 * 8) e.text

/-- A batch record (R228). -/
def BatchRecord.image (r : BatchRecord) : List Byte :=
  leBytes 2 0x4252 ++ leBytes 2 1 ++ leBytes 2 r.queue ++ leBytes 1 r.sector ++ leBytes 1 0 ++ leBytes 4 r.step ++ leBytes 4 r.entries.length ++ leBytes 4 r.bytes ++
    leBytes 4 r.sequence ++ leBytes 8 r.daymark ++ leBytes 32 0 ++ r.entries.flatMap RecEntry.image

/-- A pad before a record that would cross the end of its ring (R495). -/
def padBytesOf (n : Nat) : List Byte := padTo n (leBytes 2 0x5041 ++ leBytes 2 0 ++ leBytes 4 n)

/-! ### What goes out -/

/-- The bytes of what the device sends on a link or writes to a ring; none of an output that has no byte layout. A pool message stands as it is
before its grant key seals it (`Dev.sealPool`). -/
def Emission.image : Emission → List Byte
  | .completion _ c => c.bytes
  | .seg _ f => SegFlit.bytes f
  | .row _ f => RowFlit.bytes f
  | .digest _ _ ds => slots 32 0 8 ds
  | .segData _ _ _ _ bytes => bytes
  | .tokens a b => TokensEntry.bytes a ++ (match b with | some e => TokensEntry.bytes e | none => [])
  | .sesMsg m => SesMsg.bytes m
  | .compMsg m => CompMsg.bytes m
  | .turnCfg c => openMsg 0x30 (TurnCfg.fields c)
  | .bulkStart n length sha isGram id sectors => openMsg 0x31 [n, length, sha, b2n isGram, id, sectors]
  | .bulk n offset data => leBytes 4 n ++ leBytes 4 offset ++ data
  | .ckptMsg _ m => CkptMsg.bytes m
  | .ckptReport _ m chips shards _ => CkptMsg.bytes m ++ chips.flatMap chipEntryBytes ++ shards.flatMap shardEntryBytes
  | .poolReq _ r => poolMessage (PoolReq.bytes r)
  | .poolResp _ r => poolMessage (PoolResp.bytes r)
  | .ident _ i => Ident.bytes i
  | .locReply _ exchange chip group sids replies => locReplyBytes exchange chip group sids replies
  | .record r => r.image
  | .pad _ n => padBytesOf n
  | .produced _ count => leBytes 8 count
  | .hostWrite _ _ bytes => bytes
  | .ckptShard _ _ _ bytes => bytes
  | .ckptManifest _ _ bytes => bytes
  | .ckptSlot _ bytes => bytes
  | .payload _ _ bytes => bytes
  | _ => []

/-- Bytes in flits of 256, the last filled up with zeros (R217, R502, R503). -/
def flitsOf (bs : List Byte) : List (List Byte) := (List.range (ceilDiv bs.length 256)).map (fun k => padTo 256 ((bs.drop (256 * k)).take 256))

end Sys2Proof.Machine
end

