-- ==== Sys2Proof/Machine/Ops.lean ====
section
/-!
DEFINITION. Machine/Ops.lean: the named operations every meaning is built of: register fields, time, output, free
values, memory, the chip's role, interrupts, counters, trace, the Foghorn, and the completion of an entry.
-/
namespace Sys2Proof.Machine

/-! ### Register fields -/

/-- The current value of a field. -/
def Dev.get (f : Fld) (d : Dev) : Nat := Tab.getD f.key f.reset d.regs

/-- The device with a field's value set (reduced to the field's width). A field at its reset value is not listed. -/
def Dev.put (f : Fld) (v : Nat) (d : Dev) : Dev :=
  { d with regs := if wrap f.width v = f.reset then Tab.del f.key d.regs else Tab.put f.key (wrap f.width v) d.regs }

/-- Set a one-bit field: an event of a W1C field (R7). -/
def Dev.flag (f : Fld) (d : Dev) : Dev := d.put f 1

/-- Add `n` to a saturating count. -/
def Dev.bump (f : Fld) (n : Nat) (d : Dev) : Dev := d.put f (satAdd f.width (d.get f) n)

/-- The committed value of an SH field (R384). -/
def Dev.com (f : Fld) (d : Dev) : Nat := Tab.getD f.key f.reset d.committed

/-- Set the committed value of an SH field. -/
def Dev.setCom (k v : Nat) (d : Dev) : Dev := { d with committed := Tab.put k v d.committed }

/-- A field's value, with 0 acting as `z`. -/
def Dev.orZero (f : Fld) (z : Nat) (d : Dev) : Nat := if d.get f = 0 then z else d.get f

/-! ### Time, output, free values -/

/-- Time comes to Lens time `t`, never back; the Daymark takes the same steps (R363, R527). [DESIGN CHOICE: log entries 1, 69, 104] -/
def Dev.advance (t : Nat) (d : Dev) : Dev :=
  { d with now := max d.now t, daymark := wrap 64 (d.daymark + (max d.now t - d.now)) }

/-- Nanoseconds that one clock edge adds to the Daymark (R527): 40 in DEEP, none in OFF, else 10. [DESIGN CHOICE: log entry 1] -/
def Dev.tickNs (d : Dev) : Nat := match d.boot.phase with | .asleep 3 => 40 | .asleep 4 => 0 | _ => 10

/-- An idle block's clock edge. [DESIGN CHOICE: log entry 1] -/
def Dev.idleTick (d : Dev) : Dev := d.advance (d.now + d.tickNs)

/-- Append to the output log. [DESIGN CHOICE: log entry 5] -/
def Dev.emit (e : Emission) (d : Dev) : Dev := { d with out := e :: d.out }

/-- Append several, in order. [DESIGN CHOICE: log entry 5] -/
def Dev.emits (es : List Emission) (d : Dev) : Dev := { d with out := es.reverse ++ d.out }

/-- The next free value (Config.freshValue). [DESIGN CHOICE: log entry 2] -/
def Dev.fresh (d : Dev) : Nat := Config.freshValue d.freeCtr

/-- One free value drawn. [DESIGN CHOICE: log entry 2] -/
def Dev.drawn (d : Dev) : Dev := { d with freeCtr := d.freeCtr + 1 }

/-- A millisecond and a microsecond of Lens time. -/
def ms (n : Nat) : Nat := n * 1000000
/-- A microsecond of Lens time. -/
def us (n : Nat) : Nat := n * 1000

/-! ### Role, mode and owner -/

/-- GLB_ROLE.role (R34). -/
def Dev.role (d : Dev) : Nat := d.get Reg.GLB_ROLE.role
/-- Group size N (R34). -/
def Dev.groupSize (d : Dev) : Nat := d.get Reg.GLB_ROLE.group_size_m1 + 1
/-- Position p (R34). -/
def Dev.position (d : Dev) : Nat := d.get Reg.GLB_ROLE.position
/-- HEAD or SOLO (R21). -/
def Dev.isHead (d : Dev) : Bool := d.role == 0 || d.role == 1
/-- TAIL or SOLO (R21). -/
def Dev.isTail (d : Dev) : Bool := d.role == 0 || d.role == 3
/-- SOLO (R21). -/
def Dev.isSolo (d : Dev) : Bool := d.role == 0
/-- The chip's ID and group (R35). -/
def Dev.chipId (d : Dev) : Nat := d.get Reg.GLB_GROUP.chip_id
/-- The group's ID (R35). -/
def Dev.groupId (d : Dev) : Nat := d.get Reg.GLB_GROUP.group_id

/-- PWR_BOOT.mode is 1: in service (R519). -/
def Dev.inService (d : Dev) : Bool := d.get Reg.PWR_BOOT.mode == 1
/-- PWR_BOOT.mode is 2: recovery (R520). -/
def Dev.inRecovery (d : Dev) : Bool := d.get Reg.PWR_BOOT.mode == 2

/-- Clocks of the working domains run: not frozen (R556), not in SLEEP, DEEP or OFF, nor on the way out of it (R531, R536). [DEDUCED: log entry 13] -/
def Dev.awake (d : Dev) : Bool :=
  !d.boot.frozen && (match d.boot.phase with | .asleep _ => false | .exiting _ => false | _ => true)

/-- The device is in service and its clocks run, so that it acts on the commands of service. [DEDUCED: log entry 13] -/
def Dev.serving (d : Dev) : Bool := d.inService && d.awake

/-- Fetching from queues is allowed: serving, and no entry to a power state under way (R532 step 1, R536). [DEDUCED: log entry 13] -/
def Dev.fetching (d : Dev) : Bool := d.serving && (d.boot.phase == .run)

/-- OWN_STATE.owner's master code, 0 for none (R512). -/
def Dev.owner (d : Dev) : Nat := d.get Reg.OWN_STATE.owner

/-- The PCIe port (0 or 1) of a master code 1 or 2. -/
def portOf (code : Nat) : Option Nat := if code = 1 then some 0 else if code = 2 then some 1 else none

/-- The debug level (R475). -/
def Dev.debugLevel (d : Dev) : Nat := d.get Reg.SEC_STATUS.debug_level

/-- A core's quad has a step or a refine command: it leaves IDLE, and its idle time starts anew (R531). -/
def Dev.quadBusy (core : Nat) (d : Dev) : Dev :=
  let idle := d.get Reg.PWR_STATUS.quads_idle
  let d : Dev := { d with boot := { d.boot with lastBusy := Tab.put (core / 4) d.now d.boot.lastBusy } }
  let d := if idle.testBit (core / 4) then d.put Reg.PWR_STATUS.quads_idle (idle - 2 ^ (core / 4)) else d
  if d.get Reg.PWR_STATUS.state = 1 then d.put Reg.PWR_STATUS.state 0 else d

/-! ### Lemdin ports and the frames that leave (R22, R25, R502 to R504) -/

/-- The use of a Lemdin port (R22). -/
def Dev.portUse (i : Nat) (d : Dev) : Nat := d.get Reg.GLB_PORTMAP.port_use / 2 ^ (2 * i) % 4

/-- Working DOWN ports: UP in LNK_PORT and assigned the use, in ascending order (R25). -/
def Dev.downPorts (d : Dev) : List Nat := (List.range 8).filter (fun i => d.portUse i == 1 && d.get (Reg.LNK_PORT.state i) == 3)

/-- The port of a session's flits of a step, among the working DOWN ports at the step's start (R25). R18 prefers a port of the sending core's
die: where R25's port lies on the other die, the flits cross the bridge. [DESIGN CHOICE: log entry 116] -/
def portFor (ports : List Nat) (sid : Nat) : Nat := ports.getD (sid % max 1 ports.length) 0

/-- The compute die of a Lemdin port: 0 to 3 on die 0, 4 to 7 on die 1 (R15). -/
def portDie (port : Nat) : Nat := port / 4

/-- The compute die of a core: 0 to 15 on die 0, 16 to 31 on die 1. -/
def coreDie (core : Nat) : Nat := core / 16

/-- A SIDE port that is up and leads to a chip. -/
def Dev.sidePort (chip : Nat) (d : Dev) : Option Nat :=
  (List.range 8).find? (fun i => d.portUse i == 3 && d.get (Reg.LNK_PORT.state i) == 3 && d.get (Reg.LNK_PORT.peer_chip i) == chip)

/-- A port before it has sent or received anything. -/
def LPort.fresh : LPort :=
  { txSeq := 0, rxSeq := 0, replay := [], waiting := [], usedCredits := [], replayTimes := [], trainStart := none, lanes := 0, retrain := [] }

/-- A port beside its registers. -/
def Dev.lport (i : Nat) (d : Dev) : LPort := Tab.getD i LPort.fresh d.ports

/-- The device with a port changed. -/
def Dev.lportUpd (i : Nat) (f : LPort → LPort) (d : Dev) : Dev := { d with ports := Tab.put i (f (d.lport i)) d.ports }

/-- The credit pool of a class (R502). -/
def poolOf (cls : Nat) : Nat := if cls ≤ 5 then 0 else if cls ≤ 7 then 1 else 2

/-- A sequenced frame is sent: it takes the next sequence number, a credit, and a place in the replay buffer of 1,024 frames; it waits
where the buffer is full (R504). [DESIGN CHOICE: log entry 87] -/
def LPort.send (x : Nat × List Byte) (p : LPort) : LPort :=
  if p.replay.length < 1024 then
    { p with txSeq := (p.txSeq + 1) % 4096, replay := p.replay ++ [⟨p.txSeq, x.1, x.2⟩],
             usedCredits := Tab.put (poolOf x.1) (Tab.getD (poolOf x.1) 0 p.usedCredits + 1) p.usedCredits }
  else { p with waiting := p.waiting ++ [x] }

/-- Frames for a port; group traffic without a working DOWN port waits (R510). [DESIGN CHOICE: log entry 87] -/
def Dev.sendFlits (port : Option Nat) (xs : List (Nat × List Byte)) (d : Dev) : Dev :=
  match port with
  | some i => d.lportUpd i (fun p => xs.foldl (fun p x => p.send x) p)
  | none => { d with ringWait := d.ringWait ++ xs }

/-- Bytes sent on a port in frames of a class. -/
def Dev.sendOn (port : Option Nat) (cls : Nat) (bs : List Byte) (d : Dev) : Dev := d.sendFlits port ((flitsOf bs).map (fun x => (cls, x)))

/-- The DOWN port of a session's frames, none while no DOWN port works (R25, R510). -/
def Dev.ringPort (sid : Nat) (d : Dev) : Option Nat := d.downPorts[sid % max 1 d.downPorts.length]?

/-- A message to a peer chip over a SIDE port, where one is up. -/
def Dev.sendSide (chip cls : Nat) (bs : List Byte) (d : Dev) : Dev :=
  match d.sidePort chip with | some i => d.sendOn (some i) cls bs | none => d

/-- A pool message to or from a pool host that is a chip (R353, R354, R502). -/
def Dev.sendPool (h : Nat) (bs : List Byte) (d : Dev) : Dev :=
  if d.get (Reg.POOL_HOST_ID.kind h) = 2 then d.sendSide (d.get (Reg.POOL_HOST_ID.id h)) 9 bs else d

/-- The frames that carry what the device sent (R25, R217, R502, R503). -/
def Dev.sendFramesOf (e : Emission) (d : Dev) : Dev :=
  match e with
  | .seg p _ => d.sendOn (some p) 1 e.image
  | .row p _ => d.sendOn (some p) 2 e.image
  | .digest p _ _ => d.sendOn (some p) 3 e.image
  | .segData p _ _ _ _ => d.sendOn (some p) 4 e.image
  | .tokens x _ => d.sendOn (d.ringPort x.sid) 5 e.image
  | .sesMsg m => d.sendOn (d.ringPort m.sid) 6 e.image
  | .compMsg _ => d.sendOn (d.ringPort 0) 6 e.image
  | .turnCfg c => d.sendOn (d.ringPort c.sid) 6 e.image
  | .bulkStart .. => d.sendOn (d.ringPort 0) 6 e.image
  | .bulk .. => d.sendOn (d.ringPort 0) 7 e.image
  | .ckptMsg none _ => d.sendOn (d.ringPort 0) 6 e.image
  | .ckptMsg (some c) _ => d.sendSide c 6 e.image
  | .ckptReport none _ _ _ _ => d.sendOn (d.ringPort 0) 6 e.image
  | .ckptReport (some c) _ _ _ _ => d.sendSide c 6 e.image
  | .poolReq h _ => d.sendPool h e.image
  | .poolResp h _ => d.sendPool h e.image
  | _ => d

/-- What a command sent since `old` goes out in frames, in order. -/
def Dev.sendFrames (old d : Dev) : Dev :=
  (d.out.take (d.out.length - old.out.length)).reverse.foldl (fun d e => d.sendFramesOf e) d

/-! ### Lifting a change of the device to a meaning -/

/-- A command whose effect is a change of the device alone; what it sends goes out in frames. -/
def onDev (f : Dev → Dev) (s : State) : Host.Outcome State Fault Refusal := .next { s with dev := Dev.sendFrames s.dev (f s.dev) }

/-- The same, for a command of service: while the device is not serving it has no effect. [DEDUCED: log entry 13] -/
def onServing (f : Dev → Dev) (s : State) : Host.Outcome State Fault Refusal :=
  .next { s with dev := if s.dev.serving then Dev.sendFrames s.dev (f s.dev) else s.dev }

/-- The same, for a register or message command that also works in recovery (R520). [DEDUCED: log entry 13] -/
def onAwake (f : Dev → Dev) (s : State) : Host.Outcome State Fault Refusal :=
  .next { s with dev := if s.dev.awake && (s.dev.inService || s.dev.inRecovery) then Dev.sendFrames s.dev (f s.dev) else s.dev }

/-- A command of service whose effect is on the device and on memory. -/
def onServingMem (f : List Host.Cell → Dev → List Host.Cell × Dev) (s : State) : Host.Outcome State Fault Refusal :=
  .next (if s.dev.serving then { s with mem := (f s.mem s.dev).1, dev := Dev.sendFrames s.dev (f s.mem s.dev).2 } else s)

/-! ### Memory -/

/-- What an unlisted address reads as: zero (R426 zeroes chunks, R438 reads unmapped extents as zero). [DESIGN CHOICE: log entry 4] -/
def Mem.default : Byte := 0

/-- The byte at `a`. [DESIGN CHOICE: log entry 4; DEDUCED: log entry 9] -/
def Mem.read (a : Nat) : List Host.Cell → Byte
  | [] => Mem.default
  | (b, v) :: m => if b = a then v else Mem.read a m

/-- Insert or replace a cell that does not hold the default. -/
def Mem.insert (a : Nat) (v : Byte) : List Host.Cell → List Host.Cell
  | [] => [(a, v)]
  | (b, w) :: m => if a < b then (a, v) :: (b, w) :: m else if b = a then (a, v) :: m else (b, w) :: Mem.insert a v m

/-- Remove the cell at `a`. -/
def Mem.erase (a : Nat) : List Host.Cell → List Host.Cell
  | [] => []
  | (b, w) :: m => if b = a then m else (b, w) :: Mem.erase a m

/-- Write one byte, keeping the canonical form. -/
def Mem.write (a : Nat) (v : Byte) (m : List Host.Cell) : List Host.Cell :=
  if v = Mem.default then Mem.erase a m else Mem.insert a v m

/-- Write bytes from `a` upwards. -/
def Mem.writes (a : Nat) : List Byte → List Host.Cell → List Host.Cell
  | [], m => m
  | v :: vs, m => Mem.writes (a + 1) vs (Mem.write a v m)

/-- Read `n` bytes from `a` upwards. -/
def Mem.reads (a : Nat) : Nat → List Host.Cell → List Byte
  | 0, _ => []
  | n + 1, m => Mem.read a m :: Mem.reads (a + 1) n m

/-- Zero `n` bytes from `a` upwards. -/
def Mem.zero (a n : Nat) (m : List Host.Cell) : List Host.Cell := m.filter (fun c => decide (c.1 < a ∨ a + n ≤ c.1))

/-- The canonical form: addresses strictly rising, no cell at the default. [DESIGN CHOICE: log entry 4] -/
def Memory.wf : List Host.Cell → Bool
  | [] => true
  | (a, v) :: m => decide (v ≠ Mem.default) && m.all (fun c => decide (a < c.1)) && Memory.wf m

/-- Flat numbering of the memories: core SRAM (R164), each Sector's range of each tier under the
fall-back offsets of R60, pool extents, and the device region's queue regions (R492). [DESIGN CHOICE: log entry 4] -/
def coreAddr (core off : Nat) : Nat := core * 0x1000000 + off
/-- Byte of a Sector's range of a tier. [DESIGN CHOICE: log entry 4] -/
def tierAddr (tier sector off : Nat) : Nat := 2 ^ 60 + (tier * 16 + sector) * 2 ^ 48 + off
/-- Byte of a pool extent. [DESIGN CHOICE: log entry 4] -/
def poolAddr (extent off : Nat) : Nat := 2 ^ 62 + extent * 2 ^ 48 + off

/-! ### Interrupts -/

/-- PF vector `v` on both ports (R490, R563). -/
def Dev.pfIrqBoth (v : Nat) (d : Dev) : Dev := (d.emit (.irq 0 .pf v)).emit (.irq 1 .pf v)

/-- PF vector `v` on the owner's port, where the owner is a PCIe master (R544). -/
def Dev.pfIrqOwner (v : Nat) (d : Dev) : Dev :=
  match portOf d.owner with
  | some p => d.emit (.irq p .pf v)
  | none => d

/-! ### Trace (R553 to R555) -/

/-- Bytes of the records in a queue. -/
def TraceQueue.bytes (q : TraceQueue) : Nat := (q.recs.map (·.size)).sum

/-- Queue a record for its slots, or drop and count it when the frame being filled has no room (R554). A loss record
takes 16 bytes of the first frame after a drop. [DEDUCED: log entry 98] -/
def TraceQueue.add (r : TraceRec) (daymark : Nat) (q : TraceQueue) : TraceQueue × Bool :=
  if q.bytes + r.size + (if q.lost = 0 then 0 else 16) ≤ 224 then ({ q with recs := q.recs ++ [r] }, true)
  else ({ q with lost := satAdd 32 q.lost 1, firstLost := if q.lost = 0 then daymark else q.firstLost }, false)

/-- Send an engine record (`eng`) or a general record as trace, when the debug level is 1 or above and its enable bit is
set; records of a Sector need the Sector's bit (R555). -/
def Dev.trace (eng : Bool) (enableBit : Nat) (sector : Option Nat) (r : TraceRec) (d : Dev) : Dev :=
  if d.debugLevel ≥ 1 && (d.get Reg.DBG_TRACE_CFG.enables).testBit enableBit &&
      (match sector with | some n => (d.get Reg.DBG_TRACE_CFG.sectors).testBit n | none => true) then
    let res := TraceQueue.add r (wrap 32 d.daymark) (if eng then d.lantern.engine else d.lantern.general)
    let d1 : Dev := { d with lantern := if eng then { d.lantern with engine := res.1 } else { d.lantern with general := res.1 } }
    if res.2 then d1 else d1.bump Reg.DBG_TRACE_LOST.count 1
  else d

/-! ### The Foghorn (R560 to R563) -/

/-- The condition fault ID of R583: Sector (0xFFF for none) and status code. -/
def conditionId (sector status : Nat) : Nat := 0xE * 2 ^ 28 + sector * 2 ^ 16 + status

/-- A unit's fault ID (R560). -/
def unitId (kind inst : Nat) : Nat := kind * 2 ^ 28 + inst

/-- The index of the valid entry that holds a fault ID. [DEDUCED: log entry 99] -/
def Dev.fogFind (id : Nat) (d : Dev) : Option (Nat × FogEntry) := d.fog.find? (fun e => e.2.id == id)

/-- One more report of class `cls` on an entry, its count saturating at 16 bits (R562). -/
def FogEntry.count (cls : Nat) (e : FogEntry) : FogEntry :=
  match cls with
  | 0 => { e with c0 := satAdd 16 e.c0 1 }
  | 1 => { e with c1 := satAdd 16 e.c1 1 }
  | 2 => { e with c2 := satAdd 16 e.c2 1 }
  | _ => { e with c3 := satAdd 16 e.c3 1 }

/-- Fire the Foghorn's interrupt for the causes given, and open a gap (R563). [DEDUCED: log entry 99] -/
def Dev.fogFire (root error : Bool) (d : Dev) : Dev :=
  let d := d.pfIrqBoth 0
  let d := if root then d.flag Reg.GLB_IRQ.root_fault else d
  let d := if error then d.flag Reg.GLB_IRQ.error_entry else d
  let d := d.bump Reg.FOG_IRQ.count 1
  let d := d.put Reg.FOG_STATUS.pending 0
  { d with gap := ⟨some (d.now + us (d.orZero Reg.FOG_CFG.irq_gap_us 1)), false, false⟩ }

/-- A qualifying event: fire, or set pending inside the gap (R563). -/
def Dev.fogEvent (root error : Bool) (d : Dev) : Dev :=
  match d.gap.until_ with
  | some g =>
    if d.now < g then
      { (d.flag Reg.FOG_STATUS.pending) with gap := ⟨some g, d.gap.root || root, d.gap.error || error⟩ }
    else d.fogFire root error
  | none => d.fogFire root error

/-- A new root fault (R563). -/
def Dev.newRoot (d : Dev) : Dev := (d.bump Reg.FOG_ROOTS.count 1).fogEvent true false

/-- A report to the Foghorn (R562, R563), which is also sent as trace (R553). [DEDUCED: log entry 99] -/
def Dev.report (r : FogReport) (d : Dev) : Dev :=
  let d := d.trace false 2 none ⟨0x20, 16, [r.severity * 4 + r.cls, r.reporter, r.id, wrap 32 d.daymark]⟩
  match d.fogFind r.id with
  | some (i, e) =>
    let e' := { e.count r.cls with last := d.daymark, severity := max e.severity r.severity }
    let d := { d with fog := Tab.put i e' d.fog }
    if e.severity < 2 && r.severity == 2 then d.newRoot else d
  | none =>
    if r.severity < 2 && decide (1024 - d.fog.length ≤ 64) then d.bump Reg.FOG_LOST.count 1
    else
      match Tab.firstFree d.fog 0 1024 with
      | none => ((d.bump Reg.FOG_LOST.count 1).flag Reg.FOG_STATUS.root_lost).newRoot
      | some i =>
        let e : FogEntry := FogEntry.count r.cls ⟨r.id, r.severity, r.cls, r.reporter, d.daymark, d.daymark, 0, 0, 0, 0⟩
        let d := { d with fog := Tab.put i e d.fog }
        if r.severity == 2 then d.newRoot
        else if r.severity == 1 && d.get Reg.FOG_CFG.err_irq == 1 then d.fogEvent false true
        else d

/-- The Keeper whose number a report of Keeper firmware's carries, the one that made a Buoy's lookup among them (R42, R583): which Keeper does which
work is not stated, and the model gives the lowest active one's. [DESIGN CHOICE: log entry 120] -/
def Dev.keeperNo (d : Dev) : Nat := (d.keepers.findIdx? (fun k => k.role == .active)).getD 0

/-- A condition that Keeper firmware detects, reported at error severity (R583). -/
def Dev.reportKeeper (sector status : Nat) (d : Dev) : Dev := d.report ⟨conditionId sector status, 1, 1, d.keeperNo⟩

/-- A condition that hub hardware detects, at the severity given (R583). -/
def Dev.reportHub (sector status severity : Nat) (d : Dev) : Dev := d.report ⟨conditionId sector status, severity, 0, 0⟩

/-- A unit's own report (R560, R561): class 0, its reporter ID the low 16 bits of the instance. -/
def Dev.reportUnit (kind inst severity : Nat) (d : Dev) : Dev := d.report ⟨unitId kind inst, severity, 0, wrap 16 inst⟩

/-! ### Counters (R539 to R544) -/

/-- An event that counters may count (R540, R541). Privilege: 0 tenant, 1 Keeper, 2 operator. -/
structure CntEvent where
  cls : Nat
  code : Nat
  priv : Nat
  queue : Option Nat
  sector : Option Nat
  keeper : Option Nat
  addr : Option Nat

/-- The fields of one counter, chip or core. -/
structure CntRegs where
  count : Fld
  enable : Fld
  chain : Fld
  irq : Fld
  view : Fld
  viewSector : Fld
  event : Fld
  range : Fld
  masterId : Fld
  masterKind : Fld
  privilege : Fld

/-- The registers of a counter. -/
def cntRegs : CounterRef → CntRegs
  | .chip k => ⟨Reg.CNT_C.count k, Reg.CNT_SEL.enable k, Reg.CNT_SEL.chain k, Reg.CNT_SEL.irq k, Reg.CNT_SEL.view k,
      Reg.CNT_SEL.view_sector k, Reg.CNT_SEL.event k, Reg.CNT_FILT.range k, Reg.CNT_FILT.master_id k,
      Reg.CNT_FILT.master_kind k, Reg.CNT_FILT.privilege k⟩
  | .core c k => ⟨Reg.CNT_CC.count c k, Reg.CNT_CSEL.enable c k, Reg.CNT_CSEL.chain c k, Reg.CNT_CSEL.irq c k,
      Reg.CNT_CSEL.view c k, Reg.CNT_CSEL.view_sector c k, Reg.CNT_CSEL.event c k, Reg.CNT_CFILT.range c k,
      Reg.CNT_CFILT.master_id c k, Reg.CNT_CFILT.master_kind c k, Reg.CNT_CFILT.privilege c k⟩

/-- The counter that may be chained to this one: the next of its set (R539). -/
def cntNext : CounterRef → Option CounterRef
  | .chip k => if k + 1 < 64 then some (.chip (k + 1)) else none
  | .core c k => if k + 1 < 16 then some (.core c (k + 1)) else none

/-- Events listed in the table of R540, by class. -/
def eventListed (cls code : Nat) : Bool :=
  decide (code < ([2, 4, 6, 6, 6, 5, 4, 4, 4, 3].getD cls 0))

/-- Does the counter's set accept the class (R540)? -/
def cntAccepts : CounterRef → Nat → Bool
  | .chip _, c => c == 0 || (decide (3 ≤ c) && decide (c ≤ 9))
  | .core _ _, c => decide (c ≤ 3)

/-- Does the event pass the master filter (R541)? -/
def masterPasses (kind id : Nat) (e : CntEvent) : Bool :=
  match kind with
  | 0 => true
  | 1 => e.queue == some id
  | 2 => e.sector == some id
  | _ => e.keeper == some id

/-- Does the event pass every filter of the counter (R541, R542)? -/
def Dev.cntPasses (r : CntRegs) (e : CntEvent) (d : Dev) : Bool :=
  (if d.get r.view == 1 then e.priv == 0 && e.sector == some (d.get r.viewSector)
   else (d.get r.privilege).testBit e.priv && masterPasses (d.get r.masterKind) (d.get r.masterId) e &&
     (e.priv != 0 || decide (d.debugLevel ≥ 1) || d.get r.masterKind == 1 || d.get r.masterKind == 2)) &&
  (d.get r.range == 0 ||
    (match e.addr with
     | some a => decide (d.get (Reg.CNT_RANGE_LO.address (d.get r.range - 1)) ≤ a) &&
         decide (a < d.get (Reg.CNT_RANGE_HI.address (d.get r.range - 1)))
     | none => false))

/-- Does the counter count this event (R539, R540)? [DEDUCED: log entry 97] -/
def Dev.counts (c : CounterRef) (e : CntEvent) (d : Dev) : Bool :=
  let r := (cntRegs c)
  d.get r.enable == 1 && d.get r.chain == 0 && cntAccepts c e.cls && eventListed e.cls e.code &&
  decide (bitsOf 11 8 (d.get r.event) = e.cls) &&
  (decide (bitsOf 7 0 (d.get r.event) = e.code) || decide (bitsOf 7 0 (d.get r.event) = 0xFF)) && d.cntPasses r e

/-- What a wrap does beside the carry: overflow bit, interrupt of the last counter of a chain, and a core's sample
(R539, R544). [DEDUCED: log entry 97] -/
def Dev.overflow (c : CounterRef) (stepNo cmd : Nat) (d : Dev) : Dev :=
  let d := match c with
    | .chip k => d.put Reg.CNT_OVF.overflow (d.get Reg.CNT_OVF.overflow ||| 2 ^ k)
    | .core n k => d.put (Reg.CNT_COVF.overflow n) (d.get (Reg.CNT_COVF.overflow n) ||| 2 ^ k)
  let chained := match cntNext c with | some n => d.get (cntRegs n).chain == 1 && d.get (cntRegs n).enable == 1 | none => false
  let d := if d.get (cntRegs c).irq == 1 && !chained then d.pfIrqOwner (d.get Reg.CNT_CFG.vector) else d
  match c with
  | .core n k =>
    if d.get (Reg.CNT_CSAMP.valid n) == 0 then
      (((d.put (Reg.CNT_CSAMP.valid n) 1).put (Reg.CNT_CSAMP.counter n) k).put (Reg.CNT_CSAMP.step n) stepNo).put
        (Reg.CNT_CSAMP.command n) cmd
    else d
  | .chip _ => d

/-- Add one to a counter, carrying along its chain; `fuel` bounds the chain's length. [DEDUCED: log entry 97] -/
def Dev.cntAdd (stepNo cmd : Nat) : Nat → CounterRef → Dev → Dev
  | 0, _, d => d
  | fuel + 1, c, d =>
    let r := (cntRegs c)
    if d.get r.count + 1 < 2 ^ 48 then d.put r.count (d.get r.count + 1)
    else
      let d := (d.put r.count 0).overflow c stepNo cmd
      match cntNext c with
      | some n => if d.get (cntRegs n).chain == 1 && d.get (cntRegs n).enable == 1 then Dev.cntAdd stepNo cmd fuel n d else d
      | none => d

/-- An event reaches the chip counters, and a core's counters where it is a core's. [DEDUCED: log entry 97] -/
def Dev.event (core : Option Nat) (e : CntEvent) (d : Dev) : Dev :=
  if d.get Reg.CNT_CFG.enable == 1 then
    let d := (List.range 64).foldl (fun d k => if d.counts (.chip k) e then d.cntAdd 0 0 64 (.chip k) else d) d
    match core with
    | some c => (List.range 16).foldl (fun d k => if d.counts (.core c k) e then d.cntAdd 0 0 16 (.core c k) else d) d
    | none => d
  else d

/-- Events that clock edges or accesses bring and no command of the table: cycles, waits, memory accesses with the bridge's delay (R17), frames and
TLPs, flash operations and the Keepers' own instructions (R540). [DESIGN CHOICE: log entry 15] -/
def openEvent (cls code : Nat) : Bool :=
  [0, 3, 8, 9].contains cls || (cls == 1 && decide (code ≤ 1)) || (cls == 2 && (code == 3 || code == 4)) || (cls == 6 && code == 0) || (cls == 7 && code != 2)

/-- The counter whose carries a chained one counts (R539). -/
def cntPrev : CounterRef → Option CounterRef
  | .chip k => if k = 0 then none else some (.chip (k - 1))
  | .core c k => if k = 0 then none else some (.core c (k - 1))

/-- Does a counter count events that are open, itself or through the chain it ends? `fuel` bounds the chain. [DESIGN CHOICE: log entry 15] -/
def Dev.cntOpen : Nat → CounterRef → Dev → Bool
  | 0, _, _ => false
  | fuel + 1, c, d =>
    let e := d.get (cntRegs c).event
    if d.get (cntRegs c).chain = 1 then (match cntPrev c with | some p => Dev.cntOpen fuel p d | none => false)
    else cntAccepts c (bitsOf 11 8 e) && (List.range 6).any (fun k => eventListed (bitsOf 11 8 e) k && openEvent (bitsOf 11 8 e) k && (bitsOf 7 0 e == k || bitsOf 7 0 e == 0xFF))

/-- A counter's number in a free value's arguments. -/
def cntNumber : CounterRef → Nat
  | .chip k => k
  | .core c k => 64 + c * 16 + k

/-- What a counter holds: its count, or a free value where it counts open events. [DESIGN CHOICE: log entry 15] -/
def Dev.cntValue (c : CounterRef) (d : Dev) : Nat :=
  if d.cntOpen 64 c then wrap 48 (Config.unstated 72 [cntNumber c, d.now, d.freeCtr]) else d.get (cntRegs c).count

/-- A tenant's event of a Sector (R541). -/
def sectorEvent (cls code sector : Nat) : CntEvent := ⟨cls, code, 0, none, some sector, none, none⟩

/-- An event of Keeper firmware's own work for a Sector (R541). -/
def keeperEvent (cls code sector keeper : Nat) : CntEvent := ⟨cls, code, 1, none, some sector, some keeper, none⟩

end Sys2Proof.Machine
end

