-- ==== Sys2Proof/Machine/LensOps.lean ====
section
/-!
DEFINITION. Machine/LensOps.lean: the token arithmetic of the Lens, charging and crediting of accounts, the calendar
(R363 to R380).
-/
namespace Sys2Proof.Machine

/-- Key of account a. -/
def acctKey (a : Nat) : Nat := 0x10000 + a
/-- Key of port shaper e. -/
def portKey (e : Nat) : Nat := 0x20000 + e

/-- Committed configuration of an entry: enabled, rate, denominator of the gain in ns, depth, reset_mode, overhead. -/
structure LensCfg where
  enable : Bool
  rate : Nat
  den : Nat
  depth : Nat
  zero : Bool
  overhead : Nat

/-- The committed configuration of the entry with a key (R392 to R394): a queue's or port's r counts 1/256 unit per µs,
an account's 1/16 token per second. -/
def Dev.lensCfg (k : Nat) (d : Dev) : LensCfg :=
  if k < 0x10000 then
    ⟨d.com (Reg.LENS_QCTL.enable k) == 1, d.com (Reg.LENS_QRATE.rate k), 256000, d.com (Reg.LENS_QDEPTH.depth k),
      d.com (Reg.LENS_QCTL.reset_mode k) == 1, d.com (Reg.LENS_QCTL.overhead k)⟩
  else if k < 0x20000 then
    let a := k - 0x10000
    ⟨d.com (Reg.LENS_ACTL.enable a) == 1, d.com (Reg.LENS_ARATE.rate a), 1000000000, d.com (Reg.LENS_ADEPTH.depth a),
      d.com (Reg.LENS_ACTL.reset_mode a) == 1, 0⟩
  else
    let e := k - 0x20000
    ⟨d.com (Reg.LENS_PCTL.enable e) == 1, d.com (Reg.LENS_PRATE.rate e), 256000, d.com (Reg.LENS_PDEPTH.depth e),
      d.com (Reg.LENS_PCTL.reset_mode e) == 1, d.com (Reg.LENS_PCTL.overhead e)⟩

/-- The entry as stored. -/
def Dev.lensEnt (k : Nat) (d : Dev) : LensEnt := Tab.getD k ⟨0, 0, 0⟩ d.lens.ents

/-- Refill (R368): add r × (T − T_last) with the fraction carried; never above b; unchanged at or above b. -/
def refill (c : LensCfg) (now : Nat) (e : LensEnt) : LensEnt :=
  let num := c.rate * (now - e.last) + e.frac
  if e.x ≥ (c.depth : Int) then ⟨e.x, 0, now⟩
  else if e.x + (num / c.den : Nat) ≥ (c.depth : Int) then ⟨c.depth, 0, now⟩
  else ⟨e.x + (num / c.den : Nat), num % c.den, now⟩

/-- Store an entry. -/
def Dev.lensPut (k : Nat) (e : LensEnt) (d : Dev) : Dev := { d with lens := { d.lens with ents := Tab.put k e d.lens.ents } }

/-- Access an entry: refilled to the current T (R368). -/
def Dev.lensTouch (k : Nat) (d : Dev) : LensEnt := refill (d.lensCfg k) d.now (d.lensEnt k)

/-- Slot width w in ns: values below 10 act as 10, above 1,000 as 1,000 (R364, R388). -/
def Dev.slotW (d : Dev) : Nat := max 10 (min 1000 (d.com Reg.LENS_CFG.slot_w)) * 10

/-- The slot of a time (R364). -/
def Dev.slotOf (t : Nat) (d : Dev) : Nat := t / d.slotW % 4096

/-- Place an entry in the calendar by its t_e; it is there at most once (R365, R366). -/
def Dev.calPlace (k te need : Nat) (d : Dev) : Dev :=
  let slot := d.slotOf (min te (d.now + 4095 * d.slotW))
  { d with lens := { d.lens with cal := d.lens.cal.filter (fun c => c.key != k) ++ [⟨k, te, slot, need⟩] } }

/-- Take an entry out of the calendar. -/
def Dev.calDrop (k : Nat) (d : Dev) : Dev := { d with lens := { d.lens with cal := d.lens.cal.filter (fun c => c.key != k) } }

/-- The time at which x will have risen by `need` (R369, R376), where the rate is not zero. -/
def eligibleAt (c : LensCfg) (e : LensEnt) (need : Nat) : Option Nat :=
  if c.rate = 0 then none else some (e.last + ceilDiv (need * c.den - e.frac) c.rate)

/-- A shaper lets a unit of a size through, debiting its length; it then waits in the calendar while x < 0 (R369,
R370). A disabled shaper is neither debited nor placed. -/
def Dev.shaperDebit (k size : Nat) (d : Dev) : Dev :=
  let c := d.lensCfg k
  if c.enable then
    let e := d.lensTouch k
    let e := { e with x := e.x - (size + c.overhead : Nat) }
    let d := d.lensPut k e
    if e.x < 0 then (match eligibleAt c e (-e.x).toNat with | some te => d.calPlace k te 0 | none => d.calDrop k) else d
  else d

/-- A shaper is eligible: disabled, or x ≥ 0 after the refill (R369). -/
def Dev.shaperOk (k : Nat) (d : Dev) : Bool := !(d.lensCfg k).enable || decide ((d.lensTouch k).x ≥ 0)

/-- The size of a queue's unit: 1 in entries mode (R370). -/
def Dev.unitSize (q bytes : Nat) (d : Dev) : Nat := if d.com (Reg.LENS_QCTL.unit q) == 1 then 1 else bytes

/-- The account is enabled and of the Sector (R372, R377). -/
def Dev.acctOf (a sector : Nat) (d : Dev) : Bool :=
  d.com (Reg.LENS_ACTL.enable a) == 1 && d.com (Reg.LENS_ACTL.sector a) == sector

/-- The account covers every charge (R374). [DEDUCED: log entry 70] -/
def Dev.acctUnmetered (a : Nat) (d : Dev) : Bool := d.com (Reg.LENS_ACTL.unmetered a) == 1

/-- The account holds tokens (R374). -/
def Dev.acctHolds (a : Nat) (d : Dev) : Bool := d.acctUnmetered a || decide ((d.lensTouch (acctKey a)).x > 0)

/-- The charge of a row in 1/16 token (R373). -/
def Dev.rowCharge (a qcount : Nat) (prefill : Bool) (d : Dev) : Nat :=
  qcount * (if prefill then d.com (Reg.LENS_ACTL.prefill_w a) else d.com (Reg.LENS_ACTL.decode_w a)) +
    d.com (Reg.LENS_ACTL.row_charge a)

/-- Is a charge covered (R374)? [DEDUCED: log entry 70] -/
def Dev.covers (a charge : Nat) (d : Dev) : Bool :=
  d.acctUnmetered a || decide ((d.lensTouch (acctKey a)).x ≥ (charge : Int))

/-- Debit a covered charge (R374). [DEDUCED: log entry 70] -/
def Dev.debit (a charge : Nat) (d : Dev) : Dev :=
  if d.acctUnmetered a then d
  else
    let e := d.lensTouch (acctKey a)
    d.lensPut (acctKey a) { e with x := e.x - charge }

/-- Enter an entry that waits for `need` in the calendar again, by its present tokens: out of it when they suffice, or when
they never will, at rate zero or above the depth (R369, R376). -/
def Dev.calReenter (k need : Nat) (d : Dev) : Dev :=
  let c := d.lensCfg k
  let e := d.lensTouch k
  if e.x ≥ (need : Int) ∨ c.depth < need then d.calDrop k
  else match eligibleAt c e ((need : Int) - e.x).toNat with
    | some te => d.calPlace k te need
    | none => d.calDrop k

/-- A row or revive waits for tokens: the account enters the calendar at the time x will reach what the oldest waits for (R376). [DEDUCED: log entry 70] -/
def Dev.acctWait (a need : Nat) (d : Dev) : Dev :=
  let k := acctKey a
  let d := d.lensPut k (d.lensTouch k)
  d.calReenter k (match d.lens.cal.find? (fun c => c.key == k) with | some c => c.need | none => need)

/-- Add to an account: capped at b for an invalid row's charge, not capped for a refund; x saturates at 2^32 − 1
(R375). The waiting account is then placed again or released at once (R376). [DEDUCED: log entry 70] -/
def Dev.credit (a n : Nat) (capped : Bool) (d : Dev) : Dev :=
  if d.acctUnmetered a then d
  else
    let k := acctKey a
    let e := d.lensTouch k
    let b : Int := (d.lensCfg k).depth
    let x := if capped then (if e.x ≥ b then e.x else min b (e.x + n)) else e.x + n
    let d := if x > 0xFFFFFFFF then d.flag Reg.LENS_ERR.refund_sat else d
    let d := d.lensPut k { e with x := min x 0xFFFFFFFF }
    match d.lens.cal.find? (fun c => c.key == k) with
    | some c => d.calReenter k c.need
    | none => d

/-- A commit takes effect on a changed entry (R378): refill under the old configuration, adopt the new, x to b or 0, and
re-enter the calendar from the new state, which an entry now disabled leaves (R366, R369). `adopt` writes the committed fields. -/
def Dev.lensReset (k : Nat) (adopt : Dev → Dev) (d : Dev) : Dev :=
  let d := d.lensPut k (d.lensTouch k)
  let d := adopt d
  let c := d.lensCfg k
  let d := d.lensPut k ⟨if c.zero then 0 else (c.depth : Int), 0, d.now⟩
  match d.lens.cal.find? (fun c => c.key == k) with
  | some w => if c.enable then d.calReenter k w.need else d.calDrop k
  | none => d

/-- Every entry of the calendar is placed again by its t_e under the slot width now in force (R380). -/
def Dev.calRewidth (d : Dev) : Dev := d.lens.cal.foldl (fun d c => d.calPlace c.key c.te c.need) d

/-- Note a doorbell of a queue (its tail), or a record built on it (its sequence number), with its time (R381). -/
def Dev.bell (q v : Nat) (d : Dev) : Dev :=
  { d with lens := { d.lens with bells := Tab.put q (Tab.getD q [] d.lens.bells ++ [(v, d.now)]) d.lens.bells } }

/-- The oldest thing noted on a queue has gone. -/
def Dev.bellGone (q : Nat) (d : Dev) : Dev := { d with lens := { d.lens with bells := Tab.upd q List.tail d.lens.bells } }

end Sys2Proof.Machine
end

