-- ==== Sys2Proof/Machine/QueueOps.lean ====
section
/-!
DEFINITION. Machine/QueueOps.lean: fetching a submission entry and completing it, on a hardware queue, over MCTP, or for
the device itself (R491 to R497, R500); who issued an entry.
-/
namespace Sys2Proof.Machine

/-- The device with queue `q` changed. -/
def Dev.queUpd (q : Nat) (f : Queue → Queue) (d : Dev) : Dev := { d with que := Tab.upd q f d.que }

/-- Completions of the queue's ring that the host has not consumed (R494). -/
def Dev.unconsumed (q : Nat) (u : Queue) (d : Dev) : Nat :=
  (u.cqPos % 2 ^ u.ringLog2 + 2 ^ u.ringLog2 - d.get (Reg.QUE_CQ_HEAD.head q) % 2 ^ u.ringLog2) % 2 ^ u.ringLog2

/-- 2^n − 1 completions are unconsumed (R494). -/
def Dev.cqFull (q : Nat) (u : Queue) (d : Dev) : Bool := d.unconsumed q u == 2 ^ u.ringLog2 - 1

/-- The port and function that a queue's vector belongs to (R496). -/
def Queue.fn (u : Queue) : Fn := if u.pf then .pf else .vf u.sector

/-- Fire a queue's vector (R496). [DEDUCED: log entry 86] -/
def Dev.queFire (q : Nat) (d : Dev) : Dev :=
  match Tab.look q d.que with
  | some u => (d.queUpd q (fun u => { u with irqPending := 0 })).emit (.irq u.location u.fn u.vector)
  | none => d

/-- An event that raises the queue's vector, coalesced under QUE_IRQ; location-2 queues raise none (R496). [DEDUCED: log entry 86] -/
def Dev.queEvent (q : Nat) (d : Dev) : Dev :=
  match Tab.look q d.que with
  | some u =>
    if u.location == 2 then d
    else
      let d := d.queUpd q (fun u => { u with irqPending := u.irqPending + 1, irqFirst := if u.irqPending = 0 then d.now else u.irqFirst })
      if decide (u.irqPending + 1 ≥ d.orZero (Reg.QUE_IRQ.count q) 1) || d.get (Reg.QUE_IRQ.delay_us q) == 0 then d.queFire q
      else d
  | none => d

/-! ### Frames on the Ethernet ports (R365, R370, R371, R508) -/

/-- The frames of an RDMA WRITE of `n` bytes, each from its destination address through its FCS: Ethernet, IP, UDP and transport headers, in the
first the remote address, at most 4,096 bytes of data padded to four, and both check values. [PRESUMED: log entry 123] -/
def writeFrames (ipVersion n : Nat) : List Nat :=
  (List.range (max 1 (ceilDiv n 4096))).map (fun k =>
    14 + (if ipVersion = 6 then 40 else 20) + 8 + 12 + (if k = 0 then 16 else 0) + ceilDiv (min 4096 (n - 4096 * k)) 4 * 4 + 4 + 4)

/-- The Ethernet port that a Sector's location-2 queue sends on, with the IP version of its peer: the first of the peer's ports whose link is
up, else the first. [DESIGN CHOICE: log entry 123] -/
def Dev.ethPort (u : Queue) (d : Dev) : Option (Nat × Nat) :=
  if u.location = 2 ∧ u.pf = false then
    match Tab.look u.peer d.peers with
    | some p =>
      let ps := (List.range 2).filter (fun i => p.ports.testBit i)
      ((ps.filter (fun i => d.get (Reg.NET_PORT.link_up i) == 1) ++ ps).head?).map (fun i => (i, p.ipVersion))
    | none => none
  else none

/-- The port shaper of the Sector lets a queue's next frame through (R371, R394). [DESIGN CHOICE: log entry 123] -/
def Dev.portOk (u : Queue) (d : Dev) : Bool :=
  match d.ethPort u with | some (p, _) => d.shaperOk (portKey (2 * u.sector + p)) | none => true

/-- An RDMA WRITE of a queue's passes the Sector's port shaper, each frame debited (R369 to R371). [DESIGN CHOICE: log entry 123] -/
def Dev.portDebit (u : Queue) (n : Nat) (d : Dev) : Dev :=
  match d.ethPort u with
  | some (p, v) => (writeFrames v n).foldl (fun d f => d.shaperDebit (portKey (2 * u.sector + p)) f) d
  | none => d

/-- Write a completion at the ring's produce position: phase 1 on the first pass, inverted at each wrap (R494);
at location 2 its frame passes the port shaper (R371). -/
def Dev.writeCompletion (q : Nat) (c : Completion) (irq : Bool) (d : Dev) : Dev :=
  match Tab.look q d.que with
  | some u =>
    let c := { c with phase := 1 - u.cqPos / 2 ^ u.ringLog2 % 2 }
    let d := ((d.queUpd q (fun u => { u with cqPos := u.cqPos + 1 })).portDebit u 32).emit (.completion (.queue q) c)
    if irq then d.queEvent q else d
  | none => d

/-- Post a completion on a queue: written, or held with QUE_ERR.cq_full when the ring is full or completions are held
already (R494); discarded when the entry is no longer open or the queue is DEAD, and counted in PCI_DROP at a location
behind a port (R499). -/
def Dev.postCompletion (q : Nat) (e : Ent) (status result : Nat) (d : Dev) : Dev :=
  match Tab.look q d.que with
  | none => d
  | some u =>
    if u.opened.contains e.serial then
      let d := d.queUpd q (fun u => { u with opened := u.opened.erase e.serial })
      let c : Completion := ⟨e.cid, status, u.sqHead, 1, e.cookie, result, d.daymark⟩
      if u.st == .dead then (if u.location < 2 then d.bump (Reg.PCI_DROP.count u.location) 1 else d)
      else if d.cqFull q u || !u.held.isEmpty then
        (d.queUpd q (fun u => { u with held := u.held ++ [(c, e.irq)] })).flag (Reg.QUE_ERR.cq_full q)
      else d.writeCompletion q c e.irq
    else d

/-- Post the completion of an entry where its sender takes it. -/
def Dev.postEnt (e : Ent) (status result : Nat) (d : Dev) : Dev :=
  match e.src with
  | .queue q => d.postCompletion q e status result
  | .mctp =>
    if d.mctp.outstanding.any (fun h => h.cid == e.cid) then
      ({ d with mctp := { d.mctp with outstanding := d.mctp.outstanding.eraseP (fun h => h.cid == e.cid) } }).emit
        (.mctpAdmin ⟨e.cid, status, 0, 1, e.cookie, result, d.daymark⟩)
    else d
  | .internal => d

/-- May a queue being deleted go: every fetched entry but its own QUEUE_DELETE has completed, and no completion is held for want of
ring room (R497). -/
def Dev.mayGo (q : Nat) (u : Queue) (e : Ent) (d : Dev) : Bool :=
  if e.src == .queue q then (u.opened.filter (fun k => k != e.serial)).isEmpty && u.held.isEmpty && (u.st == .dead || !d.cqFull q u)
  else u.opened.isEmpty && u.held.isEmpty

/-- A deleted queue leaves when its last fetched entry has completed, and QUEUE_DELETE completes (R497); `fuel` bounds the chain of
queues whose QUEUE_DELETE came through another that is being deleted. [DEDUCED: log entry 83] -/
def Dev.finishDeletes : Nat → Nat → Dev → Dev
  | 0, _, d => d
  | fuel + 1, q, d =>
    match Tab.look q d.que with
    | some u =>
      match u.deleter with
      | some e =>
        if d.mayGo q u e then
          let d := d.postEnt e ST.OK 0
          let d : Dev := { d with que := Tab.del q d.que }
          (match e.src with | .queue p => if p = q then d else Dev.finishDeletes fuel p d | _ => d)
        else d
      | none => d
    | none => d

/-- The queue leaves if its deletion has come to its end (R497). [DEDUCED: log entry 83] -/
def Dev.finishDelete (q : Nat) (d : Dev) : Dev := Dev.finishDeletes d.que.length q d

/-- Complete an entry with a status and result (R493). -/
def Dev.complete (e : Ent) (status result : Nat) (d : Dev) : Dev :=
  match e.src with
  | .queue q => (d.postEnt e status result).finishDelete q
  | _ => d.postEnt e status result

/-- Complete an entry that may be absent (an operation of the device's own). -/
def Dev.completeOpt (e : Option Ent) (status result : Nat) (d : Dev) : Dev :=
  match e with
  | some e => d.complete e status result
  | none => d

/-- Fetch a queue's next entry of `size` bytes: the queue runs and is of the kind, its ring holds an entry, its
completion ring has room (R494), and its shaper is eligible and is debited (R371). The device's own entries and outstanding MCTP entries are there already. [DEDUCED: log entry 11] -/
def Dev.fetch (kind size : Nat) (h : EntryHdr) (d : Dev) : Option (Ent × Dev) :=
  match h.src with
  | .internal => some (⟨.internal, h.cid, false, h.cookie, 0⟩, d)
  | .mctp =>
    if kind == 0 && d.mctp.arrived.contains h then
      some (⟨.mctp, h.cid, h.irq, h.cookie, 0⟩, { d with mctp := { d.mctp with arrived := d.mctp.arrived.erase h } })
    else none
  | .queue q =>
    match Tab.look q d.que with
    | none => none
    | some u =>
      if d.fetching && u.st == .running && u.kind == kind && !d.cqFull q u && u.held.isEmpty &&
          d.get (Reg.QUE_SQ_TAIL.tail q) != u.sqHead && d.shaperOk q then
        let d := d.queUpd q (fun u => { u with sqHead := (u.sqHead + 1) % 2 ^ u.ringLog2, fetched := u.fetched + 1, opened := u.opened ++ [u.fetched] })
        let d := d.shaperDebit q (d.unitSize q size)
        let head := (u.sqHead + 1) % 2 ^ u.ringLog2
        let d : Dev := { d with lens := { d.lens with bells := Tab.upd q (fun l => l.filter (fun b => b.1 != head)) d.lens.bells } }
        some (⟨.queue q, h.cid, h.irq, h.cookie, u.fetched⟩, d)
      else none

/-- An entry that comes on no queue of its kind. On a streaming-egress queue of HEAD or BODY it completes with ST_ROLE_UNSERVED and has no
other effect (R27): an egress queue has no completion ring, and the completion goes out with phase 1. An opcode that is not a turn's on
a request-ingress queue completes with ST_SRV_BADPARAM (R203), where the role serves such queues, and a turn's on an
administration queue with ST_HOST_OPCODE (R494). [DESIGN CHOICE: log entry 11] -/
def Dev.unserved (wanted : Nat) (h : EntryHdr) (d : Dev) : Dev :=
  let kind := match h.src with
    | .queue q => (match Tab.look q d.que with | some u => u.kind | none => wanted)
    | _ => 0
  if kind = wanted then d
  else if kind = 2 then
    match h.src with
    | .queue q =>
      (match Tab.look q d.que with
       | some u =>
         if d.fetching && u.st == .running && !d.isTail && d.get (Reg.QUE_SQ_TAIL.tail q) != u.sqHead then
           let head := (u.sqHead + 1) % 2 ^ u.ringLog2
           (d.queUpd q (fun u => { u with sqHead := head })).emit (.completion (.queue q) ⟨h.cid, ST.ROLE_UNSERVED, head, 1, h.cookie, 0, d.daymark⟩)
         else d
       | none => d)
    | _ => d
  else
    match d.fetch kind 64 h with
    | some (e, d) => d.complete e (if kind = 0 then ST.HOST_OPCODE else if d.isHead then ST.SRV_BADPARAM else ST.ROLE_UNSERVED) 0
    | none => d

/-- The master that an entry comes from: the port's master for a PF queue behind a port, the baseboard controller over
MCTP; 0 for any other. [DEDUCED: log entry 11] -/
def Dev.issuer (e : Ent) (d : Dev) : Nat :=
  match e.src with
  | .mctp => 3
  | .internal => 0
  | .queue q =>
    match Tab.look q d.que with
    | some u => if u.pf && u.location < 2 then u.location + 1 else 0
    | none => 0

/-- The entry comes from the owner, or from the device itself. [DEDUCED: log entry 11] -/
def Dev.fromOwner (e : Ent) (d : Dev) : Bool :=
  e.src == .internal || (d.owner != 0 && d.issuer e == d.owner)

/-- The Sector of the queue an entry came through; none for the PF, MCTP and the device itself. -/
def Dev.entSector (e : Ent) (d : Dev) : Option Nat :=
  match e.src with
  | .queue q =>
    match Tab.look q d.que with
    | some u => if u.pf then none else some u.sector
    | none => none
  | _ => none

/-- Run an administration command of `fetch`: nothing happens where the entry cannot be fetched. -/
def Dev.admin (h : EntryHdr) (f : Ent → Dev → Dev) (d : Dev) : Dev :=
  match d.fetch 0 64 h with
  | some (e, d') => f e d'
  | none => d.unserved 0 h

/-- An administration command that only the owner may give; any other gets `denied`. [DEDUCED: log entry 11] -/
def Dev.ownerAdmin (h : EntryHdr) (denied : Nat) (f : Ent → Dev → Dev) (d : Dev) : Dev :=
  d.admin h (fun e d => if d.fromOwner e then f e d else d.complete e denied 0)

/-- The same for a command that also changes memory. [DEDUCED: log entry 11] -/
def Dev.ownerAdminMem (h : EntryHdr) (denied : Nat) (mem : List Host.Cell) (f : Ent → Dev → List Host.Cell × Dev) (d : Dev) : List Host.Cell × Dev :=
  match d.fetch 0 64 h with
  | some (e, d') => if d'.fromOwner e then f e d' else (mem, d'.complete e denied 0)
  | none => (mem, d.unserved 0 h)

/-- A write by a master to a PF register takes effect only from the owner (R487); another master's is counted. [DEDUCED: log entry 11] -/
def Dev.ownerWrite (m : Nat) (f : Dev → Dev) (d : Dev) : Dev :=
  if d.owner != 0 && d.owner == m then f d else d.bump Reg.OWN_DENIED.count 1

end Sys2Proof.Machine
end

