-- ==== Sys2Proof/Machine/Sha.lean ====
section
/-!
DEFINITION. Machine/Sha.lean: SHA-256 over bytes, kept as a running state: the digest table of HEAD and the sharing key (R72,
R209).
-/
namespace Sys2Proof.Machine

/-- The standard's round constants, first half. -/
def shaK0 : List Nat :=
  [0x428A2F98, 0x71374491, 0xB5C0FBCF, 0xE9B5DBA5, 0x3956C25B, 0x59F111F1, 0x923F82A4, 0xAB1C5ED5,
   0xD807AA98, 0x12835B01, 0x243185BE, 0x550C7DC3, 0x72BE5D74, 0x80DEB1FE, 0x9BDC06A7, 0xC19BF174,
   0xE49B69C1, 0xEFBE4786, 0x0FC19DC6, 0x240CA1CC, 0x2DE92C6F, 0x4A7484AA, 0x5CB0A9DC, 0x76F988DA,
   0x983E5152, 0xA831C66D, 0xB00327C8, 0xBF597FC7, 0xC6E00BF3, 0xD5A79147, 0x06CA6351, 0x14292967]

/-- The standard's round constants. -/
def shaK : List Nat := shaK0 ++
  [0x27B70A85, 0x2E1B2138, 0x4D2C6DFC, 0x53380D13, 0x650A7354, 0x766A0ABB, 0x81C2C92E, 0x92722C85,
   0xA2BFE8A1, 0xA81A664B, 0xC24B8B70, 0xC76C51A3, 0xD192E819, 0xD6990624, 0xF40E3585, 0x106AA070,
   0x19A4C116, 0x1E376C08, 0x2748774C, 0x34B0BCB5, 0x391C0CB3, 0x4ED8AA4A, 0x5B9CCA4F, 0x682E6FF3,
   0x748F82EE, 0x78A5636F, 0x84C87814, 0x8CC70208, 0x90BEFFFA, 0xA4506CEB, 0xBEF9A3F7, 0xC67178F2]

/-- The standard's initial chaining words. -/
def shaInit : List Nat :=
  [0x6A09E667, 0xBB67AE85, 0x3C6EF372, 0xA54FF53A, 0x510E527F, 0x9B05688C, 0x1F83D9AB, 0x5BE0CD19]

/-- Rotate a 32-bit word right. -/
def rotr (n x : Nat) : Nat := x / 2 ^ n + x % 2 ^ n * 2 ^ (32 - n)

/-- The big-endian value of bytes. -/
def beNat (bs : List Byte) : Nat := bs.foldl (fun n b => n * 256 + b.toNat) 0

/-- The 64 message words of a block; `ws` holds the last sixteen, latest first, and `fuel` counts those to come. -/
def shaSchedule : Nat → List Nat → List Nat → List Nat
  | 0, _, acc => acc.reverse
  | fuel + 1, ws, acc =>
    let g (i : Nat) : Nat := ws.getD i 0
    let s0 := rotr 7 (g 14) ^^^ rotr 18 (g 14) ^^^ (g 14 / 8)
    let s1 := rotr 17 (g 1) ^^^ rotr 19 (g 1) ^^^ (g 1 / 1024)
    let w := wrap 32 (g 15 + s0 + g 6 + s1)
    shaSchedule fuel ((w :: ws).take 16) (w :: acc)

/-- The sixteen big-endian words of a block. -/
def shaWords (block : List Byte) : List Nat := (List.range 16).map (fun i => beNat ((block.drop (4 * i)).take 4))

/-- One round on the eight working words. -/
def shaRound (h : List Nat) (kw : Nat) : List Nat :=
  let g (i : Nat) : Nat := h.getD i 0
  let s1 := rotr 6 (g 4) ^^^ rotr 11 (g 4) ^^^ rotr 25 (g 4)
  let ch := (g 4 &&& g 5) ^^^ ((0xFFFFFFFF - g 4) &&& g 6)
  let t1 := g 7 + s1 + ch + kw
  let s0 := rotr 2 (g 0) ^^^ rotr 13 (g 0) ^^^ rotr 22 (g 0)
  let mj := (g 0 &&& g 1) ^^^ (g 0 &&& g 2) ^^^ (g 1 &&& g 2)
  [wrap 32 (t1 + s0 + mj), g 0, g 1, g 2, wrap 32 (g 3 + t1), g 4, g 5, g 6]

/-- The chaining words after a 64-byte block. -/
def shaBlock (h : List Nat) (block : List Byte) : List Nat :=
  let ws := shaWords block
  let all := ws ++ shaSchedule 48 ws.reverse []
  let r := (shaK.zip all).foldl (fun h kw => shaRound h (kw.1 + kw.2)) h
  (h.zip r).map (fun p => wrap 32 (p.1 + p.2))

/-- The running state before any byte (R209). -/
def DigestEntry.start : DigestEntry := ⟨shaInit, [], 0, true⟩

/-- Run every whole block of `bs`; `fuel` bounds the blocks. -/
def shaBlocks : Nat → List Nat → List Byte → List Nat × List Byte
  | 0, h, bs => (h, bs)
  | fuel + 1, h, bs => if bs.length < 64 then (h, bs) else shaBlocks fuel (shaBlock h (bs.take 64)) (bs.drop 64)

/-- Take more bytes into a running state (R209). -/
def shaAbsorb (e : DigestEntry) (bs : List Byte) : DigestEntry :=
  let r := shaBlocks ((e.tail.length + bs.length) / 64 + 1) e.words (e.tail ++ bs)
  { e with words := r.1, tail := r.2, length := e.length + bs.length }

/-- The 32 digest bytes of a running state. -/
def shaFinish (e : DigestEntry) : List Byte :=
  let pad := (119 - e.length % 64) % 64
  let r := shaBlocks 3 e.words (e.tail ++ [0x80] ++ List.replicate pad 0 ++ (leBytes 8 (e.length * 8)).reverse)
  r.1.flatMap (fun w => (leBytes 4 w).reverse)

/-- SHA-256 of bytes, as the little-endian value of its 32 bytes (R2). [DEDUCED: log entry 8] -/
def sha256 (bs : List Byte) : Nat := leNat (shaFinish (shaAbsorb DigestEntry.start bs))

end Sys2Proof.Machine
end

