-- ==== Sys2Proof/Machine/SesOps.lean ====
section
/-!
DEFINITION. Machine/SesOps.lean: Buoys, the Locator cache, tiers and their space, and the placing of a session's parts
(R38 to R75, R91, R99 to R105).
-/
namespace Sys2Proof.Machine

/-! ### Session states (R45) -/

/-- Codes of R45. -/
def SS.absent : Nat := 0
/-- ACTIVE. -/
def SS.active : Nat := 1
/-- READY. -/
def SS.ready : Nat := 2
/-- WAITING. -/
def SS.waiting : Nat := 3
/-- PARKED_WARM. -/
def SS.parkedWarm : Nat := 4
/-- PARKED_COLD. -/
def SS.parkedCold : Nat := 5
/-- MOVING. -/
def SS.moving : Nat := 6
/-- REMOTE. -/
def SS.remote : Nat := 7
/-- LOST. -/
def SS.lost : Nat := 8

/-! ### Sectors and session-ID ranges (R44, R86) -/

/-- The Sector's descriptor in the current map. -/
def Dev.sector (n : Nat) (d : Dev) : SectorDesc := d.comp.cur.sects.getD n SectorDesc.absent

/-- Is the Sector present? -/
def Dev.present (n : Nat) (d : Dev) : Bool := (d.sector n).present

/-- Does Sector n's committed range hold the ID (R44, R86)? A base above the limit is an empty range. -/
def Dev.rangeHolds (n sid : Nat) (d : Dev) : Bool :=
  d.present n && decide (d.com (Reg.SES_IDBASE.base n) ≤ sid) && decide (sid ≤ d.com (Reg.SES_IDLIM.limit n))

/-- The Sector that owns the ID: the lowest-numbered whose range holds it; ID 0 has none (R86). [DEDUCED: log entry 19] -/
def Dev.rangeSector (sid : Nat) (d : Dev) : Option Nat :=
  if sid = 0 then none else (List.range 16).find? (fun n => d.rangeHolds n sid)

/-! ### Buoys (R38 to R43) -/

/-- The Buoy of a session and its index. -/
def Dev.buoyAt (sid : Nat) (d : Dev) : Option (Nat × Buoy) := d.ses.buoys.find? (fun e => e.2.sid == sid)

/-- The Buoy of a session. -/
def Dev.buoy (sid : Nat) (d : Dev) : Option Buoy := (d.buoyAt sid).map (·.2)

/-- A write to a session's Buoy, parts or pages sets its bit in its Sector's active touched set (R403). -/
def Dev.touch (sid : Nat) (d : Dev) : Dev :=
  match d.buoy sid with
  | some b => if d.ckpt.touched.contains (b.sector, sid) then d else { d with ckpt := { d.ckpt with touched := (b.sector, sid) :: d.ckpt.touched } }
  | none => d

/-- The mark of an object that is no page among those copied for a snapshot: its kind of R408. -/
def markKey (kind : Nat) : Nat := 2 ^ 40 + kind

/-- An object of a session is pending in the snapshot and not yet marked copied (R109, R405); `key` names a page. -/
def Dev.snapPending (sid kind key : Nat) (d : Dev) : Bool :=
  match d.ckpt.run with
  | some r => r.pend.any (fun o => o.obj.sid == sid && o.obj.kind == kind && o.key == key) &&
      !d.ckpt.aside.any (fun a => a.sid == sid && a.key == (if kind = 3 then key else markKey kind))
  | none => false

/-- An object pending in the snapshot is marked copied before it is written: one stall (R109, R127). -/
def Dev.snapMark (sector sid key : Nat) (l : Loc) (bytes : List Byte) (d : Dev) : Dev :=
  let d := (d.bump Reg.SES_CBW_STALL.value 1).event none (sectorEvent 4 4 sector)
  { d with ckpt := { d.ckpt with aside := ⟨sector, sid, key, l, bytes⟩ :: d.ckpt.aside } }

/-- A write to a session's Buoy, CTRL, REC or STAT while it is pending in a snapshot, by kind; what the snapshot takes was captured at the cut (R405). [DEDUCED: log entry 63] -/
def Dev.partStall (sid kind : Nat) (d : Dev) : Dev :=
  if d.snapPending sid kind 0 then d.snapMark (match d.buoy sid with | some b => b.sector | none => 0) sid (markKey kind) Loc.none_ [] else d

/-- The device with one session's Buoy changed. -/
def Dev.buoyUpd (sid : Nat) (f : Buoy → Buoy) (d0 : Dev) : Dev :=
  let d := (d0.touch sid).partStall sid 1
  { d with ses := { d.ses with buoys := Tab.mapv (fun _ b => if b.sid == sid then f b else b) d.ses.buoys } }

/-- The session's Mooring. -/
def Dev.moor (sid : Nat) (d : Dev) : Option Moor := Tab.look sid d.ses.moors

/-- A write of a Buoy's location fields: map_epoch takes the epoch in force (R40). -/
def Dev.locsUpd (sid : Nat) (f : Buoy → Buoy) (d : Dev) : Dev := d.buoyUpd sid (fun b => { f b with mapEpoch := d.comp.cur.epoch })

/-- The device with one session's Mooring changed. -/
def Dev.moorUpd (sid : Nat) (f : Moor → Moor) (d0 : Dev) : Dev :=
  let d := d0.touch sid
  { d with ses := { d.ses with moors := Tab.upd sid f d.ses.moors } }

/-- The ID lies in Sector n's committed range, and a Buoy found for it is of that Sector: one whose ID has left its Sector's range is not named by it
(R44, R86). -/
def Dev.ownSession (n sid : Nat) (d : Dev) : Bool :=
  d.rangeSector sid == some n && (match d.buoy sid with | some b => b.sector == n | none => true)

/-- A write of a session's CTRL, which takes the chip's ID and the Buoy's generation (R53). -/
def Dev.ctrlUpd (sid : Nat) (f : Ctrl → Ctrl) (d : Dev) : Dev :=
  (d.partStall sid 2).moorUpd sid (fun m => { m with ctrl := { f m.ctrl with chip := d.chipId, gen := match d.buoy sid with | some b => b.gen | none => 0 } })

/-- A write of a session's root, which takes the Buoy's generation (R63). -/
def Dev.rootUpd (sid : Nat) (f : Moor → Moor) (d : Dev) : Dev :=
  d.moorUpd sid (fun m => { f m with rootGen := match d.buoy sid with | some b => b.gen | none => 0 })

/-- An empty control block (R53). -/
def Ctrl.empty : Ctrl :=
  { chip := 0, gen := 0, carry := [], grmState := 0, grmStack := [], seed := 0, held := none, toolSeq := 0, toolPos := 0, toolTag := 0,
    toolQueue := 0, detok := [], turnBytes := 0 }

/-- The Mooring of a session just created (R43). -/
def Moor.empty : Moor :=
  { modelRevision := 0, layerSlots := 0, kvHeads := 0, lps := 1, rootGen := 0, pages := [], leafLocs := [], ctrl := Ctrl.empty, recUnits := 0,
    statUnits := 0, statBase := 0, prov := [], provLoc := Loc.none_, provUnits := 0, privateAdapter := false, retained := none, coded := none, freeNext := [],
    failedPage := none, migrating := [], abandons := [], backOff := [], startCtx := 0, logLoc := Loc.none_, logUnits := 0 }

/-- A Buoy just created for a Sector (R43). -/
def Buoy.fresh (sid sector epoch state : Nat) : Buoy :=
  { sid := sid, state := state, busy := false, beacon := false, refine := false, vocab := 0, sector := sector,
    grammarId := 0, grammarOn := false, pendingOp := 0, account := 0, mapEpoch := epoch, ctx := 0, kvRoot := Loc.none_,
    remGroup := 0, remChip := 0, ctrlLoc := Loc.none_, recLoc := Loc.none_, statLoc := Loc.none_, adapterRef := 0,
    adapterRank := 0, sampler := 0, toolSeq := 0, toolPending := false, waitSince := 0, gen := 0, bad := false }

/-- Buoys of a Sector. -/
def Dev.sectorBuoys (n : Nat) (d : Dev) : Nat := (d.ses.buoys.filter (fun e => e.2.sector == n)).length

/-- Neither limit of R43 is reached. -/
def Dev.buoyRoom (n : Nat) (d : Dev) : Bool :=
  decide (d.ses.buoys.length < 2 ^ 24) && decide (d.sectorBuoys n < d.com (Reg.SES_QUOTA.max_buoys n))

/-- The index for a new Buoy: the device's choice `pick` where it is free, else the lowest free. [DESIGN CHOICE: log entry 24] -/
def Dev.buoyIndex (pick : Nat) (d : Dev) : Nat :=
  if pick < 2 ^ 24 && !Tab.has pick d.ses.buoys then pick
  else (Tab.firstFree d.ses.buoys 0 (d.ses.buoys.length + 1)).getD 0

/-! ### The Locator cache (R16, R69, R70) -/

/-- A session's set: session_id[31:16] XOR session_id[15:0] (R70). -/
def locSet (sid : Nat) : Nat := (sid / 65536 % 65536) ^^^ (sid % 65536)

/-- Home tier: that of the write page for ACTIVE, READY and WAITING (R69). -/
def homeTier (b : Buoy) (m : Option Moor) : Nat :=
  if b.state = 1 ∨ b.state = 2 ∨ b.state = 3 then
    (if (match m with | some m => m.pages.any (fun p => p.loc.tier == 0 && decide (p.valid < p.cap)) | none => false) then 0 else 1)
  else if b.state = 4 then 1 else if b.state = 5 then 2 else 3

/-- The Locator entry of a Buoy (R69); MOVING entries are pinned (R70). -/
def Dev.locEntry (i : Nat) (b : Buoy) (d : Dev) : LocEntry :=
  { sid := b.sid, buoy := i, state := b.state, valid := true, pinned := b.state == 6, home := homeTier b (d.moor b.sid),
    group := if b.state = 7 then b.remGroup else d.groupId, chip := if b.state = 7 then b.remChip else d.chipId,
    gen := b.gen, sector := b.sector }

/-- Drop the last way that is not pinned: the least recently used (R70). [DEDUCED: log entry 29] -/
def dropLru : List LocEntry → Option (List LocEntry)
  | [] => none
  | e :: es =>
    match dropLru es with
    | some r => some (e :: r)
    | none => if e.pinned then none else some es

/-- Install an entry in a set, most recently used first; none when all sixteen ways are pinned (R70). [DEDUCED: log entry 29] -/
def installWay (e : LocEntry) (ways : List LocEntry) : Option (List LocEntry) :=
  let others := ways.filter (fun w => w.sid != e.sid)
  if others.length < 16 then some (e :: others)
  else (dropLru others).map (fun r => e :: r)

/-- Install an entry in both copies (R16, R70). [DEDUCED: log entry 29] -/
def Dev.locInstall (e : LocEntry) (d : Dev) : Dev :=
  let k := locSet e.sid
  match installWay e (Tab.getD k [] d.loc.die0) with
  | some ways => { d with loc := ⟨Tab.put k ways d.loc.die0, Tab.put k ways d.loc.die1⟩ }
  | none => d.flag Reg.SES_ERR.lc_install_fail

/-- Invalidate a session's entry in both copies (R122). -/
def Dev.locDrop (sid : Nat) (d : Dev) : Dev :=
  let k := locSet sid
  let ways := (Tab.getD k [] d.loc.die0).filter (fun w => w.sid != sid)
  { d with loc := ⟨Tab.put k ways d.loc.die0, Tab.put k ways d.loc.die1⟩ }

/-- Install the entry of the session's Buoy as it stands: after the Buoy write (R71). [DEDUCED: log entry 29] -/
def Dev.locSync (sid : Nat) (d : Dev) : Dev :=
  match d.buoyAt sid with
  | some (i, b) => d.locInstall (d.locEntry i b)
  | none => d.locDrop sid

/-! ### State changes of a session -/

/-- Units of 2^30 ns of the Daymark (R40). -/
def Dev.dayUnits (d : Dev) : Nat := bitsOf 61 30 d.daymark

/-- A completed transition: the new state, generation + 1, wait_since on entering WAITING, and the Locator entry
(R40, R70, R71). -/
def Dev.transition (sid st : Nat) (d : Dev) : Dev :=
  (d.buoyUpd sid (fun b => { b with state := st, gen := wrap 16 (b.gen + 1), waitSince := if st = 3 ∧ b.state ≠ 3 then d.dayUnits else b.waitSince })).locSync sid

/-- The Sector's images (R186). -/
def Dev.secImg (n : Nat) (d : Dev) : SecImg := Tab.getD n ⟨none, none, none, [], [], [], [], false⟩ d.eng.imgs

/-- The Sector's active layer image. -/
def Dev.activeImg (n : Nat) (d : Dev) : Option Image := (d.secImg n).active

/-- The device with one Sector's images changed. -/
def Dev.secImgPut (n : Nat) (x : SecImg) (d : Dev) : Dev := { d with eng := { d.eng with imgs := Tab.put n x d.eng.imgs } }

/-- The digest entry of a new session: the state after model_revision and the digest of no adapter (R72, R209). -/
def Dev.digestStart (sector : Nat) (d : Dev) : DigestEntry :=
  shaAbsorb DigestEntry.start (leBytes 8 (match d.activeImg sector with | some i => i.modelRevision | none => 0) ++ List.replicate 32 0)

/-- Create a Buoy for a session in a state (R43); on HEAD its digest entry starts (R209). -/
def Dev.createBuoy (sid sector pick st : Nat) (d : Dev) : Dev :=
  let i := d.buoyIndex pick
  let b := { Buoy.fresh sid sector d.comp.cur.epoch st with gen := 1 }
  let d := { d with ses := { d.ses with buoys := Tab.put i b d.ses.buoys, moors := Tab.put sid Moor.empty d.ses.moors,
                                        digests := if d.isHead then Tab.put i (d.digestStart sector) d.ses.digests else d.ses.digests } }
  (d.touch sid).locSync sid

/-- Return a session to ABSENT: no Buoy, no parts, no Locator entry. -/
def Dev.removeSession (sid : Nat) (d0 : Dev) : Dev :=
  let d := d0.touch sid
  let i := (d.buoyAt sid).map (·.1)
  let d := { d with ses := { d.ses with buoys := d.ses.buoys.filter (fun e => e.2.sid != sid), moors := Tab.del sid d.ses.moors,
                                        digests := (match i with | some i => Tab.del i d.ses.digests | none => d.ses.digests) } }
  d.locDrop sid

/-! ### Sharing counts (R73, R74) -/

/-- Take one from a shared page's count; at zero the entry leaves the table (R74). -/
def shareDrop (sector key : Nat) : List ((Nat × Nat) × Nat) → List ((Nat × Nat) × Nat)
  | [] => []
  | (k, c) :: t => if k = (sector, key) then (if c ≤ 1 then t else (k, c - 1) :: t) else (k, c) :: shareDrop sector key t

/-- Release the shared pages a session references (R120, R122). -/
def Dev.releaseShared (sid : Nat) (d : Dev) : Dev :=
  match d.moor sid, d.buoy sid with
  | some m, some b =>
    { d with ses := { d.ses with sharing := (m.pages.filter (·.shared)).foldl (fun t p => shareDrop b.sector p.key t) d.ses.sharing } }
  | _, _ => d

/-- Free a session's private parts and copies, keeping an empty Mooring (R95, R120). -/
def Dev.freeParts (sid : Nat) (d : Dev) : Dev :=
  (((d.releaseShared sid).moorUpd sid (fun _ => Moor.empty)).locsUpd sid (fun b =>
    { b with kvRoot := Loc.none_, ctrlLoc := Loc.none_, recLoc := Loc.none_, statLoc := Loc.none_ }))

/-- A session goes to LOST: parts freed, Buoy kept (R45, R95). -/
def Dev.loseSession (sid : Nat) (d : Dev) : Dev :=
  (((d.freeParts sid).buoyUpd sid (fun b => { b with busy := false, pendingOp := 0, bad := false })).transition sid 8)

/-- Read a session's Buoy: one whose check fails puts the session into LOST and is reported (R42). -/
def Dev.readBuoy (sid : Nat) (d : Dev) : Option Buoy × Dev :=
  match d.buoy sid with
  | none => (none, d)
  | some b =>
    if b.bad then
      let d := ((d.loseSession sid).flag Reg.SES_ERR.buoy_check).reportKeeper ((d.rangeSector sid).getD 0xFFF) ST.SES_LOST
      (d.buoy sid, d)
    else (some b, d)

/-! ### Tiers and space (R41, R59 to R61, R339) -/

/-- The descriptor whose capacity and sealing are in force: the previous map's while one drains (R344). -/
def Dev.capSector (n : Nat) (d : Dev) : SectorDesc :=
  match d.comp.prev with
  | some m => m.sects.getD n SectorDesc.absent
  | none => d.sector n

/-- Tier-0 unit of a byte of an image core's SRAM: the STATE regions are part of tier 0, beyond the staging of both dies. [DESIGN CHOICE: log entry 108] -/
def stateUnit (img off : Nat) : Nat := 0x4000 + 4096 * img + off / 4096

/-- Where a location's unit is counted: its tier, or 4 for a STATE region of core SRAM. -/
def locSpace (l : Loc) : Nat := if l.tier = 0 && decide (0x4000 ≤ l.unit) then 4 else l.tier

/-- The STATE regions of a Sector's image as spans of tier-0 units (R165). -/
def Dev.stateSpans (n : Nat) (d : Dev) : List (Nat × Nat) :=
  (d.secImg n).live.filterMap (fun e => match e.regions[2]? with
    | some r => if r.2 < 4096 then none else some (stateUnit e.index r.1, r.2 / 4096)
    | none => none)

/-- Do `k` units from unit `u` lie inside the Sector's range of a tier (R339)? Tier 0 is split by die: die 1's units start at
16 MiB; the STATE regions follow. -/
def Dev.inRange (tier n u k : Nat) (d : Dev) : Bool :=
  let s := d.capSector n
  if tier = 0 then
    (if 0x4000 ≤ u then (d.stateSpans n).any (fun x => decide (x.1 ≤ u) && decide (u + k ≤ x.1 + x.2))
     else decide (u + k ≤ s.t0d0 * 16) || (decide (4096 ≤ u) && decide (u + k ≤ 4096 + s.t0d1 * 16)))
  else if tier = 1 then decide (u + k ≤ s.t1Chunks * 16384)
  else decide (u + k ≤ s.t2Gib * 262144)

/-- Units of 4 KiB in a Sector's range of a tier (R337). -/
def Dev.tierCap (tier n : Nat) (d : Dev) : Nat :=
  let s := d.capSector n
  if tier = 0 then (s.t0d0 + s.t0d1) * 16 else if tier = 1 then s.t1Chunks * 16384 else s.t2Gib * 262144

/-- Page-table leaves in use: one per 512 pages of each stream (R63, R64). -/
def Moor.leaves (m : Moor) : Nat := m.leafLocs.length

/-- Locations of a session's parts, each with its units: private pages, leaves, root, CTRL, REC, STAT (R39). -/
def partLocs (b : Buoy) (m : Moor) : List (Loc × Nat) :=
  (m.pages.filter (fun p => !p.shared)).map (fun p => (p.loc, 4)) ++ m.leafLocs.map (fun e => (e.2, 1)) ++
    [(b.kvRoot, 4), (b.ctrlLoc, 1), (b.recLoc, m.recUnits), (b.statLoc, m.statUnits)]

/-- The same of a copy (R101). -/
def CopyRec.locs (c : CopyRec) : List (Loc × Nat) :=
  (c.pages.filter (fun p => !p.shared)).map (fun p => (p.loc, 4)) ++ c.leafLocs.map (fun e => (e.2, 1)) ++
    [(c.root, 4), (c.ctrlLoc, 1), (c.recLoc, c.recUnits), (c.statLoc, c.statUnits)]

/-- Everything of a session that takes place in a tier: its parts, the provisional block, the turn token log, objects not yet freed, the
destinations of migrations, and the retained copy (R56, R58, R62, R100, R101, R111). -/
def objectLocs (b : Buoy) (m : Moor) : List (Loc × Nat) :=
  partLocs b m ++ [(m.provLoc, m.provUnits), (m.logLoc, m.logUnits)] ++ m.freeNext ++ m.migrating.map (fun e => (e.2, 4)) ++
    (match m.retained with | some c => c.locs | none => [])

/-- Units of some objects in a space: a tier, or 4 for STATE regions; what two lists name once is counted once. -/
def unitsIn (space : Nat) (ls : List (Loc × Nat)) : Nat := ((ls.eraseDups.filter (fun l => locSpace l.1 == space)).map (·.2)).sum

/-- Units of a session's parts in a tier, with everything else of it that lies there. -/
def partUnits (tier : Nat) (b : Buoy) (m : Moor) : Nat := unitsIn tier (objectLocs b m)

/-- Every private unit of a session, wherever it lies. -/
def privateUnits (m : Moor) : Nat :=
  4 * (m.pages.filter (fun p => !p.shared)).length + 4 + m.leaves + 1 + m.recUnits + m.statUnits

/-- Units that an operation has reserved in a tier (R94). -/
def SesOp.reserved (tier : Nat) (o : SesOp) : Nat := unitsIn tier (o.plan.map (fun x => (x.loc, x.units)))

/-- Units of a location-2 queue's region: doorbell page, ring, payload window (R492). -/
def Queue.regionUnits (u : Queue) : Nat :=
  if u.location = 2 ∧ u.kind ≠ 2 then 1 + ceilDiv (64 * 2 ^ u.ringLog2) 4096 + (if u.payloadLog2 = 0 then 0 else 2 ^ u.payloadLog2 / 4096)
  else 0

/-- Tier-1 units that an image takes: its bytes and its stack-resident and preferred blobs (R188 resource 4). -/
def imgUnits : Option Image → Nat
  | some i => ceilDiv (i.imageLength + i.tier1Bytes) 4096
  | none => 0

/-- What a move compares of an image (R115). -/
def imgGeometry (i : Image) : Geometry :=
  { modelRevision := i.modelRevision, layerSlots := i.layerSlots, kvHeads := i.kvHeads, layerDigest := i.layerDigest, lps := i.lps, slots := i.slots }

/-- Units that objects pending in a snapshot keep although their session has left them (R405, R406). -/
def Dev.ckptHeld (tier n : Nat) (d : Dev) : Nat :=
  match d.ckpt.run with
  | none => 0
  | some r => ((r.pend.filter (fun p => p.sector == n && p.loc.tier == tier &&
      !(match d.moor p.obj.sid with
        | some m => m.pages.any (fun q => q.loc == p.loc) || m.freeNext.any (fun l => l.1 == p.loc)
        | none => false))).map (·.units)).sum

/-- Units kept at the end of a Sector's range: images and queue regions in tier 1 (R188, R492), the active image's staging and
the mask pool in tier 0 (R179, R295). -/
def Dev.topUnits (tier n : Nat) (d : Dev) : Nat :=
  if tier = 1 then (d.que.map (fun e => if !e.2.pf && e.2.sector == n then e.2.regionUnits else 0)).sum +
    imgUnits (d.secImg n).active + imgUnits (d.secImg n).staged
  else if tier = 0 then
    (match d.activeImg n with | some i => ceilDiv i.tier0Bytes 4096 + (if d.isTail then 8 * max 1 (d.get (Reg.GRM_POOL.slots n)) else 0) | none => 0)
  else 0

/-- Spans of a Sector's indexes in tier 2: first unit and units (R308). [DESIGN CHOICE: log entry 52] -/
def Dev.idxSpans (sector : Nat) (d : Dev) : List (Nat × Nat) :=
  (d.idx.idx.filter (fun e => e.2.sector == sector && decide (e.2.base < 2 ^ 62))).map (fun e => ((e.2.base - tierAddr 2 sector 0) / 4096, e.2.units))

/-- Units of a Sector's tier in use or reserved: sessions, operations, queue regions and images (tier 1),
the active image's staging (tier 0). -/
def Dev.tierUsed (tier n : Nat) (d : Dev) : Nat :=
  (d.ses.buoys.map (fun e => if e.2.sector == n then
    (match d.moor e.2.sid with | some m => partUnits tier e.2 m | none => 0) +
    (match Tab.look e.2.sid d.ses.ops with | some o => o.reserved tier | none => 0) else 0)).sum +
  d.topUnits tier n + (if tier = 1 then 4 * (d.ses.sharing.filter (fun e => e.1.1 == n && decide (0 < e.2))).length else 0) +
  (if tier ≠ 2 then 0 else ((d.idxSpans n).map (·.2)).sum) + d.ckptHeld tier n + unitsIn tier ((d.ckpt.aside.filter (fun a => a.sector == n)).map (fun a => (a.loc, 4)))

/-- Units free in a Sector's tier. -/
def Dev.tierFree (tier n : Nat) (d : Dev) : Nat := d.tierCap tier n - d.tierUsed tier n

/-- What lies in a Sector's tiers: objects of its sessions, pages that are shared, places reserved by operations, and pages copied aside. -/
def Dev.taken (sector : Nat) (d : Dev) : List (Loc × Nat) :=
  d.ses.buoys.flatMap (fun e => if e.2.sector == sector then
    (match d.moor e.2.sid with | some m => objectLocs e.2 m ++ (m.pages.filter (·.shared)).map (fun p => (p.loc, 4)) | none => []) ++
    (match Tab.look e.2.sid d.ses.ops with | some o => o.plan.map (fun x => (x.loc, x.units)) | none => []) else []) ++
  (d.ckpt.aside.filter (fun a => a.sector == sector)).map (fun a => (a.loc, 4))

/-- Two spans of a tier do not meet. -/
def apart (tier u n : Nat) (l : Loc × Nat) : Bool := l.1.tier != tier || decide (l.1.unit + l.2 ≤ u) || decide (u + n ≤ l.1.unit)

/-- Is the span of `n` units from `u` inside the Sector's range of the tier and free of everything that lies there (R91)? [DESIGN CHOICE: log entry 24] -/
def Dev.spanFree (tier sector u n : Nat) (d : Dev) : Bool :=
  d.inRange tier sector u (n + if tier = 0 && decide (0x4000 ≤ u) then 0 else d.topUnits tier sector) &&
  (tier != 2 || (d.idxSpans sector).all (fun x => decide (x.1 + x.2 ≤ u) || decide (u + n ≤ x.1))) &&
  (d.taken sector).all (apart tier u n)

/-- The tier a fall-back placement address names, or none (R60, R90 check 5). -/
def placeTier (a : Nat) : Option Nat :=
  if bitsOf 63 62 a = 0 ∨ bitsOf 61 48 a ≠ 0 ∨ bitsOf 11 0 a ≠ 0 then none else some (bitsOf 63 62 a - 1)

/-- The unit a fall-back address names (R60). [DESIGN CHOICE: log entry 24] -/
def placeUnit (a : Nat) : Nat := bitsOf 47 12 a

/-- The first multiple of 4 at or after `n`: the next 16 KiB boundary (R91). -/
def align4 (n : Nat) : Nat := (n + 3) / 4 * 4

/-! ### Placing parts -/

/-- A 16 KiB object, which lies at a unit that is a multiple of 4 (R41). -/
def ObjRef.big : ObjRef → Bool
  | .root => true
  | .page _ _ => true
  | _ => false

/-- Units of an object of a Mooring. -/
def ObjRef.units (m : Moor) : ObjRef → Nat
  | .recurrent => m.recUnits
  | .stat => m.statUnits
  | .root => 4
  | .page _ _ => 4
  | _ => 1

/-- Where an object lies. -/
def ObjRef.loc (b : Buoy) (m : Moor) : ObjRef → Loc
  | .ctrl => b.ctrlLoc
  | .leaf k => Tab.getD k Loc.none_ m.leafLocs
  | .recurrent => b.recLoc
  | .stat => b.statLoc
  | .root => b.kvRoot
  | .page s o => match m.pages.find? (fun p => p.stream == s && p.ordinal == o) with | some p => p.loc | none => Loc.none_

/-- A session's private objects, 4 KiB objects first (R91). -/
def privateObjs (m : Moor) : List ObjRef :=
  [.ctrl] ++ m.leafLocs.map (fun e => ObjRef.leaf e.1) ++ [.recurrent, .stat, .root] ++ (m.pages.filter (fun p => !p.shared)).map (fun p => ObjRef.page p.stream p.ordinal)

/-- The objects that lie in a tier that `which` selects; REC and STAT only where they exist. -/
def objsIn (which : Nat → Bool) (b : Buoy) (m : Moor) : List ObjRef :=
  (privateObjs m).filter (fun o => which (o.loc b m).tier && ((o.loc b m).tier != 3))

/-- Where a new object may start: the ends of what lies in the tier, and the starts of its ranges. [DESIGN CHOICE: log entry 24] -/
def Dev.starts (tier sector : Nat) (state : Bool) (acc : List Spot) (d : Dev) : List Nat :=
  let ends := ((d.taken sector ++ acc.map (fun x => (x.loc, x.units))).filter (fun l => l.1.tier == tier)).map (fun l => l.1.unit + l.2)
  let all := (if state then (d.stateSpans sector).map (·.1) else [0, 4096]) ++ ends ++ (if tier = 2 then (d.idxSpans sector).map (fun x => x.1 + x.2) else [])
  all.filter (fun u => tier != 0 || decide (0x4000 ≤ u) == state)

/-- A free unit of a tier for an object beside those already given places: the first. [DESIGN CHOICE: log entry 24] -/
def Dev.pickUnit (tier sector n : Nat) (big state : Bool) (acc : List Spot) (d : Dev) : Option Nat :=
  ((d.starts tier sector state acc).map (fun u => if big then align4 u else u)).find? (fun u =>
    d.spanFree tier sector u n && acc.all (fun x => apart tier u n (x.loc, x.units)))

/-- Places for objects, one after another: contiguous from an explicit unit (R91), or where the device chooses; `pools` gives the tiers an
object may go to in order, 4 standing for the STATE regions. None where one has no place. -/
def Dev.planObjs (sector : Nat) (m : Moor) (pools : ObjRef → List Nat) : Option Nat → List ObjRef → List Spot → Dev → Option (List Spot)
  | _, [], acc, _ => some acc
  | some u, o :: rest, acc, d =>
    let u := if o.big then align4 u else u
    let tier := (pools o).headD 1
    if d.spanFree tier sector u (o.units m) then Dev.planObjs sector m pools (some (u + o.units m)) rest (acc ++ [⟨o, ⟨tier, u⟩, o.units m⟩]) d
    else none
  | none, o :: rest, acc, d =>
    match (pools o).findSome? (fun k => (d.pickUnit (if k = 4 then 0 else k) sector (o.units m) o.big (k == 4) acc).map (fun u => Loc.mk (if k = 4 then 0 else k) u)) with
    | some l => Dev.planObjs sector m pools none rest (acc ++ [⟨o, l, o.units m⟩]) d
    | none => none

/-- An object's location set. -/
def setLoc (o : ObjRef) (l : Loc) (x : Buoy × Moor) : Buoy × Moor :=
  match o with
  | .ctrl => ({ x.1 with ctrlLoc := l }, x.2)
  | .leaf k => (x.1, { x.2 with leafLocs := Tab.put k l x.2.leafLocs })
  | .recurrent => ({ x.1 with recLoc := l }, x.2)
  | .stat => ({ x.1 with statLoc := l }, x.2)
  | .root => ({ x.1 with kvRoot := l }, x.2)
  | .page s k => (x.1, { x.2 with pages := x.2.pages.map (fun p => if p.stream == s && p.ordinal == k then { p with loc := l } else p) })

/-- Every object of a plan at its place. -/
def placeAll (plan : List Spot) (x : Buoy × Moor) : Buoy × Moor := plan.foldl (fun x s => setLoc s.obj s.loc x) x

/-- What a plan's objects leave behind: their old places, free at the next boundary (R62, R100). -/
def leftBehind (plan : List Spot) (b : Buoy) (m : Moor) : List (Loc × Nat) :=
  ((plan.filter (fun s => s.obj.loc b m != s.loc)).map (fun s => (s.obj.loc b m, s.units))).filter (fun l => l.1.tier != 3)

/-- Units of the objects that a session's work wrote to new places, those that a retained copy already held apart (R93, R101). -/
def movedUnits (b b' : Buoy) (m m' : Moor) : Nat :=
  let held (l : Loc) : Bool := match m.retained with | some r => r.locs.any (fun x => x.1 == l) | none => false
  (((privateObjs m').filter (fun o => o.loc b' m' != o.loc b m && (o.loc b' m').tier != 3 && !held (o.loc b' m'))).map (fun o => o.units m')).sum

/-- The copy that a Mooring in tier 2 makes, with its retention record (R101). [DEDUCED: log entry 26] -/
def Moor.asCopy (b : Buoy) (m : Moor) : CopyRec :=
  { ctx := b.ctx, pages := m.pages, ctrl := m.ctrl, root := b.kvRoot, ctrlLoc := b.ctrlLoc, recLoc := b.recLoc, statLoc := b.statLoc,
    leafLocs := m.leafLocs, recUnits := m.recUnits, statUnits := m.statUnits, current := true, offset := 0, slice := 0 }

/-- A private page whose content the retained copy holds keeps its tier-2 location: it is there with the same valid_count (R101). [DEDUCED: log entry 26] -/
def reuseRetained (r : Option CopyRec) (p : Page) : Option Loc :=
  match r with
  | some r => (r.pages.find? (fun q => q.stream == p.stream && q.ordinal == p.ordinal && !q.shared && q.valid == p.valid)).map (·.loc)
  | none => none

/-- A leaf as the retained copy holds it: the same pages at the same places (R101). -/
def leafKept (m : Moor) (k : Nat) : Bool :=
  let mine (p : Page) : Bool := leafKey p.stream (p.ordinal / 512) == k
  match m.retained with
  | some r =>
    Tab.has k r.leafLocs &&
    (m.pages.filter mine).map (fun p => (p.ordinal, if p.shared then some p.loc else reuseRetained m.retained p, p.shared, p.dirty % 4096)) ==
      (r.pages.filter mine).map (fun p => (p.ordinal, some p.loc, p.shared, p.dirty % 4096))
  | none => false

/-- The objects that a cold park writes to tier 2 (R100, R101): all that does not lie there, but pages and leaves that the retained copy
holds. REC and STAT are planned and kept in place where their bytes turn out unchanged. -/
def coldObjs (b : Buoy) (m : Moor) : List ObjRef :=
  (objsIn (fun t => t != 2) b m).filter (fun o => match o with
    | .page s k => (m.pages.find? (fun p => p.stream == s && p.ordinal == k)).all (fun p => (reuseRetained m.retained p).isNone)
    | .leaf k => !leafKept m k
    | _ => true)

/-- The places in tier 2 that the retained copy gives to the objects a cold park need not write; REC and STAT where `same` says that
their bytes have not changed (R101). -/
def keptSpots (same : Bool × Bool) (b : Buoy) (m : Moor) : List Spot :=
  match m.retained with
  | none => []
  | some r =>
    (objsIn (fun t => t != 2) b m).filterMap (fun o => match o with
      | .page s k => (m.pages.find? (fun p => p.stream == s && p.ordinal == k)).bind (fun p => (reuseRetained m.retained p).map (fun l => ⟨o, l, 4⟩))
      | .leaf k => if leafKept m k then (Tab.look k r.leafLocs).map (fun l => ⟨o, l, 1⟩) else none
      | .recurrent => if same.1 && r.recUnits == m.recUnits && r.recLoc.tier == 2 then some ⟨o, r.recLoc, m.recUnits⟩ else none
      | .stat => if same.2 && r.statUnits == m.statUnits && r.statLoc.tier == 2 then some ⟨o, r.statLoc, m.statUnits⟩ else none
      | _ => none)

/-- A new Mooring object of `n` units: tier 0 where it is wanted and staging has room, else tier 1, with SES_ERR.tier0_short where tier
0 was wanted (R61, R196). [DESIGN CHOICE: log entry 24] -/
def Dev.placeNew (want0 big : Bool) (sector n : Nat) (d : Dev) : Loc × Dev :=
  match (if want0 && decide (n ≤ d.tierFree 0 sector) then d.pickUnit 0 sector n big false [] else none) with
  | some u => (⟨0, u⟩, d)
  | none => (⟨1, (d.pickUnit 1 sector n big false []).getD 0⟩, if want0 then d.flag Reg.SES_ERR.tier0_short else d)

/-- A part of a session that has no place takes one in tier 1: root, CTRL, and REC where the image has one (R45, R54, R63). -/
def Dev.firstParts (sid : Nat) (d : Dev) : Dev :=
  match d.buoy sid with
  | none => d
  | some b =>
    match d.activeImg b.sector with
    | none => d
    | some i =>
      let n := b.sector
      let units := ceilDiv i.recBytes 4096
      let d := if (match d.moor sid with | some m => m.pages.isEmpty | none => false) then
          d.moorUpd sid (fun m => { m with modelRevision := i.modelRevision, layerSlots := i.layerSlots, kvHeads := i.kvHeads, lps := i.lps }) else d
      let d := if b.kvRoot.tier = 3 then (let r := d.placeNew false true n 4; (r.2.locsUpd sid (fun b => { b with kvRoot := r.1 })).rootUpd sid id) else d
      let d := if b.ctrlLoc.tier = 3 then (let r := d.placeNew false false n 1; (r.2.locsUpd sid (fun b => { b with ctrlLoc := r.1 })).ctrlUpd sid id) else d
      if units ≠ 0 ∧ b.recLoc.tier = 3 then
        (let r := d.placeNew false false n units
         (r.2.locsUpd sid (fun b => { b with recLoc := r.1 })).moorUpd sid (fun m => { m with recUnits := units }))
      else d

/-- A session is created in READY, its parts placed (R43, R45). -/
def Dev.createSession (sid sector pick : Nat) (d : Dev) : Dev := (d.createBuoy sid sector pick 2).firstParts sid

/-! ### Unified addresses (R59) -/

/-- What a unified address translates to: ST_SES_BADSTATE where the Buoy has no local parts, else the fall-back address of the byte.
An offset of the KV part names a page; one beyond the part has no byte, which is answered likewise. [DEDUCED: log entry 108] -/
def Dev.translate (a : Nat) (d : Dev) : Nat × Option Nat :=
  match Tab.look (bitsOf 61 38 a) d.ses.buoys with
  | none => (ST.SES_BADSTATE, none)
  | some b =>
    if b.state = 0 ∨ b.state = 7 ∨ b.state = 8 then (ST.SES_BADSTATE, none)
    else
      match d.moor b.sid with
      | none => (ST.SES_BADSTATE, none)
      | some m =>
        let off := bitsOf 35 0 a
        let at_ (l : Loc) (units : Nat) : Nat × Option Nat := if l.tier = 3 ∨ units * 4096 ≤ off then (ST.SES_BADSTATE, none) else (ST.OK, some (locAddr l + off))
        match Part.ofCode (bitsOf 37 36 a) with
        | .ctrl => at_ b.ctrlLoc 1
        | .recurrent => at_ b.recLoc m.recUnits
        | .stat => at_ b.statLoc m.statUnits
        | .kv =>
          let k := off / 16384
          let per := max 1 (m.lps * 512)
          match m.pages.find? (fun p => p.stream == k / per && p.ordinal == k % per) with
          | some p => (ST.OK, some (locAddr p.loc + off % 16384))
          | none => (ST.SES_BADSTATE, none)

/-- The fall-back address of a byte of a session's part, named by its unified address (R59). -/
def Dev.partAddr (sid : Nat) (p : Part) (off : Nat) (d : Dev) : Option Nat :=
  match d.buoyAt sid with | some (i, _) => (d.translate (unifiedAddr i p off)).2 | none => none

end Sys2Proof.Machine
end

