-- ==== Sys2Proof/Machine/Numbers.lean ====
section
/-!
DEFINITION. Machine/Numbers.lean: the number formats of the engines, exact sums, rounding and conversion (R130 to R136),
and the counter-based generator (R251).
-/
namespace Sys2Proof.Machine

/-- A number as the engines see it: NaN, an infinity, or the finite value (−1)^neg × m × 2^e. -/
inductive FpVal where
  | nan
  | inf (neg : Bool)
  | fin (neg : Bool) (m : Nat) (e : Int)
  deriving DecidableEq, Repr

/-- What an operation sets in CORE_NUM_FLAGS (R162). -/
structure NumFlags where
  nanOut : Bool
  overflow : Bool
  intSat : Bool
  emptyRow : Bool
  statMismatch : Bool
  deriving DecidableEq, Repr

/-- No flag. -/
def NumFlags.none_ : NumFlags := ⟨false, false, false, false, false⟩

/-- Flags of two operations together. -/
def NumFlags.or (a b : NumFlags) : NumFlags :=
  ⟨a.nanOut || b.nanOut, a.overflow || b.overflow, a.intSat || b.intSat, a.emptyRow || b.emptyRow, a.statMismatch || b.statMismatch⟩

/-- Zero. -/
def FpVal.zero : FpVal := .fin false 0 0

/-- A floating-point format: exponent and mantissa bits, bias, and its special values: 2 for infinity and NaN as in IEEE
754, 1 for the one NaN of E4M3, 0 for none (R130). -/
structure FloatFmt where
  eb : Nat
  mb : Nat
  bias : Nat
  special : Nat

/-- FP32. -/
def fp32 : FloatFmt := ⟨8, 23, 127, 2⟩
/-- BF16. -/
def bf16 : FloatFmt := ⟨8, 7, 127, 2⟩
/-- FP8 E4M3. -/
def e4m3 : FloatFmt := ⟨4, 3, 7, 1⟩
/-- FP8 E5M2. -/
def e5m2 : FloatFmt := ⟨5, 2, 15, 2⟩
/-- E2M3. -/
def e2m3 : FloatFmt := ⟨2, 3, 1, 0⟩
/-- E3M2. -/
def e3m2 : FloatFmt := ⟨3, 2, 3, 0⟩
/-- E2M1. -/
def e2m1 : FloatFmt := ⟨2, 1, 1, 0⟩

/-- Bits of an element of a format code (R130). -/
def fmtBits (code : Nat) : Nat := [32, 16, 8, 8, 8, 8, 6, 6, 4, 8, 4, 32].getD code 8

/-- The element format of a floating-point code (R130). -/
def fmtFloat (code : Nat) : FloatFmt := [fp32, bf16, e4m3, e5m2, e4m3, e5m2, e2m3, e3m2, e2m1].getD code fp32

/-- Is the code an MX format (R131)? -/
def fmtMx (code : Nat) : Bool := decide (4 ≤ code) && decide (code ≤ 8)

/-- Is the code an integer format (R130)? -/
def fmtInt (code : Nat) : Bool := decide (9 ≤ code) && decide (code ≤ 11)

/-- The value of a floating-point code. -/
def decodeFloat (f : FloatFmt) (bits : Nat) : FpVal :=
  let neg := bits.testBit (f.eb + f.mb)
  let ex := bits / 2 ^ f.mb % 2 ^ f.eb
  let man := bits % 2 ^ f.mb
  if f.special = 2 ∧ ex = 2 ^ f.eb - 1 then (if man = 0 then .inf neg else .nan)
  else if f.special = 1 ∧ ex = 2 ^ f.eb - 1 ∧ man = 2 ^ f.mb - 1 then .nan
  else if ex = 0 then .fin neg man (1 - (f.bias : Int) - f.mb)
  else .fin neg (man + 2 ^ f.mb) ((ex : Int) - f.bias - f.mb)

/-- The value of an integer code of `w` bits, two's complement. -/
def decodeInt (w bits : Nat) : FpVal :=
  if bits % 2 ^ w < 2 ^ (w - 1) then .fin false (bits % 2 ^ w) 0 else .fin true (2 ^ w - bits % 2 ^ w) 0

/-- The value of an element code of a format, its block scale apart. -/
def decodeElem (code bits : Nat) : FpVal := if fmtInt code then decodeInt (fmtBits code) bits else decodeFloat (fmtFloat code) bits

/-- A value under an E8M0 block scale; 0xFF makes it NaN (R131). -/
def scaleBy (c : Nat) : FpVal → FpVal
  | .nan => .nan
  | .inf s => if c = 0xFF then .nan else .inf s
  | .fin s m e => if c = 0xFF then .nan else .fin s m (e + c - 127)

/-- The exact product (R133): NaN for a NaN and for 0 × ∞. -/
def FpVal.mul : FpVal → FpVal → FpVal
  | .nan, _ => .nan
  | _, .nan => .nan
  | .inf s, .inf t => .inf (s != t)
  | .inf s, .fin t m _ => if m = 0 then .nan else .inf (s != t)
  | .fin t m _, .inf s => if m = 0 then .nan else .inf (s != t)
  | .fin s m e, .fin t n f => .fin (s != t) (m * n) (e + f)

/-- The negated value. -/
def FpVal.neg : FpVal → FpVal
  | .nan => .nan
  | .inf s => .inf (!s)
  | .fin s m e => .fin (!s) m e

/-- The exact sum of two values: NaN for ∞ + (−∞); a zero sum is −0 only of two negatives. -/
def FpVal.add : FpVal → FpVal → FpVal
  | .nan, _ => .nan
  | _, .nan => .nan
  | .inf s, .inf t => if s = t then .inf s else .nan
  | .inf s, .fin _ _ _ => .inf s
  | .fin _ _ _, .inf s => .inf s
  | .fin s m e, .fin t n f =>
    let g := min e f
    let a : Int := (if s then -1 else 1) * (m * 2 ^ (e - g).toNat : Nat)
    let b : Int := (if t then -1 else 1) * (n * 2 ^ (f - g).toNat : Nat)
    if a + b = 0 then .fin (s && t) 0 g else .fin (decide (a + b < 0)) (a + b).natAbs g

/-- The exact sum of a list. -/
def sumExact : List FpVal → FpVal
  | [] => FpVal.zero
  | [x] => x
  | x :: xs => FpVal.add x (sumExact xs)

/-- Half-even rounding of m / 2^k. -/
def rne (m k : Nat) : Nat :=
  let q := m / 2 ^ k
  let r := m % 2 ^ k
  if k = 0 then m
  else if r * 2 > 2 ^ k ∨ (r * 2 = 2 ^ k ∧ q % 2 = 1) then q + 1 else q

/-- The exponent of the last place of a format at the magnitude m × 2^e, m not zero. -/
def ulpExp (f : FloatFmt) (m : Nat) (e : Int) : Int := max ((Nat.log2 m : Int) + e - f.mb) (1 - (f.bias : Int) - f.mb)

/-- A magnitude rounded into a format, to nearest even: mantissa and exponent of the last place. -/
def roundMag (f : FloatFmt) (m : Nat) (e : Int) : Nat × Int :=
  if m = 0 then (0, 1 - (f.bias : Int) - f.mb)
  else
    let q := ulpExp f m e
    let r := if e ≥ q then m * 2 ^ (e - q).toNat else rne m (q - e).toNat
    if r = 2 ^ (f.mb + 1) then (2 ^ f.mb, q + 1) else (r, q)

/-- A magnitude after stochastic rounding with the 16-bit value `r` (R136): |x| + r × u / 65,536, truncated. -/
def roundStoch (f : FloatFmt) (r m : Nat) (e : Int) : Nat × Int :=
  if m = 0 then (0, 1 - (f.bias : Int) - f.mb)
  else
    let q := ulpExp f m e
    let x := if e ≥ q then (m * 2 ^ (e - q).toNat * 65536 + r) / 65536
      else (m * 65536 + r * 2 ^ (q - e).toNat) / (65536 * 2 ^ (q - e).toNat)
    if x = 2 ^ (f.mb + 1) then (2 ^ f.mb, q + 1) else (x, q)

/-- The largest finite code of a format, sign apart. -/
def maxCode (f : FloatFmt) : Nat :=
  if f.special = 2 then (2 ^ f.eb - 1) * 2 ^ f.mb - 1 else if f.special = 1 then 2 ^ (f.eb + f.mb) - 2 else 2 ^ (f.eb + f.mb) - 1

/-- The code of a rounded magnitude, which may lie beyond the largest finite one. -/
def magCode (f : FloatFmt) (r : Nat × Int) : Nat :=
  if r.1 < 2 ^ f.mb then r.1 else ((r.2 + f.bias + f.mb).toNat) * 2 ^ f.mb + (r.1 - 2 ^ f.mb)

/-- The sign bit in place. -/
def signCode (f : FloatFmt) (neg : Bool) : Nat := if neg then 2 ^ (f.eb + f.mb) else 0

/-- The NaN code of a format that has one. -/
def nanCode (f : FloatFmt) : Nat := if f.special = 2 then (2 ^ f.eb - 1) * 2 ^ f.mb + 2 ^ (f.mb - 1) else 2 ^ (f.eb + f.mb) - 1

/-- The infinity code of an IEEE format. -/
def infCode (f : FloatFmt) : Nat := (2 ^ f.eb - 1) * 2 ^ f.mb

/-- FP32 bits of a value, rounded once to nearest even; overflow gives ±∞ (R133). -/
def toFp32 : FpVal → Nat
  | .nan => nanCode fp32
  | .inf s => signCode fp32 s + infCode fp32
  | .fin s m e =>
    let c := magCode fp32 (roundMag fp32 m e)
    signCode fp32 s + (if c > maxCode fp32 then infCode fp32 else c)

/-- A value rounded to FP32. -/
def roundFp32 (x : FpVal) : FpVal := decodeFloat fp32 (toFp32 x)

/-- Conversion of an FP32 value to a floating-point format (R134, R136): `sat` saturates FP8 overflow, `sr` is the
16-bit value of stochastic rounding. -/
def toFloat (f : FloatFmt) (sat : Bool) (sr : Option Nat) (x : FpVal) : Nat × NumFlags :=
  let big (s : Bool) : Nat :=
    signCode f s + (if f.eb = 8 then infCode f else if sat then maxCode f else if f.special = 2 then infCode f else nanCode f)
  let tooBig : NumFlags := { NumFlags.none_ with overflow := true, nanOut := f.special == 1 && !sat }
  match x with
  | .nan => (nanCode f, { NumFlags.none_ with nanOut := true })
  | .inf s => if f.special = 2 then (signCode f s + infCode f, NumFlags.none_) else (big s, tooBig)
  | .fin s m e =>
    let c := magCode f (match sr with | some r => roundStoch f r m e | none => roundMag f m e)
    if c > maxCode f then (big s, tooBig) else (signCode f s + c, NumFlags.none_)

/-- Conversion to an integer format of `w` bits: nearest even, saturating; NaN gives 0 (R134). -/
def toInt (w : Nat) (x : FpVal) : Nat × NumFlags :=
  let top := 2 ^ (w - 1)
  match x with
  | .nan => (0, { NumFlags.none_ with nanOut := true })
  | .inf s => (if s then top else top - 1, { NumFlags.none_ with overflow := true })
  | .fin s m e =>
    let v := if e ≥ 0 then m * 2 ^ e.toNat else rne m (-e).toNat
    if s then (if v > top then (top, { NumFlags.none_ with overflow := true }) else ((2 ^ w - v) % 2 ^ w, NumFlags.none_))
    else if v ≥ top then (top - 1, { NumFlags.none_ with overflow := true }) else (v, NumFlags.none_)

/-- A larger magnitude? -/
def magLt : FpVal → FpVal → Bool
  | .fin _ m e, .fin _ n f => decide (m * 2 ^ (e - min e f).toNat < n * 2 ^ (f - min e f).toNat)
  | .fin _ _ _, .inf _ => true
  | _, _ => false

/-- The value of greatest magnitude of a list. -/
def maxMag (xs : List FpVal) : FpVal := xs.foldl (fun a x => if magLt a x then x else a) FpVal.zero

/-- emax of an element format (R135). -/
def emaxOf (f : FloatFmt) : Nat := if f.eb = 4 then 8 else if f.eb = 5 then 15 else if f.eb = 3 then 4 else 2

/-- ⌊log2⌋ of a finite non-zero magnitude. -/
def log2Of : FpVal → Int
  | .fin _ m e => (Nat.log2 m : Int) + e
  | _ => 0

/-- Is the value NaN, or an infinity that the format lacks? -/
def unquantisable (f : FloatFmt) : FpVal → Bool
  | .nan => true
  | .inf _ => f.special != 2
  | .fin _ _ _ => false

/-- An element of a block: x × 2^−e rounded to nearest even and clamped to the largest finite element (R135). -/
def quantElem (f : FloatFmt) (e : Int) : FpVal → Nat
  | .nan => 0
  | .inf s => signCode f s + infCode f
  | .fin s m k => signCode f s + min (magCode f (roundMag f m (k - e))) (maxCode f)

/-- A block of FP32 values in an MX or KV format: scale code and element codes (R135). -/
def quantBlock (f : FloatFmt) (xs : List FpVal) : Nat × List Nat × NumFlags :=
  if xs.any (unquantisable f) then (0xFF, xs.map (fun _ => 0), { NumFlags.none_ with nanOut := true })
  else
    match maxMag xs with
    | .fin _ 0 _ => (0, xs.map (fun _ => 0), NumFlags.none_)
    | .inf _ => (254, xs.map (quantElem f 127), NumFlags.none_)
    | a =>
      let e := max (-127) (min 127 (log2Of a - emaxOf f))
      ((e + 127).toNat, xs.map (quantElem f e), NumFlags.none_)

/-- mix of R251. [DESIGN CHOICE: log entry 47] -/
def mix64 (z : Nat) : Nat :=
  let z := wrap 64 ((z ^^^ (z / 2 ^ 30)) * 0xBF58476D1CE4E5B9)
  let z := wrap 64 ((z ^^^ (z / 2 ^ 27)) * 0x94D049BB133111EB)
  z ^^^ (z / 2 ^ 31)

/-- The counter-based generator (R251). [DESIGN CHOICE: log entry 47] -/
def gen64 (key counter : Nat) : Nat := mix64 (mix64 (wrap 64 (counter + key * 0x9E3779B97F4A7C15)) ^^^ key)

/-- The uniform value of a draw (R251): (2 × z[63:41] + 1) × 2^−24. [DESIGN CHOICE: log entry 47] -/
def drawU (key counter : Nat) : FpVal := .fin false (2 * (gen64 key counter / 2 ^ 41) + 1) (-24)

/-- Order of two values that are not NaN; −0 equals +0 (R242). -/
def FpVal.lt : FpVal → FpVal → Bool
  | .inf s, .inf t => s && !t
  | .inf s, .fin _ _ _ => s
  | .fin _ _ _, .inf t => !t
  | .fin s m e, .fin t n f =>
    let g := min e f
    let a : Int := (if s then -1 else 1) * (m * 2 ^ (e - g).toNat : Nat)
    let b : Int := (if t then -1 else 1) * (n * 2 ^ (f - g).toNat : Nat)
    decide (a < b)
  | _, _ => false

/-! ### Functions that the spec bounds (R151, R143) -/

/-- Fraction bits of the fixed-point values from which bounded functions are taken. -/
def fixBits : Nat := 512

/-- e^x for x = f / 2^512 below 1, in fixed point: 100 terms of the series. -/
def expSeries (f : Nat) : Nat :=
  ((List.range 100).foldl (fun (a : Nat × Nat) k => let t := a.2 * f / 2 ^ fixBits / (k + 1); (a.1 + t, t)) (2 ^ fixBits, 2 ^ fixBits)).1

/-- e^x for x = n / 2^512, in fixed point. -/
def expFix (n : Nat) : Nat :=
  (List.range (n / 2 ^ fixBits)).foldl (fun a _ => a * expSeries (2 ^ fixBits) / 2 ^ fixBits) (expSeries (n % 2 ^ fixBits))

/-- m × 2^e in fixed point. -/
def toFix (m : Nat) (e : Int) : Nat := if 0 ≤ e + fixBits then m * 2 ^ (e + fixBits).toNat else m / 2 ^ (-(e + fixBits)).toNat

/-- e^x to far more places than FP32 has; beyond 256 a magnitude no FP32 value comes near. -/
def expTrue (s : Bool) (m : Nat) (e : Int) : FpVal :=
  let n := toFix m e
  if 256 * 2 ^ fixBits ≤ n then .fin false 1 (if s then -400 else 400)
  else if s then .fin false (2 ^ (2 * fixBits) / expFix n) (-(fixBits : Int))
  else .fin false (expFix n) (-(fixBits : Int))

/-- 2 artanh of t / 2^512, t at most a third, in fixed point. -/
def artanhFix (t : Nat) : Nat :=
  2 * ((List.range 110).foldl (fun (a : Nat × Nat) k => (a.1 + a.2 / (2 * k + 1), a.2 * t / 2 ^ fixBits * t / 2 ^ fixBits)) (0, t)).1

/-- ln of m × 2^e, m not zero, to far more places than FP32 has. -/
def lnTrue (m : Nat) (e : Int) : FpVal :=
  let k := Nat.log2 m
  let n : Int := (artanhFix ((m - 2 ^ k) * 2 ^ fixBits / (m + 2 ^ k)) : Nat) + ((k : Int) + e) * (artanhFix (2 ^ fixBits / 3) : Nat)
  .fin (decide (n < 0)) n.natAbs (-(fixBits : Int))

/-- x / y of two finite values, y not zero, to far more places than FP32 has. -/
def quotTrue : FpVal → FpVal → FpVal
  | .fin s m e, .fin t n f => let k := fixBits + Nat.log2 n; .fin (s != t) (m * 2 ^ k / n) (e - f - k)
  | _, _ => .nan

/-- The integer square root by its bits, from bit `k` − 1 down. -/
def isqrt (n : Nat) : Nat → Nat → Nat
  | 0, r => r
  | k + 1, r => isqrt n k (if (r + 2 ^ k) * (r + 2 ^ k) ≤ n then r + 2 ^ k else r)

/-- The square root of m × 2^e, to far more places than FP32 has. -/
def sqrtTrue (m : Nat) (e : Int) : FpVal :=
  let n := m * 2 ^ (fixBits + (e % 2).toNat)
  .fin false (isqrt n (Nat.log2 n / 2 + 1) 0) ((e - e % 2 - fixBits) / 2)

/-- The value of an FP32 magnitude code, going on past the largest finite one. -/
def magVal (c : Nat) : FpVal := if c < 2 ^ 23 then .fin false c (-149) else .fin false (c % 2 ^ 23 + 2 ^ 23) ((c / 2 ^ 23 : Nat) - 150)

/-- An FP32 value within 2 ulp of a value: which one is `pick`'s, a free value's. [DESIGN CHOICE: log entry 110] -/
def within2 (pick : Nat) : FpVal → FpVal
  | .fin s m e =>
    if m = 0 then .fin s m e
    else
      let c := magCode fp32 (roundMag fp32 m e)
      let c' := if c + pick % 5 < 2 then c else c + pick % 5 - 2
      let far := magLt (.fin false 1 (ulpExp fp32 m e + 1)) (FpVal.add (magVal c') (.fin true m e))
      decodeFloat fp32 (signCode fp32 s + min (if far then c else c') (infCode fp32))
  | v => v

/-- exp of an FP32 value, within 2 ulp of the exact result (R151, R245); exp of 0 is 1, as in the worked example of R245. [DEDUCED: log entry 110] -/
def expOf (x : FpVal) : FpVal :=
  match x with
  | .nan => .nan
  | .inf true => FpVal.zero
  | .inf false => .inf false
  | .fin s m e => if m = 0 then .fin false 1 0 else within2 (Config.mathFn 1 (toFp32 x)) (expTrue s m e)

/-- The reciprocal of an FP32 value, within 2 ulp (R151). [DESIGN CHOICE: log entry 110] -/
def recipOf (x : FpVal) : FpVal :=
  match x with
  | .nan => .nan
  | .inf s => .fin s 0 0
  | .fin s m e => if m = 0 then .inf s else within2 (Config.mathFn 2 (toFp32 x)) (quotTrue (.fin false 1 0) (.fin s m e))

/-- The natural logarithm, within 2 ulp (R151). [DESIGN CHOICE: log entry 110] -/
def lnOf (x : FpVal) : FpVal :=
  match x with
  | .nan => .nan
  | .inf s => if s then .nan else .inf false
  | .fin s m e => if m = 0 then .inf true else if s then .nan else within2 (Config.mathFn 3 (toFp32 x)) (lnTrue m e)

/-- x × 1 / (1 + e^(−y)) for finite values, to far more places than FP32 has. -/
def gateTrue (x y : FpVal) : FpVal :=
  match y with
  | .fin s m e => quotTrue x (FpVal.add (.fin false 1 0) (expTrue (!s) m e))
  | _ => .nan

/-- SiLU, x / (1 + e^(−x)), and its limits (R143). The spec gives no bound: 2 ulp, as R151's functions have. [DESIGN CHOICE: log entry 110] -/
def siluOf (x : FpVal) : FpVal :=
  match x with
  | .nan => .nan
  | .inf s => if s then .fin true 0 0 else .inf false
  | .fin _ _ _ => within2 (Config.mathFn 5 (toFp32 x)) (gateTrue x x)

/-- √(2/π) to 200 places. -/
def sqrt2pi : FpVal := .fin false 1282151055680999866826009247359661344393248438342903040684416 (-200)

/-- 0.044715 to 200 places. -/
def geluCoeff : FpVal := .fin false (44715 * 2 ^ 200 / 1000000) (-200)

/-- GELU in its tanh form, x/2 × (1 + tanh(√(2/π) (x + 0.044715 x³))), and its limits (R143). The spec gives no bound: 2 ulp, as R151's
functions have. [DESIGN CHOICE: log entry 110] -/
def geluOf (x : FpVal) : FpVal :=
  match x with
  | .nan => .nan
  | .inf s => if s then .fin true 0 0 else .inf false
  | .fin _ _ _ =>
    let u := FpVal.mul sqrt2pi (FpVal.add x (FpVal.mul geluCoeff (FpVal.mul x (FpVal.mul x x))))
    within2 (Config.mathFn 4 (toFp32 x)) (gateTrue x (FpVal.mul (.fin false 2 0) u))

end Sys2Proof.Machine
end

