-- ==== Sys2Proof/Machine/Operands.lean ====
section
/-!
DEFINITION. Machine/Operands.lean: operand descriptors: the check of R140, addresses, the elements of an operand with their
packing and block scales, and writing an output row (R131, R132, R134, R135, R139, R140, R193).
-/
namespace Sys2Proof.Machine

/-- Where a command runs: Sector, physical core, image core, its Sector's host of each image core and shadowed image
cores (R190, R193), the Sector's bytes of tier-0 staging and of tier 1, stochastic rounding allowed (R136), its STEP region with
the half in use (R165, R173), and whether the command stands in the refine list (R175). -/
structure EngCtx where
  sector : Nat
  core : Nat
  img : Nat
  hosts : List Nat
  shadow : List Nat
  cores : Nat
  bytes0 : Nat
  bytesDie1 : Nat
  bytes1 : Nat
  srAllow : Bool
  stepBase : Nat
  stepSize : Nat
  stepHalf : Nat
  refine : Bool

/-- Flat address of a byte of an image core's tier-1 shadow (R193). -/
def shadowAddr (sector img off : Nat) : Nat := 2 ^ 61 + (sector * 32 + img) * 2 ^ 24 + off

/-- Flat address of a byte of an image core's SRAM: its host's, or its shadow. -/
def EngCtx.sram (x : EngCtx) (img off : Nat) : Nat :=
  if x.shadow.contains img then shadowAddr x.sector img off else coreAddr (x.hosts.getD img x.core) off

/-- Flat address of a fall-back address of the Sector (R60). -/
def fbAddr (sector a : Nat) : Nat := tierAddr (a / 2 ^ 62 - 1) sector (a % 2 ^ 48)

/-- Flat address of an operand's first byte (R139). -/
def EngCtx.base (x : EngCtx) (o : Operand) : Nat :=
  match o.space with
  | 0 => x.sram x.img o.address
  | 1 => tierAddr 0 x.sector o.address
  | 2 => tierAddr 1 x.sector o.address
  | 3 => x.sram (o.address / 2 ^ 24) (o.address % 2 ^ 24)
  | _ => 0

/-- Flat address of a step table: an operand in the first half of its image core's STEP region stands for the half of the step (R165,
R173). [DEDUCED: log entry 111] -/
def EngCtx.table (x : EngCtx) (o : Operand) : Nat :=
  if o.space = 0 ∧ x.stepBase ≤ o.address ∧ o.address < x.stepBase + x.stepSize / 2 then x.base o + x.stepHalf * (x.stepSize / 2) else x.base o

/-- Flat address of entry `n` of a step table: its rows are row_stride bytes apart (R139). -/
def EngCtx.entry (x : EngCtx) (o : Operand) (n : Nat) : Nat := x.table o + n * o.rowStride

/-- Bytes of one row of an operand. -/
def rowBytes (o : Operand) : Nat := ceilDiv (o.cols * fmtBits o.format) 8

/-- The end of an operand's scale region, from its address: a row of scales for each row, or, where the rows are the reduction dimension
(`down`), for each 32 rows (R131, R140). -/
def scaleEnd (down : Bool) (o : Operand) : Nat :=
  if !fmtMx o.format then 0
  else if down then o.scaleOffset + (ceilDiv o.rows 32 - 1) * o.scaleStride + o.cols
  else o.scaleOffset + (o.rows - 1) * o.scaleStride + ceilDiv o.cols 32

/-- The end of an operand's extent, scale region included, from its address (R140). -/
def extentEnd (down : Bool) (o : Operand) : Nat := max ((o.rows - 1) * o.rowStride + rowBytes o) (scaleEnd down o)

/-- One used operand lies inside its space (R140); an unused one has space 0xF. -/
def EngCtx.operandOk (x : EngCtx) (down : Bool) (o : Operand) : Bool :=
  let n := extentEnd down o
  match o.space with
  | 0 => decide (o.address + n ≤ 0x1000000)
  | 1 => decide (o.address + n ≤ x.bytes0) || (decide (0x1000000 ≤ o.address) && decide (o.address + n ≤ 0x1000000 + x.bytesDie1))
  | 2 => decide (o.address + n ≤ x.bytes1)
  | 3 => decide (o.address % 2 ^ 24 + n ≤ 0x1000000) && x.cores.testBit (x.hosts.getD (o.address / 2 ^ 24) 99)
  | 15 => true
  | _ => false

/-- Is operand B a K × N matrix of the opcode (R142)? -/
def downB (opcode : Nat) : Bool := decide (opcode ≤ 3)

/-- Every operand passes the check of R140; D's extent is that of the output format. -/
def EngCtx.operandsOk (x : EngCtx) (c : EngCmd) : Bool :=
  x.operandOk false c.a && x.operandOk (downB c.opcode) c.b && x.operandOk (c.opcode == 2) c.c && x.operandOk false { c.d with format := c.outFormat }

/-- `w` bits at bit `off` of the bytes from `a`, little-endian (R132). -/
def readBits (mem : List Host.Cell) (a off w : Nat) : Nat :=
  leNat (Mem.reads (a + off / 8) (ceilDiv (off % 8 + w) 8) mem) / 2 ^ (off % 8) % 2 ^ w

/-- The code of element (r, c). -/
def EngCtx.code (x : EngCtx) (mem : List Host.Cell) (o : Operand) (r c : Nat) : Nat :=
  readBits mem (x.base o + r * o.rowStride) (c * fmtBits o.format) (fmtBits o.format)

/-- The value of element (r, c): blocks of 32 run along the row, or, where the rows are the reduction dimension (`down`),
down the column, with one row of scales for each 32 rows (R131). -/
def EngCtx.elem (x : EngCtx) (mem : List Host.Cell) (down : Bool) (o : Operand) (r c : Nat) : FpVal :=
  let v := decodeElem o.format (x.code mem o r c)
  if fmtMx o.format then
    let at_ := if down then r / 32 * o.scaleStride + c else r * o.scaleStride + c / 32
    scaleBy (Mem.read (x.base o + o.scaleOffset + at_) mem).toNat v
  else v

/-- Row `r` of an operand. -/
def EngCtx.row (x : EngCtx) (mem : List Host.Cell) (o : Operand) (r : Nat) : List FpVal :=
  (List.range o.cols).map (fun c => x.elem mem false o r c)

/-- Codes of `w` bits packed into bytes, little-endian; a row ends on a byte boundary (R132). -/
def packCodes (w : Nat) (cs : List Nat) : List Byte :=
  leBytes (ceilDiv (cs.length * w) 8) (cs.foldr (fun c n => c + 2 ^ w * n) 0)

/-- A list in pieces of `n`; `fuel` bounds them. -/
def pieces {α : Type} (n : Nat) : Nat → List α → List (List α)
  | 0, _ => []
  | fuel + 1, xs => if xs.isEmpty then [] else xs.take n :: pieces n fuel (xs.drop n)

/-- The stochastic-rounding value of output element `i` (R136, R251). -/
def srValue (allow : Bool) (c : EngCmd) (i : Nat) : Option Nat :=
  if allow && c.sr then some (gen64 c.param1 (c.operatorId * 2 ^ 48 + i) / 2 ^ 48) else none

/-- Output codes, block scales and flags of one row of FP32 values in the command's output format (R134, R135); `i` is the
linear index of the row's first element. -/
def outRow (allow : Bool) (c : EngCmd) (i : Nat) (vs : List FpVal) : List Nat × List Nat × NumFlags :=
  if fmtMx c.outFormat then
    let bs := (pieces 32 vs.length vs).map (quantBlock (fmtFloat c.outFormat))
    (bs.flatMap (·.2.1), bs.map (·.1), bs.foldl (fun f b => f.or b.2.2) NumFlags.none_)
  else
    let one (p : Nat × FpVal) : Nat × NumFlags :=
      if fmtInt c.outFormat then toInt (fmtBits c.outFormat) p.2
      else if c.outFormat = 0 then (toFp32 p.2, { NumFlags.none_ with nanOut := p.2 == .nan })
      else toFloat (fmtFloat c.outFormat) c.sat (srValue allow c p.1) p.2
    let rs := ((List.range vs.length).zip vs).map (fun p => one (i + p.1, p.2))
    (rs.map (·.1), [], rs.foldl (fun f b => f.or b.2) NumFlags.none_)

/-- Write row `r` of the destination. -/
def EngCtx.writeRow (x : EngCtx) (c : EngCmd) (r : Nat) (vs : List FpVal) (mem : List Host.Cell) : List Host.Cell × NumFlags :=
  let o := outRow x.srAllow c (r * vs.length) vs
  let mem := Mem.writes (x.base c.d + r * c.d.rowStride) (packCodes (fmtBits c.outFormat) o.1) mem
  let mem := if o.2.1.isEmpty then mem
    else Mem.writes (x.base c.d + c.d.scaleOffset + r * c.d.scaleStride) (o.2.1.map (BitVec.ofNat 8)) mem
  (mem, o.2.2)

/-- Write rows one after the other. -/
def EngCtx.writeRows (x : EngCtx) (c : EngCmd) (f : List Host.Cell → Nat → List FpVal) : List Nat → List Host.Cell × NumFlags → List Host.Cell × NumFlags
  | [], s => s
  | r :: rs, s =>
    let w := x.writeRow c r (f s.1 r) s.1
    EngCtx.writeRows x c f rs (w.1, s.2.or w.2)

end Sys2Proof.Machine
end

