-- ==== Sys2Proof/Machine/Arithmetic.lean ====
section
/-!
DEFINITION. Machine/Arithmetic.lean: what the matrix, row and element commands of an engine compute (R133, R142, R143,
R196, R57).
-/
namespace Sys2Proof.Machine

/-- FP32 from the spec's field. -/
def fieldFp (bits : Nat) : FpVal := decodeFloat fp32 bits

/-- Products summed along K: groups exact, each rounded once to FP32 as it is added, in ascending K (R133). [DESIGN CHOICE: log entry 30] -/
def dotFloat (group : Nat) (ps : List FpVal) : FpVal :=
  (pieces group ps.length ps).foldl (fun acc g => roundFp32 (FpVal.add acc (sumExact g))) FpVal.zero

/-- Saturation of the INT32 accumulator (R133). -/
def satInt32 (v : Int) : Int × Bool := if v > 2 ^ 31 - 1 then (2 ^ 31 - 1, true) else if v < -(2 ^ 31) then (-(2 ^ 31), true) else (v, false)

/-- An integer value. -/
def FpVal.int : FpVal → Int
  | .fin s m e => (if s then -1 else 1) * (m * 2 ^ e.toNat : Nat)
  | _ => 0

/-- An integer as a value. -/
def ofInt (v : Int) : FpVal := .fin (decide (v < 0)) v.natAbs 0

/-- Integer products summed along K in INT32, saturating (R133). [DESIGN CHOICE: log entry 30] -/
def dotInt (ps : List FpVal) : FpVal × Bool :=
  let r := (pieces 32 ps.length ps).foldl (fun (acc : Int × Bool) g =>
    let s := satInt32 (acc.1 + (g.map FpVal.int).sum)
    (s.1, acc.2 || s.2)) (0, false)
  (ofInt r.1, r.2)

/-- K indices in a group: 8 where an operand is BF16, else 32 (R133). -/
def groupOf (a b : Nat) : Nat := if a = 1 ∨ b = 1 then 8 else 32

/-- Row `i` of A times column `j` of B, in the accumulator (R129, R133). -/
def EngCtx.dot (x : EngCtx) (mem : List Host.Cell) (a b : Operand) (i j : Nat) : FpVal × Bool :=
  let ps := (List.range a.cols).map (fun k => FpVal.mul (x.elem mem false a i k) (x.elem mem true b k j))
  if fmtInt a.format then dotInt ps else (dotFloat (groupOf a.format b.format) ps, false)

/-- The product under alpha: FP32, but an integer under alpha = 1 stays exact. -/
def underAlpha (alpha : Nat) (v : FpVal) : FpVal := if alpha = 0x3F800000 then v else roundFp32 (FpVal.mul (fieldFp alpha) v)

/-- The epilogue (R143). C is a matrix or a broadcast row; in GEMM_GATHER, where C is the index list, codes 1 and 4 have
no stated value. [DESIGN CHOICE: log entry 31] -/
def EngCtx.epilogue (x : EngCtx) (mem : List Host.Cell) (c : EngCmd) (i j : Nat) (v : FpVal) : FpVal :=
  match c.epilogue with
  | 0 => v
  | 1 => if c.opcode = 3 then fieldFp (Config.unstated 1 [toFp32 v, i, j])
         else roundFp32 (FpVal.add v (x.elem mem false c.c (if c.c.rows = 1 then 0 else i) j))
  | 2 => geluOf v
  | 3 => siluOf v
  | 4 => if c.opcode = 3 then fieldFp (Config.unstated 1 [toFp32 v, i, j]) else roundFp32 (FpVal.mul v (x.elem mem false c.c 0 j))
  | _ => fieldFp (Config.unstated 2 [c.epilogue, toFp32 v, i, j])

/-- D's existing contents are added after the epilogue when flags.acc is set (R143). -/
def EngCtx.accumulate (x : EngCtx) (mem : List Host.Cell) (c : EngCmd) (i j : Nat) (v : FpVal) : FpVal :=
  if c.acc then roundFp32 (FpVal.add v (x.elem mem false { c.d with format := c.outFormat } i j)) else v

/-- Did any integer accumulator of the product saturate? -/
def EngCtx.anySat (x : EngCtx) (mem : List Host.Cell) (a b : Operand) : Bool :=
  fmtInt a.format && (List.range a.rows).any (fun i => (List.range b.cols).any (fun j => (x.dot mem a b i j).2))

/-- GEMM: D = epi(alpha × A·B) (R142). -/
def EngCtx.gemm (x : EngCtx) (c : EngCmd) (mem : List Host.Cell) : List Host.Cell × NumFlags :=
  x.writeRows c (fun m i => (List.range c.b.cols).map (fun j =>
      x.accumulate m c i j (x.epilogue mem c i j (underAlpha c.alpha (x.dot mem c.a c.b i j).1))))
    (List.range c.a.rows) (mem, { NumFlags.none_ with intSat := x.anySat mem c.a c.b })

/-- GEMM_GATED: D = silu(alpha × A·B) ∘ (alpha × A·C) (R142). -/
def EngCtx.gemmGated (x : EngCtx) (c : EngCmd) (mem : List Host.Cell) : List Host.Cell × NumFlags :=
  x.writeRows c (fun m i => (List.range c.b.cols).map (fun j =>
      x.accumulate m c i j (roundFp32 (FpVal.mul (siluOf (underAlpha c.alpha (x.dot mem c.a c.b i j).1)) (underAlpha c.alpha (x.dot mem c.a c.c i j).1)))))
    (List.range c.a.rows) (mem, { NumFlags.none_ with intSat := x.anySat mem c.a c.b || x.anySat mem c.a c.c })

/-- One entry of an index list: source row, destination row, FP32 weight (R142); entries are row_stride bytes apart (R139). -/
def EngCtx.gatherEntry (x : EngCtx) (mem : List Host.Cell) (c : EngCmd) (n : Nat) : Nat × Nat × FpVal :=
  let w (k : Nat) : Nat := leNat (Mem.reads (x.base c.c + n * c.c.rowStride + 4 * k) 4 mem)
  (w 0, w 1, fieldFp (w 2))

/-- GEMM_GATHER: D[dst] += weight × epi(alpha × A[src]·B), entry by entry (R142). It adds to D's contents in any case, so flags.acc asks
for nothing more. [DEDUCED: log entry 31] -/
def EngCtx.gemmGather (x : EngCtx) (c : EngCmd) (mem : List Host.Cell) : List Host.Cell × NumFlags :=
  (List.range c.param0).foldl (fun s n =>
    let e := x.gatherEntry mem c n
    let vs := (List.range c.b.cols).map (fun j =>
      let v := x.epilogue mem c e.1 j (underAlpha c.alpha (x.dot mem c.a c.b e.1 j).1)
      roundFp32 (FpVal.add (x.elem s.1 false { c.d with format := c.outFormat } e.2.1 j) (roundFp32 (FpVal.mul e.2.2 v))))
    let w := x.writeRow c e.2.1 vs s.1
    (w.1, (s.2.or w.2).or { NumFlags.none_ with intSat := fmtInt c.a.format && (List.range c.b.cols).any (fun j => (x.dot mem c.a c.b e.1 j).2) }))
    (mem, NumFlags.none_)

/-- a / sqrt(mean(A²) + beta) × b, a the row's element `j` (R142). The spec gives no bound: within 2 ulp, as R151's functions are. A root
that is zero or of a negative number has no stated quotient: a free value. [DESIGN CHOICE: log entry 110] -/
def normElem (row : List FpVal) (beta : FpVal) (j : Nat) (b : FpVal) : FpVal :=
  let args := j :: toFp32 b :: toFp32 beta :: row.map toFp32
  let a := row.getD j FpVal.zero
  let s := FpVal.add (quotTrue (sumExact (row.map (fun v => FpVal.mul v v))) (.fin false row.length 0)) beta
  match a, s, b with
  | .fin _ _ _, .fin sg m e, .fin _ _ _ =>
    if sg || m = 0 then fieldFp (Config.unstated 3 args) else within2 (Config.unstated 3 args) (quotTrue (FpVal.mul a b) (sqrtTrue m e))
  | _, _, _ => if row.contains .nan || b = .nan then .nan else fieldFp (Config.unstated 3 args)

/-- DIST_TABLE in an image's list (R142, R313): entry 256j + i of a row of D is centroid i's distance from part j of the query row; B holds the
codebook's rows, C the centroid norms, a row of 256 for each subquantiser. [DEDUCED: log entry 111] -/
def EngCtx.distTable (x : EngCtx) (c : EngCmd) (mem : List Host.Cell) : List Host.Cell × NumFlags :=
  let parts := bitsOf 7 0 c.param0
  let sub := c.a.cols / max 1 parts
  x.writeRows c (fun m i => (List.range (parts * 256)).map (fun k =>
      let dot := dotFloat (groupOf c.a.format c.b.format) ((List.range sub).map (fun r => FpVal.mul (x.elem m false c.a i (k / 256 * sub + r)) (x.elem m true c.b (k / 256 * sub + r) (k % 256))))
      x.accumulate m c i k (if bitsOf 9 8 c.param0 = 0 then roundFp32 (FpVal.add (x.elem m false c.c (k / 256) (k % 256)) (FpVal.neg (FpVal.mul (.fin false 1 1) dot)))
        else FpVal.neg dot)))
    (List.range c.a.rows) (mem, NumFlags.none_)

/-- NORM: D = A / sqrt(mean(A²) + beta) ∘ B, per row (R142). -/
def EngCtx.norm (x : EngCtx) (c : EngCmd) (mem : List Host.Cell) : List Host.Cell × NumFlags :=
  x.writeRows c (fun m i =>
      let r := x.row mem c.a i
      (List.range c.a.cols).map (fun j => x.accumulate m c i j (normElem r (fieldFp c.beta) j (x.elem mem false c.b 0 j))))
    (List.range c.a.rows) (mem, NumFlags.none_)

/-- ROPE: columns 2i and 2i + 1 below param0 rotate by the cosine and sine that the position's table row holds in columns
2i and 2i + 1; the rest are copied (R142). -/
def EngCtx.rope (x : EngCtx) (c : EngCmd) (mem : List Host.Cell) : List Host.Cell × NumFlags :=
  x.writeRows c (fun m r =>
      let pos := leNat (Mem.reads (x.base c.c + r * c.c.rowStride) 4 mem)
      (List.range c.a.cols).map (fun j =>
        let i := j / 2 * 2
        let a0 := x.elem mem false c.a r i
        let a1 := x.elem mem false c.a r (i + 1)
        let cs := x.elem mem false c.b pos i
        let sn := x.elem mem false c.b pos (i + 1)
        x.accumulate m c r j (if j ≥ c.param0 then roundFp32 (x.elem mem false c.a r j)
          else if j % 2 = 0 then roundFp32 (FpVal.add (FpVal.mul a0 cs) (FpVal.neg (FpVal.mul a1 sn)))
          else roundFp32 (FpVal.add (FpVal.mul a0 sn) (FpVal.mul a1 cs)))))
    (List.range c.a.rows) (mem, NumFlags.none_)

/-- The sum of the products of two rows, in the accumulator of their formats (R133). -/
def dotRows (fa fb : Nat) (ps : List FpVal) : FpVal × Bool := if fmtInt fa && fmtInt fb then dotInt ps else (dotFloat (groupOf fa fb) ps, false)

/-- ELEMWISE (R142): 0 copy, 1 sum, 2 product, 3 A + alpha × B, 4 the row sums of products. [DESIGN CHOICE: log entry 31] -/
def EngCtx.elemwise (x : EngCtx) (c : EngCmd) (mem : List Host.Cell) : List Host.Cell × NumFlags :=
  let one (i j : Nat) : FpVal :=
    let a := x.elem mem false c.a i j
    let b := x.elem mem false c.b i j
    match c.param0 with
    | 0 => if fmtInt c.a.format then a else roundFp32 a
    | 1 => roundFp32 (FpVal.add a b)
    | 2 => roundFp32 (FpVal.mul a b)
    | 3 => roundFp32 (FpVal.add a (FpVal.mul (fieldFp c.alpha) b))
    | n => fieldFp (Config.unstated 4 [n, toFp32 a, toFp32 b])
  let sums (i : Nat) : FpVal × Bool :=
    dotRows c.a.format c.b.format ((List.range c.a.cols).map (fun j => FpVal.mul (x.elem mem false c.a i j) (x.elem mem false c.b i j)))
  x.writeRows c (fun m i =>
      if c.param0 = 4 then [x.accumulate m c i 0 (sums i).1]
      else (List.range c.a.cols).map (fun j => x.accumulate m c i j (one i j)))
    (List.range c.a.rows) (mem, { NumFlags.none_ with intSat := c.param0 == 4 && (List.range c.a.rows).any (fun i => (sums i).2) })

/-- RECUR (R196): each batch row's state at the address of its list entry is read and written in place, and its output row
produced; a list entry of 0 names no state, and the row is left out. The spec gives the update no formula: state bytes and outputs are free
functions of input row and state. [DESIGN CHOICE: log entry 30] -/
def EngCtx.recur (x : EngCtx) (c : EngCmd) (size : Nat) (mem : List Host.Cell) : List Host.Cell × NumFlags :=
  (List.range c.a.rows).foldl (fun s r =>
    let addr := leNat (Mem.reads (x.entry c.c r) 8 mem)
    let a := fbAddr x.sector addr
    if addr = 0 then s else
    let arg := (x.row mem c.a r).map toFp32 ++ (Mem.reads a size s.1).map BitVec.toNat
    let w := x.writeRow c r ((List.range c.d.cols).map (fun j => x.accumulate s.1 c r j (fieldFp (Config.unstated 5 (j :: c.param0 :: arg))))) s.1
    (Mem.writes a ((List.range size).map (fun k => BitVec.ofNat 8 (Config.unstated 6 (k :: c.param0 :: arg)))) w.1, s.2.or w.2))
    (mem, NumFlags.none_)

/-- The BF16 value at a flat address. -/
def bf16At (mem : List Host.Cell) (a : Nat) : FpVal := decodeFloat bf16 (leNat (Mem.reads a 2 mem))

/-- ADAPT: D += alpha × (A·Aᵀ_r)·Bᵀ_r, with each batch row's own adapter: A_r (r × in), then B_r (out × r), in BF16 (R57,
R142). A zero address means none. [DEDUCED: log entry 32] -/
def EngCtx.adapt (x : EngCtx) (c : EngCmd) (mem : List Host.Cell) : List Host.Cell × NumFlags :=
  (List.range c.a.rows).foldl (fun s r =>
    let addr := leNat (Mem.reads (x.entry c.c r) 8 mem)
    if addr = 0 then s
    else
      let p := fbAddr x.sector addr
      let row := x.row mem c.a r
      let n := row.length
      let t := (List.range c.param0).map (fun k => dotFloat 8 ((List.range n).map (fun i => FpVal.mul (row.getD i FpVal.zero) (bf16At mem (p + 2 * (k * n + i))))))
      let q := p + 2 * c.param0 * n
      let vs := (List.range c.d.cols).map (fun j =>
        let u := dotFloat 8 ((List.range c.param0).map (fun k => FpVal.mul (t.getD k FpVal.zero) (bf16At mem (q + 2 * (j * c.param0 + k)))))
        roundFp32 (FpVal.add (x.elem s.1 false { c.d with format := c.outFormat } r j) (roundFp32 (FpVal.mul (fieldFp c.alpha) u))))
      let w := x.writeRow c r vs s.1
      (w.1, s.2.or w.2)) (mem, NumFlags.none_)

end Sys2Proof.Machine
end

