-- ==== Sys2Proof/Machine/Attention.lean ====
section
/-!
DEFINITION. Machine/Attention.lean: key-value pages as the attention pipeline reads and appends them, the visibility of keys,
and one query row forward and backward (R50, R51, R145 to R159).
-/
namespace Sys2Proof.Machine

/-! ### Pages (R50, R51) -/

/-- Element format code of a page format: BF16, E4M3, E2M1. -/
def kvElemFmt (format : Nat) : Nat := [1, 2, 8].getD format 1

/-- One row of d values from element bytes and scale bytes. -/
def kvRow (format dim : Nat) (elems scales : List Byte) : List FpVal :=
  (List.range dim).map (fun i =>
    let w := fmtBits (kvElemFmt format)
    let v := decodeFloat (fmtFloat (kvElemFmt format)) (leNat ((elems.drop (i * w / 8)).take (ceilDiv (i * w % 8 + w) 8)) / 2 ^ (i * w % 8) % 2 ^ w)
    if format = 0 then v else scaleBy (scales.getD (i / 32) 0).toNat v)

/-- A key or value row with its 0xFF-scale mark (R154). -/
structure KvRow where
  vals : List FpVal
  bad : Bool

/-- Key row and value row `j` of a page. -/
def pageRow (sector : Nat) (mem : List Host.Cell) (p : Page) (j : Nat) : KvRow × KvRow :=
  let dim := 32 * p.dim32
  let z := kvRowSizes p.format dim
  let r := pageRegions p.format dim p.cap
  let base := tierAddr p.loc.tier sector (4096 * p.loc.unit)
  let get (e s : Nat) : KvRow :=
    let sc := Mem.reads (base + s + j * z.2) z.2 mem
    ⟨kvRow p.format dim (Mem.reads (base + e + j * z.1) z.1 mem) sc, sc.any (fun b => b == 0xFF)⟩
  (get r.1 r.2.1, get r.2.2.1 r.2.2.2)

/-- Key row and value row of a provisional row: key elements, key scales, value elements, value scales (R56). -/
def provRow (format dim : Nat) (bs : List Byte) : KvRow × KvRow :=
  let z := kvRowSizes format dim
  let get (at_ : Nat) : KvRow :=
    let sc := (bs.drop (at_ + z.1)).take z.2
    ⟨kvRow format dim ((bs.drop at_).take z.1) sc, sc.any (fun b => b == 0xFF)⟩
  (get 0, get (z.1 + z.2))

/-- A key of a batch row: committed position, or provisional row number, with its rows. -/
structure Key where
  prov : Bool
  pos : Nat
  k : KvRow
  v : KvRow

/-- The tiles of a page: its first `v` positions in pieces of 256 (R148). -/
def pageTiles (sector : Nat) (mem : List Host.Cell) (p : Page) (v : Nat) : List (List Key) :=
  pieces 256 v ((List.range v).map (fun j =>
    let r := pageRow sector mem p j
    ⟨false, p.first + j, r.1, r.2⟩))

/-- The tile of the first `v` rows of a provisional block of a page format and head dimension (R148). -/
def provTile (format dim v : Nat) (rows : List (List Byte)) : List (List Key) :=
  let rs := rows.take v
  if rs.isEmpty then [] else [((List.range rs.length).zip rs).map (fun e =>
    let r := provRow format dim e.2
    ⟨true, e.1, r.1, r.2⟩)]

/-! ### The row-information table (R145) -/

/-- An entry of the row-information table. -/
structure RowInfo where
  qbase : Nat
  qcount : Nat
  mask : Nat
  present : Bool
  window : Nat
  parents : List Nat
  stats : Nat
  maskAddr : Nat
  delta : Nat
  grad : Nat
  deriving DecidableEq, Repr

/-- Read the entry at a flat address. -/
def readInfo (mem : List Host.Cell) (a : Nat) : RowInfo :=
  let f (o n : Nat) : Nat := leNat (Mem.reads (a + o) n mem)
  { qbase := f 0 4, qcount := f 4 2, mask := f 6 1, present := (f 7 1).testBit 0, window := f 8 4,
    parents := (Mem.reads (a + 0x10) 16 mem).map BitVec.toNat, stats := f 0x20 8, maskAddr := f 0x28 8, delta := f 0x30 8,
    grad := f 0x38 8 }

/-- The bytes of an entry. -/
def infoBytes (r : RowInfo) : List Byte :=
  leBytes 4 r.qbase ++ leBytes 2 r.qcount ++ leBytes 1 r.mask ++ leBytes 1 (b2n r.present) ++ leBytes 4 r.window ++ leBytes 4 0 ++
    (r.parents.map (BitVec.ofNat 8)) ++ leBytes 8 r.stats ++ leBytes 8 r.maskAddr ++ leBytes 8 r.delta ++ leBytes 8 r.grad

/-- Depth of a tree node; `fuel` bounds the walk to the root (R150). -/
def nodeDepth (parents : List Nat) : Nat → Nat → Nat
  | 0, _ => 0
  | fuel + 1, i =>
    let p := parents.getD i 0xFF
    if p = 0xFF then 0 else nodeDepth parents fuel p + 1

/-- Is node `j` node `i` or an ancestor of it? -/
def onPath (parents : List Nat) (j : Nat) : Nat → Nat → Bool
  | 0, i => i == j
  | fuel + 1, i =>
    let p := parents.getD i 0xFF
    i == j || (p != 0xFF && onPath parents j fuel p)

/-- A node whose chain of parents names a parent not below its child is an empty row (R150). -/
def nodeOk (parents : List Nat) (i : Nat) : Bool :=
  let p := parents.getD i 0xFF
  p == 0xFF || decide (p < i)

/-- Is a key visible to new position `i` of the batch row (R149)? Under a reserved mask code, none is. [DESIGN CHOICE: log entry 112] -/
def keyVisible (sector : Nat) (mem : List Host.Cell) (r : RowInfo) (i : Nat) (k : Key) : Bool :=
  let q := r.qbase + i
  let pos := if k.prov then r.qbase + k.pos else k.pos
  match r.mask with
  | 0 => decide (pos ≤ q)
  | 1 => decide (q < pos + r.window) && decide (pos ≤ q)
  | 2 => if k.prov then onPath r.parents k.pos 16 i
         else r.window == 0 || decide (r.qbase + nodeDepth r.parents 16 i < k.pos + r.window)
  | 3 =>
    let stride := ceilDiv (r.qbase + r.qcount) 512 * 64
    (Mem.read (fbAddr sector r.maskAddr + i * stride + pos / 8) mem).toNat.testBit (pos % 8)
  | _ => false

/-! ### One query row forward (R151, R154) -/

/-- Running state of a query row: m, l, o. -/
structure Soft where
  m : FpVal
  l : FpVal
  o : List FpVal

/-- −∞. -/
def negInf : FpVal := .inf true

/-- The greater of two. -/
def maxFp (a b : FpVal) : FpVal := if FpVal.lt a b then b else a

/-- A score: alpha × (q · k), the product summed under R133. -/
def score (alpha group : Nat) (q : List FpVal) (k : Key) : FpVal :=
  roundFp32 (FpVal.mul (fieldFp alpha) (dotFloat group ((q.zip k.k.vals).map (fun p => FpVal.mul p.1 p.2))))

/-- round_p: E4M3, or BF16 (R151). -/
def roundP (bf : Bool) (p : FpVal) : FpVal :=
  let f := if bf then bf16 else e4m3
  decodeFloat f (toFloat f true none p).1

/-- One tile of the online softmax (R151): the keys of the tile, each with whether the row sees it. Stage 3 takes consecutive keys in
groups, where a key that is not visible contributes nothing (R133, R149). [DESIGN CHOICE: log entry 30] -/
def softTile (alpha group vgroup : Nat) (bf : Bool) (q : List FpVal) (ks : List (Key × Bool)) (s : Soft) : Soft :=
  let sc := ks.map (fun e => (if e.2 then score alpha group q e.1 else negInf, e))
  let m := sc.foldl (fun a p => if p.2.2 then maxFp a p.1 else a) s.m
  let a := if s.m = negInf then FpVal.zero else expOf (roundFp32 (FpVal.add s.m (FpVal.neg m)))
  let ps := sc.map (fun p => (if p.2.2 then expOf (roundFp32 (FpVal.add p.1 (FpVal.neg m))) else FpVal.zero, p.2))
  let l := roundFp32 (FpVal.add (FpVal.mul a s.l) (sumExact ((ps.filter (·.2.2)).map (·.1))))
  let o := ((List.range s.o.length).zip s.o).map (fun e =>
    (pieces vgroup ps.length ps).foldl (fun acc g =>
      let seen := g.filter (·.2.2)
      if seen.isEmpty then acc
      else roundFp32 (FpVal.add acc (sumExact (seen.map (fun p => FpVal.mul (roundP bf p.1) (p.2.1.v.vals.getD e.1 FpVal.zero)))))) (roundFp32 (FpVal.mul a e.2)))
  ⟨m, l, o⟩

/-- What a query row comes to: outputs, m, lse, and its flags. -/
structure RowOut where
  out : List FpVal
  m : FpVal
  lse : FpVal
  flags : NumFlags

/-- Keys of the tiles with their visibility to new position `i`; tiles of which the row sees nothing are left out (R149). -/
def seenTiles (sector : Nat) (mem : List Host.Cell) (r : RowInfo) (i : Nat) (tiles : List (List Key)) : List (List (Key × Bool)) :=
  (tiles.map (fun t => t.map (fun k => (k, keyVisible sector mem r i k)))).filter (fun t => t.any (·.2))

/-- Does a visible key make the row NaN: a NaN score, or a block scale 0xFF (R154)? -/
def nanSeen (alpha group : Nat) (q : List FpVal) (tiles : List (List (Key × Bool))) : Bool :=
  tiles.any (fun t => t.any (fun e => e.2 && (e.1.k.bad || e.1.v.bad || score alpha group q e.1 == .nan)))

/-- An empty row (R150, R151). -/
def RowOut.empty (dim : Nat) : RowOut := ⟨List.replicate dim FpVal.zero, negInf, negInf, { NumFlags.none_ with emptyRow := true }⟩

/-- One query row over the tiles (R149, R151, R154). -/
def attnRow (sector : Nat) (mem : List Host.Cell) (alpha qfmt kfmt : Nat) (bf : Bool) (r : RowInfo) (dim i : Nat) (q : List FpVal)
    (tiles : List (List Key)) : RowOut :=
  if r.mask = 2 ∧ !nodeOk r.parents i then RowOut.empty dim
  else
    let vis := seenTiles sector mem r i tiles
    let group := groupOf qfmt (kvElemFmt kfmt)
    if nanSeen alpha group q vis then ⟨List.replicate dim .nan, .nan, .nan, { NumFlags.none_ with nanOut := true }⟩
    else
      let vgroup := if bf || kfmt == 0 then 8 else 32
      let s := vis.foldl (fun s t => softTile alpha group vgroup bf q t s) ⟨negInf, FpVal.zero, List.replicate dim FpVal.zero⟩
      match s.l with
      | .fin _ 0 _ => RowOut.empty dim
      | l => ⟨s.o.map (fun v => roundFp32 (FpVal.mul v (recipOf l))), s.m, roundFp32 (FpVal.add s.m (lnOf l)), NumFlags.none_⟩

/-! ### One query row backward (R158, R159) -/

/-- Gradients of a query row: dQ, and for each visible key at or beyond qbase its position, dK and dV, with flags. -/
structure GradOut where
  dq : List FpVal
  keys : List (Nat × List FpVal × List FpVal)
  flags : NumFlags

/-- The greatest visible score, as the forward pass takes it (R151, R154, R159). -/
def topScore (alpha group : Nat) (q : List FpVal) (tiles : List (List (Key × Bool))) : FpVal :=
  if nanSeen alpha group q tiles then .nan
  else tiles.foldl (fun a t => t.foldl (fun a e => if e.2 then maxFp a (score alpha group q e.1) else a) a) negInf

/-- One query row of ATTN_BWD: the forward maximum must equal the saved one, else the row adds nothing (R159); a row that sees a NaN has
NaN gradients (R154). Products along keys are summed tile by tile in groups of consecutive keys (R133). -/
def gradRow (sector : Nat) (mem : List Host.Cell) (alpha qfmt ofmt kfmt : Nat) (r : RowInfo) (dim i : Nat) (q dO : List FpVal)
    (m lse di : FpVal) (tiles : List (List Key)) : GradOut :=
  let zeros := List.replicate dim FpVal.zero
  if r.mask = 2 ∧ !nodeOk r.parents i then ⟨zeros, [], { NumFlags.none_ with emptyRow := true }⟩
  else
    let vis := seenTiles sector mem r i tiles
    let group := groupOf qfmt (kvElemFmt kfmt)
    let vgroup := groupOf ofmt (kvElemFmt kfmt)
    if toFp32 (topScore alpha group q vis) ≠ toFp32 m then ⟨zeros, [], { NumFlags.none_ with statMismatch := true }⟩
    else
      let bad := nanSeen alpha group q vis
      let ds := vis.map (fun t => t.map (fun e =>
        let p := if !e.2 then FpVal.zero else if bad then .nan else expOf (roundFp32 (FpVal.add (score alpha group q e.1) (FpVal.neg lse)))
        let dp := dotFloat vgroup ((dO.zip e.1.v.vals).map (fun x => FpVal.mul x.1 x.2))
        (e, p, roundFp32 (FpVal.mul p (roundFp32 (FpVal.add dp (FpVal.neg di)))))))
      let dq := (List.range dim).map (fun c =>
        roundFp32 (FpVal.mul (fieldFp alpha) (ds.foldl (fun acc t => (pieces group t.length t).foldl (fun acc g =>
          let seen := g.filter (·.1.2)
          if seen.isEmpty then acc
          else roundFp32 (FpVal.add acc (sumExact (seen.map (fun e => FpVal.mul e.2.2 (e.1.1.k.vals.getD c FpVal.zero)))))) acc) FpVal.zero)))
      let own := (ds.flatMap id).filter (fun e => e.1.2 && (e.1.1.prov || decide (r.qbase ≤ e.1.1.pos)))
      let keys := own.map (fun e =>
        ((if e.1.1.prov then e.1.1.pos else e.1.1.pos - r.qbase),
          q.map (fun v => roundFp32 (FpVal.mul (fieldFp alpha) (roundFp32 (FpVal.mul e.2.2 v)))),
          dO.map (fun v => roundFp32 (FpVal.mul e.2.1 v))))
      ⟨dq, keys, { NumFlags.none_ with nanOut := bad, emptyRow := vis.isEmpty }⟩

/-- Add FP32 values to those in memory from `a` upwards; a NaN written is marked (R134, R162). -/
def addFp32s (a : Nat) : List FpVal → List Host.Cell × NumFlags → List Host.Cell × NumFlags
  | [], s => s
  | v :: vs, s =>
    let old := decodeFloat fp32 (leNat (Mem.reads a 4 s.1))
    let new := FpVal.add old v
    addFp32s (a + 4) vs (Mem.writes a (leBytes 4 (toFp32 new)) s.1, s.2.or { NumFlags.none_ with nanOut := new == .nan })

/-! ### A new row (R155) -/

/-- A row's bytes in a page format: elements, then scales; keys or values alone (R135, R155). `sr` gives the stochastic-rounding value of
an element, where it applies (R136). -/
def kvBytes (sr : Nat → Option Nat) (format : Nat) (vs : List FpVal) : List Byte × List Byte × NumFlags :=
  if format = 0 then
    let rs := ((List.range vs.length).zip vs).map (fun v => toFloat bf16 false (sr v.1) v.2)
    (rs.flatMap (fun r => leBytes 2 r.1), [], rs.foldl (fun f r => f.or r.2) NumFlags.none_)
  else
    let f := kvElemFmt format
    let bs := (pieces 32 vs.length vs).map (quantBlock (fmtFloat f))
    (packCodes (fmtBits f) (bs.flatMap (·.2.1)), bs.map (fun b => BitVec.ofNat 8 b.1), bs.foldl (fun g b => g.or b.2.2) NumFlags.none_)

/-- Write row `slot` of a page's elements and scales (R156). -/
def writePageRow (sector : Nat) (p : Page) (slot : Nat) (k v : List Byte × List Byte × NumFlags) (mem : List Host.Cell) : List Host.Cell :=
  let dim := 32 * p.dim32
  let z := kvRowSizes p.format dim
  let r := pageRegions p.format dim p.cap
  let base := tierAddr p.loc.tier sector (4096 * p.loc.unit)
  Mem.writes (base + r.2.2.2 + slot * z.2) v.2.1 (Mem.writes (base + r.2.2.1 + slot * z.1) v.1
    (Mem.writes (base + r.2.1 + slot * z.2) k.2.1 (Mem.writes (base + r.1 + slot * z.1) k.1 mem)))

end Sys2Proof.Machine
end

