-- ==== Sys2Proof/Machine/MediaOps.lean ====
section
/-!
DEFINITION. Machine/MediaOps.lean: where a Sector's bytes lie in the stacks, the blocks that read as failed, the counters of
written blocks (R420 to R430), and the extents of flash that read as failed (R436 to R448).
-/
namespace Sys2Proof.Machine

/-- The device with one stack changed. -/
def Dev.stkUpd (s : Nat) (f : Stack → Stack) (d : Dev) : Dev :=
  { d with media := { d.media with stk := Tab.put s (f (Tab.getD s ⟨false, [], [], none⟩ d.media.stk)) d.media.stk } }

/-- A stack. -/
def Dev.stack (s : Nat) (d : Dev) : Stack := Tab.getD s ⟨false, [], [], none⟩ d.media.stk

/-- The logical slot that a physical channel fills, 0x7F for none (R420). -/
def Dev.slotOfChan (stack chan : Nat) (d : Dev) : Nat := d.get (Reg.STK_CH.slot stack chan)

/-- Key of a block of a logical slot within its stack. [DEDUCED: log entry 72] -/
def blockKey (slot block : Nat) : Nat := slot * 2 ^ 24 + block

/-- Where a byte of a Sector's tier 1 lies (R421): stack, logical slot, and block of the channel. -/
def Dev.stackPlace (sector off : Nat) (d : Dev) : Option (Nat × Nat × Nat) :=
  match (Tab.getD sector [] d.comp.cur.chunks)[off / 2 ^ 26]? with
  | some c =>
    let unit := off % 2 ^ 26 / 4096
    some (c / 768, 15 * (c / 96 % 8) + unit % 15, (c % 96 * 1093 + unit / 15) * 8 + off % 4096 / 512)
  | none => none

/-- The number of a block's counter line among its stack's 1,572,864 lines (R429). Which line has which number is open. [DESIGN CHOICE: log entry 71] -/
def lineNo (stack slot block : Nat) : Nat := Config.unstated 50 [stack, slot, block / 64] % 1572864

/-- Does a block lie beneath a tree node (R429, R430), coded as its level × 2^24 + its index in that level? [DESIGN CHOICE: log entry 71] -/
def beneath (stack node slot block : Nat) : Bool := lineNo stack slot block / 8 ^ (node / 2 ^ 24) == node % 2 ^ 24

/-- A block reads as failed: poisoned, beneath a failed node, or in a retired group (R424, R430, R433). [DEDUCED: log entry 72] -/
def Dev.blockFailed (stack slot block : Nat) (d : Dev) : Bool :=
  (d.stack stack).poisoned.contains (blockKey slot block) || (d.stack stack).failedNodes.any (fun n => beneath stack n slot block) ||
    d.get (Reg.STK_GROUP.retired stack (slot / 15)) == 1

/-- Does any block of `n` units from unit `u` of a Sector's tier 1 read as failed? -/
def Dev.unitsFailed (sector u n : Nat) (d : Dev) : Bool :=
  (List.range (8 * n)).any (fun k =>
    match d.stackPlace sector (4096 * u + 512 * k) with
    | some (s, slot, b) => d.blockFailed s slot b
    | none => false)

/-- A page of a Sector lies on failed blocks of tier 1. -/
def Dev.pageLost (sector : Nat) (p : Page) (d : Dev) : Bool := p.loc.tier == 1 && d.unitsFailed sector p.loc.unit 4

/-- An access that stays uncorrectable, or a block whose MAC fails twice: the block is poisoned, and the Foghorn hears of
the channel (R424, R430). [DEDUCED: log entries 9, 72] -/
def Dev.poisonBlock (f : StackFault) (d : Dev) : Dev :=
  let key := blockKey (d.slotOfChan f.stack f.chan) f.block
  let d := d.stkUpd f.stack (fun s => { s with poisoned := if s.poisoned.contains key then s.poisoned else key :: s.poisoned })
  let d := if f.mac then (d.flag (Reg.STK_ERR.mac_fail f.stack)).bump (Reg.STK_MAC_FAIL.count f.stack) 1
    else (d.flag (Reg.STK_ERR.uncorrectable f.stack)).bump (Reg.STK_UNCORR.count f.stack) 1
  d.reportUnit 0x3 (f.stack * 128 + f.chan) 1

/-- The lowest-numbered free spare of a stack (R420, R431). [DEDUCED: log entry 73] -/
def Dev.freeSpare (stack : Nat) (d : Dev) : Option Nat := (List.range 128).find? (fun c => d.get (Reg.STK_CH.state stack c) == 1)

/-- A sparing copy starts (R431, R432): where none runs, the channel is active and a spare is free. [DEDUCED: log entry 73] -/
def Dev.startSparing (stack chan : Nat) (d : Dev) : Dev :=
  match d.freeSpare stack with
  | some c =>
    if (d.stack stack).sparing.isNone && d.get (Reg.STK_CH.state stack chan) == 0 then
      let d := d.stkUpd stack (fun s => { s with sparing := some ⟨chan, c, d.slotOfChan stack chan⟩ })
      let d := (d.put (Reg.STK_CH.state stack c) 2).put (Reg.STK_STATUS.spares_left stack) (d.get (Reg.STK_STATUS.spares_left stack) - 1)
      ((d.put (Reg.STK_SPARE.busy stack) 1).put (Reg.STK_SPARE.progress stack) 0).put (Reg.STK_SPARE.spare stack) c
    else d
  | none => d

/-- An access of a command that stays uncorrectable, or a block of it whose MAC fails twice: the block is poisoned, and an uncorrectable
one starts the sparing of its channel (R424, R430, R431). -/
def Dev.accessFault (f : StackFault) (d : Dev) : Dev :=
  let d := d.poisonBlock f
  if !f.mac && d.get (Reg.STK_CFG.auto_spare f.stack) == 1 then d.startSparing f.stack f.chan else d

/-! ### Counters of written blocks (R428) -/

/-- Key of a block over all stacks, and of its counter line of 64 blocks. -/
def lineBlock (stack slot block : Nat) : Nat := (stack * 128 + slot) * 2 ^ 24 + block

/-- A write of a counter line raises the counter of each of its ancestors' links: the line's own in its parent, and so on up to the
root (R429). [DESIGN CHOICE: log entry 71] -/
def Dev.countTree (stack slot block : Nat) (d : Dev) : Dev :=
  { d with media := { d.media with tree := (List.range 7).foldl (fun t level =>
      let key := (stack * 8 + level) * 2 ^ 24 + lineNo stack slot block / 8 ^ level
      Tab.put key (wrap 56 (Tab.getD key 0 t + 1)) t) d.media.tree } }

/-- One write of a block: its minor counter rises; where it would pass 127 the line's major counter rises, its minors are zeroed
and the event is counted (R428); the tree's counters follow (R429). [DESIGN CHOICE: log entry 71] -/
def Dev.countBlock (stack slot block : Nat) (d : Dev) : Dev :=
  let k := lineBlock stack slot block
  let d := d.countTree stack slot block
  if Tab.getD k 0 d.media.minor < 127 then
    { d with media := { d.media with minor := Tab.put k (Tab.getD k 0 d.media.minor + 1) d.media.minor } }
  else
    let d : Dev := { d with media := { d.media with minor := d.media.minor.filter (fun e => e.1 / 64 != k / 64),
                                                    major := Tab.put (k / 64) (Tab.getD (k / 64) 0 d.media.major + 1) d.media.major } }
    d.bump (Reg.STK_CTR_OVF.count stack) 1

/-- A write of `n` bytes at offset `off` of a Sector's tier 1: each block it touches is written once, and a poisoned block that
it covers wholly reads well again (R424, R428). [DESIGN CHOICE: log entry 71] -/
def Dev.stackWrite (sector off n : Nat) (d : Dev) : Dev :=
  if n = 0 then d
  else (List.range ((off + n - 1) / 512 + 1 - off / 512)).foldl (fun d k =>
    let at_ := (off / 512 + k) * 512
    match d.stackPlace sector at_ with
    | some (s, slot, b) =>
      let d := d.countBlock s slot b
      if off ≤ at_ ∧ at_ + 512 ≤ off + n then d.stkUpd s (fun x => { x with poisoned := x.poisoned.filter (fun p => p != blockKey slot b) }) else d
    | none => d) d

/-- The same at a flat address: nothing where it is not in tier 1. [DESIGN CHOICE: log entry 71] -/
def Dev.flatWrite (a n : Nat) (d : Dev) : Dev :=
  if (a - 2 ^ 60) / 2 ^ 48 / 16 = 1 ∧ 2 ^ 60 ≤ a then d.stackWrite ((a - 2 ^ 60) / 2 ^ 48 % 16) ((a - 2 ^ 60) % 2 ^ 48) n else d

/-! ### Flash -/

/-- The device with the flash changed. -/
def Dev.flUpd (f : Flash → Flash) (d : Dev) : Dev := { d with media := { d.media with flash := f d.media.flash } }

/-- A table entry changes: its table page of 2,048 entries waits to be written from the first change on (R438, R442). -/
def Dev.setEntry (e : Nat) (x : Option FtlEntry) (d : Dev) : Dev :=
  d.flUpd (fun f => { f with table := (match x with | some x => Tab.put e x f.table | none => Tab.del e f.table),
                             changed := if Tab.has (e / 2048) f.changed then f.changed else Tab.put (e / 2048) d.now f.changed,
                             failed := f.failed.filter (fun k => k != e) })

/-- The extents of 1 GiB units are trimmed (R440, R464). -/
def Dev.trimUnits (units : List Nat) (d : Dev) : Dev :=
  (d.media.flash.table.filter (fun x => units.contains (x.1 / 16384))).foldl (fun d x => d.setEntry x.1 none) d

/-- The logical extent of a byte of a Sector's tier 2 (R437). -/
def Dev.extentAt (sector off : Nat) (d : Dev) : Option Nat :=
  ((Tab.getD sector [] d.comp.cur.units)[off / 2 ^ 30]?).map (fun u => u * 16384 + off % 2 ^ 30 / 65536)

/-- An extent reads as failed: it could not be read, or its channel is lost (R436, R448). -/
def Dev.extentFailed (e : Nat) (d : Dev) : Bool :=
  d.media.flash.failed.contains e ||
    (match Tab.look e d.media.flash.table with | some x => d.get (Reg.FLS_CH.state (x.lun / 32)) == 2 | none => false)

/-- An object of tier 2 could not be read (R444, R448): counted, and reported with the status of what read it. [DEDUCED: log entries 9, 74] -/
def Dev.flashUnreadable (sector status : Nat) (d : Dev) : Dev :=
  (((d.flag Reg.FLS_ERR.unreadable).flag Reg.FLS_ERR.gcm).bump Reg.FLS_UNCORR.count 1).reportHub sector status 1

end Sys2Proof.Machine
end

