-- ==== Sys2Proof/Machine/ObsOps.lean ====
section
/-!
DEFINITION. Machine/ObsOps.lean: what a command leaves for the observer: command records, the tensor watch and trace
(R383, R545 to R550, R553).
-/
namespace Sys2Proof.Machine

/-! ### Rings in host memory (R383, R545) -/

/-- The PCIe port that a path field names: 0 (and 3) the owner's port, 1 port A, 2 port B; none where there is no such
port or its link is down. -/
def Dev.hostPort (path : Nat) (d : Dev) : Option Nat :=
  let p := if path = 1 then some 0 else if path = 2 then some 1 else portOf d.owner
  match p with
  | some p => if d.get (Reg.PCI_STATUS.link_up p) == 1 then some p else none
  | none => none

/-- Does a ring of 2^n records have no room for one more? -/
def ringFull (log2 head tail : Nat) : Bool := wrap 32 (head + 2 ^ 32 - tail) == 2 ^ log2

/-- The first three core counters of a command record (R546): bits [31:0] of counters cnt_a, cnt_b and cnt_c. [DEDUCED: log entry 97] -/
def Dev.recCounters (core : Nat) (d : Dev) : List Nat :=
  [d.get Reg.CNT_REC_CFG.cnt_a, d.get Reg.CNT_REC_CFG.cnt_b, d.get Reg.CNT_REC_CFG.cnt_c].map
    (fun k => wrap 32 (d.cntValue (.core core k)))

/-- What a command record says (R546). -/
structure CmdRec where
  core : Nat
  list : Nat
  failed : Bool
  layerId : Nat
  operatorId : Nat
  index : Nat
  step : Nat
  status : Nat
  opcode : Nat
  sector : Nat
  firstRow : Nat
  rows : Nat
  start : Nat
  end_ : Nat
  before : List Nat
  after : List Nat

/-- The 64 bytes of a command record (R546). -/
def CmdRec.bytes (r : CmdRec) : List Byte :=
  leBytes 1 0x10 ++ leBytes 1 r.core ++ leBytes 1 r.list ++ leBytes 1 (b2n r.failed + 2 * b2n (r.rows != 0)) ++ leBytes 2 r.layerId ++
    leBytes 2 r.operatorId ++ leBytes 4 r.index ++ leBytes 4 r.step ++ leBytes 2 r.status ++ leBytes 1 r.opcode ++
    leBytes 1 r.sector ++ leBytes 2 r.firstRow ++ leBytes 2 r.rows ++ leBytes 8 r.start ++ leBytes 8 r.end_ ++
    ((r.before.zip r.after).flatMap (fun p => leBytes 4 p.1 ++ leBytes 4 p.2))

/-- Write a command record to its ring, when records are enabled and the command's layer lies in range or it failed; also
send it as trace (R545, R383). -/
def Dev.cmdRecord (r : CmdRec) (d : Dev) : Dev :=
  if d.get Reg.CNT_REC_CFG.enable == 1 &&
      (r.failed || (decide (d.get Reg.CNT_REC_LAYER.layer_lo ≤ r.layerId) && decide (r.layerId ≤ d.get Reg.CNT_REC_LAYER.layer_hi))) then
    let d := d.trace false 3 (some r.sector) ⟨0x10, 64, (r.bytes.drop 1).map BitVec.toNat⟩
    let head := d.get Reg.CNT_REC_HEAD.head
    let log2 := d.get Reg.CNT_REC_CFG.ring_log2 + 10
    match d.hostPort (d.get Reg.CNT_REC_CFG.path) with
    | none => d.bump Reg.CNT_REC_DROP.count 1
    | some p =>
      if ringFull log2 head (d.get Reg.CNT_REC_TAIL.tail) then d.bump Reg.CNT_REC_DROP.count 1
      else
        (d.put Reg.CNT_REC_HEAD.head (head + 1)).emit
          (.hostWrite p (d.get Reg.CNT_REC_BASE.address * 4096 + head % 2 ^ log2 * 64) r.bytes)
  else d

/-! ### The tensor watch (R548 to R550) -/

/-- One byte of CRC-64/ECMA-182 (R550). -/
def crcByte (crc b : Nat) : Nat :=
  (List.range 8).foldl (fun c _ => if c / 2 ^ 63 % 2 = 1 then (2 * c % 2 ^ 64) ^^^ 0x42F0E1EBA9EA3693 else 2 * c % 2 ^ 64) (crc ^^^ (b * 2 ^ 56))

/-- CRC-64/ECMA-182 of bytes (R550). -/
def crc64 (bs : List Byte) : Nat := bs.foldl (fun c b => crcByte c b.toNat) 0

/-- The bytes of an output as stored: each row's elements, then each row's scales (R550). -/
def EngCtx.storedBytes (x : EngCtx) (mem : List Host.Cell) (o : Operand) : List Byte :=
  (List.range o.rows).flatMap (fun r => Mem.reads (x.base o + r * o.rowStride) (rowBytes o) mem) ++
    (if fmtMx o.format then (List.range o.rows).flatMap (fun r =>
      Mem.reads (x.base o + o.scaleOffset + r * o.scaleStride) (ceilDiv o.cols 32) mem) else [])

/-- Is a value finite? -/
def FpVal.isFin : FpVal → Bool
  | .fin _ _ _ => true
  | _ => false

/-- A value's sign, significand and exponent as numbers. -/
def FpVal.parts : FpVal → List Nat
  | .fin s m e => [b2n s, m, e.toNat, (-e).toNat]
  | _ => []

/-- The slot's result registers in statistics mode (R549). The two sums are accumulated in an unspecified order: each is a
free function of the elements. [DESIGN CHOICE: log entry 98] -/
def Dev.watchStats (core slot : Nat) (vs : List FpVal) (d : Dev) : Dev :=
  let fin := vs.filter FpVal.isFin
  let lo := fin.foldl (fun a v => if FpVal.lt v a then v else a) (.inf false)
  let hi := fin.foldl (fun a v => if FpVal.lt a v then v else a) (.inf true)
  let codes := fin.flatMap FpVal.parts
  let d := (d.put (Reg.DBG_WMIN.value core slot) (toFp32 lo)).put (Reg.DBG_WMAX.value core slot) (toFp32 hi)
  let d := (d.put (Reg.DBG_WSUM.value core slot) (Config.unstated 10 codes)).put (Reg.DBG_WSUMSQ.value core slot) (Config.unstated 11 codes)
  let d := d.put (Reg.DBG_WNAN.count core slot) (vs.filter (fun v => v == .nan)).length
  d.put (Reg.DBG_WINF.count core slot) (vs.filter (fun v => match v with | .inf _ => true | _ => false)).length

/-- One watch slot meets a completed command (R548). -/
def Dev.watchSlot (x : EngCtx) (mem : List Host.Cell) (c : EngCmd) (step index slot : Nat) (d : Dev) : Dev :=
  let core := x.core
  if d.get (Reg.DBG_WCTL.enable core slot) == 1 && d.get (Reg.DBG_WCTL.layer_id core slot) == c.layerId &&
      d.get (Reg.DBG_WOP.operator_id core slot) == c.operatorId then
    let o := { c.d with format := c.outFormat }
    let d := if d.get (Reg.DBG_WCTL.crc core slot) == 1 then d.put (Reg.DBG_WCRC.crc core slot) (crc64 (x.storedBytes mem o))
      else d.watchStats core slot ((List.range o.rows).flatMap (fun r => x.row mem o r))
    let d := ((d.put (Reg.DBG_WSTEP.value core slot) step).put (Reg.DBG_WCMD.value core slot) index).flag (Reg.DBG_WCTL.fired core slot)
    let d := if d.get (Reg.DBG_WCTL.once core slot) == 1 then d.put (Reg.DBG_WCTL.enable core slot) 0 else d
    d.trace false 1 (some x.sector) ⟨0x11, 64, [core, slot, d.get (Reg.DBG_WCTL.crc core slot)] ++
      [d.get (Reg.DBG_WMIN.value core slot), d.get (Reg.DBG_WMAX.value core slot), d.get (Reg.DBG_WSUM.value core slot),
       d.get (Reg.DBG_WSUMSQ.value core slot), d.get (Reg.DBG_WNAN.count core slot), d.get (Reg.DBG_WINF.count core slot),
       d.get (Reg.DBG_WCRC.crc core slot), d.get (Reg.DBG_WSTEP.value core slot), d.get (Reg.DBG_WCMD.value core slot)]⟩
  else d

/-- The eight watch slots of a core meet a completed command, at debug level 1 or above (R548). -/
def Dev.watch (x : EngCtx) (mem : List Host.Cell) (c : EngCmd) (step index : Nat) (d : Dev) : Dev :=
  if d.debugLevel ≥ 1 then (List.range 8).foldl (fun d k => d.watchSlot x mem c step index k) d else d

/-! ### Trace of engines and cores (R553) -/

/-- An engine event on one of a core's five physical engines: 0 issue, 1 complete. -/
def Dev.engineTrace (sector core engine event : Nat) (c : EngCmd) (index : Nat) (d : Dev) : Dev :=
  d.trace true 0 (some sector) ⟨0x01, 16, [core, engine, event, c.layerId, c.operatorId, index, wrap 32 d.daymark]⟩

/-- A core event, with the event code of R540. -/
def Dev.coreTrace (sector core cls code value : Nat) (d : Dev) : Dev :=
  d.trace false 1 (some sector) ⟨0x02, 16, [core, cls * 256 + code, value, sector, wrap 32 d.daymark]⟩

/-- A core's event reaches counters and trace. -/
def Dev.coreEvent (core cls code sector : Nat) (d : Dev) : Dev :=
  (d.event (some core) (sectorEvent cls code sector)).coreTrace sector core cls code 1

end Sys2Proof.Machine
end

