-- ==== Sys2Proof/Machine/Exports.lean ====
section
/-!
DEFINITION. Machine/Exports.lean: a session's objects as bytes: what a tier shows of them, the manifest and export of a move, and the
serialisation of a coded copy with its stripes (R49, R58, R116, R118, R360).
-/
namespace Sys2Proof.Machine

/-- The flat address of a location of a Sector. -/
def flatLoc (sector : Nat) (l : Loc) : Nat := tierAddr l.tier sector (4096 * l.unit)

/-- A page's 16 KiB: its header, and its payload as memory holds it (R49, R50). -/
def pageBytes (b : Buoy) (m : Moor) (p : Page) (mem : List Host.Cell) : List Byte :=
  pageHeader b.sid m.modelRevision p ++ Mem.reads (flatLoc b.sector p.loc + 64) (16384 - 64) mem

/-- The records of a session that lie in its Sector's tiers, each with its place and its bytes: CTRL, root, leaves, and the headers of its pages
(R39, R49, R53, R63, R64). -/
def recordsOf (b : Buoy) (m : Moor) : List (Loc × List Byte) :=
  [(b.ctrlLoc, ctrlBytes b m), (b.kvRoot, rootBytes b m)] ++ m.leafLocs.map (fun e => (e.2, m.leafBytes (e.1 / 65536) (e.1 % 65536))) ++
    m.pages.map (fun p => (p.loc, pageHeader b.sid m.modelRevision p))

/-- The byte of a record at an offset of a Sector's tier. -/
def Dev.recordByte (tier sector off : Nat) (d : Dev) : Option Byte :=
  d.ses.moors.findSome? (fun e => match d.buoy e.1 with
    | some b =>
      if b.sector ≠ sector then none
      else (recordsOf b e.2).findSome? (fun r => if r.1.tier = tier ∧ 4096 * r.1.unit ≤ off then r.2[off - 4096 * r.1.unit]? else none)
    | none => none)

/-- What a byte of a Sector's tier reads as: a record's byte where one lies there, else memory's. -/
def Dev.tierByte (tier sector off : Nat) (mem : List Host.Cell) (d : Dev) : Byte :=
  (d.recordByte tier sector off).getD (Mem.read (tierAddr tier sector off) mem)

/-- A byte of a die buffer (R16): the Locator copy in the lower half, an entry being 16 bytes of its set's 16 ways, and tier-0 staging in the
upper half, where the Sectors' shares follow one another in ascending Sector number; open where no Sector has the staging. [DESIGN CHOICE: log entry 108] -/
def Dev.dieByte (die off : Nat) (mem : List Host.Cell) (d : Dev) : Nat :=
  if off < 2 ^ 24 then
    let ways := Tab.getD (off / 256) [] (if die = 0 then d.loc.die0 else d.loc.die1)
    match ways[off / 16 % 16]? with
    | some e => ((LocEntry.bytes e).getD (off % 16) 0).toNat
    | none => 0
  else
    let share (n : Nat) : Nat := (if die = 0 then (d.capSector n).t0d0 else (d.capSector n).t0d1) * 65536
    let base (n : Nat) : Nat := ((List.range n).map share).sum
    let x := off - 2 ^ 24
    match (List.range 16).find? (fun n => decide (base n ≤ x) && decide (x < base n + share n)) with
    | some n => (d.tierByte 0 n (x - base n + die * 2 ^ 24) mem).toNat
    | none => Config.unstated 60 [die, off]

/-- The bytes of an object of a session's Mooring (R39). -/
def objBytesOf (b : Buoy) (m : Moor) (mem : List Host.Cell) : ObjRef → List Byte
  | .ctrl => ctrlBytes b m
  | .leaf k => m.leafBytes (k / 65536) (k % 65536)
  | .recurrent => Mem.reads (flatLoc b.sector b.recLoc) (4096 * m.recUnits) mem
  | .stat => Mem.reads (flatLoc b.sector b.statLoc) (4096 * m.statUnits) mem
  | .root => rootBytes b m
  | .page s o => match m.pages.find? (fun p => p.stream == s && p.ordinal == o) with | some p => pageBytes b m p mem | none => []

/-- Bytes of an adapter's area, to its last byte that is not zero. [DEDUCED: log entry 32] -/
def adapterBytes (n h : Nat) (mem : List Host.Cell) : List Byte :=
  let a := tierAddr 1 n (2 ^ 40 + h * 2 ^ 28)
  let size := ((mem.filter (fun c => decide (a ≤ c.1) && decide (c.1 < a + 2 ^ 28))).map (fun c => c.1 + 1 - a)).foldl max 0
  Mem.reads a size mem

/-- An object of an export: its entry's kind, stream, ordinal and digest, and its bytes (R118). -/
structure ExpObj where
  kind : Nat
  stream : Nat
  ordinal : Nat
  digest : List Byte
  bytes : List Byte
  deriving DecidableEq, Repr

/-- An object whose entry holds the SHA-256 of its bytes. -/
def expObj (kind stream ordinal : Nat) (bytes : List Byte) : ExpObj := ⟨kind, stream, ordinal, shaFinish (shaAbsorb DigestEntry.start bytes), bytes⟩

/-- A session's pages in ascending stream and ordinal. -/
def Moor.inOrder (m : Moor) : List Page :=
  m.pages.mergeSort (fun a b => decide (a.stream < b.stream) || (a.stream == b.stream && decide (a.ordinal ≤ b.ordinal)))

/-- A session's private objects in the order of the entry kinds: CTRL, root, leaves, pages, REC, STAT (R118, R360). [DEDUCED: log entry 108] -/
def privateExports (b : Buoy) (m : Moor) (mem : List Host.Cell) : List ExpObj :=
  let one (kind : Nat) (l : Loc) (o : ObjRef) : List ExpObj := if l.tier = 3 then [] else [expObj kind 0 0 (objBytesOf b m mem o)]
  one 0 b.ctrlLoc .ctrl ++ one 1 b.kvRoot .root ++
    m.leafLocs.map (fun e => expObj 2 (e.1 / 65536) (e.1 % 65536) (objBytesOf b m mem (.leaf e.1))) ++
    (m.inOrder.filter (fun p => !p.shared)).map (fun p => expObj 3 p.stream p.ordinal (pageBytes b m p mem)) ++
    one 4 b.recLoc .recurrent ++ one 5 b.statLoc .stat

/-- The objects of a move's export: the private ones, the shared pages referenced, the geometry, the Buoy, and the adapter (R118). -/
def moveExports (g : Geometry) (b : Buoy) (m : Moor) (mem : List Host.Cell) : List ExpObj :=
  privateExports b m mem ++
    (m.inOrder.filter (·.shared)).map (fun p => ⟨6, p.stream, p.ordinal, leBytes 32 p.key, pageBytes b m p mem⟩) ++
    [expObj 7 0 0 (geometryBytes g), expObj 8 0 0 (buoyBytes b)] ++
    (if b.adapterRef = 0 then [] else [expObj 9 0 0 (leBytes 1 b.adapterRank ++ leBytes 7 0 ++ adapterBytes b.sector b.adapterRef mem)])

/-- The bytes of an export: manifest header, its entries, then the objects in entry order. [DESIGN CHOICE: log entry 108] -/
def exportImage (position : Nat) (g : Geometry) (b : Buoy) (m : Moor) (mem : List Host.Cell) : List Byte :=
  let os := moveExports g b m mem
  let base := 64 + 48 * os.length
  let entries := os.foldl (fun (x : Nat × List Byte) o => (x.1 + o.bytes.length, x.2 ++ entryBytes o.kind o.stream o.ordinal x.1 o.digest)) (base, [])
  manifestHeader b.sid position os.length b.ctx g ++ entries.2 ++ os.flatMap (·.bytes)

/-- The serialisation of a coded copy: each private object after its entry, whose offset is the object's in the serialisation (R360). [DEDUCED: log entry 108] -/
def serialise (b : Buoy) (m : Moor) (mem : List Host.Cell) : List Byte :=
  ((privateExports b m mem).foldl (fun (x : Nat × List Byte) o =>
    (x.1 + 48 + o.bytes.length, x.2 ++ entryBytes o.kind o.stream o.ordinal (x.1 + 48) o.digest ++ o.bytes)) (0, [])).2

/-- Data unit `i` of a serialisation; past its end, zeros (R360). -/
def codedUnit (bs : List Byte) (i : Nat) : List Byte := padTo 4096 (bs.drop (4096 * i))

/-- The parity unit of a stripe row of D data units (R360). -/
def parityUnit (dd row : Nat) (bs : List Byte) : List Byte :=
  (List.range dd).foldl (fun p i => List.zipWith (fun a b => a ^^^ b) p (codedUnit bs (row * dd + i))) (List.replicate 4096 0)

/-- The unit of a stripe row that goes to a member: parity to member row mod (D + 1), data to the others in order (R360). -/
def memberUnit (dd row member : Nat) (bs : List Byte) : List Byte :=
  let q := row % (dd + 1)
  if member = q then parityUnit dd row bs else codedUnit bs (row * dd + (if member < q then member else member - 1))

/-- A member's units in ascending row order (R360). -/
def memberUnits (dd rows member : Nat) (bs : List Byte) : List Byte := (List.range rows).flatMap (fun r => memberUnit dd r member bs)

end Sys2Proof.Machine
end

