-- ==== Sys2Proof/Machine/SesPass.lean ====
section
/-!
DEFINITION. Machine/SesPass.lean: session commands at HEAD and on every chip: acceptance, admission, reservation, the
passes round the ring, and each chip's own work (R87 to R107, R115 to R122).
-/
namespace Sys2Proof.Machine

/-- States a command is accepted in (R87); MOVE_IN is accepted in ABSENT. -/
def acceptsState (op st : Nat) : Bool :=
  match op with
  | 0x20 => st == 3
  | 0x21 => st == 3 || st == 4
  | 0x22 => st == 4 || st == 5
  | 0x23 => st == 3 || st == 4 || st == 5
  | 0x24 => st == 0
  | 0x25 => st == 6
  | 0x26 => st == 6
  | 0x27 => st == 3 || st == 4 || st == 5 || st == 7 || st == 8
  | _ => false

/-- Buoy.pending_op of a command (R40). -/
def pendingCode (op : Nat) : Nat :=
  match op with
  | 0x20 => 1
  | 0x21 => 2
  | 0x22 => 3
  | 0x23 => 4
  | 0x24 => 5
  | 0x27 => 6
  | 0x25 => 7
  | 0x26 => 8
  | _ => 0

/-- The slot a command takes (R106). -/
def slotFor (op st : Nat) : SlotKind :=
  match op with
  | 0x20 => .warm
  | 0x21 => .cold
  | 0x22 => if st = 4 then .warm else .cold
  | 0x27 => .none_
  | _ => .cold

/-- Operations that hold a slot of a kind. -/
def Dev.slotsHeld (k : SlotKind) (d : Dev) : Nat := (d.ses.ops.filter (fun e => e.2.holds && e.2.slot == k)).length

/-- The limit of a kind; 0 acts as 1 (R124, R125). [DEDUCED: log entry 23] -/
def Dev.slotLimit (k : SlotKind) (d : Dev) : Nat :=
  match k with
  | .cold => d.orZero Reg.SES_MOV_CFG.max_cold 1
  | .warm => d.orZero Reg.SES_MOV_LIM.max_warm 1
  | .none_ => 0

/-- Is a slot of the kind free (R106)? DROP takes none. [DEDUCED: log entry 23] -/
def Dev.slotFree (k : SlotKind) (d : Dev) : Bool := k == .none_ || decide (d.slotsHeld k < d.slotLimit k)

/-- The operation on a session. -/
def Dev.op (sid : Nat) (d : Dev) : Option SesOp := Tab.look sid d.ses.ops

/-- HEAD holds the session busy: its bit is set, or an operation on it has not ended, DONE not yet being back (R47,
R94). [DEDUCED: log entry 20] -/
def Dev.busyNow (sid : Nat) (d : Dev) : Bool :=
  (match d.buoy sid with | some b => b.busy | none => false) || Tab.has sid d.ses.ops

/-- The device with one operation changed. -/
def Dev.opUpd (sid : Nat) (f : SesOp → SesOp) (d : Dev) : Dev := { d with ses := { d.ses with ops := Tab.upd sid f d.ses.ops } }

/-- The device without the operation, its reservations released. -/
def Dev.opDel (sid : Nat) (d : Dev) : Dev := { d with ses := { d.ses with ops := Tab.del sid d.ses.ops } }

/-- A message of an operation. -/
def SesOp.mkMsg (o : SesOp) (sid kind gen status failPos units aux : Nat) : SesMsg :=
  { kind := kind, opcode := o.opcode, coldFallback := o.coldFallback, explicit := o.cmd.explicit, sid := sid, seq := o.seq,
    gen := gen, status := status, failPos := failPos, units := units, aux := aux }

/-- The message's aux field (R93): the placement; the move handle of MOVE_COMMIT and MOVE_ABORT; for MOVE_OUT, which
carries neither, the peer group and chip (a log entry). [DEDUCED: log entry 22] -/
def cmdAux (c : SesCmd) (op : Nat) : Nat :=
  if op = 0x25 ∨ op = 0x26 then c.handleGroup + c.handleChip * 0x10000 + c.handleSeq * 2 ^ 32
  else if op = 0x23 then c.peerGroup + c.peerChip * 0x10000 else c.placement

/-- An operation just accepted at HEAD. -/
def SesOp.start (op : Nat) (c : SesCmd) (ent : Option Ent) (slot : SlotKind) (now : Nat) (first : Bool) : SesOp :=
  { opcode := op, cmd := c, ent := ent, seq := 0, gen := 0, pass := .waiting, slot := slot, holds := false, coldFallback := op == 0x24 && c.cold,
    msg := ⟨0, op, false, c.explicit, c.sid, 0, 0, 0, 0, 0, 0⟩, sentAt := now, resends := 0, returned := false, goMsg := none,
    moved := 0, plan := [], working := false, committed := false, doneMsg := none, fail := 0, arrived := now,
    firstClass := first, prepAt := 0, coordFailed := false, stopped := false, allocated := false, inbound := none, record := none }

/-- The explicit placement unit that applies to a command's work in a tier (R91). -/
def cmdPlace (c : SesCmd) (fallback : Bool) (tier : Nat) : Option Nat :=
  if c.explicit && !fallback && placeTier c.placement == some tier then some (placeUnit c.placement) else none

/-- The tiers that a cold revive's objects go to, in order: one that a placement names; else tier 1, the pages of a Beacon session first
to the STATE regions of its image (R105). -/
def revivePools (c : SesCmd) (b : Buoy) (o : ObjRef) : List Nat :=
  if (cmdPlace c false 0).isSome then [0]
  else match o with
    | .page _ _ => if b.beacon && (cmdPlace c false 1).isNone then [4, 1] else [1]
    | _ => [1]

/-- What a chip plans for an operation in PREPARE: status and places (R91, R94, R96, R107, R116). -/
def Dev.reservation (op : Nat) (c : SesCmd) (fallback : Bool) (b : Buoy) (m : Moor) (d : Dev) : Nat × List Spot :=
  let into (tier short : Nat) (pools : ObjRef → List Nat) (objs : List ObjRef) : Nat × List Spot :=
    let place := if op = 0x23 then none else cmdPlace c fallback tier
    match d.planObjs b.sector m pools place objs [] with
    | some plan => (ST.OK, plan)
    | none => (if place.isSome then ST.SES_PLACEMENT else short, [])
  match op with
  | 0x20 =>
    if fallback then into 2 ST.SES_NOSPACE (fun _ => [2]) (coldObjs b m)
    else into 1 ST.SES_NOSTACK (fun _ => [1]) (objsIn (fun t => t == 0) b m)
  | 0x21 => into 2 ST.SES_NOSPACE (fun _ => [2]) (coldObjs b m)
  | 0x22 =>
    if b.state = 5 then into (if (cmdPlace c false 0).isSome then 0 else 1) ST.SES_NOSTACK (revivePools c b) (objsIn (fun t => t == 2) b m)
    else if (cmdPlace c false 0).isSome then into 0 ST.SES_NOSTACK (fun _ => [0]) [.ctrl]
    else (ST.OK, [])
  | 0x23 => into 1 ST.SES_NOSTACK (fun _ => [1]) (objsIn (fun t => t == 0) b m)
  | 0x24 => into (if c.cold then 2 else 1) (if c.cold then ST.SES_NOSPACE else ST.SES_NOSTACK) (fun _ => [if c.cold then 2 else 1]) (objsIn (fun _ => true) b m)
  | _ => (ST.OK, [])

/-- Units of a plan. -/
def planUnits (plan : List Spot) : Nat := (plan.map (·.units)).sum

/-- Each shared page reference of a move is resolved in the chip's own table: a shared entry gains one, unless its count is at its end; a
miss becomes a private page (R74, R119 step 3). A page found takes the shared page's place `at_`. Answers the pages, the table, and the hits. -/
def resolveShared (sector : Nat) (at_ : Nat → Option Loc) : List Page → List ((Nat × Nat) × Nat) → List Page × List ((Nat × Nat) × Nat) × Nat
  | [], t => ([], t, 0)
  | p :: ps, t =>
    if p.shared then
      match t.find? (fun e => e.1 == (sector, p.key) && decide (0 < e.2) && decide (e.2 < 0xFFFFFFFF)), at_ p.key with
      | some _, some l =>
        let t := t.map (fun e => if e.1 == (sector, p.key) then (e.1, e.2 + 1) else e)
        let r := resolveShared sector at_ ps t
        ({ p with loc := l } :: r.1, r.2.1, r.2.2 + 1)
      | _, _ =>
        let r := resolveShared sector at_ ps t
        ({ p with shared := false, loc := ⟨0, 0⟩ } :: r.1, r.2)
    else
      let r := resolveShared sector at_ ps t
      ({ p with loc := ⟨0, 0⟩ } :: r.1, r.2)

/-- Where the shared page of a key lies. -/
def Dev.sharedAt (n key : Nat) (d : Dev) : Option Loc :=
  (d.ses.buoys.filter (fun e => e.2.sector == n)).findSome? (fun e => match d.moor e.2.sid with
    | some m => (m.pages.find? (fun p => p.shared && p.key == key)).map (·.loc)
    | none => none)

/-- The Mooring that an inbound session brings, with its leaves, and its Buoy with a place wanted for every part (R119). -/
def inboundMoor (x : MoveManifest) (pages : List Page) : Moor :=
  { Moor.empty with modelRevision := x.geometry.modelRevision, layerSlots := x.geometry.layerSlots, kvHeads := x.geometry.kvHeads, lps := x.geometry.lps,
                    rootGen := x.buoy.gen, pages := pages, leafLocs := ((pages.map (fun p => leafKey p.stream (p.ordinal / 512))).eraseDups).map (fun k => (k, ⟨0, 0⟩)),
                    ctrl := x.ctrl, recUnits := x.recUnits, statUnits := x.statUnits }

/-- The part locations of an inbound Buoy before they are placed: parts it lacks have none. -/
def inboundLocs (x : MoveManifest) (b : Buoy) : Buoy :=
  { b with kvRoot := ⟨0, 0⟩, ctrlLoc := ⟨0, 0⟩, recLoc := if x.recUnits = 0 then Loc.none_ else ⟨0, 0⟩, statLoc := if x.statUnits = 0 then Loc.none_ else ⟨0, 0⟩ }

/-- The check of a destination chip on its counterpart's manifest (R119 step 2, R115), and its places: shared references that would become
private pages have theirs too. -/
def Dev.moveInCheck (c : SesCmd) (x : Option MoveManifest) (b : Buoy) (d : Dev) : Nat × List Spot :=
  match x with
  | none => (ST.SES_NOMOVE, [])
  | some x =>
    if (d.activeImg b.sector).map imgGeometry != some x.geometry then (ST.SES_MISMATCH, [])
    else d.reservation 0x24 c false (inboundLocs x b) (inboundMoor x (resolveShared b.sector (fun k => d.sharedAt b.sector k) x.pages d.ses.sharing).1)

/-- What a chip plans for an operation in PREPARE. -/
def Dev.prepareWork (o : SesOp) (b : Buoy) (m : Moor) (d : Dev) : Nat × List Spot :=
  if o.opcode = 0x24 then d.moveInCheck o.cmd o.inbound b else d.reservation o.opcode o.cmd o.coldFallback b m

/-- HEAD sends a message of a pass downstream and starts its resend clock; a GO that has not returned is still resent beside it (R94, R97).
After a failed pass nothing goes out until the ring carries traffic again (R98). -/
def Dev.sendPass (sid : Nat) (p : Pass) (m : SesMsg) (d : Dev) : Dev :=
  let held := match d.op sid with | some o => o.stopped | none => false
  let d := d.opUpd sid (fun o => { o with pass := p, msg := m, sentAt := d.now, resends := 0, returned := false,
                                          goMsg := if o.pass == .go && !o.returned then some (o.msg, o.sentAt, o.resends) else none })
  if held then d else d.emit (.sesMsg m)

/-- HEAD reserves for itself and sends PREPARE (R94 step 1, R96). -/
def Dev.sendPrepare (sid : Nat) (d : Dev) : Dev :=
  match d.op sid, d.buoy sid, d.moor sid with
  | some o, some b, some m =>
    let d := d.opUpd sid (fun o => { o with plan := [] })
    let r := d.prepareWork o b m
    let d := d.opUpd sid (fun o => { o with plan := r.2 })
    let msg := o.mkMsg sid 1 o.gen r.1 (if r.1 = 0 then 0 else d.position) (planUnits r.2) (cmdAux o.cmd o.opcode)
    d.sendPass sid .prepare msg
  | _, _, _ => d

/-- The turn that waits on a session, with its account (R106). -/
def Dev.turnOf (sid : Nat) (d : Dev) : Option Turn := Tab.look sid d.srv.turns

/-- The device with one turn changed. -/
def Dev.turnUpd (sid : Nat) (f : Turn → Turn) (d : Dev) : Dev :=
  { d with srv := { d.srv with turns := Tab.upd sid f d.srv.turns } }

/-- A turn ends and the bytes that detokenisation held back, if any, come out as one U+FFFD (R283): that text. -/
def Dev.endDetok (sid : Nat) (d : Dev) : List Byte × Dev :=
  match d.moor sid with
  | some m => if m.ctrl.detok.isEmpty then ([], d) else ([0xEF, 0xBF, 0xBD], d.ctrlUpd sid (fun c => { c with detok := [] }))
  | none => ([], d)

/-- HEAD no longer has a next row for the session. -/
def Dev.dropNext (sid : Nat) (d : Dev) : Dev := { d with srv := { d.srv with nextTree := Tab.del sid d.srv.nextTree } }

/-- The token sampled at the last step of a turn that ends, which no row has committed, is held for the session's next turn (R208). -/
def Dev.keepHeld (sid : Nat) (d : Dev) : Dev :=
  match Tab.look sid d.srv.nextTree with
  | some x => (d.dropNext sid).ctrlUpd sid (fun c => { c with held := some x.1 })
  | none => d

/-- A turn ends and is tracked no longer (R206, R207): its unread text completes with ST_SRV_NOTURN, the TURN with its
status and result, and each CANCEL with ST_OK; the carry is cleared (R273), the turn's token log is freed (R111) and, in a SOLO group,
TAIL's record of the turn and the bytes it held back go (R283). -/
def Dev.closeTurnRes (sid status : Nat) (result : Turn → Nat) (d : Dev) : Dev :=
  match d.turnOf sid with
  | none => d
  | some t =>
    let d := d.keepHeld sid
    let d : Dev := { d with srv := { d.srv with turns := Tab.del sid d.srv.turns, tail := if d.isSolo then Tab.del sid d.srv.tail else d.srv.tail } }
    let d := if (match d.moor sid with | some m => m.ctrl.carry.isEmpty | none => true) then d else d.ctrlUpd sid (fun c => { c with carry := [] })
    let d := if d.isSolo then (d.endDetok sid).2 else d
    let d := if (match d.moor sid with | some m => m.logUnits == 0 | none => true) then d else d.moorUpd sid (fun m => { m with logLoc := Loc.none_, logUnits := 0 })
    let d := t.texts.foldl (fun d p => if p.isTurn then d else d.complete p.ent ST.SRV_NOTURN 0) d
    let d := d.complete t.ent status (result t)
    t.cancels.foldl (fun d e => d.complete e ST.OK 0) d

/-- A turn ends with an end reason and status: its result holds the tokens emitted and the reason (R206). -/
def Dev.closeTurn (sid reason status : Nat) (d : Dev) : Dev := d.closeTurnRes sid status (fun t => t.emitted + reason * 2 ^ 32)

/-- At a revive's start HEAD checks the waiting turn's account; where it is disabled or another Sector's, the turn ends
and the revive goes on (R377). -/
def Dev.checkRevive (sid : Nat) (d : Dev) : Dev :=
  match d.turnOf sid, d.buoy sid with
  | some t, some b =>
    if d.acctOf t.entry.account b.sector then d
    else (d.closeTurn sid 7 ST.SRV_ACCOUNT).flag Reg.LENS_ERR.account_end
  | _, _ => d

/-- Start an admitted operation: it takes its slot and the next sequence number, and PREPARE goes out (R93, R106). -/
def Dev.startOp (sid : Nat) (d : Dev) : Dev :=
  let d := match d.op sid with | some o => if o.opcode = 0x22 then d.checkRevive sid else d | none => d
  let d : Dev := { d with ses := { d.ses with opSeq := wrap 32 (d.ses.opSeq + 1) } }
  (d.opUpd sid (fun o => { o with seq := d.ses.opSeq, holds := true, prepAt := d.daymark })).sendPrepare sid

/-- A leave of the session is still on its way round the ring (R94, R232). -/
def Dev.leaveOut (sid : Nat) (d : Dev) : Bool :=
  d.srv.batches.any (fun e => e.2.leaves.any (fun l => l.sid == sid) ||
    (match e.2.running with | some s => s.leaves.any (fun l => l.sid == sid && !l.returned) | none => false))

/-- A revive that a turn waits on may start only while the turn's account holds tokens (R106). -/
def Dev.reviveHas (sid : Nat) (d : Dev) : Bool :=
  match d.turnOf sid with
  | some t => d.acctHolds t.entry.account
  | none => true

/-- May the waiting operation start now? -/
def Dev.startable (sid : Nat) (o : SesOp) (d : Dev) : Bool :=
  o.pass == .waiting && d.slotFree o.slot && !d.leaveOut sid && (o.opcode != 0x22 || d.reviveHas sid)

/-- Revives in the pending list (R106, R125). -/
def Dev.pendingRevives (d : Dev) : Nat := (d.ses.ops.filter (fun e => e.2.pass == .waiting && e.2.opcode == 0x22)).length

/-- HEAD accepts a command that has passed R90: busy and pending_op are set, and it starts or waits (R47, R106). A revive
that must wait and finds the list full is refused with ST_SES_REVFULL: the answer is then false and nothing changes
but SES_MOV_ERR. [DEDUCED: log entry 20] -/
def Dev.acceptWith (f : SesOp → SesOp) (op : Nat) (c : SesCmd) (ent : Option Ent) (first : Bool) (d : Dev) : Bool × Dev :=
  match d.buoy c.sid with
  | none => (false, d)
  | some b =>
    let o := f { SesOp.start op c ent (slotFor op b.state) d.now first with gen := b.gen, arrived := d.ses.arrivals }
    let ready := d.slotFree o.slot && !d.leaveOut c.sid && (op != 0x22 || d.reviveHas c.sid)
    if op == 0x22 && !ready && decide (d.pendingRevives ≥ d.get Reg.SES_MOV_LIM.pending_m1 + 1) then
      (false, d.flag Reg.SES_MOV_ERR.pending_full)
    else
      let d := d.buoyUpd c.sid (fun b => { b with busy := true, pendingOp := pendingCode op })
      let d : Dev := { d with ses := { d.ses with ops := Tab.put c.sid o d.ses.ops, arrivals := d.ses.arrivals + 1 } }
      let d := if !ready && op == 0x22 && !d.reviveHas c.sid then
          (match d.turnOf c.sid with | some t => d.acctWait t.entry.account 1 | none => d) else d
      (true, if ready then d.startOp c.sid else d)

/-- Acceptance of a command that carries nothing more. -/
def Dev.accept (op : Nat) (c : SesCmd) (ent : Option Ent) (first : Bool) (d : Dev) : Bool × Dev := d.acceptWith id op c ent first

/-- The checks of R90 that need a Buoy, in order; `ST.OK` when all pass. `fromSector` is the queue's Sector. [DEDUCED: log entry 20] -/
def Dev.checkCmd (op : Nat) (c : SesCmd) (fromSector : Option Nat) (d : Dev) : Nat :=
  match d.buoy c.sid with
  | none => ST.SES_UNKNOWN
  | some b =>
    if (match fromSector with | some n => d.rangeSector c.sid != some n || b.sector != n | none => false) then ST.SES_UNKNOWN
    else if d.busyNow c.sid then ST.SES_BUSY
    else if c.checkGen && c.expectGen != b.gen then ST.SES_GENMISMATCH
    else if !acceptsState op b.state || ((op == 0x25 || op == 0x26) && !Tab.has c.sid d.ses.records) then ST.SES_BADSTATE
    else if c.explicit && (match op with
        | 0x20 => placeTier c.placement != some 1
        | 0x21 => placeTier c.placement != some 2
        | 0x22 => placeTier c.placement != some 0 && placeTier c.placement != some 1
        | _ => false) then ST.SES_PLACEMENT
    else if op == 0x25 || op == 0x26 then
      (match Tab.look c.sid d.ses.records with
       | some r => if c.handleGroup == d.groupId && c.handleChip == d.chipId && c.handleSeq == r.seq then ST.OK else ST.SES_NOMOVE
       | none => ST.SES_NOMOVE)
    else ST.OK

/-- The next first-class or second-class revive of a slot kind that can start: Sectors round-robin from `rr`, each first
in first out (R106). [DEDUCED: log entry 23] -/
def Dev.nextRevive (k : SlotKind) (first : Bool) (rr : Nat) (d : Dev) : Option Nat :=
  let able := d.ses.ops.filter (fun e => e.2.opcode == 0x22 && e.2.slot == k && e.2.firstClass == first && d.startable e.1 e.2)
  let sec (sid : Nat) : Nat := match d.buoy sid with | some b => (b.sector + 16 - rr % 16) % 16 | none => 16
  (able.foldl (fun best e =>
    match best with
    | none => some e
    | some b => if sec e.1 < sec b.1 ∨ (sec e.1 = sec b.1 ∧ e.2.arrived < b.2.arrived) then some e else some b) none).map (·.1)

/-- The next park or move of a slot kind (R106). [DEDUCED: log entry 23] -/
def Dev.nextPark (k : SlotKind) (d : Dev) : Option Nat :=
  ((d.ses.ops.filter (fun e => e.2.opcode != 0x22 && e.2.slot == k && d.startable e.1 e.2)).foldl (fun best e =>
    match best with
    | none => some e
    | some b => if e.2.arrived < b.2.arrived then some e else some b) none).map (·.1)

/-- The waiting work of a kind that starts next: first-class revives, the park list, second-class revives (R106). [DEDUCED: log entry 23] -/
def Dev.nextWork (k : SlotKind) (d : Dev) : Option Nat :=
  match d.nextRevive k true d.ses.rr1 with
  | some s => some s
  | none => match d.nextPark k with
    | some s => some s
    | none => d.nextRevive k false d.ses.rr2

/-- Move the round-robin pointer past the Sector just served. [DEDUCED: log entry 23] -/
def Dev.turnRr (sid : Nat) (d : Dev) : Dev :=
  match d.op sid, d.buoy sid with
  | some o, some b =>
    if o.opcode == 0x22 then
      (if o.firstClass then { d with ses := { d.ses with rr1 := (b.sector + 1) % 16 } } else { d with ses := { d.ses with rr2 := (b.sector + 1) % 16 } })
    else d
  | _, _ => d

/-- Start waiting work of a kind while slots are free (R106); `fuel` bounds the loop. -/
def Dev.admitKind (k : SlotKind) : Nat → Dev → Dev
  | 0, d => d
  | fuel + 1, d =>
    match d.nextWork k with
    | some sid => Dev.admitKind k fuel ((d.turnRr sid).startOp sid)
    | none => d

/-! ### The work of a command on a chip (R94 step 3) -/

/-- The coded copy after a park: the one just written, with the session as it was; or none where two members failed; the previous one where
none was written (R103, R360). [DEDUCED: log entry 26] -/
def Dev.parkCopies (b : Buoy) (m : Moor) (d : Dev) : Moor :=
  match Tab.look b.sid d.pool.coded with
  | some { outcome := some true, offset := o, slice := n, .. } =>
    { m with coded := some { m.asCopy b with root := Loc.none_, ctrlLoc := Loc.none_, recLoc := Loc.none_, statLoc := Loc.none_, leafLocs := [], offset := o, slice := n } }
  | some { outcome := some false, .. } => { m with coded := none }
  | _ => m

/-- Write back the Buoy and Mooring of a session with its new places; root and CTRL are rewritten (R53, R63). -/
def Dev.putSession (sid : Nat) (b : Buoy) (m : Moor) (d : Dev) : Dev :=
  let d := (d.locsUpd sid (fun _ => b)).moorUpd sid (fun _ => m)
  (d.ctrlUpd sid id).rootUpd sid id

/-- A session's objects at the places of a plan; what they leave is free at the next boundary (R62, R99, R100). -/
def movePlan (plan : List Spot) (b : Buoy) (m : Moor) : Buoy × Moor :=
  let x := placeAll plan (b, m)
  (x.1, { x.2 with freeNext := m.freeNext ++ leftBehind plan b m })

/-- The tier-2 write-back of a warm park (R101, R102): the copy that a cold park would leave, where tier 2 has room for what it writes; a
failure leaves the retained copy as it was, no longer current. The copy's objects lie where its plan puts them. -/
def Dev.writeBack (ok : Bool) (same : Bool × Bool) (b : Buoy) (m : Moor) (d : Dev) : Moor :=
  let stale : Moor := match m.retained with | some c => { m with retained := some { c with current := false } } | none => m
  let kept := keptSpots same b m
  let objs := (coldObjs b m).filter (fun o => kept.all (fun s => s.obj != o))
  match d.planObjs b.sector m (fun _ => [2]) none objs [] with
  | some plan => if ok then (let x := placeAll (kept ++ plan) (b, m); { m with retained := some (x.2.asCopy x.1) }) else stale
  | none => stale

/-- PARK_WARM (R99, R102, R103): parts of tier 0 into tier 1, CTRL rewritten there; state PARKED_WARM. `same` says whether the bytes of REC
and STAT are those of the retained copy. -/
def Dev.workParkWarm (sid : Nat) (o : SesOp) (r : WorkResult) (same : Bool × Bool) (d : Dev) : Dev :=
  match d.buoy sid, d.moor sid with
  | some b, some m =>
    let x := movePlan o.plan b m
    let m := d.parkCopies x.1 x.2
    let m := if d.get Reg.SES_MOV_CFG.warm_writeback == 1 then d.writeBack r.writeBackOk same x.1 m
      else match m.retained with | some c => { m with retained := some { c with current := c.current && c.ctx == b.ctx } } | none => m
    let m := if d.get Reg.SES_MOV_CFG.retain_cold == 0 && d.get Reg.SES_MOV_CFG.warm_writeback == 0 then { m with retained := none } else m
    (d.putSession sid x.1 m).transition sid 4
  | _, _ => d

/-- PARK_COLD, or a warm park gone cold (R96, R100, R101): everything private into tier 2, what the retained copy holds keeping its place
there; state PARKED_COLD. -/
def Dev.workParkCold (sid : Nat) (o : SesOp) (same : Bool × Bool) (d : Dev) : Dev :=
  match d.buoy sid, d.moor sid with
  | some b, some m =>
    let kept := keptSpots same b m
    let x := movePlan (o.plan.filter (fun s => kept.all (fun k => k.obj != s.obj)) ++ kept) b m
    (d.putSession sid x.1 { d.parkCopies x.1 x.2 with retained := none }).transition sid 5
  | _, _ => d

/-- REVIVE (R104, R105): a warm session's CTRL into tier 0 when staging has room; a cold one's parts to the places planned, SES_ERR.tier0_short
being set where a Beacon session's pages did not fit. At HEAD the session becomes READY when a turn is pending, else WAITING (R87); the
length at which the revive committed is kept (R112). -/
def Dev.workRevive (sid : Nat) (o : SesOp) (d : Dev) : Dev :=
  match d.buoy sid, d.moor sid with
  | some b, some m =>
    let dest := if d.isHead && (d.turnOf sid).isSome then 2 else 3
    let m := { m with startCtx := b.ctx }
    if b.state = 4 then
      let plan := if o.plan.isEmpty && b.ctrlLoc.tier != 0 then (d.planObjs b.sector m (fun _ => [0]) none [.ctrl] []).getD [] else o.plan
      let x := movePlan plan b m
      let d := if plan.isEmpty && b.ctrlLoc.tier != 0 then d.flag Reg.SES_ERR.tier0_short else d
      (if plan.isEmpty then d.moorUpd sid (fun _ => x.2) else d.putSession sid x.1 x.2).transition sid dest
    else
      let x := movePlan o.plan b m
      let short := b.beacon && o.plan.any (fun s => (match s.obj with | .page _ _ => true | _ => false) && s.loc.tier == 1)
      let d := if short then d.flag Reg.SES_ERR.tier0_short else d
      let m' := { x.2 with freeNext := m.freeNext, retained := if d.get Reg.SES_MOV_CFG.retain_cold == 1 && b.kvRoot.tier == 2 then some (m.asCopy b) else none }
      (d.putSession sid x.1 m').transition sid dest
  | _, _ => d

/-- The chips of a group that a move goes to, position 0 first: its HEAD, which the command names, and the others, which it does not: they
are free values (unstated 64). [DESIGN CHOICE: log entry 27] -/
def moveChips (group head n : Nat) : List Nat := head :: (List.range (n - 1)).map (fun p => wrap 16 (Config.unstated 64 [group, p + 1]))

/-- The chip IDs of this group, position 0 first: HEAD's own; no register gives the others, which are free values (unstated 63). [DESIGN CHOICE: log entry 27] -/
def Dev.groupChips (d : Dev) : List Nat :=
  (List.range d.groupSize).map (fun p => if p = d.position then d.chipId else wrap 16 (Config.unstated 63 [d.groupId, p]))

/-- The move record that the source chip holds (R116, R117); only HEAD exports it, with the sequence number. [DESIGN CHOICE: log entry 27] -/
def Dev.makeRecord (sid seq : Nat) (dig : DigestEntry) (b : Buoy) (m : Moor) (d : Dev) : MoveRecord :=
  { groupSize := d.groupSize, sid := sid, modelRevision := m.modelRevision, claim := 0, claimGroup := 0,
    fromState := b.state, gen := b.gen, ctx := b.ctx, seq := seq, sourceGroup := d.groupId, sourceChip := d.chipId,
    chipIds := d.groupChips, digest := dig }

/-- The number of the next extent and its generation: the lowest number that no extent and no index holds (R352, R358). -/
def Dev.extentNext (d : Dev) : Option (Nat × Nat) :=
  let held := d.pool.extents.filter (fun e => e.2.live || d.idx.idx.any (fun x => x.2.base == poolAddr e.1 0))
  (Tab.firstFree held 0 (min 65536 (held.length + 1))).map (fun k => (k, match Tab.look k d.pool.extents with | some x => wrap 16 (x.gen + 1) | none => 0))

/-- Create a window extent of a move's export for the chips `peers` of group `host` (R116, R352): `record` for the move record,
whose grant also carries the write right of R119's compare. [DESIGN CHOICE: log entry 27] -/
def Dev.exportWindow (sid host : Nat) (peers : List Nat) (bytes : Nat) (record : Bool) (d : Dev) : Dev :=
  match d.extentNext with
  | none => d
  | some (k, g) =>
    let x : Extent := { gen := g, live := true, host := host, tier := 1, bytes := bytes, publishable := false, version := 0, half := 0,
                        grants := peers.map (fun c => ⟨c, if record then 3 else 1, false, 0, []⟩), window := some sid, record := record, staged := [],
                        windowEnd := none, oldWriter := none }
    { d with pool := { d.pool with extents := Tab.put k x d.pool.extents } }

/-- The geometry that a session's export shows (R115, R118): its Mooring's and its Sector's layer slots. -/
def Dev.geometryOf (b : Buoy) (d : Dev) : Geometry :=
  match d.activeImg b.sector with | some i => imgGeometry i | none => ⟨0, 0, 0, 0, 0, []⟩

/-- MOVE_OUT (R116): tier-0 parts into tier 1, the export made with its manifest, state MOVING with busy clear; HEAD exports the record. [DESIGN CHOICE: log entry 27] -/
def Dev.workMoveOut (sid : Nat) (o : SesOp) (mem : List Host.Cell) (d : Dev) : Dev :=
  match d.buoyAt sid, d.moor sid with
  | some (i, b), some m =>
    let seq := if d.isHead then wrap 32 (d.ses.moveSeq + 1) else 0
    let dig : DigestEntry := if d.isHead then Tab.getD i ⟨[], [], 0, false⟩ d.ses.digests else ⟨[], [], 0, false⟩
    let d : Dev := { d with ses := { d.ses with moveSeq := if d.isHead then seq else d.ses.moveSeq, records := Tab.put sid (d.makeRecord sid seq dig b m) d.ses.records } }
    let p := movePlan o.plan b m
    let peers := moveChips o.cmd.peerGroup o.cmd.peerChip d.groupSize
    let d := d.exportWindow sid o.cmd.peerGroup peers (ceilDiv (exportImage d.position (d.geometryOf p.1) p.1 p.2 mem).length 65536 * 65536) false
    let d := if d.isHead then d.exportWindow sid o.cmd.peerGroup peers 65536 true else d
    (d.putSession sid p.1 p.2).transition sid 6
  | _, _ => d

/-- Revocation of a move's exports begins, with the default drain (R120, R358). [DESIGN CHOICE: log entry 27] -/
def Dev.revokeExports (sid : Nat) (d : Dev) : Dev :=
  { d with pool := { d.pool with extents := Tab.mapv (fun _ x =>
      if x.window == some sid then { x with grants := x.grants.map (fun g => { g with draining := true, drainEnd := d.now + us (d.get Reg.POOL_CFG.drain_us) }) } else x) d.pool.extents } }

/-- The device without the session's move record. -/
def Dev.recordDel (sid : Nat) (d : Dev) : Dev := { d with ses := { d.ses with records := Tab.del sid d.ses.records } }

/-- MOVE_COMMIT (R120): REMOTE, naming the destination; parts freed; exports revoked. -/
def Dev.workMoveCommit (sid : Nat) (destGroup destChip : Nat) (d : Dev) : Dev :=
  ((((d.freeParts sid).buoyUpd sid (fun b => { b with remGroup := destGroup, remChip := destChip })).revokeExports sid).recordDel sid).transition sid 7

/-- MOVE_ABORT (R120): back to the state the move left; exports revoked. [DEDUCED: log entry 22] -/
def Dev.workMoveAbort (sid : Nat) (d : Dev) : Dev :=
  let back := match Tab.look sid d.ses.records with | some r => r.fromState | none => 3
  ((d.revokeExports sid).recordDel sid).transition sid back

/-- DROP (R122): parts, copies and counts released, the Buoy zeroed, the Locator entry invalidated. -/
def Dev.workDrop (sid : Nat) (d : Dev) : Dev := ((d.releaseShared sid).recordDel sid).removeSession sid

/-- MOVE_IN's GO (R119 step 3): the objects are fetched and placed, shared references resolved, the adapter placed under
a new handle; the Buoy takes the source's fields. It stays MOVING until FINAL. A page whose shared entry went since PREPARE takes the
first free place. -/
def Dev.workMoveIn (sid : Nat) (o : SesOp) (d : Dev) : Dev :=
  match d.buoy sid, o.inbound with
  | some b, some x =>
    let rs := resolveShared b.sector (fun k => d.sharedAt b.sector k) x.pages d.ses.sharing
    let m := inboundMoor x rs.1
    let h := (Tab.firstFree d.ses.adapters 1 (d.ses.adapters.length + 2)).getD 1
    let b : Buoy := { inboundLocs x b with account := x.buoy.account, vocab := x.buoy.vocab, grammarId := x.buoy.grammarId, grammarOn := x.buoy.grammarOn }
    let b : Buoy := { b with refine := x.buoy.refine, ctx := x.buoy.ctx, adapterRank := x.buoy.adapterRank, sampler := x.buoy.sampler, gen := x.buoy.gen }
    let b : Buoy := { b with toolSeq := x.buoy.toolSeq, toolPending := x.buoy.toolPending, waitSince := x.buoy.waitSince, beacon := false }
    let b : Buoy := { b with adapterRef := if x.adapter.isSome then h else 0 }
    let late := (objsIn (fun _ => true) b m).filter (fun ob => o.plan.all (fun s => s.obj != ob))
    let plan := o.plan ++ ((d.planObjs b.sector m (fun _ => [if o.cmd.cold then 2 else 1]) none late []).getD [])
    let p := placeAll plan (b, m)
    let d : Dev := { d with ses := { d.ses with sharing := rs.2.1, adapters := if x.adapter.isSome then Tab.put h (b.sector, 1) d.ses.adapters else d.ses.adapters } }
    let d := d.bump Reg.SES_DEDUP_HIT.count rs.2.2
    (d.locsUpd sid (fun _ => p.1)).moorUpd sid (fun _ => p.2)
  | _, _ => d

/-- The chip rebuilds a session's parts in tier 1 from a copy (R107, R112, R114): its pages, control block, REC and STAT as they were then;
shared pages stay references; the Buoy takes the copy's context length and one more generation, and HEAD's digest entry is invalid (R209).
Objects that `plan` gives a place in tier 1 take it. What the session had is given up at the next boundary. False where tier 1 has no
room. [DEDUCED: log entry 26] -/
def Dev.rebuild (sid : Nat) (c : CopyRec) (plan : List Spot) (d : Dev) : Bool × Dev :=
  match d.buoyAt sid, d.moor sid with
  | some (i, b), some m =>
    let m' := { m with pages := c.pages, ctrl := c.ctrl, recUnits := c.recUnits, statUnits := c.statUnits, prov := [], migrating := [], abandons := [], failedPage := none,
                       leafLocs := ((c.pages.map (fun p => leafKey p.stream (p.ordinal / 512))).eraseDups).map (fun k => (k, ⟨0, 0⟩)) }
    let b' := { b with ctx := c.ctx, kvRoot := ⟨0, 0⟩, ctrlLoc := ⟨0, 0⟩, recLoc := if c.recUnits = 0 then Loc.none_ else ⟨0, 0⟩,
                       statLoc := if c.statUnits = 0 then Loc.none_ else ⟨0, 0⟩, gen := wrap 16 (b.gen + 1) }
    let mine := plan.filter (fun s => s.loc.tier == 1)
    match d.planObjs b.sector m' (fun _ => [1]) none ((objsIn (fun _ => true) b' m').filter (fun o => mine.all (fun s => s.obj != o))) [] with
    | some more =>
      let x := placeAll (mine ++ more) (b', m')
      let keep := (x.2.pages.filter (·.shared)).map (fun p => p.key)
      let lost := m.pages.filter (fun p => p.shared && !keep.contains p.key)
      let d := d.putSession sid x.1 { x.2 with freeNext := m.freeNext ++ (partLocs b m).filter (fun l => l.1.tier != 3) }
      (true, { d with ses := { d.ses with digests := Tab.upd i (fun e => { e with valid := false }) d.ses.digests,
                                          sharing := lost.foldl (fun t p => shareDrop b.sector p.key t) d.ses.sharing } })
    | none => (false, d)
  | _, _ => (false, d)

/-- Are the bytes of REC and of STAT those that the retained copy holds (R101)? -/
def Dev.partsSame (sid : Nat) (mem : List Host.Cell) (d : Dev) : Bool × Bool :=
  match d.buoy sid, d.moor sid with
  | some b, some m =>
    (match m.retained with
     | some r =>
       (Mem.reads (flatLoc b.sector b.recLoc) (4096 * m.recUnits) mem == Mem.reads (flatLoc b.sector r.recLoc) (4096 * m.recUnits) mem,
        Mem.reads (flatLoc b.sector b.statLoc) (4096 * m.statUnits) mem == Mem.reads (flatLoc b.sector r.statLoc) (4096 * m.statUnits) mem)
     | none => (false, false))
  | _, _ => (false, false)

/-- The chip's work for a command after GO, ending with its own Buoy commit, busy clear (R94, R116). -/
def Dev.commitWork (sid : Nat) (o : SesOp) (r : WorkResult) (mem : List Host.Cell) (destGroup destChip : Nat) (d : Dev) : Dev :=
  let d := match o.opcode with
    | 0x20 => if o.coldFallback then d.workParkCold sid o (d.partsSame sid mem) else d.workParkWarm sid o r (d.partsSame sid mem)
    | 0x21 => d.workParkCold sid o (d.partsSame sid mem)
    | 0x22 => d.workRevive sid o
    | 0x23 => d.workMoveOut sid o mem
    | 0x24 => d.workMoveIn sid o
    | 0x25 => d.workMoveCommit sid destGroup destChip
    | 0x26 => d.workMoveAbort sid
    | 0x27 => d.workDrop sid
    | _ => d
  if o.opcode = 0x24 then d else d.buoyUpd sid (fun b => { b with busy := false, pendingOp := 0 })

end Sys2Proof.Machine
end

