-- ==== Sys2Proof/Machine/CkptOps.lean ====
section
/-!
DEFINITION. Machine/CkptOps.lean: the quiescing of a checkpoint and the start of its cut, which session commands and steps meet
(R395, R398 to R401).
-/
namespace Sys2Proof.Machine

/-- A Sector's checkpoint seed of a domain is installed (R398, R465). -/
def Dev.hasSeed (domain n : Nat) (d : Dev) : Bool := Tab.has (domain * 16 + n) d.sec.seeds

/-- Sectors of a mask. -/
def sectorsOf (mask : Nat) : List Nat := (List.range 16).filter (fun n => mask.testBit n)

/-- Seeds for the domain and every covered Sector (R398). -/
def Dev.seedsOk (domain mask : Nat) (d : Dev) : Bool := (sectorsOf mask).all (fun n => d.hasSeed domain n)

/-- The domain's ID. -/
def Dev.domainId (d : Dev) : Nat := d.get Reg.CKPT_DOMAIN.domain_id

/-- Peers in use: group and chip (R395). -/
def Dev.ckptPeers (d : Dev) : List (Nat × Nat) :=
  ((List.range 3).filter (fun k => d.get (Reg.CKPT_PEER.valid k) == 1)).map (fun k => (d.get (Reg.CKPT_PEER.group_id k), d.get (Reg.CKPT_PEER.chip_id k)))

/-- The coordinator: HEAD or SOLO of the group with the lowest group ID of the domain (R395). -/
def Dev.isCoordinator (d : Dev) : Bool := d.isHead && d.ckptPeers.all (fun p => decide (d.groupId < p.1))

/-- The chip of the coordinator, as this HEAD's peers name it. -/
def Dev.coordinatorChip (d : Dev) : Nat :=
  match d.ckptPeers.foldl (fun w p => match w with | some q => if p.1 < q.1 then some p else some q | none => some p) (none : Option (Nat × Nat)) with
  | some p => p.2
  | none => d.chipId

/-- The device with the run changed. -/
def Dev.runUpd (f : CkptRun → CkptRun) (d : Dev) : Dev := { d with ckpt := { d.ckpt with run := d.ckpt.run.map f } }

/-- A message of this group about the run under way (R399). -/
def Dev.ckptMk (kind : Nat) (r : CkptRun) (status : Nat) (d : Dev) : CkptMsg :=
  { kind := kind, full := r.full, sectors := r.sectors, groupId := d.groupId, status := status, seq := r.seq, failPos := 0, entries := 0 }

/-- HEAD sends a message down its ring, to be resent until it comes back (R399). -/
def Dev.sendRing (m : CkptMsg) (d : Dev) : Dev :=
  (({ d with ckpt := { d.ckpt with passMsg := some (m, d.now) } } : Dev)).emit (.ckptMsg none m)

/-- A message goes to every peer HEAD. -/
def Dev.sendPeers (m : CkptMsg) (d : Dev) : Dev := d.ckptPeers.foldl (fun d p => d.emit (.ckptMsg (some p.2) m)) d

/-- A run as it begins on a chip. -/
def CkptRun.start (seq sectors : Nat) (full coord : Bool) (ent : Option Ent) (now : Nat) : CkptRun :=
  { seq := seq, sectors := sectors, full := full, coord := coord, ent := ent, startedAt := now, ringBack := false, status := ST.OK, failPos := 0,
    readySent := false, ready := [], cutDaymark := 0, cutting := false, batches := [], cutSteps := [], cutDone := false, epoch := 0,
    fulls := [], pend := [], copied := [], shards := none, listsSince := none, lists := [], reported := false, chips := [], entries := [], groups := [], blocks := [] }

/-- Does a Sector take part in the cut's steps: it runs an image and is not FAULTED? -/
def Dev.stepsRun (n : Nat) (d : Dev) : Bool := d.present n && (d.secImg n).active.isSome && !(d.secImg n).faulted

/-- Interleaved batches of a Sector, as Sector × 256 + batch. -/
def Dev.sectorBatches (n : Nat) (d : Dev) : List Nat := (List.range (d.get (Reg.SES_SRV_BATCH.batches_m1 n) + 1)).map (fun b => n * 256 + b)

/-- HEAD begins the cut of its group: every batch of a covered Sector owes a cut step, and CUT goes down the ring (R401). [DEDUCED: log entry 63] -/
def Dev.beginCut (d : Dev) : Dev :=
  match d.ckpt.run with
  | none => d
  | some r =>
    if r.cutting then d
    else
      let owed := ((sectorsOf r.sectors).filter (fun n => d.stepsRun n)).flatMap (fun n => d.sectorBatches n)
      ((d.runUpd (fun r => { r with cutting := true, batches := owed })).put Reg.CKPT_STATUS.phase 2).sendRing (d.ckptMk 0x22 r ST.OK)

/-- The coordinator holds READY from every group: CUT goes out (R400, R401). -/
def Dev.sendCut (d : Dev) : Dev :=
  match d.ckpt.run with
  | none => d
  | some r => ((d.runUpd (fun r => { r with cutDaymark := d.daymark })).sendPeers (d.ckptMk 0x22 r ST.OK)).beginCut

/-- Peer entries that waited for the end of the checkpoint take their place (R511). -/
def Dev.settlePeers (d : Dev) : Dev := { d with peers := d.peersNext.foldl (fun t e => Tab.put e.1 e.2 t) d.peers, peersNext := [] }

/-- The run of a checkpoint ends on this chip without a commit: what was captured goes back to the active sets (R403). [DESIGN CHOICE: log entry 107] -/
def Dev.dropRun (status : Nat) (d : Dev) : Dev :=
  match d.ckpt.run with
  | none => d
  | some _ =>
    let d : Dev := { d with ckpt := { d.ckpt with run := none, touched := d.ckpt.capture ++ d.ckpt.touched.filter (fun x => !d.ckpt.capture.contains x), capture := [],
                                                  news := d.ckpt.newsCapture ++ d.ckpt.news.filter (fun x => !d.ckpt.newsCapture.contains x), newsCapture := [], aside := [] } }
    ((d.settlePeers.flag Reg.CKPT_ERR.abandoned).put Reg.CKPT_STATUS.phase 0).put Reg.CKPT_STATUS.status status

/-- The coordinator abandons: ABANDON goes to every chip, and the command completes with the failure (R400, R412). -/
def Dev.abandonAll (status : Nat) (d : Dev) : Dev :=
  match d.ckpt.run with
  | none => d
  | some r =>
    let m := d.ckptMk 0x25 r status
    (((d.dropRun status).sendPeers m).sendRing m).completeOpt r.ent status 0

/-- A group is ready at the coordinator (R398, R400). -/
def Dev.groupReady (g status : Nat) (d : Dev) : Dev :=
  match d.ckpt.run with
  | none => d
  | some r =>
    if r.cutting then d
    else if status ≠ ST.OK then d.abandonAll status
    else
      let d := d.runUpd (fun r => { r with ready := if r.ready.contains g then r.ready else g :: r.ready })
      match d.ckpt.run with
      | some r => if (d.groupId :: d.ckptPeers.map (·.1)).all (fun x => r.ready.contains x) then d.sendCut else d
      | none => d

/-- Session commands of covered Sectors past GO (R400). [DEDUCED: log entry 63] -/
def Dev.pastGo (mask : Nat) (d : Dev) : Bool :=
  d.ses.ops.any (fun e => (e.2.pass == .go || e.2.pass == .done || e.2.pass == .lose || e.2.pass == .final) &&
    (match d.buoy e.1 with | some b => mask.testBit b.sector | none => match d.rangeSector e.1 with | some n => mask.testBit n | none => false))

/-- HEAD sends READY once its ring has brought QUIESCE back and every command past GO has ended (R400). -/
def Dev.readyCheck (d : Dev) : Dev :=
  match d.ckpt.run with
  | none => d
  | some r =>
    if d.isHead && r.ringBack && !r.readySent && (r.status != ST.OK || !d.pastGo r.sectors) then
      let d := d.runUpd (fun r => { r with readySent := true })
      if r.coord then d.groupReady d.groupId r.status
      else d.emit (.ckptMsg (some d.coordinatorChip) { d.ckptMk 0x21 r r.status with failPos := r.failPos })
    else d

end Sys2Proof.Machine
end

