-- ==== Sys2Proof/Machine/TurnOps.lean ====
section
/-!
DEFINITION. Machine/TurnOps.lean: the ends of turns and of session operations at HEAD, turns held on an operation, and
the park policy (R47, R206, R207, R231 to R233).
-/
namespace Sys2Proof.Machine

/-- A session command that Keeper firmware issues internally (R89). -/
def internalCmd (sid : Nat) : SesCmd :=
  { hdr := ⟨.internal, 0, false, 0⟩, sid := sid, explicit := false, prefetch := false, checkGen := false, cold := false,
    expectGen := 0, placement := 0, handleGroup := 0, handleChip := 0, handleSeq := 0, peerGroup := 0, peerChip := 0 }

/-- Issue an internal command: the Buoy's check, the checks of R90 and the admission of R106. Answers its status. -/
def Dev.issue (op sid : Nat) (d : Dev) : Nat × Dev :=
  let d := (d.readBuoy sid).2
  let st := d.checkCmd op (internalCmd sid) none
  if st = ST.OK then
    let r := d.accept op (internalCmd sid) none true
    (if r.1 then ST.OK else ST.SES_REVFULL, r.2)
  else (st, d)

/-! ### The park policy (R232, R233) -/

/-- The session's armed park policy, set. -/
def Dev.armPut (sid : Nat) (a : ParkArm) (d : Dev) : Dev := { d with srv := { d.srv with arms := Tab.put sid a d.srv.arms } }

/-- No park policy is armed for the session. -/
def Dev.armDel (sid : Nat) (d : Dev) : Dev := { d with srv := { d.srv with arms := Tab.del sid d.srv.arms } }

/-- A park falls due, or a hint issues it: at once, or as soon as busy clears; a refused one leaves the timed policy of
hint 0, its wait counted from the refusal (R232). [DEDUCED: log entry 44] -/
def Dev.parkNow (op sid : Nat) (d : Dev) : Dev :=
  match d.buoy sid with
  | none => d
  | some b =>
    if d.busyNow sid then
      { d with srv := { d.srv with arms := Tab.put sid { (Tab.getD sid ⟨0, d.daymark, 0⟩ d.srv.arms) with due := op } d.srv.arms } }
    else if acceptsState op b.state then
      let r := d.issue op sid
      if r.1 = ST.OK then r.2 else r.2.armPut sid ⟨0, d.daymark, 0⟩
    else d

/-- Arm the policy of a park hint (R232). [DEDUCED: log entry 44] -/
def Dev.armPolicy (sid hint since : Nat) (d : Dev) : Dev :=
  let d := d.armPut sid ⟨hint, since, 0⟩
  match hint with
  | 2 => d.parkNow 0x20 sid
  | 3 => d.parkNow 0x21 sid
  | _ => d

/-- A session has come to WAITING at the end of a turn: its policy is armed when its leave has returned, at once where no
leave is out (R232; a hint of 4 to 7 stands for 0 to 3 waiting for the leave). [DEDUCED: log entry 44] -/
def Dev.armAfterTurn (sid hint : Nat) (d : Dev) : Dev :=
  if d.isHead then
    if d.leaveOut sid then d.armPut sid ⟨hint + 4, d.daymark, 0⟩ else d.armPolicy sid hint d.daymark
  else d

/-- The TOKENS entry of a leave has returned: the policy that waited for it is armed while HEAD still holds the session
in WAITING (R232). [DEDUCED: log entry 44] -/
def Dev.armOnLeave (sid : Nat) (d : Dev) : Dev :=
  match Tab.look sid d.srv.arms, d.buoy sid with
  | some a, some b => if a.hint ≥ 4 && b.state == 3 && (d.turnOf sid).isNone then d.armPolicy sid (a.hint - 4) a.since else d
  | _, _ => d

/-- Private tier-1 units that the cold parks issued under R233 will free. -/
def Dev.pressureFreeing (n : Nat) (d : Dev) : Nat :=
  (d.ses.pressure.map (fun sid =>
    match d.buoy sid, d.moor sid with
    | some b, some m => if b.sector == n then partUnits 1 b m else 0
    | _, _ => 0)).sum

/-- The PARKED_WARM session of a Sector with the oldest wait_since that no operation holds. -/
def Dev.oldestWarm (n : Nat) (d : Dev) : Option Nat :=
  ((d.ses.buoys.filter (fun e => e.2.sector == n && e.2.state == 4 && !d.busyNow e.2.sid)).foldl (fun (best : Option Buoy) e =>
    match best with
    | none => some e.2
    | some b => if e.2.waitSince < b.waitSince then some e.2 else some b) none).map (·.sid)

/-- Issue cold parks until use falls to the mark; `fuel` bounds the loop. [DEDUCED: log entry 44] -/
def Dev.pressureLoop (n pct : Nat) : Nat → Dev → Dev
  | 0, d => d
  | fuel + 1, d =>
    if (d.tierUsed 1 n - d.pressureFreeing n) * 100 ≤ (pct - 5) * d.tierCap 1 n then d
    else
      match d.oldestWarm n with
      | none => d
      | some sid =>
        let r := d.issue 0x21 sid
        if r.1 = ST.OK then Dev.pressureLoop n pct fuel { r.2 with ses := { r.2.ses with pressure := sid :: r.2.ses.pressure } }
        else r.2

/-- Check a Sector's tier-1 use when a park or revive of it completes (R233). -/
def Dev.pressureCheck (n : Nat) (d : Dev) : Dev :=
  let pct := d.get (Reg.SES_SRV_PARK.pressure_pct n)
  if pct = 0 then d
  else if d.tierUsed 1 n * 100 > pct * d.tierCap 1 n then Dev.pressureLoop n pct d.ses.buoys.length d
  else d

/-! ### Turns -/

/-- End a turn that holds no row of a running step: a READY session goes to WAITING (R46), and its park policy is armed
(R232). [DEDUCED: log entry 38] -/
def Dev.endTurn (sid reason status : Nat) (d : Dev) : Dev :=
  match d.turnOf sid, d.buoy sid with
  | some t, some b =>
    let d := d.closeTurn sid reason status
    if b.state = 2 then (d.transition sid 3).armAfterTurn sid (t.entry.parkHint % 4) else d
  | some _, none => d.closeTurn sid reason status
  | none, _ => d

/-- The token log of a turn keeps room in tier 1 for the 4-byte IDs it holds, up to 1,048,576; where the Sector's range has none, it
keeps what it has (R111). [DESIGN CHOICE: log entry 109] -/
def Dev.growLog (sid : Nat) (d : Dev) : Dev :=
  match d.turnOf sid, d.buoy sid, d.moor sid with
  | some t, some b, some m =>
    let need := max 1 (ceilDiv (4 * min 1048576 t.log.length) 4096)
    if need ≤ m.logUnits then d
    else match d.pickUnit 1 b.sector need false false [] with
      | some u => d.moorUpd sid (fun m => { m with logLoc := ⟨1, u⟩, logUnits := need })
      | none => d
  | _, _, _ => d

/-- A turn's session is READY: the turn is QUEUED from now (R207, R213); the context length it starts from, or that its revive committed,
bounds the copies that may serve it (R112), and its token log opens (R111). -/
def Dev.queueTurn (sid : Nat) (d : Dev) : Dev :=
  (((d.turnUpd sid (fun t => { t with st := .queued, readyAt := d.daymark })).armDel sid).moorUpd sid (fun m =>
    { m with startCtx := match d.buoy sid with | some b => b.ctx | none => 0 })).growLog sid

/-- HEAD starts an internal revive for a turn (R47, R106). -/
def Dev.startRevive (sid : Nat) (d : Dev) : Dev :=
  let r := d.issue 0x22 sid
  if r.1 = ST.OK then r.2.turnUpd sid (fun t => { t with st := TurnSt.reviving }) else r.2.endTurn sid 7 r.1

/-- The operation or move that held a turn has ended: the turn goes on from the state it left (R47, R207). -/
def Dev.resumeTurn (sid : Nat) (d : Dev) : Dev :=
  match d.turnOf sid with
  | none => d
  | some t =>
    if (t.st == .held || t.st == .reviving) && !d.busyNow sid then
      match d.buoy sid with
      | none =>
        match d.rangeSector sid with
        | some n => if d.buoyRoom n then (d.createSession sid n (2 ^ 24)).queueTurn sid else d.endTurn sid 7 ST.SES_NOBUOY
        | none => d.endTurn sid 7 ST.SES_UNKNOWN
      | some b =>
        match b.state with
        | 2 => d.queueTurn sid
        | 3 => (d.transition sid 2).queueTurn sid
        | 4 => d.startRevive sid
        | 5 => d.startRevive sid
        | 7 => d.closeTurnRes sid ST.SES_REMOTE (fun _ => b.remGroup + b.remChip * 0x10000)
        | 8 => d.endTurn sid 7 ST.SES_LOST
        | _ => d
    else d

/-! ### The end of an operation at HEAD -/

/-- Revives count and their longest time from PREPARE to the return of DONE is kept, in µs of the Daymark (R127); revives and parks are events (R540). -/
def Dev.countRevive (n : Nat) (o : SesOp) (d : Dev) : Dev :=
  if o.opcode = 0x20 ∨ o.opcode = 0x21 then d.event none (keeperEvent 4 2 n d.keeperNo)
  else if o.opcode = 0x22 then
    let d := if o.slot == .warm then (d.bump Reg.SES_REV_WARM.value 1).event none (keeperEvent 4 0 n d.keeperNo)
      else (d.bump Reg.SES_REV_COLD.value 1).event none (keeperEvent 4 1 n d.keeperNo)
    d.put Reg.SES_REV_MAXLAT.value (max (d.get Reg.SES_REV_MAXLAT.value) (min ((d.daymark - o.prepAt) / 1000) 0xFFFFFFFF))
  else d

/-- An operation ends at HEAD: busy clears, its slot and reservations free, its command completes unless R98 completed it
already; a held turn goes on or ends with the failure of its revive; a park that fell due is issued; tier-1 pressure is
checked (R94, R106, R107, R232, R233). -/
def Dev.finishOp (sid status result : Nat) (d : Dev) : Dev :=
  match d.op sid with
  | none => d
  | some o =>
    let d := (d.opDel sid).buoyUpd sid (fun b => { b with busy := false, pendingOp := 0 })
    let d := if o.coordFailed then d else d.completeOpt o.ent status result
    let d := if status = ST.OK then d.countRevive (match d.buoy sid with | some b => b.sector | none => 16) o else d
    let d : Dev := { d with ses := { d.ses with pressure := d.ses.pressure.filter (fun s => s != sid) } }
    let d : Dev := match d.buoy sid with
      | none => d.armDel sid
      | some b =>
        if o.ent.isNone && (o.opcode == 0x20 || o.opcode == 0x21) && status != ST.OK && (b.state == 3 || b.state == 4)
        then d.armPut sid ⟨0, d.daymark, 0⟩ else d
    let d : Dev := match d.turnOf sid with
      | some t => if (t.st == .reviving || (t.st == .held && o.opcode == 0x22)) && status != ST.OK then d.endTurn sid 7 status else d.resumeTurn sid
      | none => d
    let d : Dev := match Tab.look sid d.srv.arms with
      | some a => if a.due != 0 && !d.busyNow sid then (d.armPut sid { a with due := 0 }).parkNow a.due sid else d
      | none => d
    let d : Dev := match d.buoy sid with
      | some b => if o.opcode = 0x20 ∨ o.opcode = 0x21 ∨ o.opcode = 0x22 then d.pressureCheck b.sector else d
      | none => d
    d.readyCheck

end Sys2Proof.Machine
end

