-- ==== Sys2Proof/Machine/SessionCmd.lean ====
section
/-!
DEFINITION. Machine/SessionCmd.lean: the session commands at HEAD (R87 to R92, R106, R119 step 1, R120), slot admission
and the timed parks.
-/
namespace Sys2Proof.Machine

/-- A session command other than MOVE_IN: HEAD only (R89); the checks of R90 in order, a Sector's command for an ID outside its range
reading no Buoy (R44); the claim for MOVE_COMMIT and MOVE_ABORT; then acceptance (R47, R106). -/
def Dev.sesCommand (op : Nat) (c : SesCmd) (d : Dev) : Dev :=
  d.admin c.hdr (fun e d =>
    if !d.isHead then d.complete e ST.SES_NOTHEAD 0
    else
      let outside := match d.entSector e with | some n => d.rangeSector c.sid != some n | none => false
      let d := if outside then d else (d.readBuoy c.sid).2
      let st := d.checkCmd op c (d.entSector e)
      let claim := match Tab.look c.sid d.ses.records with | some r => r.claim | none => 0
      if st ≠ ST.OK then d.complete e st 0
      else if op = 0x25 ∧ claim ≠ 1 then d.complete e ST.SES_BADSTATE 0
      else if op = 0x26 ∧ claim = 1 then d.complete e ST.SES_CLAIMED 0
      else
        let d : Dev := if op = 0x26 then
            { (d.flag Reg.SES_MOV_ERR.move_aborted) with ses := { d.ses with records := Tab.upd c.sid (fun r => { r with claim := 2 }) d.ses.records } }
          else d
        let r := d.accept op c (some e) (!c.prefetch)
        if r.1 then r.2 else r.2.complete e ST.SES_REVFULL 0)

/-- PARK_WARM (R99). -/
def execParkWarm (c : SesCmd) (s : State) : Host.Outcome State Fault Refusal := onServing (fun d => d.sesCommand 0x20 c) s
/-- PARK_COLD (R100). -/
def execParkCold (c : SesCmd) (s : State) : Host.Outcome State Fault Refusal := onServing (fun d => d.sesCommand 0x21 c) s
/-- REVIVE (R104, R105). -/
def execRevive (c : SesCmd) (s : State) : Host.Outcome State Fault Refusal := onServing (fun d => d.sesCommand 0x22 c) s
/-- MOVE_OUT (R116). -/
def execMoveOut (c : SesCmd) (s : State) : Host.Outcome State Fault Refusal := onServing (fun d => d.sesCommand 0x23 c) s
/-- MOVE_COMMIT (R120). -/
def execMoveCommit (c : SesCmd) (s : State) : Host.Outcome State Fault Refusal := onServing (fun d => d.sesCommand 0x25 c) s
/-- MOVE_ABORT (R120). -/
def execMoveAbort (c : SesCmd) (s : State) : Host.Outcome State Fault Refusal := onServing (fun d => d.sesCommand 0x26 c) s
/-- DROP (R122). -/
def execDrop (c : SesCmd) (s : State) : Host.Outcome State Fault Refusal := onServing (fun d => d.sesCommand 0x27 c) s

/-- The checks of step 1 of R119 on the move record, after those of R90; ST_OK when all pass. -/
def Dev.moveInRecord (c : SesCmd) (n : Nat) (record : Option MoveRecord) (d : Dev) : Nat :=
  match record with
  | none => ST.SES_NOMOVE
  | some r =>
    if r.sid ≠ c.sid ∨ r.seq ≠ c.handleSeq ∨ r.sourceGroup ≠ c.handleGroup ∨ r.sourceChip ≠ c.handleChip ∨
        c.peerGroup ≠ c.handleGroup ∨ c.peerChip ≠ c.handleChip then ST.SES_NOMOVE
    else if c.checkGen && c.expectGen != r.gen then ST.SES_GENMISMATCH
    else if r.groupSize ≠ d.groupSize ∨ (d.activeImg n).map (·.modelRevision) ≠ some r.modelRevision then ST.SES_MISMATCH
    else if r.claim = 2 then ST.SES_ABORTED
    else if r.claim = 1 then ST.SES_CLAIMED
    else ST.OK

/-- An inbound session's Buoy: MOVING, busy with a move in, allocated by this command (R47, R119 step 2). [DEDUCED: log entry 22] -/
def Dev.allocInbound (sid n pick : Nat) (d : Dev) : Dev :=
  (d.createBuoy sid n pick 6).buoyUpd sid (fun b => { b with busy := true, pendingOp := 5 })

/-- MOVE_IN at the destination HEAD (R119): on acceptance HEAD allocates its own Buoy. -/
def Dev.moveInCommand (c : SesCmd) (record : Option MoveRecord) (manifest : Option MoveManifest) (pick : Nat) (d : Dev) : Dev :=
  d.admin c.hdr (fun e d =>
    if !d.isHead then d.complete e ST.SES_NOTHEAD 0
    else
      match d.rangeSector c.sid with
      | none => d.complete e ST.SES_UNKNOWN 0
      | some n =>
        if (d.entSector e).isSome && d.entSector e != some n then d.complete e ST.SES_UNKNOWN 0
        else if (match d.buoy c.sid with | some b => (d.entSector e).isSome && b.sector != n | none => false) then d.complete e ST.SES_UNKNOWN 0
        else if d.busyNow c.sid then d.complete e ST.SES_BUSY 0
        else if (d.buoy c.sid).isSome then d.complete e ST.SES_BADSTATE 0
        else if c.explicit && placeTier c.placement != some (if c.cold then 2 else 1) then d.complete e ST.SES_PLACEMENT 0
        else
          let st := d.moveInRecord c n record
          if st ≠ ST.OK then d.complete e st 0
          else if !d.buoyRoom n then d.complete e ST.SES_NOBUOY 0
          else
            (((d.allocInbound c.sid n pick).acceptWith (fun o => { o with allocated := true, inbound := manifest, record := record }) 0x24 c (some e) false)).2)

/-- MOVE_IN (R119). -/
def execMoveIn (c : SesCmd) (record : Option MoveRecord) (manifest : Option MoveManifest) (buoy : Nat) (s : State) : Host.Outcome State Fault Refusal :=
  onServing (fun d => d.moveInCommand c record manifest buoy) s

/-- SESSION_SLOT_ADMIT (R106): waiting work of both kinds starts while slots are free. [DEDUCED: log entry 23] -/
def execSessionSlotAdmit (t : Nat) (s : State) : Host.Outcome State Fault Refusal :=
  onServing (fun d =>
    let d := d.advance t
    Dev.admitKind .warm d.ses.ops.length (Dev.admitKind .cold d.ses.ops.length d)) s

/-- WARM_PARK_TIMER (R232): warm_delay has passed since the session's wait began. [DEDUCED: log entry 12] -/
def execWarmParkTimer (sid t : Nat) (s : State) : Host.Outcome State Fault Refusal :=
  onServing (fun d =>
    let d := d.advance t
    match Tab.look sid d.srv.arms, d.buoy sid with
    | some a, some b =>
      let delay := d.get (Reg.SES_SRV_PARK.warm_delay b.sector)
      if d.isHead && a.hint == 0 && b.state == 3 && (d.turnOf sid).isNone && delay != 0xFFFF && decide (a.since + ms delay ≤ d.daymark)
      then d.parkNow 0x20 sid else d
    | _, _ => d) s

/-- Is the session's cold park due: its cold_delay units have passed since wait_since (R232)? [DEDUCED: log entry 44] -/
def Dev.coldDue (sid : Nat) (d : Dev) : Bool :=
  match Tab.look sid d.srv.arms, d.buoy sid with
  | some a, some b =>
    let delay := d.get (Reg.SES_SRV_PARK.cold_delay b.sector)
    a.hint == 0 && (b.state == 3 || b.state == 4) && (d.turnOf sid).isNone && delay != 0xFF && decide (delay ≤ d.dayUnits - b.waitSince)
  | _, _ => false

/-- COLD_PARK_CHECK (R232): at each change of Daymark bit 30. -/
def execColdParkCheck (t : Nat) (s : State) : Host.Outcome State Fault Refusal :=
  onServing (fun d =>
    let d := d.advance t
    if d.isHead then d.srv.arms.foldl (fun d e => if d.coldDue e.1 then d.parkNow 0x21 e.1 else d) d else d) s

end Sys2Proof.Machine
end

