-- ==== Sys2Proof/Machine/SessionMsg.lean ====
section
/-!
DEFINITION. Machine/SessionMsg.lean: the passes of session control messages round the ring and a chip's own work for them
(R93 to R98, R107, R110, R112 to R116, R119, R120, R122).
-/
namespace Sys2Proof.Machine

/-! ### Messages -/

/-- The key under which a message counts as handled (R97): sequence and kind, the two PREPAREs of R96 apart. -/
def msgMark (m : SesMsg) : Nat × Nat := (m.seq, m.kind + (if m.coldFallback && m.opcode == 0x20 then 16 else 0))

/-- The operation a message belongs to on this chip. -/
def Dev.opOf (m : SesMsg) (d : Dev) : Option SesOp :=
  match d.op m.sid with
  | some o => if o.seq = m.seq then some o else none
  | none => none

/-- The message with a chip's own status and units added: the first failure of the pass stays (R93). -/
def noteFail (st pos units : Nat) (m : SesMsg) : SesMsg :=
  { m with status := if m.status = 0 then st else m.status, failPos := if m.status = 0 ∧ st ≠ 0 then pos else m.failPos,
           units := wrap 32 (m.units + units) }

/-- Forward a message downstream and note it as handled; the operation remembers what it forwarded (R97). -/
def Dev.forward (m : SesMsg) (d : Dev) : Dev :=
  let d : Dev := { d with ses := { d.ses with handled := if d.ses.handled.contains (msgMark m) then d.ses.handled else msgMark m :: d.ses.handled } }
  (match d.opOf m with | some _ => d.opUpd m.sid (fun o => { o with msg := m }) | none => d).emit (.sesMsg m)

/-- A message handled before is forwarded again without repeating its work, as it was forwarded (R97). -/
def Dev.forwardAgain (m : SesMsg) (d : Dev) : Dev :=
  match d.opOf m with
  | some o => d.emit (.sesMsg (if msgMark o.msg = msgMark m then o.msg else m))
  | none => d.emit (.sesMsg m)

/-- Run a chip's part for a message not yet handled. -/
def Dev.onMsg (m : SesMsg) (work : Dev → Dev) (d : Dev) : Dev :=
  if d.ses.handled.contains (msgMark m) then d.forwardAgain m else work d

/-- The command as a message describes it (R93); for MOVE_IN cold_fallback carries flags.cold (a log entry). [DEDUCED: log entry 22] -/
def msgCmd (m : SesMsg) : SesCmd :=
  { internalCmd m.sid with explicit := m.explicit, cold := m.opcode == 0x24 && m.coldFallback, placement := m.aux,
                           handleGroup := m.aux % 0x10000, handleChip := m.aux / 0x10000 % 0x10000, handleSeq := m.aux / 2 ^ 32,
                           peerGroup := m.aux % 0x10000, peerChip := m.aux / 0x10000 % 0x10000 }

/-! ### PREPARE -/

/-- A chip's check of its own Buoy against PREPARE: the first failure (R94 step 1). [DEDUCED: log entry 21] -/
def Dev.prepareCheck (m : SesMsg) (d : Dev) : Nat :=
  match d.buoy m.sid with
  | none => ST.SES_BADSTATE
  | some b =>
    if !acceptsState m.opcode b.state then ST.SES_BADSTATE
    else if b.busy then ST.SES_BUSY
    else if b.gen ≠ m.gen then ST.SES_GENMISMATCH
    else ST.OK

/-- The operation of a chip other than HEAD. -/
def chipOp (m : SesMsg) (x : Option MoveManifest) (st now : Nat) : SesOp :=
  { SesOp.start m.opcode (msgCmd m) none (slotFor m.opcode st) now false with
    seq := m.seq, gen := m.gen, pass := .prepare, coldFallback := m.coldFallback, inbound := x, allocated := m.opcode == 0x24, msg := m }

/-- Reserve for the operation and forward PREPARE (R94, R96, R107). -/
def Dev.prepareReserve (m : SesMsg) (d : Dev) : Dev :=
  match d.op m.sid, d.buoy m.sid, d.moor m.sid with
  | some o, some b, some mo =>
    let o' := { o with coldFallback := m.coldFallback, plan := [] }
    let d := d.opUpd m.sid (fun _ => o')
    let r := d.prepareWork o' b mo
    (d.opUpd m.sid (fun o => { o with plan := r.2 })).forward (noteFail r.1 d.position (planUnits r.2) m)
  | _, _, _ => d.forward m

/-- PREPARE on a chip other than HEAD (R94, R119 step 2, R42). [DEDUCED: log entry 21] -/
def Dev.prepareChip (m : SesMsg) (x : Option MoveManifest) (pick : Nat) (d : Dev) : Dev :=
  d.onMsg m (fun d =>
    let d := (d.readBuoy m.sid).2
    match d.opOf m with
    | some _ => d.prepareReserve m
    | none =>
      if m.opcode = 0x24 then
        if (d.buoy m.sid).isSome then d.forward (noteFail ST.SES_BADSTATE d.position 0 m)
        else
          match d.rangeSector m.sid with
          | none => d.forward (noteFail ST.SES_UNKNOWN d.position 0 m)
          | some n =>
            if !d.buoyRoom n then d.forward (noteFail ST.SES_NOBUOY d.position 0 m)
            else
              let d := d.allocInbound m.sid n pick
              ({ d with ses := { d.ses with ops := Tab.put m.sid (chipOp m x 6 d.now) d.ses.ops } } : Dev).prepareReserve m
      else
        let st := d.prepareCheck m
        if st ≠ ST.OK then d.forward (noteFail st d.position 0 m)
        else
          let bst := match d.buoy m.sid with | some b => b.state | none => 0
          let d := d.buoyUpd m.sid (fun b => { b with busy := true, pendingOp := pendingCode m.opcode })
          ({ d with ses := { d.ses with ops := Tab.put m.sid (chipOp m none bst d.now) d.ses.ops } } : Dev).prepareReserve m)

/-- A checkpoint under way holds back GO for the Sector's commands: from QUIESCE to HEAD's cut (R400). -/
def Dev.quiescing (n : Nat) (d : Dev) : Bool := match d.ckpt.run with | some r => r.sectors.testBit n && !r.cutDone | none => false

/-- HEAD's own part of GO: its work begins (R94 step 3). While a checkpoint quiesces the Sector, the command waits with its PREPARE
returned (R400). -/
def Dev.sendGo (sid : Nat) (d : Dev) : Dev :=
  match d.op sid, d.buoy sid with
  | some o, some b =>
    if d.quiescing b.sector then d.opUpd sid (fun o => { o with returned := true })
    else
    let d := if o.coldFallback && o.opcode == 0x20 then d.flag Reg.SES_ERR.stack_short else d
    (d.sendPass sid .go (o.mkMsg sid 2 o.gen 0 0 0 (cmdAux o.cmd o.opcode))).opUpd sid (fun o => { o with working := true })
  | _, _ => d

/-- HEAD sends CANCEL and keeps the failure that its command will complete with (R94 step 2, R119); the pass starts with ST_OK (R93). -/
def Dev.sendCancel (sid st : Nat) (d : Dev) : Dev :=
  match d.op sid with
  | some o => (d.opUpd sid (fun o => { o with fail := st })).sendPass sid .cancel (o.mkMsg sid 4 o.gen ST.OK 0 0 o.msg.aux)
  | none => d

/-- PREPARE returns to HEAD: GO, the cold fallback, or CANCEL (R94 step 2, R96). -/
def Dev.prepareBack (m : SesMsg) (d : Dev) : Dev :=
  match d.opOf m with
  | some o =>
    if o.pass == .prepare && o.coldFallback == m.coldFallback then
      if m.status = ST.OK then d.sendGo m.sid
      else if m.status = ST.SES_NOSTACK ∧ o.opcode = 0x20 ∧ !o.coldFallback then
        (d.opUpd m.sid (fun o => { o with coldFallback := true, plan := [] })).sendPrepare m.sid
      else d.sendCancel m.sid m.status
    else d
  | none => d

/-- PREPARE (R94). -/
def execPrepare (m : SesMsg) (manifest : Option MoveManifest) (buoy : Nat) (s : State) : Host.Outcome State Fault Refusal :=
  onServing (fun d => if d.isHead then d.prepareBack m else d.prepareChip m manifest buoy) s

/-! ### GO, work, DONE -/

/-- GO has come back to HEAD: the pass has returned, or the GO that was still out beside DONE (R97). -/
def Dev.goBack (m : SesMsg) (d : Dev) : Dev :=
  match d.opOf m with
  | some _ => d.opUpd m.sid (fun o => if o.pass == .go then { o with returned := true } else { o with goMsg := none })
  | none => d

/-- GO (R94 step 3): a chip forwards it first and starts its work; at HEAD the pass has returned. -/
def execGo (m : SesMsg) (s : State) : Host.Outcome State Fault Refusal :=
  onServing (fun d =>
    if d.isHead then d.goBack m
    else d.onMsg m (fun d => (d.forward m).opUpd m.sid (fun o => if o.seq = m.seq then { o with pass := .go, working := true } else o))) s

/-- HEAD sends DONE after its own commit, with its own failure if any and the units it moved (R93, R94 step 4). -/
def Dev.sendDone (sid st : Nat) (d : Dev) : Dev :=
  match d.op sid with
  | some o => d.sendPass sid .done (o.mkMsg sid 3 o.gen st (if st = 0 then 0 else d.position) o.moved (cmdAux o.cmd o.opcode))
  | none => d

/-- A chip passes DONE on after its own commit; its part in the operation then ends, but for an inbound move, which FINAL
or CANCEL ends (R94, R119). -/
def Dev.passDone (m : SesMsg) (d : Dev) : Dev :=
  match d.opOf m with
  | some o =>
    let d := d.forward (noteFail o.fail d.position o.moved m)
    if o.opcode = 0x24 then d else d.opDel m.sid
  | none => d.forward m

/-- The layer slot and KV head that a stream of an image holds pages for (R59, R63): stream = layer slot × kv_heads + KV head. -/
def streamSlot (img : Option Image) (stream : Nat) : Option (LayerSlot × Nat) :=
  match img with
  | some i => (i.slots[stream / max 1 i.kvHeads]?).map (fun s => (s, stream % max 1 i.kvHeads))
  | none => none

/-- A page fails the check of R68 against its descriptor: its header's CRC, layer ID, KV head or first position, or fewer valid positions than
the descriptor's, which the context length gives. -/
def pageBad (img : Option Image) (ctx : Nat) (p : Page) : Bool :=
  p.bad || p.first != p.ordinal * p.cap || decide (p.valid < min p.cap (ctx - p.first)) ||
  (match streamSlot img p.stream with | some x => p.layerId != x.1.layerId || p.kvHead != x.2 | none => false)

/-- A warm revive with warm_verify set meets a private page that fails its check (R104). -/
def Dev.warmBad (sid : Nat) (o : SesOp) (d : Dev) : Bool :=
  o.opcode == 0x22 && d.get Reg.SES_MOV_CFG.warm_verify == 1 &&
  (match d.buoy sid, d.moor sid with
   | some b, some m => b.state == 4 && m.pages.any (fun p => !p.shared && (pageBad (d.activeImg b.sector) b.ctx p || d.pageLost b.sector p))
   | _, _ => false)

/-- Copies of pages and parts from their old to their new places, 4 KiB units (R58). -/
def movedParts (sector : Nat) (b b' : Buoy) (m m' : Moor) : List (Nat × Nat × Nat) :=
  let one (l l' : Loc) (n : Nat) : List (Nat × Nat × Nat) := if l = l' ∨ l.tier = 3 ∨ l'.tier = 3 then [] else [(flatLoc sector l, flatLoc sector l', 4096 * n)]
  one b.recLoc b'.recLoc m.recUnits ++ one b.statLoc b'.statLoc m.statUnits ++
    m'.pages.flatMap (fun p' => match m.pages.find? (fun p => p.stream == p'.stream && p.ordinal == p'.ordinal) with
      | some p => one p.loc p'.loc 4
      | none => [])

/-- Copy the bytes of each object from the old memory. -/
def copyParts (old : List Host.Cell) : List (Nat × Nat × Nat) → List Host.Cell → List Host.Cell
  | [], m => m
  | (src, dst, n) :: cs, m =>
    copyParts old cs (((old.filter (fun c => decide (src ≤ c.1 ∧ c.1 < src + n))).map (fun c => (c.1 - src + dst, c.2))).foldl
      (fun m c => Mem.write c.1 c.2 m) (Mem.zero dst n m))

/-- Memory after a change of a session's locations: its objects keep their bytes in every tier (R58). -/
def moveBytes (sid : Nat) (d d' : Dev) (mem : List Host.Cell) : List Host.Cell :=
  match d.buoy sid, d'.buoy sid, d.moor sid, d'.moor sid with
  | some b, some b', some m, some m' => copyParts mem (movedParts b.sector b b' m m') mem
  | _, _, _, _ => mem

/-- A write-back's objects at the retained copy's places (R102). -/
def backBytes (sid : Nat) (d : Dev) (mem : List Host.Cell) : List Host.Cell :=
  match d.buoy sid, d.moor sid with
  | some b, some m =>
    (match m.retained with
     | some c => if b.state = 4 ∧ c.current ∧ c.ctx = b.ctx then
         copyParts mem (movedParts b.sector b { b with recLoc := c.recLoc, statLoc := c.statLoc } m { m with pages := c.pages }) mem else mem
     | none => mem)
  | _, _ => mem

/-- The bytes of a session's pages, REC and STAT parts at their places; a page that is shared keeps its bytes. -/
def fillParts (b : Buoy) (m : Moor) (pages : List (List Byte)) (rec stat : List Byte) (mem : List Host.Cell) : List Host.Cell :=
  let mem := (m.pages.zip pages).foldl (fun mem e => if e.1.loc.tier = 3 || e.1.shared then mem else Mem.writes (flatLoc b.sector e.1.loc) (padTo 16384 e.2) mem) mem
  let mem := if b.recLoc.tier = 3 then mem else Mem.writes (flatLoc b.sector b.recLoc) (padTo (4096 * m.recUnits) rec) mem
  if b.statLoc.tier = 3 then mem else Mem.writes (flatLoc b.sector b.statLoc) (padTo (4096 * m.statUnits) stat) mem

/-- The bytes of a session rebuilt from a copy: the coded copy's as its members gave them, else those at the retained copy's places (R112). -/
def rebuiltBytes (sid : Nat) (c : CopyRec) (coded : Option CodedBytes) (d : Dev) (mem : List Host.Cell) : List Host.Cell :=
  match d.buoy sid, d.moor sid with
  | some b, some m =>
    (match coded with
     | some x => fillParts b m x.pages x.recBytes x.statBytes mem
     | none => copyParts mem (movedParts b.sector { b with recLoc := c.recLoc, statLoc := c.statLoc } b { m with pages := c.pages } m) mem)
  | _, _ => mem

/-- The copy that a session with a lost part is rebuilt from (R112, R114): the coded copy where its members answer, then the retained
one, the first whose context length lies in the range; with it the coded copy's bytes. [DEDUCED: log entry 26] -/
def pickCopy (m : Moor) (coded : Option CodedBytes) (lo hi : Nat) (needCurrent : Bool) : Option (CopyRec × Option CodedBytes) :=
  let ok (c : CopyRec) : Bool := decide (lo ≤ c.ctx) && decide (c.ctx ≤ hi) && (c.current || !needCurrent)
  match coded, m.coded with
  | some x, some c => if ok c then some (c, some x) else (m.retained.filter ok).map (fun r => (r, none))
  | _, _ => (m.retained.filter ok).map (fun r => (r, none))

/-- What a chip's work comes to (R42, R94, R95, R107, R119): ST_OK when it may commit, after rebuilding an unreadable part from
a copy of the same context length; the failure it reports on DONE otherwise. -/
def Dev.workStatus (sid : Nat) (o : SesOp) (r : WorkResult) (mem : List Host.Cell) (d : Dev) : Nat × List Host.Cell × Dev :=
  if (match d.buoy sid with | some b => b.bad | none => true) then (ST.SES_LOST, mem, (d.readBuoy sid).2)
  else if o.opcode = 0x24 then
    (match o.inbound with
     | some x => if x.digestsOk then (ST.OK, mem, d) else (ST.SES_VERIFY, mem, d)
     | none => (ST.SES_VERIFY, mem, d))
  else if r.unreadable || d.warmBad sid o then
    let d := if o.opcode = 0x22 && (match d.buoy sid with | some b => b.kvRoot.tier == 2 | none => false) then d.flashUnreadable ((d.rangeSector sid).getD 0xFFF) ST.SES_LOST else d
    let lost : Nat × List Host.Cell × Dev := (ST.SES_LOST, mem, if o.opcode = 0x22 then d.flag Reg.SES_MOV_ERR.verify_fail else d.flag Reg.SES_MOV_ERR.lost_tier)
    match d.buoy sid, d.moor sid with
    | some b, some m =>
      (match pickCopy m r.coded b.ctx b.ctx false with
       | some c =>
         let x := d.rebuild sid c.1 o.plan
         if x.1 then (ST.OK, rebuiltBytes sid c.1 c.2 x.2 mem, x.2) else lost
       | none => lost)
    | _, _ => lost
  else (ST.OK, mem, d)

/-- Where a session is moving to: the group that its export was granted to, and the chip of it at this chip's position (R116, R120). [DEDUCED: log entry 22] -/
def Dev.moveDest (sid : Nat) (d : Dev) : Nat × Nat :=
  match d.pool.extents.find? (fun e => e.2.window == some sid) with
  | some e => (e.2.host, match e.2.grants[d.position]? with | some g => g.host | none => 0)
  | none => (0, 0)

/-! ### Coded copies (R103, R360) -/

/-- D of the coding set (R360, R362). -/
def Dev.codeD (d : Dev) : Nat := if 2 ≤ d.get Reg.POOL_CODESET.d then d.get Reg.POOL_CODESET.d else 2

/-- Parks write a coded copy (R103), and a coding set is in use (R362). -/
def Dev.codingOn (d : Dev) : Bool := d.get Reg.SES_MOV_CFG.coded_park == 1 && d.get Reg.POOL_CODESET.enable == 1

/-- The coding set: its D + 1 valid members by index. -/
def Dev.codeMembers (d : Dev) : List Nat := ((List.range 8).filter (fun k => d.get (Reg.POOL_CODEMEM.valid k) == 1)).take (d.codeD + 1)

/-- Stripe rows of a serialisation: its 4 KiB units, D to a row (R360). -/
def codedRows (dd bytes : Nat) : Nat := ceilDiv (ceilDiv bytes 4096) dd

/-- A member's coded header (R360) over a serialisation. -/
def Dev.codedHeader (member : Nat) (b : Buoy) (bs : List Byte) (d : Dev) : List Byte :=
  leBytes 2 0x4353 ++ leBytes 1 member ++ leBytes 1 d.codeD ++ leBytes 4 b.sid ++ leBytes 2 d.chipId ++ leBytes 2 b.gen ++
    leBytes 4 b.ctx ++ leBytes 8 bs.length ++ leBytes 4 (codedRows d.codeD bs.length) ++ leBytes 4 0 ++ shaFinish (shaAbsorb DigestEntry.start bs)

/-- The first offset of a member's extent beyond the slices of every coded copy (the device's choice, a log entry). [DESIGN CHOICE: log entry 62] -/
def Dev.codedOffset (d : Dev) : Nat :=
  let kept := d.ses.moors.filterMap (fun e => e.2.coded.map (fun c => c.offset + c.slice))
  (kept ++ d.pool.coded.map (fun e => e.2.offset + e.2.slice)).foldl max 0

/-- One pool WRITE of this chip's own (R353); its host number in the exporter's table is not this chip's to know. [DESIGN CHOICE: log entry 62] -/
def Dev.poolWriteOut (sid member offset length : Nat) (data : List Byte) (d : Dev) : Dev :=
  let host := d.get (Reg.POOL_CODEMEM.host member)
  let handle := d.get (Reg.POOL_CODEMEM.handle member)
  let tag := wrap 32 d.pool.arrivals
  let r : PoolReq := { op := 2, flags := 0, host := wrap 16 (Config.unstated 30 [host]), tag := tag, handle := handle, mapEpoch := d.comp.cur.epoch,
                       offset := offset, length := length, auxHandle := 0, auxOffset := 0, value := 0, data := data, tagOk := true }
  let d : Dev := { d with pool := { d.pool with arrivals := d.pool.arrivals + 1, requests := Tab.put tag ⟨sid, member, handle, true⟩ d.pool.requests } }
  d.emit (.poolReq host r)

/-- A member's slice goes out in requests of at most 1 MiB (R353, R360). [DESIGN CHOICE: log entry 62] -/
def Dev.sendSlice (sid member offset : Nat) (slice : List Byte) (d : Dev) : Dev :=
  (List.range (ceilDiv slice.length (2 ^ 20))).foldl (fun d k =>
    let data := (slice.drop (k * 2 ^ 20)).take (2 ^ 20)
    d.poolWriteOut sid member (offset + k * 2 ^ 20) data.length data) d

/-- A park begins its coded copy: a slice to each member; the park waits for them (R103, R360). A set with fewer than D + 1
members counts the missing ones as failed. [DESIGN CHOICE: log entry 62] -/
def Dev.codedStart (sid : Nat) (r : WorkResult) (mem : List Host.Cell) (d : Dev) : Dev :=
  match d.buoy sid, d.moor sid with
  | some b, some m =>
    let bs := serialise b m mem
    let rows := codedRows d.codeD bs.length
    let slice := 64 + 4096 * rows
    let off := d.codedOffset
    let ms := d.codeMembers
    let missing := d.codeD + 1 - ms.length
    let w : CodedWrite := { result := r, members := if missing < 2 then ms.map (fun k => (k, ceilDiv slice (2 ^ 20))) else [], failed := List.replicate missing 8,
                            started := d.now, offset := off, slice := slice, outcome := if missing < 2 then none else some false }
    let d : Dev := { d with pool := { d.pool with coded := Tab.put sid w d.pool.coded } }
    if missing ≥ 2 then d.flag Reg.POOL_ERR.code_fail
    else
    let d := if missing = 1 then d.flag Reg.POOL_ERR.code_degraded else d
    ((List.range ms.length).zip ms).foldl (fun d e => d.sendSlice sid e.2 off (d.codedHeader e.1 b bs ++ memberUnits d.codeD rows e.1 bs)) d
  | _, _ => d

/-- The bytes that an inbound session brings, once its work has placed its objects (R119 step 3). -/
def inboundBytes (sid : Nat) (o : SesOp) (d' : Dev) (mem : List Host.Cell) : List Host.Cell :=
  match o.inbound, d'.buoy sid, d'.moor sid with
  | some x, some b, some m =>
    let mem := fillParts b m x.pageBytes x.recBytes x.statBytes mem
    (match x.adapter with
     | some bs => let a := tierAddr 1 b.sector (2 ^ 40 + b.adapterRef * 2 ^ 28); Mem.writes a bs (Mem.zero a (2 ^ 28) mem)
     | none => mem)
  | _, _, _ => mem

/-- Memory after a command's work: objects moved, an inbound session's bytes, a write-back (R58, R102, R119). -/
def workBytes (sid : Nat) (o : SesOp) (d d' : Dev) (mem : List Host.Cell) : List Host.Cell :=
  if o.opcode = 0x24 then inboundBytes sid o d' mem else backBytes sid d' (moveBytes sid d d' mem)

/-- The stack blocks that a session's work writes: objects moved, and pages it did not have before (R428). -/
def Dev.countMoves (sid : Nat) (d d' : Dev) : Dev :=
  match d.buoy sid, d'.buoy sid, d.moor sid, d'.moor sid with
  | some b, some b', some m, some m' =>
    let fresh := m'.pages.filter (fun p => m.pages.all (fun q => q.stream != p.stream || q.ordinal != p.ordinal))
    fresh.foldl (fun x p => x.flatWrite (flatLoc b.sector p.loc) 16384)
      ((movedParts b.sector b b' m m').foldl (fun x p => x.flatWrite p.2.1 p.2.2) d')
  | _, _, _, _ => d'

/-- Units that a session's work moved on the chip (R93). -/
def Dev.unitsMoved (sid : Nat) (d d' : Dev) : Nat :=
  match d.buoy sid, d'.buoy sid, d.moor sid, d'.moor sid with
  | some b, some b', some m, some m' => movedUnits b b' m m'
  | _, _, _, _ => 0

/-- The end of a chip's work: commit, or failure; then DONE goes out at HEAD, or on from another chip where it waits. -/
def Dev.endWork (sid : Nat) (r : WorkResult) (mem : List Host.Cell) (d : Dev) : List Host.Cell × Dev :=
  match d.op sid with
  | none => (mem, d)
  | some o =>
    let d := if o.working && !o.committed && (o.opcode == 0x20 || o.opcode == 0x21) && d.codingOn && !r.unreadable &&
      (Tab.look sid d.pool.coded).isNone then d.codedStart sid r mem else d
    if o.working && !o.committed && (match Tab.look sid d.pool.coded with | some w => w.outcome.isSome | none => true) then
      let w := d.workStatus sid o r mem
      let done := w.1 == ST.OK
      let d' := if done then w.2.2.commitWork sid o r w.2.1 (w.2.2.moveDest sid).1 (w.2.2.moveDest sid).2 else w.2.2
      let mem := if done then workBytes sid o w.2.2 d' w.2.1 else w.2.1
      let d' := d'.opUpd sid (fun o => { o with committed := true, working := false, fail := w.1, moved := if done then w.2.2.unitsMoved sid d' else 0, plan := [] })
      let d' : Dev := { d' with pool := { d'.pool with coded := Tab.del sid d'.pool.coded } }
      (mem, if d'.isHead then d'.sendDone sid w.1 else match o.doneMsg with | some m => d'.passDone m | none => d')
    else (mem, d)

/-- The end of a chip's work with the stack blocks it writes counted (R428). -/
def finishWork (sid : Nat) (r : WorkResult) (mem : List Host.Cell) (d : Dev) : List Host.Cell × Dev :=
  let x := d.endWork sid r mem
  (x.1, Dev.countMoves sid d x.2)

/-- SESSION_WORK_COMPLETE (R94): Buoy, Locator entry and parts as the command leaves them; bytes move with their objects. -/
def execSessionWorkComplete (sid : Nat) (r : WorkResult) (s : State) : Host.Outcome State Fault Refusal :=
  onServingMem (fun mem d => finishWork sid r mem d) s

/-- HEAD sends LOSE, its own Buoy going to LOST (R95); an operation of no command carries it where none is under way. [DEDUCED: log entry 25] -/
def Dev.sendLose (sid : Nat) (d : Dev) : Dev :=
  let gen := match d.buoy sid with | some b => b.gen | none => 0
  let seq := wrap 32 (d.ses.opSeq + 1)
  let d := d.loseSession sid
  let d : Dev := match d.op sid with
    | some _ => d
    | none => { d with ses := { d.ses with opSeq := seq, ops := Tab.put sid { SesOp.start 0 (internalCmd sid) none .none_ d.now false with seq := seq } d.ses.ops } }
  match d.op sid with
  | some o => (d.opUpd sid (fun o => { o with fail := ST.SES_LOST, gen := gen })).sendPass sid .lose (o.mkMsg sid 5 (if o.opcode = 0 then gen else o.gen) ST.OK 0 0 0)
  | none => d

/-- The result of a command that succeeded: the move handle for MOVE_OUT (R92). -/
def Dev.opResult (sid : Nat) (o : SesOp) (d : Dev) : Nat :=
  if o.opcode = 0x23 then
    d.groupId + d.chipId * 0x10000 + (match Tab.look sid d.ses.records with | some r => r.seq | none => 0) * 2 ^ 32
  else 0

/-- An inbound Buoy commits (R119 step 6): PARKED_COLD for a cold move, else PARKED_WARM, generation one past the
source's; HEAD takes the record's digest state. -/
def Dev.commitFinal (sid : Nat) (d : Dev) : Dev :=
  match d.op sid, d.buoyAt sid with
  | some o, some (i, _) =>
    let d := (d.transition sid (if o.cmd.cold then 5 else 4)).buoyUpd sid (fun b => { b with busy := false, pendingOp := 0 })
    if d.isHead then
      { d with ses := { d.ses with digests := match o.record with | some r => Tab.put i r.digest d.ses.digests | none => d.ses.digests } }
    else d
  | _, _ => d

/-- HEAD commits its inbound Buoy and sends FINAL (R119 step 6). -/
def Dev.sendFinal (sid : Nat) (d : Dev) : Dev :=
  match d.op sid with
  | some o => (d.commitFinal sid).sendPass sid .final (o.mkMsg sid 6 o.gen 0 0 0 o.msg.aux)
  | none => d

/-- HEAD's compare and write of the source record's claim, OPEN to CLAIMED with its own group ID: COMPARE with swap on the record's first 64
bytes in the window extent (R119 step 5, R353, R357). Its host number and handle are the exporter's to give. [DESIGN CHOICE: log entry 27] -/
def Dev.claimOut (o : SesOp) (d : Dev) : Dev :=
  match o.record with
  | none => d
  | some r =>
    let now := (moveRecordBytes { r with claim := 0, claimGroup := 0 }).take 64
    let then_ := (moveRecordBytes { r with claim := 1, claimGroup := d.groupId }).take 64
    let tag := wrap 32 d.pool.arrivals
    let q : PoolReq := { op := 5, flags := 4, host := wrap 16 (Config.unstated 30 [o.cmd.peerChip]), tag := tag, handle := wrap 32 (Config.unstated 67 [o.cmd.peerChip, r.seq]),
                         mapEpoch := d.comp.cur.epoch, offset := 0, length := 64, auxHandle := 0, auxOffset := 0, value := 0, data := now ++ then_, tagOk := true }
    ({ d with pool := { d.pool with arrivals := d.pool.arrivals + 1 } } : Dev).emit (.poolReq o.cmd.peerChip q)

/-- DONE returns to HEAD (R94 step 4, R95, R119 steps 4 and 5). `claim` is what the compare and write of the source's
claim found: 0 it took it, 1 CLAIMED, 2 ABORTED. -/
def Dev.doneBack (m : SesMsg) (claim : Nat) (d : Dev) : Dev :=
  match d.opOf m with
  | some o =>
    if o.pass == .done then
      if o.opcode = 0x24 then
        if m.status ≠ ST.OK then (d.flag Reg.SES_MOV_ERR.move_aborted).sendCancel m.sid m.status
        else
          let d := d.claimOut o
          if claim = 0 then d.sendFinal m.sid
          else if claim = 1 then d.sendCancel m.sid ST.SES_CLAIMED
          else (d.flag Reg.SES_MOV_ERR.move_aborted).sendCancel m.sid ST.SES_ABORTED
      else if m.status ≠ ST.OK then d.sendLose m.sid
      else d.finishOp m.sid ST.OK (d.opResult m.sid o)
    else d
  | none => d

/-- DONE (R94). -/
def execDone (m : SesMsg) (claim : Nat) (s : State) : Host.Outcome State Fault Refusal :=
  onServing (fun d =>
    if d.isHead then d.doneBack m claim
    else d.onMsg m (fun d =>
      match d.opOf m with
      | some o => if o.committed then d.passDone m else d.opUpd m.sid (fun o => { o with doneMsg := some m, pass := .done })
      | none => d.forward m)) s

/-! ### CANCEL, LOSE, FINAL -/

/-- A chip releases its reservation and its Buoy: an inbound Buoy it allocated goes to ABSENT with the adapter it brought, any other loses
its busy bit with no change of generation (R94, R119). -/
def Dev.releaseOp (sid : Nat) (o : SesOp) (d : Dev) : Dev :=
  if o.allocated then
    (match d.buoy sid with
     | some b => ({ (d.releaseShared sid) with ses := { (d.releaseShared sid).ses with adapters := if b.adapterRef = 0 then d.ses.adapters else Tab.del b.adapterRef d.ses.adapters } } : Dev).removeSession sid
     | none => d)
  else d.buoyUpd sid (fun b => { b with busy := false, pendingOp := 0 })

/-- SES_CANCEL (R94 step 2). [DEDUCED: log entry 25] -/
def execSesCancel (m : SesMsg) (s : State) : Host.Outcome State Fault Refusal :=
  onServing (fun d =>
    if d.isHead then
      (match d.opOf m with
       | some o => if o.pass == .cancel then (d.releaseOp m.sid o).finishOp m.sid o.fail 0 else d
       | none => d)
    else d.onMsg m (fun d =>
      match d.opOf m with
      | some o => ((d.releaseOp m.sid o).opDel m.sid).forward m
      | none => d.forward m)) s

/-- LOSE (R95): the Buoy goes to LOST and the session's private parts are freed; at HEAD the command completes with
ST_SES_LOST. -/
def execLose (m : SesMsg) (s : State) : Host.Outcome State Fault Refusal :=
  onServing (fun d =>
    if d.isHead then
      (match d.opOf m with
       | some o => if o.pass == .lose then d.finishOp m.sid ST.SES_LOST 0 else d
       | none => d)
    else d.onMsg m (fun d => ((if (d.buoy m.sid).isSome then d.loseSession m.sid else d).opDel m.sid).forward m)) s

/-- FINAL (R119 step 6). -/
def execFinal (m : SesMsg) (s : State) : Host.Outcome State Fault Refusal :=
  onServing (fun d =>
    if d.isHead then
      (match d.opOf m with
       | some o => if o.pass == .final then d.finishOp m.sid ST.OK 0 else d
       | none => d)
    else d.onMsg m (fun d => ((d.commitFinal m.sid).opDel m.sid).forward m)) s

/-! ### Resends -/

/-- The Sector that a session's report names (R583). -/
def Dev.sectorOf (sid : Nat) (d : Dev) : Nat := match d.buoy sid with | some b => b.sector | none => (d.rangeSector sid).getD 0xFFF

/-- A message of a pass is due for its next resend: every 10 ms, at most 100 times (R97, R98). -/
def resendDue (sentAt resends now : Nat) : Bool := decide (resends < 100) && decide (sentAt + ms (10 * (resends + 1)) ≤ now)

/-- The first resend of a pass is reported (R97). -/
def Dev.noteResend (sid resends : Nat) (d : Dev) : Dev :=
  if resends = 0 then (d.flag Reg.SES_MOV_ERR.coord_resend).reportKeeper (d.sectorOf sid) ST.SES_COORD else d

/-- HEAD resends what is out for a session: a GO still out beside DONE, then the last pass's message (R97). -/
def Dev.resendOp (sid : Nat) (o : SesOp) (d : Dev) : Dev :=
  let d := match o.goMsg with
    | some (m, at_, n) => if resendDue at_ n d.now then ((d.noteResend sid n).opUpd sid (fun o => { o with goMsg := some (m, at_, n + 1) })).emit (.sesMsg m) else d
    | none => d
  if !o.returned && resendDue o.sentAt o.resends d.now then
    ((d.noteResend sid o.resends).opUpd sid (fun x => { x with resends := o.resends + 1 })).emit (.sesMsg o.msg)
  else d

/-- SESSION_MSG_RESEND (R97, R98). [DEDUCED: log entry 12] -/
def execSessionMsgResend (sid t : Nat) (s : State) : Host.Outcome State Fault Refusal :=
  onServing (fun d =>
    let d := d.advance t
    match d.op sid with
    | some o => if d.isHead && o.pass != .waiting && !o.stopped then d.resendOp sid o else d
    | none => d) s

/-- A turn held on the session ends with ST_SES_COORD (R98). -/
def Dev.coordTurn (sid : Nat) (d : Dev) : Dev :=
  match d.turnOf sid with
  | some t => if t.st == .held || t.st == .reviving then d.endTurn sid 7 ST.SES_COORD else d
  | none => d

/-- A pass has failed: its message is not back 10 ms after its hundredth resend (R98). -/
def passFailed (sentAt resends now : Nat) : Bool := resends == 100 && decide (sentAt + ms 1010 < now)

/-- COORD_PASS_FAIL (R98): a pass not back 1,010 ms after it was first sent. A failed PREPARE or CANCEL frees HEAD and keeps a CANCEL for
the ring's return; a later pass keeps the session busy without its slot, its command completes once, and it is resumed then. [DEDUCED: log entry 25] -/
def execCoordPassFail (sid t : Nat) (s : State) : Host.Outcome State Fault Refusal :=
  onServing (fun d =>
    let d := d.advance t
    match d.op sid with
    | some o =>
      if d.isHead && o.pass != .waiting && !o.stopped &&
          ((!o.returned && passFailed o.sentAt o.resends d.now) || (match o.goMsg with | some (_, a, n) => passFailed a n d.now | none => false)) then
        let d := (d.flag Reg.SES_MOV_ERR.coord_fail).report ⟨conditionId (d.sectorOf sid) ST.SES_COORD, 2, 1, d.keeperNo⟩
        if o.pass == .prepare || o.pass == .cancel then
          let d : Dev := { d with ses := { d.ses with keptCancels := d.ses.keptCancels ++ [o.mkMsg sid 4 o.gen ST.OK 0 0 o.msg.aux] } }
          ((d.coordTurn sid).releaseOp sid o).finishOp sid ST.SES_COORD 0
        else
          let d := if o.coordFailed then d else d.completeOpt o.ent ST.SES_COORD 0
          (d.opUpd sid (fun o => { o with coordFailed := true, stopped := true, holds := false })).coordTurn sid
      else d
    | none => d) s

/-- A failed pass resumes: what is out goes out again, in order, and is resent again from now (R98). -/
def Dev.resumeOp (sid : Nat) (d : Dev) : Dev :=
  match d.op sid with
  | some o =>
    if o.stopped then
      let d := d.opUpd sid (fun o => { o with stopped := false, sentAt := d.now, resends := 0, goMsg := o.goMsg.map (fun g => (g.1, d.now, 0)) })
      d.emits ((match o.goMsg with | some g => [Emission.sesMsg g.1] | none => []) ++ (if o.returned then [] else [Emission.sesMsg o.msg]))
    else d
  | none => d

/-- The ring carries group traffic again: kept CANCELs go out and failed passes resume from their last message (R98,
R510). [DEDUCED: log entry 25] -/
def Dev.ringResume (d : Dev) : Dev :=
  let kept := d.ses.keptCancels.map (Emission.sesMsg ·)
  d.ses.ops.foldl (fun d e => d.resumeOp e.1) (({ d with ses := { d.ses with keptCancels := [] } } : Dev).emits kept)

/-! ### Page migration and lost parts -/

/-- The key of a page in a Mooring's migration tables. -/
def pageKey (stream ordinal : Nat) : Nat := stream * 2 ^ 20 + ordinal

/-- The migration of a private page to a place may start: the place is free and aligned, no copy of the page is under way, a boundary has
passed since its last copy was abandoned, and its migration is not deferred: until the page is full or the session has left the batch
(R41, R62, R110). -/
def Dev.mayMigrate (b : Buoy) (m : Moor) (p : Page) (dest : Loc) (d : Dev) : Bool :=
  let k := pageKey p.stream p.ordinal
  !p.shared && !Tab.has k m.migrating && !Tab.has k m.backOff && (decide (Tab.getD k 0 m.abandons < 3) || p.valid == p.cap || b.state != 1) &&
    decide (dest.unit % 4 = 0) && decide (dest.tier < 3) && d.spanFree dest.tier b.sector dest.unit 4

/-- At a boundary an abandoned migration is retried where it is not deferred and its place is free; one whose page is gone ends (R110). -/
def Dev.retryMoves (sid : Nat) (d : Dev) : Dev :=
  match d.moor sid with
  | none => d
  | some m => m.backOff.foldl (fun d e =>
      match d.buoy sid, d.moor sid with
      | some b, some m =>
        match m.pages.find? (fun p => pageKey p.stream p.ordinal == e.1) with
        | none => d.moorUpd sid (fun m => { m with backOff := Tab.del e.1 m.backOff })
        | some p =>
          if d.mayMigrate b { m with backOff := [] } p e.2 then
            d.moorUpd sid (fun m => { m with backOff := Tab.del e.1 m.backOff, migrating := Tab.put e.1 e.2 m.migrating })
          else d
      | _, _ => d) d

/-- What a batch step boundary of its Sector settles for a session: objects given up before it are freed, and abandoned migrations are
retried (R62, R73, R100, R110). -/
def Dev.settleMoor (sid : Nat) (d : Dev) : Dev :=
  match d.moor sid with
  | some m => (if m.freeNext.isEmpty then d else d.moorUpd sid (fun m => { m with freeNext := [] })).retryMoves sid
  | none => d

/-- PAGE_MIGRATION_START (R62, R110): Keeper names the page by its unified address, which must translate to it (R59); the copy begins. -/
def execPageMigrationStart (sid stream ordinal : Nat) (dest : Loc) (s : State) : Host.Outcome State Fault Refusal :=
  onServing (fun d =>
    match d.buoy sid, d.moor sid with
    | some b, some m =>
      match m.pages.find? (fun p => p.stream == stream && p.ordinal == ordinal), d.partAddr sid .kv (kvOffset m.lps stream ordinal) with
      | some p, some _ => if d.mayMigrate b m p dest then d.moorUpd sid (fun m => { m with migrating := Tab.put (pageKey stream ordinal) dest m.migrating }) else d
      | _, _ => d
    | _, _ => d) s

/-- Switch a page's table entry to the place its copy was made at; the source is freed at the next boundary (R62). -/
def Dev.switchPage (sid stream ordinal : Nat) (verified : Bool) (d : Dev) : Dev :=
  match d.moor sid with
  | some m =>
    let k := pageKey stream ordinal
    match Tab.look k m.migrating with
    | some dest =>
      d.moorUpd sid (fun m => { m with
        migrating := Tab.del k m.migrating,
        freeNext := if verified then m.freeNext ++ (m.pages.filter (fun p => p.stream == stream && p.ordinal == ordinal)).map (fun p => (p.loc, 4)) else m.freeNext,
        pages := if verified then m.pages.map (fun p => if p.stream == stream && p.ordinal == ordinal then { p with loc := dest } else p) else m.pages })
    | none => d
  | none => d

/-- PAGE_MIGRATION_SWITCH (R62). -/
def execPageMigrationSwitch (sid stream ordinal : Nat) (verified : Bool) (s : State) : Host.Outcome State Fault Refusal :=
  onServingMem (fun mem d =>
    (moveBytes sid d (d.switchPage sid stream ordinal verified) mem, Dev.countMoves sid d (d.switchPage sid stream ordinal verified))) s

/-- No copy serves: at HEAD the turn's charges are refunded and it ends, and LOSE is sent; elsewhere the chip's Buoy goes to LOST, and HEAD
hears of it (R113, R114, R223). [DEDUCED: log entry 26] -/
def Dev.lostTier (sid : Nat) (d : Dev) : Dev :=
  let d := d.flag Reg.SES_MOV_ERR.lost_tier
  if d.isHead then
    let d : Dev := match d.turnOf sid with | some t => d.credit t.entry.account t.charged false | none => d
    (d.closeTurn sid 7 ST.SES_LOST).sendLose sid
  else d.loseSession sid

/-- HEAD replays a turn's positions from the context length of a copy to its last committed position, taking the tokens from the turn's
log (R112); `back` says how far HEAD's own context length lies beyond the copy's. -/
def Dev.replayTurn (sid start from_ upto back : Nat) (d : Dev) : Dev :=
  (d.turnUpd sid (fun t => { t with replay := (t.log.drop (from_ - start)).take (upto - from_), back := back })).flag Reg.SES_MOV_ERR.resumed

/-- The turn's log holds every position of it (R111, R113). -/
def Dev.logWhole (sid : Nat) (d : Dev) : Bool := match d.turnOf sid with | some t => decide (t.log.length ≤ 1048576) | none => true

/-- A part of the session became unreadable on this chip (R112 to R114). With a request in progress the chip rebuilds from a qualifying
copy and HEAD replays the positions since; else the session is lost. With none, only a copy of the Buoy's own context length serves. [DEDUCED: log entry 26] -/
def Dev.partLoss (sid : Nat) (coded : Option CodedBytes) (mem : List Host.Cell) (d : Dev) : List Host.Cell × Dev :=
  match d.buoy sid, d.moor sid with
  | some b, some m =>
    let inProgress := b.state == 1 || (d.turnOf sid).isSome
    match (if d.logWhole sid then pickCopy m coded (if inProgress then m.startCtx else b.ctx) b.ctx (!inProgress) else none) with
    | some c =>
      let x := d.rebuild sid c.1 []
      if x.1 then
        (rebuiltBytes sid c.1 c.2 x.2 mem, if inProgress then (if d.isHead then x.2.replayTurn sid m.startCtx c.1.ctx b.ctx 0 else x.2.flag Reg.SES_MOV_ERR.resumed) else x.2)
      else (mem, d.lostTier sid)
    | none => (mem, d.lostTier sid)
  | _, _ => (mem, d)

/-- HEAD hears what a part's loss on another chip came to: a rebuild from a copy, whose positions it replays, or none (R112 to R114). [DESIGN CHOICE: log entry 26] -/
def Dev.otherLoss (sid : Nat) (rebuiltAt : Option Nat) (d : Dev) : Dev :=
  if !d.isHead then d
  else
    match rebuiltAt, d.buoy sid, d.moor sid with
    | some c, some b, some m => if (d.turnOf sid).isSome && d.logWhole sid then d.replayTurn sid m.startCtx c b.ctx (b.ctx - c) else if (d.turnOf sid).isSome then d.lostTier sid else d
    | none, some _, some _ => d.lostTier sid
    | _, _, _ => d

/-- PART_LOSS_REBUILD (R112 to R114). [DEDUCED: log entry 25] -/
def execPartLossRebuild (sid : Nat) (site : LossSite) (s : State) : Host.Outcome State Fault Refusal :=
  onServingMem (fun mem d => match site with | .here coded => d.partLoss sid coded mem | .elsewhere c => (mem, d.otherLoss sid c)) s

end Sys2Proof.Machine
end

