-- ==== Sys2Proof/Machine/Engine.lean ====
section
/-!
DEFINITION. Machine/Engine.lean: the issue of an engine command by a core's sequencer, and the engine commands
(R137 to R159, R166, R167, R170 to R176, R196).
-/
namespace Sys2Proof.Machine

/-! ### Cores and their lists -/

/-- A command list before its first command. -/
def ListRun.init : ListRun := ⟨0, [], [], []⟩
/-- An image core before its first step. -/
def ImgRun.init : ImgRun := ⟨ListRun.init, ListRun.init, 0, 0, 0, false, none⟩
/-- A core before its first step. -/
def CoreRun.init : CoreRun := ⟨[], 0, 0, 0, true, false, [], [], [], 0⟩

/-- A core's run state. -/
def Dev.coreRun (core : Nat) (d : Dev) : CoreRun := Tab.getD core CoreRun.init d.eng.runs

/-- The device with a core's run state changed. -/
def Dev.coreUpd (core : Nat) (f : CoreRun → CoreRun) (d : Dev) : Dev :=
  { d with eng := { d.eng with runs := Tab.put core (f (d.coreRun core)) d.eng.runs } }

/-- An image core's run state on a core. -/
def Dev.imgRun (core img : Nat) (d : Dev) : ImgRun := Tab.getD img ImgRun.init (d.coreRun core).imgs

/-- The device with an image core's run state changed. -/
def Dev.imgUpd (core img : Nat) (f : ImgRun → ImgRun) (d : Dev) : Dev :=
  d.coreUpd core (fun r => { r with imgs := Tab.put img (f (d.imgRun core img)) r.imgs })

/-- The Sector that a core serves: the one whose active image it hosts (R346), else the present one whose descriptor holds
it (R340). -/
def Dev.coreSector (core : Nat) (d : Dev) : Nat :=
  match (List.range 16).find? (fun n => (d.activeImg n).isSome && (d.secImg n).hosts.contains core) with
  | some n => n
  | none => ((List.range 16).find? (fun n => d.present n && (d.sector n).cores.testBit core)).getD 16

/-- A core's list entry in its Sector's active image (R182). -/
def Dev.coreEntry (core img : Nat) (d : Dev) : Option CoreEntry :=
  (d.secImg (d.coreSector core)).live.find? (fun c => c.index == img)

/-- Where an image core's commands run. -/
def Dev.engCtx (core img : Nat) (d : Dev) : EngCtx :=
  let n := d.coreSector core
  let i := d.secImg n
  let region := match d.coreEntry core img with | some e => e.regions.getD 4 (0, 0) | none => (0, 0)
  { sector := n, core := core, img := img, hosts := i.hosts, shadow := i.shadow, cores := (d.sector n).cores,
    bytes0 := (d.capSector n).t0d0 * 65536, bytesDie1 := (d.capSector n).t0d1 * 65536, bytes1 := d.tierCap 1 n * 4096, srAllow := d.get (Reg.CORE_NUM_CFG.sr_allow core) == 1,
    stepBase := region.1, stepSize := region.2, stepHalf := (d.coreRun core).stepNo % 2, refine := false }

/-- Is a step running on the core (R173)? -/
def Dev.inStep (core : Nat) (d : Dev) : Bool := d.get (Reg.CORE_STEP.running core) == 1

/-- The core works: not retired, and not on its way out (R565). -/
def Dev.coreWorks (core : Nat) (d : Dev) : Bool := !d.eng.retired.contains core && !d.eng.retiring.contains core

/-- Commands that run on a core now. -/
def Dev.runningOn (core : Nat) (d : Dev) : Nat :=
  ((d.coreRun core).imgs.map (fun e => e.2.step.running.length + e.2.refine.running.length)).sum

/-- The five physical engines of a core that work (R14, R167): the lowest four at most are in use, so that the spare steps in for one that
has failed. -/
def Dev.engines (core : Nat) (d : Dev) : List Nat := ((List.range 5).filter (fun e => (d.get (Reg.CORE_ENG.engine_ok core)).testBit e)).take 4

/-- Engines on which a command runs. -/
def Dev.enginesBusy (core : Nat) (d : Dev) : List Nat :=
  (d.coreRun core).imgs.flatMap (fun e => (e.2.step.running ++ e.2.refine.running).map (·.2.engine))

/-- The working engine that takes the next command: the lowest free one (R12, R172). [DESIGN CHOICE: log entry 113] -/
def Dev.freeEngine (core : Nat) (d : Dev) : Nat := ((d.engines core).find? (fun e => !(d.enginesBusy core).contains e)).getD 0

/-- A command at the head of a list. -/
structure Issue where
  refine : Bool
  index : Nat
  cmd : EngCmd

/-- No step is pending for the core: none of its Sector's batches holds a step that its cores have not run (R175). -/
def Dev.noStepPending (core : Nat) (d : Dev) : Bool :=
  d.srv.batches.all (fun e => e.1 / 256 != d.coreSector core || (match e.2.running with | some s => s.reported || s.leaveOnly | none => true))

/-- Positions whose row statistics are kept (R55). -/
def Dev.statWindow (d : Dev) : Nat := d.com Reg.SES_CFG.stat_max * 64

/-- Keeper firmware sets param1 of an attention command to the stride of the row-statistics area (R145, R157). -/
def Dev.attnStride (c : EngCmd) (d : Dev) : EngCmd := if c.opcode = 0x10 ∨ c.opcode = 0x11 then { c with param1 := d.statWindow } else c

/-- The head of an image core's lists: the step list's while a step runs, else the refine list's while it may run (R172,
R175). m_step replaces the row counts by the step's (R169). -/
def Dev.headOf (core img : Nat) (d : Dev) : Option Issue :=
  match d.coreEntry core img with
  | none => none
  | some e =>
    let r := d.imgRun core img
    if d.inStep core then
      match e.step[r.step.head]? with
      | some c =>
        let c := d.attnStride c
        let c := if c.seqn.mStep then { c with a := { c.a with rows := (d.coreRun core).rows }, d := { c.d with rows := (d.coreRun core).rows } } else c
        some ⟨false, r.step.head, c⟩
      | none => none
    else if d.get (Reg.CORE_SEQ_CFG.refine_enable core) == 1 && d.noStepPending core then
      match e.refine[r.refine.head]? with
      | some c => some ⟨true, r.refine.head, d.attnStride c⟩
      | none => none
    else none

/-- The list that a head stands in. -/
def ImgRun.list (refine : Bool) (r : ImgRun) : ListRun := if refine then r.refine else r.step

/-- The run state with one of its lists changed. -/
def ImgRun.setList (refine : Bool) (f : ListRun → ListRun) (r : ImgRun) : ImgRun :=
  if refine then { r with refine := f r.refine } else { r with step := f r.step }

/-- A wait of a command is met (R170). [DEDUCED: log entry 33] -/
def waitMet (l : ListRun) (en : Bool) (slot count : Nat) : Bool := !en || decide (count ≤ Tab.getD slot 0 l.slots)

/-- May the head issue now (R172)? -/
def Dev.canIssue (core img : Nat) (i : Issue) (e : CoreEntry) (d : Dev) : Bool :=
  let l := (d.imgRun core img).list i.refine
  let q := i.cmd.seqn
  waitMet l q.waitAEn q.waitA q.waitACount && waitMet l q.waitBEn q.waitB q.waitBCount &&
  (!q.fence || l.running.isEmpty) &&
  (!(i.cmd.opcode == 0x10 || i.cmd.opcode == 0x11) ||
    l.running.all (fun r => match (if i.refine then e.refine else e.step)[r.1]? with
      | some c => !(c.opcode == 0x12 && c.layerId == i.cmd.layerId && bitsOf 15 8 c.param0 == bitsOf 15 8 i.cmd.param0)
      | none => true)) &&
  decide (d.runningOn core < d.get (Reg.CORE_ENG.active core)) && d.coreWorks core

/-- Does the command wait on a poisoned slot (R176)? [DEDUCED: log entry 33] -/
def poisoned (l : ListRun) (q : Sequencing) : Bool :=
  (q.waitAEn && l.poison.contains q.waitA) || (q.waitBEn && l.poison.contains q.waitB)

/-- What numbers do to CORE_NUM_FLAGS, counters and the Foghorn (R161, R162). -/
def Dev.numFlags (core : Nat) (f : NumFlags) (d : Dev) : Dev :=
  let n := d.coreSector core
  let d := if f.nanOut then (d.flag (Reg.CORE_NUM_FLAGS.nan_out core)).coreEvent core 1 3 n else d
  let d := if f.overflow then d.flag (Reg.CORE_NUM_FLAGS.overflow core) else d
  let d := if f.intSat then d.flag (Reg.CORE_NUM_FLAGS.int_sat core) else d
  let d := if f.emptyRow then d.flag (Reg.CORE_NUM_FLAGS.empty_row core) else d
  let d := if f.statMismatch then d.flag (Reg.CORE_NUM_FLAGS.stat_mismatch core) else d
  if f.nanOut && d.get (Reg.CORE_NUM_CFG.nan_report core) == 1 then d.report ⟨conditionId n ST.OK, 0, 2, core⟩ else d

/-- The command is taken from the list and runs: issue is recorded (R546, R547). -/
def Dev.started (core img : Nat) (i : Issue) (status first rows : Nat) (d : Dev) : Dev :=
  let n := d.coreSector core
  let eng := d.freeEngine core
  let d := ((d.coreEvent core 2 0 n).engineTrace n core eng 0 i.cmd i.index).quadBusy core
  let d := if i.refine then d.put (Reg.CORE_STEP.refine_running core) 1 else d
  d.imgUpd core img (fun r => r.setList i.refine (fun l =>
    { l with head := l.head + 1, running := Tab.put i.index ⟨eng, status, d.daymark, d.recCounters core, first, rows⟩ l.running }))

/-- What the body of a command comes to: memory, device, the batch rows it reports (R68, R150), and whether a page failed. -/
structure Ran where
  mem : List Host.Cell
  dev : Dev
  rows : List Nat
  fault : Bool

/-- The stack blocks that a command's destination rows write (R428). -/
def Dev.countOutput (x : EngCtx) (c : EngCmd) (d : Dev) : Dev :=
  (List.range c.d.rows).foldl (fun d r =>
    let d := d.flatWrite (x.base c.d + r * c.d.rowStride) (ceilDiv (c.d.cols * fmtBits c.outFormat) 8)
    if fmtMx c.outFormat then d.flatWrite (x.base c.d + c.d.scaleOffset + r * c.d.scaleStride) (ceilDiv c.d.cols 32) else d) d

/-- Issue the head of an image core's list as the command `op` (R140, R172, R176): where it may not issue, nothing
happens. Its results stand in memory from here on; its signal follows at COMMAND_COMPLETE. -/
def runHead (op core img : Nat) (body : EngCtx → EngCmd → List Host.Cell → Dev → Ran) (mem : List Host.Cell) (d : Dev) :
    List Host.Cell × Dev :=
  match d.headOf core img, d.coreEntry core img with
  | some i, some e =>
    if i.cmd.opcode == op && d.canIssue core img i e then
      let x := d.engCtx core img
      if poisoned ((d.imgRun core img).list i.refine) i.cmd.seqn then (mem, d.started core img i ST.IMG_POISONED 0xFFFF 0)
      else if !x.operandsOk i.cmd then
        (mem, (d.report ⟨conditionId x.sector ST.IMG_OPERAND, 1, 2, core⟩).started core img i ST.IMG_OPERAND 0xFFFF 0)
      else
        let x := { x with refine := i.refine }
        let r := body x i.cmd mem d
        (r.mem, (r.dev.countOutput x i.cmd).started core img i (if r.fault then ST.SES_PAGEFAULT else ST.OK) (r.rows.headD 0xFFFF) r.rows.length)
    else (mem, d)
  | _, _ => (mem, d)

/-- A command whose effect is on its destination and its flags. -/
def plainBody (f : EngCtx → EngCmd → List Host.Cell → List Host.Cell × NumFlags) (x : EngCtx) (c : EngCmd) (mem : List Host.Cell) (d : Dev) : Ran :=
  let r := f x c mem
  ⟨r.1, d.numFlags x.core r.2, [], false⟩

/-- GEMM (R142, R143). -/
def execGemm (core img : Nat) (s : State) : Host.Outcome State Fault Refusal :=
  onServingMem (runHead 0x01 core img (plainBody EngCtx.gemm)) s
/-- GEMM_GATED (R142). -/
def execGemmGated (core img : Nat) (s : State) : Host.Outcome State Fault Refusal :=
  onServingMem (runHead 0x02 core img (plainBody EngCtx.gemmGated)) s
/-- GEMM_GATHER (R142). -/
def execGemmGather (core img : Nat) (s : State) : Host.Outcome State Fault Refusal :=
  onServingMem (runHead 0x03 core img (plainBody EngCtx.gemmGather)) s
/-- NORM (R142). -/
def execNorm (core img : Nat) (s : State) : Host.Outcome State Fault Refusal :=
  onServingMem (runHead 0x08 core img (plainBody EngCtx.norm)) s
/-- ROPE (R142). -/
def execRope (core img : Nat) (s : State) : Host.Outcome State Fault Refusal :=
  onServingMem (runHead 0x09 core img (plainBody EngCtx.rope)) s
/-- ELEMWISE (R142). -/
def execElemwise (core img : Nat) (s : State) : Host.Outcome State Fault Refusal :=
  onServingMem (runHead 0x0A core img (plainBody EngCtx.elemwise)) s

/-- The step that a core runs, among its Sector's interleaved batches: its batch key (Sector × 256 + batch) and step. -/
def Dev.stepOf (sector number : Nat) (d : Dev) : Option (Nat × Step) :=
  (d.srv.batches.filter (fun e => e.1 / 256 == sector)).findSome? (fun e =>
    match e.2.running with
    | some s => if s.number == number then some (e.1, s) else none
    | none => none)

/-- The batch rows of the step that a core runs. -/
def Dev.coreRows (core : Nat) (d : Dev) : List StepRow :=
  match d.stepOf (d.coreSector core) (d.coreRun core).stepNo with
  | some (_, s) => s.rows
  | none => []

/-- The batch rows of a refine command: those of the core's last step whose sessions keep statistics, each with the kept positions of its
session's turn (R55, R158). [DESIGN CHOICE: log entry 114] -/
def Dev.refineRows (core : Nat) (d : Dev) : List StepRow :=
  (d.coreRun core).table.map (fun r =>
    match d.buoy r.sid, d.moor r.sid with
    | some b, some m =>
      let q := max m.startCtx m.statBase
      { r with qbase := q, qcount := min 4096 (b.ctx - q), tree := false, invalid := !b.refine || b.statLoc.tier == 3 || decide (b.ctx ≤ q) }
    | _, _ => { r with invalid := true })

/-- The batch rows of a command. -/
def Dev.runRows (x : EngCtx) (d : Dev) : List StepRow := if x.refine then d.refineRows x.core else d.coreRows x.core

/-- The recurrent state of a command's layer in bytes (R181, R196). -/
def Dev.recBytes (sector layer : Nat) (d : Dev) : Nat :=
  match d.activeImg sector with
  | some i => match i.slots.find? (fun l => l.layerId == layer) with | some l => l.recBytes | none => 0
  | none => 0

/-- RECUR's work: the state it writes may be pending in a snapshot (R405). -/
def recurBody (x : EngCtx) (c : EngCmd) (mem : List Host.Cell) (d : Dev) : Ran :=
  let d := (d.runRows x).foldl (fun d r => if r.invalid then d else d.partStall r.sid 4) d
  plainBody (fun x c => x.recur c (d.recBytes x.sector c.layerId)) x c mem d

/-- RECUR (R196). -/
def execRecur (core img : Nat) (s : State) : Host.Outcome State Fault Refusal :=
  onServingMem (runHead 0x18 core img recurBody) s
/-- ADAPT (R57, R142). -/
def execAdapt (core img : Nat) (s : State) : Host.Outcome State Fault Refusal :=
  onServingMem (runHead 0x30 core img (plainBody EngCtx.adapt)) s

/-! ### Attention -/

/-- A row of the running step is marked invalid with its first failure (R223). -/
def Dev.failRow (sector number sid status : Nat) (d : Dev) : Dev :=
  match d.stepOf sector number with
  | none => d
  | some (k, _) =>
    let mark (r : StepRow) : StepRow := if r.sid == sid && !r.invalid then { r with invalid := true, status := status } else r
    let was := match d.stepOf sector number with | some (_, s) => s.rows.any (fun r => r.sid == sid && !r.invalid) | none => false
    let d := if was then (d.flag Reg.SES_SRV_ERR.row_invalid).bump Reg.SES_SRV_ROWS_INVALID.count 1 else d
    { d with srv := { d.srv with batches := Tab.upd k (fun b => { b with running := b.running.map (fun s => { s with rows := s.rows.map mark }) }) d.srv.batches } }

/-- A page fails its check (R68, R155): the session's row is invalid; the same page failing on a later step's walk loses the
session. -/
def Dev.pageFault (core sid stream ordinal : Nat) (d : Dev) : Dev :=
  let n := d.coreSector core
  let first := (d.coreRows core).any (fun r => r.sid == sid && !r.invalid)
  let again := first && (match d.moor sid with | some m => m.failedPage == some (stream, ordinal) | none => false)
  let st := if again then ST.SES_LOST else ST.SES_PAGEFAULT
  let d := (d.flag Reg.SES_ERR.page_mismatch).report ⟨conditionId n ST.SES_PAGEFAULT, 1, 2, core⟩
  let d := d.event none (sectorEvent 4 3 n)
  let d := if first then d.moorUpd sid (fun m => { m with failedPage := some (stream, ordinal) }) else d
  d.failRow n (d.coreRun core).stepNo sid st

/-- A stack access of a command that stays uncorrectable, or whose MAC fails twice, and what of a session lies there: its Buoy or a page
fails its check from then on (R42, R68, R424, R430). -/
def Dev.stackFault (f : StackFault) (d : Dev) : Dev :=
  let d := d.accessFault f
  match f.what with
  | .buoy => { d with ses := { d.ses with buoys := Tab.mapv (fun _ b => if b.sid == f.sid then { b with bad := true } else b) d.ses.buoys } }
  | .page s o => d.moorUpd f.sid (fun m => { m with pages := m.pages.map (fun p => if p.stream == s && p.ordinal == o then { p with bad := true } else p) })
  | _ => d

/-! ### Page descriptors (R66, R67, R147, R166) -/

/-- The layer slots of an image that hold key-value pages, with their streams: (stream, slot, head) (R63, R181). -/
def kvStreams (i : Image) : List (Nat × LayerSlot × Nat) :=
  ((List.range i.slots.length).zip i.slots).flatMap (fun e =>
    if e.2.kvFormat = 0xFF then [] else (List.range e.2.kvHeads).map (fun h => (e.1 * i.kvHeads + h, e.2, h)))

/-- The stream of a layer and KV head of a Sector's image. -/
def Dev.streamAt (n layer head : Nat) (d : Dev) : Option (Nat × LayerSlot × Nat) :=
  match d.activeImg n with
  | some i => (kvStreams i).find? (fun e => e.2.1.layerId == layer && e.2.2 == head)
  | none => none

/-- Bytes of one provisional row of a stream: keys and values, elements and scales (R56). -/
def provRowBytes (s : LayerSlot) : Nat := let z := kvRowSizes s.kvFormat (32 * s.dim32); 2 * (z.1 + z.2)

/-- Where a stream's 16 rows begin in the provisional block (R56). [DEDUCED: log entry 108] -/
def provOffset (i : Image) (stream : Nat) : Nat := (((kvStreams i).filter (fun e => decide (e.1 < stream))).map (fun e => 16 * provRowBytes e.2.1)).sum

/-- The fall-back address of a stream's rows in its session's provisional block (R56, R67). -/
def Dev.provAddr (n stream : Nat) (m : Moor) (d : Dev) : Nat :=
  match d.activeImg n with
  | some i => locAddr m.provLoc + provOffset i stream
  | none => 0

/-- The pages of a stream in ascending ordinal (R67). -/
def Moor.streamOf (stream : Nat) (m : Moor) : List Page := (m.pages.filter (fun p => p.stream == stream)).mergeSort (fun a b => decide (a.ordinal ≤ b.ordinal))

/-- The descriptors of one batch row's stream (R67): valid_count covers the rows that the step itself appends, where `apps` says that it
appends to the stream. [DEDUCED: log entry 115] -/
def Dev.descsOf (n layer head epoch b : Nat) (apps : Bool) (r : StepRow) (d : Dev) : List PageDesc :=
  match d.buoy r.sid, d.moor r.sid, d.streamAt n layer head with
  | some bu, some m, some (s, slot, _) =>
    if r.invalid then []
    else
      let ps := m.streamOf s
      let upto := if apps && !r.tree then max bu.ctx (r.qbase + r.qcount) else bu.ctx
      let prov := if apps && r.tree then r.qcount else 0
      ((List.range ps.length).zip ps).map (fun e =>
        { address := locAddr e.2.loc, first := e.2.ordinal * slot.p, valid := min slot.p (upto - e.2.ordinal * slot.p), format := slot.kvFormat,
          last := e.1 + 1 == ps.length && prov == 0, shared := e.2.shared, prov := false, layerId := layer, kvHead := head, row := b, sid := r.sid, epoch := epoch }) ++
      (if prov = 0 then [] else
        [{ address := d.provAddr n s m, first := bu.ctx, valid := prov, format := slot.kvFormat, last := true, shared := false, prov := true, layerId := layer,
           kvHead := head, row := b, sid := r.sid, epoch := epoch }])
  | _, _, _ => []

/-- Is the command an attention command? -/
def isAttn (c : EngCmd) : Bool := c.opcode == 0x10 || c.opcode == 0x11

/-- Does a step of the Sector append rows to a layer's KV head? -/
def Dev.appends (n layer head : Nat) (d : Dev) : Bool :=
  (d.secImg n).live.any (fun e => e.step.any (fun c => c.opcode == 0x12 && c.layerId == layer && bitsOf 15 8 c.param0 == head))

/-- The descriptors of an attention command, session row by session row (R67). -/
def Dev.descsFor (n epoch : Nat) (apps : Bool) (rows : List StepRow) (c : EngCmd) (d : Dev) : List PageDesc :=
  let head := bitsOf 15 8 c.param0
  ((List.range rows.length).zip rows).flatMap (fun e => d.descsOf n c.layerId head epoch e.1 (apps && d.appends n c.layerId head) e.2)

/-- Page descriptors that a core's buffer holds (R166). -/
def descRoom : Nat := 4096

/-- Keeper firmware emits descriptors to a core's queue: what the buffer has no room for is held back (R67, R166). -/
def Dev.emitDescs (core : Nat) (xs : List PageDesc) (d : Dev) : Dev :=
  d.coreUpd core (fun r => let all := r.descs ++ r.held ++ xs; { r with descs := all.take descRoom, held := all.drop descRoom })

/-- The first emission of a layer and KV head in a queue, and what is left: rows rise, each up to its last descriptor (R147). -/
def takeRun (layer head : Nat) : List PageDesc → Option Nat → List PageDesc × List PageDesc
  | [], _ => ([], [])
  | x :: xs, done =>
    if x.layerId ≠ layer ∨ x.kvHead ≠ head then (let t := takeRun layer head xs done; (t.1, x :: t.2))
    else if (match done with | some r => decide (r < x.row) | none => true) then (let t := takeRun layer head xs (if x.last then some x.row else done); (x :: t.1, t.2))
    else ([], x :: xs)

/-- An attention command consumes its descriptors; as the buffer empties, Keeper firmware emits what it held back (R147, R166). -/
def Dev.takeDescs (core layer head : Nat) (d : Dev) : List PageDesc × Dev :=
  let r := d.coreRun core
  let t := takeRun layer head (r.descs ++ r.held) none
  (t.1, d.coreUpd core (fun r => { r with descs := t.2.take descRoom, held := t.2.drop descRoom }))

/-- The page that a descriptor names. -/
def Dev.descPage (x : PageDesc) (d : Dev) : Option Page := (d.moor x.sid).bind (fun m => m.pages.find? (fun p => locAddr p.loc == x.address))

/-- The check of a page's header against its descriptor, and of the descriptor's epoch (R68, R147). -/
def Dev.descOk (n epoch : Nat) (x : PageDesc) (d : Dev) : Bool :=
  x.epoch == epoch && (x.prov || (match d.descPage x with
    | some p => !p.bad && !d.pageLost n p && p.layerId == x.layerId && p.kvHead == x.kvHead && p.first == x.first && decide (x.valid ≤ p.valid)
    | none => false))

/-- Tiles of the page or provisional block of a descriptor (R148). -/
def Dev.descTiles (n : Nat) (mem : List Host.Cell) (x : PageDesc) (d : Dev) : List (List Key) :=
  if x.prov then
    match d.streamAt n x.layerId x.kvHead, d.moor x.sid with
    | some (s, slot, _), some m => provTile slot.kvFormat (32 * slot.dim32) x.valid (Tab.getD s [] m.prov)
    | _, _ => []
  else match d.descPage x with | some p => pageTiles n mem p x.valid | none => []

/-- The page of a descriptor by stream and ordinal. -/
def Dev.descName (n : Nat) (x : PageDesc) (d : Dev) : Nat × Nat :=
  match d.descPage x, d.streamAt n x.layerId x.kvHead with
  | some p, _ => (p.stream, p.ordinal)
  | none, some (s, slot, _) => (s, x.first / max 1 slot.p)
  | none, none => (0, 0)

/-- The pages of a layer and KV head by their headers, in ascending ordinal. -/
def streamPages (layer head : Nat) (m : Moor) : List Page :=
  (m.pages.filter (fun p => p.layerId == layer && p.kvHead == head)).mergeSort (fun a b => decide (a.ordinal ≤ b.ordinal))

/-! ### Query rows and batch rows -/

/-- The parameters of an attention command (R145). -/
structure AttnPar where
  g : Nat
  head : Nat
  keep : Bool
  bf : Bool
  stride : Nat

/-- Read the parameters (R145). G is 1 to 64; a field of 0 acts as 1. [DESIGN CHOICE: log entry 112] -/
def attnPar (c : EngCmd) : AttnPar :=
  ⟨max 1 (bitsOf 7 0 c.param0), bitsOf 15 8 c.param0, c.param0.testBit 16, c.param0.testBit 17, c.param1⟩

/-- Address of the statistics of query row (i, g) (R157). -/
def statAddr (p : AttnPar) (stats i g : Nat) : Nat := stats + ((p.head * p.g + g) * p.stride + i) * 8

/-- The values of a row of D: added to its contents when flags.acc is set (R138). -/
def EngCtx.accRow (x : EngCtx) (mem : List Host.Cell) (c : EngCmd) (i : Nat) (vs : List FpVal) : List FpVal :=
  ((List.range vs.length).zip vs).map (fun e => x.accumulate mem c i e.1 e.2)

/-- One batch row of ATTN_FWD whose pages verify: its query rows one by one (R146, R151, R157). -/
def fwdRow (x : EngCtx) (c : EngCmd) (p : AttnPar) (info : RowInfo) (kfmt base : Nat) (tiles : List (List Key)) (s : List Host.Cell × NumFlags) :
    List Host.Cell × NumFlags :=
  (List.range (p.g * info.qcount)).foldl (fun s r =>
    let o := attnRow x.sector s.1 c.alpha c.a.format kfmt p.bf info c.a.cols (r / p.g) (x.row s.1 c.a (base + r)) tiles
    let w := x.writeRow c (base + r) (x.accRow s.1 c (base + r) o.out) s.1
    let mem := if p.keep && info.stats != 0 && info.mask != 2 then
        Mem.writes (fbAddr x.sector (statAddr p info.stats (r / p.g) (r % p.g))) (leBytes 4 (toFp32 o.m) ++ leBytes 4 (toFp32 o.lse)) w.1
      else w.1
    (mem, (s.2.or w.2).or o.flags)) s

/-- Zeros to a batch row's rows of D (R147). -/
def zeroRow (x : EngCtx) (c : EngCmd) (base n : Nat) (s : List Host.Cell × NumFlags) : List Host.Cell × NumFlags :=
  (List.range n).foldl (fun s r => ((x.writeRow c (base + r) (List.replicate c.a.cols FpVal.zero) s.1).1, s.2)) s

/-- The first row of a batch row among the rows of A and D (R146). [DEDUCED: log entry 32] -/
def attnBase (p : AttnPar) (infos : List RowInfo) (b : Nat) : Nat := ((infos.take b).map (fun i => p.g * i.qcount)).sum

/-- The epoch of the step that a command belongs to (R147). -/
def Dev.runEpoch (x : EngCtx) (d : Dev) : Nat :=
  match x.refine, d.stepOf x.sector (d.coreRun x.core).stepNo with
  | false, some (_, s) => s.epoch
  | _, _ => d.comp.cur.epoch

/-- A tree row with a node whose parent index is invalid (R150). -/
def badTree (i : RowInfo) : Bool := i.mask == 2 && (List.range i.qcount).any (fun k => !nodeOk i.parents k)

/-- What the counters see of one batch row: tiles, and query tiles for which descriptors are emitted afresh (R153, R166). -/
def Dev.countTiles (x : EngCtx) (p : AttnPar) (n tiles descs : Nat) (d : Dev) : Dev :=
  let t := tiles * ceilDiv n (max 1 (256 / p.g * p.g))
  let d := (List.range t).foldl (fun d _ => d.event (some x.core) (sectorEvent 1 2 x.sector)) (d.bump (Reg.CORE_ATTN_TILES.count x.core) t)
  if decide (descRoom < descs) && decide (256 < n) then d.bump (Reg.CORE_FALLBACK.count x.core) 1 else d

/-- A page that failed and passes on this walk is forgotten (R68). -/
def Dev.pageAgain (sid stream : Nat) (d : Dev) : Dev :=
  d.moorUpd sid (fun m => match m.failedPage with | some (s, _) => if s = stream then { m with failedPage := none } else m | none => m)

/-- The walk of the batch rows of an attention command: skipped where not present, zeros and a report where a page fails,
else `one` (R145 to R148). -/
def attnWalk (x : EngCtx) (c : EngCmd) (faults : List StackFault) (mem : List Host.Cell) (d : Dev)
    (one : AttnPar → RowInfo → Nat → Nat → List (List Key) → List Host.Cell × NumFlags → List Host.Cell × NumFlags) : Ran :=
  let p := attnPar c
  let rows := d.runRows x
  let epoch := d.runEpoch x
  let infos := (List.range rows.length).map (fun b => readInfo mem (x.entry c.c b))
  let d := faults.foldl (fun d f => d.stackFault f) d
  let d := if x.refine then d.emitDescs x.core (d.descsFor x.sector epoch false rows c) else d
  let q := d.takeDescs x.core c.layerId p.head
  let step (acc : (List Host.Cell × NumFlags) × Ran) (b : Nat) : (List Host.Cell × NumFlags) × Ran :=
    match infos[b]?, rows[b]? with
    | some info, some row =>
      if !info.present then acc
      else
        let ds := q.1.filter (fun y => y.row == b)
        let base := attnBase p infos b
        let n := p.g * info.qcount
        let r := acc.2
        match ds.find? (fun y => !r.dev.descOk x.sector epoch y) with
        | some y =>
          let f := r.dev.descName x.sector y
          (zeroRow x c base n acc.1, ⟨r.mem, r.dev.pageFault x.core row.sid f.1 f.2, r.rows ++ [b], true⟩)
        | none =>
          let tiles := ds.flatMap (fun y => r.dev.descTiles x.sector mem y)
          let d := (r.dev.countTiles x p n tiles.length ds.length).pageAgain row.sid ((ds.head?.map (fun y => (r.dev.descName x.sector y).1)).getD 0)
          let d := if p.keep && info.stats != 0 && info.mask != 2 && c.opcode == 0x10 then d.partStall row.sid 5 else d
          (one p info ((ds.head?.map (·.format)).getD 0) base tiles acc.1, ⟨r.mem, d, if badTree info then r.rows ++ [b] else r.rows, r.fault⟩)
    | _, _ => acc
  let r := (List.range rows.length).foldl step ((mem, NumFlags.none_), ⟨mem, q.2, [], false⟩)
  ⟨r.1.1, r.2.dev.numFlags x.core r.1.2, r.2.rows, r.2.fault⟩

/-- ATTN_FWD (R145 to R157, R68). -/
def attnFwdBody (faults : List StackFault) (x : EngCtx) (c : EngCmd) (mem : List Host.Cell) (d : Dev) : Ran :=
  attnWalk x c faults mem d (fun p info kfmt base tiles s => fwdRow x c p info kfmt base tiles s)

/-- ATTN_FWD (R151). -/
def execAttnFwd (core img : Nat) (faults : List StackFault) (s : State) : Host.Outcome State Fault Refusal :=
  onServingMem (runHead 0x10 core img (attnFwdBody faults)) s

/-- One batch row of ATTN_BWD: dQ to D, dV and dK added at grad_addr (R158, R159). -/
def bwdRow (x : EngCtx) (c : EngCmd) (p : AttnPar) (info : RowInfo) (kfmt base : Nat) (tiles : List (List Key)) (s : List Host.Cell × NumFlags) :
    List Host.Cell × NumFlags :=
  let dim := c.a.cols
  (List.range (p.g * info.qcount)).foldl (fun s r =>
    let at_ := fbAddr x.sector (statAddr p info.stats (r / p.g) (r % p.g))
    let m := decodeFloat fp32 (leNat (Mem.reads at_ 4 s.1))
    let lse := decodeFloat fp32 (leNat (Mem.reads (at_ + 4) 4 s.1))
    let di := decodeFloat fp32 (leNat (Mem.reads (fbAddr x.sector (info.delta + 4 * r)) 4 s.1))
    let o := gradRow x.sector s.1 c.alpha c.a.format c.b.format kfmt info dim (r / p.g) (x.row s.1 c.a (base + r)) (x.row s.1 c.b (base + r)) m lse di tiles
    let w := x.writeRow c (base + r) (x.accRow s.1 c (base + r) o.dq) s.1
    o.keys.foldl (fun s k =>
      addFp32s (fbAddr x.sector (info.grad + info.qcount * dim * 4 + k.1 * dim * 4)) k.2.1
        (addFp32s (fbAddr x.sector (info.grad + k.1 * dim * 4)) k.2.2 s)) (w.1, (s.2.or w.2).or o.flags)) s

/-- ATTN_BWD (R158). -/
def attnBwdBody (faults : List StackFault) (x : EngCtx) (c : EngCmd) (mem : List Host.Cell) (d : Dev) : Ran :=
  attnWalk x c faults mem d (fun p info kfmt base tiles s => bwdRow x c p info kfmt base tiles s)

/-- ATTN_BWD (R158, R159). -/
def execAttnBwd (core img : Nat) (faults : List StackFault) (s : State) : Host.Outcome State Fault Refusal :=
  onServingMem (runHead 0x11 core img (attnBwdBody faults)) s

/-! ### KV_APPEND (R109, R110, R155, R156) -/

/-- An append-list entry (R155). -/
structure AppendEntry where
  address : Nat
  position : Nat
  row : Nat
  prov : Bool

/-- Read an entry. -/
def EngCtx.appendEntry (x : EngCtx) (mem : List Host.Cell) (c : EngCmd) (n : Nat) : AppendEntry :=
  let f (o k : Nat) : Nat := leNat (Mem.reads (x.entry c.c n + o) k mem)
  ⟨f 0 8, f 8 4, f 12 2, (f 14 2).testBit 0⟩

/-- The bytes of an entry. -/
def appendBytes (e : AppendEntry) : List Byte := leBytes 8 e.address ++ leBytes 4 e.position ++ leBytes 2 e.row ++ leBytes 2 (b2n e.prov)

/-- The batch row that holds position `r` of a step. -/
def rowOfPosition : List StepRow → Nat → Option StepRow
  | [], _ => none
  | b :: bs, r => if r < b.qcount then some b else rowOfPosition bs (r - b.qcount)

/-- Where an aside copy goes: tier 0 when staging has room, tier 1 otherwise (R109). -/
def Dev.asidePlace (sector : Nat) (d : Dev) : Loc :=
  match d.pickUnit 0 sector 4 true false [] with
  | some u => ⟨0, u⟩
  | none => ⟨1, (d.pickUnit 1 sector 4 true false []).getD 0⟩

/-- A page pending in the snapshot is copied aside before an append; where the snapshot's own copy of it is under way the append waits for
that copy, and no aside copy is made (R109, R405). Either way the page is marked, and stalls no more. [DEDUCED: log entry 63] -/
def Dev.copyAside (sector sid : Nat) (p : Page) (copying : List Nat) (mem : List Host.Cell) (d : Dev) : Dev :=
  let k := pageKey p.stream p.ordinal
  if d.snapPending sid 3 k then
    d.snapMark sector sid k (if copying.contains sid then Loc.none_ else d.asidePlace sector)
      (match d.buoy sid, d.moor sid with | some b, some m => pageBytes b m p mem | _, _ => [])
  else d

/-- An append to the source of a migration abandons its copy, to be retried at the next boundary; after three the migration waits (R110). -/
def Dev.abandonCopy (sid : Nat) (p : Page) (d : Dev) : Dev :=
  let k := pageKey p.stream p.ordinal
  match d.moor sid with
  | some m =>
    match Tab.look k m.migrating with
    | some dest =>
      let n := Tab.getD k 0 m.abandons + 1
      let d := d.moorUpd sid (fun m => { m with migrating := Tab.del k m.migrating, abandons := Tab.put k n m.abandons, backOff := Tab.put k dest m.backOff })
      if n = 3 then d.flag Reg.SES_MOV_ERR.migrate_deferred else d
    | none => d
  | none => d

/-- The page of a session after one more row (R156, R404). -/
def Dev.growPage (sid : Nat) (p : Page) (d : Dev) : Dev :=
  d.moorUpd sid (fun m => { m with pages := m.pages.map (fun q =>
    if q.stream == p.stream && q.ordinal == p.ordinal then { q with valid := q.valid + 1, dirty := d.get Reg.CKPT_EPOCH.epoch % 4096 } else q) })

/-- The stack blocks that an append writes: keys and values, elements and scales (R428). -/
def Dev.countAppend (sector : Nat) (p : Page) (d : Dev) : Dev :=
  let z := kvRowSizes p.format (32 * p.dim32)
  let r := pageRegions p.format (32 * p.dim32) p.cap
  let base := tierAddr p.loc.tier sector (4096 * p.loc.unit)
  (((d.flatWrite (base + r.1 + p.valid * z.1) z.1).flatWrite (base + r.2.1 + p.valid * z.2) z.2).flatWrite (base + r.2.2.1 + p.valid * z.1) z.1).flatWrite
    (base + r.2.2.2 + p.valid * z.2) z.2

/-- A provisional row at its index (R155, R156): rows before it that are not yet written stand empty. -/
def putRow (j : Nat) (bytes : List Byte) (rows : List (List Byte)) : List (List Byte) := (rows ++ List.replicate (j + 1 - rows.length) []).set j bytes

/-- The stochastic-rounding value of element `i` of an appended row: keys come first, then values (R136). [DESIGN CHOICE: log entry 112] -/
def appendSr (x : EngCtx) (c : EngCmd) (row : Nat) (value : Bool) (i : Nat) : Option Nat :=
  srValue x.srAllow c ((if value then c.a.rows + row else row) * c.a.cols + i)

/-- A row taken from the append list for a page or a provisional block. -/
def appendTo (x : EngCtx) (c : EngCmd) (copying : List Nat) (e : AppendEntry) (row : StepRow) (m : Moor) (slot : LayerSlot) (stream : Nat)
    (acc : Ran × NumFlags) : Ran × NumFlags :=
  let mem := acc.1.mem
  let d := acc.1.dev
  let k := kvBytes (appendSr x c e.row false) slot.kvFormat (x.row mem c.a e.row)
  let v := kvBytes (appendSr x c e.row true) slot.kvFormat (x.row mem c.b e.row)
  let fl := (acc.2.or k.2.2).or v.2.2
  let fails (ordinal : Nat) : Ran × NumFlags := (⟨mem, d.pageFault x.core row.sid stream ordinal, acc.1.rows ++ [row.row], true⟩, acc.2)
  if e.prov then
    if e.address ≠ d.provAddr x.sector stream m then fails (e.position / max 1 slot.p)
    else
      let bytes := k.1 ++ k.2.1 ++ v.1 ++ v.2.1
      let d := d.moorUpd row.sid (fun m => { m with prov := Tab.put stream (putRow e.position bytes (Tab.getD stream [] m.prov)) m.prov })
      (⟨Mem.writes (fbAddr x.sector e.address + e.position * provRowBytes slot) bytes mem, d, acc.1.rows, acc.1.fault⟩, fl)
  else
    match m.pages.find? (fun p => p.stream == stream && locAddr p.loc == e.address) with
    | none => fails (e.position / max 1 slot.p)
    | some p =>
      if p.bad || d.pageLost x.sector p || e.position != p.first + p.valid || decide (p.cap ≤ p.valid) then fails p.ordinal
      else
        let d := (((d.copyAside x.sector row.sid p copying mem).abandonCopy row.sid p).growPage row.sid p).countAppend x.sector p
        (⟨writePageRow x.sector p p.valid k v mem, d, acc.1.rows, acc.1.fault⟩, fl)

/-- One entry of the append list: an address of 0 names nothing, and nothing is appended for an invalid row (R155, R223). An address of
no page of the stream, and a position that is not the page's next, fail as under R68. [DEDUCED: log entry 112] -/
def appendOne (x : EngCtx) (c : EngCmd) (copying : List Nat) (acc : Ran × NumFlags) (n : Nat) : Ran × NumFlags :=
  let d := acc.1.dev
  let e := x.appendEntry acc.1.mem c n
  match rowOfPosition (d.runRows x) e.row with
  | none => acc
  | some row =>
    if e.address = 0 ∨ row.invalid then acc
    else
      match d.moor row.sid, d.streamAt x.sector c.layerId (bitsOf 15 8 c.param0) with
      | some m, some (s, slot, _) => appendTo x c copying e row m slot s acc
      | _, _ => acc

/-- KV_APPEND (R155, R156). -/
def kvAppendBody (copying : List Nat) (x : EngCtx) (c : EngCmd) (mem : List Host.Cell) (d : Dev) : Ran :=
  let r := (List.range c.c.rows).foldl (appendOne x c copying) (⟨mem, d, [], false⟩, NumFlags.none_)
  ⟨r.1.mem, r.1.dev.numFlags x.core r.2, r.1.rows.eraseDups, r.1.fault⟩

/-- KV_APPEND (R156). -/
def execKvAppend (core img : Nat) (copying : List Nat) (s : State) : Host.Outcome State Fault Refusal :=
  onServingMem (runHead 0x12 core img (kvAppendBody copying)) s

end Sys2Proof.Machine
end

