-- ==== Sys2Proof/Machine/StepOps.lean ====
section
/-!
DEFINITION. Machine/StepOps.lean: what Keeper firmware lays out for a step: a joining session's parts, its pages, and the
step tables (R61, R63, R65, R145, R155, R173, R196).
-/
namespace Sys2Proof.Machine

/-! ### Places for parts -/

/-- A session's limit on this chip: the least of lps × 512 × P over its streams (R65). -/
def Dev.posLimit (sector : Nat) (d : Dev) : Nat :=
  match d.activeImg sector with
  | some i => (kvStreams i).foldl (fun m e => min m (i.lps * 512 * e.2.1.p)) (2 ^ 32)
  | none => 0

/-- The image slots' REC bytes before a layer's (R54). -/
def recOffset (i : Image) (layer : Nat) : Nat := ((i.slots.takeWhile (fun (s : LayerSlot) => s.layerId != layer)).map (·.recBytes)).sum

/-- STAT units of a session: its rows of every query head for up to stat_max × 64 positions (R55). -/
def Dev.statUnitsOf (i : Image) (d : Dev) : Nat :=
  ceilDiv (((i.slots.map (fun s => if s.kvFormat = 0xFF then 0 else s.kvHeads * s.g)).sum) * (d.com Reg.SES_CFG.stat_max * 64) * 8) 4096

/-- A stream's current write page: its last, where it is not yet full (R61). -/
def Moor.writePages (m : Moor) : List Page :=
  m.pages.filter (fun p => decide (p.valid < p.cap) && !p.shared && m.pages.all (fun q => q.stream != p.stream || decide (q.ordinal ≤ p.ordinal)))

/-- An object of a session copied into tier 0 as the session joins a batch, where staging has room; its old place is free at the next boundary
(R61, R62, R196). -/
def Dev.raisePart (sid : Nat) (o : ObjRef) (d : Dev) : Dev :=
  match d.buoy sid, d.moor sid with
  | some b, some m =>
    if (o.loc b m).tier ≠ 1 then d
    else
      match d.placeNew true o.big b.sector (o.units m) with
      | (l, d') =>
        if l.tier ≠ 0 then d'
        else
          let x := movePlan [⟨o, l, o.units m⟩] b m
          match o with
          | .page _ _ => d'.moorUpd sid (fun _ => x.2)
          | .ctrl => ((d'.locsUpd sid (fun _ => x.1)).moorUpd sid (fun _ => x.2)).ctrlUpd sid id
          | _ => (d'.locsUpd sid (fun _ => x.1)).moorUpd sid (fun _ => x.2)
  | _, _ => d

/-- A session joins a batch on this chip: parts it lacks take a place; CTRL comes into tier 0, and REC and each stream's write page too where
SES_CFG.tier0_write is set, as far as staging has room; STAT takes a place where statistics are kept (R53 to R55, R61, R196). -/
def Dev.joinParts (sid : Nat) (d : Dev) : Dev :=
  let d := (d.firstParts sid).raisePart sid .ctrl
  let d := if d.com Reg.SES_CFG.tier0_write = 1 then
      (match d.moor sid with
       | some m => (.recurrent :: m.writePages.map (fun p => ObjRef.page p.stream p.ordinal)).foldl (fun d o => d.raisePart sid o) d
       | none => d) else d
  match d.buoy sid with
  | some b =>
    match d.activeImg b.sector with
    | some i =>
      let units := d.statUnitsOf i
      if d.com Reg.SES_CFG.refine_stats == 1 && b.refine && b.statLoc.tier == 3 && units != 0 then
        (let r := d.placeNew false false b.sector units
         (r.2.locsUpd sid (fun b => { b with statLoc := r.1 })).moorUpd sid (fun m => { m with statUnits := units }))
      else d
    | none => d
  | none => d

/-- A leaf that a new page needs takes a place in tier 1 (R63, R64). -/
def Dev.leafFor (sid sector stream ordinal : Nat) (d : Dev) : Dev :=
  let k := leafKey stream (ordinal / 512)
  if (match d.moor sid with | some m => Tab.has k m.leafLocs | none => true) then d
  else
    let r := d.placeNew false false sector 1
    r.2.moorUpd sid (fun m => { m with leafLocs := Tab.put k r.1 m.leafLocs })

/-- One new page at the end of a stream (R49, R61), with its leaf; the root is rewritten (R63). -/
def Dev.newPage (sid : Nat) (i : Image) (stream : Nat) (slot : LayerSlot) (head ordinal : Nat) (d : Dev) : Dev :=
  match d.buoy sid with
  | none => d
  | some b =>
    let d := d.leafFor sid b.sector stream ordinal
    let r := d.placeNew (d.com Reg.SES_CFG.tier0_write == 1) true b.sector 4
    let p : Page := { stream := stream, ordinal := ordinal, loc := r.1, shared := false, dirty := r.2.get Reg.CKPT_EPOCH.epoch % 4096,
                      first := ordinal * slot.p, valid := 0, cap := slot.p, format := slot.kvFormat, dim32 := slot.dim32,
                      layerId := slot.layerId, kvHead := head, key := 0, keyed := false, bad := false }
    r.2.rootUpd sid (fun m => { m with modelRevision := i.modelRevision, pages := m.pages ++ [p] })

/-- Units of a provisional block: up to 16 rows for each stream (R56). -/
def provUnitsOf (i : Image) : Nat := ceilDiv (((kvStreams i).map (fun e => 16 * provRowBytes e.2.1)).sum) 4096

/-- A session with a tree row has a provisional block: in tier 0, or in tier 1 with SES_ERR.tier0_short where staging is short (R56). -/
def Dev.provBlock (sid : Nat) (d : Dev) : Dev :=
  match d.buoy sid, d.moor sid with
  | some b, some m =>
    (match d.activeImg b.sector with
     | some i =>
       if m.provUnits ≠ 0 || provUnitsOf i = 0 then d
       else
         let r := d.placeNew true false b.sector (provUnitsOf i)
         r.2.moorUpd sid (fun m => { m with provLoc := r.1, provUnits := provUnitsOf i })
     | none => d)
  | _, _ => d

/-- Where kept statistics begin once a row is in: the turn's first position, or what keeps the row among the last positions kept (R55). -/
def Dev.statStart (r : StepRow) (m : Moor) (d : Dev) : Nat := max m.startCtx (r.qbase + r.qcount - d.statWindow)

/-- The position from which a session's statistics are kept moves on with a row (R55). -/
def Dev.moveStats (r : StepRow) (d : Dev) : Dev :=
  d.moorUpd r.sid (fun m => if r.tree || m.statUnits == 0 then m else { m with statBase := d.statStart r m })

/-- The rows kept slide to the front of each head's area as the earliest positions are dropped (R55, R157). -/
def slideStats (i : Image) (r : StepRow) (mem : List Host.Cell) (d d' : Dev) : List Host.Cell :=
  match d.buoy r.sid, d.moor r.sid, d'.moor r.sid with
  | some b, some m, some m' =>
    if b.statLoc.tier = 3 ∨ m.statBase < m.startCtx ∨ m'.statBase ≤ m.statBase then mem
    else
      let w := d.statWindow
      let gone := min w (m'.statBase - m.statBase)
      let heads := (i.slots.map (fun s => if s.kvFormat = 0xFF then 0 else s.kvHeads * s.g)).sum
      copyParts mem ((List.range heads).map (fun h =>
        (flatLoc b.sector b.statLoc + (h * w + gone) * 8, flatLoc b.sector b.statLoc + h * w * 8, (w - gone) * 8))) mem
  | _, _, _ => mem

/-- Memory after a session's places on the chip changed for a step: what moved keeps its bytes; new pages and STAT hold zeros, as
does REC of a session without positions (R50, R54, R58). [DESIGN CHOICE: log entry 109] -/
def placeBytes (sid : Nat) (d d' : Dev) (mem : List Host.Cell) : List Host.Cell :=
  match d'.buoy sid, d'.moor sid with
  | some b', some m' =>
    let m := (d.moor sid).getD Moor.empty
    let mem := moveBytes sid d d' mem
    let fresh := m'.pages.filter (fun p => !p.shared && m.pages.all (fun q => q.stream != p.stream || q.ordinal != p.ordinal))
    let mem := fresh.foldl (fun mem p => Mem.zero (flatLoc b'.sector p.loc) 16384 mem) mem
    let had (f : Buoy → Loc) : Bool := match d.buoy sid with | some b => (f b).tier != 3 | none => false
    let mem := if b'.recLoc.tier = 3 || (had (·.recLoc) && b'.ctx != 0) then mem else Mem.zero (flatLoc b'.sector b'.recLoc) (4096 * m'.recUnits) mem
    if b'.statLoc.tier = 3 || had (·.statLoc) then mem else Mem.zero (flatLoc b'.sector b'.statLoc) (4096 * m'.statUnits) mem
  | _, _ => mem

/-- Every stream of a session has pages for the positions below `upto` (R65). -/
def Dev.ensurePages (sid upto : Nat) (d : Dev) : Dev :=
  match d.buoy sid with
  | none => d
  | some b =>
    match d.activeImg b.sector with
    | none => d
    | some i =>
      (kvStreams i).foldl (fun d e =>
        (List.range (ceilDiv upto e.2.1.p)).foldl (fun d o =>
          match d.moor sid with
          | some m => if m.pages.any (fun p => p.stream == e.1 && p.ordinal == o) then d else d.newPage sid i e.1 e.2.1 e.2.2 o
          | none => d) d) d

/-- What a row needs on the chip: pages for its positions, the move of its statistics, and, for a tree row, the provisional block (R55,
R56, R65). -/
def Dev.stepParts (r : StepRow) (d : Dev) : Dev :=
  let d := (d.ensurePages r.sid (r.qbase + r.qcount)).moveStats r
  if r.tree then d.provBlock r.sid else d

/-- Memory after `stepParts` and a join, `d` before and `d'` after (R50, R54, R55, R58). -/
def rowBytesMoved (n : Nat) (r : StepRow) (d d' : Dev) (mem : List Host.Cell) : List Host.Cell :=
  let mem := placeBytes r.sid d d' mem
  match d'.activeImg n with | some i => slideStats i r mem d d' | none => mem

/-! ### Step tables (R145, R155, R173, R196) -/

/-- A tier-1 fall-back address that the manual does not place: where ATTN_BWD finds D_i or adds its gradients (R145). [DESIGN CHOICE: log entry 114] -/
def Dev.gradArea (n code layer sid : Nat) (d : Dev) : Nat := locAddr ⟨1, Config.unstated code [n, layer, sid] % max 1 (d.tierCap 1 n)⟩

/-- The row-information entry of a batch row for a layer; statistics of a row that the part cannot hold whole are not kept (R55, R157). [DESIGN CHOICE: log entry 109] -/
def Dev.infoOf (sector : Nat) (c : EngCmd) (r : StepRow) (d : Dev) : RowInfo :=
  let slot : Option LayerSlot := match d.activeImg sector with | some i => i.slots.find? (fun (s : LayerSlot) => s.layerId == c.layerId) | none => none
  let windowed : Bool := match slot with | some s => s.kind == 1 | none => false
  let w : Nat := match slot with | some s => if s.kind = 1 then s.window else 0 | none => 0
  let before := match d.activeImg sector with
    | some i => ((i.slots.takeWhile (fun (s : LayerSlot) => s.layerId != c.layerId)).map (fun s => if s.kvFormat = 0xFF then 0 else s.kvHeads * s.g)).sum
    | none => 0
  let stats := match d.buoy r.sid, d.moor r.sid with
    | some b, some m =>
      if d.com Reg.SES_CFG.refine_stats == 1 && b.refine && b.statLoc.tier != 3 && !r.tree && decide (d.statStart r m ≤ r.qbase) then
        locAddr b.statLoc + (before * d.statWindow + (r.qbase - d.statStart r m)) * 8 else 0
    | _, _ => 0
  { qbase := r.qbase, qcount := r.qcount, mask := if r.tree then 2 else if windowed then 1 else 0, present := !r.invalid, window := w,
    parents := (r.parents ++ List.replicate 16 0xFF).take 16, stats := stats, maskAddr := 0,
    delta := if c.opcode = 0x11 then d.gradArea sector 68 c.layerId r.sid else 0, grad := if c.opcode = 0x11 then d.gradArea sector 69 c.layerId r.sid else 0 }

/-- The append entry of position `j` of a batch row for a stream (R155, R223): positions below the chip's own context
length, and rows not present, have none (address 0). -/
def Dev.appendOf (c : EngCmd) (at_ : Nat) (r : StepRow) (j : Nat) (d : Dev) : AppendEntry :=
  match d.buoy r.sid, d.moor r.sid with
  | some b, some m =>
    if r.invalid then ⟨0, 0, 0, false⟩
    else if r.tree then
      (match d.streamAt b.sector c.layerId (bitsOf 15 8 c.param0) with | some (s, _, _) => ⟨d.provAddr b.sector s m, j, at_ + j, true⟩ | none => ⟨0, 0, 0, false⟩)
    else if r.qbase + j < b.ctx then ⟨0, 0, 0, false⟩
    else
      match (streamPages c.layerId (bitsOf 15 8 c.param0) m).find? (fun p => decide (p.first ≤ r.qbase + j) && decide (r.qbase + j < p.first + p.cap)) with
      | some p => ⟨locAddr p.loc, r.qbase + j, at_ + j, false⟩
      | none => ⟨0, 0, 0, false⟩
  | _, _ => ⟨0, 0, 0, false⟩

/-- Every position of the step with its batch row and place in it. -/
def stepPositions : List StepRow → Nat → List (StepRow × Nat × Nat)
  | [], _ => []
  | r :: rs, at_ => (List.range r.qcount).map (fun j => (r, at_, j)) ++ stepPositions rs (at_ + r.qcount)

/-- The address that a position's batch row has in a RECUR or ADAPT list: none for a row that is not present (R57, R196, R223). -/
def Dev.listAddr (sector : Nat) (c : EngCmd) (r : StepRow) (d : Dev) : Nat :=
  match d.buoy r.sid, d.activeImg sector with
  | some b, some i =>
    if r.invalid then 0
    else if c.opcode = 0x18 then (if b.recLoc.tier = 3 then 0 else locAddr b.recLoc + recOffset i c.layerId)
    else if b.adapterRef = 0 then 0 else 2 * 2 ^ 62 + 2 ^ 40 + b.adapterRef * 2 ^ 28
  | _, _ => 0

/-- The entries of a command's step table; none for a command that takes none (R173). -/
def Dev.tableEntries (sector : Nat) (rows : List StepRow) (c : EngCmd) (d : Dev) : List (List Byte) :=
  let ps := stepPositions rows 0
  if c.opcode = 0x10 ∨ c.opcode = 0x11 then rows.map (fun r => infoBytes (d.infoOf sector c r))
  else if c.opcode = 0x12 then
    (List.range c.c.rows).map (fun k => match ps[k]? with
      | some p => appendBytes (d.appendOf c p.2.1 p.1 p.2.2)
      | none => appendBytes ⟨0, 0, 0, false⟩)
  else if c.opcode = 0x18 ∨ c.opcode = 0x30 then ps.map (fun p => leBytes 8 (d.listAddr sector c p.1))
  else []

/-- A command's step table is written, entry by entry (R139, R173). -/
def Dev.writeTable (x : EngCtx) (rows : List StepRow) (c : EngCmd) (mem : List Host.Cell) (d : Dev) : List Host.Cell :=
  let es := d.tableEntries x.sector rows c
  ((List.range es.length).zip es).foldl (fun mem e => Mem.writes (x.entry c.c e.1) e.2 mem) mem

/-- The step tables of an image core are written for the step, into STEP half (step number mod 2) (R173). -/
def Dev.writeTables (core img step : Nat) (rows : List StepRow) (mem : List Host.Cell) (d : Dev) : List Host.Cell :=
  match d.coreEntry core img with
  | none => mem
  | some e =>
    let x := { d.engCtx core img with stepHalf := step % 2 }
    e.step.foldl (fun mem c => d.writeTable x rows c mem) mem

/-! ### Segments (R185, R220) -/

/-- Flat address at which an inbound segment's bytes are staged. [DEDUCED: log entry 34] -/
def stageAddr (sector batch seg : Nat) : Nat := 2 ^ 63 + ((sector * 128 + batch) * 256 + seg) * 2 ^ 32

/-- An IO region's base in an image core's SRAM. -/
def ioBase (e : CoreEntry) : Nat := match e.regions[5]? with | some r => r.1 | none => 0

/-- A staged segment is written into the IO region of an image core (R220). -/
def Dev.writeSegment (core img batch : Nat) (positions : Nat) (g : SegEntry) (mem : List Host.Cell) (d : Dev) : List Host.Cell :=
  match d.coreEntry core img with
  | none => mem
  | some e =>
    let x := d.engCtx core img
    copyParts mem [(stageAddr x.sector batch g.number, x.sram img (ioBase e + g.ioOffset), g.bytesPerRow * positions)] mem

/-- Inbound segments of an image core. [DEDUCED: log entry 34] -/
def inSegs (i : Image) (img : Nat) : List SegEntry := i.segs.filter (fun g => !g.out && g.mask.testBit img)
/-- Outbound segments of an image core, in order. [DEDUCED: log entry 34] -/
def outSegs (i : Image) (img : Nat) : List SegEntry := i.segs.filter (fun g => g.out && g.mask.testBit img)

/-- One more signal on a slot (R170); a failed command's poisons it (R176). -/
def ListRun.bump (slot : Nat) (failed : Bool) (l : ListRun) : ListRun :=
  { l with slots := Tab.put slot (min 4095 (Tab.getD slot 0 l.slots + 1)) l.slots,
           poison := if failed && !l.poison.contains slot then slot :: l.poison else l.poison }

end Sys2Proof.Machine
end

