-- ==== Sys2Proof/Machine/Commit.lean ====
section
/-!
DEFINITION. Machine/Commit.lean: the capture of SH fields and the points at which a pending set takes effect (R378, R384 to
R386), with the commit registers' rows.
-/
namespace Sys2Proof.Machine

/-- Blocks of a pending set: SES, SEL, IDX, SCT, LENS, and 0x100 + core for a core. -/
def Blk.ses : Nat := 0
/-- SEL. -/
def Blk.sel : Nat := 1
/-- IDX. -/
def Blk.idx : Nat := 3
/-- SCT. -/
def Blk.sct : Nat := 4
/-- LENS. -/
def Blk.lens : Nat := 5

/-- SH fields of the SES block (R384). -/
def sesShadow : List Fld :=
  [Reg.SES_CFG.stat_max, Reg.SES_CFG.dedup_horizon, Reg.SES_CFG.tier0_write, Reg.SES_CFG.refine_stats, Reg.SES_CFG.dedup_enable] ++
  (List.range 16).flatMap (fun n => [Reg.SES_QUOTA.max_buoys n, Reg.SES_IDBASE.base n, Reg.SES_IDLIM.limit n])

/-- SH fields of the merge slots (R256). -/
def selShadow : List Fld := (List.range 16).flatMap (fun m => [Reg.SEL_MRG.enable m, Reg.SEL_MRG.sector m, Reg.SEL_MRG.sources m])

/-- SH fields of the table cores (R333). -/
def idxShadow : List Fld := (List.range 16).map Reg.IDX_TABCORE.core

/-- SH fields of the bandwidth shares (R361). -/
def sctShadow : List Fld :=
  (List.range 16).flatMap (fun n => [Reg.SCT_BW.ethernet n, Reg.SCT_BW.lemdin n, Reg.SCT_BW.flash n, Reg.SCT_BW.stack n, Reg.SCT_BW2.pcie n])

/-- SH fields of the Lens entry with a key (R392 to R394). -/
def lensShadow (k : Nat) : List Fld :=
  if k < 0x10000 then
    [Reg.LENS_QRATE.rate k, Reg.LENS_QDEPTH.depth k, Reg.LENS_QCTL.enable k, Reg.LENS_QCTL.reset_mode k, Reg.LENS_QCTL.unit k,
     Reg.LENS_QCTL.sample k, Reg.LENS_QCTL.overhead k]
  else if k < 0x20000 then
    [Reg.LENS_ARATE.rate (k - 0x10000), Reg.LENS_ADEPTH.depth (k - 0x10000), Reg.LENS_ACTL.enable (k - 0x10000),
     Reg.LENS_ACTL.reset_mode (k - 0x10000), Reg.LENS_ACTL.unmetered (k - 0x10000), Reg.LENS_ACTL.sector (k - 0x10000),
     Reg.LENS_ACTL.prefill_w (k - 0x10000), Reg.LENS_ACTL.decode_w (k - 0x10000), Reg.LENS_ACTL.row_charge (k - 0x10000)]
  else
    [Reg.LENS_PRATE.rate (k - 0x20000), Reg.LENS_PDEPTH.depth (k - 0x20000), Reg.LENS_PCTL.enable (k - 0x20000),
     Reg.LENS_PCTL.reset_mode (k - 0x20000), Reg.LENS_PCTL.overhead (k - 0x20000)]

/-- Capture fields into a block's pending set, replacing one that waits (R384). [DEDUCED: log entry 18] -/
def Dev.capture (block : Nat) (fs : List Fld) (d : Dev) : Dev :=
  { d with pends := d.pends.filter (fun p => p.block != block) ++ [⟨block, d.now, fs.map (fun f => (f.key, d.get f))⟩] }

/-- The committed values of captured fields. [DEDUCED: log entry 18] -/
def Dev.adopt (vals : List (Nat × Nat)) (d : Dev) : Dev := vals.foldl (fun d v => d.setCom v.1 v.2) d

/-- The captured values that belong to one entry of the Lens. -/
def PendSet.ofEntry (k : Nat) (p : PendSet) : List (Nat × Nat) :=
  p.vals.filter (fun v => (lensShadow k).any (fun f => f.key == v.1))

/-- A commit takes effect on the Lens: each changed entry captured takes its new configuration
(R378), and a new slot width places the calendar's entries again (R380). -/
def Dev.adoptLens (p : PendSet) (d : Dev) : Dev :=
  let keys := d.lens.changed.eraseDups.filter (fun k => !(p.ofEntry k).isEmpty)
  let d := keys.foldl (fun d k => d.lensReset k (Dev.adopt (p.ofEntry k))) d
  let d : Dev := { d with lens := { d.lens with changed := d.lens.changed.diff keys } }
  let w := d.slotW
  let d := d.adopt (p.vals.filter (fun v => v.1 == Reg.LENS_CFG.slot_w.key))
  if d.slotW = w then d else d.calRewidth

/-- The committed shares of one resource over the present Sectors (R348). -/
def Dev.shareSum (f : Nat → Fld) (d : Dev) : Nat := ((List.range 16).map (fun n => if d.present n then d.com (f n) else 0)).sum

/-- Shares that sum to more than 256 are reported (R348). [DEDUCED: log entry 19] -/
def Dev.checkShares (d : Dev) : Dev :=
  if [Reg.SCT_BW.ethernet, Reg.SCT_BW.lemdin, Reg.SCT_BW.flash, Reg.SCT_BW.stack, Reg.SCT_BW2.pcie].any (fun f => decide (256 < d.shareSum f))
  then d.flag Reg.SCT_ERR.share_over else d

/-- The committed session-ID ranges of two present Sectors overlap (R86): an empty range overlaps none. -/
def Dev.rangesOverlap (d : Dev) : Bool :=
  (List.range 16).any (fun a => (List.range 16).any (fun b => decide (a < b) && d.present a && d.present b &&
    (let lo := max 1 (max (d.com (Reg.SES_IDBASE.base a)) (d.com (Reg.SES_IDBASE.base b)))
     decide (lo ≤ min (d.com (Reg.SES_IDLIM.limit a)) (d.com (Reg.SES_IDLIM.limit b))))))

/-- An overlap is reported (R86). [DEDUCED: log entry 19] -/
def Dev.checkRanges (d : Dev) : Dev := if d.rangesOverlap then d.flag Reg.SES_ERR.id_overlap else d

/-- A pending set takes effect. -/
def Dev.takePend (p : PendSet) (d : Dev) : Dev :=
  let d : Dev := { d with pends := d.pends.filter (fun q => q.block != p.block) }
  if p.block = Blk.lens then d.adoptLens p else if p.block = Blk.sct then (d.adopt p.vals).checkShares
  else if p.block = Blk.ses then (d.adopt p.vals).checkRanges else d.adopt p.vals

/-- Every pending set that `which` selects takes effect. [DEDUCED: log entries 18, 67] -/
def Dev.takePends (which : PendSet → Bool) (d : Dev) : Dev := (d.pends.filter which).foldl (fun d p => d.takePend p) d

/-- Sets whose commit point is a batch step boundary of a Sector: SES and SEL at any Sector's, a core's at its own
Sector's (R384). -/
def Dev.boundarySet (sector : Nat) (d : Dev) (p : PendSet) : Bool :=
  p.block == Blk.ses || p.block == Blk.sel || (decide (0x100 ≤ p.block) && d.coreSector (p.block - 0x100) == sector)

/-- Pending sets whose commit point is a boundary of the Sector take effect (R384, R385). [DEDUCED: log entry 18] -/
def Dev.commitBoundary (sector : Nat) (d : Dev) : Dev := d.takePends (d.boundarySet sector)

/-- SES_COMMIT (R78, R384). -/
def execSesCommit (m : Master) (t : Nat) (s : State) : Host.Outcome State Fault Refusal :=
  onServing (fun d => (d.advance t).ownerWrite m.code (fun d => d.capture Blk.ses sesShadow)) s
/-- SEL_COMMIT (R256, R384). -/
def execSelCommit (m : Master) (t : Nat) (s : State) : Host.Outcome State Fault Refusal :=
  onServing (fun d => (d.advance t).ownerWrite m.code (fun d => d.capture Blk.sel selShadow)) s
/-- IDX_COMMIT (R333, R384). -/
def execIdxCommit (m : Master) (t : Nat) (s : State) : Host.Outcome State Fault Refusal :=
  onServing (fun d => (d.advance t).ownerWrite m.code (fun d => d.capture Blk.idx idxShadow)) s

/-- A commit of the shares: each regulator's next frame starts at once; while a previous map is held, the set waits for the end of the
hold (R384). [DEDUCED: log entry 18] -/
def Dev.sctCommit (d : Dev) : Dev :=
  let d := d.capture Blk.sct sctShadow
  if d.comp.prev.isNone then d.takePends (fun p => p.block == Blk.sct) else d

/-- SCT_COMMIT (R361, R384). -/
def execSctCommit (m : Master) (t : Nat) (s : State) : Host.Outcome State Fault Refusal :=
  onServing (fun d => (d.advance t).ownerWrite m.code Dev.sctCommit) s

/-- A commit of the Lens captures the slot width and the entries written (R378, R384). -/
def Dev.lensCommit (d : Dev) : Dev :=
  let d : Dev := { d with lens := { d.lens with changed := d.lens.changed.eraseDups } }
  d.capture Blk.lens (Reg.LENS_CFG.slot_w :: d.lens.changed.flatMap lensShadow)

/-- LENS_COMMIT (R378, R384, R388). -/
def execLensCommit (m : Master) (t : Nat) (s : State) : Host.Outcome State Fault Refusal :=
  onServing (fun d => (d.advance t).ownerWrite m.code Dev.lensCommit) s

/-- A write to CORE_SEQ_CFG: refine_enable is live; step_timeout waits for the Sector's boundary (R200, R384). -/
def Dev.coreSeqCfg (core value : Nat) (d : Dev) : Dev :=
  let d := (d.put (Reg.CORE_SEQ_CFG.refine_enable core) (value % 2)).put (Reg.CORE_SEQ_CFG.step_timeout core) (value / 65536)
  d.capture (0x100 + core) [Reg.CORE_SEQ_CFG.step_timeout core]

/-- CORE_SEQ_CFG_WRITE (R200, R384). -/
def execCoreSeqCfgWrite (m : Master) (core value t : Nat) (s : State) : Host.Outcome State Fault Refusal :=
  onServing (fun d => (d.advance t).ownerWrite m.code (fun d => d.coreSeqCfg core value)) s

/-- COMMIT_FALLBACK_TIMER (R385): a pending set whose commit point is a boundary takes effect 1 ms after its write. [DEDUCED: log entry 18] -/
def execCommitFallbackTimer (t : Nat) (s : State) : Host.Outcome State Fault Refusal :=
  onServing (fun d =>
    let d := d.advance t
    d.takePends (fun p => (p.block == Blk.ses || p.block == Blk.sel || decide (0x100 ≤ p.block)) && decide (p.at_ + ms 1 ≤ d.now))) s

end Sys2Proof.Machine
end

