-- ==== Sys2Proof/Machine/ImageFile.lean ====
section
/-!
DEFINITION. Machine/ImageFile.lean: layer images as bytes: header, section table and sections, and engine commands as the 128 bytes of a
command list (R138, R139, R168, R169, R179 to R185, R194, R457).
-/
namespace Sys2Proof.Machine

/-- The little-endian field of `n` bytes at an offset of some bytes. -/
def fld (bs : List Byte) (off n : Nat) : Nat := leNat ((bs.drop off).take n)

/-- The bytes at an offset are zero. -/
def zeroAt (bs : List Byte) (off n : Nat) : Bool := ((bs.drop off).take n).all (· == 0)

/-- Element `k` of a table of `size`-byte elements at an offset. -/
def elemAt (bs : List Byte) (off size k : Nat) : List Byte := (bs.drop (off + size * k)).take size

/-- The elements of a table. -/
def elemsAt (bs : List Byte) (off size count : Nat) : List (List Byte) := (List.range count).map (elemAt bs off size)

/-! ### Engine commands (R138, R139, R169) -/

/-- An operand descriptor from its 24 bytes (R139). -/
def operandOf (bs : List Byte) : Operand :=
  { address := fld bs 0 6, space := fld bs 6 1, format := fld bs 7 1, rows := fld bs 8 2, cols := fld bs 10 2, rowStride := fld bs 12 4,
    scaleOffset := fld bs 16 4, scaleStride := fld bs 20 2 }

/-- An operand descriptor's 24 bytes. -/
def operandBytes (o : Operand) : List Byte :=
  leBytes 6 o.address ++ leBytes 1 o.space ++ leBytes 1 o.format ++ leBytes 2 o.rows ++ leBytes 2 o.cols ++ leBytes 4 o.rowStride ++
    leBytes 4 o.scaleOffset ++ leBytes 2 o.scaleStride ++ leBytes 2 0

/-- The sequencing field (R169). -/
def sequencingOf (w : Nat) : Sequencing :=
  { waitA := bitsOf 5 0 w, waitAEn := w.testBit 6, waitACount := bitsOf 43 32 w, waitB := bitsOf 13 8 w, waitBEn := w.testBit 14, waitBCount := bitsOf 55 44 w,
    fence := w.testBit 7, signalSlot := bitsOf 21 16 w, signalEn := w.testBit 22, signalRemote := w.testBit 23, remoteCore := bitsOf 28 24 w,
    mStep := w.testBit 29, stepEnd := w.testBit 30 }

/-- The sequencing field's value. -/
def sequencingBits (q : Sequencing) : Nat :=
  q.waitA % 64 + b2n q.waitAEn * 2 ^ 6 + b2n q.fence * 2 ^ 7 + q.waitB % 64 * 2 ^ 8 + b2n q.waitBEn * 2 ^ 14 + q.signalSlot % 64 * 2 ^ 16 +
    b2n q.signalEn * 2 ^ 22 + b2n q.signalRemote * 2 ^ 23 + q.remoteCore % 32 * 2 ^ 24 + b2n q.mStep * 2 ^ 29 + b2n q.stepEnd * 2 ^ 30 +
    q.waitACount % 4096 * 2 ^ 32 + q.waitBCount % 4096 * 2 ^ 44

/-- An engine command from its 128 bytes (R138). -/
def cmdOf (bs : List Byte) : EngCmd :=
  let f := fld bs 1 1
  { opcode := fld bs 0 1, acc := f.testBit 0, sr := f.testBit 1, sat := f.testBit 2, layerId := fld bs 2 2, operatorId := fld bs 4 2,
    outFormat := fld bs 6 1, epilogue := fld bs 7 1, alpha := fld bs 8 4, beta := fld bs 12 4, param0 := fld bs 16 4, param1 := fld bs 20 4,
    seqn := sequencingOf (fld bs 24 8), a := operandOf (elemAt bs 0x20 24 0), b := operandOf (elemAt bs 0x20 24 1), c := operandOf (elemAt bs 0x20 24 2),
    d := operandOf (elemAt bs 0x20 24 3) }

/-- An engine command's 128 bytes. -/
def cmdBytes (c : EngCmd) : List Byte :=
  leBytes 1 c.opcode ++ leBytes 1 (b2n c.acc + 2 * b2n c.sr + 4 * b2n c.sat) ++ leBytes 2 c.layerId ++ leBytes 2 c.operatorId ++ leBytes 1 c.outFormat ++
    leBytes 1 c.epilogue ++ leBytes 4 c.alpha ++ leBytes 4 c.beta ++ leBytes 4 c.param0 ++ leBytes 4 c.param1 ++ leBytes 8 (sequencingBits c.seqn) ++
    operandBytes c.a ++ operandBytes c.b ++ operandBytes c.c ++ operandBytes c.d

/-- The reserved fields of a command are zero. -/
def cmdReserved (bs : List Byte) : Bool :=
  let q := fld bs 24 8
  fld bs 1 1 / 8 == 0 && !q.testBit 15 && !q.testBit 31 && q / 2 ^ 56 == 0 && [0x36, 0x4E, 0x66, 0x7E].all (fun o => zeroAt bs o 2)

/-! ### The tables of an image (R181 to R185, R194) -/

/-- A layer-slot entry and its reserved fields. -/
def slotOf (bs : List Byte) : LayerSlot :=
  { layerId := fld bs 0 2, kind := fld bs 2 1, kvFormat := fld bs 3 1, p := fld bs 4 2, dim32 := fld bs 6 1, g := fld bs 7 1, kvHeads := fld bs 8 2,
    window := fld bs 12 4, recBytes := fld bs 16 4 }

/-- A core-table entry; its lists are elements of the command-list data. -/
def coreOf (cmds : List (List Byte)) (bs : List Byte) : CoreEntry :=
  let n := fld bs 4 4
  let at_ := fld bs 12 4
  { index := fld bs 0 2, regions := (List.range 6).map (fun k => (fld bs (0x10 + 8 * k) 4, fld bs (0x14 + 8 * k) 4)),
    step := ((cmds.drop at_).take n).map cmdOf, refine := ((cmds.drop (at_ + n)).take (fld bs 8 4)).map cmdOf }

/-- A blob entry with its bytes of the blob data. -/
def blobOf (data bs : List Byte) : Blob :=
  { size := fld bs 8 8, placement := fld bs 16 1, core := fld bs 17 1, sramOffset := fld bs 20 4, bytes := (data.drop (fld bs 0 8)).take (fld bs 8 8) }

/-- A relocation entry. -/
def relocOf (bs : List Byte) : Reloc := { core := fld bs 0 1, list := fld bs 1 1, operand := fld bs 2 1, command := fld bs 4 4, target := fld bs 8 4 }

/-- A segment entry. -/
def segOf (bs : List Byte) : SegEntry := { out := fld bs 0 1 == 1, number := fld bs 1 1, mask := fld bs 4 4, ioOffset := fld bs 8 4, bytesPerRow := fld bs 12 4 }

/-- A mixture-of-experts entry. -/
def moeOf (bs : List Byte) : MoeEntry :=
  { layerId := fld bs 0 2, experts := fld bs 2 2, topK := fld bs 4 1, gateNorm := fld bs 5 1, selectCore := fld bs 6 1, firstCore := fld bs 7 1,
    perCore := fld bs 8 2, logitsOffset := fld bs 12 4, routeOffset := fld bs 16 4 }

/-! ### The file (R179, R180) -/

/-- Bytes of an element of a section kind; 0 for a kind that is not listed (R180). -/
def sectionElem (kind : Nat) : Nat :=
  match kind with
  | 1 => 32 | 2 => 64 | 3 => 32 | 4 => 16 | 5 => 16 | 6 => 32 | 7 => 16 | 8 => 128 | 9 => 1 | 15 => 1
  | _ => 0

/-- The section table of `entries` entries: kind, count of elements, offset (R179). -/
def sectionsOf (entries : Nat) (bs : List Byte) : List (Nat × Nat × Nat) :=
  (List.range (min entries (bs.length / 16))).map (fun k => let e := elemAt bs 0x80 16 k; (fld e 0 2, fld e 4 4, fld e 8 8))

/-- The elements of every section of a kind, in table order, `size` giving the element size of a kind. -/
def sectionElems (size : Nat → Nat) (bs : List Byte) (secs : List (Nat × Nat × Nat)) (kind : Nat) : List (List Byte) :=
  (secs.filter (fun s => s.1 == kind)).flatMap (fun s => elemsAt bs s.2.2 (size kind) s.2.1)

/-- The bytes of every section of a kind, in table order. -/
def sectionBytes (size : Nat → Nat) (bs : List Byte) (secs : List (Nat × Nat × Nat)) (kind : Nat) : List Byte :=
  (secs.filter (fun s => s.1 == kind)).flatMap (fun s => (bs.drop s.2.2).take (size kind * s.2.1))

/-- All `entries` sections are of listed kinds and lie between the section table and the end, none but those of the kinds in `many` stands
twice, the kinds in `must` are there, and the signature section, of 3,520 bytes, is the last (R179, R180, R266, R285, R457). -/
def tableOk (size : Nat → Nat) (entries : Nat) (many must : List Nat) (length : Nat) (secs : List (Nat × Nat × Nat)) : Bool :=
  let kinds := secs.map (·.1)
  secs.length == entries &&
  secs.all (fun s => size s.1 != 0 && decide (0x80 + 16 * secs.length ≤ s.2.2) && decide (s.2.2 + size s.1 * s.2.1 ≤ length)) &&
  kinds.all (fun k => many.contains k || kinds.count k == 1) && must.all kinds.contains &&
  (match secs.getLast? with
   | some s => s.1 == 15 && s.2.1 == 3520 && secs.all (fun x => decide (x.2.2 ≤ s.2.2))
   | none => false)

/-- The reserved fields of the section table are zero. -/
def tableReserved (bs : List Byte) (secs : List (Nat × Nat × Nat)) : Bool := (List.range secs.length).all (fun k => zeroAt bs (0x82 + 16 * k) 2)

/-- The reserved fields of a signature section are zero (R457). -/
def sigReserved (s : List Byte) : Bool := zeroAt s 5 3 && zeroAt s 0x2C 20 && zeroAt s 0xD8D 51

/-- Every reserved field of an image is zero (R187 check 2). -/
def reservedOk (bs : List Byte) (secs : List (Nat × Nat × Nat)) : Bool :=
  let all (kind : Nat) (p : List Byte → Bool) : Bool := (sectionElems sectionElem bs secs kind).all p
  fld bs 6 2 / 2 == 0 && zeroAt bs 0x58 40 && tableReserved bs secs &&
  all 1 (fun e => zeroAt e 10 2 && zeroAt e 20 12) && all 2 (fun e => zeroAt e 2 2) && all 3 (fun e => zeroAt e 18 2 && zeroAt e 24 8) &&
  all 4 (fun e => zeroAt e 3 1 && zeroAt e 12 4) && all 5 (fun e => zeroAt e 2 2) && all 6 (fun e => zeroAt e 10 2 && zeroAt e 20 12) && all 8 cmdReserved &&
  sigReserved (sectionBytes sectionElem bs secs 15)

/-- What the tables name lies in the sections they name: command lists in the command-list data, blobs in the blob data (R182, R183). -/
def namesOk (bs : List Byte) (secs : List (Nat × Nat × Nat)) : Bool :=
  let cmds := (secs.filter (fun s => s.1 == 8)).map (·.2.1) |>.sum
  let data := (secs.filter (fun s => s.1 == 9)).map (·.2.1) |>.sum
  (sectionElems sectionElem bs secs 2).all (fun e => decide (fld e 12 4 + fld e 4 4 + fld e 8 4 ≤ cmds)) &&
  (sectionElems sectionElem bs secs 3).all (fun e => decide (fld e 0 8 + fld e 8 8 ≤ data))

/-- The signature section with what the check of its signatures came to (R457, R458). -/
def signatureOf (s : List Byte) (v : SigVerdict) : Signature :=
  { signer := if fld s 0 2 = 0x5347 ∧ fld s 2 2 = 1 then fld s 4 1 else 255, securityVersion := fld s 8 4, keyId := fld s 12 32, ecdsaOk := v.ecdsaOk,
    mldsaOk := v.mldsaOk, keysHash := v.keysHash }

/-- A layer image read from its bytes (R179 to R185). -/
def imageOf (bs : List Byte) (v : SigVerdict) : Image :=
  let n := fld bs 0x20 8
  let secs := sectionsOf (fld bs 0x1C 4) bs
  let cmds := sectionElems sectionElem bs secs 8
  let data := sectionBytes sectionElem bs secs 9
  { magic := fld bs 0 4, version := fld bs 4 2,
    sectionsOk := decide (n ≤ bs.length) && tableOk sectionElem (fld bs 0x1C 4) [8, 9] [1, 2, 8, 15] n secs && reservedOk bs secs && namesOk bs secs,
    coreCount := fld bs 0x13 1, sections := secs, recLayout := sectionBytes sectionElem bs secs 7, sig := signatureOf (sectionBytes sectionElem bs secs 15) v,
    beacon := (fld bs 6 2).testBit 0, modelRevision := fld bs 8 8, role := fld bs 0x10 1, groupSizeM1 := fld bs 0x11 1, position := fld bs 0x12 1,
    layerSlots := fld bs 0x14 2, kvHeads := fld bs 0x16 2, lps := fld bs 0x18 2, maxRows := fld bs 0x1A 2, imageLength := n,
    tier1Bytes := fld bs 0x28 8, tier0Bytes := fld bs 0x30 4, recBytes := fld bs 0x34 4, layerDigest := fld bs 0x38 32,
    slots := (sectionElems sectionElem bs secs 1).map slotOf, cores := (sectionElems sectionElem bs secs 2).map (coreOf cmds), blobs := (sectionElems sectionElem bs secs 3).map (blobOf data),
    relocs := (sectionElems sectionElem bs secs 4).map relocOf, segs := (sectionElems sectionElem bs secs 5).map segOf, moe := (sectionElems sectionElem bs secs 6).map moeOf }

end Sys2Proof.Machine
end

