-- ==== Sys2Proof/Machine/SecOps.lean ====
section
/-!
DEFINITION. Machine/SecOps.lean: the acceptance of a signature section (R457, R458), key
generations (R454, R464), TDIs in error (R473) and the debug unlock (R475, R476).
-/
namespace Sys2Proof.Machine

/-- Both signatures verify and the keys used hash to key_id (R458). [DEDUCED: log entry 8] -/
def sigVerifies (s : Signature) : Bool := s.ecdsaOk && s.mldsaOk && s.keysHash == s.keyId

/-- A layer image, vocabulary or grammar is accepted: signed by the anchor, or by a listed image signing key (R458). [DEDUCED: log entry 8] -/
def Dev.imageSigOk (s : Signature) (d : Dev) : Bool :=
  sigVerifies s && ((s.signer == 1 && s.keyId == d.sec.cfgAnchor) || (s.signer == 2 && d.sec.imageKeys.contains s.keyId))

/-- A debug unlock token is accepted: signed by the anchor (R458). [DEDUCED: log entry 8] -/
def Dev.anchorSigOk (s : Signature) (d : Dev) : Bool := sigVerifies s && s.signer == 1 && s.keyId == d.sec.cfgAnchor

/-- An object is refused under R458 (R483). -/
def Dev.sigRefused (d : Dev) : Dev := (d.flag Reg.SEC_ERR.sig_fail).bump Reg.SEC_SIG_FAIL.count 1

/-- A counter of the NOR failed its authentication or could not advance (R453). [DEDUCED: log entry 76] -/
def Dev.counterFail (d : Dev) : Dev := d.flag Reg.SEC_ERR.counter_fail

/-- The device with the NOR's records changed. -/
def Dev.norUpd (f : NorSecure → NorSecure) (d : Dev) : Dev := { d with sec := { d.sec with nor := f d.sec.nor } }

/-- The key-generation record is rewritten: counter 3 advances, and the record carries its value (R453, R454). [DEDUCED: log entry 76] -/
def Dev.rewriteGens (d : Dev) : Dev :=
  d.norUpd (fun n => { n with counter3 := n.counter3 + 1, genCarried := some (n.counter3 + 1) })

/-- gen_n advances, and the record is rewritten (R464). [DEDUCED: log entry 76] -/
def Dev.advanceGen (n : Nat) (d : Dev) : Dev :=
  let g := wrap 32 (Tab.getD n 0 d.sec.nor.gens + 1)
  ((d.norUpd (fun x => { x with gens := Tab.put n g x.gens })).put (Reg.SEC_KEYGEN.gen n) g).rewriteGens

/-- A TDI in CONFIG_LOCKED or RUN enters ERROR with its cause (R473). -/
def Dev.tdiError (t cause : Nat) (d : Dev) : Dev :=
  let st := d.get (Reg.SEC_TDI.state t)
  if st = 1 ∨ st = 2 then ((d.put (Reg.SEC_TDI.state t) 3).put (Reg.SEC_TDI.cause t) cause).flag Reg.SEC_ERR.tdi_error else d

/-- The TDIs of a Sector, one on each port. -/
def Dev.sectorTdis (n cause : Nat) (d : Dev) : Dev := (d.tdiError n cause).tdiError (16 + n) cause

/-- Every TDI. -/
def Dev.allTdis (cause : Nat) (d : Dev) : Dev := (List.range 32).foldl (fun d t => d.tdiError t cause) d

/-! ### Debug unlock (R475, R476) -/

/-- A fresh nonce: the only one that a token may now answer. [DEDUCED: log entry 80] -/
def Dev.newNonce (d : Dev) : Nat × Dev := (d.fresh, { d.drawn with sec := { d.drawn.sec with nonce := some d.fresh } })

/-- Is the token acceptable (R475)? After a freeze a level-2 token is not (R478). [DEDUCED: log entry 80] -/
def Dev.tokenOk (tok : DebugToken) (d : Dev) : Bool :=
  tok.magic == 0x4B44 && (tok.level == 1 || tok.level == 2) && d.anchorSigOk tok.sig && tok.chipId == d.chipId &&
    d.sec.nonce == some tok.nonce && !(d.boot.frozen && tok.level == 2)

/-- Present a token (R475, R476): a nonce is spent by its first presentation. A level-2 unlock advances counter 2 first, then puts TDIs into ERROR, then
raises the level; the level never falls. [DEDUCED: log entry 80] -/
def Dev.unlock (tok : DebugToken) (counterOk : Bool) (d : Dev) : Nat × Dev :=
  let ok := d.tokenOk tok
  let sigBad := !d.anchorSigOk tok.sig
  let d : Dev := { d with sec := { d.sec with nonce := if d.sec.nonce = some tok.nonce then none else d.sec.nonce } }
  let raise (d : Dev) : Dev := d.put Reg.SEC_STATUS.debug_level (max (d.get Reg.SEC_STATUS.debug_level) tok.level)
  if !ok then (ST.SEC_UNLOCK, (if sigBad then d.sigRefused else d).flag Reg.SEC_ERR.unlock_fail)
  else if tok.level = 1 then (ST.OK, raise d)
  else if !counterOk then (ST.SEC_COUNTER, d.counterFail)
  else
    let d := d.norUpd (fun n => { n with counter2 := wrap 32 (n.counter2 + 1) })
    (ST.OK, raise ((d.put Reg.SEC_DBG_COUNT.count d.sec.nor.counter2).allTdis 1))

end Sys2Proof.Machine
end

