-- ==== Sys2Proof/Machine/Compose.lean ====
section
/-!
DEFINITION. Machine/Compose.lean: Sectors and the composition map: staging, the group pass, the switch, the drain of the
previous map, and the repair map (R337 to R347).
-/
namespace Sys2Proof.Machine

/-! ### Epochs (R342, R343) -/

/-- The successor of an epoch. -/
def nextEpoch (e : Nat) : Nat := if e = 0xFFFF then 1 else e + 1

/-- A request with this epoch is served: the current one, or the one before it within the grace period (R343). -/
def Dev.epochServed (e : Nat) (d : Dev) : Bool :=
  e == d.comp.cur.epoch || (nextEpoch e == d.comp.cur.epoch && d.comp.graceEnd != 0 && decide (d.now ≤ d.comp.graceEnd))

/-- A request is refused for its epoch (R343). -/
def Dev.stale (sector : Option Nat) (d : Dev) : Dev :=
  let d := (d.flag Reg.SCT_ERR.stale).bump Reg.SCT_STALE.count 1
  match sector with
  | some n => d.flag (Reg.SCT_S_ERR.stale n)
  | none => d

/-! ### Chunks (R338, R339) -/

/-- A Sector's chunks in the current map, or a later one being made. -/
def chunksOf (n : Nat) (m : Tab (List Nat)) : List Nat := Tab.getD n [] m

/-- Free chunks of a group: not reserved, and in no Sector's list of the tables given. -/
def freeChunk (reserved : List Nat) (a b : Tab (List Nat)) (g : Nat) : Option Nat :=
  ((List.range 96).map (fun i => g * 96 + i)).find? (fun c => !reserved.contains c && a.all (fun e => !e.2.contains c) && b.all (fun e => !e.2.contains c))

/-- The group the next chunk of a Sector comes from: the fewest of its chunks first, then the lower number (R339). [DESIGN CHOICE: log entry 58] -/
def pickGroup (reserved : List Nat) (old now : Tab (List Nat)) (mask : Nat) (mine : List Nat) : Option Nat :=
  ((List.range 96).filter (fun g => mask.testBit g && (freeChunk reserved old now g).isSome)).foldl (fun best g =>
    match best with
    | none => some g
    | some b => if (mine.filter (fun c => c / 96 == g)).length < (mine.filter (fun c => c / 96 == b)).length then some g else some b) none

/-- Append `k` chunks to a Sector's list; none where its groups have none free. [DESIGN CHOICE: log entry 58] -/
def growChunks (reserved : List Nat) (old : Tab (List Nat)) (n mask : Nat) : Nat → Tab (List Nat) → Option (Tab (List Nat))
  | 0, t => some t
  | k + 1, t =>
    match pickGroup reserved old t mask (chunksOf n t) with
    | none => none
    | some g =>
      match freeChunk reserved old t g with
      | none => none
      | some c => growChunks reserved old n mask k (Tab.put n (chunksOf n t ++ [c]) t)

/-- The chunk lists of a new map: each Sector's list shrinks or grows at its end. Chunks of the old lists are not given
anew before the old map drains. [DESIGN CHOICE: log entry 58] -/
def layChunks (reserved : List Nat) (old : Tab (List Nat)) : List (Nat × SectorDesc) → Tab (List Nat) → Option (Tab (List Nat))
  | [], t => some t
  | (n, s) :: rest, t =>
    let mine := if s.present then (chunksOf n old).take s.t1Chunks else []
    match growChunks reserved old n s.groups ((if s.present then s.t1Chunks else 0) - mine.length) (Tab.put n mine t) with
    | some t' => layChunks reserved old rest t'
    | none => none

/-- Chunks of the channel groups that are retired: no further chunk comes from them (R433). -/
def Dev.retiredChunks (d : Dev) : List Nat :=
  ((List.range 96).filter (fun g => d.get (Reg.STK_GROUP.retired (g / 8) (g % 8)) == 1)).flatMap (fun g => (List.range 96).map (fun i => 96 * g + i))

/-- Append `k` of the free 1 GiB units, lowest first, to a Sector's list (R339, R437). [DESIGN CHOICE: log entry 58] -/
def growUnits (free : List Nat) (k : Nat) (mine : List Nat) : List Nat × List Nat := (mine ++ free.take k, free.drop k)

/-- The tier-2 units of a new map: each Sector's list shrinks or grows at its end. [DESIGN CHOICE: log entry 58] -/
def layUnits (old : Tab (List Nat)) : List (Nat × SectorDesc) → List Nat → Tab (List Nat)
  | [], _ => []
  | (n, s) :: rest, free =>
    let mine := if s.present then (chunksOf n old).take s.t2Gib else []
    let g := growUnits free ((if s.present then s.t2Gib else 0) - mine.length) mine
    Tab.put n g.1 (layUnits old rest g.2)

/-- The units that no Sector holds: those of the flash beyond the pool region's, which are the first (R437). [DESIGN CHOICE: log entry 58] -/
def Dev.freeUnits (d : Dev) : List Nat :=
  (List.range (d.get Reg.FLS_CAP.gib)).filter (fun u => decide (d.get Reg.POOL_SIZE.t2_gib ≤ u) && d.comp.cur.units.all (fun e => !e.2.contains u))

/-- The map with its lists of chunks and units, under an epoch. [DEDUCED: log entry 57] -/
def Dev.layMap (epoch : Nat) (sects : List SectorDesc) (d : Dev) : Option CompMap :=
  (layChunks (d.comp.reserved ++ d.retiredChunks) d.comp.cur.chunks ((List.range 16).zip sects) []).map (fun c =>
    ⟨epoch, sects, c, layUnits d.comp.cur.units ((List.range 16).zip sects) d.freeUnits⟩)

/-! ### The checks of R341 -/

/-- Cores in service: not retired (R565). -/
def Dev.coreInService (c : Nat) (d : Dev) : Bool := decide (c < 32) && !d.eng.retired.contains c

/-- The first unit beyond every object of the Sector's sessions and indexes in a tier, in a half of tier 0. -/
def Dev.topUsed (tier n lo hi : Nat) (d : Dev) : Nat :=
  ((d.ses.buoys.flatMap (fun e => if e.2.sector == n then
    (match d.moor e.2.sid with | some m => objectLocs e.2 m | none => []) else []) ++
    (if tier = 2 then (d.idxSpans n).map (fun x => (Loc.mk 2 x.1, x.2)) else [])).map (fun l =>
      if l.1.tier = tier ∧ lo ≤ l.1.unit ∧ l.1.unit < hi then l.1.unit + l.2 - lo else 0)).foldl max 0

/-- Does a Sector hold a Buoy, index, image, extent grant or queue (R341 check 5)? -/
def Dev.sectorHolds (n : Nat) (d : Dev) : Bool :=
  decide (d.sectorBuoys n ≠ 0) || d.idx.idx.any (fun e => e.2.sector == n) || (d.secImg n).active.isSome || (d.secImg n).staged.isSome ||
    d.pool.extents.any (fun e => e.2.live && e.2.grants.any (fun g =>
      d.get (Reg.POOL_HOST_ID.kind g.host) == 3 && d.get (Reg.POOL_HOST_ID.id g.host) == n)) ||
    d.que.any (fun e => !e.2.pf && e.2.sector == n)

/-- Check 5 for one Sector. -/
def Dev.keepsData (n : Nat) (s : SectorDesc) (d : Dev) : Bool :=
  let o := d.sector n
  let mine := chunksOf n d.comp.cur.chunks
  if o.present && !s.present then !d.sectorHolds n
  else
    (mine.take s.t1Chunks).all (fun c => s.groups.testBit (c / 96)) &&
    decide (d.topUsed 0 n 0 4096 ≤ s.t0d0 * 16) && decide (d.topUsed 0 n 4096 8192 ≤ s.t0d1 * 16) &&
    decide (d.tierUsed 0 n ≤ (s.t0d0 + s.t0d1) * 16) &&
    decide (d.topUsed 1 n 0 (2 ^ 52) + d.topUnits 1 n ≤ s.t1Chunks * 16384) && decide (d.tierUsed 1 n ≤ s.t1Chunks * 16384) &&
    decide (d.topUsed 2 n 0 (2 ^ 52) ≤ s.t2Gib * 262144) && decide (d.tierUsed 2 n ≤ s.t2Gib * 262144)

/-- Cores named by a map, each as often as it is named. -/
def namedCores (sects : List SectorDesc) : List Nat :=
  sects.flatMap (fun s => if s.present then (List.range 32).filter (fun c => s.cores.testBit c) else [])

/-- Sum of a field over the present Sectors. -/
def sumPresent (f : SectorDesc → Nat) (sects : List SectorDesc) : Nat := (sects.map (fun s => if s.present then f s else 0)).sum

/-- Tier-2 capacity in GiB (R437): the flash's extents. -/
def Dev.flashGib (d : Dev) : Nat := d.get Reg.FLS_CAP.gib

/-- There are chunks and units for every Sector of a map; those that the map takes from a Sector are given anew only once the map before has
drained (R344). [DEDUCED: log entry 57] -/
def Dev.mapFits (m : SectorMap) (d : Dev) : Bool :=
  match d.layMap m.epoch m.sects with
  | some c => ((List.range 16).zip m.sects).all (fun e => !e.2.present || (chunksOf e.1 c.units).length == e.2.t2Gib)
  | none => false

/-- The checks of R341 in order; `ST.OK` when all pass. [DEDUCED: log entry 57] -/
def Dev.checkMap (m : SectorMap) (d : Dev) : Nat :=
  if m.magic ≠ 0x4D53 ∨ m.version ≠ 1 ∨ m.reservedZero = false then ST.SCT_FORMAT
  else if m.epoch ≠ nextEpoch d.comp.cur.epoch then ST.SCT_EPOCH
  else if d.comp.staged.isSome || d.comp.prev.isSome then ST.SCT_BUSY
  else if !(namedCores m.sects).Nodup || !(namedCores m.sects).all (fun c => d.coreInService c) then ST.SCT_OVERLAP
  else if !((List.range 16).zip m.sects).all (fun e => d.keepsData e.1 e.2) then ST.SCT_INUSE
  else if decide (256 < sumPresent (·.t0d0) m.sects) || decide (256 < sumPresent (·.t0d1) m.sects) ||
      decide (9216 - d.comp.reserved.length < sumPresent (·.t1Chunks) m.sects) || decide (d.flashGib < d.get Reg.POOL_SIZE.t2_gib + sumPresent (·.t2Gib) m.sects) ||
      !d.mapFits m then ST.SCT_CAPACITY
  else ST.OK

/-! ### The group pass (R345) -/

/-- Present Sectors as a mask. -/
def presentMask (sects : List SectorDesc) : Nat := (((List.range 16).zip sects).map (fun e => if e.2.present then 2 ^ e.1 else 0)).sum

/-- The map this chip would switch to: staged for the epoch, or its current map under it. -/
def Dev.mapFor (epoch : Nat) (d : Dev) : SectorMap :=
  match d.comp.staged with
  | some m => if m.epoch = epoch then m else ⟨0x4D53, 1, epoch, true, d.comp.cur.sects⟩
  | none => ⟨0x4D53, 1, epoch, true, d.comp.cur.sects⟩

/-- Operations under way now, as (kind, number): steps, session commands, activations, queries, index writers, indexes that open or are dropped,
pool requests that wait for their pace or for the end of a publish window (R344). [DEDUCED: log entry 57] -/
def Dev.inFlight (d : Dev) : List (Nat × Nat) :=
  d.srv.batches.filterMap (fun e => e.2.running.map (fun s => (0, e.1 / 256 * 2 ^ 32 + s.number))) ++
  (d.ses.ops.filter (fun e => e.2.pass != .waiting)).map (fun e => (1, e.1 * 65536 + e.2.seq)) ++
  (d.eng.imgs.filter (fun e => e.2.activating.isSome)).map (fun e => (2, e.1)) ++
  d.idx.queries.map (fun e => (3, e.1)) ++ (d.idx.idx.filter (fun e => !e.2.writes.isEmpty)).map (fun e => (4, e.1)) ++
  (d.idx.idx.filter (fun e => e.2.st != 2)).map (fun e => (5, e.1)) ++
  d.pool.queues.flatMap (fun e => e.2.map (fun r => (6, e.1 * 2 ^ 32 + r.tag))) ++
  d.pool.extents.flatMap (fun e => e.2.staged.map (fun p => (7, p.arrival)))

/-- A step that SWITCH listed has not finished on this chip (R344). -/
def Dev.oldStep (n last : Nat) (d : Dev) : Bool :=
  last != none32' && (d.srv.batches.any (fun e => e.1 / 256 == n && (match e.2.running with | some s => decide (s.number ≤ last) | none => false)) ||
    (!d.isHead && decide (Tab.getD n 0 d.srv.steps ≤ last)))
where
  /-- No step. -/
  none32' : Nat := 0xFFFFFFFF

/-- Operations of the previous map that have not finished (R344). [DEDUCED: log entry 57] -/
def Dev.oldCount (d : Dev) : Nat :=
  (d.comp.prevOps.filter (fun o => d.inFlight.contains o)).length +
    (((List.range 16).zip d.comp.lastOld).filter (fun e => d.oldStep e.1 e.2 && !(d.comp.prevOps.any (fun o => o == (0, e.1 * 2 ^ 32 + e.2) && d.inFlight.contains o)))).length

/-- The Sector's view registers after a switch (R361). -/
def Dev.showMap (d : Dev) : Dev :=
  let d := d.checkRanges.put Reg.SCT_EPOCH.current d.comp.cur.epoch
  ((List.range 16).zip d.comp.cur.sects).foldl (fun d e =>
    let s := if e.2.present then e.2 else SectorDesc.absent
    let d := ((d.put (Reg.SCT_CORES.cores e.1) s.cores).put (Reg.SCT_INFO.present e.1) (b2n s.present)).put (Reg.SCT_INFO.sealed e.1) (b2n s.isSealed)
    let d := (d.put (Reg.SCT_INFO.user_counters e.1) (b2n s.userCounters)).put (Reg.SCT_INFO.t1_chunks e.1) s.t1Chunks
    let d := (d.put (Reg.SCT_S_INFO.sector e.1) e.1).put (Reg.SCT_S_INFO.epoch e.1) d.comp.cur.epoch
    d.put (Reg.SCT_S_INFO.cores e.1) ((List.range 32).filter (fun c => s.cores.testBit c)).length) d

/-- Does a switch change what a Sector has: cores, chunks, tier-0 units, tier-2 space or sealed flag (R473)? -/
def sectorChanged (a b : CompMap) (n : Nat) : Bool :=
  let x := a.sects.getD n SectorDesc.absent
  let y := b.sects.getD n SectorDesc.absent
  x.cores != y.cores || chunksOf n a.chunks != chunksOf n b.chunks || x.t0d0 != y.t0d0 || x.t0d1 != y.t0d1 ||
    chunksOf n a.units != chunksOf n b.units || x.isSealed != y.isSealed

/-- What a switch does to each Sector's keys and TDIs: a Sector that leaves the map has its generation advanced and its tier-2
units trimmed (R464); the TDIs of a Sector that loses its key or changes enter ERROR (R473). -/
def Dev.switchKeys (a b : CompMap) (d : Dev) : Dev :=
  (List.range 16).foldl (fun d n =>
    let left := (a.sects.getD n SectorDesc.absent).present && !(b.sects.getD n SectorDesc.absent).present
    let d := if left then ((d.advanceGen n).trimUnits (chunksOf n a.units)).sectorTdis n 3 else d
    if sectorChanged a b n then d.sectorTdis n 2 else d) d

/-- The chip switches to the map of an epoch (R344, R345 item 3). -/
def Dev.switchMap (epoch : Nat) (last : List Nat) (d : Dev) : Dev :=
  match d.layMap epoch (d.mapFor epoch).sects with
  | none => d
  | some m =>
    let d := ((d.put Reg.SCT_EPOCH.previous d.comp.cur.epoch).put Reg.SCT_DRAIN.draining 1).switchKeys d.comp.cur m
    let d : Dev := { d with comp := { d.comp with prev := some d.comp.cur, cur := m, prevOps := d.inFlight, staged := none, lastOld := last,
                                                   graceEnd := d.now + ms (d.get Reg.SCT_CFG.grace_ms) } }
    d.showMap

/-- The last step of each Sector that HEAD started (R345). -/
def Dev.lastSteps (d : Dev) : List Nat :=
  (List.range 16).map (fun n => match Tab.look n d.srv.steps with | some k => if k = 0 then 0xFFFFFFFF else k - 1 | none => 0xFFFFFFFF)

/-- Discard the staged map; its SECTOR_COMPOSE completes with a status (R341, R345). -/
def Dev.dropStaged (status : Nat) (d : Dev) : Dev :=
  let e := d.comp.stager
  ({ d with comp := { d.comp with staged := none, stager := none } }).completeOpt e status 0

/-- A message of the pass. -/
def Dev.compMsg (kind epoch status pos : Nat) (last : List Nat) (d : Dev) : CompMsg :=
  ⟨kind, epoch, presentMask (d.mapFor epoch).sects, status, pos, last⟩

/-- HEAD sends a message of the pass and starts its resend clock (R97, R345). -/
def Dev.sendComp (m : CompMsg) (d : Dev) : Dev :=
  ({ d with comp := { d.comp with passMsg := some (m.kind, m.newEpoch, m.status), passAt := d.now } }).emit (.compMsg m)

/-- The pass ends at HEAD. -/
def Dev.endPass (d : Dev) : Dev := { d with comp := { d.comp with passMsg := none } }

/-- HEAD has COMPOSE back: SWITCH, or COMPOSE_CANCEL (R345 items 3 and 4). In a SOLO group the pass ends here. -/
def Dev.composeBack (epoch status pos : Nat) (d : Dev) : Dev :=
  if status = ST.OK then
    let last := d.lastSteps
    let d := d.switchMap epoch last
    if d.isSolo then d.endPass else d.sendComp (d.compMsg 0x12 epoch ST.OK 0 last)
  else
    let d := (d.dropStaged status).flag Reg.SCT_ERR.compose_cancel
    if d.isSolo then d.endPass else d.sendComp ⟨0x13, epoch, 0, status, pos, []⟩

/-- HEAD starts a pass for an epoch; while a map drains, or the pass before it still has its SWITCH or COMPOSE_CANCEL out, it waits (R342, R345
items 1 and 2). Several requests for one epoch are served by one pass. [DEDUCED: log entry 57] -/
def Dev.startPass (epoch : Nat) (d : Dev) : Dev :=
  if epoch != nextEpoch d.comp.cur.epoch then d
  else if d.comp.passMsg.isSome then (if d.comp.passMsg.any (fun p => decide (0x12 ≤ p.1)) then { d with comp := { d.comp with asked := some epoch } } else d)
  else if d.comp.prev.isSome then { d with comp := { d.comp with passMsg := some (0x10, epoch, ST.OK) } }
  else if d.isSolo then d.composeBack epoch ST.OK 0
  else d.sendComp (d.compMsg 0x11 epoch ST.OK 0 [])

/-- The pass that waited for the drain of a map starts. -/
def Dev.resumePass (d : Dev) : Dev :=
  match d.comp.passMsg with
  | some (0x10, e, _) => d.endPass.startPass e
  | _ => d

/-- A pass has ended at HEAD, and the one asked for meanwhile starts. [DEDUCED: log entry 57] -/
def Dev.nextPass (d : Dev) : Dev :=
  match d.comp.asked with
  | some e => ({ d.endPass with comp := { d.endPass.comp with asked := none } } : Dev).startPass e
  | none => d.endPass

/-- A staged map asks for its pass (R345 item 1). -/
def Dev.askPass (epoch : Nat) (d : Dev) : Dev :=
  if d.isHead then d.startPass epoch else d.emit (.compMsg ⟨0x10, epoch, presentMask (d.mapFor epoch).sects, ST.OK, 0, []⟩)

/-- The repair map: the current map without the cores out of service (R347). -/
def Dev.repairMap (d : Dev) : SectorMap :=
  let gone := d.eng.retired ++ d.eng.retiring
  ⟨0x4D53, 1, nextEpoch d.comp.cur.epoch, true, d.comp.cur.sects.map (fun s => { s with cores := gone.foldl (fun m c => if m.testBit c then m - 2 ^ c else m) s.cores })⟩

/-- Stage the repair map that waits, as soon as no map drains (R347). [DEDUCED: log entry 57] -/
def Dev.tryRepair (d : Dev) : Dev :=
  if d.comp.repair && d.comp.prev.isNone then
    let d := (d.dropStaged ST.SCT_BUSY).flag Reg.SCT_ERR.repair_recompose
    let m := d.repairMap
    ({ d with comp := { d.comp with staged := some m, repair := false } }).askPass m.epoch
  else d

/-- A core's retirement asks for a repair map (R347). [DEDUCED: log entry 57] -/
def Dev.wantRepair (d : Dev) : Dev := ({ d with comp := { d.comp with repair := true } }).tryRepair

/-- A Sector descriptor's 64 bytes (R340). -/
def sectorOf (e : List Byte) : SectorDesc :=
  let f := fld e 0 1
  { present := f.testBit 0, isSealed := f.testBit 1, userCounters := f.testBit 2, cores := fld e 4 4, t0d0 := fld e 8 2, t0d1 := fld e 10 2, t1Chunks := fld e 12 4,
    groups := fld e 16 12, t2Gib := fld e 28 4 }

/-- A composition map read from its 1,088 bytes (R340). -/
def mapOf (bs : List Byte) : SectorMap :=
  let es := elemsAt bs 64 64 16
  { magic := fld bs 0 2, version := fld bs 2 2, epoch := fld bs 4 2,
    reservedZero := zeroAt bs 6 58 && es.all (fun e => fld e 0 1 / 8 == 0 && zeroAt e 1 3 && zeroAt e 32 32), sects := es.map sectorOf }

/-- SECTOR_COMPOSE (R340, R341): `bytes` is the map as it lies in host memory. -/
def execSectorCompose (hdr : EntryHdr) (bytes : List Byte) (s : State) : Host.Outcome State Fault Refusal :=
  onServing (fun d => d.ownerAdmin hdr ST.SCT_DENIED (fun e d =>
    let m := mapOf bytes
    let st := d.checkMap m
    if st ≠ ST.OK then d.complete e st 0
    else ({ d with comp := { d.comp with staged := some m, stager := some e } }).askPass m.epoch)) s

/-- COMPOSE_REQ (R345): travels round the ring to HEAD, which starts the pass. -/
def execComposeReq (m : CompMsg) (t : Nat) (s : State) : Host.Outcome State Fault Refusal :=
  onServing (fun d =>
    let d := d.advance t
    if d.isHead then d.startPass m.newEpoch else d.emit (.compMsg m)) s

/-- COMPOSE (R345): a chip checks its present mask and forwards; at HEAD the pass is back. A chip that still holds two maps takes no third (R342):
it lets a later resend carry the pass on. [DEDUCED: log entry 57] -/
def execCompose (m : CompMsg) (t : Nat) (s : State) : Host.Outcome State Fault Refusal :=
  onServing (fun d =>
    let d := d.advance t
    if d.isHead then
      (match d.comp.passMsg with
       | some (0x11, e, _) => if e = m.newEpoch then d.composeBack e m.status m.failPos else d
       | _ => d)
    else if d.comp.prev.isSome then d
    else
      let ok := presentMask (d.mapFor m.newEpoch).sects == m.present
      d.emit (.compMsg (if ok || m.status != ST.OK then m else { m with status := ST.SCT_GROUP, failPos := d.position }))) s

/-- SWITCH (R345): a chip switches its current epoch; at HEAD the pass has ended. -/
def execSwitch (m : CompMsg) (t : Nat) (s : State) : Host.Outcome State Fault Refusal :=
  onServing (fun d =>
    let d := d.advance t
    if d.isHead then (match d.comp.passMsg with | some (0x12, _, _) => d.nextPass | _ => d)
    else (if m.newEpoch = nextEpoch d.comp.cur.epoch ∧ d.comp.prev.isNone then d.switchMap m.newEpoch m.lastOldStep else d).emit (.compMsg m)) s

/-- COMPOSE_CANCEL (R345): a chip discards its staged map; at HEAD the pass has ended. -/
def execComposeCancel (m : CompMsg) (s : State) : Host.Outcome State Fault Refusal :=
  onServing (fun d =>
    if d.isHead then (match d.comp.passMsg with | some (0x13, _, _) => d.nextPass | _ => d)
    else ((d.dropStaged m.status).flag Reg.SCT_ERR.compose_cancel).emit (.compMsg m)) s

/-- Zero what a Sector's ranges lose: bytes from the new end to the old end of a tier (R426). -/
def zeroTails (old new : CompMap) (mem : List Host.Cell) : List Host.Cell :=
  (List.range 16).foldl (fun mem n =>
    let o := old.sects.getD n SectorDesc.absent
    let c := new.sects.getD n SectorDesc.absent
    let t1 (s : SectorDesc) : Nat := if s.present then s.t1Chunks * 2 ^ 26 else 0
    let t2 (s : SectorDesc) : Nat := if s.present then s.t2Gib * 2 ^ 30 else 0
    let z0 (s : SectorDesc) : Nat := if s.present then s.t0d0 * 65536 else 0
    let z1 (s : SectorDesc) : Nat := if s.present then s.t0d1 * 65536 else 0
    Mem.zero (tierAddr 0 n (z0 c)) (z0 o - z0 c) (Mem.zero (tierAddr 0 n (2 ^ 24 + z1 c)) (z1 o - z1 c)
      (Mem.zero (tierAddr 1 n (t1 c)) (t1 o - t1 c) (Mem.zero (tierAddr 2 n (t2 c)) (t2 o - t2 c) mem)))) mem

/-- MAP_DRAIN_DONE (R344): the previous map's count is zero, so its resources pass on, the previous map goes, and the
SECTOR_COMPOSE completes (R341); a waiting repair map is staged (R347). -/
def execMapDrainDone (s : State) : Host.Outcome State Fault Refusal :=
  onServingMem (fun mem d =>
    match d.comp.prev with
    | some p =>
      if d.oldCount = 0 then
        let mem := zeroTails p d.comp.cur mem
        let e := d.comp.stager
        let d : Dev := { d with comp := { d.comp with prev := none, prevOps := [], lastOld := [], stager := none } }
        let d := (d.put Reg.SCT_DRAIN.draining 0).put Reg.SCT_EPOCH.previous 0
        let d := (d.takePends (fun q => q.block == Blk.sct)).checkShares
        (mem, (d.completeOpt e ST.OK 0).tryRepair.resumePass)
      else (mem, d)
    | none => (mem, d)) s

/-- GRACE_EXPIRY (R343): requests under the previous epoch are refused from here on. [DEDUCED: log entry 12] -/
def execGraceExpiry (t : Nat) (s : State) : Host.Outcome State Fault Refusal :=
  onServing (fun d =>
    let d := d.advance t
    if decide (d.comp.graceEnd ≤ d.now) then { d with comp := { d.comp with graceEnd := 0 } } else d) s

/-- COMPOSE_RESEND (R97, R345): HEAD's last message again, every 10 ms. [DEDUCED: log entry 57] -/
def execComposeResend (t : Nat) (s : State) : Host.Outcome State Fault Refusal :=
  onServing (fun d =>
    let d := d.advance t
    match d.comp.passMsg with
    | some (k, e, st) =>
      if k != 0x10 && decide (d.comp.passAt + ms 10 ≤ d.now) then
        (({ d with comp := { d.comp with passAt := d.now } }).reportKeeper 0xFFF ST.SES_COORD).emit
          (.compMsg (if k = 0x12 then d.compMsg k e st 0 d.comp.lastOld else if k = 0x13 then ⟨k, e, 0, st, 0, []⟩ else d.compMsg k e st 0 []))
      else d
    | none => d) s

end Sys2Proof.Machine
end

