-- ==== Sys2Proof/Machine/Links.lean ====
section
/-!
DEFINITION. Machine/Links.lean: Lemdin frames received, replay, training, identity, Locator queries over the links, and lanes
(R22 to R25, R69 to R71, R501 to R506, R510, R566).
-/
namespace Sys2Proof.Machine

/-- A port's state (R515): 0 reset, 1 training, 2 identity, 3 up, 4 mismatch, 5 down. -/
def Dev.portSt (i : Nat) (d : Dev) : Nat := d.get (Reg.LNK_PORT.state i)

/-- A port of the chip that is not UNUSED (R22). -/
def Dev.portUsed (i : Nat) (d : Dev) : Bool := decide (i < 8) && d.portUse i != 0

/-- An event of a Lemdin port (R540): a tenant's for frames of steps and of the pool, firmware's otherwise. -/
def linkEvent (code cls : Nat) : CntEvent := ⟨6, code, if (1 ≤ cls ∧ cls ≤ 5) ∨ cls = 9 then 0 else 1, none, none, none, none⟩

/-! ### Ports that come and go (R505, R510) -/

/-- The working DOWN ports have changed: without any the wait of R510 begins; with one again, waiting group traffic goes out, and what
R98 kept. [DEDUCED: log entry 89] -/
def Dev.ringChanged (before : Bool) (d : Dev) : Dev :=
  if d.groupSize ≤ 1 then d
  else if d.downPorts.isEmpty then (if d.downSince.isNone then { d with downSince := some d.now } else d)
  else
    let d : Dev := { d with downSince := none }
    if before then d
    else
      let waiting := d.ringWait
      let d := Dev.sendFlits (d.ringPort 0) waiting { d with ringWait := [] }
      d.ringResume

/-- A port leaves or enters service by `f`. [DEDUCED: log entry 89] -/
def Dev.portMoves (f : Dev → Dev) (d : Dev) : Dev := (f d).ringChanged (!d.downPorts.isEmpty)

/-- Training starts (R505). -/
def Dev.startTraining (i : Nat) (d : Dev) : Dev :=
  (d.put (Reg.LNK_PORT.state i) 1).lportUpd i (fun p => { p with trainStart := some d.now, replayTimes := [] })

/-- A replay from a sequence on: the frames before it are acknowledged, the others go out again (R504). [DEDUCED: log entry 88] -/
def Dev.replayFrom (i expected : Nat) (d : Dev) : Dev :=
  let rest := (d.lport i).replay.dropWhile (fun f => f.seq != expected % 4096)
  let rest := if rest.isEmpty then (if (d.lport i).txSeq = expected % 4096 then [] else (d.lport i).replay) else rest
  let d := d.lportUpd i (fun p => { p with replay := rest, replayTimes := (p.replayTimes.filter (fun t => decide (d.now < t + ms 1))) ++ [d.now] })
  ((d.bump Reg.LNK_REPLAY.count 1).event none (linkEvent 2 1)).emit (.replayed i (rest.map (·.seq)))

/-- A replay of everything not acknowledged. [DEDUCED: log entry 88] -/
def Dev.replayAll (i : Nat) (d : Dev) : Dev :=
  d.replayFrom i (match (d.lport i).replay.head? with | some f => f.seq | none => (d.lport i).txSeq)

/-! ### Frames received (R501, R502, R504) -/

/-- Frames that waited for room in the replay buffer go out. [DESIGN CHOICE: log entry 87] -/
def LPort.drain : Nat → LPort → LPort
  | 0, p => p
  | fuel + 1, p =>
    match p.waiting with
    | [] => p
    | x :: rest => if p.replay.length < 1024 then LPort.drain fuel (LPort.send x { p with waiting := rest }) else p

/-- The header's acknowledgement and credits. [DESIGN CHOICE: log entry 87] -/
def LPort.take (f : LinkFrame) (p : LPort) : LPort :=
  let kept := match p.replay.findIdx? (fun r => r.seq == f.ack % 4096) with | some k => p.replay.drop (k + 1) | none => p.replay
  let p := { p with replay := kept, usedCredits := Tab.put (f.pool % 4) (Tab.getD (f.pool % 4) 0 p.usedCredits - 32 * (f.credits % 4)) p.usedCredits }
  LPort.drain p.waiting.length p

/-- A sequenced frame arrives in an up port (R504): the expected one is delivered, one ahead of it is answered with a NAK, and one
already received is dropped. [DEDUCED: log entry 88] -/
def Dev.sequenced (f : LinkFrame) (d : Dev) : Dev :=
  let expected := (d.lport f.port).rxSeq
  if f.seq = expected then
    (d.lportUpd f.port (fun p => { p with rxSeq := (expected + 1) % 4096 })).emit (.delivered f.port f.cls f.seq)
  else if (f.seq + 4096 - expected) % 4096 < 2048 then d.emit (.nak f.port expected)
  else d

/-- LINK_FRAME (R501, R502, R504, R506). -/
def execLinkFrame (f : LinkFrame) (s : State) : Host.Outcome State Fault Refusal :=
  onServing (fun d =>
    if !d.portUsed f.port || d.portSt f.port == 0 || d.portSt f.port == 5 then d
    else
      let d := d.event none (linkEvent 1 f.cls)
      if f.uncorrectable then
        (if f.cls = 8 then (d.bump Reg.LNK_LOC_DROP.count 1).flag Reg.LNK_ERR.loc_drop else d.emit (.nak f.port (d.lport f.port).rxSeq))
      else
        let d := if f.corrected then d.bump (Reg.LNK_CORR.count f.port) 1 else d
        if 10 ≤ f.cls then d.flag Reg.LNK_ERR.bad_class
        else if d.portSt f.port ≠ 3 then d
        else
          let d := d.lportUpd f.port (LPort.take f)
          if f.cls = 0 ∨ f.cls = 8 then d else d.sequenced f) s

/-- NAK (R504). -/
def execNak (port expected t : Nat) (s : State) : Host.Outcome State Fault Refusal :=
  onServing (fun d =>
    let d := d.advance t
    if d.portUsed port && d.portSt port == 3 then d.replayFrom port expected else d) s

/-- LINK_RETRAIN (R504): ten replays within 1 ms. -/
def execLinkRetrain (port t : Nat) (s : State) : Host.Outcome State Fault Refusal :=
  onServing (fun d =>
    let d := d.advance t
    if d.portUsed port && d.portSt port == 3 && decide (10 ≤ ((d.lport port).replayTimes.filter (fun x => decide (d.now < x + ms 1))).length) then
      d.portMoves (fun d => (d.startTraining port).flag Reg.LNK_ERR.retrain)
    else d) s

/-! ### Training and identity (R24, R505) -/

/-- Lanes in use, of four. -/
def laneCount (mask : Nat) : Nat := ((List.range 4).filter (fun k => mask.testBit k)).length

/-- The lanes in use change. -/
def Dev.setLanes (i mask : Nat) (d : Dev) : Dev :=
  (d.put (Reg.LNK_PORT.lanes i) (laneCount mask)).lportUpd i (fun p => { p with lanes := mask })

/-- This chip's IDENT (R505). -/
def Dev.myIdent (i : Nat) (d : Dev) : Ident :=
  { partNumber := d.get Reg.GLB_ID.part_number, chipId := d.chipId, groupId := d.groupId, groupSizeM1 := d.groupSize - 1, position := d.position,
    port := i, use := d.portUse i, fwVersion := d.sec.fwVersion }

/-- PORT_TRAIN (R505): lanes trained, deskewed and locked; identity exchange follows. A single lane is not enough. [DEDUCED: log entry 88] -/
def execPortTrain (port lanes : Nat) (s : State) : Host.Outcome State Fault Refusal :=
  onServing (fun d =>
    if d.portUsed port && d.portSt port == 1 then
      let d := d.setLanes port (lanes % 16)
      let d := if lanes % 16 = 15 then d else d.flag Reg.LNK_ERR.lane_lost
      let d := d.lportUpd port (fun p => { p with retrain := ((List.range 4).filter (fun k => !(lanes % 16).testBit k)).map (fun k => (k, d.now)) })
      if laneCount (lanes % 16) < 2 then (d.put (Reg.LNK_PORT.state port) 5).lportUpd port (fun p => { p with trainStart := some d.now })
      else (d.put (Reg.LNK_PORT.state port) 2).emit (.ident port (d.myIdent port))
    else d) s

/-- PORT_TRAIN_TIMEOUT (R505): a port that has trained for 50 ms without success is down; a down port tries again after 1 s. [DEDUCED: log entry 88] -/
def execPortTrainTimeout (port t : Nat) (s : State) : Host.Outcome State Fault Refusal :=
  onServing (fun d =>
    let d := d.advance t
    match (d.lport port).trainStart with
    | none => d
    | some x =>
      if !d.portUsed port then d
      else if (d.portSt port = 1 ∨ d.portSt port = 2) ∧ x + ms 50 ≤ d.now then
        (d.put (Reg.LNK_PORT.state port) 5).lportUpd port (fun p => { p with trainStart := some d.now })
      else if d.portSt port = 5 ∧ x + ms 1000 ≤ d.now then d.startTraining port
      else d) s

/-- Does a peer's identity fit the port's use (R24)? [DEDUCED: log entry 88] -/
def Dev.identFits (port : Nat) (i : Ident) (d : Dev) : Bool :=
  let u := d.portUse port
  if u = 3 then true
  else i.groupId == d.groupId && i.position == (if u = 1 then (d.position + 1) % d.groupSize else (d.position + d.groupSize - 1) % d.groupSize)

/-- IDENT (R24, R505): the port is up, or in mismatch; a peer with another chip_id is a new partner, and the link's sequence starts
again. [DEDUCED: log entry 88] -/
def execIdent (port : Nat) (i : Ident) (s : State) : Host.Outcome State Fault Refusal :=
  onServing (fun d =>
    if d.portUsed port && d.portSt port == 2 then
      d.portMoves (fun d =>
        let same := d.get (Reg.LNK_PORT.peer_chip port) == i.chipId
        let d := d.lportUpd port (fun p => if same then { p with trainStart := none } else
          { p with trainStart := none, txSeq := 0, rxSeq := 0, replay := [], waiting := [], usedCredits := [] })
        let d := ((d.put (Reg.LNK_PORT.peer_chip port) i.chipId).put (Reg.LNK_PEER.group port) i.groupId).put (Reg.LNK_PEER.position port) i.position
        let d := d.put (Reg.LNK_PEER.port port) i.port
        if d.identFits port i then
          let d := d.put (Reg.LNK_PORT.state port) 3
          if (d.lport port).replay.isEmpty then d else d.replayAll port
        else (d.put (Reg.LNK_PORT.state port) 4).flag Reg.LNK_ERR.ident_mismatch)
    else d) s

/-- LINK_DOWN_TIMER (R510, R583): no working DOWN port for down_ms; once for each loss. [DEDUCED: log entry 89] -/
def execLinkDownTimer (t : Nat) (s : State) : Host.Outcome State Fault Refusal :=
  onServing (fun d =>
    let d := d.advance t
    match d.downSince with
    | some x =>
      if d.downPorts.isEmpty && decide (x + ms (d.get Reg.LNK_CFG.down_ms) ≤ d.now) then
        match (List.range 8).find? (fun i => d.portUse i == 1) with
        | some i => ({ d with downSince := none } : Dev).reportUnit 8 i 2
        | none => d
      else d
    | none => d) s

/-! ### Lanes (R566) -/

/-- A lane leaves its port: the rest is restriped, from a replay of everything not acknowledged. With one lane left the port is down. [DEDUCED: log entry 89] -/
def Dev.dropLane (port lane : Nat) (d : Dev) : Dev :=
  let mask := (d.lport port).lanes - 2 ^ lane
  let d := (d.setLanes port mask).lportUpd port (fun p => { p with retrain := Tab.put lane d.now p.retrain })
  let d := (d.flag Reg.LNK_ERR.lane_lost).reportUnit 7 (4 * port + lane) 1
  if laneCount mask < 2 then
    (d.portMoves (fun d => (d.put (Reg.LNK_PORT.state port) 5).lportUpd port (fun p => { p with trainStart := some d.now }))).reportUnit 8 port 1
  else (d.bump Reg.FOG_REP_LANE.count 1).replayAll port

/-- A port runs on this lane. -/
def Dev.laneUsed (port lane : Nat) (d : Dev) : Bool :=
  d.portUsed port && (d.portSt port == 3 || d.portSt port == 4) && decide (lane < 4) && (d.lport port).lanes.testBit lane

/-- LANE_ERROR_THRESHOLD (R566): the detecting side. -/
def execLaneErrorThreshold (port lane : Nat) (s : State) : Host.Outcome State Fault Refusal :=
  onServing (fun d => if d.laneUsed port lane then (d.emit (.link port 2 lane)).dropLane port lane else d) s

/-- LANE_DROP (R566): the other side. -/
def execLaneDrop (port lane : Nat) (s : State) : Host.Outcome State Fault Refusal :=
  onServing (fun d => if d.laneUsed port lane then d.dropLane port lane else d) s

/-- A lane rejoins its port. -/
def Dev.addLane (port lane : Nat) (d : Dev) : Dev :=
  ((d.setLanes port ((d.lport port).lanes + 2 ^ lane)).lportUpd port (fun p => { p with retrain := Tab.del lane p.retrain })).replayAll port

/-- A lane of a running port that is out of it. [DEDUCED: log entry 89] -/
def Dev.laneOut (port lane : Nat) (d : Dev) : Bool :=
  d.portUsed port && (d.portSt port == 3 || d.portSt port == 4) && decide (lane < 4) && !(d.lport port).lanes.testBit lane

/-- LANE_TRAIN_RETRY (R566): a removed lane trains alone; after 1 s without a symbol error it rejoins. -/
def execLaneTrainRetry (port lane : Nat) (errorFree : Bool) (t : Nat) (s : State) : Host.Outcome State Fault Refusal :=
  onServing (fun d =>
    let d := d.advance t
    if d.laneOut port lane then
      if !errorFree then d.lportUpd port (fun p => { p with retrain := Tab.put lane d.now p.retrain })
      else if Tab.getD lane d.now (d.lport port).retrain + ms 1000 ≤ d.now then (d.emit (.link port 3 lane)).addLane port lane
      else d
    else d) s

/-- LANE_ADD (R566): the other side. -/
def execLaneAdd (port lane : Nat) (s : State) : Host.Outcome State Fault Refusal :=
  onServing (fun d => if d.laneOut port lane then d.addLane port lane else d) s

/-! ### Locator queries (R69 to R71, R506) -/

/-- A miss as it is answered: the session ID, every other byte zero. [DEDUCED: log entry 90] -/
def locMiss (sid : Nat) : LocEntry :=
  { sid := sid, buoy := 0, state := 0, valid := false, pinned := false, home := 0, group := 0, chip := 0, gen := 0, sector := 0 }

/-- The entry that a die's copy holds. [DEDUCED: log entry 29] -/
def Dev.locLook (die sid : Nat) (d : Dev) : Option LocEntry :=
  (Tab.getD (locSet sid) [] (if die = 0 then d.loc.die0 else d.loc.die1)).find? (fun e => e.sid == sid && e.valid)

/-- A way that has answered is the most recently used (R70). -/
def touchWay (sid : Nat) (ways : List LocEntry) : List LocEntry :=
  ways.filter (fun e => e.sid == sid) ++ ways.filter (fun e => e.sid != sid)

/-- One query slot is answered from the die's copy: counted, and the way used in both copies. -/
def Dev.locAnswer (die sid : Nat) (d : Dev) : LocEntry × Dev :=
  let d := ((d.bump Reg.LNK_LOC_Q.count 1).event none ⟨4, 5, 1, none, none, none, none⟩).event none (linkEvent 3 8)
  match d.locLook die sid with
  | some e =>
    let k := locSet sid
    let d : Dev := { d with loc := ⟨Tab.upd k (touchWay sid) d.loc.die0, Tab.upd k (touchWay sid) d.loc.die1⟩ }
    (e, d.bump Reg.SES_LC_HIT.count 1)
  | none => (locMiss sid, (d.bump Reg.LNK_LOC_MISS.count 1).bump Reg.SES_LC_MISS.count 1)

/-- Every slot of a query flit, in order. [DEDUCED: log entry 90] -/
def Dev.locAnswers (die : Nat) : List Nat → Dev → List LocEntry × Dev
  | [], d => ([], d)
  | sid :: sids, d =>
    let r := d.locAnswer die sid
    let rs := r.2.locAnswers die sids
    (r.1 :: rs.1, rs.2)

/-- LOC_QUERY (R506): answered at once on a port that is up or in mismatch; a flit that FEC could not mend is dropped. Keeper firmware
then installs the missed sessions that have a Buoy here (R70). [DEDUCED: log entry 90] -/
def execLocQuery (port exchange _chip _group : Nat) (sids : List Nat) (fecOk : Bool) (s : State) : Host.Outcome State Fault Refusal :=
  onServing (fun d =>
    if !(d.portUsed port && (d.portSt port == 3 || d.portSt port == 4)) then d
    else if !fecOk then (d.bump Reg.LNK_LOC_DROP.count 1).flag Reg.LNK_ERR.loc_drop
    else
      let sids := sids.take 8
      let r := d.locAnswers (port / 4) sids
      let d := r.2.emit (.locReply port exchange d.chipId d.groupId sids r.1)
      (r.1.filter (fun e => !e.valid)).foldl (fun d e => if (d.buoyAt e.sid).isSome then d.locSync e.sid else d) d) s

/-- Is generation a older than b (R71)? [DEDUCED: log entry 90] -/
def genOlder (a b : Nat) : Bool := let x := (b + 65536 - a % 65536) % 65536; decide (1 ≤ x) && decide (x ≤ 32767)

/-- One answer reaches the querier (R71): a miss, or a generation that is neither older nor newer than the one held, is a question to
Keeper firmware on the answering chip; an older one is discarded; any other is kept. [DEDUCED: log entry 90] -/
def Dev.locTake (chip : Nat) (e : LocEntry) (d : Dev) : Dev :=
  if !e.valid then d.emit (.askKeeper e.sid chip)
  else
    match Tab.look e.sid d.locQuery with
    | some h =>
      if genOlder e.gen h.gen then d
      else if (e.gen + 65536 - h.gen % 65536) % 65536 = 32768 then d.emit (.askKeeper e.sid chip)
      else ({ d with locQuery := Tab.put e.sid e d.locQuery } : Dev).emit (.locKept e)
    | none => ({ d with locQuery := Tab.put e.sid e d.locQuery } : Dev).emit (.locKept e)

/-- LOC_REPLY (R71). [DEDUCED: log entry 29] -/
def execLocReply (_exchange chip : Nat) (replies : List LocEntry) (s : State) : Host.Outcome State Fault Refusal :=
  onServing (fun d => replies.foldl (fun d e => d.locTake chip e) d) s

end Sys2Proof.Machine
end

