-- ==== Sys2Proof/Machine/Media.lean ====
section
/-!
DEFINITION. Machine/Media.lean: events of the stacks (temperature, scrubbing, sparing) and of the flash translation layer
(R423 to R450).
-/
namespace Sys2Proof.Machine

/-! ### Stacks -/

/-- A sensor's reading (R423): the refresh interval, and access that stops above 110 °C until the reading falls below 100 °C. -/
def Dev.stackTemp (stack temp : Nat) (d : Dev) : Dev :=
  let halted := d.get (Reg.STK_STATUS.halted stack) == 1
  let d := (d.put (Reg.STK_STATUS.temp stack) (min temp 255)).put (Reg.STK_STATUS.refresh_2x stack) (b2n (decide (85 < temp)))
  if temp < 100 then d.put (Reg.STK_STATUS.halted stack) 0
  else if 110 < temp && !halted then (d.put (Reg.STK_STATUS.halted stack) 1).reportUnit 0xC (16 + stack) 2
  else d

/-- STACK_TEMP_EVENT (R423). -/
def execStackTempEvent (stack temp : Nat) (s : State) : Host.Outcome State Fault Refusal :=
  onServing (fun d => d.stackTemp stack temp) s

/-- A channel fails while no spare is free: its channel group retires (R433). [DEDUCED: log entry 73] -/
def Dev.retireChanGroup (stack chan : Nat) (d : Dev) : Dev :=
  let g := d.slotOfChan stack chan / 15
  if d.get (Reg.STK_GROUP.retired stack g) == 1 then d
  else
    let d := ((d.put (Reg.STK_CH.state stack chan) 3).put (Reg.STK_GROUP.retired stack g) 1).flag (Reg.STK_ERR.group_retired stack)
    d.reportUnit 0x4 (8 * stack + g) 2

/-- Corrections of a scrub pass of a channel (R424, R449). -/
def Dev.scrubCorrected (stack chan corrected : Nat) (d : Dev) : Dev :=
  let d := d.put (Reg.STK_CH.corrected stack chan) (min corrected 0xFFFF)
  if corrected = 0 then d else (d.bump (Reg.STK_CORR.count stack) corrected).flag (Reg.STK_ERR.corrected stack)

/-- Tree nodes that failed their MAC twice: every block beneath reads as failed, and a root fault is recorded (R430). [DESIGN CHOICE: log entry 71; DEDUCED: log entry 72] -/
def Dev.failNodes (stack chan : Nat) (nodes : List Nat) (d : Dev) : Dev :=
  if nodes.isEmpty then d
  else ((d.stkUpd stack (fun s => { s with failedNodes := (s.failedNodes ++ nodes).eraseDups })).flag (Reg.STK_ERR.tree_fail stack)).reportUnit 0x3 (128 * stack + chan) 2

/-- Sparing starts by itself when a trigger of R431 is met; a channel that failed retraining with no spare free retires its
group (R433). [DEDUCED: log entry 73] -/
def Dev.spareTrigger (stack chan : Nat) (met failed : Bool) (d : Dev) : Dev :=
  if failed && (d.freeSpare stack).isNone then d.retireChanGroup stack chan
  else if (met || failed) && d.get (Reg.STK_CFG.auto_spare stack) == 1 then d.startSparing stack chan
  else d

/-- A scrub pass of one channel (R424, R425, R430, R431). -/
def Dev.scrub (stack chan corrected : Nat) (poison nodes mac : List Nat) (pinTwice retrainFail : Bool) (d : Dev) : Dev :=
  if d.get (Reg.STK_CFG.scrub_hours stack) = 0 then d
  else
    let d := d.scrubCorrected stack chan corrected
    let d := poison.foldl (fun d b => d.poisonBlock ⟨stack, chan, b, false, 0, .nothing⟩) d
    let d := mac.foldl (fun d b => d.poisonBlock ⟨stack, chan, b, true, 0, .nothing⟩) d
    let d := d.failNodes stack chan nodes
    d.spareTrigger stack chan (pinTwice || decide (d.get (Reg.STK_CFG.spare_threshold stack) < corrected) || !poison.isEmpty) retrainFail

/-- SCRUB_PASS (R425, R431). -/
def execScrubPass (stack chan corrected : Nat) (poison failedNodes macFail : List Nat) (pinTwice retrainFail : Bool) (s : State) :
    Host.Outcome State Fault Refusal :=
  onServing (fun d => d.scrub stack chan corrected poison failedNodes macFail pinTwice retrainFail) s

/-- STK_SPARE_START (R431, R449): the owner names a channel and starts its sparing. -/
def execStkSpareStart (m : Master) (stack chan : Nat) (s : State) : Host.Outcome State Fault Refusal :=
  onServing (fun d => d.ownerWrite m.code (fun d => (d.put (Reg.STK_SPARE.channel stack) chan).startSparing stack (wrap 7 chan))) s

/-- The copy ends: the spare takes the logical slot, and the old channel is marked failed (R432, R564). [DEDUCED: log entry 73] -/
def Dev.spareDone (stack : Nat) (d : Dev) : Dev :=
  match (d.stack stack).sparing with
  | none => d
  | some x =>
    let d := d.stkUpd stack (fun s => { s with sparing := none })
    let d := (d.put (Reg.STK_CH.state stack x.spare) 0).put (Reg.STK_CH.slot stack x.spare) x.slot
    let d := (d.put (Reg.STK_CH.state stack x.chan) 3).put (Reg.STK_CH.slot stack x.chan) 0x7F
    let d := ((d.put (Reg.STK_SPARE.busy stack) 0).put (Reg.STK_SPARE.progress stack) 100).flag (Reg.STK_ERR.spare_done stack)
    (d.reportUnit 0x3 (128 * stack + x.chan) 1).bump Reg.FOG_REP_CHANNEL.count 1

/-- CHANNEL_SPARE_DONE (R432). -/
def execChannelSpareDone (stack : Nat) (s : State) : Host.Outcome State Fault Refusal :=
  onServing (fun d => d.spareDone stack) s

/-! ### The translation layer -/

/-- A block group of a LUN. -/
def Dev.blockGroup (lun g : Nat) (d : Dev) : BlockGroup := Tab.getD (lun * 2 ^ 20 + g) ⟨0, 0, 0, 0⟩ d.media.flash.groups

/-- The device with a block group changed. -/
def Dev.groupUpd (lun g : Nat) (f : BlockGroup → BlockGroup) (d : Dev) : Dev :=
  d.flUpd (fun x => { x with groups := Tab.put (lun * 2 ^ 20 + g) (f (d.blockGroup lun g)) x.groups })

/-- A LUN is in use: enumerated, not retired, on an active channel. -/
def Dev.lunActive (lun : Nat) (d : Dev) : Bool := Tab.has lun d.media.flash.luns && d.get (Reg.FLS_CH.state (lun / 32)) == 1

/-- Block groups of a LUN, by number. -/
def Dev.groupsOf (lun : Nat) (d : Dev) : List Nat := List.range (Tab.getD lun 0 d.media.flash.luns)

/-- Free block groups of a LUN. -/
def Dev.freeGroups (lun : Nat) (d : Dev) : List Nat := (d.groupsOf lun).filter (fun g => (d.blockGroup lun g).st == 0)

/-- Pages that an extent takes: one of four planes, else two (R438). -/
def Dev.extentPages (d : Dev) : Nat := if 4 ≤ d.get Reg.FLS_GEOM.planes then 1 else 2

/-- The number that is least (or, with `up`, greatest) by `f`, the first among equals. -/
def bestBy (up : Bool) (f : Nat → Nat) : List Nat → Option Nat
  | [] => none
  | x :: xs =>
    match bestBy up f xs with
    | some y => if (if up then decide (f x < f y) else decide (f y < f x)) then some y else some x
    | none => some x

/-- The block group that a LUN writes next: its open one, else the free one with the lowest erase count (R445). [DEDUCED: log entry 74] -/
def Dev.writeGroup (lun : Nat) (d : Dev) : Option Nat :=
  match (d.groupsOf lun).find? (fun g => (d.blockGroup lun g).st == 1) with
  | some g => some g
  | none => bestBy false (fun g => (d.blockGroup lun g).erases) (d.freeGroups lun)

/-- Take the next pages of a LUN's write group: the group closes when no further extent fits. [DEDUCED: log entry 74] -/
def Dev.takePages (lun : Nat) (d : Dev) : Option (Nat × Nat × Dev) :=
  (d.writeGroup lun).map (fun g =>
    let b := d.blockGroup lun g
    let next := b.next + d.extentPages
    (g, b.next, d.groupUpd lun g (fun b => { b with st := if d.get Reg.FLS_GEOM.pages < next + d.extentPages then 2 else 1, next := next })))

/-- LUNs of a channel that can take an extent. -/
def Dev.lunsOf (chan : Nat) (d : Dev) : List Nat :=
  ((List.range 32).map (fun k => 32 * chan + k)).filter (fun l => d.lunActive l && (d.writeGroup l).isSome)

/-- The channel after the one used for the Sector's previous extent (R439), in turn over those that can take one. -/
def Dev.nextChan (sector : Nat) (d : Dev) : Option Nat :=
  let last := Tab.getD sector 31 d.media.flash.lastChan
  ((List.range 32).map (fun k => (last + 1 + k) % 32)).find? (fun c => !(d.lunsOf c).isEmpty)

/-- The LUN of a channel with the most free block groups, the lowest target and LUN among equals (R439). -/
def Dev.pickLun (chan : Nat) (d : Dev) : Option Nat := bestBy true (fun l => (d.freeGroups l).length) (d.lunsOf chan)

/-- Program an extent at the pages taken, and switch its entry (R439, R443). -/
def Dev.programAt (lun g page e seq key : Nat) (d : Dev) : Dev := (d.setEntry e (some ⟨lun, g, page, seq, key⟩)).emit (.flash 1 lun g page)

/-- Extents whose entries name a block group. -/
def Dev.extentsIn (lun g : Nat) (d : Dev) : List Nat :=
  (d.media.flash.table.filter (fun e => e.2.lun == lun && e.2.group == g)).map (·.1)

/-- Where a relocation from a LUN goes: the same LUN where it can, else the LUN with the most free block groups. [DEDUCED: log entry 74] -/
def Dev.relocLun (lun : Nat) (d : Dev) : Option Nat :=
  if d.lunActive lun && (d.writeGroup lun).isSome then some lun
  else bestBy true (fun l => (d.freeGroups l).length) ((List.range 32).flatMap (fun c => d.lunsOf c))

/-- Relocate one extent: its pages and spare data are copied unchanged, and its entry switches (R440, R441). [DEDUCED: log entry 74] -/
def Dev.relocateOne (e : Nat) (d : Dev) : Dev :=
  match Tab.look e d.media.flash.table with
  | none => d
  | some x =>
    match d.relocLun x.lun with
    | none => d
    | some l =>
      match d.takePages l with
      | none => d
      | some (g, p, d) => (d.programAt l g p e x.seq x.key).bump Reg.FLS_RELOC.count 1

/-- An extent that cannot be read is reported and reads as failed (R444, R448). -/
def Dev.failExtent (lun e : Nat) (d : Dev) : Dev :=
  let d := d.flUpd (fun f => { f with failed := if f.failed.contains e then f.failed else f.failed ++ [e] })
  ((d.flag Reg.FLS_ERR.unreadable).bump Reg.FLS_UNCORR.count 1).reportUnit 0x6 lun 1

/-- Relocate the readable extents of a block group; it takes no further write meanwhile. -/
def Dev.relocateGroup (lun g : Nat) (unreadable : List Nat) (d : Dev) : Dev :=
  let d := if (d.blockGroup lun g).st = 1 then d.groupUpd lun g (fun b => { b with st := 2 }) else d
  (d.extentsIn lun g).foldl (fun d e => if unreadable.contains e then d.failExtent lun e else d.relocateOne e) d

/-- A LUN with more than 2 % of its blocks retired is retired, after its readable extents have moved (R448, R564). [DEDUCED: log entry 74] -/
def Dev.checkLun (lun : Nat) (d : Dev) : Dev :=
  if 2 * Tab.getD lun 0 d.media.flash.luns < 100 * Tab.getD lun 0 d.media.flash.retiredBlocks then
    let gs := d.groupsOf lun
    let d := d.flUpd (fun f => { f with luns := Tab.del lun f.luns })
    let d := gs.foldl (fun d g => (d.extentsIn lun g).foldl (fun d e => if d.extentFailed e then d else d.relocateOne e) d) d
    (((d.flag Reg.FLS_ERR.lun_retired).put (Reg.FLS_TGT.state (lun / 4)) 3).reportUnit 0x6 lun 1).bump Reg.FOG_REP_FLASH.count 1
  else d

/-- A block is retired, with the block group it belongs to, after its readable extents have moved (R448). [DEDUCED: log entry 74] -/
def Dev.retireGroup (lun g : Nat) (unreadable : List Nat) (d : Dev) : Dev :=
  let d := (d.groupUpd lun g (fun b => { b with st := 3 })).relocateGroup lun g unreadable
  let d := (d.bump Reg.FLS_RETIRED.count 1).bump (Reg.FLS_TGT.retired_blocks (lun / 4)) 1
  let d := d.flUpd (fun f => { f with retiredBlocks := Tab.put lun (Tab.getD lun 0 f.retiredBlocks + 1) f.retiredBlocks })
  d.checkLun lun

/-- The Sector, and the 4 KiB unit of its tier 2, that an extent belongs to (R437). -/
def Dev.extentOwner (e : Nat) (d : Dev) : Option (Nat × Nat) :=
  d.comp.cur.units.findSome? (fun s => (s.2.findIdx? (fun u => u == e / 16384)).map (fun i => (s.1, i * 262144 + e % 16384 * 16)))

/-- Keeper firmware trims the extents that hold no object any more (R440). [DEDUCED: log entry 74] -/
def Dev.trim (d : Dev) : Dev :=
  (d.media.flash.table.filter (fun x => match d.extentOwner x.1 with | some (s, u) => d.spanFree 2 s u 16 | none => false)).foldl
    (fun d x => d.setEntry x.1 none) d

/-- The key that an extent is written under (R426, R443): its Sector's, the pool's (number 16), the device's. -/
def Dev.extentKey (sector e : Nat) (d : Dev) : Option Nat :=
  if sector < 16 then (match d.extentOwner e with | some (s, _) => if s = sector then some (2 + sector) else none | none => none)
  else if sector = 16 then (if e / 16384 < d.get Reg.POOL_SIZE.t2_gib then some 1 else none)
  else if (d.extentOwner e).isNone && decide (d.get Reg.POOL_SIZE.t2_gib ≤ e / 16384) then some 0 else none

/-- An extent is programmed on a channel: where the program fails, the block is retired and the extent is written elsewhere
first (R439, R448). [DEDUCED: log entry 74] -/
def Dev.programExtent (chan e key : Nat) (ok : Bool) (d : Dev) : Dev :=
  let seq := d.media.flash.seq + 1
  let d := d.flUpd (fun f => { f with seq := seq })
  match d.pickLun chan with
  | none => d
  | some l =>
    match d.takePages l with
    | none => d
    | some (g, p, d) =>
      if ok then d.programAt l g p e seq key
      else
        let d := d.retireGroup l g []
        match d.relocLun l with
        | none => d
        | some l =>
          match d.takePages l with
          | none => d
          | some (g, p, d) => d.programAt l g p e seq key

/-- FLASH_PROGRAM_DONE (R437 to R439, R448). -/
def execFlashProgramDone (sector extent t : Nat) (ok : Bool) (s : State) : Host.Outcome State Fault Refusal :=
  onServing (fun d =>
    let d := d.advance t
    match d.extentKey sector extent, d.nextChan sector with
    | some key, some c =>
      (d.flUpd (fun f => { f with lastChan := Tab.put sector c f.lastChan })).programExtent c extent key ok
    | _, _ => d) s

/-- Erase a block group: an erase that fails retires it (R441, R448). -/
def Dev.eraseGroup (lun g : Nat) (ok : Bool) (d : Dev) : Dev :=
  if ok then
    ((d.groupUpd lun g (fun b => ⟨0, b.erases + 1, 0, 0⟩)).bump Reg.FLS_ERASES.count 1).emit (.flash 2 lun g 0)
  else d.retireGroup lun g []

/-- The written block group of a LUN with the fewest valid extents (R441). -/
def Dev.gcVictim (lun : Nat) (d : Dev) : Option Nat :=
  bestBy false (fun g => (d.extentsIn lun g).length) ((d.groupsOf lun).filter (fun g => (d.blockGroup lun g).st == 2))

/-- FLASH_GC (R440, R441): below gc_low free block groups, the group with the fewest valid extents is emptied and erased. A
group that keeps an extent, for want of room elsewhere, is not erased; one with an extent that cannot be read is retired (R448). -/
def execFlashGc (lun : Nat) (unreadable : List Nat) (eraseOk : Bool) (t : Nat) (s : State) : Host.Outcome State Fault Refusal :=
  onServing (fun d =>
    let d := (d.advance t).trim
    if d.lunActive lun && decide ((d.freeGroups lun).length < d.get Reg.FLS_CFG.gc_low) then
      match d.gcVictim lun with
      | some g =>
        if (d.extentsIn lun g).any (fun e => unreadable.contains e) then d.retireGroup lun g unreadable else
        let d := d.relocateGroup lun g unreadable
        if (d.extentsIn lun g).all (fun e => d.media.flash.failed.contains e) then d.eraseGroup lun g eraseOk else d
      | none => d
    else d) s

/-- Erase counts of the block groups of a LUN that are not retired. -/
def Dev.eraseCounts (lun : Nat) (d : Dev) : List Nat :=
  ((d.groupsOf lun).filter (fun g => (d.blockGroup lun g).st != 3)).map (fun g => (d.blockGroup lun g).erases)

/-- WEAR_LEVEL (R445): when the erase counts of a LUN spread too far, the least-erased block group that holds data is emptied. -/
def execWearLevel (lun t : Nat) (s : State) : Host.Outcome State Fault Refusal :=
  onServing (fun d =>
    let d := (d.advance t).trim
    let es := d.eraseCounts lun
    if d.lunActive lun && decide (d.get Reg.FLS_CFG2.wl_spread + es.foldl min (es.headD 0) < es.foldl max 0) then
      match bestBy false (fun g => (d.blockGroup lun g).erases) ((d.groupsOf lun).filter (fun g => !(d.extentsIn lun g).isEmpty)) with
      | some g => d.relocateGroup lun g []
      | none => d
    else d) s

/-- READ_DISTURB_RELOCATE (R446): `reads` more reads of a block group; at the limit, or after a read that was weak, its extents
move and the count is cleared. -/
def execReadDisturbRelocate (lun group reads : Nat) (weak : Bool) (t : Nat) (s : State) : Host.Outcome State Fault Refusal :=
  onServing (fun d =>
    let d := d.advance t
    if d.lunActive lun then
      let d := d.groupUpd lun group (fun b => { b with reads := b.reads + reads })
      if weak || decide (d.orZero Reg.FLS_CFG.rd_limit_k 65536 * 1000 ≤ (d.blockGroup lun group).reads) then
        (d.relocateGroup lun group []).groupUpd lun group (fun b => { b with reads := 0 })
      else d
    else d) s

/-- RETENTION_SCAN (R447, R448): the scan has read a block group: weak pages move it, unreadable extents retire it. -/
def execRetentionScan (lun group : Nat) (weak : Bool) (unreadable : List Nat) (t : Nat) (s : State) : Host.Outcome State Fault Refusal :=
  onServing (fun d =>
    let d := d.advance t
    if d.lunActive lun && d.get Reg.FLS_CFG.retention_days != 0 then
      if !unreadable.isEmpty then d.retireGroup lun group unreadable
      else if weak then (d.relocateGroup lun group []).groupUpd lun group (fun b => { b with reads := 0 })
      else d
    else d) s

/-- TABLE_FLUSH (R442): changed table pages are written with the sequence flushed up to. -/
def execTableFlush (t : Nat) (s : State) : Host.Outcome State Fault Refusal :=
  onServing (fun d => (d.advance t).flUpd (fun f => { f with changed := [], flushedSeq := f.seq })) s

/-- FLASH_CHANNEL_LOST (R436): the channel's extents read as failed from here on. -/
def execFlashChannelLost (chan : Nat) (s : State) : Host.Outcome State Fault Refusal :=
  onServing (fun d =>
    if d.get (Reg.FLS_CH.state chan) == 1 then
      ((d.put (Reg.FLS_CH.state chan) 2).flag Reg.FLS_ERR.channel_lost).reportUnit 0x5 chan 2
    else d) s

end Sys2Proof.Machine
end

