-- ==== Sys2Proof/Machine/Ownership.lean ====
section
/-!
DEFINITION. Machine/Ownership.lean: the claim sequence, claim windows, heartbeats, lapse and handover (R484 to R490), for the two
PCIe masters and the baseboard controller.
-/
namespace Sys2Proof.Machine

/-- The device with its ownership state changed. -/
def Dev.ownUpd (f : Own → Own) (d : Dev) : Dev := { d with own := f d.own }

/-- OWN_STATE.state: 0 window open, 1 owned, 2 LAPSED window, 3 unowned (R512). -/
def Dev.ownSt (d : Dev) : Nat := d.get Reg.OWN_STATE.state

/-- The priority order, highest first (R484, R512). In recovery only the PCIe masters stand in it, port A first where no order was
loaded (R520). -/
def Dev.ownOrder (d : Dev) : List Nat :=
  let p := d.get Reg.OWN_CFG.priority
  let all := [p / 16 % 4, p / 4 % 4, p % 4].filter (· != 0)
  if d.inRecovery then (if (all.filter (· != 3)).isEmpty then [1, 2] else all.filter (· != 3)) else all

/-- May a master be a candidate: not the former owner in a LAPSED window (R488). -/
def Dev.ownCandidate (m : Nat) (d : Dev) : Bool := !(d.ownSt == 2 && d.own.barred == m)

/-- A claim window opens for 2 s, in state 0 or, after a lapse, 2 (R486, R488). -/
def Dev.openWindow (st barred : Nat) (d : Dev) : Dev :=
  ((d.put Reg.OWN_STATE.state st).put Reg.OWN_STATE.owner 0).ownUpd (fun o =>
    { o with claims := [], windowEnd := some (d.now + ms 2000), barred := barred })

/-- No handover is pending any more (R489). -/
def Dev.endHandover (d : Dev) : Dev := (d.put Reg.OWN_HANDOVER.pending 0).ownUpd (fun o => { o with handoverEnd := none })

/-- A master becomes owner, with everything a change of owner brings (R490, R383, R545). [DEDUCED: log entry 81] -/
def Dev.becomeOwner (m : Nat) (d : Dev) : Dev :=
  let d := d.endHandover.ownUpd (fun o => { o with claims := [], windowEnd := none, barred := 0, hbAt := d.now })
  let d := (d.put Reg.OWN_STATE.owner m).put Reg.OWN_STATE.state 1
  let d := (d.put Reg.LENS_SAMP_CFG.enable 0).put Reg.CNT_REC_CFG.enable 0
  let d := ((d.bump Reg.OWN_STATE.changes 1).pfIrqBoth 0).flag Reg.GLB_IRQ.owner_change
  d.reportHub 0xFFF ST.OK 0

/-- Ownership lapses: a new window opens, in which the former owner is no candidate (R488); a handover is cancelled (R489). [DEDUCED: log entry 81] -/
def Dev.lapse (d : Dev) : Dev := if d.ownSt = 1 then d.endHandover.openWindow 2 d.owner else d

/-- A master completes the claim sequence (R486, R488, R489). [DEDUCED: log entry 81] -/
def Dev.claimDone (m : Nat) (d : Dev) : Dev :=
  if !d.ownOrder.contains m then d
  else if d.ownSt = 1 then
    (if d.get Reg.OWN_HANDOVER.pending == 1 && d.get Reg.OWN_HANDOVER.target == m then d.becomeOwner m else d)
  else if d.ownSt = 3 then d.becomeOwner m
  else if !d.ownCandidate m then d
  else if (d.ownOrder.filter (fun k => d.ownCandidate k)).head? = some m then d.becomeOwner m
  else d.ownUpd (fun o => { o with claims := if o.claims.contains m then o.claims else o.claims ++ [m] })

/-- A write to OWN_CLAIM (R485): the claim value, then its complement within 1 ms; any other write leaves no claim. [DEDUCED: log entry 81] -/
def Dev.claimWrite (m value : Nat) (d : Dev) : Dev :=
  let first := Tab.look m d.own.half
  let d := d.ownUpd (fun o => { o with half := Tab.del m o.half })
  if value = 0x4F574E52 then d.ownUpd (fun o => { o with half := Tab.put m d.now o.half })
  else
    match first with
    | some t0 => if value = 0xB0A8B1AD ∧ d.now ≤ t0 + ms 1 then d.claimDone m else d
    | none => d

/-- OWN_CLAIM (R485, R487): open to every master. -/
def execOwnClaim (m : Master) (value t : Nat) (s : State) : Host.Outcome State Fault Refusal :=
  onAwake (fun d => (d.advance t).claimWrite m.code value) s

/-- A window that has run 2 s closes: its highest-priority claimant becomes owner, or the device is unowned (R486, R488). [DEDUCED: log entry 81] -/
def Dev.closeWindow (d : Dev) : Dev :=
  match d.own.windowEnd with
  | some e =>
    if e ≤ d.now then
      match d.ownOrder.find? (fun m => d.own.claims.contains m && d.ownCandidate m) with
      | some m => d.becomeOwner m
      | none => (d.put Reg.OWN_STATE.state 3).ownUpd (fun o => { o with claims := [], windowEnd := none, barred := 0 })
    else d
  | none => d

/-- CLAIM_WINDOW_END (R486). -/
def execClaimWindowEnd (t : Nat) (s : State) : Host.Outcome State Fault Refusal :=
  onAwake (fun d => (d.advance t).closeWindow) s

/-- A heartbeat of the owner (R488). [DEDUCED: log entry 81] -/
def Dev.beat (d : Dev) : Dev := d.ownUpd (fun o => { o with hbAt := d.now })

/-- OWN_HEARTBEAT (R487, R488): a write by any other master is ignored and counted. -/
def execOwnHeartbeat (m : Master) (t : Nat) (s : State) : Host.Outcome State Fault Refusal :=
  onAwake (fun d => (d.advance t).ownerWrite m.code Dev.beat) s

/-- HEARTBEAT_LAPSE (R488): no heartbeat for hb_ms. [DEDUCED: log entry 12] -/
def execHeartbeatLapse (t : Nat) (s : State) : Host.Outcome State Fault Refusal :=
  onAwake (fun d =>
    let d := d.advance t
    if d.ownSt = 1 ∧ d.own.hbAt + ms (d.orZero Reg.OWN_CFG.hb_ms 65536) ≤ d.now then d.lapse else d) s

/-- The owner names a handover target (R489): one absent from the order, or the owner itself, is ignored. [DEDUCED: log entry 81] -/
def Dev.startHandover (target : Nat) (d : Dev) : Dev :=
  if d.ownOrder.contains target && target != d.owner then
    ((d.put Reg.OWN_HANDOVER.target target).put Reg.OWN_HANDOVER.pending 1).ownUpd (fun o => { o with handoverEnd := some (d.now + ms 2000) })
  else d

/-- OWN_HANDOVER (R489). -/
def execOwnHandover (m : Master) (target t : Nat) (s : State) : Host.Outcome State Fault Refusal :=
  onAwake (fun d => (d.advance t).ownerWrite m.code (fun d => d.startHandover (target % 4))) s

/-- HANDOVER_TIMEOUT (R489): not claimed within 2 s. -/
def execHandoverTimeout (t : Nat) (s : State) : Host.Outcome State Fault Refusal :=
  onAwake (fun d =>
    let d := d.advance t
    match d.own.handoverEnd with
    | some e => if e ≤ d.now then d.endHandover else d
    | none => d) s

/-- CLAIM over MCTP (R485): both values at once; not in recovery (R520). -/
def execMctpClaim (t : Nat) (s : State) : Host.Outcome State Fault Refusal :=
  onServing (fun d => let d := d.advance t; if d.mctp.up then d.claimDone 3 else d) s

/-- HEARTBEAT over MCTP (R488). -/
def execMctpHeartbeat (t : Nat) (s : State) : Host.Outcome State Fault Refusal :=
  onServing (fun d => let d := d.advance t; if d.mctp.up && d.owner == 3 then d.beat else d) s

/-- MCTP_LINK_LOSS (R488): the link is down, and with it the ownership of the baseboard controller. -/
def execMctpLinkLoss (t : Nat) (s : State) : Host.Outcome State Fault Refusal :=
  onServing (fun d =>
    let d := d.advance t
    let d : Dev := { d with mctp := { d.mctp with up := false } }
    if d.owner = 3 then d.lapse else d) s

end Sys2Proof.Machine
end

