-- ==== Sys2Proof/Machine/Crypto.lean ====
section
/-!
DEFINITION. Machine/Crypto.lean: the standard functions behind the device's keys: SHA-384, HMAC, the key derivation of SP 800-108, and
AES-256 with counter mode, GMAC and GCM (R407, R427, R444, R452, R453, R454).
-/
namespace Sys2Proof.Machine

/-! ### SHA-384 and HMAC -/

/-- Round constants of SHA-512, 0 to 19. -/
def sha512K0 : List Nat :=
  [0x428A2F98D728AE22, 0x7137449123EF65CD, 0xB5C0FBCFEC4D3B2F, 0xE9B5DBA58189DBBC,
   0x3956C25BF348B538, 0x59F111F1B605D019, 0x923F82A4AF194F9B, 0xAB1C5ED5DA6D8118,
   0xD807AA98A3030242, 0x12835B0145706FBE, 0x243185BE4EE4B28C, 0x550C7DC3D5FFB4E2,
   0x72BE5D74F27B896F, 0x80DEB1FE3B1696B1, 0x9BDC06A725C71235, 0xC19BF174CF692694,
   0xE49B69C19EF14AD2, 0xEFBE4786384F25E3, 0x0FC19DC68B8CD5B5, 0x240CA1CC77AC9C65]

/-- Round constants of SHA-512, 20 to 39. -/
def sha512K1 : List Nat :=
  [0x2DE92C6F592B0275, 0x4A7484AA6EA6E483, 0x5CB0A9DCBD41FBD4, 0x76F988DA831153B5,
   0x983E5152EE66DFAB, 0xA831C66D2DB43210, 0xB00327C898FB213F, 0xBF597FC7BEEF0EE4,
   0xC6E00BF33DA88FC2, 0xD5A79147930AA725, 0x06CA6351E003826F, 0x142929670A0E6E70,
   0x27B70A8546D22FFC, 0x2E1B21385C26C926, 0x4D2C6DFC5AC42AED, 0x53380D139D95B3DF,
   0x650A73548BAF63DE, 0x766A0ABB3C77B2A8, 0x81C2C92E47EDAEE6, 0x92722C851482353B]

/-- Round constants of SHA-512, 40 to 59. -/
def sha512K2 : List Nat :=
  [0xA2BFE8A14CF10364, 0xA81A664BBC423001, 0xC24B8B70D0F89791, 0xC76C51A30654BE30,
   0xD192E819D6EF5218, 0xD69906245565A910, 0xF40E35855771202A, 0x106AA07032BBD1B8,
   0x19A4C116B8D2D0C8, 0x1E376C085141AB53, 0x2748774CDF8EEB99, 0x34B0BCB5E19B48A8,
   0x391C0CB3C5C95A63, 0x4ED8AA4AE3418ACB, 0x5B9CCA4F7763E373, 0x682E6FF3D6B2B8A3,
   0x748F82EE5DEFB2FC, 0x78A5636F43172F60, 0x84C87814A1F0AB72, 0x8CC702081A6439EC]

/-- Round constants of SHA-512, 60 to 79. -/
def sha512K3 : List Nat :=
  [0x90BEFFFA23631E28, 0xA4506CEBDE82BDE9, 0xBEF9A3F7B2C67915, 0xC67178F2E372532B,
   0xCA273ECEEA26619C, 0xD186B8C721C0C207, 0xEADA7DD6CDE0EB1E, 0xF57D4F7FEE6ED178,
   0x06F067AA72176FBA, 0x0A637DC5A2C898A6, 0x113F9804BEF90DAE, 0x1B710B35131C471B,
   0x28DB77F523047D84, 0x32CAAB7B40C72493, 0x3C9EBE0A15C9BEBC, 0x431D67C49C100D4C,
   0x4CC5D4BECB3E42B6, 0x597F299CFC657E2A, 0x5FCB6FAB3AD6FAEC, 0x6C44198C4A475817]

/-- The round constants of SHA-512. -/
def sha512K : List Nat := sha512K0 ++ sha512K1 ++ sha512K2 ++ sha512K3

/-- SHA-384's initial chaining words. -/
def sha384Init : List Nat :=
  [0xCBBB9D5DC1059ED8, 0x629A292A367CD507, 0x9159015A3070DD17, 0x152FECD8F70E5939,
   0x67332667FFC00B31, 0x8EB44A8768581511, 0xDB0C2E0D64F98FA7, 0x47B5481DBEFA4FA4]

/-- Rotate a 64-bit word right. -/
def rotr64 (n x : Nat) : Nat := x / 2 ^ n + x % 2 ^ n * 2 ^ (64 - n)

/-- The message words past the sixteenth; `ws` holds the last sixteen, latest first. -/
def sha512Schedule : Nat → List Nat → List Nat → List Nat
  | 0, _, acc => acc.reverse
  | fuel + 1, ws, acc =>
    let g (i : Nat) : Nat := ws.getD i 0
    let s0 := rotr64 1 (g 14) ^^^ rotr64 8 (g 14) ^^^ (g 14 / 128)
    let s1 := rotr64 19 (g 1) ^^^ rotr64 61 (g 1) ^^^ (g 1 / 64)
    let w := wrap 64 (g 15 + s0 + g 6 + s1)
    sha512Schedule fuel ((w :: ws).take 16) (w :: acc)

/-- One round on the eight working words. -/
def sha512Round (h : List Nat) (kw : Nat) : List Nat :=
  let g (i : Nat) : Nat := h.getD i 0
  let s1 := rotr64 14 (g 4) ^^^ rotr64 18 (g 4) ^^^ rotr64 41 (g 4)
  let ch := (g 4 &&& g 5) ^^^ ((0xFFFFFFFFFFFFFFFF - g 4) &&& g 6)
  let t1 := g 7 + s1 + ch + kw
  let s0 := rotr64 28 (g 0) ^^^ rotr64 34 (g 0) ^^^ rotr64 39 (g 0)
  let mj := (g 0 &&& g 1) ^^^ (g 0 &&& g 2) ^^^ (g 1 &&& g 2)
  [wrap 64 (t1 + s0 + mj), g 0, g 1, g 2, wrap 64 (g 3 + t1), g 4, g 5, g 6]

/-- The chaining words after a 128-byte block. -/
def sha512Block (h : List Nat) (block : List Byte) : List Nat :=
  let ws := (List.range 16).map (fun i => beNat ((block.drop (8 * i)).take 8))
  let all := ws ++ sha512Schedule 64 ws.reverse []
  let r := (sha512K.zip all).foldl (fun h kw => sha512Round h (kw.1 + kw.2)) h
  (h.zip r).map (fun p => wrap 64 (p.1 + p.2))

/-- Run every whole block; `fuel` bounds the blocks. -/
def sha512Blocks : Nat → List Nat → List Byte → List Nat
  | 0, h, _ => h
  | fuel + 1, h, bs => if bs.length < 128 then h else sha512Blocks fuel (sha512Block h (bs.take 128)) (bs.drop 128)

/-- `n` bytes of a number, most significant first. -/
def beBytes (n x : Nat) : List Byte := (leBytes n x).reverse

/-- SHA-384 of bytes: 48 bytes. -/
def sha384 (bs : List Byte) : List Byte :=
  let pad := (239 - bs.length % 128) % 128
  let all := bs ++ [0x80] ++ List.replicate pad 0 ++ beBytes 16 (bs.length * 8)
  ((sha512Blocks (all.length / 128) sha384Init all).take 6).flatMap (beBytes 8)

/-- SHA-256 of bytes as 32 bytes. -/
def sha256Bytes (bs : List Byte) : List Byte := shaFinish (shaAbsorb DigestEntry.start bs)

/-- HMAC over a hash with blocks of `block` bytes. -/
def hmac (hash : List Byte → List Byte) (block : Nat) (key msg : List Byte) : List Byte :=
  let k := if block < key.length then hash key else key
  let k := k ++ List.replicate (block - k.length) 0
  hash (k.map (fun b => b ^^^ 0x5C) ++ hash (k.map (fun b => b ^^^ 0x36) ++ msg))

/-- HMAC-SHA-384. -/
def hmacSha384 (key msg : List Byte) : List Byte := hmac sha384 128 key msg

/-- HMAC-SHA-256 (R453, R454). -/
def hmacSha256 (key msg : List Byte) : List Byte := hmac sha256Bytes 64 key msg

/-- An ASCII string's bytes. -/
def asciiBytes (s : String) : List Byte := s.toList.map (fun c => BitVec.ofNat 8 c.toNat)

/-- The derivation of every key (R452): counter mode of SP 800-108 with HMAC-SHA-384, 256 bits, so one iteration. The standard leaves to
its user the widths of the counter and of the length, 32 bits here. [PRESUMED: log entry 121] -/
def deriveKey (root : List Byte) (label : String) (context : List Byte) : List Byte :=
  (hmacSha384 root (beBytes 4 1 ++ asciiBytes label ++ [0] ++ context ++ beBytes 4 256)).take 32

/-! ### AES-256 -/

/-- Doubling in AES's field. -/
def gfDouble (x : Nat) : Nat := if 128 ≤ x then (2 * x - 256) ^^^ 0x1B else 2 * x

/-- Product in AES's field. -/
def gfMul (x y : Nat) : Nat :=
  ((List.range 8).foldl (fun (a : Nat × Nat) i => (if y.testBit i then a.1 ^^^ a.2 else a.1, gfDouble a.2)) (0, x)).1

/-- The inverse in AES's field, the 254th power; 0 of 0. -/
def gfInv (x : Nat) : Nat :=
  let p2 := gfMul x x
  let p3 := gfMul p2 x
  let p12 := gfMul (gfMul p3 p3) (gfMul p3 p3)
  let p15 := gfMul p12 p3
  let p30 := gfMul p15 p15
  let p60 := gfMul p30 p30
  let p120 := gfMul p60 p60
  gfMul (gfMul (gfMul p120 p120) p12) p2

/-- AES's substitution of a byte. -/
def aesSub (x : Nat) : Nat :=
  let b := gfInv x
  let r (n : Nat) : Nat := (b * 2 ^ n) % 256 ||| b / 2 ^ (8 - n)
  b ^^^ r 1 ^^^ r 2 ^^^ r 3 ^^^ r 4 ^^^ 0x63

/-- Byte-wise exclusive or of two lists. -/
def xorNats (a b : List Nat) : List Nat := List.zipWith (fun x y => x ^^^ y) a b

/-- The words of the key schedule past the key, latest first in `ws`; `i` numbers the next. -/
def aesSchedule : Nat → Nat → Nat → List (List Nat) → List (List Nat)
  | 0, _, _, ws => ws.reverse
  | fuel + 1, i, rcon, ws =>
    let last := ws.headD []
    let t := if i % 8 = 0 then xorNats ((last.drop 1 ++ last.take 1).map aesSub) [rcon, 0, 0, 0] else if i % 8 = 4 then last.map aesSub else last
    aesSchedule fuel (i + 1) (if i % 8 = 0 then gfDouble rcon else rcon) (xorNats (ws.getD 7 []) t :: ws)

/-- The fifteen round keys of a 256-bit key. -/
def aesKeys (key : List Byte) : List (List Nat) :=
  let k := key.map BitVec.toNat
  let ws := aesSchedule 52 8 1 ((List.range 8).map (fun i => (k.drop (4 * i)).take 4)).reverse
  (List.range 15).map (fun r => ((ws.drop (4 * r)).take 4).flatten)

/-- Rows shifted: byte r of column c comes from column c + r. -/
def aesShift (s : List Nat) : List Nat := (List.range 16).map (fun i => s.getD ((i + 4 * (i % 4)) % 16) 0)

/-- Columns mixed. -/
def aesMix (s : List Nat) : List Nat :=
  (List.range 16).map (fun i =>
    let g (k : Nat) : Nat := s.getD (i / 4 * 4 + (i + k) % 4) 0
    gfDouble (g 0) ^^^ (gfDouble (g 1) ^^^ g 1) ^^^ g 2 ^^^ g 3)

/-- AES-256 of a 16-byte block under round keys. -/
def aesRounds (keys : List (List Nat)) (block : List Nat) : List Nat :=
  let s := (List.range 13).foldl (fun s r => xorNats (aesMix (aesShift (s.map aesSub))) (keys.getD (r + 1) [])) (xorNats block (keys.getD 0 []))
  xorNats (aesShift (s.map aesSub)) (keys.getD 14 [])

/-- AES-256 of a 16-byte block. -/
def aes256 (key block : List Byte) : List Byte := (aesRounds (aesKeys key) (block.map BitVec.toNat)).map (BitVec.ofNat 8)

/-- Counter mode from an initial counter block, whose last 32 bits count. -/
def aesCtr (key icb : List Byte) (data : List Byte) : List Byte :=
  let keys := aesKeys key
  let top := icb.take 12
  let c := beNat (icb.drop 12)
  (List.range ((data.length + 15) / 16)).flatMap (fun i =>
    List.zipWith (fun a b => a ^^^ b) ((data.drop (16 * i)).take 16)
      ((aesRounds keys ((top ++ beBytes 4 ((c + i) % 2 ^ 32)).map BitVec.toNat)).map (BitVec.ofNat 8)))

/-- Product in GCM's field, whose bit 0 is the most significant of the block. -/
def ghashMul (x y : Nat) : Nat :=
  ((List.range 128).foldl (fun (a : Nat × Nat) i =>
    (if x.testBit (127 - i) then a.1 ^^^ a.2 else a.1, if a.2.testBit 0 then (a.2 / 2) ^^^ (0xE1 * 2 ^ 120) else a.2 / 2)) (0, y)).1

/-- Zero bytes to the end of a block. -/
def pad16 (bs : List Byte) : List Byte := bs ++ List.replicate ((16 - bs.length % 16) % 16) 0

/-- GHASH of additional data and ciphertext under the hash key. -/
def ghash (h : Nat) (aad ct : List Byte) : Nat :=
  let all := pad16 aad ++ pad16 ct ++ beBytes 8 (aad.length * 8) ++ beBytes 8 (ct.length * 8)
  (List.range (all.length / 16)).foldl (fun y i => ghashMul (y ^^^ beNat ((all.drop (16 * i)).take 16)) h) 0

/-- AES-256-GCM with a 12-byte IV: ciphertext and 16-byte tag. -/
def aesGcm (key iv aad pt : List Byte) : List Byte × List Byte :=
  let ct := aesCtr key (iv ++ beBytes 4 2) pt
  let s := ghash (beNat (aes256 key (List.replicate 16 0))) aad ct
  (ct, List.zipWith (fun a b => a ^^^ b) (beBytes 16 s) (aes256 key (iv ++ beBytes 4 1)))

/-- GMAC: the tag of GCM over additional data alone. -/
def gmac (key iv aad : List Byte) : List Byte := (aesGcm key iv aad []).2

end Sys2Proof.Machine
end

