-- ==== Sys2Proof/Machine/Images.lean ====
section
/-!
DEFINITION. Machine/Images.lean: layer images: the checks of a load, activation, run-time fall-back and unloading (R165,
R179 to R193, R346).
-/
namespace Sys2Proof.Machine

/-! ### The checks of IMAGE_LOAD (R187, R188) -/

/-- Regions are 4 KiB-aligned, base and size, and do not overlap (R165, R187 check 2). -/
def regionsOk (rs : List (Nat × Nat)) : Bool :=
  rs.length == 6 && rs.all (fun r => r.1 % 4096 == 0 && r.2 % 4096 == 0) &&
  ((List.range rs.length).zip rs).all (fun a => ((List.range rs.length).zip rs).all (fun b =>
    decide (b.1 ≤ a.1) || a.2.2 == 0 || b.2.2 == 0 || decide (a.2.1 + a.2.2 ≤ b.2.1) || decide (b.2.1 + b.2.2 ≤ a.2.1)))

/-- A core-table entry in place `k`: its lists' lengths, and regions that hold what lies in them (R165, R168, R182). -/
def coreFormatOk (k : Nat) (e : CoreEntry) : Bool :=
  e.index == k && regionsOk e.regions && decide (1 ≤ e.step.length) && decide (e.step.length ≤ 65535) && decide (e.refine.length ≤ 65535) &&
  decide (128 * (e.step.length + e.refine.length) ≤ (e.regions.getD 0 (0, 0)).2)

/-- A blob entry: an image core for placements 0 and 1, and a place inside its WEIGHT region for placement 0 (R183). -/
def blobFormatOk (i : Image) (b : Blob) : Bool :=
  decide (b.placement ≤ 2) && (b.placement == 2 || decide (b.core < i.cores.length)) &&
  (b.placement != 0 || (match i.cores[b.core]? with | some e => decide (b.sramOffset + b.size ≤ (e.regions.getD 1 (0, 0)).2) | none => false))

/-- Check 2: the format (R187). [DEDUCED: log entry 117] -/
def imageFormatOk (i : Image) : Bool :=
  i.magic == 0x47495A56 && i.version == 1 && i.sectionsOk && decide (1 ≤ i.cores.length) && decide (i.cores.length ≤ 32) && i.coreCount == i.cores.length &&
  decide (1 ≤ i.maxRows) && decide (i.maxRows ≤ 16384) && i.slots.length == i.layerSlots &&
  ((List.range i.cores.length).zip i.cores).all (fun e => coreFormatOk e.1 e.2) && i.blobs.all (blobFormatOk i) &&
  i.slots.all (fun s => decide (s.kind ≤ 6) && (decide (s.kvFormat ≤ 2) || s.kvFormat == 0xFF))

/-- Opcodes of R142. -/
def opcodeOk (c : Nat) : Bool := [0x01, 0x02, 0x03, 0x08, 0x09, 0x0A, 0x10, 0x11, 0x12, 0x18, 0x20, 0x30].contains c

/-- Format codes of R130 that an input takes: INT32 is for accumulators and outputs only, and KV pages come by descriptor. -/
def inputOk (f : Nat) : Bool := decide (f ≤ 10)

/-- Format codes of R130 that an output takes. -/
def outputOk (f : Nat) : Bool := decide (f ≤ 11)

/-- The operands whose elements a command takes as inputs (R142, R143): lists and tables are not among them. -/
def inputsOf (c : EngCmd) : List Operand :=
  let epi := if c.epilogue = 1 ∨ c.epilogue = 4 then [c.c] else []
  match c.opcode with
  | 0x01 => [c.a, c.b] ++ epi
  | 0x02 => [c.a, c.b, c.c]
  | 0x03 => [c.a, c.b]
  | 0x08 => [c.a, c.b]
  | 0x09 => [c.a, c.b]
  | 0x0A => if c.param0 = 0 then [c.a] else [c.a, c.b]
  | 0x11 => [c.a, c.b]
  | 0x12 => [c.a, c.b]
  | 0x20 => []
  | _ => [c.a]

/-- The formats of two operands of one multiplication (R129): INT8 and INT4 only with INT8 or INT4, and, of floating-point formats that
differ, only FP8, MXFP8, MXFP6, MXFP4 and BF16. -/
def pairOk (a b : Nat) : Bool :=
  if fmtInt a || fmtInt b then (a == 9 || a == 10) && (b == 9 || b == 10)
  else a == b || (decide (1 ≤ a) && decide (a ≤ 8) && decide (1 ≤ b) && decide (b ≤ 8))

/-- The pairs of operands that a command multiplies with each other (R129, R142). -/
def productPairs (c : EngCmd) : List (Operand × Operand) :=
  match c.opcode with
  | 0x01 => [(c.a, c.b)]
  | 0x02 => [(c.a, c.b), (c.a, c.c)]
  | 0x03 => [(c.a, c.b)]
  | 0x0A => if c.param0 = 2 ∨ c.param0 = 4 then [(c.a, c.b)] else []
  | _ => []

/-- No integer operand meets a floating-point one: two inputs of a command agree, and what meets a KV page, an adapter or an FP32 table is
floating-point (R129). -/
def kindsAgree (c : EngCmd) : Bool :=
  (match inputsOf c with
   | a :: b :: _ => fmtInt a.format == fmtInt b.format
   | _ => true) &&
  (!([0x08, 0x09, 0x10, 0x11, 0x12, 0x18, 0x30].contains c.opcode) || (inputsOf c).all (fun o => !fmtInt o.format))

/-- The extents along the reduction dimension of the operands of a command (R131, R142). -/
def kExtents (c : EngCmd) : List (Operand × Nat) :=
  match c.opcode with
  | 0x01 => [(c.a, c.a.cols), (c.b, c.b.rows)]
  | 0x02 => [(c.a, c.a.cols), (c.b, c.b.rows), (c.c, c.c.rows)]
  | 0x03 => [(c.a, c.a.cols), (c.b, c.b.rows)]
  | 0x0A => if c.param0 = 4 then [(c.a, c.a.cols), (c.b, c.b.cols)] else []
  | 0x10 => [(c.a, c.a.cols)]
  | 0x11 => [(c.a, c.a.cols), (c.b, c.b.cols)]
  | 0x30 => [(c.a, c.a.cols)]
  | _ => []

/-- The formats of a command (R129 to R131, R187 check 4). -/
def formatsOk (c : EngCmd) : Bool :=
  outputOk c.outFormat && (inputsOf c).all (fun o => inputOk o.format) && (productPairs c).all (fun p => pairOk p.1.format p.2.format) && kindsAgree c &&
  (kExtents c).all (fun p => !fmtMx p.1.format || p.2 % 32 == 0)

/-- Signals that can reach a slot of an image core in one step (R170, R171, R187 check 4). [DEDUCED: log entry 34] -/
def signalsTo (i : Image) (img list slot : Nat) : Nat :=
  let cmds := i.cores.flatMap (fun e => (if list = 0 then e.step else e.refine).map (fun c => (e.index, c)))
  let sig (s : Nat) : Nat := (cmds.filter (fun p => p.2.seqn.signalEn && p.2.seqn.signalSlot == s &&
    (if p.2.seqn.signalRemote then p.2.seqn.remoteCore else p.1) == img)).length
  if slot = 63 then (i.segs.filter (fun g => !g.out && g.mask.testBit img)).length
  else if slot = 60 then sig 61
  else if slot = 58 then (i.moe.filter (fun m => decide (m.firstCore ≤ img) && decide (img ≤ m.firstCore + (m.experts - 1) / max 1 m.perCore))).length
  else sig slot

/-- A wait of a command can be met. -/
def waitOk (i : Image) (img list : Nat) (en : Bool) (slot count : Nat) : Bool :=
  !en || (slot != 56 && slot != 57 && (list == 0 || decide (slot ≤ 55)) && decide (count ≤ signalsTo i img list slot))

/-- Check 4 for one command with the relocations of its list. -/
def commandOk (i : Image) (img list index : Nat) (c : EngCmd) : Bool :=
  let q := c.seqn
  let n := i.cores.length
  let used := [c.a, c.b, c.c, c.d].filter (fun o => o.space != 15)
  opcodeOk c.opcode && formatsOk c && used.all (fun o => decide (o.space ≤ 3)) &&
  used.all (fun o => o.space != 3 || decide (o.address / 2 ^ 24 < n)) && (!q.signalRemote || decide (q.remoteCore < n)) &&
  (!q.signalEn || !([63, 60, 58, 56, 57].contains q.signalSlot || (list == 1 && decide (55 < q.signalSlot)))) &&
  waitOk i img list q.waitAEn q.waitA q.waitACount && waitOk i img list q.waitBEn q.waitB q.waitBCount &&
  i.relocs.all (fun r => !(r.core == img && r.list == list && r.command == index) ||
    (if r.operand = 4 then i.moe.any (fun m => decide (r.target < m.experts)) else decide (r.operand ≤ 3) && decide (r.target < i.blobs.length))) &&
  (!(c.opcode == 0x10 || c.opcode == 0x11) || i.slots.any (fun s => s.layerId == c.layerId))

/-- Every command of an image: (image core, list, index, command), in the order of check 4. -/
def allCommands (i : Image) : List (Nat × Nat × Nat × EngCmd) :=
  i.cores.flatMap (fun e =>
    ((List.range e.step.length).zip e.step).map (fun p => (e.index, 0, p.1, p.2)) ++
    ((List.range e.refine.length).zip e.refine).map (fun p => (e.index, 1, p.1, p.2)))

/-- The result of ST_IMG_COMMAND: the first command that fails. A relocation that names no command is charged to it. -/
def badCommand (i : Image) : Option Nat :=
  match (allCommands i).find? (fun p => !commandOk i p.1 p.2.1 p.2.2.1 p.2.2.2) with
  | some p => some (p.2.2.1 + p.2.1 * 2 ^ 32 + p.1 * 2 ^ 40)
  | none =>
    (i.relocs.find? (fun r => !(allCommands i).any (fun p => p.1 == r.core && p.2.1 == r.list && p.2.2.1 == r.command))).map
      (fun r => r.command + r.list * 2 ^ 32 + r.core * 2 ^ 40)

/-- The cores of a Sector that are in service, in ascending order. -/
def Dev.secCores (n : Nat) (d : Dev) : List Nat :=
  (List.range 32).filter (fun c => (d.sector n).cores.testBit c && d.coreInService c && !d.eng.retiring.contains c)

/-- The largest P of a layer slot's pages (R50). -/
def pageFits (format dim32 p : Nat) : Bool :=
  decide (8 ≤ p) && p % 8 == 0 && decide (1 ≤ dim32) && decide (dim32 ≤ 8) &&
  (let r := pageRegions format (dim32 * 32) p
   let s := kvRowSizes format (dim32 * 32)
   decide (r.2.2.2 + p * s.2 ≤ 16384) && decide (r.2.2.1 + p * s.1 ≤ 16384))

/-- Shortfall in KiB, rounded up. Resources 1 and 5, of cores and directory entries, have no size in KiB: their shortfall is 0. [DESIGN CHOICE: log entry 118] -/
def shortKib (want have_ : Nat) : Nat := ceilDiv (want - have_) 1024

/-- The result field of ST_IMG_NOFIT (R188). -/
def noFit (code core short : Nat) : Nat := code + core * 65536 + short * 2 ^ 32

/-- Check 5: the resources in order; none when all fit (R188). -/
def Dev.resourceFault (n : Nat) (i : Image) (d : Dev) : Option Nat :=
  let cores := d.secCores n
  let all := (List.range 32).filter (fun c => d.coreInService c)
  let staging := ((d.capSector n).t0d0 + (d.capSector n).t0d1) * 65536
  let held := (d.tierUsed 1 n - imgUnits (d.secImg n).active - imgUnits (d.secImg n).staged) * 4096
  let want := i.imageLength + i.tier1Bytes + (match d.activeImg n with | some a => a.imageLength + a.tier1Bytes | none => 0)
  let room := d.tierCap 1 n * 4096 - held
  if cores.length < i.cores.length || (i.beacon && cores != all) then some (noFit 1 0xFFFF 0)
  else
    match i.cores.find? (fun e => e.regions.any (fun r => decide (0x1000000 < r.1 + r.2))) with
    | some e => some (noFit 2 e.index (shortKib ((e.regions.map (fun r => r.1 + r.2)).foldl max 0) 0x1000000))
    | none =>
      if staging < i.tier0Bytes then some (noFit 3 0xFFFF (shortKib i.tier0Bytes staging))
      else if room < want then some (noFit 4 0xFFFF (shortKib want room))
      else if 2040 < i.layerSlots * i.kvHeads * i.lps || !i.slots.all (fun s => s.kvFormat == 0xFF || pageFits s.kvFormat s.dim32 s.p) then some (noFit 5 0xFFFF 0)
      else none

/-- Where the staged image's bytes lie in the Sector's tier-1 range: below the active image's, which end it. [DESIGN CHOICE: log entry 35] -/
def Dev.stagedBase (n : Nat) (i : Image) (d : Dev) : Nat := (d.tierCap 1 n - imgUnits (d.secImg n).active - imgUnits (some i)) * 4096

/-- IMAGE_LOAD (R186 to R189): the header is looked at first; the checks follow in their order; an image that passes them is staged, its bytes
in tier 1. [DESIGN CHOICE: log entry 36] -/
def Dev.imageLoad (e : Ent) (n : Nat) (i : Image) (bytes : List Byte) (mem : List Host.Cell) (d : Dev) : List Host.Cell × Dev :=
  if d.tierFree 1 n * 4096 < i.imageLength then (mem, d.complete e ST.IMG_NOFIT (noFit 4 0xFFFF (shortKib i.imageLength (d.tierFree 1 n * 4096))))
  else if !d.imageSigOk i.sig then (mem, d.sigRefused.complete e ST.IMG_SIGNATURE 0)
  else if !imageFormatOk i then (mem, d.complete e ST.IMG_FORMAT 0)
  else if i.role ≠ d.role ∨ i.groupSizeM1 + 1 ≠ d.groupSize ∨ i.position ≠ d.position then (mem, d.complete e ST.IMG_ROLE 0)
  else
    match badCommand i with
    | some r => (mem, d.complete e ST.IMG_COMMAND r)
    | none =>
      match d.resourceFault n i with
      | some r => (mem, d.complete e ST.IMG_NOFIT r)
      | none => (Mem.writes (tierAddr 1 n (d.stagedBase n i)) bytes mem, (d.secImgPut n { (d.secImg n) with staged := some i }).complete e ST.OK 0)

/-- The bytes that IMAGE_LOAD reads: host memory's through the port, or the Sector's own at a tier-1 fall-back address (R186). -/
def loadSource (n kind source length : Nat) (host : List Byte) (mem : List Host.Cell) : List Byte :=
  if kind = 0 then host.take length else Mem.reads (tierAddr 1 n (source % 2 ^ 48)) length mem

/-- IMAGE_LOAD (R187): `host` is what host memory holds at the source address, and `sig` what the check of the signatures comes to. -/
def execImageLoad (hdr : EntryHdr) (sector kind source length : Nat) (host : List Byte) (sig : SigVerdict) (s : State) : Host.Outcome State Fault Refusal :=
  onServingMem (fun mem d => d.ownerAdminMem hdr ST.IMG_DENIED mem (fun e d =>
    let bytes := loadSource sector kind source length host mem
    d.imageLoad e sector (imageOf bytes sig) (bytes.take (fld bytes 0x20 8)) mem)) s

/-! ### Placing an image (R190, R192, R193) -/

/-- Bytes of SRAM outside every region of an image core's. -/
def sramFree (e : CoreEntry) : Nat := 0x1000000 - (e.regions.map (·.2)).sum

/-- The spans lie apart. -/
def spansApart (a b : Nat × Nat) : Bool := a.2 == 0 || b.2 == 0 || decide (a.1 + a.2 ≤ b.1) || decide (b.1 + b.2 ≤ a.1)

/-- The first place of some bytes in free SRAM: outside every region, gaps between them included, and outside the blobs already placed there
(R165, R192). [DESIGN CHOICE: log entry 35] -/
def freeSpot (taken : List (Nat × Nat)) (size : Nat) : Option Nat :=
  ((0 :: taken.map (fun t => t.1 + t.2)).mergeSort (fun a b => decide (a ≤ b))).find? (fun a => decide (a + size ≤ 0x1000000) && taken.all (spansApart (a, size)))

/-- The place of each blob: (space, address), an SRAM address being its image core's. `sram` holds the spans of preferred blobs placed on
each image core, `t1` the next tier-1 byte. [DESIGN CHOICE: log entry 35] -/
def layBlobs (i : Image) : List Blob → Tab (List (Nat × Nat)) → Nat → List (Nat × Nat)
  | [], _, _ => []
  | b :: bs, sram, t1 =>
    match i.cores.find? (fun e => e.index == b.core) with
    | some e =>
      if b.placement = 0 then (0, (e.regions.getD 1 (0, 0)).1 + b.sramOffset) :: layBlobs i bs sram t1
      else
        match (if b.placement = 1 then freeSpot (e.regions ++ Tab.getD b.core [] sram) b.size else none) with
        | some a => (0, a) :: layBlobs i bs (Tab.put b.core ((a, b.size) :: Tab.getD b.core [] sram) sram) t1
        | none => (2, t1) :: layBlobs i bs sram (t1 + b.size)
    | none => (2, t1) :: layBlobs i bs sram (t1 + b.size)

/-- Where an active image's bytes lie: at the end of the Sector's tier-1 range. Its blobs of placement 2 follow them. [DESIGN CHOICE: log entry 35] -/
def Dev.imgBase (n : Nat) (i : Image) (d : Dev) : Nat := (d.tierCap 1 n - imgUnits (some i)) * 4096

/-- The places of an image's blobs in a Sector. [DESIGN CHOICE: log entry 35] -/
def Dev.blobPlaces (n : Nat) (i : Image) (d : Dev) : List (Nat × Nat) := layBlobs i i.blobs [] (d.imgBase n i + i.imageLength)

/-- Apply one relocation to an operand: the blob's space and base, plus the offset the command carries; a blob in the SRAM of another image
core than the command's is named in space 0x3 (R139, R184). -/
def relocOperand (img core : Nat) (place : Nat × Nat) (o : Operand) : Operand :=
  if place.1 = 0 ∧ core ≠ img then { o with space := 3, address := core * 2 ^ 24 + place.2 + o.address }
  else { o with space := place.1, address := place.2 + o.address }

/-- Apply the relocations of a command. -/
def relocCmd (i : Image) (places : List (Nat × Nat)) (img list index : Nat) (c : EngCmd) : EngCmd :=
  (i.relocs.filter (fun r => r.core == img && r.list == list && r.command == index)).foldl (fun c r =>
    let f := relocOperand img (match i.blobs[r.target]? with | some b => b.core | none => img) (places.getD r.target (15, 0))
    match r.operand with
    | 0 => { c with a := f c.a }
    | 1 => { c with b := f c.b }
    | 2 => { c with c := f c.c }
    | 3 => { c with d := f c.d }
    | _ => c) c

/-- The core table with its relocations applied (R190 step 2). -/
def relocCores (i : Image) (places : List (Nat × Nat)) : List CoreEntry :=
  i.cores.map (fun e => { e with
    step := ((List.range e.step.length).zip e.step).map (fun p => relocCmd i places e.index 0 p.1 p.2),
    refine := ((List.range e.refine.length).zip e.refine).map (fun p => relocCmd i places e.index 1 p.1 p.2) })

/-- The core hosting the fewest image cores, the lowest-numbered first; none where it hosts four already (R193). [DESIGN CHOICE: log entry 35] -/
def fewest (cores hosts : List Nat) : Option Nat :=
  (cores.foldl (fun best c =>
    match best with
    | none => some c
    | some b => if (hosts.filter (· == c)).length < (hosts.filter (· == b)).length then some c else some b) none).filter
    (fun c => decide ((hosts.filter (· == c)).length < 4))

/-- Hosts of the image cores from number `k` on: core c of the Sector for image core c, else a re-hosting (R190 step 3, R193).
Answers the hosts, the re-hosted image cores, and whether every image core found a host. [DESIGN CHOICE: log entry 35] -/
def layHosts (cores : List Nat) : Nat → Nat → List Nat → List Nat → List Nat × List Nat × Bool
  | 0, _, hosts, shadow => (hosts, shadow, true)
  | k + 1, c, hosts, shadow =>
    match cores[c]? with
    | some x => layHosts cores k (c + 1) (hosts ++ [x]) shadow
    | none =>
      match fewest cores hosts with
      | some x => layHosts cores k (c + 1) (hosts ++ [x]) (shadow ++ [c])
      | none => (hosts, shadow, false)

/-- Write an image's blobs to their places: an image core's SRAM or its shadow, or tier 1 (R190 step 2, R193). -/
def writeBlobs (n : Nat) (i : Image) (places : List (Nat × Nat)) (hosts shadow : List Nat) (which : Blob → Bool) (mem : List Host.Cell) : List Host.Cell :=
  (i.blobs.zip places).foldl (fun mem p =>
    if which p.1 then
      let a := if p.2.1 = 2 then tierAddr 1 n p.2.2
        else if shadow.contains p.1.core then shadowAddr n p.1.core p.2.2 else coreAddr (hosts.getD p.1.core 0) p.2.2
      Mem.writes a p.1.bytes mem
    else mem) mem

/-- A command as its list holds it on the Sector's cores: space 0x3 core numbers and remote_core are physical (R190 step 3). -/
def physical (hosts : List Nat) (c : EngCmd) : EngCmd :=
  let f (o : Operand) : Operand := if o.space = 3 then { o with address := hosts.getD (o.address / 2 ^ 24) 0 * 2 ^ 24 + o.address % 2 ^ 24 } else o
  { c with a := f c.a, b := f c.b, c := f c.c, d := f c.d, seqn := if c.seqn.signalRemote then { c.seqn with remoteCore := hosts.getD c.seqn.remoteCore 0 } else c.seqn }

/-- The lists of a Sector's image cores are written into their LIST regions: the step list, and the refine list directly after it (R165,
R168). -/
def writeLists (n : Nat) (live : List CoreEntry) (hosts shadow : List Nat) (mem : List Host.Cell) : List Host.Cell :=
  live.foldl (fun mem e =>
    let at_ := (e.regions.getD 0 (0, 0)).1
    let a := if shadow.contains e.index then shadowAddr n e.index at_ else coreAddr (hosts.getD e.index 0) at_
    Mem.writes a ((e.step ++ e.refine).flatMap (fun c => cmdBytes (physical hosts c))) mem) mem

/-- Cores that take over an image begin with fresh lists. -/
def Dev.freshLists (cores : List Nat) (d : Dev) : Dev :=
  cores.foldl (fun d c => d.coreUpd c (fun r => { r with imgs := Tab.mapv (fun _ _ => ImgRun.init) r.imgs, descs := [], held := [] })) d

/-- A Sector's image is FAULTED (R178, R193). [DEDUCED: log entry 33] -/
def Dev.faultSector (n status : Nat) (d : Dev) : Dev := (d.secImgPut n { (d.secImg n) with faulted := true }).reportKeeper n status

/-- Place an image on a Sector's cores as its active one (R190 steps 2 and 3, R192, R193). [DESIGN CHOICE: log entry 35] -/
def placeImage (n : Nat) (i : Image) (mem : List Host.Cell) (d : Dev) : List Host.Cell × Dev :=
  let h := layHosts (d.secCores n) i.cores.length 0 [] []
  let places := d.blobPlaces n i
  let spill := ((i.blobs.zip places).filter (fun p => p.1.placement == 1 && p.2.1 == 2)).map (·.1.core)
  let x := d.secImg n
  let d := d.secImgPut n { x with active := some i, hosts := h.1, shadow := h.2.1, live := relocCores i places,
                                  blobsInTier1 := spill, faulted := !h.2.2 }
  let d := (spill ++ h.2.1).foldl (fun d c => d.bump (Reg.CORE_FALLBACK.count (h.1.getD c 0)) 1) d
  let d := (h.1.foldl (fun d c => (d.put (Reg.CORE_IMAGE.fail_run c) 0).put (Reg.CORE_IMAGE.sector c) n) d).freshLists h.1
  let d := if h.2.2 then d else d.reportKeeper n ST.IMG_NOFIT
  (writeLists n (relocCores i places) h.1 h.2.1 (writeBlobs n i places h.1 h.2.1 (fun _ => true) mem), d)

/-- The activation itself: the staged image becomes active, the old one is freed, and IMAGE_ACTIVATE completes (R190). -/
def activate (n : Nat) (mem : List Host.Cell) (d : Dev) : List Host.Cell × Dev :=
  let x := d.secImg n
  match x.activating, x.staged with
  | some (e, _), some i =>
    let mem := copyParts mem [(tierAddr 1 n (d.stagedBase n i), tierAddr 1 n (d.imgBase n i), i.imageLength)] mem
    let r := placeImage n i mem (d.secImgPut n { x with staged := none, activating := none })
    (r.1, r.2.complete e ST.OK 0)
  | some (e, _), none => (mem, (d.secImgPut n { x with activating := none }).complete e ST.IMG_NOSTAGED 0)
  | none, _ => (mem, d)

/-- May the staged image replace the active one while sessions exist (R190)? -/
def sameLayout (a b : Image) : Bool :=
  a.modelRevision == b.modelRevision && a.layerDigest == b.layerDigest && a.recBytes == b.recBytes && a.slots == b.slots

/-- The Sector holds a Buoy that is not ABSENT. -/
def Dev.hasBuoy (n : Nat) (d : Dev) : Bool := decide (d.sectorBuoys n ≠ 0)

/-- IMAGE_ACTIVATE (R190): it waits for the next step boundary, or 1 ms. A second one while one waits completes with ST_IMG_NOSTAGED, since the
staged image is spoken for. [DESIGN CHOICE: log entry 36] -/
def execImageActivate (hdr : EntryHdr) (sector t : Nat) (s : State) : Host.Outcome State Fault Refusal :=
  onServing (fun d => (d.advance t).ownerAdmin hdr ST.IMG_DENIED (fun e d =>
    let x := d.secImg sector
    match x.staged with
    | none => d.complete e ST.IMG_NOSTAGED 0
    | some i =>
      if d.hasBuoy sector && !(match x.active with | some a => sameLayout a i | none => false) then d.complete e ST.IMG_SESSIONS 0
      else if x.activating.isSome then d.complete e ST.IMG_NOSTAGED 0
      else d.secImgPut sector { x with activating := some (e, d.now) })) s

/-- A step has begun on a core of the Sector: one of them runs it or has reported it. -/
def Dev.begun (n : Nat) (s : Step) (d : Dev) : Bool :=
  (d.secImg n).hosts.any (fun c => (d.coreRun c).stepNo == s.number && (d.inStep c || (!(d.coreRun c).imgs.isEmpty && (d.coreRun c).reported)))

/-- No step of the Sector runs on this chip's cores: none is on a core, and none has begun on some of them only. -/
def Dev.sectorIdle (n : Nat) (d : Dev) : Bool :=
  (d.secImg n).hosts.all (fun c => !d.inStep c) &&
  d.srv.batches.all (fun e => e.1 / 256 != n || (match e.2.running with | some s => s.reported || s.leaveOnly || !d.begun n s | none => true))

/-- IMAGE_ACTIVATE_TIMER (R190): with no boundary within 1 ms, activation is performed 1 ms after the command. -/
def execImageActivateTimer (sector t : Nat) (s : State) : Host.Outcome State Fault Refusal :=
  onServingMem (fun mem d =>
    let d := d.advance t
    match (d.secImg sector).activating with
    | some (_, at_) => if decide (at_ + ms 1 ≤ d.now) && d.sectorIdle sector then activate sector mem d else (mem, d)
    | none => (mem, d)) s

/-- IMAGE_DISCARD (R186). An IMAGE_ACTIVATE that waits for the image freed completes with ST_IMG_NOSTAGED. [DESIGN CHOICE: log entry 36] -/
def execImageDiscard (hdr : EntryHdr) (sector : Nat) (s : State) : Host.Outcome State Fault Refusal :=
  onServing (fun d => d.ownerAdmin hdr ST.IMG_DENIED (fun e d =>
    let x := d.secImg sector
    let d := match x.activating with | some (a, _) => (d.secImgPut sector { x with staged := none, activating := none }).complete a ST.IMG_NOSTAGED 0
                                     | none => d.secImgPut sector { x with staged := none }
    d.complete e ST.OK 0)) s

/-- IMAGE_UNLOAD (R191). Of a Sector without an active image it completes with ST_OK; an IMAGE_ACTIVATE that waits goes on waiting. [DESIGN CHOICE: log entry 36] -/
def execImageUnload (hdr : EntryHdr) (sector : Nat) (s : State) : Host.Outcome State Fault Refusal :=
  onServing (fun d => d.ownerAdmin hdr ST.IMG_DENIED (fun e d =>
    if d.hasBuoy sector then d.complete e ST.IMG_SESSIONS 0
    else
      let x := d.secImg sector
      (d.secImgPut sector { x with active := none, hosts := [], live := [], blobsInTier1 := [], shadow := [], faulted := false }).complete e ST.OK 0)) s

/-! ### Losing a core (R193, R346, R565) -/

/-- The image cores of a Sector move off cores that no longer serve it: each to the surviving core that hosts the fewest, its
SRAM becoming a tier-1 shadow (R193). [DESIGN CHOICE: log entry 35] -/
def rehost (n : Nat) (mem : List Host.Cell) (d : Dev) : List Host.Cell × Dev :=
  let x := d.secImg n
  match x.active with
  | none => (mem, d)
  | some i =>
    let cores := d.secCores n
    let lost := (List.range x.hosts.length).filter (fun c => !cores.contains (x.hosts.getD c 99))
    lost.foldl (fun (acc : List Host.Cell × Dev) c =>
      let y := acc.2.secImg n
      match fewest cores (((List.range y.hosts.length).zip y.hosts).filter (fun p => p.1 != c) |>.map (·.2)) with
      | none => (acc.1, acc.2.faultSector n ST.IMG_ENGINE)
      | some h =>
        let d := acc.2.secImgPut n { y with hosts := y.hosts.set c h, shadow := if y.shadow.contains c then y.shadow else y.shadow ++ [c] }
        let d := d.bump (Reg.CORE_FALLBACK.count h) 1
        let mem := writeBlobs n i (d.blobPlaces n i) (y.hosts.set c h) (c :: y.shadow) (fun b => b.core == c && b.placement != 2) acc.1
        (writeLists n y.live (y.hosts.set c h) (c :: y.shadow) mem, d)) (mem, d)

/-- A core is retired (R14, R565 step 1): its running commands fail, it runs no more, it is reported and a repair map is
asked for. -/
def Dev.retireCore (core : Nat) (d : Dev) : Dev :=
  if d.eng.retired.contains core || d.eng.retiring.contains core then d
  else
    let fail (l : ListRun) : ListRun := { l with running := Tab.mapv (fun _ r => { r with status := ST.IMG_ENGINE }) l.running }
    let d := d.coreUpd core (fun r => { r with imgs := Tab.mapv (fun _ i => { i with step := fail i.step, refine := fail i.refine }) r.imgs })
    let d : Dev := { d with eng := { d.eng with retiring := d.eng.retiring ++ [core] } }
    (((d.report ⟨unitId 1 core, 2, 0, core⟩).bump Reg.FOG_REP_CORE.count 1)).wantRepair

/-- At a boundary of its Sector a retiring core leaves service, and its image cores are re-hosted (R565 steps 2 and 3). -/
def leaveService (n : Nat) (mem : List Host.Cell) (d : Dev) : List Host.Cell × Dev :=
  let gone := d.eng.retiring.filter (fun c => d.coreSector c == n)
  if gone.isEmpty then (mem, d)
  else
    let d := gone.foldl (fun (d : Dev) c =>
      let d : Dev := { d with eng := { d.eng with retiring := d.eng.retiring.erase c, retired := d.eng.retired ++ [c] } }
      let d := (d.put Reg.GLB_CAP.active_cores (d.get Reg.GLB_CAP.active_cores - 1)).put Reg.GLB_CAP.active_engines (d.get Reg.GLB_CAP.active_engines - 4)
      if d.get (Reg.CORE_ENG.spare_left c) == 1 then d.put Reg.GLB_CAP.spare_engines (d.get Reg.GLB_CAP.spare_engines - 1) else d) d
    rehost n mem d

/-- At a Sector's first step of a new epoch the image follows the Sector's cores: re-placed where image cores changed core,
re-hosted where cores are missing (R346). -/
def followCores (n : Nat) (mem : List Host.Cell) (d : Dev) : List Host.Cell × Dev :=
  let x := d.secImg n
  match x.active with
  | none => (mem, d)
  | some i =>
    let cores := d.secCores n
    if cores.length < i.cores.length then
      (if x.hosts.all (fun h => cores.contains h) then (mem, d) else rehost n mem d)
    else if x.hosts == cores.take i.cores.length then (mem, d)
    else if !x.shadow.isEmpty && x.hosts.all (fun h => cores.contains h) && cores.length == i.cores.length then (mem, d)
    else placeImage n i mem d

end Sys2Proof.Machine
end

