-- ==== Sys2Proof/Machine/TokText.lean ====
section
/-!
DEFINITION. Machine/TokText.lean: from text to tokens and back, and the grammar's configurations and masks, over the images
alone (R268 to R280, R283, R289 to R294).
-/
namespace Sys2Proof.Machine

/-! ### UTF-8 (R273, R274) -/

/-- A lead byte: length of its sequence and the range of its second byte; none for a byte that leads none. -/
def u8Lead (b : Nat) : Option (Nat × Nat × Nat) :=
  if b < 0x80 then some (1, 0, 0) else if b < 0xC2 then none else if b < 0xE0 then some (2, 0x80, 0xBF)
  else if b = 0xE0 then some (3, 0xA0, 0xBF) else if b = 0xED then some (3, 0x80, 0x9F) else if b < 0xF0 then some (3, 0x80, 0xBF)
  else if b = 0xF0 then some (4, 0x90, 0xBF) else if b < 0xF4 then some (4, 0x80, 0xBF) else if b = 0xF4 then some (4, 0x80, 0x8F)
  else none

/-- What stands at the head of a byte string: a character, an ill-formed maximal subpart, or a proper prefix that the string
ends in; each with its length. -/
inductive U8 where
  | char (n : Nat)
  | bad (n : Nat)
  | cut (n : Nat)

/-- The continuation bytes after the second, `k` still wanted, `n` taken so far. -/
def u8Tail : Nat → Nat → List Nat → U8
  | 0, n, _ => .char n
  | _ + 1, n, [] => .cut n
  | k + 1, n, b :: bs => if 0x80 ≤ b ∧ b ≤ 0xBF then u8Tail k (n + 1) bs else .bad n

/-- Classify the head of a non-empty byte string. -/
def u8Head : List Nat → U8
  | [] => .char 0
  | b :: bs =>
    match u8Lead b with
    | none => .bad 1
    | some (1, _, _) => .char 1
    | some (n, lo, hi) =>
      match bs with
      | [] => .cut 1
      | c :: cs => if lo ≤ c ∧ c ≤ hi then u8Tail (n - 2) 2 cs else .bad 1

/-- A piece of text under way: a character, an ill-formed subpart, or a token already made, which breaks pre-tokens. -/
inductive Piece where
  | char (bs : List Nat)
  | bad (bs : List Nat)
  | tok (t : Nat)

/-- Split bytes into characters and ill-formed subparts. A trailing proper prefix is kept apart when `carry` is set, else
it is ill-formed. `fuel` bounds the walk by the length. -/
def u8Split (carry : Bool) : Nat → List Nat → List Piece × List Nat
  | 0, _ => ([], [])
  | _ + 1, [] => ([], [])
  | fuel + 1, bs =>
    match u8Head bs with
    | .char n => let r := u8Split carry fuel (bs.drop n); (.char (bs.take n) :: r.1, r.2)
    | .bad n => let r := u8Split carry fuel (bs.drop n); (.bad (bs.take n) :: r.1, r.2)
    | .cut n => if carry then ([], bs.take n) else ([.bad (bs.take n)], [])

/-- The code point of a well-formed character. -/
def codePoint : List Nat → Nat
  | [a] => a
  | [a, b] => a % 32 * 64 + b % 64
  | [a, b, c] => a % 16 * 4096 + b % 64 * 64 + c % 64
  | [a, b, c, e] => a % 8 * 262144 + b % 64 * 4096 + c % 64 * 64 + e % 64
  | _ => 0

/-! ### Tries and the merge table (R268, R269) -/

/-- No value, no node, no token. -/
def none32 : Nat := 0xFFFFFFFF

/-- The sibling chain from `n`, searched for a byte. -/
def trieSibling (t : List TrieNode) (b : Nat) : Nat → Nat → Option Nat
  | 0, _ => none
  | fuel + 1, n =>
    if n = 0 then none
    else
      match t[n]? with
      | none => none
      | some x => if x.byte = b then some n else trieSibling t b fuel x.next

/-- The child of a node on a byte. -/
def trieChild (t : List TrieNode) (n b : Nat) : Option Nat :=
  match t[n]? with
  | none => none
  | some x => trieSibling t b t.length x.first

/-- The node a byte string leads to. -/
def trieStep (t : List TrieNode) : Nat → List Nat → Option Nat
  | n, [] => some n
  | n, b :: bs => match trieChild t n b with | some m => trieStep t m bs | none => none

/-- The value at a node. -/
def trieValue (t : List TrieNode) (n : Nat) : Option Nat :=
  match t[n]? with
  | some x => if x.value = none32 then none else some x.value
  | none => none

/-- Every string of the trie that starts a list of characters and ends on a character boundary: (value, characters). -/
def trieMatches (t : List TrieNode) : Nat → Nat → List (List Nat) → List (Nat × Nat)
  | _, _, [] => []
  | n, k, c :: cs =>
    match trieStep t n c with
    | none => []
    | some m => (match trieValue t m with | some v => [(v, k + 1)] | none => []) ++ trieMatches t m (k + 1) cs

/-- The longest of them. -/
def trieLongest (t : List TrieNode) (cs : List (List Nat)) : Option (Nat × Nat) := (trieMatches t 0 0 cs).getLast?

/-- Probe the merge table from a bucket (R269). -/
def mergeProbe (ms : List MergeEntry) (a b : Nat) : Nat → Nat → Option MergeEntry
  | 0, _ => none
  | fuel + 1, h =>
    match ms[h % ms.length]? with
    | none => none
    | some e => if e.left = none32 then none else if e.left = a ∧ e.right = b then some e else mergeProbe ms a b fuel (h + 1)

/-- The entry of a pair (R269). -/
def mergeLookup (ms : List MergeEntry) (a b : Nat) : Option MergeEntry :=
  mergeProbe ms a b ms.length (mix64 (a * 2 ^ 32 + b) / 2 ^ (64 - Nat.log2 ms.length))

/-! ### The stages (R272 to R280) -/

/-- Tokens of a character or byte with no token of its own, and whether unk_token was produced (R278, R279). -/
def fallbackToks (v : VocabImage) (bs : List Nat) : List Nat × Bool :=
  if v.byteBase ≠ none32 then (bs.map (fun b => v.byteBase + b), false) else ([v.unkToken], true)

/-- Stage 2 (R274): what an ill-formed subpart becomes. -/
def validatePiece (v : VocabImage) : Piece → List Piece
  | .bad bs => if v.invalidMode = 1 then bs.map (fun b => .tok (v.byteBase + b)) else [.char [0xEF, 0xBF, 0xBD]]
  | p => [p]

/-- The characters at the head of a list of pieces. -/
def headChars : List Piece → List (List Nat)
  | .char c :: ps => c :: headChars ps
  | _ => []

/-- Stage 3 (R275): special strings, the longest at each character boundary. -/
def specials (v : VocabImage) : Nat → List Piece → List Piece
  | 0, _ => []
  | _ + 1, [] => []
  | fuel + 1, p :: ps =>
    match p with
    | .char c =>
      match trieLongest v.specialTrie (c :: headChars ps) with
      | some (t, n) => .tok t :: specials v fuel (ps.drop (n - 1))
      | none => .char c :: specials v fuel ps
    | q => q :: specials v fuel ps

/-- Stage 4 (R276) on one run of characters: the bytes it becomes. [DEDUCED: log entry 49] -/
def normRun (v : VocabImage) : Nat → List (List Nat) → List Nat
  | 0, _ => []
  | _ + 1, [] => []
  | fuel + 1, c :: cs =>
    match trieLongest v.normTrie (c :: cs) with
    | some (r, n) => ((v.normRules.getD r []).map BitVec.toNat) ++ normRun v fuel (cs.drop (n - 1))
    | none => c ++ normRun v fuel cs

/-- The pre-token class of a character (R270). -/
def charClass (v : VocabImage) (c : List Nat) : Nat :=
  let p := codePoint c
  (v.classBytes.getD (v.classPages.getD (p / 256) 0) []).getD (p % 256) 0 % 16

/-- Stage 5 (R277): pre-tokens of a run, and whether one was cut at 256 bytes. `cur` is the pre-token being made, latest
character first. -/
def pretokens (v : VocabImage) : List (List Nat) → List (List Nat) → List (List (List Nat)) × Bool
  | cur, [] => (if cur.isEmpty then [] else [cur.reverse], false)
  | cur, c :: cs =>
    match cur with
    | [] => pretokens v [c] cs
    | l :: _ =>
      let brk := (v.breaks.getD (charClass v l) 0).testBit (charClass v c)
      let long := decide (256 < (cur.map List.length).sum + c.length)
      if brk || long then
        let r := pretokens v [c] cs
        (cur.reverse :: r.1, r.2 || (long && !brk))
      else pretokens v (c :: cur) cs

/-- A symbol of ranked merge: token, and whether it may merge. -/
abbrev Sym := Nat × Bool

/-- Initial symbols of a pre-token (R278), and whether unk_token was produced. -/
def initialSyms (v : VocabImage) (cs : List (List Nat)) : List Sym × Bool :=
  let units := if v.byteLevel then (cs.flatMap id).map (fun b => [b]) else cs
  units.foldl (fun acc u =>
    match (match trieStep v.trie 0 u with | some n => trieValue v.trie n | none => none) with
    | some t => (acc.1 ++ [(t, true)], acc.2)
    | none => let f := fallbackToks v u; (acc.1 ++ f.1.map (fun t => (t, false)), acc.2 || f.2)) ([], false)

/-- The best pair: (index, entry), the leftmost of the lowest rank. -/
def bestPair (ms : List MergeEntry) : Nat → List Sym → Option (Nat × MergeEntry)
  | i, (a, ma) :: (b, mb) :: rest =>
    let later := bestPair ms (i + 1) ((b, mb) :: rest)
    match (if ma && mb then mergeLookup ms a b else none), later with
    | some e, some (j, f) => if f.rank < e.rank then some (j, f) else some (i, e)
    | some e, none => some (i, e)
    | none, l => l
  | _, _ => none

/-- The merge loop (R278). [DEDUCED: log entry 49] -/
def mergeLoop (ms : List MergeEntry) : Nat → List Sym → List Sym
  | 0, s => s
  | fuel + 1, s =>
    match bestPair ms 0 s with
    | none => s
    | some (i, e) => mergeLoop ms fuel (s.take i ++ (e.result, true) :: s.drop (i + 2))

/-- One choice of the lattice at a byte: score, where its last edge starts, its tokens, and whether they hold unk_token. -/
structure LatNode where
  score : FpVal
  start : Nat
  toks : List Nat
  unk : Bool

/-- Offer an edge (R279). -/
def latOffer (j : Nat) (n : LatNode) (t : List (Nat × LatNode)) : List (Nat × LatNode) :=
  match t.find? (fun e => e.1 == j) with
  | none => (j, n) :: t
  | some (_, o) =>
    if FpVal.lt o.score n.score || (!FpVal.lt n.score o.score && decide (n.start < o.start)) then
      (j, n) :: t.filter (fun e => e.1 != j)
    else t

/-- Is the score −∞? -/
def isNegInf : FpVal → Bool
  | .inf true => true
  | _ => false

/-- One character boundary of the lattice (R279, R280). -/
def latStep (v : VocabImage) (at_ : Nat) (cs : List (List Nat)) (t : List (Nat × LatNode)) : List (Nat × LatNode) :=
  match t.find? (fun e => e.1 == at_) with
  | none => t
  | some (_, cur) =>
    if isNegInf cur.score then t
    else
      let add (x : Nat) : FpVal := roundFp32 (FpVal.add cur.score (decodeFloat fp32 x))
      let ms := (trieMatches v.trie 0 0 cs).filter (fun m =>
        !isNegInf (decodeFloat fp32 (v.scores.getD m.1 0)) && (v.kind != 2 || (v.attrs.getD m.1 0).testBit 4))
      let t := ms.foldl (fun t m => latOffer (at_ + ((cs.take m.2).map List.length).sum) ⟨add (v.scores.getD m.1 0), at_, cur.toks ++ [m.1], cur.unk⟩ t) t
      match cs with
      | [] => t
      | c :: _ =>
        if ms.any (fun m => m.2 == 1) then t
        else let f := fallbackToks v c; latOffer (at_ + c.length) ⟨add v.unkScore, at_, cur.toks ++ f.1, cur.unk || f.2⟩ t

/-- The lattice over a pre-token's characters. [DEDUCED: log entry 49] -/
def latRun (v : VocabImage) : Nat → List (List Nat) → List (Nat × LatNode) → List (Nat × LatNode)
  | _, [], t => t
  | at_, c :: cs, t => latRun v (at_ + c.length) cs (latStep v at_ (c :: cs) t)

/-- Segmentation of a pre-token (R278 to R280): tokens, and whether unk_token was produced. -/
def segment (v : VocabImage) (cs : List (List Nat)) : List Nat × Bool :=
  if v.kind = 0 then
    let s := initialSyms v cs
    ((mergeLoop v.merges s.1.length s.1).map (·.1), s.2)
  else
    let total := (cs.map List.length).sum
    match (latRun v 0 cs [(0, ⟨FpVal.zero, 0, [], false⟩)]).find? (fun e => e.1 == total) with
    | some (_, n) =>
      if isNegInf n.score then (let f := cs.map (fallbackToks v); (f.flatMap (·.1), f.any (·.2))) else (n.toks, n.unk)
    | none => (let f := cs.map (fallbackToks v); (f.flatMap (·.1), f.any (·.2)))

/-- What tokenizing an entry made: tokens, carry, ill-formed subparts, and the events of TOK_ERR. -/
structure TokOut where
  toks : List Nat
  carry : List Nat
  bad : Nat
  rejected : Bool
  cut : Bool
  unk : Bool

/-- The characters of bytes, an ill-formed subpart standing as one character. -/
def charsOf (bs : List Nat) : List (List Nat) :=
  (u8Split false bs.length bs).1.map (fun p => match p with | .char c => c | .bad c => c | .tok _ => [])

/-- Stages 4 to 6 on the runs between tokens; `run` is the run being collected, latest character first. -/
def segRuns (v : VocabImage) : List (List Nat) → List Piece → List Nat × Bool × Bool
  | run, ps =>
    let close (run : List (List Nat)) : List Nat × Bool × Bool :=
      let cs := charsOf (normRun v run.length run.reverse)
      let p := pretokens v [] cs
      let s := p.1.map (segment v)
      (s.flatMap (·.1), p.2, s.any (·.2))
    match ps with
    | [] => close run
    | .char c :: ps => segRuns v (c :: run) ps
    | .bad c :: ps => segRuns v (c :: run) ps
    | .tok t :: ps =>
      let a := close run
      let b := segRuns v [] ps
      (a.1 ++ t :: b.1, a.2.1 || b.2.1, a.2.2 || b.2.2)

/-- Tokenize an entry's text (R272 to R280): `first` for a turn's first entry, `more` when further entries follow. [DEDUCED: log entry 49] -/
def tokenizeText (v : VocabImage) (first more : Bool) (carry text : List Byte) : TokOut :=
  let bs := ((if first then (if v.prefixOn then v.pre else []) else carry) ++ text).map BitVec.toNat
  let sp := u8Split more bs.length bs
  let bad := (sp.1.filter (fun p => match p with | .bad _ => true | _ => false)).length
  if bad ≠ 0 ∧ v.invalidMode = 2 then ⟨[], [], bad, true, false, false⟩
  else
    let ps := sp.1.flatMap (validatePiece v)
    let ps := if v.specialInText then specials v ps.length ps else ps
    let r := segRuns v [] ps
    ⟨r.1, sp.2, bad, false, r.2.1, r.2.2⟩

/-! ### Detokenisation (R283) -/

/-- The text of a row entry: bytes emitted, bytes held back, and the substitutions made. [DEDUCED: log entry 49] -/
def detokText (v : VocabImage) (pending : List Byte) (toks : List Nat) (ended : Bool) : List Byte × List Byte × Nat :=
  let bs := pending ++ toks.flatMap (fun t => if (v.attrs.getD t 0).testBit 2 then (v.pieces.getD t ([], [])).2 else [])
  let sp := u8Split (!ended) bs.length (bs.map BitVec.toNat)
  let emit := sp.1.flatMap (fun p => match p with | .char c => c | .bad _ => [0xEF, 0xBF, 0xBD] | .tok _ => [])
  (emit.map (BitVec.ofNat 8), sp.2.map (BitVec.ofNat 8), (sp.1.filter (fun p => match p with | .bad _ => true | _ => false)).length)

/-! ### Grammars (R289 to R291) -/

/-- A grammar configuration: state and stack, top first. -/
structure GramCfg where
  q : Nat
  stack : List Nat
  deriving DecidableEq, Repr

/-- What consuming a byte comes to: accepted, or rejected for want of a move, at 64 moves, or at depth 256. -/
inductive Consume where
  | ok (c : GramCfg)
  | no
  | eps
  | deep

/-- The state's edge that holds a byte. -/
def gramEdgeFor (g : GramImage) (q b : Nat) : Option GramEdge :=
  match g.states[q]? with
  | some s => ((g.edges.drop s.edgeFirst).take s.edgeCount).find? (fun e => decide (e.lo ≤ b) && decide (b ≤ e.hi))
  | none => none

/-- The state may return. -/
def gramReturnable (g : GramImage) (q : Nat) : Bool := match g.states[q]? with | some s => s.returnable | none => false

/-- Consume one byte; `fuel` counts the 64 moves (R289). -/
def gramConsume (g : GramImage) (b : Nat) : Nat → GramCfg → Consume
  | 0, _ => .eps
  | fuel + 1, c =>
    match gramEdgeFor g c.q b with
    | some e =>
      if !e.call then .ok ⟨e.target, c.stack⟩
      else if c.stack.length = 256 then .deep
      else gramConsume g b fuel ⟨e.target, e.ret :: c.stack⟩
    | none =>
      match c.stack with
      | r :: st => if gramReturnable g c.q then gramConsume g b fuel ⟨r, st⟩ else .no
      | [] => .no

/-- Consume bytes from a configuration. -/
def gramConsumes (g : GramImage) : List Byte → GramCfg → Consume
  | [], c => .ok c
  | b :: bs, c => match gramConsume g b.toNat 64 c with | .ok c' => gramConsumes g bs c' | r => r

/-- Is the configuration accepting (R289)? -/
def gramAccepting (g : GramImage) : Nat → GramCfg → Bool
  | 0, _ => false
  | fuel + 1, c =>
    (c.stack.isEmpty && (match g.states[c.q]? with | some s => s.final | none => false)) ||
    (match c.stack with | r :: st => gramReturnable g c.q && gramAccepting g fuel ⟨r, st⟩ | [] => false)

/-- The output piece of a token. -/
def outPiece (v : VocabImage) (t : Nat) : List Byte := (v.pieces.getD t ([], [])).2

/-- Is the token in the base set of a mask entry (R287)? -/
def maskInBase (m : GramMask) (t : Nat) : Bool :=
  if m.kind = 0 then ((m.bitmap.getD (t / 8) 0).toNat).testBit (t % 8)
  else if m.kind = 1 then m.ids.contains t
  else !m.ids.contains t

/-- The mask entry of a state. -/
def gramMaskOf (g : GramImage) (q : Nat) : GramMask :=
  match g.states[q]? with
  | some s => g.masks.getD s.maskRef ⟨1, [], [], []⟩
  | none => ⟨1, [], [], []⟩

/-- The end and tool_call attributes (R267). -/
def endTok (v : VocabImage) (t : Nat) : Bool := (v.attrs.getD t 0).testBit 0
/-- The tool_call attribute. -/
def toolTok (v : VocabImage) (t : Nat) : Bool := (v.attrs.getD t 0).testBit 1
/-- The never_sample attribute. -/
def neverTok (v : VocabImage) (t : Nat) : Bool := (v.attrs.getD t 0).testBit 5

/-- Is the token admitted by a configuration (R290)? -/
def gramAdmits (g : GramImage) (v : VocabImage) (c : GramCfg) (t : Nat) : Bool :=
  if endTok v t || toolTok v t then gramAccepting g 65 c
  else if neverTok v t then false
  else if (outPiece v t).isEmpty then maskInBase (gramMaskOf g c.q) t
  else (match gramConsumes g (outPiece v t) c with | .ok _ => true | _ => false)

/-- Is the token in the mask of a configuration (R291)? -/
def gramInMask (g : GramImage) (v : VocabImage) (c : GramCfg) (t : Nat) : Bool :=
  if endTok v t || toolTok v t then gramAccepting g 65 c
  else if neverTok v t then false
  else
    let m := gramMaskOf g c.q
    maskInBase m t || (m.ctx.contains t && gramAdmits g v c t)

/-- The tokens that the mask of a configuration admits, as bits (R291). -/
def gramMaskBits (g : GramImage) (v : VocabImage) (c : GramCfg) : List Bool := (List.range v.attrs.length).map (gramInMask g v c)

/-- The mask with no grammar (R291). -/
def plainMask (v : VocabImage) : List Bool := v.attrs.map (fun a => !a.testBit 5)

/-- The mask with no grammar after a path of draft tokens: all clear where one of them is not admitted (R294). -/
def plainAlong (v : VocabImage) (path : List Nat) : List Bool := if path.any (neverTok v) then v.attrs.map (fun _ => false) else plainMask v

/-- Bits as bytes, bit t in bit t mod 8 of byte ⌊t / 8⌋ (R241). -/
def bitsToBytes : Nat → List Bool → List Byte
  | 0, _ => []
  | _ + 1, [] => []
  | fuel + 1, bs => BitVec.ofNat 8 (((bs.take 8).zip (List.range 8)).map (fun p => b2n p.1 * 2 ^ p.2)).sum :: bitsToBytes fuel (bs.drop 8)

/-- The configuration after a path of draft tokens; none where one of them is not admitted (R294). -/
def gramAlong (g : GramImage) (v : VocabImage) : List Nat → GramCfg → Option GramCfg
  | [], c => some c
  | t :: ts, c =>
    if gramAdmits g v c t then (match gramConsumes g (outPiece v t) c with | .ok c' => gramAlong g v ts c' | _ => none) else none

/-- Context-dependent checks of a mask: how many, how many meet the move limit, and whether one meets depth 256. -/
def gramCtxChecks (g : GramImage) (v : VocabImage) (c : GramCfg) : Nat × Nat × Bool :=
  let rs := (gramMaskOf g c.q).ctx.map (fun t => gramConsumes g (outPiece v t) c)
  (rs.length, (rs.filter (fun r => match r with | .eps => true | _ => false)).length, rs.any (fun r => match r with | .deep => true | _ => false))

/-! ### Format checks (R271, R288) -/

/-- Is an FP32 code finite? -/
def finite32 (x : Nat) : Bool := bitsOf 30 23 x != 255

/-- Walk the trie from a node and check that each value's input piece equals the string spelled (R268, R271). -/
def trieSpells (v : VocabImage) : Nat → Nat → List Nat → Bool
  | 0, _, _ => true
  | fuel + 1, n, str =>
    match v.trie[n]? with
    | none => n == 0
    | some x =>
      (n == 0 || x.value == none32 || ((v.pieces.getD x.value ([], [])).1.map BitVec.toNat == (x.byte :: str).reverse)) &&
      (x.first == 0 || trieSpells v fuel x.first (if n = 0 then [] else x.byte :: str)) && (n == 0 || x.next == 0 || trieSpells v fuel x.next str)

/-- Every trie index lies in its section. -/
def trieBounds (t : List TrieNode) (values : Nat) : Bool :=
  t.all (fun x => (decide (x.first < t.length) || x.first == 0) && (decide (x.next < t.length) || x.next == 0) && (x.value == none32 || decide (x.value < values)))

/-- The format of a vocabulary image (R265 to R271). [DEDUCED: log entry 49] -/
def vocabFormatOk (v : VocabImage) : Bool :=
  let n := v.attrs.length
  v.magic == 0x4B545A56 && v.version == 1 && v.sectionsOk && decide (1 ≤ n) && decide (n ≤ 262144) && v.pieces.length == n &&
  decide (v.kind ≤ 2) && decide (v.invalidMode ≤ 2) && decide (v.pre.length ≤ 8) && v.breaks.length == 16 &&
  v.pieces.all (fun p => decide (p.1.length ≤ 64) && decide (p.2.length ≤ 64)) &&
  trieBounds v.trie n && trieBounds v.normTrie v.normRules.length && trieBounds v.specialTrie n &&
  decide (v.endToken < n) && (v.unkToken == none32 || decide (v.unkToken < n)) && (v.byteBase == none32 || decide (v.byteBase + 255 < n)) &&
  !(v.invalidMode == 1 && v.byteBase == none32) && trieSpells v (2 * v.trie.length + 1) 0 [] &&
  (v.byteBase != none32 || v.unkToken != none32 ||
    (v.kind == 0 && v.byteLevel && (List.range 256).all (fun b => match trieChild v.trie 0 b with | some m => (trieValue v.trie m).isSome | none => false))) &&
  (v.kind == 0 || (v.scores.length == n && v.scores.all (fun s => finite32 s || s == 0xFF800000) && finite32 v.unkScore)) &&
  (v.kind != 0 || (2 ^ Nat.log2 v.merges.length == v.merges.length && v.merges.all (fun e => e.left == none32 || decide (e.result < n)))) &&
  v.attrs.all (fun a => decide (a < 128)) && v.normRules.all (fun r => decide (r.length ≤ 32))

/-- A list of token IDs ascends and stays below V. -/
def idsOk (n : Nat) : List Nat → Bool
  | [] => true
  | [a] => decide (a < n)
  | a :: b :: r => decide (a < b) && idsOk n (b :: r)

/-- Edges have lo ≤ hi, in ascending order without overlap. -/
def edgesOk (states : Nat) : List GramEdge → Bool
  | [] => true
  | e :: r => decide (e.lo ≤ e.hi) && decide (e.target < states) && decide (e.ret < states) &&
      (match r with | f :: _ => decide (e.hi < f.lo) | [] => true) && edgesOk states r

/-- The format of a compiled grammar for a vocabulary of `n` tokens (R286 to R288). [DEDUCED: log entry 49] -/
def gramFormatOk (g : GramImage) (n : Nat) : Bool :=
  g.magic == 0x52475A56 && g.version == 1 && g.sectionsOk && decide (1 ≤ g.states.length) && decide (g.states.length ≤ 65536) &&
  decide (g.start < g.states.length) && g.tokens == n &&
  g.states.all (fun s => edgesOk g.states.length ((g.edges.drop s.edgeFirst).take s.edgeCount) && decide (s.edgeFirst + s.edgeCount ≤ g.edges.length) && decide (s.maskRef < g.masks.length)) &&
  g.masks.all (fun m => decide (m.kind ≤ 2) && (m.kind != 0 || decide (ceilDiv n 8 ≤ m.bitmap.length)) && idsOk n m.ids && idsOk n m.ctx &&
    m.ctx.all (fun t => !maskInBase m t))

end Sys2Proof.Machine
end

