-- ==== Sys2Proof/Machine/RowOps.lean ====
section
/-!
DEFINITION. Machine/RowOps.lean: what TAIL knows of a step's rows: their turns, the rows that are sampled, their masks, and the
row table that Keeper firmware writes for the selection units (R241, R254, R289 to R295).
-/
namespace Sys2Proof.Machine

/-- Fall-back address of a Sector's row table for a step (R241, R257). -/
def Dev.rowTab (sector step : Nat) (d : Dev) : Nat := d.get (Reg.SEL_ROWTAB.address sector (step % 2))

/-- The vocabulary of a resident slot. -/
def Dev.vocab (id : Nat) (d : Dev) : Option VocabImage := (Tab.look id d.tok.vocabs).map (·.img)

/-- The grammar of a resident slot. -/
def Dev.gram (id : Nat) (d : Dev) : Option GramImage := (Tab.look id d.tok.grams).map (·.img)

/-- The committed grammar configuration of a session (R289). -/
def ctrlCfg (c : Ctrl) : GramCfg := ⟨c.grmState, c.grmStack⟩

/-- The turn TAIL knows of a session. -/
def Dev.tailTurn (sid : Nat) (d : Dev) : Option TailTurn := Tab.look sid d.srv.tail

/-- Does the turn need masks (R291)? -/
def Dev.needsMask (t : TailTurn) (d : Dev) : Bool :=
  t.grammarOn || (match d.vocab t.vocab with | some v => v.attrs.any (fun a => a.testBit 5) | none => false)

/-- Is a BF16 temperature zero, of either sign? -/
def zeroTemp (x : Nat) : Bool := x % 0x8000 == 0

/-- The sampled step rows of a batch row whose first position is `base`: each with its node (R224, R295). -/
def sampledRows (r : StepRow) (base : Nat) : List (Nat × Nat) :=
  if r.invalid then []
  else if r.tree then (List.range r.qcount).map (fun i => (base + i, i))
  else if r.lastChunk then [(base + r.qcount - 1, 0)]
  else []

/-- The mask row of a step row, if its mask job exists (R295). -/
def Dev.maskRow (sector step row : Nat) (d : Dev) : Option MaskRow :=
  ((Tab.getD sector [] d.grm.jobs).filter (fun j => j.step == step)).findSome? (fun j => j.rows.find? (fun r => r.row == row))

/-- The area that holds the mask of a step row, with the pool size that its job read (R295). -/
def Dev.maskArea (sector step row : Nat) (d : Dev) : Option (Nat × Nat) :=
  ((Tab.getD sector [] d.grm.jobs).filter (fun j => j.step == step)).findSome? (fun j =>
    (j.rows.find? (fun r => r.row == row)).bind (fun r => r.area.map (fun a => (j.slots, a))))

/-- A row's mask is ready (R241). -/
def Dev.maskDone (sector step row : Nat) (d : Dev) : Bool := match d.maskRow sector step row with | some r => r.ready | none => false

/-- FP32 bits of β = 1 / temperature, 1.0 for a temperature of zero (R241). -/
def betaBits (temperature : Nat) : Nat :=
  if zeroTemp temperature then 0x3F800000 else toFp32 (recipOf (decodeFloat fp32 (temperature * 65536)))

/-- First tier-0 unit of a Sector's mask pool of `slots` areas, the size that the step's job read: 8 units for each area of 32 KiB (R295). [DEDUCED: log entry 50] -/
def Dev.maskBase (n slots : Nat) (d : Dev) : Nat :=
  let u := 8 * max 1 slots
  let s := d.capSector n
  if u ≤ s.t0d0 * 16 then s.t0d0 * 16 - u else 4096 + s.t0d1 * 16 - u

/-- Fall-back address of an area of the mask pool, which lies at the end of the Sector's tier-0 range. [DEDUCED: log entry 50] -/
def Dev.areaAddr (n slots area : Nat) (d : Dev) : Nat := 2 ^ 62 + 4096 * d.maskBase n slots + 32768 * area

/-- Bytes of the row-table entry of a step row of a session (R241): k, mask and skip, β, mask address. -/
def Dev.rowEntry (n step : Nat) (r : StepRow) (row : Nat) (sampled : Bool) (d : Dev) : List Byte :=
  match sampled, d.tailTurn r.sid with
  | true, some t =>
    let area := match d.maskArea n step row with | some (slots, a) => d.areaAddr n slots a | none => 0
    leBytes 2 t.topK ++ leBytes 2 (b2n (d.needsMask t)) ++ leBytes 4 (betaBits t.temperature) ++ leBytes 8 area
  | _, _ => leBytes 2 0 ++ leBytes 2 2 ++ leBytes 12 0

/-- Keeper firmware writes the row table of a step on TAIL (R241), at the tier-0 address that SEL_ROWTABn holds. -/
def writeRowTable (n : Nat) (s : Step) (mem : List Host.Cell) (d : Dev) : List Host.Cell :=
  let a := d.rowTab n s.number
  if !d.isTail || a / 2 ^ 62 != 1 then mem
  else
    let es := (stepPositions s.rows 0).map (fun p => d.rowEntry n s.number p.1 (p.2.1 + p.2.2) ((sampledRows p.1 p.2.1).any (fun q => q.1 == p.2.1 + p.2.2)))
    Mem.writes (fbAddr n a) es.flatten mem

end Sys2Proof.Machine
end

