-- ==== Sys2Proof/Machine/Cores.lean ====
section
/-!
DEFINITION. Machine/Cores.lean: a step on a core: its start, the completion of commands and their signals, its end, the
watchdog, the refine list, and the loss of an engine (R167, R170 to R178, R194, R195, R220, R221, R545).
-/
namespace Sys2Proof.Machine

/-! ### Flits of a step (R217 to R220) -/

/-- The SEG flit of a segment on a port. -/
def segFlit (sector batch seg bpp : Nat) (s : Step) (rows : List StepRow) : SegFlit :=
  { sector := sector, batch := batch, segment := seg, leaveOnly := s.leaveOnly, cut := s.cut, step := s.number, mapEpoch := s.epoch,
    rowsTotal := s.rowsTotal, rowsPort := rows.length, positionsTotal := s.positions, positionsPort := (rows.map (·.qcount)).sum,
    bytesPerPosition := bpp, headDaymark := s.headDaymark }

/-- The ROW flit of a batch row (R219). -/
def rowFlit (s : Step) (r : StepRow) : RowFlit :=
  { sid := r.sid, step := s.number, batchRow := r.row, invalid := r.invalid, tree := r.tree, leave := false, join := r.join,
    lastChunk := r.lastChunk, window := r.window, ended := false, qbase := r.qbase, qcount := r.qcount, prevCommit := r.prevCommit,
    digests := r.tNew.length, prevPath := r.prevPath, account := r.account, status := r.status, parents := r.parents,
    tBase := r.tBase, tNew := r.tNew.take 5 }

/-- The ROW flit of a leave (R219). -/
def leaveFlit (s : Step) (l : StepLeave) : RowFlit :=
  { sid := l.sid, step := s.number, batchRow := 0xFFFF, invalid := false, tree := false, leave := true, join := false,
    lastChunk := false, window := false, ended := l.ended, qbase := 0, qcount := 0, prevCommit := l.prevCommit, digests := 0,
    prevPath := l.prevPath, account := 0, status := l.status, parents := [], tBase := 0, tNew := [] }

/-- The digests beyond the fifth, eight to a flit (R219). -/
def digestGroups : Nat → List Nat → List (List Nat)
  | 0, _ => []
  | _ + 1, [] => []
  | fuel + 1, ds => ds.take 8 :: digestGroups fuel (ds.drop 8)

/-- Send the headers of a step on the DOWN ports that worked at its start: SEG, ROW and DIGEST flits, then the leaves (R25, R220). -/
def Dev.sendHeaders (key bpp seg : Nat) (s : Step) (d : Dev) : Dev :=
  s.ports.foldl (fun d p =>
    let rows := s.rows.filter (fun r => portFor s.ports r.sid == p)
    let d := d.emit (.seg p (segFlit (key / 256) (key % 256) seg bpp s rows))
    if seg ≠ 0 then d
    else
      let d := rows.foldl (fun d r =>
        (digestGroups r.tNew.length (r.tNew.drop 5)).foldl (fun d g => d.emit (.digest p r.sid g)) (d.emit (.row p (rowFlit s r)))) d
      (s.leaves.filter (fun l => portFor s.ports l.sid == p)).foldl (fun d l => d.emit (.row p (leaveFlit s l))) d) d

/-- Send an outbound segment of an image core: headers, then the positions of each port's rows (R185, R220). [DEDUCED: log entry 34] -/
def Dev.sendSegment (key core img : Nat) (g : SegEntry) (mem : List Host.Cell) (d : Dev) : Dev :=
  match Tab.look key d.srv.batches, d.coreEntry core img with
  | some { running := some s, .. }, some e =>
    let x := d.engCtx core img
    let ps := stepPositions s.rows 0
    let d := d.sendHeaders key g.bytesPerRow g.number s
    s.ports.foldl (fun d p =>
      let bytes := (ps.filter (fun q => portFor s.ports q.1.sid == p)).flatMap (fun q =>
        Mem.reads (x.sram img (ioBase e + g.ioOffset + (q.2.1 + q.2.2) * g.bytesPerRow)) g.bytesPerRow mem)
      d.emit (.segData p (key / 256) (key % 256) g.number bytes)) d
  | _, _ => d

/-- Every row of a step goes invalid with a status (R178, R223). -/
def Dev.failStep (sector number status : Nat) (d : Dev) : Dev :=
  match d.stepOf sector number with
  | none => d
  | some (_, s) => s.rows.foldl (fun d r => d.failRow sector number r.sid status) d

/-! ### Signals (R170, R171, R176) -/

/-- Deliver a command's signal: a scoreboard slot, an outbound segment, the selection unit or the route builder. A signal of OUT, SEL_GO or
ROUTE is consumed by its unit: it neither counts on the slot nor poisons it. [DESIGN CHOICE: log entry 124] -/
def Dev.signal (core img : Nat) (refine failed : Bool) (status : Nat) (q : Sequencing) (mem : List Host.Cell) (d : Dev) : Dev :=
  if !q.signalEn then d
  else
    let sector := d.coreSector core
    let rc := if q.signalRemote then q.remoteCore else img
    let host := (d.secImg sector).hosts.getD rc core
    match refine, q.signalSlot with
    | false, 62 =>
      let n := (d.imgRun host rc).outs
      let number := (d.coreRun core).stepNo
      let d := if failed then d.failStep sector number status else d
      let d := d.imgUpd host rc (fun r => { r with outs := r.outs + 1 })
      (match d.activeImg sector, d.stepOf sector number with
       | some i, some (key, _) => (match (outSegs i rc)[n]? with | some g => d.sendSegment key host rc g mem | none => d)
       | _, _ => d)
    | false, 61 => d.imgUpd host rc (fun r => { r with selGos := r.selGos + 1 })
    | false, 59 => d.imgUpd host rc (fun r => { r with routes := r.routes + 1 })
    | refine, slot => d.imgUpd host rc (fun r => r.setList refine (ListRun.bump slot failed))

/-- A status that makes a command a failed command (R176). -/
def failedStatus (st : Nat) : Bool := st == ST.IMG_OPERAND || st == ST.IMG_POISONED || st == ST.IMG_TIMEOUT || st == ST.IMG_ENGINE

/-- Write the record of a command, send its trace, and count it (R540, R545 to R547, R553). -/
def Dev.closeCommand (core : Nat) (refine : Bool) (c : EngCmd) (index : Nat) (r : RunCmd) (d : Dev) : Dev :=
  let n := d.coreSector core
  let failed := failedStatus r.status
  let d := (d.coreEvent core 2 (if failed then 2 else 1) n).engineTrace n core r.engine 1 c index
  d.cmdRecord { core := core, list := b2n refine, failed := failed, layerId := c.layerId, operatorId := c.operatorId, index := index,
                step := (d.coreRun core).stepNo, status := r.status, opcode := c.opcode, sector := n, firstRow := r.firstRow, rows := r.rowsReported,
                start := r.start, end_ := d.daymark, before := r.counters, after := d.recCounters core }

/-- A command completes or fails: it leaves the list's running commands, its record and watch are written, and its signal
goes out. -/
def Dev.completeCommand (core img : Nat) (refine : Bool) (index : Nat) (c : EngCmd) (r : RunCmd) (mem : List Host.Cell) (d : Dev) : Dev :=
  let failed := failedStatus r.status
  let d := d.imgUpd core img (fun i => i.setList refine (fun l => { l with running := Tab.del index l.running }))
  let d := d.closeCommand core refine c index r
  let d := if failed then d else d.watch (d.engCtx core img) mem c (d.coreRun core).stepNo index
  let d := if refine then d
    else d.imgUpd core img (fun i => { i with ended := i.ended || c.seqn.stepEnd, firstFail := if failed && i.firstFail.isNone then some (index, r.status) else i.firstFail })
  let d := if refine && (d.coreRun core).imgs.all (fun e => e.2.refine.running.isEmpty) then d.put (Reg.CORE_STEP.refine_running core) 0 else d
  let d := d.quadBusy core
  d.signal core img refine failed r.status c.seqn mem

/-- COMMAND_COMPLETE (R170, R176): a running command of the step list, else of the refine list. -/
def execCommandComplete (core img index t : Nat) (s : State) : Host.Outcome State Fault Refusal :=
  onServingMem (fun mem d =>
    let d := d.advance t
    match d.coreEntry core img with
    | none => (mem, d)
    | some e =>
      let run := d.imgRun core img
      match Tab.look index run.step.running, e.step[index]? with
      | some r, some c => (mem, d.completeCommand core img false index c r mem)
      | _, _ =>
        match Tab.look index run.refine.running, e.refine[index]? with
        | some r, some c => (mem, d.completeCommand core img true index c r mem)
        | _, _ => (mem, d)) s

/-! ### Start and end of a step (R173, R174, R178, R200) -/

/-- The IN count of an image core at the start of a step: the inbound segments that have arrived (R171, R220). -/
def inCount (i : Image) (img : Nat) (s : Step) : Nat := ((inSegs i img).filter (fun g => s.segs.contains g.number)).length

/-- An image core at the start of a step: scoreboard at zero, its arrived segments counted on IN; the refine list goes on. -/
def ImgRun.startStep (ins : Nat) (r : ImgRun) : ImgRun :=
  { ImgRun.init with step := { ListRun.init with slots := if ins = 0 then [] else [(63, ins)] }, refine := r.refine }

/-- The tokens of a step's positions, in their order (R26). -/
def Step.tokenRow (s : Step) : List Nat := s.rows.flatMap (fun r => (List.range r.qcount).map (fun j => r.tokens.getD j 0))

/-- HEAD embeds a step's tokens as its input activations (R26): they stand where inbound segments do. The bytes of an embedding are not
given: each is a free value of the model, the token and its place. [DESIGN CHOICE: log entry 119] -/
def embed (n key : Nat) (i : Image) (s : Step) (mem : List Host.Cell) : List Host.Cell :=
  (i.segs.filter (fun g => !g.out)).foldl (fun mem g =>
    Mem.writes (stageAddr n (key % 256) g.number) (s.tokenRow.flatMap (fun tok => (List.range g.bytesPerRow).map (fun k =>
      BitVec.ofNat 8 (Config.unstated 71 [i.modelRevision, g.number, tok, k])))) mem) mem

/-- The attention commands of a core's image cores, in the order of their lists. -/
def Dev.attnCmds (core : Nat) (imgs : List Nat) (d : Dev) : List EngCmd :=
  imgs.flatMap (fun img => match d.coreEntry core img with | some e => e.step.filter isAttn | none => [])

/-- Keeper firmware emits the page descriptors of a step to a core's queue, which starts empty (R67, R216). -/
def Dev.emitStep (core : Nat) (imgs : List Nat) (s : Step) (d : Dev) : Dev :=
  (d.attnCmds core imgs).foldl (fun d c => d.emitDescs core (d.descsFor (d.coreSector core) s.epoch true s.rows c))
    (d.coreUpd core (fun r => { r with descs := [], held := [] }))

/-- Start a step on one core: tables and arrived segments are written, the scoreboard is reset (R173, R220). -/
def startCore (core key : Nat) (s : Step) (mem : List Host.Cell) (d : Dev) : List Host.Cell × Dev :=
  let n := d.coreSector core
  match d.activeImg n with
  | none => (mem, d)
  | some i =>
    let mine := (List.range (d.secImg n).hosts.length).filter (fun c => (d.secImg n).hosts.getD c 99 == core)
    let mem := if d.isHead then embed n key i s mem else mem
    let mem := mine.foldl (fun mem img =>
      let mem := d.writeTables core img s.number s.rows mem
      ((inSegs i img).filter (fun g => s.segs.contains g.number)).foldl (fun mem g => d.writeSegment core img (key % 256) s.positions g mem) mem) mem
    let mem := writeRowTable n s mem d
    let d := mine.foldl (fun d img => d.imgUpd core img (ImgRun.startStep (inCount i img s))) d
    let d : Dev := { d with sel := { d.sel with runs := d.sel.runs.filter (fun e => e.1 / 32 != core) } }
    let d := d.coreUpd core (fun r => { r with stepNo := s.number, rows := s.positions, startedAt := d.daymark, reported := false, stepFailed := false, table := s.rows, rowTab := d.rowTab n s.number,
                                               imgs := r.imgs.filter (fun e => mine.contains e.1) })
    (mem, (((d.emitStep core mine s).put (Reg.CORE_STEP.running core) 1).put (Reg.CORE_STEP.step core) s.number).quadBusy core)

/-- The cores that take part in a Sector's steps. -/
def Dev.hostCores (n : Nat) (d : Dev) : List Nat := (d.secImg n).hosts.eraseDups

/-- A step of a covered Sector from the cut steps on waits for the chip's cut (R402). -/
def Dev.beforeCut (key : Nat) (s : Step) (d : Dev) : Bool :=
  match d.ckpt.run with
  | some r => r.cutDone || !r.sectors.testBit (key / 256) || (!s.cut && (match Tab.look (key / 256) r.cutSteps with | some c => decide (s.number < c) | none => true))
  | none => true

/-- May the step start on the core: it is the running step of an interleaved batch, no other step runs on the Sector's
cores, the core has not run it yet, its refine commands have completed, the Sector's image stands (a step that has begun on a core goes on
through a fault and a waiting activation), and a cut step follows the chip's cut (R173, R175, R178, R190, R210, R402). -/
def Dev.mayStart (core key : Nat) (s : Step) (d : Dev) : Bool :=
  let n := d.coreSector core
  !s.leaveOnly && !s.reported && (d.begun n s || (!(d.secImg n).faulted && (d.secImg n).activating.isNone)) && d.beforeCut key s && (d.hostCores n).contains core && !d.inStep core && d.coreWorks core &&
  (d.hostCores n).all (fun c => !d.inStep c || (d.coreRun c).stepNo == s.number) &&
  ((d.coreRun core).stepNo != s.number || !(d.coreRun core).reported || (d.coreRun core).imgs.isEmpty) &&
  (d.coreRun core).imgs.all (fun e => e.2.refine.running.isEmpty) &&
  d.srv.batches.all (fun e => e.1 / 256 != key / 256 || e.1 == key ||
    (match e.2.running with | some o => o.reported || o.leaveOnly || decide (s.number < o.number) | none => true))

/-- Cores that the Sector gains and another Sector still holds under the previous map (R346). -/
def Dev.gainsHeld (n : Nat) (d : Dev) : Bool :=
  d.comp.prev.isSome && (d.secCores n).any (fun c => (List.range 16).any (fun k => k != n && (d.secImg k).hosts.contains c))

/-- The Sector and batch of a step number on the Sector of a core: the image follows the map first (R346). -/
def coreStart (core step rows : Nat) (mem : List Host.Cell) (d : Dev) : List Host.Cell × Dev :=
  let n := match (List.range 16).find? (fun n => d.present n && (d.sector n).cores.testBit core) with | some n => n | none => d.coreSector core
  match d.stepOf n step with
  | none => (mem, d)
  | some (_, s) =>
    if s.positions ≠ rows then (mem, d)
    else
      let idle := (d.hostCores n).all (fun c => !d.inStep c)
      let r := if s.epoch = d.comp.cur.epoch ∧ idle ∧ !d.gainsHeld n ∧ !s.leaveOnly ∧ !s.reported then followCores n mem d else (mem, d)
      match r.2.stepOf n step with
      | some (key, s) => if r.2.coreSector core == n && r.2.mayStart core key s then startCore core key s r.1 r.2 else r
      | none => r

/-- CORE_STEP_START (R173). -/
def execCoreStepStart (core step rows t : Nat) (s : State) : Host.Outcome State Fault Refusal :=
  onServingMem (fun mem d => coreStart core step rows mem (d.advance t)) s

/-- The first failed command of a core's step, by image core and index (R174). -/
def Dev.firstFail (core : Nat) (d : Dev) : Option (Nat × Nat) := (d.coreRun core).imgs.findSome? (fun e => e.2.firstFail)

/-- A step of a batch is marked reported once every core of the Sector has reported it (R174). -/
def Dev.markReported (n number : Nat) (d : Dev) : Dev :=
  match d.stepOf n number with
  | some (key, _) =>
    if (d.hostCores n).all (fun c => (d.coreRun c).stepNo == number && (d.coreRun c).reported) then
      { d with srv := { d.srv with batches := Tab.upd key (fun b => { b with running := b.running.map (fun s => { s with reported := true }) }) d.srv.batches } }
    else d
  | none => d

/-- Why a core's step failed: its first failed command, a segment that did not match (R221), a bad selection job (R247).
The command index of a failure without a command is 0xFFFF. [DESIGN CHOICE: log entry 125] -/
def Dev.stepFailure (core : Nat) (d : Dev) : Option (Nat × Nat) :=
  let r := d.coreRun core
  let segBad := match d.stepOf (d.coreSector core) r.stepNo with | some (_, s) => s.failed | none => false
  match d.firstFail core with
  | some f => some f
  | none => if segBad then some (0xFFFF, ST.SRV_SEGMENT) else if r.stepFailed then some (0xFFFF, ST.SEL_BADJOB) else none

/-- A core's step ends and is reported (R174, R178, R202): a failed step fails every row, and the third in a row makes the
Sector FAULTED. A step that fails without a failed command has 0xFFFF for its command's index. [DESIGN CHOICE: log entry 125] -/
def Dev.endStep (core : Nat) (d : Dev) : Dev :=
  let n := d.coreSector core
  let r := d.coreRun core
  let fail := d.stepFailure core
  let d := ((d.put (Reg.CORE_STEP.running core) 0).bump (Reg.CORE_STEPS_DONE.count core) 1).quadBusy core
  let d := (d.coreUpd core (fun r => { r with reported := true })).coreEvent core 2 5 n
  let d := match fail with
    | none => d.put (Reg.CORE_IMAGE.fail_run core) 0
    | some (index, st) =>
      let d := ((d.bump (Reg.CORE_STEPS_FAILED.count core) 1).bump (Reg.CORE_IMAGE.fail_run core) 1)
      let d := (d.put (Reg.CORE_STEP_ERR.status core) st).put (Reg.CORE_STEP_ERR.command core) index
      let d := d.failStep n r.stepNo st
      if d.get (Reg.CORE_IMAGE.fail_run core) = 3 then d.faultSector n st else d
  d.markReported n r.stepNo

/-- The step list of an image core has come to its end: step_end and every earlier command have completed (R174). -/
def listEnded (r : ImgRun) : Bool := r.ended && r.step.running.isEmpty

/-- Every outbound segment of an image core has been handed to the egress path (R174). -/
def Dev.allSent (core img : Nat) (d : Dev) : Bool :=
  match d.activeImg (d.coreSector core) with
  | some i => decide ((outSegs i img).length ≤ (d.imgRun core img).outs)
  | none => true

/-- CORE_STEP_END (R174). -/
def execCoreStepEnd (core t : Nat) (s : State) : Host.Outcome State Fault Refusal :=
  onServing (fun d =>
    let d := d.advance t
    if d.inStep core && (d.coreRun core).imgs.all (fun e => listEnded e.2 && d.allSent core e.1) then d.endStep core else d) s

/-- The commands of a step list that have not completed, with their start values (R177, R547). -/
def Dev.unfinished (core img : Nat) (d : Dev) : List (Nat × EngCmd × RunCmd) :=
  match d.coreEntry core img with
  | none => []
  | some e =>
    let l := (d.imgRun core img).step
    ((List.range e.step.length).zip e.step).filterMap (fun p =>
      match Tab.look p.1 l.running with
      | some r => some (p.1, p.2, { r with status := ST.IMG_TIMEOUT })
      | none => if l.head ≤ p.1 then some (p.1, p.2, ⟨0, ST.IMG_TIMEOUT, d.daymark, d.recCounters core, 0xFFFF, 0⟩) else none)

/-- The watchdog of a step: step_timeout µs of the Daymark, 0 acting as 65,536 (R177, R200). [DEDUCED: log entry 33] -/
def Dev.watchdogDue (core : Nat) (d : Dev) : Bool :=
  let w := d.com (Reg.CORE_SEQ_CFG.step_timeout core)
  decide ((d.coreRun core).startedAt + us (if w = 0 then 65536 else w) ≤ d.daymark)

/-- STEP_WATCHDOG_EXPIRY (R177). [DEDUCED: log entry 33] -/
def execStepWatchdogExpiry (core t : Nat) (s : State) : Host.Outcome State Fault Refusal :=
  onServingMem (fun mem d =>
    let d := d.advance t
    if d.inStep core && d.watchdogDue core then
      let imgs := (d.coreRun core).imgs.map (·.1)
      let d := imgs.foldl (fun d img =>
        let d := (d.unfinished core img).foldl (fun d u => d.completeCommand core img false u.1 u.2.1 u.2.2 mem) d
        d.imgUpd core img (fun r => { r with ended := true, step := { r.step with poison := List.range 64 } })) d
      (mem, (d.endStep core).report ⟨conditionId (d.coreSector core) ST.IMG_TIMEOUT, 1, 2, core⟩)
    else (mem, d)) s

/-! ### Engines and refinement (R57, R167, R175) -/

/-- ENGINE_FAIL (R14, R167): the command that runs on the engine fails; the spare takes the engine's place, or the core is retired. -/
def execEngineFail (core engine t : Nat) (s : State) : Host.Outcome State Fault Refusal :=
  onServing (fun d =>
    let d := d.advance t
    if (d.get (Reg.CORE_ENG.engine_ok core)).testBit engine && decide (engine < 5) then
      let ok := d.get (Reg.CORE_ENG.engine_ok core) - 2 ^ engine
      let working := ((List.range 5).filter (fun e => ok.testBit e)).length
      let d := ((d.put (Reg.CORE_ENG.engine_ok core) ok).put (Reg.CORE_ENG.active core) (min 4 working)).put (Reg.CORE_ENG.spare_left core) (working - 4)
      let d := if working = 4 then (d.put Reg.GLB_CAP.spare_engines (d.get Reg.GLB_CAP.spare_engines - 1)).bump Reg.FOG_REP_ENGINE.count 1 else d
      let d := d.reportUnit 2 (core * 5 + engine) 1
      let fail (l : ListRun) : ListRun := { l with running := Tab.mapv (fun _ c => if c.engine = engine then { c with status := ST.IMG_ENGINE } else c) l.running }
      let d := d.coreUpd core (fun r => { r with imgs := Tab.mapv (fun _ i => { i with step := fail i.step, refine := fail i.refine }) r.imgs })
      if working < 4 then d.retireCore core else d
    else d) s

/-- The body of a command by its opcode (R142). -/
def bodyOf (op : Nat) : EngCtx → EngCmd → List Host.Cell → Dev → Ran :=
  match op with
  | 0x01 => plainBody EngCtx.gemm
  | 0x02 => plainBody EngCtx.gemmGated
  | 0x03 => plainBody EngCtx.gemmGather
  | 0x08 => plainBody EngCtx.norm
  | 0x09 => plainBody EngCtx.rope
  | 0x0A => plainBody EngCtx.elemwise
  | 0x10 => attnFwdBody []
  | 0x11 => attnBwdBody []
  | 0x12 => kvAppendBody []
  | 0x18 => recurBody
  | 0x20 => plainBody EngCtx.distTable
  | 0x30 => plainBody EngCtx.adapt
  | _ => fun _ _ mem d => ⟨mem, d, [], false⟩

/-- The adapter whose area holds a tier-1 address (0 for none). [DEDUCED: log entry 32] -/
def adapterAt (a : Nat) : Nat := if a % 2 ^ 48 < 2 ^ 40 then 0 else (a % 2 ^ 48 - 2 ^ 40) / 2 ^ 28

/-- The lowest adapter reference that no session of the Sector uses. [DEDUCED: log entry 37] -/
def Dev.freeAdapter (n : Nat) (d : Dev) : Nat :=
  ((List.range 65536).find? (fun a => a != 0 && d.ses.buoys.all (fun e => e.2.sector != n || e.2.adapterRef != a))).getD 0

/-- Refinement is about to write an adapter that several sessions reference: the refining session first gets a private copy
(R57). Answers the adapter to write. [DEDUCED: log entry 37] -/
def privateCopy (n adapter : Nat) (mem : List Host.Cell) (d : Dev) : List Host.Cell × Dev × Nat :=
  let users := d.ses.buoys.filter (fun e => e.2.sector == n && e.2.adapterRef == adapter)
  match users.find? (fun e => e.2.refine) with
  | some (_, b) =>
    if users.length ≤ 1 then (mem, d, adapter)
    else
      let a := d.freeAdapter n
      let at_ (k : Nat) : Nat := tierAddr 1 n (2 ^ 40 + k * 2 ^ 28)
      let d := (d.buoyUpd b.sid (fun b => { b with adapterRef := a })).moorUpd b.sid (fun m => { m with privateAdapter := true })
      ((mem.filter (fun c => decide (at_ adapter ≤ c.1) && decide (c.1 < at_ adapter + 2 ^ 28))).foldl
        (fun mem c => Mem.write (c.1 - at_ adapter + at_ a) c.2 mem) mem, d, a)
  | none => (mem, d, adapter)

/-- The body of a refine command: its destination inside an adapter goes to the refining session's own copy, and the adapter is
new since the checkpoint base (R57, R396). -/
def refineBody (op : Nat) (x : EngCtx) (c : EngCmd) (mem : List Host.Cell) (d : Dev) : Ran :=
  let k := adapterAt c.d.address
  if c.d.space = 2 ∧ k ≠ 0 then
    let r := privateCopy x.sector k mem d
    let r : List Host.Cell × Dev × Nat := (r.1, { r.2.1 with ckpt := { r.2.1.ckpt with news := if r.2.1.ckpt.news.contains (8, x.sector, r.2.2) then r.2.1.ckpt.news else (8, x.sector, r.2.2) :: r.2.1.ckpt.news } }, r.2.2)
    bodyOf op x { c with d := { c.d with address := c.d.address - k * 2 ^ 28 + r.2.2 * 2 ^ 28 } } r.1 r.2.1
  else bodyOf op x c mem d

/-- The refine list begins again at command 0, its slot set reset (R175). [DEDUCED: log entry 37] -/
def Dev.wrapRefine (core img : Nat) (d : Dev) : Dev :=
  match d.coreEntry core img with
  | some e =>
    let l := (d.imgRun core img).refine
    if !e.refine.isEmpty && l.head == e.refine.length && l.running.isEmpty then d.imgUpd core img (fun r => { r with refine := ListRun.init }) else d
  | none => d

/-- REFINE_ISSUE (R175): the next command of the refine list, while refine is enabled and no step is pending. Its table holds the kept rows of
the core's last step (R55, R158). [DESIGN CHOICE: log entry 114] -/
def execRefineIssue (core img : Nat) (s : State) : Host.Outcome State Fault Refusal :=
  onServingMem (fun mem d =>
    if !d.inStep core && d.noStepPending core && d.get (Reg.CORE_SEQ_CFG.refine_enable core) == 1 then
      let d := d.wrapRefine core img
      match d.headOf core img with
      | some i => runHead i.cmd.opcode core img (refineBody i.cmd.opcode) (d.writeTable (d.engCtx core img) (d.refineRows core) i.cmd mem) d
      | none => (mem, d)
    else (mem, d)) s

end Sys2Proof.Machine
end

