-- ==== Sys2Proof/Machine/Selection.lean ====
section
/-!
DEFINITION. Machine/Selection.lean: selection jobs, the merge of partial lists, sampling and verification at TAIL, draft
trees, and the route builder (R195, R224 to R226, R239 to R254).
-/
namespace Sys2Proof.Machine

/-! ### Ranking a row (R242 to R245) -/

/-- A list entry: index and FP32 bits. -/
abbrev SelEnt := Nat × Nat

/-- The value of FP32 bits. -/
def valOf (bits : Nat) : FpVal := decodeFloat fp32 bits

/-- Is the value NaN? -/
def isNan (bits : Nat) : Bool := valOf bits == .nan

/-- A valid value: neither NaN nor −∞ (R242). -/
def validBits (bits : Nat) : Bool := !isNan bits && !isNegInf (valOf bits)

/-- Order of the slots: descending value, then ascending index (R243). -/
def slotBefore (a b : SelEnt) : Bool := FpVal.lt (valOf b.2) (valOf a.2) || (!FpVal.lt (valOf a.2) (valOf b.2) && decide (a.1 ≤ b.1))

/-- Equal in value. -/
def eqVal (a b : Nat) : Bool := !FpVal.lt (valOf a) (valOf b) && !FpVal.lt (valOf b) (valOf a)

/-- The top k of valid entries: where more entries tie at the boundary than there are places, `ties` says which are taken, the
unit's own choice (R244). [DESIGN CHOICE: log entry 45] -/
def topK (k : Nat) (ties : List Nat) (es : List SelEnt) : List SelEnt :=
  let s := es.mergeSort slotBefore
  match s[min k s.length - 1]? with
  | none => []
  | some b =>
    let above := s.filter (fun e => FpVal.lt (valOf b.2) (valOf e.2))
    let level := s.filter (fun e => eqVal e.2 b.2)
    let pick := level.filter (fun e => ties.contains e.1) ++ level.filter (fun e => !ties.contains e.1)
    above ++ ((pick.take (min k s.length - above.length)).mergeSort slotBefore)

/-- Terms added up in FP32, two of them at a time; free values choose which two, so that every order and grouping is among the results. [DESIGN CHOICE: log entry 47] -/
def sumPairs : Nat → List FpVal → FpVal
  | _, [] => FpVal.zero
  | _, [x] => x
  | 0, x :: _ => x
  | fuel + 1, xs =>
    let n := xs.length
    let i := Config.unstated 12 (0 :: xs.map toFp32) % n
    let rest := xs.eraseIdx i
    let j := Config.unstated 12 (1 :: xs.map toFp32) % (n - 1)
    sumPairs fuel (roundFp32 (FpVal.add (xs.getD i FpVal.zero) (rest.getD j FpVal.zero)) :: rest.eraseIdx j)

/-- An FP32 sum in an order the spec leaves open (R245). -/
def sumOpen (xs : List FpVal) : FpVal := sumPairs xs.length xs

/-- The contribution of a valid entry to a sum (R245). -/
def contribution (sumExp : Bool) (beta : Nat) (m x : FpVal) : FpVal :=
  if sumExp then
    (match m, x with
     | .inf false, .inf false => .fin false 1 0
     | .inf false, _ => FpVal.zero
     | _, _ => expOf (roundFp32 (FpVal.mul (valOf beta) (roundFp32 (FpVal.add x (FpVal.neg m))))))
  else x

/-- The padding slot. -/
def padSlot : SelEnt := (none32, 0xFF800000)

/-- Rank a row's unmasked entries into a result (R243 to R245). [DESIGN CHOICE: log entry 45] -/
def rankRow (k beta : Nat) (sumExp masked : Bool) (ties : List Nat) (es : List SelEnt) (h : SelRes) : SelRes :=
  let valid := es.filter (fun e => validBits e.2)
  let nans := es.filter (fun e => isNan e.2)
  let sel := topK k ties valid
  let fill := nans.take (k - sel.length)
  let m := match sel.head? with | some e => valOf e.2 | none => .inf true
  let c (e : SelEnt) : FpVal := contribution sumExp beta m (valOf e.2)
  let b := match sel.getLast? with | some e => e.2 | none => 0
  { h with valid := valid.length, k := k, beta := beta, sumExp := sumExp, nanSelected := !fill.isEmpty, nanSeen := !nans.isEmpty,
           posInf := valid.any (fun e => valOf e.2 == .inf false), masked := masked,
           tieTotal := (valid.filter (fun e => eqVal e.2 b)).length, tieIn := (sel.filter (fun e => eqVal e.2 b)).length,
           m := toFp32 m, sSel := toFp32 (sumOpen (sel.map c)), sExc := toFp32 (sumOpen ((valid.filter (fun e => !sel.contains e)).map c)),
           nanCount := nans.length, slots := sel ++ fill ++ List.replicate (k - sel.length - fill.length) padSlot }

/-- A result before ranking. -/
def SelRes.blank (source base length step row : Nat) : SelRes :=
  { source := source, base := base, length := length, step := step, row := row, valid := 0, k := 0, beta := 0, sumExp := false,
    nanSelected := false, nanSeen := false, posInf := false, masked := false, merged := false, tieTotal := 0, tieIn := 0, m := 0xFF800000, sSel := 0,
    sExc := 0, nanCount := 0, slots := [] }

/-- The bytes of a result as the unit writes it (R243). -/
def resBytes (mergeId : Nat) (r : SelRes) : List Byte :=
  leBytes 4 r.valid ++ leBytes 2 r.k ++ leBytes 2 (b2n r.nanSelected + 2 * b2n r.nanSeen + 4 * b2n r.posInf + 8 * b2n r.masked + 16 * b2n r.merged) ++
    leBytes 4 r.tieTotal ++ leBytes 2 r.tieIn ++ leBytes 2 r.row ++ leBytes 4 r.m ++ leBytes 4 r.sSel ++ leBytes 4 r.sExc ++
    leBytes 4 r.nanCount ++ leBytes 4 r.base ++ leBytes 4 r.length ++ leBytes 4 r.step ++ leBytes 1 r.source ++ leBytes 1 mergeId ++
    leBytes 2 0 ++ r.slots.flatMap (fun e => leBytes 4 e.1 ++ leBytes 4 e.2)

/-! ### Selection jobs (R239 to R241, R247) -/

/-- A job descriptor (R240). -/
structure SelJob where
  list : Nat
  stride : Nat
  length : Nat
  base : Nat
  format : Nat
  mode : Nat
  k : Nat
  beta : Nat
  result : Nat
  rows : Nat
  mergeId : Nat
  source : Nat

/-- Read descriptor `n` of an image core's table (R239). -/
def EngCtx.selJob (x : EngCtx) (e : CoreEntry) (n : Nat) (mem : List Host.Cell) : SelJob :=
  let f (o w : Nat) : Nat := leNat (Mem.reads (x.sram x.img ((e.regions.getD 1 (0, 0)).1 + 64 * n + o)) w mem)
  { list := f 0 4, stride := f 4 4, length := f 8 4, base := f 12 4, format := f 16 1, mode := f 17 1, k := f 18 2, beta := f 20 4,
    result := f 24 4, rows := f 28 2, mergeId := f 30 1, source := f 31 1 }

/-- Bytes of an entry. -/
def SelJob.width (j : SelJob) : Nat := if j.format = 0 then 4 else 2

/-- A bad job (R247). -/
def SelJob.bad (j : SelJob) (rows : Nat) : Bool :=
  j.length == 0 || decide (2 ^ 24 ≤ j.length) || j.k == 0 || decide (1024 < j.k) || decide (1 < j.format) || decide (8 ≤ j.mode) ||
  decide (15 < j.mergeId) || decide (31 < j.source) ||
  decide (0x1000000 < j.list + (rows - 1) * j.stride + j.length * j.width) || decide (0x1000000 < j.result + rows * (48 + 8 * j.k))

/-- A row-table entry (R241): k, mask, skip, β and the mask's address. -/
structure RowPar where
  k : Nat
  mask : Bool
  skip : Bool
  beta : Nat
  maskAddr : Nat

/-- Entry `r` of the table. -/
def readRowPar (sector tab r : Nat) (mem : List Host.Cell) : RowPar :=
  let f (o w : Nat) : Nat := leNat (Mem.reads (fbAddr sector (tab + 16 * r + o)) w mem)
  ⟨f 0 2, (f 2 2).testBit 0, (f 2 2).testBit 1, f 4 4, f 8 8⟩

/-- The entries of a row that its mask leaves, with their reported indices. -/
def EngCtx.selEntries (x : EngCtx) (j : SelJob) (r : Nat) (mask : Option Nat) (mem : List Host.Cell) : List SelEnt :=
  (List.range j.length).filterMap (fun i =>
    let bits := leNat (Mem.reads (x.sram x.img (j.list + r * j.stride + i * j.width)) j.width mem)
    let v := if j.format = 0 then bits else bits * 65536
    match mask with
    | none => some (j.base + i, v)
    | some a => if (Mem.read (fbAddr x.sector a + (j.base + i) / 8) mem).toNat.testBit ((j.base + i) % 8) then some (j.base + i, v) else none)

/-- Key of a core's selection unit for an image core. -/
def selKey (core img : Nat) : Nat := core * 32 + img

/-- Key of a step row of a Sector or merge slot: steps of one STEP half do not overlap (R173). -/
def rowKey (n step row : Nat) : Nat := (n * 2 + step % 2) * 65536 + row

/-- A row meets a mask that is not ready: it waits, and is late once (R241, R298). -/
def Dev.lateMask (sector step row : Nat) (d : Dev) : Dev :=
  let k := rowKey sector step row
  if d.sel.late.contains k then d
  else
    let d : Dev := { d with sel := { d.sel with late := k :: d.sel.late } }
    let d := ((d.bump Reg.GRM_LATE_ROWS.count 1).flag Reg.GRM_ERR.late).event none (sectorEvent 5 3 sector)
    if d.get Reg.GRM_CFG.late_report == 1 then d.report ⟨conditionId sector ST.OK, 0, 1, d.keeperNo⟩ else d

/-- Rank one row of a job, write its result and hand it to its merge slot, where that slot is in use for the core's Sector (R257). -/
def selRow (x : EngCtx) (j : SelJob) (p : RowPar) (step r : Nat) (ties : List Nat) (mem : List Host.Cell) (d : Dev) : List Host.Cell × Dev :=
  let par := j.mode.testBit 1
  let want := if p.k = 0 then 1024 else p.k
  let k := if par then min want j.k else j.k
  let d := if par && decide (j.k < want) then d.flag Reg.SEL_ERR.k_clamp else d
  let beta := if par then p.beta else j.beta
  let es := x.selEntries j r (if par && p.mask then some p.maskAddr else none) mem
  let res := rankRow k beta (j.mode.testBit 0) (par && p.mask) ties es (SelRes.blank j.source j.base j.length step r)
  let d := (d.bump Reg.SEL_ROWS.count 1).event none (sectorEvent 5 4 x.sector)
  let d := if res.nanSeen then d.bump Reg.SEL_NAN_ROWS.count 1 else d
  let d := if res.nanSelected then
      (let d := d.flag Reg.SEL_ERR.nan_selected
       if d.get Reg.SEL_CFG.nan_report == 1 then d.report ⟨conditionId x.sector ST.OK, 0, 2, x.core⟩ else d)
    else d
  let d := if j.mode.testBit 2 && d.com (Reg.SEL_MRG.enable j.mergeId) == 1 && d.com (Reg.SEL_MRG.sector j.mergeId) == x.sector then
      (let key := rowKey j.mergeId step r
       { d with sel := { d.sel with parts := Tab.put key ((Tab.getD key [] d.sel.parts).filter (fun q => q.step == step && q.source != j.source) ++ [res]) d.sel.parts } })
    else d
  (Mem.writes (x.sram x.img (j.result + r * (48 + 8 * j.k))) (resBytes j.mergeId res) mem, d)

/-- Rank the rows of a job from row `r` on, stopping at a row whose mask is not ready: answers that row. -/
def selRows (x : EngCtx) (j : SelJob) (tab step : Nat) (ties : List (List Nat)) : List Nat → List Host.Cell × Dev → List Host.Cell × Dev × Option Nat
  | [], s => (s.1, s.2, none)
  | r :: rs, s =>
    let par := j.mode.testBit 1
    let p := if par then readRowPar x.sector tab r s.1 else ⟨0, false, false, 0, 0⟩
    if p.skip then selRows x j tab step ties rs s
    else if p.mask && !s.2.maskDone x.sector step r then (s.1, s.2.lateMask x.sector step r, some r)
    else selRows x j tab step ties rs (selRow x j p step r (ties.getD r []) s.1 s.2)

/-- The unit's run state put back. -/
def Dev.selPut (k : Nat) (r : SelRun) (d : Dev) : Dev := { d with sel := { d.sel with runs := Tab.put k r d.sel.runs } }

/-- The wait of a row on its mask is counted in ACLK of 600 MHz (R298). -/
def Dev.countWait (w : Option (Nat × Nat)) (d : Dev) : Dev :=
  match w with
  | some (_, since) => d.bump Reg.GRM_LATE_WAIT.count ((d.now - since) * 6 / 10)
  | none => d

/-- The wait of the unit's waiting row, if the row it now waits on is row `w` still. -/
def stillWaits (v : Option (Nat × Nat)) (w : Nat) : Option (Nat × Nat) := v.filter (fun p => p.1 == w)

/-- The wait of the unit's waiting row, if the unit has gone past it and now waits on row `w` (R298). -/
def movedPast (v : Option (Nat × Nat)) (w : Nat) : Option (Nat × Nat) := v.filter (fun p => p.1 != w)

/-- SEL_JOB_DONE (R239, R247): the next job started on the unit runs from the row it has come to; it is done unless a row waits
on its mask. `ties` lists, row by row, the tied entries that the unit takes first (R244). A signal past the table's 64 descriptors starts a bad
job. [DESIGN CHOICE: log entry 45] -/
def execSelJobDone (core img : Nat) (ties : List (List Nat)) (t : Nat) (s : State) : Host.Outcome State Fault Refusal :=
  onServingMem (fun mem d =>
    let d := d.advance t
    match d.coreEntry core img with
    | none => (mem, d)
    | some e =>
      let key := selKey core img
      let run := Tab.getD key ⟨0, 0, none⟩ d.sel.runs
      if !d.inStep core || (d.imgRun core img).selGos ≤ run.done then (mem, d)
      else
        let x := d.engCtx core img
        let step := (d.coreRun core).stepNo
        let j := x.selJob e run.done mem
        let rows := if j.rows = 0 then (d.coreRun core).rows else j.rows
        let finish (d : Dev) : Dev := (d.selPut key ⟨run.done + 1, 0, none⟩).imgUpd core img (fun r => { r with step := ListRun.bump 60 false r.step })
        if j.bad rows || decide (64 ≤ run.done) then
          let d := (d.flag Reg.SEL_ERR.bad_job).coreUpd core (fun r => { r with stepFailed := true })
          (mem, finish (d.report ⟨conditionId x.sector ST.SEL_BADJOB, 1, 2, core⟩))
        else
          let r := selRows x j (d.coreRun core).rowTab step ties ((List.range rows).drop run.row) (mem, d)
          match r.2.2 with
          | some w => (r.1, (r.2.1.countWait (movedPast run.waiting w)).selPut key ⟨run.done, w, (stillWaits run.waiting w).or (some (w, r.2.1.now))⟩)
          | none => (r.1, finish (r.2.1.countWait run.waiting))) s

/-! ### The merge (R248, R249) -/

/-- Two slices partly overlap. [DEDUCED: log entry 46] -/
def partlyOverlap (a b : SelRes) : Bool :=
  !(a.base == b.base && a.length == b.length) && decide (a.base < b.base + b.length) && decide (b.base < a.base + a.length)

/-- The representatives: the lowest-numbered source of each slice. -/
def representatives (ps : List SelRes) : List SelRes := ps.filter (fun p => ps.all (fun q => !(q.base == p.base && q.length == p.length) || decide (p.source ≤ q.source)))

/-- The entries of the partial lists, each index once, from its lowest-numbered source. -/
def unionEnts (ps : List SelRes) : List SelEnt :=
  (ps.mergeSort (fun a b => decide (a.source ≤ b.source))).foldl (fun u p =>
    u ++ (p.slots.filter (fun e => e.1 != none32 && !u.any (fun f => f.1 == e.1)))) []

/-- A representative's two sums as they enter the merged ones: each scaled by exp(β × (m_c − m)) (R249). -/
def scaledSums (m : FpVal) (p : SelRes) : List FpVal :=
  let ts := [valOf p.sSel, valOf p.sExc]
  if p.sumExp then
    (match valOf p.m, m with
     | .inf true, _ => [FpVal.zero]
     | .inf false, .inf false => ts
     | _, .inf false => [FpVal.zero]
     | c, _ =>
       let f := expOf (roundFp32 (FpVal.mul (valOf p.beta) (roundFp32 (FpVal.add c (FpVal.neg m)))))
       ts.map (fun t => roundFp32 (FpVal.mul f t)))
  else ts

/-- The merged result of a row (R249). [DEDUCED: log entry 46] -/
def mergeRow (ties : List Nat) (ps : List SelRes) : SelRes :=
  let reps := representatives ps
  let f := ps.headD (SelRes.blank 0 0 0 0 0)
  let r := rankRow f.k f.beta f.sumExp (ps.any (·.masked)) ties (unionEnts ps) (SelRes.blank f.source 0 (reps.map (·.length)).sum f.step f.row)
  let m := reps.foldl (fun a p => if FpVal.lt a (valOf p.m) then valOf p.m else a) (.inf true)
  let t := sumOpen (reps.flatMap (scaledSums m))
  let rest := roundFp32 (FpVal.add t (FpVal.neg (valOf r.sSel)))
  let v := (reps.map (·.valid)).sum
  let bnd := match (r.slots.take (min r.k r.valid)).getLast? with | some e => e.2 | none => 0
  let mine (p : SelRes) : Nat := match (p.slots.take (min p.k p.valid)).getLast? with | some e => if eqVal e.2 bnd then p.tieTotal - p.tieIn else 0 | none => 0
  { r with merged := true, valid := v, nanCount := (reps.map (·.nanCount)).sum, nanSeen := reps.any (·.nanSeen), m := toFp32 m,
           sExc := if FpVal.lt rest FpVal.zero then 0 else toFp32 rest, tieTotal := r.tieTotal + (reps.map mine).sum }

/-! ### Sampling (R251 to R254) -/

/-- Running FP32 sums of weights in slot order. [DEDUCED: log entry 46] -/
def runSums : FpVal → List FpVal → List FpVal
  | _, [] => []
  | a, w :: ws => let b := roundFp32 (FpVal.add a w); b :: runSums b ws

/-- A value is at least another. -/
def FpVal.ge (a b : FpVal) : Bool := !FpVal.lt a b

/-- Candidates with their weights after rules 1, 3 and 4 of R253. [DESIGN CHOICE: log entry 47] -/
def candidates (t : TailTurn) (r : SelRes) : List (Nat × FpVal) :=
  let k := if t.topK = 0 then 1024 else t.topK
  let cs := (r.slots.take (min k (min r.k r.valid))).filter (fun e => !r.posInf || valOf e.2 == .inf false)
  let ws := cs.map (fun e => (e.1, if r.posInf then FpVal.fin false 1 0 else contribution true r.beta (valOf r.m) (valOf e.2)))
  let ws := if t.topP = 0 then ws
    else
      let target := roundFp32 (FpVal.mul (.fin false t.topP (-8)) (roundFp32 (FpVal.add (valOf r.sSel) (valOf r.sExc))))
      match (runSums FpVal.zero (ws.map (·.2))).findIdx? (fun c => FpVal.ge c target) with
      | some i => ws.take (i + 1)
      | none => ws
  if t.minP = 0 then ws else ws.filter (fun w => FpVal.ge w.2 (.fin false t.minP (-8)))

/-- The token sampled from a merged row by the draw at a counter (R253). The candidates are never empty where v is not 0. [DESIGN CHOICE: log entry 47] -/
def sampleRow (t : TailTurn) (counter : Nat) (r : SelRes) : Nat :=
  if zeroTemp t.temperature then (r.slots.headD padSlot).1
  else
    let cs := candidates t r
    let sums := runSums FpVal.zero (cs.map (·.2))
    let w := sums.getLastD FpVal.zero
    let x := roundFp32 (FpVal.mul (drawU t.seed counter) w)
    match sums.findIdx? (fun c => FpVal.ge c x) with
    | some i => (cs.getD i (0, FpVal.zero)).1
    | none => (cs.getLastD (0, FpVal.zero)).1

/-! ### Verification at TAIL (R224, R225, R254, R299) -/

/-- The mask of a session's node after a path of draft tokens, as bits: all clear where the path is not admitted (R291, R294). -/
def Dev.nodeMask (sid : Nat) (t : TailTurn) (path : List Nat) (d : Dev) : List Bool :=
  match d.vocab t.vocab, d.moor sid with
  | some v, some m =>
    if t.grammarOn then
      (match d.gram t.grammarId with
       | some g => (match gramAlong g v path (ctrlCfg m.ctrl) with | some c => gramMaskBits g v c | none => v.attrs.map (fun _ => false))
       | none => plainAlong v path)
    else plainAlong v path
  | _, _ => []

/-- The draft token of node `i` of a row (node 0 carries the token the row starts from). -/
def nodeToken (drafts : List Nat) (i : Nat) : Nat := drafts.getD (i - 1) none32

/-- Draft tokens on the path from node 0, exclusive, to node `i`. -/
def pathTokens (drafts parents : List Nat) : Nat → Nat → List Nat
  | 0, _ => []
  | fuel + 1, i => if i = 0 then [] else pathTokens drafts parents fuel (parents.getD i 0) ++ [nodeToken drafts i]

/-- Why a walk stopped, and what it made. -/
structure Walk where
  emitted : List Nat
  path : List Nat
  reason : Nat
  status : Nat
  draws : Nat
  cut : Nat
  dead : Bool
  noValid : Bool

/-- What TAIL needs for a walk: turn, vocabulary, drafts, parents, nodes, counter, merged result and mask emptiness by node. -/
structure WalkCtx where
  turn : TailTurn
  vocab : VocabImage
  drafts : List Nat
  parents : List Nat
  nodes : Nat
  counter : Nat
  merged : Nat → Option SelRes
  empty : Nat → Bool

/-- A row is sampled with mass beyond the candidates (R253). -/
def tailCut (t : TailTurn) (r : SelRes) : Bool := t.topK == 0 && t.topP == 0 && t.minP == 0 && !eqVal r.sExc 0

/-- The verification loop of R224; `fuel` bounds it by the nodes. A node at which the walk stops with nothing emitted is not on the
path: its token, the last one sampled, is not committed (R208). -/
def walk (c : WalkCtx) : Nat → Nat → Walk → Walk
  | 0, _, w => w
  | fuel + 1, node, w =>
    if c.empty node then
      if c.turn.deadEnd then { w with reason := 5, status := ST.GRM_DEAD, dead := true, path := if node = 0 then w.path else w.path.dropLast }
      else { w with emitted := w.emitted ++ [c.vocab.endToken], reason := 1, dead := true }
    else
      match c.merged node with
      | none => w
      | some r =>
        if r.valid = 0 then { w with reason := 7, status := ST.SEL_NOVALID, noValid := true, path := if node = 0 then w.path else w.path.dropLast }
        else
          let t := sampleRow c.turn (c.counter + w.draws) r
          let w := { w with emitted := w.emitted ++ [t], draws := w.draws + 1, cut := w.cut + b2n (tailCut c.turn r) }
          if toolTok c.vocab t then { w with reason := 2 }
          else if endTok c.vocab t then { w with reason := 1 }
          else if c.turn.maxNew ≠ 0 ∧ c.turn.maxNew ≤ c.turn.emitted + w.emitted.length then { w with reason := 3 }
          else
            match (List.range c.nodes).find? (fun i => i != 0 && c.parents.getD i 0 == node && nodeToken c.drafts i == t) with
            | some i => walk c fuel i { w with path := w.path ++ [i] }
            | none => w

/-- The committed tree shape of a Sector (R226, R238): branchings by depth, cut to at most 15 nodes. -/
def Dev.treeShape (n : Nat) (heads : Nat) (d : Dev) : List Nat × Bool :=
  let bs := ([Reg.SES_SRV_SPEC.b1, Reg.SES_SRV_SPEC.b2, Reg.SES_SRV_SPEC.b3, Reg.SES_SRV_SPEC.b4].map (fun f => d.get (f n)))
  let live := bs.takeWhile (fun b => b != 0)
  let count (l : List Nat) : Nat := (l.foldl (fun (a : Nat × Nat) b => (a.1 * b, a.2 + a.1 * b)) (1, 0)).2
  let fit := ((List.range (live.length + 1)).reverse.find? (fun k => decide (count (live.take k) ≤ 15))).getD 0
  ((live.take fit).take heads, decide (fit < live.length))

/-- The nodes of a tree, breadth first: (token, parent), with the nodes of the last depth (R226). [DESIGN CHOICE: log entry 45] -/
def growTree : List (Nat × List Nat) → List Nat → List (Nat × Nat) → List (Nat × Nat)
  | [], _, acc => acc
  | (b, toks) :: rest, last, acc =>
    let new := last.flatMap (fun p => (toks.take b).map (fun t => (t, p)))
    growTree rest ((List.range new.length).map (fun i => acc.length + 1 + i)) (acc ++ new)

/-- Draft heads of an image: the slots of kind 5 (R181, R226). [DESIGN CHOICE: log entry 45] -/
def draftHeads (i : Image) : Nat := (i.slots.filter (fun s => s.kind == 5)).length

/-- The next tree of a session: drafts and their parents (R226). `heads` ranks the tokens of each draft head. -/
def Dev.nextDrafts (n : Nat) (t : TailTurn) (ended : Bool) (heads : List (List Nat)) (d : Dev) : (List Nat × List Nat) × Dev :=
  if ended || t.noSpec || d.get (Reg.SES_SRV_SPEC.spec_on n) == 0 || d.get Reg.SES_SRV_CFG.spec_allow == 0 then (([], []), d)
  else
    match d.activeImg n with
    | none => (([], []), d)
    | some i =>
      let sh := d.treeShape n (draftHeads i)
      let tree := growTree (sh.1.zip heads) [0] []
      let d := if sh.2 then d.flag Reg.SES_SRV_ERR.spec_shape else d
      ((tree.map (·.1), tree.map (·.2)), d.bump Reg.SES_SRV_DRAFTS_PROP.count tree.length)

/-- A merged result by Sector and step row. -/
def Dev.mergedRow (n step row : Nat) (d : Dev) : Option SelRes := Tab.look (rowKey n step row) d.sel.merged

/-- The batch row that a step row belongs to, with its first position. -/
def rowAt : List StepRow → Nat → Nat → Option (StepRow × Nat)
  | [], _, _ => none
  | b :: bs, base, r => if r < base + b.qcount then some (b, base) else rowAt bs (base + b.qcount) r

/-- Verify a batch row whose sampled rows have all been merged, and keep the result for TAIL's boundary (R224 to R226, R252). -/
def Dev.verifyRow (n step : Nat) (r : StepRow) (base : Nat) (heads : List (List Nat)) (d : Dev) : Dev :=
  match d.tailTurn r.sid, d.buoy r.sid with
  | some t, some b =>
    match d.vocab t.vocab with
    | none => d
    | some v =>
      let rows := sampledRows r base
      let tree := Tab.getD r.sid (0, [], []) d.srv.nextTree
      let drafts := if r.tree then tree.2.1 else []
      let at_ (node : Nat) : Nat := ((rows.find? (fun p => p.2 == node)).map (·.1)).getD 0
      let c : WalkCtx := { turn := t, vocab := v, drafts := drafts, parents := r.parents, nodes := rows.length, counter := b.sampler,
                           merged := fun k => d.mergedRow n step (at_ k),
                           empty := fun k => d.needsMask t && (d.nodeMask r.sid t (pathTokens drafts r.parents 16 k)).all (fun x => !x) }
      let w := walk c 6 0 ⟨[], [0], 0, ST.OK, 0, 0, false, false⟩
      let late := rows.any (fun p => d.sel.late.contains (rowKey n step p.1))
      let d := (d.bump Reg.SEL_SAMPLES.count w.draws).bump Reg.SEL_TAIL_CUT.count w.cut
      let d := if w.dead then (d.bump Reg.GRM_DEAD.count 1).flag Reg.GRM_ERR.dead else d
      let d := if w.noValid then d.flag Reg.SEL_ERR.no_valid else d
      let d := d.bump Reg.SES_SRV_DRAFTS_ACC.count (w.path.length - 1)
      let x := d.nextDrafts n t (w.reason != 0) heads
      let res : RowResult := { sid := r.sid, emitted := w.emitted, path := w.path, endReason := w.reason, status := w.status, maskLate := late, drafts := x.1.1, draftParents := x.1.2, draws := w.draws }
      { x.2 with srv := { x.2.srv with results := Tab.put r.sid res x.2.srv.results } }
  | _, _ => d

/-- The running step of a Sector whose number is `step`, and the batch row at a step row. -/
def Dev.stepRowAt (n step row : Nat) (d : Dev) : Option (StepRow × Nat) :=
  match d.stepOf n step with
  | some (_, s) => rowAt s.rows 0 row
  | none => none

/-- A mask area is free again once its row is merged (R295). -/
def Dev.freeArea (n step row : Nat) (d : Dev) : Dev :=
  { d with grm := { d.grm with pools := Tab.upd n (fun p => (p.1, p.2.filter (fun a => a.2 != step * 65536 + row))) d.grm.pools } }

/-- The partial results of a row of an enabled merge slot once every source's has arrived, those of the earlier step first (R248). [DEDUCED: log entry 46] -/
def Dev.mergeReady (slot row : Nat) (d : Dev) : Option (Nat × List SelRes) :=
  let full (key : Nat) : Option (Nat × List SelRes) :=
    let ps := Tab.getD key [] d.sel.parts
    if ps.isEmpty || decide (ps.length < max 1 (d.com (Reg.SEL_MRG.sources slot))) then none else some (key, ps)
  let stepOf (p : Nat × List SelRes) : Nat := (p.2.headD (SelRes.blank 0 0 0 0 0)).step
  if d.com (Reg.SEL_MRG.enable slot) == 0 then none
  else
    match full (rowKey slot 0 row), full (rowKey slot 1 row) with
    | some a, some b => some (if stepOf b < stepOf a then b else a)
    | some a, none => some a
    | none, b => b

/-- SEL_MERGE (R248, R249): every source's result of a row has arrived, so they are merged; once every sampled row of the batch
row is merged, the row is verified. [DESIGN CHOICE: log entry 45] -/
def execSelMerge (slot row : Nat) (ties : List Nat) (heads : List (List Nat)) (s : State) : Host.Outcome State Fault Refusal :=
  onServing (fun d =>
    let n := d.com (Reg.SEL_MRG.sector slot)
    match d.mergeReady slot row with
    | none => d
    | some (key, ps) =>
      let step := (ps.headD (SelRes.blank 0 0 0 0 0)).step
      let d : Dev := { d with sel := { d.sel with parts := Tab.del key d.sel.parts } }
      if ps.any (fun a => ps.any (fun b => partlyOverlap a b)) then
        let d := d.flag Reg.SEL_ERR.overlap
        (match d.stepRowAt n step row with | some (r, _) => d.failRow n step r.sid ST.SEL_OVERLAP | none => d)
      else
        let d : Dev := ({ d with sel := { d.sel with merged := Tab.put (rowKey n step row) (mergeRow ties ps) d.sel.merged } }).freeArea n step row
        match d.stepRowAt n step row with
        | some (r, base) =>
          if (sampledRows r base).any (fun p => p.1 == row) && (sampledRows r base).all (fun p => (d.mergedRow n step p.1).isSome) then d.verifyRow n step r base heads else d
        | none => d) s

/-! ### The route builder (R194, R195) -/

/-- A weight's quotient, within 2 ulp; by zero, an infinity or a NaN it has no stated value. [DESIGN CHOICE: log entry 110] -/
def gateQuot (pick : Nat) (e s : FpVal) : Nat :=
  match e, s with
  | .fin _ _ _, .fin _ k _ => if k = 0 then wrap 32 pick else toFp32 (within2 pick (quotTrue e s))
  | _, _ => wrap 32 pick

/-- The weight of a selected expert (R195): its contribution to the sums under β = 1, over the sum that gate_norm names. [DEDUCED: log entry 46] -/
def gateWeight (norm x m sSel sExc : Nat) : Nat :=
  let e := contribution true 0x3F800000 (valOf m) (valOf x)
  if norm = 0 then x
  else if norm = 1 then gateQuot (Config.unstated 13 [x, m, sSel]) e (valOf sSel)
  else gateQuot (Config.unstated 14 [x, m, sSel, sExc]) e (roundFp32 (FpVal.add (valOf sSel) (valOf sExc)))

/-- What the selection unit wrote for step row `r` of a job: m, s_sel, s_exc and the selected slots. -/
def EngCtx.selResult (x : EngCtx) (j : SelJob) (r : Nat) (mem : List Host.Cell) : Nat × Nat × Nat × List SelEnt :=
  let a := x.sram x.img (j.result + r * (48 + 8 * j.k))
  let f (o w : Nat) : Nat := leNat (Mem.reads (a + o) w mem)
  (f 0x10 4, f 0x14 4, f 0x18 4, ((List.range j.k).map (fun i => (f (48 + 8 * i) 4, f (52 + 8 * i) 4))).filter (fun e => e.1 != none32))

/-- The job of a core's table that ranks the logits of an MoE entry (R240). [DEDUCED: log entry 46] -/
def EngCtx.moeJob (x : EngCtx) (e : CoreEntry) (m : MoeEntry) (mem : List Host.Cell) : Option SelJob :=
  ((List.range 64).map (fun n => x.selJob e n mem)).find? (fun j => j.list == (e.regions.getD 3 (0, 0)).1 + m.logitsOffset && j.length == m.experts)

/-- The entries of an expert: (step row, weight), rows ascending (R195). -/
def expertRows (x : EngCtx) (j : SelJob) (m : MoeEntry) (rows e : Nat) (mem : List Host.Cell) : List (Nat × Nat) :=
  (List.range rows).filterMap (fun r =>
    let s := x.selResult j r mem
    (s.2.2.2.find? (fun p => p.1 == e)).map (fun p => (r, gateWeight m.gateNorm p.2 s.1 s.2.1 s.2.2.1)))

/-- The commands of a layer take their experts' entry counts in param0 (R184). [DEDUCED: log entry 34] -/
def setCounts (i : Image) (m : MoeEntry) (counts : List Nat) (live : List CoreEntry) : List CoreEntry :=
  let f (img list : Nat) (cs : List EngCmd) : List EngCmd := ((List.range cs.length).zip cs).map (fun p =>
    match i.relocs.find? (fun r => r.core == img && r.list == list && r.command == p.1 && r.operand == 4) with
    | some r => if p.2.layerId = m.layerId then { p.2 with param0 := counts.getD r.target 0 } else p.2
    | none => p.2)
  live.map (fun e => { e with step := f e.index 0 e.step, refine := f e.index 1 e.refine })

/-- The core that hosts an image core of a Sector (R182). -/
def Dev.hostOf (sector c : Nat) (d : Dev) : Nat := (d.secImg sector).hosts.getD c 0

/-- The image core that holds expert `e` (R194). -/
def expertHolder (m : MoeEntry) (e : Nat) : Nat := m.firstCore + e / max 1 m.perCore

/-- The bytes of an expert's entry list: source row, destination row and weight of 12 bytes each (R195). -/
def routeBytes (l : List (Nat × Nat)) : List (BitVec 8) := l.flatMap (fun q => leBytes 4 q.1 ++ leBytes 4 q.1 ++ leBytes 4 q.2)

/-- Where the entry list of expert `e` begins: its place in the route area of its core, each list of room for `max_rows` × `top_k`
entries (R194, R195). -/
def Dev.routeBase (sector : Nat) (i : Image) (m : MoeEntry) (e : Nat) (d : Dev) : Option Nat :=
  let c := expertHolder m e
  (d.coreEntry (d.hostOf sector c) c).map (fun he =>
    (d.engCtx (d.hostOf sector c) c).sram c ((he.regions.getD 3 (0, 0)).1 + m.routeOffset + (e % max 1 m.perCore) * i.maxRows * m.topK * 12))

/-- The entry lists written into the route areas of the holding cores, expert after expert (R195). -/
def Dev.writeRoutes (sector : Nat) (i : Image) (m : MoeEntry) (lists : List (List (Nat × Nat))) (mem : List Host.Cell) (d : Dev) : List Host.Cell :=
  ((List.range m.experts).zip lists).foldl (fun mem p =>
    match d.routeBase sector i m p.1 with
    | some a => Mem.writes a (routeBytes p.2) mem
    | none => mem) mem

/-- The entry lists of an MoE entry's experts from the ranked logits `j` (R195). -/
def Dev.routeLists (sector : Nat) (m : MoeEntry) (j : SelJob) (mem : List Host.Cell) (d : Dev) : List (List (Nat × Nat)) :=
  let host := d.hostOf sector m.selectCore
  (List.range m.experts).map (fun e => expertRows (d.engCtx host m.selectCore) j m (d.coreRun host).rows e mem)

/-- The routes of an MoE entry are written: the entry lists stand in the route areas, each expert's count in the `param0` of its commands
(R184), ROUTE_DONE is incremented on every core that holds its experts, and the entry is routed for this step. -/
def Dev.buildRoutes (sector entry : Nat) (i : Image) (m : MoeEntry) (j : SelJob) (mem : List Host.Cell) (d : Dev) : List Host.Cell × Dev :=
  let lists := d.routeLists sector m j mem
  let mem := d.writeRoutes sector i m lists mem
  let d := ((List.range m.experts).map (expertHolder m)).eraseDups.foldl
    (fun (d : Dev) c => d.imgUpd (d.hostOf sector c) c (fun r => { r with step := ListRun.bump 58 false r.step })) d
  let z := d.secImg sector
  let live := setCounts i m (lists.map List.length) z.live
  let d := d.secImgPut sector { z with live := live }
  (writeLists sector live z.hosts z.shadow mem, { d with sel := { d.sel with routed := (sector * 65536 + entry) :: d.sel.routed } })

/-- The ROUTE signals of the step on a Sector's cores: the n-th starts the route builder for MoE entry n − 1 (R171). -/
def Dev.routeSignals (sector : Nat) (d : Dev) : Nat :=
  ((d.hostCores sector).map (fun c => ((d.coreRun c).imgs.map (fun e => e.2.routes)).sum)).sum

/-- The ranking job of an MoE entry on its selecting core (R195). -/
def Dev.routeJob (sector : Nat) (m : MoeEntry) (mem : List Host.Cell) (d : Dev) : Option SelJob :=
  let host := d.hostOf sector m.selectCore
  (d.coreEntry host m.selectCore).bind (fun ce => (d.engCtx host m.selectCore).moeJob ce m mem)

/-- ROUTE_BUILD_DONE (R171, R195): the routes of an MoE entry are written, and ROUTE_DONE is incremented on every core that
holds its experts. -/
def execRouteBuildDone (sector entry t : Nat) (s : State) : Host.Outcome State Fault Refusal :=
  onServingMem (fun mem d =>
    let d := d.advance t
    match d.activeImg sector with
    | none => (mem, d)
    | some i =>
      match i.moe[entry]? with
      | none => (mem, d)
      | some m =>
        if d.routeSignals sector ≤ entry || d.sel.routed.contains (sector * 65536 + entry) then (mem, d)
        else
          match d.routeJob sector m mem with
          | none => (mem, d)
          | some j => d.buildRoutes sector entry i m j mem) s

end Sys2Proof.Machine
end

