-- ==== Sys2Proof/Machine/TokFile.lean ====
section
/-!
DEFINITION. Machine/TokFile.lean: vocabulary and grammar images as bytes: header, section table and sections (R265 to R271, R285 to R288, R457).
-/
namespace Sys2Proof.Machine

/-! ### Vocabulary images (R265 to R271) -/

/-- Bytes of an element of a vocabulary section; 0 for a kind that is not listed (R266). -/
def vocabElem (kind : Nat) : Nat :=
  match kind with
  | 1 => 4 | 2 => 12 | 3 => 1 | 4 => 16 | 5 => 16 | 6 => 4 | 7 => 2 | 8 => 2 | 9 => 16 | 10 => 40 | 11 => 16 | 15 => 1
  | _ => 0

/-- A trie node (R268). -/
def trieNodeOf (e : List Byte) : TrieNode := { value := fld e 0 4, first := fld e 4 4, next := fld e 8 4, byte := fld e 12 1 }

/-- A merge-table entry (R269). -/
def mergeOf (e : List Byte) : MergeEntry := { left := fld e 0 4, right := fld e 4 4, result := fld e 8 4, rank := fld e 12 4 }

/-- The two pieces of a piece index entry, out of the byte pool (R268). -/
def pieceOf (pool e : List Byte) : List Byte × List Byte := ((pool.drop (fld e 0 4)).take (fld e 8 1), (pool.drop (fld e 4 4)).take (fld e 9 1))

/-- The 256-byte pages of a class map (R270). -/
def classPagesOf (m : List Byte) : List (List Nat) := (elemsAt m 8704 256 ((m.length - 8704) / 256)).map (fun p => p.map BitVec.toNat)

/-- The reserved fields of a vocabulary are zero (R265, R267, R268, R271). -/
def vocabReserved (bs : List Byte) (secs : List (Nat × Nat × Nat)) : Bool :=
  let all (kind : Nat) (p : List Byte → Bool) : Bool := (sectionElems vocabElem bs secs kind).all p
  fld bs 6 2 / 8 == 0 && zeroAt bs 11 1 && zeroAt bs 0x2C 4 && zeroAt bs 0x58 40 && tableReserved bs secs &&
  all 1 (fun e => decide (fld e 0 4 < 128)) && all 2 (fun e => zeroAt e 10 2) && all 4 (fun e => zeroAt e 13 3) && all 9 (fun e => zeroAt e 13 3) &&
  all 10 (fun e => zeroAt e 1 7) && all 11 (fun e => zeroAt e 13 3) && sigReserved (sectionBytes vocabElem bs secs 15)

/-- The tables are as long as they must be, and what they name lies where they say: V attributes, pieces in the pool and, for a lattice, V
scores; 16 rows of the break matrix; a class map of 4,352 page numbers and whole pages (R266, R268, R270). -/
def vocabNames (bs : List Byte) (secs : List (Nat × Nat × Nat)) : Bool :=
  let v := fld bs 0x0C 4
  let count (kind : Nat) : Nat := ((secs.filter (fun s => s.1 == kind)).map (·.2.1)).sum
  let map := sectionBytes vocabElem bs secs 7
  count 1 == v && count 2 == v && (count 6 == v || !(secs.map (·.1)).contains 6) && count 8 == 16 && decide (8704 ≤ map.length) && (map.length - 8704) % 256 == 0 &&
  (List.range 4352).all (fun k => decide (fld map (2 * k) 2 < (map.length - 8704) / 256)) &&
  (sectionElems vocabElem bs secs 2).all (fun e => decide (fld e 0 4 + fld e 8 1 ≤ count 3) && decide (fld e 4 4 + fld e 9 1 ≤ count 3))

/-- The digest that the header holds is the SHA-256 over the contents of sections 1, 2 and 3 (R265). -/
def vocabDigestOk (bs : List Byte) (secs : List (Nat × Nat × Nat)) : Bool :=
  sha256Bytes (sectionBytes vocabElem bs secs 1 ++ sectionBytes vocabElem bs secs 2 ++ sectionBytes vocabElem bs secs 3) == (bs.drop 0x38).take 32

/-- A vocabulary image read from its bytes (R265 to R271). [DEDUCED: log entry 49] -/
def vocabOf (bs : List Byte) (v : SigVerdict) : VocabImage :=
  let n := fld bs 0x30 8
  let entries := fld bs 0x28 4
  let secs := sectionsOf entries bs
  let all (kind : Nat) : List (List Byte) := sectionElems vocabElem bs secs kind
  let kind := fld bs 8 1
  let flags := fld bs 6 2
  let map := sectionBytes vocabElem bs secs 7
  { magic := fld bs 0 4, version := fld bs 4 2,
    sectionsOk := decide (n ≤ bs.length) &&
      tableOk vocabElem entries [] ([1, 2, 3, 4, 7, 8, 15] ++ (if kind = 0 then [5] else [6])) n secs && vocabReserved bs secs && vocabNames bs secs &&
      decide (fld bs 10 1 ≤ 8) && vocabDigestOk bs secs,
    sig := signatureOf (sectionBytes vocabElem bs secs 15) v, byteLevel := flags.testBit 0, prefixOn := flags.testBit 1, specialInText := flags.testBit 2,
    kind := kind, invalidMode := fld bs 9 1, pre := (bs.drop 0x20).take (min 8 (fld bs 10 1)), endToken := fld bs 0x10 4, unkToken := fld bs 0x14 4,
    byteBase := fld bs 0x18 4, unkScore := fld bs 0x1C 4, imageLength := n, digest := fld bs 0x38 32, attrs := (all 1).map (fun e => fld e 0 4),
    pieces := (all 2).map (pieceOf (sectionBytes vocabElem bs secs 3)), trie := (all 4).map trieNodeOf, merges := (all 5).map mergeOf,
    scores := (all 6).map (fun e => fld e 0 4), classPages := (List.range 4352).map (fun k => fld map (2 * k) 2), classBytes := classPagesOf map,
    breaks := (all 8).map (fun e => fld e 0 2), normTrie := (all 9).map trieNodeOf, normRules := (all 10).map (fun e => (e.drop 8).take (fld e 0 1)),
    specialTrie := (all 11).map trieNodeOf }

/-! ### Grammar images (R285 to R287) -/

/-- Bytes of an element of a grammar section; 0 for a kind that is not listed (R285). -/
def gramElem (kind : Nat) : Nat :=
  match kind with
  | 1 => 16 | 2 => 8 | 3 => 24 | 4 => 1 | 5 => 4 | 15 => 1
  | _ => 0

/-- A state-table entry (R286). -/
def gramStateOf (e : List Byte) : GramState :=
  { edgeFirst := fld e 0 4, edgeCount := fld e 4 2, returnable := (fld e 6 1).testBit 0, final := (fld e 6 1).testBit 1, maskRef := fld e 8 4 }

/-- An edge (R286). -/
def gramEdgeOf (e : List Byte) : GramEdge := { lo := fld e 0 1, hi := fld e 1 1, call := fld e 2 1 == 1, target := fld e 4 2, ret := fld e 6 2 }

/-- Four-byte token IDs. -/
def idsOf (bs : List Byte) (off count : Nat) : List Nat := (elemsAt bs off 4 count).map leNat

/-- A mask-table entry with its data of section 4 and its list of section 5; both offsets are taken in bytes (R287). [DESIGN CHOICE: log entry 49] -/
def gramMaskEntry (data lists e : List Byte) : GramMask :=
  let kind := fld e 0 1
  let off := fld e 4 4
  let n := fld e 8 4
  { kind := kind, bitmap := if kind = 0 then (data.drop off).take n else [],
    ids := if kind = 0 then [] else idsOf data off (min n data.length), ctx := idsOf lists (fld e 12 4) (min (fld e 16 4) lists.length) }

/-- The reserved fields of a grammar are zero, and an edge's kind is SHIFT or CALL (R285 to R287). -/
def gramReserved (bs : List Byte) (secs : List (Nat × Nat × Nat)) : Bool :=
  let all (kind : Nat) (p : List Byte → Bool) : Bool := (sectionElems gramElem bs secs kind).all p
  zeroAt bs 6 2 && zeroAt bs 0x0E 2 && zeroAt bs 0x40 64 && tableReserved bs secs &&
  all 1 (fun e => decide (fld e 6 1 < 4) && zeroAt e 7 1 && zeroAt e 12 4) && all 2 (fun e => decide (fld e 2 1 ≤ 1) && zeroAt e 3 1) &&
  all 3 (fun e => zeroAt e 1 3 && zeroAt e 20 4) && sigReserved (sectionBytes gramElem bs secs 15)

/-- The state table has the entries that the header tells, and mask data and context-dependent lists lie in their sections (R285, R287). -/
def gramNames (bs : List Byte) (secs : List (Nat × Nat × Nat)) : Bool :=
  let count (kind : Nat) : Nat := ((secs.filter (fun s => s.1 == kind)).map (·.2.1)).sum
  count 1 == fld bs 8 4 &&
  (sectionElems gramElem bs secs 3).all (fun e =>
    decide (fld e 4 4 + (if fld e 0 1 = 0 then 1 else 4) * fld e 8 4 ≤ count 4) && decide (fld e 12 4 + 4 * fld e 16 4 ≤ 4 * count 5))

/-- A grammar image read from its bytes (R285 to R288). [DEDUCED: log entry 49] -/
def gramOf (bs : List Byte) (v : SigVerdict) : GramImage :=
  let n := fld bs 0x38 8
  let entries := fld bs 0x34 4
  let secs := sectionsOf entries bs
  let all (kind : Nat) : List (List Byte) := sectionElems gramElem bs secs kind
  { magic := fld bs 0 4, version := fld bs 4 2,
    sectionsOk := decide (n ≤ bs.length) && tableOk gramElem entries [] [1, 2, 3, 4, 5, 15] n secs && gramReserved bs secs && gramNames bs secs,
    sig := signatureOf (sectionBytes gramElem bs secs 15) v, start := fld bs 0x0C 2, vocabDigest := fld bs 0x10 32, tokens := fld bs 0x30 4, imageLength := n,
    states := (all 1).map gramStateOf, edges := (all 2).map gramEdgeOf,
    masks := (all 3).map (gramMaskEntry (sectionBytes gramElem bs secs 4) (sectionBytes gramElem bs secs 5)) }

/-- An image of either kind read from its bytes (R262). -/
def tokImageOf (isGram : Bool) (bs : List Byte) (v : SigVerdict) : TokImage := if isGram then .gram (gramOf bs v) else .vocab (vocabOf bs v)

end Sys2Proof.Machine
end

