-- ==== Sys2Proof/Machine/Tokens.lean ====
section
/-!
DEFINITION. Machine/Tokens.lean: vocabulary and grammar slots, the tokenizer's lanes, TAIL's record of a turn, and the grammar
engine's mask jobs (R260 to R264, R272 to R274, R281, R282, R291 to R299, R502).
-/
namespace Sys2Proof.Machine

/-! ### Slots (R260 to R264) -/

/-- Bytes of the token region that images take. -/
def Dev.tokUsed (d : Dev) : Nat := (d.tok.vocabs.map (fun e => e.2.bytes.length)).sum + (d.tok.grams.map (fun e => e.2.bytes.length)).sum

/-- Free bytes of the token region (R262). -/
def Dev.tokFree (d : Dev) : Nat := d.get Reg.TOK_SPACE.size_mib * 2 ^ 20 - d.tokUsed

/-- The slot holds a resident image: one whose unload waits for its boundary still does (R263). -/
def SlotPhase.holds : SlotPhase → Bool
  | .resident => true
  | .unloading => true
  | _ => false

/-- The lowest resident vocabulary whose digest is `dig` (R262, R305). -/
def Dev.vocabFor (dig : Nat) (d : Dev) : Option (Nat × VocabSlot) := d.tok.vocabs.find? (fun e => e.2.phase.holds && e.2.img.digest == dig)

/-- The slot of an image is taken (R262 check 1). -/
def Dev.slotTaken (isGram : Bool) (id : Nat) (d : Dev) : Bool := if isGram then Tab.has id d.tok.grams else Tab.has id d.tok.vocabs

/-- Checks 2 to 5 of R262 on an image of `length` bytes, in order. -/
def Dev.tokCheck (length : Nat) (img : TokImage) (d : Dev) : Nat :=
  if d.tokFree < length then ST.TOK_NOSPACE
  else
    match img with
    | .vocab v => if !d.imageSigOk v.sig then ST.TOK_SIGNATURE else if vocabFormatOk v then ST.OK else ST.TOK_FORMAT
    | .gram g =>
      if !d.imageSigOk g.sig then ST.TOK_SIGNATURE
      else
        match d.vocabFor g.vocabDigest with
        | some (_, v) => if gramFormatOk g v.img.attrs.length then ST.OK else ST.TOK_FORMAT
        | none => if gramFormatOk g g.tokens then ST.GRM_VOCAB else ST.TOK_FORMAT

/-- Put an image into its slot, its bytes into the token region. -/
def Dev.putSlot (id sectors : Nat) (bytes : List Byte) (img : TokImage) (phase : SlotPhase) (ent : Option Ent) (d : Dev) : Dev :=
  match img with
  | .vocab v => { d with tok := { d.tok with vocabs := Tab.put id ⟨bytes, v, sectors, phase, d.now, ent⟩ d.tok.vocabs } }
  | .gram g => { d with tok := { d.tok with grams := Tab.put id ⟨bytes, g, sectors, phase, d.now, ent⟩ d.tok.grams } }

/-- Empty a slot. -/
def Dev.delSlot (isGram : Bool) (id : Nat) (d : Dev) : Dev :=
  { d with tok := if isGram then { d.tok with grams := Tab.del id d.tok.grams } else { d.tok with vocabs := Tab.del id d.tok.vocabs } }

/-- The checks of R260, then `f`. -/
def Dev.tokCommand (hdr : EntryHdr) (limit id t : Nat) (f : Ent → Dev → Dev) (d : Dev) : Dev :=
  (d.advance t).ownerAdmin hdr ST.TOK_DENIED (fun e d =>
    if !d.isHead then d.complete e ST.TOK_NOTHEAD 0
    else if limit ≤ id then d.complete e ST.TOK_SLOT 0
    else f e d)

/-- The BULK flits of an image: 248 bytes each, the last filled up with zeros (R502). [DEDUCED: log entry 48] -/
def bulkFlits (transfer : Nat) (bytes : List Byte) : List Emission :=
  (List.range (ceilDiv bytes.length 248)).map (fun k =>
    let x := (bytes.drop (248 * k)).take 248
    .bulk transfer (248 * k) (x ++ List.replicate (248 - x.length) 0))

/-- A load (R262): checked on HEAD, then sent to TAIL; in a SOLO group it waits for its boundary at once. -/
def Dev.tokLoad (isGram : Bool) (e : Ent) (id sectors length : Nat) (bytes : List Byte) (v : SigVerdict) (d : Dev) : Dev :=
  if d.slotTaken isGram id then d.complete e ST.TOK_OCCUPIED 0
  else
    let img := tokImageOf isGram bytes v
    let st := d.tokCheck length img
    let d := if st = ST.TOK_SIGNATURE then d.sigRefused else d
    if st ≠ ST.OK then d.complete e st 0
    else if d.isSolo then d.putSlot id sectors bytes img .checked (some e)
    else
      let n := d.tok.xferSeq
      let d := d.putSlot id sectors bytes img .loading (some e)
      let d : Dev := { d with tok := { d.tok with xferSeq := wrap 32 (n + 1) } }
      (bulkFlits n bytes).foldl (fun d f => d.emit f) (d.emit (.bulkStart n bytes.length (beNat (sha256Bytes bytes)) isGram id sectors))

/-- The bytes that a load reads: host memory's through the port, or a tier-1 fall-back address's; the command names Sectors by a mask, and the
address is taken in the lowest of them (R186, R261). [DESIGN CHOICE: log entry 48] -/
def tokSource (sectors kind source length : Nat) (host : List Byte) (mem : List Host.Cell) : List Byte :=
  loadSource (((List.range 16).find? sectors.testBit).getD 0) kind source length host mem

/-- VOCAB_LOAD (R260, R262). -/
def execVocabLoad (hdr : EntryHdr) (id sectors kind source length : Nat) (host : List Byte) (sig : SigVerdict) (t : Nat) (s : State) :
    Host.Outcome State Fault Refusal :=
  onServingMem (fun mem d => (mem, d.tokCommand hdr 16 id t (fun e => Dev.tokLoad false e id sectors length (tokSource sectors kind source length host mem) sig))) s

/-- GRAMMAR_LOAD (R260, R262). -/
def execGrammarLoad (hdr : EntryHdr) (id sectors kind source length : Nat) (host : List Byte) (sig : SigVerdict) (t : Nat) (s : State) :
    Host.Outcome State Fault Refusal :=
  onServingMem (fun mem d => (mem, d.tokCommand hdr 64 id t (fun e => Dev.tokLoad true e id sectors length (tokSource sectors kind source length host mem) sig))) s

/-- Is a vocabulary in use (R263)? -/
def Dev.vocabInUse (id : Nat) (v : VocabImage) (d : Dev) : Bool :=
  d.ses.buoys.any (fun e => e.2.state != 0 && e.2.vocab == id) || d.srv.turns.any (fun e => e.2.entry.vocab == id) ||
  (d.tok.grams.any (fun g => g.2.img.vocabDigest == v.digest) &&
    !d.tok.vocabs.any (fun w => w.1 != id && w.2.phase.holds && w.2.img.digest == v.digest))

/-- VOCAB_UNLOAD (R263). -/
def execVocabUnload (hdr : EntryHdr) (id t : Nat) (s : State) : Host.Outcome State Fault Refusal :=
  onServing (fun d => d.tokCommand hdr 16 id t (fun e d =>
    match Tab.look id d.tok.vocabs with
    | some v =>
      if v.phase != .resident then d.complete e ST.TOK_FREE 0
      else if d.vocabInUse id v.img then d.complete e ST.TOK_INUSE 0
      else d.putSlot id v.sectors v.bytes (.vocab v.img) .unloading (some e)
    | none => d.complete e ST.TOK_FREE 0)) s

/-- GRAMMAR_UNLOAD (R263). -/
def execGrammarUnload (hdr : EntryHdr) (id t : Nat) (s : State) : Host.Outcome State Fault Refusal :=
  onServing (fun d => d.tokCommand hdr 64 id t (fun e d =>
    match Tab.look id d.tok.grams with
    | some g =>
      if g.phase != .resident then d.complete e ST.TOK_FREE 0
      else if d.srv.turns.any (fun x => x.2.entry.grammarOn && x.2.entry.grammarId == id) then d.complete e ST.TOK_INUSE 0
      else d.putSlot id g.sectors g.bytes (.gram g.img) .unloading (some e)
    | none => d.complete e ST.TOK_FREE 0)) s

/-- The checked load or the unload of one slot takes effect, if `due` holds of its start. -/
def Dev.settleVocab (due : Nat → Bool) (d : Dev) (p : Nat × VocabSlot) : Dev :=
  if !due p.2.since then d
  else
    match p.2.phase with
    | .checked => (d.putSlot p.1 p.2.sectors p.2.bytes (.vocab p.2.img) .resident none).completeOpt p.2.ent ST.OK 0
    | .unloading => (d.delSlot false p.1).completeOpt p.2.ent ST.OK 0
    | _ => d

/-- The same of a grammar slot. -/
def Dev.settleGram (due : Nat → Bool) (d : Dev) (p : Nat × GramSlot) : Dev :=
  if !due p.2.since then d
  else
    match p.2.phase with
    | .checked => (d.putSlot p.1 p.2.sectors p.2.bytes (.gram p.2.img) .resident none).completeOpt p.2.ent ST.OK 0
    | .unloading => (d.delSlot true p.1).completeOpt p.2.ent ST.OK 0
    | _ => d

/-- Checked loads become resident and unloads take effect, where `due` holds of their start (R262, R263). [DEDUCED: log entry 48] -/
def Dev.settleSlots (due : Nat → Bool) (d : Dev) : Dev :=
  let d := d.tok.vocabs.foldl (Dev.settleVocab due) d
  d.tok.grams.foldl (Dev.settleGram due) d

/-- TOKEN_SLOT_TIMER (R262, R263): 1 ms without a boundary. [DEDUCED: log entry 48] -/
def execTokenSlotTimer (t : Nat) (s : State) : Host.Outcome State Fault Refusal :=
  onServing (fun d =>
    let d := d.advance t
    d.settleSlots (fun since => decide (since + ms 1 ≤ d.now))) s

/-- BULK_START on TAIL (R262, R502): it announces an image; a slot that HEAD loads again is free on HEAD, so it is freed here. [DEDUCED: log entry 48] -/
def execBulkStart (transfer length sha : Nat) (isGram : Bool) (id sectors : Nat) (s : State) : Host.Outcome State Fault Refusal :=
  onServing (fun d =>
    if d.isTail && !d.isSolo then
      let d := d.delSlot isGram id
      { d with tok := { d.tok with xfers := Tab.put transfer ⟨isGram, id, sectors, length, sha, []⟩ d.tok.xfers } }
    else d.emit (.bulkStart transfer length sha isGram id sectors)) s

/-- BULK on TAIL (R262, R502): once every byte of an announced image has come, TAIL repeats the checks and reports to HEAD; an image that does
not have the announced SHA-256 is refused as unsigned. A chip between passes the flit on. [DEDUCED: log entry 48] -/
def execBulk (transfer offset : Nat) (bytes : List Byte) (sig : SigVerdict) (s : State) : Host.Outcome State Fault Refusal :=
  onServing (fun d =>
    if !d.isTail then d.emit (.bulk transfer offset bytes)
    else
      match Tab.look transfer d.tok.xfers with
      | none => d
      | some x =>
        if offset ≠ x.data.length then d
        else
          let data := (x.data ++ bytes).take x.length
          if data.length < x.length then { d with tok := { d.tok with xfers := Tab.put transfer { x with data := data } d.tok.xfers } }
          else
            let d : Dev := { d with tok := { d.tok with xfers := Tab.del transfer d.tok.xfers } }
            let img := tokImageOf x.isGram data sig
            let st := if beNat (sha256Bytes data) ≠ x.sha then (if d.tokFree < x.length then ST.TOK_NOSPACE else ST.TOK_SIGNATURE) else d.tokCheck x.length img
            let d := if st = ST.TOK_SIGNATURE then d.sigRefused else d
            (if st = ST.OK then d.putSlot x.id x.sectors data img .checked none else d).emit (.tokReport x.isGram x.id st)) s

/-- TOKEN_IMAGE_CHECK_REPORT on HEAD (R262). [DEDUCED: log entry 48] -/
def execTokenImageCheckReport (isGram : Bool) (id status t : Nat) (s : State) : Host.Outcome State Fault Refusal :=
  onServing (fun d =>
    let d := d.advance t
    if isGram then
      (match Tab.look id d.tok.grams with
       | some g =>
         if g.phase != .loading then d
         else if status = ST.OK then d.putSlot id g.sectors g.bytes (.gram g.img) .checked g.ent
         else (d.delSlot true id).completeOpt g.ent status 0
       | none => d)
    else
      match Tab.look id d.tok.vocabs with
      | some v =>
        if v.phase != .loading then d
        else if status = ST.OK then d.putSlot id v.sectors v.bytes (.vocab v.img) .checked v.ent
        else (d.delSlot false id).completeOpt v.ent status 0
      | none => d) s

/-- Is a vocabulary resident for a turn of a Sector (R264)? -/
def Dev.vocabFits (id n : Nat) (d : Dev) : Bool := match Tab.look id d.tok.vocabs with | some v => v.phase.holds && v.sectors.testBit n | none => false

/-- Is a grammar resident for a turn with a vocabulary (R264)? -/
def Dev.gramFits (id vocab n : Nat) (d : Dev) : Bool :=
  match Tab.look id d.tok.grams, Tab.look vocab d.tok.vocabs with
  | some g, some v => g.phase.holds && g.img.vocabDigest == v.img.digest && g.sectors.testBit n
  | _, _ => false

/-! ### The tokenizer (R272 to R274, R281, R282) -/

/-- A turn that holds no row of a running step ends at once; one that does ends when its row's step has been heard of (R206). -/
def Dev.failTurn (sid reason status : Nat) (d : Dev) : Dev :=
  match d.turnOf sid with
  | some t =>
    if t.st == .running || t.st == .ending then
      d.turnUpd sid (fun t => if t.endReason = 0 then { t with endReason := reason, endStatus := status } else t)
    else d.endTurn sid reason status
  | none => d

/-- The Sector of a session at HEAD. -/
def Dev.turnSector (sid : Nat) (d : Dev) : Nat := (d.rangeSector sid).getD 16

/-- Is a turn's next entry ready for a lane (R207, R282)? [DEDUCED: log entry 38] -/
def Dev.textReady (sid : Nat) (t : Turn) (d : Dev) : Bool :=
  !t.texts.isEmpty && t.endReason == 0 &&
  (match d.buoy sid with
   | some b => decide (b.ctrlLoc.tier ≤ 1) || (b.ctrlLoc.tier == 3 && (b.state == 1 || b.state == 2))
   | none => false)

/-- The session whose entry a lane takes next: of the first Sector after the last one served that has a ready entry, the oldest
(R282). -/
def Dev.nextText (d : Dev) : Option Nat :=
  let ready := d.srv.turns.filter (fun e => d.textReady e.1 e.2)
  match ((List.range 16).map (fun k => (d.tok.lastSector + 1 + k) % 16)).find? (fun n => ready.any (fun e => d.turnSector e.1 == n)) with
  | none => none
  | some n =>
    ((ready.filter (fun e => d.turnSector e.1 == n)).foldl (fun (best : Option (Nat × Nat)) e =>
      let o := match e.2.texts.head? with | some p => p.order | none => 0
      match best with
      | none => some (e.1, o)
      | some b => if o < b.2 then some (e.1, o) else best) none).map (·.1)

/-- The counters of a tokenized entry (R273, R274, R302, R303). -/
def Dev.countText (bytes : Nat) (o : TokOut) (d : Dev) : Dev :=
  let d := ((d.bump Reg.TOK_BYTES_IN.count bytes).bump Reg.TOK_TOKENS_OUT.count o.toks.length).bump Reg.TOK_INVALID.count o.bad
  let d := if o.bad ≠ 0 then d.flag Reg.TOK_ERR.invalid else d
  let d := if o.cut then d.flag Reg.TOK_ERR.pretoken_cut else d
  let d := if o.unk then d.flag Reg.TOK_ERR.unk else d
  if o.carry.isEmpty then d else d.bump Reg.TOK_CARRIED.count 1

/-- One entry of a turn is tokenized (R272, R281). [DEDUCED: log entry 38] -/
def Dev.takeText (sid : Nat) (t : Turn) (p : TextPiece) (v : VocabImage) (m : Moor) (d : Dev) : Dev :=
  let o := tokenizeText v p.isTurn p.more m.ctrl.carry p.text
  let d : Dev := { (d.countText p.text.length o) with tok := { d.tok with lastSector := d.turnSector sid } }
  let d := d.turnUpd sid (fun t => { t with texts := t.texts.drop 1 })
  if o.rejected then
    let d := d.flag Reg.TOK_ERR.rejected
    let d := if p.isTurn then d else d.complete p.ent ST.TOK_INVALID 0
    d.failTurn sid 7 ST.TOK_INVALID
  else
    let held := if p.isTurn then m.ctrl.held.toList else []
    let d := d.ctrlUpd sid (fun c => { c with carry := o.carry.map (BitVec.ofNat 8) })
    let d := if p.isTurn then d else d.complete p.ent ST.OK 0
    let d := (d.turnUpd sid (fun t => { t with input := t.input ++ held ++ o.toks, log := t.log ++ held ++ o.toks, textOpen := p.more })).growLog sid
    if !p.more && t.log.isEmpty && held.isEmpty && o.toks.isEmpty then d.failTurn sid 7 ST.SRV_EMPTY else d

/-- TOKENIZE_ENTRY (R272, R282): a free lane takes the next ready entry and tokenizes it. -/
def execTokenizeEntry (t : Nat) (s : State) : Host.Outcome State Fault Refusal :=
  onServing (fun d =>
    let d := d.advance t
    match d.nextText with
    | none => d
    | some sid =>
      match d.turnOf sid, d.moor sid with
      | some u, some m =>
        (match u.texts.head?, d.vocab u.entry.vocab with
         | some p, some v => d.takeText sid u p v m
         | _, _ => d)
      | _, _ => d) s

/-! ### TAIL's record of a turn (R292) -/

/-- The egress queue of a turn is a running streaming-egress queue of the Sector (R205, R292). -/
def Dev.egressFits (q n : Nat) (d : Dev) : Bool :=
  match Tab.look q d.que with | some u => u.kind == 2 && u.st == .running && u.sector == n && !u.pf | none => false

/-- TAIL writes a turn's fields into its Buoy and sets the committed grammar configuration to (start_state, empty stack), once the
session has a Buoy there (R292). [DEDUCED: log entry 41] -/
def Dev.applyTurn (sid : Nat) (d : Dev) : Dev :=
  match d.tailTurn sid, d.buoy sid with
  | some c, some _ =>
    if c.applied then d
    else
      let start := match d.gram c.grammarId with | some g => if c.grammarOn then g.start else 0 | none => 0
      let d := d.buoyUpd sid (fun b => { b with vocab := c.vocab, grammarId := c.grammarId, grammarOn := c.grammarOn })
      let d := d.ctrlUpd sid (fun k => { k with grmState := start, grmStack := [], seed := c.seed, turnBytes := 0 })
      { d with srv := { d.srv with tail := Tab.put sid { c with applied := true } d.srv.tail } }
  | _, _ => d

/-- TAIL holds the vocabulary and the grammar that a turn names (R292). [DEDUCED: log entry 41] -/
def Dev.turnRuns (c : TurnCfg) (d : Dev) : Bool := (d.vocab c.vocab).isSome && (!c.grammarOn || (d.gram c.grammarId).isSome)

/-- TAIL takes a turn's configuration (R292). [DEDUCED: log entry 41] -/
def Dev.takeTurnCfg (c : TurnCfg) (d : Dev) : Dev :=
  let t : TailTurn := { tag := c.tag, vocab := c.vocab, grammarId := c.grammarId, grammarOn := c.grammarOn, deadEnd := c.deadEnd, tokenIds := c.tokenIds,
                        noSpec := c.noSpec, egress := c.egress, maxNew := c.maxNew, seed := c.seed, temperature := c.temperature, topK := c.topK,
                        topP := c.topP, minP := c.minP, applied := false, emitted := 0, ended := false,
                        egressOk := d.egressFits c.egress (d.turnSector c.sid) && d.turnRuns c, overrun := false, gone := false }
  ({ d with srv := { d.srv with tail := Tab.put c.sid t d.srv.tail } } : Dev).applyTurn c.sid

/-- TURN_CFG (R292): TAIL takes it; a chip between passes it on. -/
def execTurnCfg (c : TurnCfg) (s : State) : Host.Outcome State Fault Refusal :=
  onServing (fun d => if d.isTail then d.takeTurnCfg c else d.emit (.turnCfg c)) s

/-! ### Mask jobs (R291, R294 to R299) -/

/-- The sampled rows of a step that need a mask, in ascending step row (R295). -/
def Dev.jobRows (s : Step) (d : Dev) : List MaskRow :=
  (stepPositions s.rows 0).foldl (fun l p =>
    if p.2.2 ≠ 0 then l
    else
      match d.tailTurn p.1.sid with
      | some t =>
        if !d.needsMask t then l
        else
          let drafts := if p.1.tree then (Tab.getD p.1.sid (0, [], []) d.srv.nextTree).2.1 else []
          l ++ (sampledRows p.1 p.2.1).map (fun q => ⟨q.1, p.1.sid, pathTokens drafts p.1.parents 16 q.2, none, false⟩)
      | none => l) []

/-- The step of a batch whose ROW flits have arrived and that has no mask job yet, the earlier one first (R295). -/
def Dev.jobStep (n batch : Nat) (d : Dev) : Option Step :=
  match Tab.look (n * 256 + batch) d.srv.batches with
  | none => none
  | some b => (b.running.toList ++ b.next.toList).find? (fun s => !s.leaveOnly && s.rows.length == s.rowsTotal && !(Tab.getD n [] d.grm.jobs).any (fun j => j.step == s.number))

/-- MASK_JOB_START (R295): the job reads the pool's size for all its masks. [DEDUCED: log entry 50] -/
def execMaskJobStart (sector batch t : Nat) (s : State) : Host.Outcome State Fault Refusal :=
  onServing (fun d =>
    let d := d.advance t
    if !d.isTail then d
    else
      match d.jobStep sector batch with
      | none => d
      | some s =>
        let j : MaskJob := ⟨batch, s.number, max 1 (d.get (Reg.GRM_POOL.slots sector)), d.jobRows s⟩
        { d with grm := { d.grm with jobs := Tab.put sector (Tab.getD sector [] d.grm.jobs ++ [j]) d.grm.jobs } }) s

/-- The next unfinished row of a Sector's oldest job (R296). [DEDUCED: log entry 50] -/
def Dev.nextMask (n : Nat) (d : Dev) : Option (MaskJob × MaskRow) :=
  (Tab.getD n [] d.grm.jobs).findSome? (fun j => (j.rows.find? (fun r => !r.ready)).map (fun r => (j, r)))

/-- The ring's next area, if it is free (R295). [DEDUCED: log entry 50] -/
def Dev.nextArea (n slots : Nat) (d : Dev) : Option Nat :=
  let p := Tab.getD n (0, []) d.grm.pools
  let a := p.1 % slots
  if p.2.any (fun u => u.1 == a) then none else some a

/-- The Sector has a mask to build and an area for it. [DEDUCED: log entry 50] -/
def Dev.canMask (n : Nat) (d : Dev) : Bool :=
  match d.nextMask n with
  | some (j, r) => r.area.isSome || (d.nextArea n j.slots).isSome
  | none => false

/-- A selection unit of the Sector waits on a mask (R296). -/
def Dev.maskWaits (n : Nat) (d : Dev) : Bool := d.sel.runs.any (fun e => e.2.waiting.isSome && d.coreSector (e.1 / 32) == n)

/-- The Sector that the engine serves: one whose selection unit waits, else the one whose slice runs, else the next in the
rotation (R296). [DEDUCED: log entry 50] -/
def Dev.served (d : Dev) : Option Nat :=
  match (List.range 16).find? (fun n => d.maskWaits n && d.canMask n) with
  | some n => some n
  | none => ((List.range 16).map (fun k => (d.grm.turn + k) % 16)).find? d.canMask

/-- GRM_SLICE_END (R296): the slice of the Sector served ends, and the rotation goes on with the Sector after it; a Sector whose
selection unit waits keeps being served. [DEDUCED: log entry 50] -/
def execGrmSliceEnd (t : Nat) (s : State) : Host.Outcome State Fault Refusal :=
  onServing (fun d =>
    let d := d.advance t
    match d.served with
    | some n => if d.maskWaits n then d else { d with grm := { d.grm with turn := (n + 1) % 16 } }
    | none => d) s

/-- The counters of a mask's checks (R289, R306, R307). -/
def Dev.countMask (x : Nat × Nat × Bool) (d : Dev) : Dev :=
  let d := ((d.bump Reg.GRM_MASKS.count 1).bump Reg.GRM_CTX_CHECKS.count x.1).bump Reg.GRM_EPS_LIMIT.count x.2.1
  let d := if x.2.1 ≠ 0 then d.flag Reg.GRM_ERR.eps_limit else d
  if x.2.2 then d.flag Reg.GRM_ERR.stack_limit else d

/-- The context-dependent checks that a row's mask runs: none without a grammar or for an unreachable node (R291, R294). -/
def Dev.maskChecks (r : MaskRow) (t : TailTurn) (d : Dev) : Nat × Nat × Bool :=
  match t.grammarOn, d.gram t.grammarId, d.vocab t.vocab, d.moor r.sid with
  | true, some g, some v, some m => (match gramAlong g v r.path (ctrlCfg m.ctrl) with | some c => gramCtxChecks g v c | none => (0, 0, false))
  | _, _, _, _ => (0, 0, false)

/-- The row table of a step: where a core that runs it has read SEL_ROWTABn for it, that address (R241, R257). -/
def Dev.stepTab (n step : Nat) (d : Dev) : Nat :=
  match (List.range 32).find? (fun c => d.coreSector c == n && d.inStep c && (d.coreRun c).stepNo == step) with
  | some c => (d.coreRun c).rowTab
  | none => d.rowTab n step

/-- MASK_READY (R291, R294, R295): the mask of the row that the engine builds is written to its area, its address to the row
table, and the row is marked ready. -/
def execMaskReady (sector row t : Nat) (s : State) : Host.Outcome State Fault Refusal :=
  onServingMem (fun mem d =>
    let d := d.advance t
    if d.served ≠ some sector then (mem, d)
    else
      match d.nextMask sector with
      | none => (mem, d)
      | some (j, r) =>
        match r.area.or (d.nextArea sector j.slots), d.tailTurn r.sid with
        | some a, some u =>
          if r.row ≠ row then (mem, d)
          else
            let addr := d.areaAddr sector j.slots a
            let bits := d.nodeMask r.sid u r.path
            let mem := Mem.writes (fbAddr sector addr) (bitsToBytes 32768 bits) (Mem.zero (fbAddr sector addr) 32768 mem)
            let tab := d.stepTab sector j.step
            let mem := if tab / 2 ^ 62 = 1 then Mem.writes (fbAddr sector (tab + 16 * row + 8)) (leBytes 8 addr) mem else mem
            let d := d.countMask (d.maskChecks r u)
            let p := Tab.getD sector (0, []) d.grm.pools
            let done (q : MaskRow) : MaskRow := if q.row = row then { q with area := some a, ready := true } else q
            let jobs := (Tab.getD sector [] d.grm.jobs).map (fun k => if k.step = j.step then { k with rows := k.rows.map done } else k)
            (mem, { d with grm := { d.grm with jobs := Tab.put sector jobs d.grm.jobs, pools := Tab.put sector (a + 1, p.2 ++ [(a, j.step * 65536 + row)]) d.grm.pools } })
        | _, _ => (mem, d)) s

end Sys2Proof.Machine
end

