-- ==== Sys2Proof/Machine/Turns.lean ====
section
/-!
DEFINITION. Machine/Turns.lean: TURN, TURN_TEXT and CANCEL at HEAD (R191, R203 to R208, R231).
-/
namespace Sys2Proof.Machine

/-- The queue that an entry came through. -/
def Dev.entQueue (e : Ent) (d : Dev) : Option Queue := match e.src with | .queue q => Tab.look q d.que | _ => none

/-- A text lies inside the queue's payload window (R205, R206). -/
def Dev.inWindow (e : Ent) (offset length : Nat) (d : Dev) : Bool :=
  match d.entQueue e with | some u => decide (offset + length ≤ (if u.payloadLog2 = 0 then 0 else 2 ^ u.payloadLog2)) | none => false

/-- Check 3 of R205; the Buoy is read only where the ID is the Sector's (R44). -/
def Dev.turnParams (n : Nat) (x : TurnEntry) (d : Dev) : Nat :=
  if d.vocabFits x.vocab n && (!x.grammarOn || d.gramFits x.grammarId x.vocab n) && decide (x.topK ≤ 1024) &&
      (!d.isSolo || d.egressFits x.egress n) && d.acctOf x.account n &&
      (!d.ownSession n x.sid || (match d.buoy x.sid with | some b => b.ctx == 0 || b.vocab == x.vocab | none => true)) then ST.OK
  else ST.SRV_BADPARAM

/-- Check 4 of R205: R44, R47, R48 and R121 in that order; a busy session's turn is held, whatever its state. -/
def Dev.turnSession (n : Nat) (x : TurnEntry) (d : Dev) : Nat :=
  if !d.ownSession n x.sid then ST.SES_UNKNOWN
  else if (d.turnOf x.sid).isSome then ST.SES_BUSY
  else if d.busyNow x.sid then ST.OK
  else
    match d.buoy x.sid with
    | some b => if b.state = 8 then ST.SES_LOST else if b.state = 7 then ST.SES_REMOTE else ST.OK
    | none => ST.OK

/-- Check 5 of R205: the tool sequence (R231). -/
def Dev.turnTool (x : TurnEntry) (d : Dev) : Nat :=
  if x.toolSeq = 0 then ST.OK
  else
    match d.buoy x.sid with
    | some b => if b.toolPending && b.toolSeq == x.toolSeq then ST.OK else ST.SRV_TOOLSEQ
    | none => ST.SRV_TOOLSEQ

/-- The result of a refused TURN: the destination for ST_SES_REMOTE (R92, R121). [DESIGN CHOICE: log entry 36; DEDUCED: log entry 38] -/
def Dev.turnRefusal (x : TurnEntry) (st : Nat) (d : Dev) : Nat :=
  if st = ST.SES_REMOTE then (match d.buoy x.sid with | some b => b.remGroup + b.remChip * 0x10000 | none => 0) else 0

/-- An accepted turn is tracked, its text waits for the tokenizer, and its session goes on from its state (R43, R47, R207); a revive of the second
class that it is held on moves to the first (R106). A turn that could not wait for its revive leaves the session as it was; any other clears
the pending tool call and the park policy (R106, R231, R232). -/
def Dev.startTurn (e : Ent) (x : TurnEntry) (d : Dev) : Dev :=
  let p : TextPiece := ⟨e, x.text, x.more, true, d.tok.arrivals⟩
  let t : Turn := { ent := e, entry := x, st := .held, textOpen := true, texts := [p], input := [], log := [], replay := [], back := 0, emitted := 0,
                    charged := 0, cancels := [], endReason := 0, endStatus := ST.OK, readyAt := d.daymark, ran := false }
  let d : Dev := { d with srv := { d.srv with turns := Tab.put x.sid t d.srv.turns }, tok := { d.tok with arrivals := d.tok.arrivals + 1 } }
  let d := d.opUpd x.sid (fun o => if o.opcode == 0x22 && o.pass == .waiting then { o with firstClass := true } else o)
  let d := d.resumeTurn x.sid
  if (d.turnOf x.sid).isSome then (d.buoyUpd x.sid (fun b => { b with toolPending := false })).armDel x.sid else d

/-- TURN on HEAD (R205), a Sector without an image refusing it before any check (R191); a chip of another role serves no request-ingress queue (R27). [DEDUCED: log entry 38] -/
def Dev.turn (e : Ent) (n pick : Nat) (x : TurnEntry) (d : Dev) : Dev :=
  if !d.isHead then d.complete e ST.ROLE_UNSERVED 0
  else if (d.activeImg n).isNone then d.complete e ST.IMG_NOIMAGE 0
  else if !d.inWindow e x.payloadOffset x.text.length then d.complete e ST.SRV_PAYLOAD 0
  else if !d.epochServed x.mapEpoch then (d.stale (some n)).complete e ST.EPOCH_STALE 0
  else
    let d := if d.ownSession n x.sid then (d.readBuoy x.sid).2 else d
    let st := d.turnParams n x
    let st := if st = ST.OK then d.turnSession n x else st
    if st ≠ ST.OK then d.complete e st (d.turnRefusal x st)
    else if d.turnTool x ≠ ST.OK then (d.flag Reg.SES_SRV_ERR.tool_seq).complete e ST.SRV_TOOLSEQ 0
    else if 262144 ≤ d.srv.turns.length then (d.flag Reg.SES_SRV_ERR.track_full).complete e ST.SRV_TRACKFULL 0
    else if (d.buoy x.sid).isSome then d.startTurn e x
    else if !d.buoyRoom n then d.complete e ST.SES_NOBUOY 0
    else (d.createSession x.sid n pick).startTurn e x

/-- TURN (R203 to R207). -/
def execTurn (e : TurnEntry) (buoy t : Nat) (s : State) : Host.Outcome State Fault Refusal :=
  onServing (fun d =>
    match (d.advance t).fetch 1 e.text.length e.hdr with
    | some (x, d) => (match d.entQueue x with | some u => d.turn x u.sector buoy e | none => d.complete x ST.SRV_BADPARAM 0)
    | none => (d.advance t).unserved 1 e.hdr) s

/-- The turn of a session with a tag, if HEAD tracks it. -/
def Dev.namedTurn (sid tag : Nat) (d : Dev) : Option Turn :=
  match d.turnOf sid with | some t => if t.entry.tag == tag then some t else none | none => none

/-- More text may still be submitted to the turn (R203). -/
def Turn.takesText (t : Turn) : Bool := t.textOpen && (match t.texts.getLast? with | some p => p.more | none => true)

/-- TURN_TEXT (R203, R206). [DEDUCED: log entry 38] -/
def execTurnText (hdr : EntryHdr) (sid tag payloadOffset : Nat) (text : List Byte) (more : Bool) (s : State) : Host.Outcome State Fault Refusal :=
  onServing (fun d =>
    match d.fetch 1 text.length hdr with
    | none => d.unserved 1 hdr
    | some (e, d) =>
      if !d.isHead then d.complete e ST.ROLE_UNSERVED 0
      else if !d.ownSession (match d.entQueue e with | some u => u.sector | none => 16) sid then d.complete e ST.SES_UNKNOWN 0
      else
        match d.namedTurn sid tag with
        | none => d.complete e ST.SRV_NOTURN 0
        | some t =>
          if !t.takesText then d.complete e ST.SRV_NOTURN 0
          else if !d.inWindow e payloadOffset text.length then (d.complete e ST.SRV_PAYLOAD 0).failTurn sid 7 ST.SRV_PAYLOAD
          else
            let d := d.turnUpd sid (fun t => { t with texts := t.texts ++ [⟨e, text, more, false, d.tok.arrivals⟩] })
            { d with tok := { d.tok with arrivals := d.tok.arrivals + 1 } }) s

/-- CANCEL (R203, R206 to R208): it completes when the turn has ended. [DEDUCED: log entry 38] -/
def execCancel (hdr : EntryHdr) (sid tag : Nat) (s : State) : Host.Outcome State Fault Refusal :=
  onServing (fun d =>
    match d.fetch 1 0 hdr with
    | none => d.unserved 1 hdr
    | some (e, d) =>
      if !d.isHead then d.complete e ST.ROLE_UNSERVED 0
      else if !d.ownSession (match d.entQueue e with | some u => u.sector | none => 16) sid then d.complete e ST.SES_UNKNOWN 0
      else
        match d.namedTurn sid tag with
        | none => d.complete e ST.SRV_NOTURN 0
        | some _ => (d.turnUpd sid (fun t => { t with cancels := t.cancels ++ [e] })).failTurn sid 6 ST.SRV_CANCELLED) s

end Sys2Proof.Machine
end

