-- ==== Sys2Proof/Machine/Steps.lean ====
section
/-!
DEFINITION. Machine/Steps.lean: HEAD forms and starts steps; the other chips take a step's flits (R65, R209, R210 to R223, R401).
-/
namespace Sys2Proof.Machine

/-- Key of an interleaved batch. -/
def batchKey (n batch : Nat) : Nat := n * 256 + batch

/-- A batch with nothing in it. -/
def Batch.empty : Batch := ⟨[], none, none, [], []⟩

/-- An interleaved batch of the chip. -/
def Dev.batch (key : Nat) (d : Dev) : Batch := Tab.getD key Batch.empty d.srv.batches

/-- The device with one batch changed. -/
def Dev.batchUpd (key : Nat) (f : Batch → Batch) (d : Dev) : Dev := { d with srv := { d.srv with batches := Tab.put key (f (d.batch key)) d.srv.batches } }

/-- The sessions that a batch holds: members, rows of its running step, and leaves still to return (R210). -/
def Batch.sids (b : Batch) : List Nat :=
  b.members ++ b.leaves.map (·.sid) ++ (match b.running with | some s => s.rows.map (·.sid) ++ (s.leaves.filter (fun l => !l.returned)).map (·.sid) | none => [])

/-- No interleaved batch of the chip holds the session. -/
def Dev.inNoBatch (sid : Nat) (d : Dev) : Bool := d.srv.batches.all (fun e => !e.2.sids.contains sid)

/-! ### Digests (R72, R209) -/

/-- The digest entry of a session. -/
def Dev.digestOf (sid : Nat) (d : Dev) : DigestEntry :=
  match d.buoyAt sid with | some (i, _) => Tab.getD i ⟨[], [], 0, false⟩ d.ses.digests | none => ⟨[], [], 0, false⟩

/-- The value of a running state. -/
def digestVal (e : DigestEntry) : Nat := leNat (shaFinish e)

/-- T after each of some tokens. -/
def digestRun : DigestEntry → List Nat → List Nat
  | _, [] => []
  | e, t :: ts => let e := shaAbsorb e (leBytes 4 t); digestVal e :: digestRun e ts

/-- T(qbase) and the digests a row carries: one for node 0 of a tree; zeros while the entry is invalid (R209, R219). [DEDUCED: log entry 40] -/
def Dev.rowDigests (sid : Nat) (toks : List Nat) (d : Dev) : Nat × List Nat × Bool :=
  let e := d.digestOf sid
  if e.valid then (digestVal e, digestRun e toks, true) else (0, toks.map (fun _ => 0), false)

/-- Committed tokens enter the session's running state. -/
def Dev.digestCommit (sid : Nat) (toks : List Nat) (d : Dev) : Dev :=
  match d.buoyAt sid with
  | some (i, _) => { d with ses := { d.ses with digests := Tab.upd i (fun e => if e.valid then shaAbsorb e (toks.flatMap (leBytes 4)) else e) d.ses.digests } }
  | none => d

/-! ### Ends of turns at HEAD -/

/-- A turn ends: its session, ACTIVE or READY, goes to WAITING, and the park policy is armed (R46, R206, R232). In a SOLO group an
ENDING turn completes with the delivery of its last record (R207). -/
def Dev.finishTurn (sid reason status : Nat) (d : Dev) : Dev :=
  match d.turnOf sid with
  | none => d
  | some t =>
    let d := d.keepHeld sid
    let waits := d.que.any (fun q => q.1 == t.entry.egress && q.2.heldRecs.any (fun r => r.entries.any (fun x => x.sid == sid && x.endReason != 0)))
    let d := if d.isSolo && waits then d.turnUpd sid (fun t => { t with st := .ending, endReason := reason, endStatus := status }) else d.closeTurn sid reason status
    match d.buoy sid with
    | some b => if b.state = 1 ∨ b.state = 2 then (d.transition sid 3).armAfterTurn sid (t.entry.parkHint % 4) else d
    | none => d

/-- A member goes back to READY, and its turn to QUEUED (R46, R207, R213). -/
def Dev.backToReady (sid : Nat) (d : Dev) : Dev :=
  match d.turnOf sid, d.buoy sid with
  | some _, some b => (if b.state = 1 then d.transition sid 2 else d).turnUpd sid (fun t => { t with st := .queued, readyAt := d.daymark })
  | _, _ => d

/-- The leave of a session, with the outcome of its last step (R219, R222). -/
def Dev.leaveOf (sid : Nat) (ended : Bool) (status : Nat) (d : Dev) : StepLeave :=
  let p := Tab.getD sid (0, []) d.srv.pathOf
  ⟨sid, false, ended, status, p.1, p.2⟩

/-- The leave is put on the batch's list; it carries the path, which is then spent. -/
def Dev.addLeave (key sid : Nat) (ended : Bool) (status : Nat) (d : Dev) : Dev :=
  let l := d.leaveOf sid ended status
  let d := d.batchUpd key (fun b => { b with leaves := b.leaves ++ [l] })
  { d with srv := { d.srv with pathOf := Tab.del sid d.srv.pathOf } }

/-! ### Row formation (R213 to R215, R374, R377) -/

/-- What a session's next row would hold. -/
structure RowPlan where
  kind : Nat
  qbase : Nat
  tokens : List Nat
  parents : List Nat
  tree : Bool
  last : Bool

/-- Positions a prefill row may take in a step: 0 acts as 4,096 (R238). [DEDUCED: log entry 28] -/
def Dev.chunk (n : Nat) (d : Dev) : Nat := d.orZero (Reg.SES_SRV_BATCH.prefill_chunk n) 4096

/-- The next row of a session within `room` positions and `left` positions of its limit; none where it has no input token or no
position (R65, R214). [DEDUCED: log entry 28] -/
def Dev.rowPlan (n : Nat) (t : Turn) (b : Buoy) (room left : Nat) (d : Dev) : Option RowPlan :=
  let qbase := b.ctx - t.back
  let cap := min room left
  if !t.replay.isEmpty then
    let toks := t.replay.take (min cap (d.chunk n))
    if toks.isEmpty then none else some ⟨2, qbase, toks, [], false, false⟩
  else if !t.input.isEmpty then
    let toks := t.input.take (min cap (d.chunk n))
    if toks.isEmpty then none else some ⟨0, qbase, toks, [], false, !t.textOpen && toks.length == t.input.length⟩
  else
    match Tab.look b.sid d.srv.nextTree with
    | some (tok, drafts, parents) =>
      let k := min cap (1 + drafts.length)
      if k = 0 then none
      else if k = 1 then some ⟨1, qbase, [tok], [], false, true⟩
      else some ⟨1, qbase, tok :: drafts.take (k - 1), 0xFF :: parents.take (k - 1), true, true⟩
    | none => none

/-- The session has an input token for a row (R213). -/
def Dev.hasInput (sid : Nat) (t : Turn) (d : Dev) : Bool := !t.replay.isEmpty || !t.input.isEmpty || Tab.has sid d.srv.nextTree

/-- Row formation under way: rows so far, positions used, accounts whose oldest row waits. -/
structure Form where
  rows : List StepRow
  used : Nat
  waited : List Nat
  dev : Dev

/-- The charge of a planned row; replay is not charged (R373). -/
def Dev.planCharge (t : Turn) (p : RowPlan) (d : Dev) : Nat := if p.kind = 2 then 0 else d.rowCharge t.entry.account p.tokens.length (p.kind == 0)

/-- The first row of a turn: its fields go into HEAD's Buoy, the held token is spent, and TAIL is told of the turn (R205, R208, R292). -/
def Dev.firstRow (t : Turn) (b : Buoy) (d : Dev) : Dev :=
  let x := t.entry
  let d := d.buoyUpd b.sid (fun b => { b with account := x.account, vocab := x.vocab, grammarId := x.grammarId, grammarOn := x.grammarOn })
  let d := d.ctrlUpd b.sid (fun c => { c with held := none, seed := x.seed })
  let c : TurnCfg := { sid := b.sid, vocab := x.vocab, grammarId := x.grammarId, grammarOn := x.grammarOn, deadEnd := x.deadEnd, egress := x.egress,
                       tag := x.tag, tokenIds := x.tokenIds, noSpec := x.noSpec, maxNew := x.maxNew, seed := x.seed, temperature := x.temperature,
                       topK := x.topK, topP := x.topP, minP := x.minP }
  if d.isSolo then d.takeTurnCfg c else d.emit (.turnCfg c)

/-- A Sector's active image is a Beacon image. -/
def Dev.runsBeacon (n : Nat) (d : Dev) : Bool := match d.activeImg n with | some i => i.beacon | none => false

/-- The Buoy of a session that a chip admits says whether the Sector runs a Beacon image (R197). -/
def Dev.markBeacon (n sid : Nat) (d : Dev) : Dev :=
  match d.buoy sid with
  | some b => if b.beacon == d.runsBeacon n then d else d.buoyUpd sid (fun b => { b with beacon := d.runsBeacon n })
  | none => d

/-- A planned and charged row joins the step. -/
def Form.add (n : Nat) (join : Bool) (t : Turn) (b : Buoy) (p : RowPlan) (charge : Nat) (f : Form) : Form :=
  let d := if p.kind = 2 then f.dev else f.dev.debit t.entry.account charge
  let g := d.rowDigests b.sid (if p.tree then p.tokens.take 1 else p.tokens)
  let d := if g.2.2 then d else d.flag Reg.SES_SRV_ERR.digest_state
  let path := Tab.getD b.sid (0, []) d.srv.pathOf
  let r : StepRow := { sid := b.sid, row := f.rows.length, kind := p.kind, qbase := p.qbase, qcount := p.tokens.length, join := join, tree := p.tree,
                       lastChunk := p.last, window := !p.tree && (match d.activeImg n with | some i => i.slots.any (fun (s : LayerSlot) => s.kind == 1) | none => false),
                       account := t.entry.account, charge := charge, invalid := false, status := ST.OK, tokens := p.tokens, parents := p.parents,
                       prevCommit := path.1, prevPath := path.2, tBase := g.1, tNew := g.2.1 }
  let d : Dev := { d with srv := { d.srv with pathOf := Tab.del b.sid d.srv.pathOf } }
  let d := if join then (d.transition b.sid 1).joinParts b.sid else d
  let d := if t.ran then d else d.firstRow t b
  let d := (d.markBeacon n b.sid).stepParts r
  let d := d.turnUpd b.sid (fun t => { t with st := .running, ran := true, charged := t.charged + charge,
                                              input := if p.kind = 0 then t.input.drop p.tokens.length else t.input,
                                              replay := if p.kind = 2 then t.replay.drop p.tokens.length else t.replay })
  { f with rows := f.rows ++ [r], used := f.used + p.tokens.length, dev := d.event none (sectorEvent 5 1 n) }

/-- The positions of a Sector's step: the image's max_rows. -/
def Dev.maxPositions (n : Nat) (d : Dev) : Nat := match d.activeImg n with | some i => i.maxRows | none => 0

/-- Batch rows per step: 0 acts as 4,096; one for a Beacon image (R197, R238). -/
def Dev.maxBatchRows (n : Nat) (d : Dev) : Nat :=
  if d.runsBeacon n then 1 else d.orZero (Reg.SES_SRV_BATCH.batch_rows n) 4096

/-- A member that gets no row: READY again, with its leave (R213). -/
def Form.drop (key sid : Nat) (join : Bool) (f : Form) : Form :=
  if join then f else { f with dev := (f.dev.backToReady sid).addLeave key sid false ST.OK }

/-- A turn ends at row formation; a member's leave says so. [DEDUCED: log entry 39] -/
def Form.finish (key sid : Nat) (join : Bool) (reason status : Nat) (f : Form) : Form :=
  { f with dev := (if join then f.dev else f.dev.addLeave key sid true ST.OK).finishTurn sid reason status }

/-- A session found LOST at row formation: its charges are refunded, its turn ends, and every chip hears of it (R42, R113, R223). -/
def Dev.lostTurn (sid : Nat) (d : Dev) : Dev :=
  let d : Dev := match d.turnOf sid with | some t => d.credit t.entry.account t.charged false | none => d
  (d.closeTurn sid 7 ST.SES_LOST).sendLose sid

/-- One session at row formation: a continuing member, or a READY session that joins (R213). [DEDUCED: log entry 39] -/
def Form.offer (n key : Nat) (join : Bool) (f : Form) (sid : Nat) : Form :=
  let g := f.dev.readBuoy sid
  let d := g.2
  let f := { f with dev := d }
  match d.turnOf sid, g.1 with
  | some t, some b =>
    if b.state = 8 then { f with dev := (if join then d else d.addLeave key sid true ST.OK).lostTurn sid }
    else if t.endReason ≠ 0 then f.finish key sid join t.endReason t.endStatus
    else if !d.acctOf t.entry.account n then { f with dev := f.dev.flag Reg.LENS_ERR.account_end }.finish key sid join 7 ST.SRV_ACCOUNT
    else if !d.hasInput sid t then f.drop key sid join
    else if d.posLimit n ≤ b.ctx - t.back then f.finish key sid join 4 ST.SES_CTXFULL
    else if d.maxBatchRows n ≤ f.rows.length then f.drop key sid join
    else
      match d.rowPlan n t b (d.maxPositions n - f.used) (d.posLimit n - (b.ctx - t.back)) with
      | none => f.drop key sid join
      | some p =>
        let charge := d.planCharge t p
        if p.kind = 2 || d.covers t.entry.account charge then f.add n join t b p charge
        else
          let a := t.entry.account
          let d := if f.waited.contains a then d else d.acctWait a charge
          { f with waited := a :: f.waited, dev := d.bump Reg.LENS_UNCOVERED.value 1 }.drop key sid join
  | _, _ => if join then f else { f with dev := d.addLeave key sid true ST.OK }

/-- READY sessions of a Sector that may join, oldest first (R213). [DEDUCED: log entry 39] -/
def Dev.joiners (n : Nat) (d : Dev) : List Nat :=
  ((d.srv.turns.filter (fun e => e.2.st == .queued && d.inNoBatch e.1 &&
      (match d.buoy e.1 with | some b => b.state == 2 && b.sector == n && !d.busyNow e.1 | none => false))).mergeSort (fun a b => decide (a.2.readyAt ≤ b.2.readyAt))).map (·.1)

/-- The rows of the batch's next step (R213): members, then joining sessions where the batch takes any (R238). [DEDUCED: log entry 39] -/
def Dev.formRows (n batch : Nat) (d : Dev) : Form :=
  let key := batchKey n batch
  let members := (d.batch key).members
  let f := members.foldl (Form.offer n key false) ⟨[], 0, [], d⟩
  if d.get (Reg.SES_SRV_BATCH.batches_m1 n) < batch then f
  else (f.dev.joiners n).foldl (Form.offer n key true) f

/-! ### HEAD starts a step (R212, R216, R385, R401) -/

/-- How a checkpoint's cut bears on a batch's next step: none, held back, or the cut step (R401). -/
inductive CutPart where
  | free | held | cut
  deriving DecidableEq

/-- The part of a batch in a cut under way. -/
def Dev.cutPart (key : Nat) (d : Dev) : CutPart :=
  match d.ckpt.run with
  | some r => if r.cutting && r.batches.any (fun k => k / 256 == key / 256) then (if r.batches.contains key then .cut else .held) else .free
  | none => .free

/-- The batch's cut step has started with a number (R401). -/
def Dev.cutStarted (key number : Nat) (d : Dev) : Dev :=
  { d with ckpt := { d.ckpt with run := d.ckpt.run.map (fun r =>
      { r with batches := r.batches.erase key, cutSteps := if Tab.has (key / 256) r.cutSteps then r.cutSteps else Tab.put (key / 256) number r.cutSteps }) } }

/-- May HEAD start a step of the batch (R178, R190, R212)? [DEDUCED: log entry 39] -/
def Dev.mayHeadStart (n batch : Nat) (d : Dev) : Bool :=
  let x := d.secImg n
  d.isHead && d.present n && decide (batch < 128) && (d.batch (batchKey n batch)).running.isNone && x.active.isSome && !x.faulted && x.activating.isNone &&
  d.cutPart (batchKey n batch) != .held

/-- The formed rows become the batch's running step: a step with neither rows nor leaves is not started, but for a cut step (R212,
R401). [DEDUCED: log entry 18] -/
def Dev.launch (n batch : Nat) (rows : List StepRow) (d : Dev) : Dev :=
  let key := batchKey n batch
  let b := d.batch key
  let cut := d.cutPart key == .cut
  if rows.isEmpty && b.leaves.isEmpty && !cut then d.batchUpd key (fun b => { b with members := [] })
  else
    let number := Tab.getD n 0 d.srv.steps
    let s : Step := { number := number, epoch := d.comp.cur.epoch, headDaymark := d.daymark, rows := rows, leaves := b.leaves, rowsTotal := rows.length,
                      positions := (rows.map (·.qcount)).sum, leaveOnly := rows.isEmpty, cut := cut, failed := false, reported := rows.isEmpty,
                      segs := (match d.activeImg n with | some i => (i.segs.filter (fun g => !g.out)).map (·.number) | none => []), ports := d.downPorts }
    let d := d.batchUpd key (fun _ => { members := rows.map (·.sid), running := some s, next := none, tokens := [], leaves := [] })
    let d : Dev := { d with srv := { d.srv with steps := Tab.put n (wrap 32 (number + 1)) d.srv.steps } }
    let d := if cut then d.cutStarted key number else d
    let d := d.event none (sectorEvent 5 0 n)
    if s.leaveOnly && !d.isSolo then d.sendHeaders key 0 0 s else d

/-- HEAD_STEP_START (R210 to R216). -/
def execHeadStepStart (sector batch t : Nat) (s : State) : Host.Outcome State Fault Refusal :=
  onServingMem (fun mem d =>
    let d := d.advance t
    if !d.mayHeadStart sector batch then (mem, d)
    else
      let d := d.commitBoundary sector
      let f := d.formRows sector batch
      (f.rows.foldl (fun mem r => rowBytesMoved sector r d f.dev mem) mem, f.dev.launch sector batch f.rows)) s

/-! ### Flits of a step on a later chip (R218 to R223) -/

/-- The device with the step of a number in a batch changed, running or next. -/
def Dev.stepUpd (key number : Nat) (f : Step → Step) (d : Dev) : Dev :=
  let g (s : Step) : Step := if s.number = number then f s else s
  d.batchUpd key (fun b => { b with running := b.running.map g, next := b.next.map g })

/-- The step of a number in a batch. -/
def Dev.stepIn (key number : Nat) (d : Dev) : Option Step :=
  ((d.batch key).running.toList ++ (d.batch key).next.toList).find? (fun s => s.number == number)

/-- A step whose first flit arrives: it runs where the batch has none, and takes the pending sets of its scope first (R220, R385). [DEDUCED: log entry 40] -/
def Dev.openStep (key : Nat) (f : SegFlit) (d : Dev) : Dev :=
  let s : Step := { number := f.step, epoch := f.mapEpoch, headDaymark := f.headDaymark, rows := [], leaves := [], rowsTotal := f.rowsTotal,
                    positions := f.positionsTotal, leaveOnly := f.leaveOnly, cut := f.cut, failed := false, reported := f.leaveOnly, segs := [], ports := d.downPorts }
  let d := if f.cut then d.cutStarted key f.step else d
  if (d.stepIn key f.step).isSome then d
  else
    let d := d.event none (sectorEvent 5 0 (key / 256))
    if (d.batch key).running.isNone then (d.commitBoundary (key / 256)).batchUpd key (fun b => { b with running := some s })
    else d.batchUpd key (fun b => { b with next := some s })

/-- The segment is not one of the image's, or of another size (R221). -/
def Dev.segMismatch (n : Nat) (f : SegFlit) (d : Dev) : Bool :=
  !f.leaveOnly && (match d.activeImg n with
    | some i => !(i.segs.any (fun g => !g.out && g.number == f.segment && g.bytesPerRow == f.bytesPerPosition))
    | none => true)

/-- SEG (R218, R220, R221). -/
def execSeg (f : SegFlit) (s : State) : Host.Outcome State Fault Refusal :=
  onServing (fun d =>
    let key := batchKey f.sector f.batch
    let d := d.openStep key f
    if d.segMismatch f.sector f then
      let d := (d.stepUpd key f.step (fun s => { s with failed := true })).flag Reg.SES_SRV_ERR.segment_mismatch
      let core := (d.secImg f.sector).hosts.headD 0
      d.cmdRecord { core := core, list := 0, failed := true, layerId := 0, operatorId := 0, index := 0xFFFF, step := f.step, status := ST.SRV_SEGMENT,
                    opcode := 0, sector := f.sector, firstRow := 0xFFFF, rows := 0, start := d.daymark, end_ := d.daymark, before := d.recCounters core, after := d.recCounters core }
    else d) s

/-- A row as a later chip takes it: the status it fails with here, if any, and the session's parts (R43, R65, R222, R223). A join makes a
WAITING session ACTIVE (R584); a row of a session in a state that R46 lets no row into is failed with ST_SES_BADSTATE. [DEDUCED: log entry 40] -/
def Dev.takeRow (n : Nat) (f : RowFlit) (pick : Nat) (d : Dev) : Nat × Dev :=
  let r := d.readBuoy f.sid
  let d := r.2
  match r.1 with
  | none =>
    if !f.join then (ST.SES_LOST, d)
    else if !d.buoyRoom n then (ST.SES_NOBUOY, d)
    else (ST.OK, ((d.createBuoy f.sid n pick 1).joinParts f.sid).markBeacon n f.sid)
  | some b =>
    if b.state = 8 then (ST.SES_LOST, d)
    else if f.join ∧ b.state = 3 then (ST.OK, ((d.transition f.sid 1).joinParts f.sid).markBeacon n f.sid)
    else if b.state = 1 then (ST.OK, d)
    else (ST.SES_BADSTATE, d)

/-- A batch row as a ROW flit brings it, with the validity and the status it has after this chip has taken it (R219, R223). -/
def takenRow (f : RowFlit) (invalid : Bool) (status : Nat) : StepRow :=
  { sid := f.sid, row := f.batchRow, kind := 0, qbase := f.qbase, qcount := f.qcount, join := f.join, tree := f.tree, lastChunk := f.lastChunk,
    window := f.window, account := f.account, charge := 0, invalid := invalid, status := status, tokens := [], parents := f.parents,
    prevCommit := f.prevCommit, prevPath := f.prevPath, tBase := f.tBase, tNew := f.tNew }

/-- What a chip finds for a row that a flit brings: the status the row fails with here, ST_OK where it stands, and the session's parts
(R223); a row that already carries ST_SES_NOBUOY makes no Buoy. -/
def Dev.rowStatus (sector : Nat) (f : RowFlit) (buoy : Nat) (d : Dev) : Nat × Dev :=
  let r := if f.invalid ∧ f.status = ST.SES_NOBUOY then (f.status, d) else d.takeRow sector f buoy
  (if r.1 = ST.OK ∧ !f.invalid ∧ r.2.posLimit sector < f.qbase + f.qcount then ST.SES_CTXFULL else r.1, r.2)

/-- A batch row taken with what the chip found: a row that stands takes the budget account and its parts; on TAIL the turn's settings apply;
a row that fails here first is counted (R223, R584). -/
def Dev.rowTaken (f : RowFlit) (found : Nat × Dev) : StepRow × Dev :=
  let row := takenRow f (f.invalid || found.1 != ST.OK) (if f.invalid then f.status else found.1)
  let d := if found.1 = ST.OK ∧ !f.invalid then
      (found.2.buoyUpd f.sid (fun b => { b with account := f.account, toolPending := if f.join then false else b.toolPending })).stepParts row
    else found.2
  let d := if d.isTail then d.applyTurn f.sid else d
  (row, if !f.invalid ∧ found.1 ≠ ST.OK then (d.flag Reg.SES_SRV_ERR.row_invalid).bump Reg.SES_SRV_ROWS_INVALID.count 1 else d)

/-- The step with a row in its place. -/
def Step.withRow (r : StepRow) (s : Step) : Step := { s with rows := (s.rows ++ [r]).mergeSort (fun a b => decide (a.row ≤ b.row)) }

/-- ROW (R219, R222, R223): a batch row, or a leave. -/
def execRow (f : RowFlit) (sector batch buoy : Nat) (s : State) : Host.Outcome State Fault Refusal :=
  onServingMem (fun mem d0 =>
    let key := batchKey sector batch
    if (d0.stepIn key f.step).isNone then (mem, d0)
    else if f.leave then
      (mem, d0.stepUpd key f.step (fun s => { s with leaves := s.leaves ++ [⟨f.sid, false, f.ended, f.status, f.prevCommit, f.prevPath⟩] }))
    else
      let r := Dev.rowTaken f (d0.rowStatus sector f buoy)
      (rowBytesMoved sector r.1 d0 r.2 mem, r.2.stepUpd key f.step (Step.withRow r.1))) s

/-- DIGEST (R219): further digests of a row of the batch's latest step. -/
def execDigest (sector batch sid : Nat) (ds : List Nat) (s : State) : Host.Outcome State Fault Refusal :=
  onServing (fun d =>
    let key := batchKey sector batch
    match (d.batch key).next.or (d.batch key).running with
    | some s => d.stepUpd key s.number (fun s => { s with rows := s.rows.map (fun r => if r.sid = sid then { r with tNew := (r.tNew ++ ds).take r.qcount } else r) })
    | none => d) s

/-- A segment that has arrived while its step runs: it is written into each image core's IO region and counted on IN (R171, R220). -/
def inArrives (n batch : Nat) (g : SegEntry) (s : Step) (mem : List Host.Cell) (d : Dev) : List Host.Cell × Dev :=
  (List.range (d.secImg n).hosts.length).foldl (fun a img =>
    let core := (d.secImg n).hosts.getD img 0
    if g.mask.testBit img && a.2.inStep core && (a.2.coreRun core).stepNo == s.number then
      (a.2.writeSegment core img batch s.positions g a.1, a.2.imgUpd core img (fun r => { r with step := ListRun.bump 63 false r.step }))
    else a) (mem, d)

/-- DATA (R220): bytes of a segment, staged at their place; the last ones complete it on every port. -/
def execData (sector batch segment : Nat) (last : Bool) (addr : Nat) (bytes : List Byte) (s : State) : Host.Outcome State Fault Refusal :=
  onServingMem (fun mem d =>
    let key := batchKey sector batch
    let mem := Mem.writes (stageAddr sector batch segment + addr) bytes mem
    let waiting := ((d.batch key).running.toList ++ (d.batch key).next.toList).find? (fun s => !s.leaveOnly && !s.segs.contains segment)
    match last, waiting with
    | true, some s =>
      let d := d.stepUpd key s.number (fun s => { s with segs := segment :: s.segs })
      (match d.activeImg sector with
       | some i =>
         (match i.segs.find? (fun g => !g.out && g.number == segment) with
          | some g => inArrives sector batch g s mem d
          | none => (mem, d))
       | none => (mem, d))
    | _, _ => (mem, d)) s

end Sys2Proof.Machine
end

