-- ==== Sys2Proof/Machine/Boundary.lean ====
section
/-!
DEFINITION. Machine/Boundary.lean: the batch step boundary on each chip, the outcome of a step at TAIL and HEAD, and the delivery of
batch records (R56, R62, R72 to R74, R211, R222 to R231, R283, R293, R495).
-/
namespace Sys2Proof.Machine

/-! ### Provisional rows and pages (R56, R222) -/

/-- The stored row of one position: K elements, K scales, V elements, V scales. -/
def splitRow (p : Page) (bs : List Byte) : (List Byte × List Byte × NumFlags) × (List Byte × List Byte × NumFlags) :=
  let z := kvRowSizes p.format (32 * p.dim32)
  let k := bs.take (z.1 + z.2)
  let v := bs.drop (z.1 + z.2)
  ((k.take z.1, k.drop z.1, NumFlags.none_), (v.take z.1, v.drop z.1, NumFlags.none_))

/-- Append one provisional row to the page that holds a position of a stream, as an append does (R56, R109, R110). -/
def appendProv (n sid pos stream : Nat) (bytes : List Byte) (s : List Host.Cell × Dev) : List Host.Cell × Dev :=
  match s.2.moor sid with
  | none => s
  | some m =>
    match m.pages.find? (fun p => p.stream == stream && decide (p.first ≤ pos) && decide (pos < p.first + p.cap)) with
    | none => s
    | some p =>
      if pos - p.first ≠ p.valid then s
      else
        let r := splitRow p bytes
        (writePageRow n p p.valid r.1 r.2 s.1, ((s.2.copyAside n sid p [] s.1).abandonCopy sid p).growPage sid p)

/-- A session's provisional rows go, and the place of their block with them (R56). -/
def Dev.dropProv (sid : Nat) (d : Dev) : Dev := d.moorUpd sid (fun m => { m with prov := [], provLoc := Loc.none_, provUnits := 0 })

/-- Provisional rows of a session along a committed path are appended in position order; the rest are discarded (R56, R222). -/
def resolveProv (n sid qbase : Nat) (path : List Nat) (s : List Host.Cell × Dev) : List Host.Cell × Dev :=
  match s.2.moor sid with
  | none => s
  | some m =>
    let s := m.prov.foldl (fun s e => ((List.range path.length).zip path).foldl (fun s p =>
      match e.2[p.2]? with | some bytes => appendProv n sid (qbase + p.1) e.1 bytes s | none => s) s) s
    (s.1, s.2.dropProv sid)

/-- Rows of a failed row go: pages end at the context length (R223). -/
def Dev.trimPages (sid ctx : Nat) (d : Dev) : Dev :=
  (d.dropProv sid).moorUpd sid (fun m => { m with pages := m.pages.map (fun p => if p.shared then p else { p with valid := min p.valid (ctx - p.first) }) })

/-! ### Sharing (R72 to R74) -/

/-- The sharing key of a full page (R72). -/
def pageDigest (t : Nat) (p : Page) : Nat :=
  sha256 (leBytes 32 t ++ leBytes 2 p.layerId ++ leBytes 2 p.kvHead ++ leBytes 1 p.format ++ leBytes 2 (32 * p.dim32) ++ leBytes 2 p.cap ++ leBytes 4 p.first)

/-- An entry becomes the most recently used, with a count. -/
def shareTouch (k : Nat × Nat) (c : Nat) (t : List ((Nat × Nat) × Nat)) : List ((Nat × Nat) × Nat) := t.filter (fun e => e.1 != k) ++ [(k, c)]

/-- A session's page changed. -/
def Dev.setPage (sid : Nat) (p : Page) (f : Page → Page) (d : Dev) : Dev :=
  d.moorUpd sid (fun m => { m with pages := m.pages.map (fun q => if q.stream == p.stream && q.ordinal == p.ordinal then f q else q) })

/-- The table as it is written. -/
def Dev.setSharing (t : List ((Nat × Nat) × Nat)) (d : Dev) : Dev := { d with ses := { d.ses with sharing := t } }

/-- Look a candidate page up (R73, R74). -/
def sharePage (n sid : Nat) (p : Page) (key : Nat) (s : List Host.Cell × Dev) : List Host.Cell × Dev :=
  let d := s.2.setPage sid p (fun q => { q with keyed := true })
  let t := d.ses.sharing
  match t.find? (fun e => e.1 == (n, key)) with
  | none =>
    if t.length < 4194304 then (s.1, d.setSharing (t ++ [((n, key), 0)]))
    else
      (match t.find? (fun e => e.2 == 0) with
       | some e => (s.1, d.setSharing ((t.erase e) ++ [((n, key), 0)]))
       | none => (s.1, d.flag Reg.SES_ERR.dedup_full))
  | some (_, 0) =>
    let r := if p.loc.tier = 1 then (p.loc, d) else d.placeNew false true n 4
    let mem := if p.loc.tier = 1 then s.1
      else copyParts s.1 [(tierAddr p.loc.tier n (4096 * p.loc.unit), tierAddr 1 n (4096 * r.1.unit), 16384)] s.1
    let d := r.2.setPage sid p (fun q => { q with shared := true, key := key, loc := r.1 })
    let d := if p.loc.tier = 1 then d else d.moorUpd sid (fun m => { m with freeNext := (p.loc, 4) :: m.freeNext, migrating := Tab.del (pageKey p.stream p.ordinal) m.migrating })
    let d : Dev := { d with ckpt := { d.ckpt with news := (7, n, key) :: d.ckpt.news } }
    (mem, d.setSharing (shareTouch (n, key) 1 t))
  | some (_, c) =>
    if c = 0xFFFFFFFF then (s.1, d)
    else
      match d.sharedAt n key with
      | some l =>
        let d := (d.bump Reg.SES_DEDUP_HIT.count 1).setPage sid p (fun q => { q with shared := true, key := key, loc := l })
        (s.1, (d.moorUpd sid (fun m => { m with freeNext := (p.loc, 4) :: m.freeNext, migrating := Tab.del (pageKey p.stream p.ordinal) m.migrating })).setSharing (shareTouch (n, key) (c + 1) t))
      | none => (s.1, d)

/-- T(position) as far as a row carries it; 0 where it does not. -/
def StepRow.digestAt (r : StepRow) (pos : Nat) : Nat := if pos = r.qbase then r.tBase else if r.qbase < pos then r.tNew.getD (pos - r.qbase - 1) 0 else 0

/-- The full pages of a row's session that are candidates and whose end digest the chip knows are looked up (R73, R209). -/
def shareRow (n : Nat) (r : StepRow) (s : List Host.Cell × Dev) : List Host.Cell × Dev :=
  if s.2.com Reg.SES_CFG.dedup_enable = 0 then s
  else
    match s.2.moor r.sid with
    | none => s
    | some m =>
      m.pages.foldl (fun s p =>
        let e := p.first + p.cap
        if p.valid == p.cap && !p.shared && !p.keyed && decide (e ≤ s.2.com Reg.SES_CFG.dedup_horizon * 1024) && r.digestAt e != 0 then
          sharePage n r.sid p (pageDigest (r.digestAt e) p) s
        else s) s

/-! ### The chip's part of a boundary (R222) -/

/-- The nodes that a chip commits of a tree row, with the row's outcome. [DEDUCED: log entry 40] -/
def commitRow (n : Nat) (r : StepRow) (path : List Nat) (s : List Host.Cell × Dev) : List Host.Cell × Dev :=
  match s.2.buoy r.sid with
  | none => s
  | some b =>
    if r.invalid then (s.1, s.2.trimPages r.sid b.ctx)
    else
      let s := if r.tree then resolveProv n r.sid r.qbase path s else s
      let ctx := if r.tree then r.qbase + path.length else r.qbase + r.qcount
      (s.1, s.2.buoyUpd r.sid (fun b => { b with ctx := max b.ctx ctx }))

/-- The next tool sequence: 0 is skipped (R231). [DEDUCED: log entry 43] -/
def nextTool (n : Nat) : Nat := if wrap 32 (n + 1) = 0 then 1 else wrap 32 (n + 1)

/-- A turn has ended on a chip between HEAD and TAIL: its Buoy takes the tool sequence and the pending flag that TAIL's took (R231).
No flit tells it whether the turn ended in a tool call, so that is a free value. [DEDUCED: log entry 43] -/
def Dev.bodyTool (sid : Nat) (d : Dev) : Dev :=
  if d.fresh % 2 = 0 then d.drawn else d.drawn.buoyUpd sid (fun b => { b with toolSeq := nextTool b.toolSeq, toolPending := true })

/-- The session leaves the batch on a chip other than HEAD (R222, R223); its next turn starts from the context length at which this one ends
(R112), and TAIL holds none of its bytes back (R283). [DEDUCED: log entry 43] -/
def Dev.chipLeave (l : StepLeave) (d : Dev) : Dev :=
  if l.status = ST.SES_NOBUOY then d.removeSession l.sid
  else
    let d := if l.ended && !d.isTail then d.bodyTool l.sid else d
    let d := if l.ended then d.moorUpd l.sid (fun m => { m with startCtx := match d.buoy l.sid with | some b => b.ctx | none => m.startCtx }) else d
    let d : Dev := if l.ended && d.isTail then (let e := (d.endDetok l.sid).2; { e with srv := { e.srv with tail := Tab.del l.sid e.srv.tail } }) else d
    match d.buoy l.sid with | some b => if b.state = 1 then d.transition l.sid 3 else d | none => d

/-- The selection and mask state of a step that has ended. -/
def Dev.dropStep (n number : Nat) (d : Dev) : Dev :=
  let mine (k : Nat) : Bool := k / 65536 == n * 2 + number % 2
  { d with sel := { d.sel with merged := d.sel.merged.filter (fun e => !mine e.1), late := d.sel.late.filter (fun k => !mine k), routed := d.sel.routed.filter (fun k => k / 65536 != n) },
           grm := { d.grm with jobs := Tab.upd n (fun js => js.filter (fun j => j.step != number)) d.grm.jobs,
                               pools := Tab.upd n (fun p => (p.1, p.2.filter (fun a => a.2 / 65536 != number))) d.grm.pools } }

/-- What falls due at every boundary of a Sector: pending configuration, token slots, cores that leave service, a waiting image
(R62, R190, R262, R263, R384, R565). -/
def atBoundary (n number : Nat) (s : List Host.Cell × Dev) : List Host.Cell × Dev :=
  let d := (((s.2.commitBoundary n).settleSlots (fun _ => true)).bump Reg.SES_SRV_STEPS.count 1).dropStep n number
  let s := leaveService n s.1 d
  if (s.2.secImg n).activating.isSome && s.2.sectorIdle n then activate n s.1 s.2 else s

/-! ### TAIL (R224 to R229, R231, R252, R283, R293) -/

/-- The grammar configuration after a turn's emitted tokens (R293): a token whose piece is not consumed, such as an ending one, leaves
it unchanged. An end token that may have been forced (R299) is not among them. -/
def advanceCfg (g : GramImage) (v : VocabImage) (c : GramCfg) (toks : List Nat) : GramCfg :=
  toks.foldl (fun c t => if endTok v t || toolTok v t then c else (match gramConsumes g (outPiece v t) c with | .ok c' => c' | _ => c)) c

/-- A TOKENS entry with no outcome. -/
def TokensEntry.plain (sid step row : Nat) (valid leave : Bool) (status : Nat) : TokensEntry :=
  { sid := sid, step := step, batchRow := row, valid := valid, leave := leave, maskLate := false, emitted := 0, pathLen := 0, endReason := 0,
    status := status, tokens := [], drafts := [], draftParents := [], draftNodes := 0, path := [] }

/-- What TAIL writes of a sampled row into the session: sampler counter, grammar configuration, tool sequence, held-back text
(R231, R252, R283, R284, R293). Answers the row's text. -/
def Dev.tailCommit (n : Nat) (r : StepRow) (t : TailTurn) (x : RowResult) (v : VocabImage) (d : Dev) : List Byte × Dev :=
  match d.moor r.sid with
  | none => ([], d)
  | some m =>
    let ended := x.endReason != 0
    let txt := detokText v m.ctrl.detok x.emitted ended
    let cfg := match d.gram t.grammarId with | some g => if t.grammarOn then advanceCfg g v (ctrlCfg m.ctrl) (if x.endReason = 1 then x.emitted.dropLast else x.emitted) else ctrlCfg m.ctrl | none => ctrlCfg m.ctrl
    let d := (d.bump Reg.TOK_DETOK_REPL.count txt.2.2).bump Reg.SES_SRV_TOKENS.count x.emitted.length
    let d := x.emitted.foldl (fun d _ => d.event none (sectorEvent 5 2 n)) d
    let d := d.buoyUpd r.sid (fun b => { b with sampler := wrap 64 (b.sampler + x.draws), toolSeq := if x.endReason = 2 then nextTool b.toolSeq else b.toolSeq,
                                                toolPending := b.toolPending || x.endReason == 2 })
    let b := d.buoy r.sid
    let c := { m.ctrl with detok := txt.2.1, turnBytes := satAdd 32 m.ctrl.turnBytes txt.1.length, grmState := cfg.q, grmStack := cfg.stack }
    let c := if x.endReason = 2 then (match b with | some b => { c with toolSeq := b.toolSeq, toolPos := b.ctx, toolTag := t.tag, toolQueue := t.egress } | none => c) else c
    let d := d.ctrlUpd r.sid (fun _ => c)
    let d : Dev := { d with srv := { d.srv with tail := if ended && !d.isSolo then Tab.del r.sid d.srv.tail else Tab.put r.sid { t with emitted := t.emitted + x.emitted.length, ended := ended } d.srv.tail,
                                                results := Tab.del r.sid d.srv.results } }
    (txt.1, d)

/-- TAIL's outcome of one row: its TOKENS entry, its record entry with the egress queue, if any (R227 to R229, R292). [DEDUCED: log entry 43] -/
def Dev.tailRow (n number : Nat) (r : StepRow) (base : Nat) (d : Dev) : (TokensEntry × Option (Nat × RecEntry)) × Dev :=
  let plain := TokensEntry.plain r.sid number r.row true false ST.OK
  if r.invalid then ((TokensEntry.plain r.sid number r.row false false r.status, none), d)
  else
    match d.tailTurn r.sid with
    | none => ((plain, none), d)
    | some t =>
      let gone (d : Dev) : Dev := let d := (d.endDetok r.sid).2; { d with srv := { d.srv with tail := if d.isSolo then d.srv.tail else Tab.del r.sid d.srv.tail, results := Tab.del r.sid d.srv.results } }
      let seq := match d.buoy r.sid with | some b => b.toolSeq | none => 0
      let pos := if r.tree then r.qbase + 1 else r.qbase + r.qcount
      let entry (toks : List Nat) (text : List Byte) (reason st seq : Nat) (late : Bool) : RecEntry :=
        { sid := r.sid, toolSeq := seq, tag := t.tag, status := st, endReason := reason, tokens := toks, text := text, idsPresent := t.tokenIds, maskLate := late, position := pos }
      if t.gone then (({ plain with endReason := 7, status := ST.HOST_GONE }, none), gone d)
      else if t.overrun then
        let p := d.endDetok r.sid
        (({ plain with endReason := 7, status := ST.SRV_EGRESS }, some (t.egress, entry [] p.1 7 ST.SRV_EGRESS seq false)), gone (p.2.bump Reg.TOK_DETOK_REPL.count (p.1.length / 3)))
      else if (sampledRows r base).isEmpty then ((plain, none), d)
      else if !t.egressOk then (({ plain with endReason := 7, status := ST.SRV_BADPARAM }, none), gone d)
      else
        match Tab.look r.sid d.srv.results, d.vocab t.vocab with
        | some x, some v =>
          let c := d.tailCommit n r t x v
          let seq := match c.2.buoy r.sid with | some b => b.toolSeq | none => 0
          let d : Dev := if x.endReason = 0 then
              { c.2 with srv := { c.2.srv with nextTree := Tab.put r.sid (x.emitted.getLastD 0, x.drafts, x.draftParents) c.2.srv.nextTree } }
            else { c.2 with srv := { c.2.srv with nextTree := Tab.del r.sid c.2.srv.nextTree } }
          let e : TokensEntry := { plain with maskLate := x.maskLate, emitted := x.emitted.length, pathLen := x.path.length, endReason := x.endReason,
                                              status := x.status, tokens := x.emitted, drafts := x.drafts, draftParents := x.draftParents,
                                              draftNodes := x.drafts.length, path := x.path }
          ((e, if x.emitted.isEmpty && x.endReason == 0 then none else some (t.egress, entry x.emitted c.1 x.endReason x.status seq x.maskLate)), d)
        | _, _ => ((plain, none), d)

/-- Bytes of a record entry: header, token IDs, text padded to 8 (R229). -/
def RecEntry.bytes (e : RecEntry) : Nat := 32 + (if e.idsPresent then 4 * e.tokens.length else 0) + (e.text.length + 7) / 8 * 8

/-- Bytes produced and not consumed on an egress ring. -/
def Dev.ringUsed (q : Nat) (u : Queue) (d : Dev) : Nat := wrap 32 (u.produced + 2 ^ 32 - d.get (Reg.QUE_CQ_HEAD.head q))

/-- Pad bytes before a record of some size (R495). -/
def padBytes (u : Queue) (bytes : Nat) : Nat := let o := u.produced % 2 ^ u.ringLog2; if 2 ^ u.ringLog2 < o + bytes then 2 ^ u.ringLog2 - o else 0

/-- The queue's turns end for held egress at their next step (R230). [DEDUCED: log entry 42] -/
def Dev.overrun (q : Nat) (d : Dev) : Dev :=
  ({ d with srv := { d.srv with tail := Tab.mapv (fun _ t => if t.egress = q then { t with overrun := true } else t) d.srv.tail } } : Dev).flag Reg.SES_SRV_ERR.egress_overrun

/-- The ring has no room for a queue's oldest held record, and what is held passes the limit (R230). -/
def Dev.heldOver (q : Nat) (u : Queue) (d : Dev) : Bool :=
  match u.heldRecs with
  | [] => false
  | r :: _ => decide (2 ^ u.ringLog2 < d.ringUsed q u + padBytes u r.bytes + r.bytes) && decide (d.get Reg.SES_SRV_CFG.egress_hold_kib * 1024 < (u.heldRecs.map (·.bytes)).sum)

/-- One batch record for an egress queue (R228); a DEAD queue's is discarded and counted, and one that passes the limit of held records ends the queue's turns (R230, R499). [DEDUCED: log entry 42] -/
def Dev.addRecord (n step q : Nat) (es : List RecEntry) (d : Dev) : Dev :=
  match Tab.look q d.que with
  | none => d
  | some u =>
    if u.st == .dead then (if u.location < 2 then d.bump (Reg.PCI_DROP.count u.location) 1 else d)
    else
      let r : BatchRecord := { queue := q, sector := n, step := step, bytes := 64 + (es.map RecEntry.bytes).sum, sequence := u.recSeq, daymark := d.daymark, entries := es }
      let u := { u with recSeq := wrap 32 (u.recSeq + 1), heldRecs := u.heldRecs ++ [r] }
      let d := (d.queUpd q (fun _ => u)).bell q r.sequence
      if d.heldOver q u then d.overrun q else d

/-- TAIL's part of a boundary: outcomes of the rows, then the records by queue (R227, R228). Answers the TOKENS entries. -/
def Dev.tailStep (n : Nat) (s : Step) (d : Dev) : List TokensEntry × Dev :=
  let a := (stepPositions s.rows 0).foldl (fun (a : List TokensEntry × List (Nat × RecEntry) × Dev) p =>
    if p.2.2 ≠ 0 then a
    else
      let r := a.2.2.tailRow n s.number p.1 p.2.1
      (a.1 ++ [r.1.1], a.2.1 ++ r.1.2.toList, r.2)) ([], [], d)
  let queues := (a.2.1.map (·.1)).eraseDups.mergeSort (fun x y => decide (x ≤ y))
  let d := queues.foldl (fun d q => d.addRecord n s.number q ((a.2.1.filter (fun e => e.1 == q)).map (·.2))) a.2.2
  (a.1 ++ s.leaves.map (fun l => TokensEntry.plain l.sid s.number 0xFFFF true true ST.OK), d)

/-! ### HEAD (R206 to R208, R223, R227) -/

/-- A leave's TOKENS entry is back: the session waits on every chip, and a DROP that waited for this starts (R94, R232). [DEDUCED: log entry 40] -/
def Dev.leaveBack (key : Nat) (e : TokensEntry) (d : Dev) : Dev :=
  ((d.batchUpd key (fun b => { b with running := b.running.map (fun s => { s with leaves := s.leaves.map (fun l => if l.sid = e.sid then { l with returned := true } else l) }) })).armOnLeave e.sid).admitKind .none_ 1

/-- A valid row's outcome: tokens are logged, the next row prepared, and an ended turn completes (R206, R208, R227, R231). -/
def Dev.rowDone (e : TokensEntry) (t : Turn) (d : Dev) : Dev :=
  let held := if e.emitted = e.pathLen then e.tokens.getLast? else none
  let d := (d.turnUpd e.sid (fun t => { t with log := t.log ++ e.tokens, emitted := t.emitted + e.emitted })).growLog e.sid
  let d : Dev := { d with srv := { d.srv with pathOf := Tab.put e.sid (e.pathLen, e.path) d.srv.pathOf } }
  let reason := if e.endReason ≠ 0 then e.endReason else t.endReason
  if reason = 0 then
    (if e.emitted = 0 then d else { d with srv := { d.srv with nextTree := Tab.put e.sid (e.tokens.getLastD 0, e.drafts, e.draftParents) d.srv.nextTree } })
  else
    let d := if e.endReason = 2 ∧ !d.isSolo then d.buoyUpd e.sid (fun b => { b with toolSeq := nextTool b.toolSeq, toolPending := true }) else d
    let d := if e.emitted = 0 ∧ e.pathLen = 0 then d else (d.dropNext e.sid).ctrlUpd e.sid (fun c => { c with held := held })
    d.finishTurn e.sid reason (if e.endReason ≠ 0 then e.status else t.endStatus)

/-- An invalid row's outcome (R43, R65, R223): its turn ends for a session that is lost, has no Buoy or is full, or has been ended
already; otherwise it runs again. -/
def Dev.rowInvalid (e : TokensEntry) (t : Turn) (d : Dev) : Dev :=
  if e.status = ST.SES_NOBUOY then (d.closeTurn e.sid 7 ST.SES_NOBUOY).removeSession e.sid
  else if e.status = ST.SES_LOST then d.lostTurn e.sid
  else if e.status = ST.SES_CTXFULL then d.finishTurn e.sid 4 ST.SES_CTXFULL
  else if t.endReason ≠ 0 then d.finishTurn e.sid t.endReason t.endStatus
  else d

/-- A TOKENS entry at HEAD (R227): a valid row that is no tree has committed its token. [DEDUCED: log entry 43] -/
def Dev.takeTokens (key : Nat) (e : TokensEntry) (d : Dev) : Dev :=
  let d := d.batchUpd key (fun b => { b with tokens := b.tokens ++ [e] })
  if e.leave then d.leaveBack key e
  else
    match d.turnOf e.sid with
    | none => d
    | some t =>
      let tree := match (d.batch key).running with | some s => s.rows.any (fun r => r.sid == e.sid && r.tree) | none => false
      if e.valid then (if tree then d else d.dropNext e.sid).rowDone e t else d.rowInvalid e t

/-- TOKENS (R227): HEAD takes an entry of the batch's running step; any other chip passes it on. -/
def execTokens (sector batch : Nat) (e : TokensEntry) (s : State) : Host.Outcome State Fault Refusal :=
  onServing (fun d =>
    if !d.isHead then d.emit (.tokens e none)
    else
      let key := batchKey sector batch
      match (d.batch key).running with
      | some s =>
        let known := if e.leave then s.leaves.any (fun l => l.sid == e.sid && !l.returned) else s.rows.any (fun r => r.sid == e.sid)
        if s.number = e.step ∧ known ∧ !(d.batch key).tokens.any (fun x => x.sid == e.sid && x.leave == e.leave) then d.takeTokens key e else d
      | none => d) s

/-- The turn of a row was lost: its charges have been credited back as a whole (R113). -/
def Dev.lostRow (sid : Nat) (e : TokensEntry) (d : Dev) : Bool :=
  (d.turnOf sid).isNone && (e.status == ST.SES_LOST || (match d.buoy sid with | some b => b.state == 8 | none => false))

/-- HEAD's row after its step: the digest state, what the next row starts from, and the charge of an invalid row (R113, R209, R215, R223). -/
def Dev.headRow (r : StepRow) (e : TokensEntry) (d : Dev) : Dev :=
  if e.valid then
    let toks := if r.tree then e.path.map (fun i => r.tokens.getD i 0) else r.tokens
    (d.digestCommit r.sid toks).turnUpd r.sid (fun t => { t with back := match d.buoy r.sid with | some b => b.ctx - (r.qbase + toks.length) | none => 0 })
  else
    let d := if r.kind = 2 || d.lostRow r.sid e then d else d.credit r.account r.charge true
    d.turnUpd r.sid (fun t => { t with back := (match d.buoy r.sid with | some b => b.ctx - r.qbase | none => 0), charged := t.charged - r.charge,
                                       input := if r.kind = 0 then r.tokens ++ t.input else t.input, replay := if r.kind = 2 then r.tokens ++ t.replay else t.replay })

/-- HEAD's batch after a step: rows whose turns run on stay members; the others leave (R213, R222). [DEDUCED: log entry 39] -/
def Dev.headMembers (key : Nat) (s : Step) (es : List TokensEntry) (d : Dev) : Dev :=
  s.rows.foldl (fun d r =>
    let ok := es.any (fun e => e.sid == r.sid && !e.leave && e.valid)
    let status := match es.find? (fun e => e.sid == r.sid && !e.leave) with | some e => if e.valid then ST.OK else e.status | none => ST.OK
    match d.turnOf r.sid, d.buoy r.sid with
    | some t, some b =>
      if b.state = 1 ∧ t.st == .running then
        (if ok then d.batchUpd key (fun b => { b with members := b.members ++ [r.sid] }) else (d.backToReady r.sid).addLeave key r.sid false ST.OK)
      else d.addLeave key r.sid true ST.OK
    | _, _ => d.addLeave key r.sid true (if status = ST.SES_NOBUOY then status else ST.OK)) d

/-! ### STEP_BOUNDARY (R211) -/

/-- The path that a chip commits of a row: TAIL's own result, HEAD's TOKENS entry, or the batch's next flits (R211, R222). -/
def Dev.pathOn (b : Batch) (es : List TokensEntry) (r : StepRow) (d : Dev) : List Nat :=
  if d.isHead || d.isTail then (match es.find? (fun e => e.sid == r.sid && !e.leave) with | some e => e.path.take e.pathLen | none => [])
  else
    match b.next with
    | none => []
    | some s =>
      match s.rows.find? (fun x => x.sid == r.sid), s.leaves.find? (fun x => x.sid == r.sid) with
      | some x, _ => x.prevPath.take x.prevCommit
      | none, some l => l.prevPath.take l.prevCommit
      | none, none => []

/-- TAIL has what it needs of a row: it is invalid, is not sampled, has its result, or needs none (R211, R230, R292). -/
def Dev.rowSampled (r : StepRow) (base : Nat) (d : Dev) : Bool :=
  r.invalid || (sampledRows r base).isEmpty || Tab.has r.sid d.srv.results ||
  (match d.tailTurn r.sid with | some t => !t.egressOk || t.overrun || t.gone | none => true)

/-- The boundary of a batch's running step falls (R211). -/
def Dev.boundaryDue (b : Batch) (s : Step) (d : Dev) : Bool :=
  if d.isSolo then s.leaveOnly || (s.reported && (stepPositions s.rows 0).all (fun p => p.2.2 != 0 || d.rowSampled p.1 p.2.1))
  else if d.isHead then s.reported && b.tokens.length == s.rows.length + s.leaves.length
  else if d.isTail then s.leaveOnly || (s.reported && s.rows.length == s.rowsTotal && (stepPositions s.rows 0).all (fun p => p.2.2 != 0 || d.rowSampled p.1 p.2.1))
  else s.reported && (s.leaveOnly || (match b.next with | some n => n.rows.length == n.rowsTotal | none => false))

/-- The rows of the step on the chip: committed in ascending batch row, then shared (R56, R73, R222). -/
def boundaryRows (n : Nat) (b : Batch) (es : List TokensEntry) (s : Step) (x : List Host.Cell × Dev) : List Host.Cell × Dev :=
  s.rows.foldl (fun x r =>
    let y := commitRow n r (x.2.pathOn b es r) x
    if r.invalid then y else shareRow n r y) x

/-- Sessions of a Sector whose boundary this is: the batch's own, and those that no batch holds (R62, R211). [DEDUCED: log entry 40] -/
def Dev.settleBatch (n key : Nat) (d : Dev) : Dev :=
  (d.ses.buoys.filter (fun e => e.2.sector == n && d.srv.batches.all (fun b => b.1 == key || !b.2.sids.contains e.2.sid))).foldl (fun d e => d.settleMoor e.2.sid) d

/-- The step is over on the chip: the next one runs. -/
def Dev.nextStep (n key : Nat) (s : Step) (d : Dev) : Dev :=
  let d := d.batchUpd key (fun b => { b with running := b.next, next := none, tokens := [] })
  if d.isHead then d else { d with srv := { d.srv with steps := Tab.put n (wrap 32 (s.number + 1)) d.srv.steps } }

/-- TOKENS flits: two entries to a flit (R217, R227). -/
def tokenFlits : List TokensEntry → List Emission
  | a :: b :: es => .tokens a (some b) :: tokenFlits es
  | [a] => [.tokens a none]
  | [] => []

/-- The boundary on a chip of its role (R211, R222). Between HEAD and TAIL the leaves of the batch's next flits are taken here, and are marked
as taken, so that their own step's boundary does not take them again. -/
def boundary (n key : Nat) (b : Batch) (s : Step) (mem : List Host.Cell) (d : Dev) : List Host.Cell × Dev :=
  let r := if d.isTail then d.tailStep n s else (b.tokens, d)
  let d := if d.isSolo then r.1.foldl (fun d e => d.takeTokens key e) r.2
    else if d.isTail then (tokenFlits r.1).foldl (fun d e => d.emit e) r.2 else r.2
  let x := boundaryRows n b r.1 s (mem, d.settleBatch n key)
  let d := x.2
  let d := if d.isHead then
      (let d := s.rows.foldl (fun d w => match r.1.find? (fun e => e.sid == w.sid && !e.leave) with | some e => d.headRow w e | none => d) d
       let d := d.batchUpd key (fun b => { b with members := [] })
       d.headMembers key s r.1)
    else
      (let ended := if d.isTail then r.1.filter (fun e => e.valid && !e.leave && e.endReason != 0) else []
       let d := ended.foldl (fun d e => match d.buoy e.sid with | some b => if b.state = 1 then d.transition e.sid 3 else d | none => d) d
       let next := if d.isTail then [] else (match b.next with | some w => w.leaves | none => [])
       let d := (s.leaves.filter (fun l => !l.returned) ++ next).foldl (fun d l => d.chipLeave l) d
       d.batchUpd key (fun b => { b with next := b.next.map (fun w => { w with leaves := w.leaves.map (fun l => { l with returned := l.returned || !d.isTail }) }) }))
  atBoundary n s.number (x.1, d.nextStep n key s)

/-- STEP_BOUNDARY (R211). -/
def execStepBoundary (sector batch t : Nat) (s : State) : Host.Outcome State Fault Refusal :=
  onServingMem (fun mem d =>
    let d := d.advance t
    let key := batchKey sector batch
    match (d.batch key).running with
    | some s => if d.boundaryDue (d.batch key) s then boundary sector key (d.batch key) s mem d else (mem, d)
    | none => (mem, d)) s

/-! ### Delivery of records (R230, R495) -/

/-- The record's ended turns complete in a SOLO group (R207). [DEDUCED: log entry 42] -/
def Dev.delivered (r : BatchRecord) (d : Dev) : Dev :=
  (r.entries.filter (fun e => e.endReason != 0)).foldl (fun d e => match d.turnOf e.sid with
    | some t => if t.st == .ending && t.entry.tag == e.tag then d.closeTurn e.sid t.endReason t.endStatus else d
    | none => d) d

/-- EGRESS_RECORD_SEND (R230, R371, R495, R496). -/
def execEgressRecordSend (q t : Nat) (s : State) : Host.Outcome State Fault Refusal :=
  onServing (fun d =>
    let d := d.advance t
    match Tab.look q d.que with
    | none => d
    | some u =>
      match u.heldRecs with
      | [] => d
      | r :: rest =>
        let pad := padBytes u r.bytes
        if u.st == .dead then d
        else if d.shaperOk q && d.portOk u && decide (d.ringUsed q u + pad + r.bytes ≤ 2 ^ u.ringLog2) then
          let count := wrap 64 (u.produced + pad + r.bytes)
          let d := d.queUpd q (fun u => { u with heldRecs := rest, produced := count, acks := if u.location = 2 then u.acks ++ [count] else u.acks })
          let d := d.shaperDebit q (d.unitSize q r.bytes)
          let d := (if pad = 0 then d else d.portDebit u 8).portDebit u r.bytes
          let d := (if pad = 0 then d else d.emit (.pad q pad)).emit (.record r)
          let d := if u.location = 2 then d else (d.emit (.produced q count)).bellGone q
          (d.queEvent q).delivered r
        else if 2 ^ u.ringLog2 < d.ringUsed q u + pad + r.bytes ∧ d.get Reg.SES_SRV_CFG.egress_hold_kib * 1024 < (u.heldRecs.map (·.bytes)).sum then d.overrun q
        else d) s

end Sys2Proof.Machine
end

