-- ==== Sys2Proof/Machine/Keys.lean ====
section
/-!
DEFINITION. Machine/Keys.lean: the device's keys and what they are applied to: blocks of the stacks with their MACs, flash pages, shards
and pool payloads (R352, R407, R426 to R428, R438, R443, R444, R452 to R454, R463).
-/
namespace Sys2Proof.Machine

/-! ### The key hierarchy (R452, R463) -/

/-- The 256-bit root secret that the PUF yields (R451): one value for the device, which nothing reads. -/
def rootSecret : List Byte := (List.range 32).map (fun k => BitVec.ofNat 8 (Config.unstated 73 [k]))

/-- The keys of the hierarchy that are derived (R463). `bind` numbers a storage key as R443 does: 0 device, 1 pool, 2 + n Sector n. -/
inductive KeyName where
  | store (bind : Nat)
  | idP384
  | idMldsa
  | aliasP384
  | aliasMldsa
  | norCounter
  | norRecord
  | grant (host handle hostId : Nat)
  | ckpt (domain sector : Nat)
  deriving DecidableEq, Repr

/-- A key's generation where it is a storage key. -/
def Dev.keyGen (bind : Nat) (d : Dev) : Nat :=
  if bind = 0 then d.sec.nor.genDev else if bind = 1 then d.sec.nor.genPool else Tab.getD (bind - 2) 0 d.sec.nor.gens

/-- The secret that a key is derived from (R463): the root secret, a host's key or a domain's seed; none where the host or the
domain has none installed. -/
def Dev.keyRoot (k : KeyName) (d : Dev) : Option (List Byte) :=
  match k with
  | .grant h _ _ => (Tab.look h d.sec.hostKeys).map (leBytes 32)
  | .ckpt g n => (Tab.look (g * 16 + n) d.sec.seeds).map (leBytes 32)
  | _ => some rootSecret

/-- A key's label (R463). -/
def KeyName.label : KeyName → String
  | .store bind => if bind = 0 then "STORE-DEV" else if bind = 1 then "STORE-POOL" else "STORE-SCT"
  | .idP384 => "ID-P384"
  | .idMldsa => "ID-MLDSA"
  | .aliasP384 => "ALIAS-P384"
  | .aliasMldsa => "ALIAS-MLDSA"
  | .norCounter => "RPMC"
  | .norRecord => "NORMAC"
  | .grant _ _ _ => "GRANT"
  | .ckpt _ _ => "CKPT"

/-- A key's context (R463): the fields named, in order, each in its own width. [DESIGN CHOICE: log entry 121] -/
def Dev.keyContext (k : KeyName) (d : Dev) : List Byte :=
  match k with
  | .store bind => (if bind < 2 then [] else leBytes 1 (bind - 2)) ++ leBytes 4 (d.keyGen bind)
  | .aliasP384 => leBytes 48 d.sec.fwDigest
  | .aliasMldsa => leBytes 48 d.sec.fwDigest
  | .grant _ handle host => leBytes 4 handle ++ leBytes 2 host
  | .ckpt g n => leBytes 2 g ++ leBytes 1 n
  | _ => []

/-- A derived key (R452). -/
def Dev.key (k : KeyName) (d : Dev) : Option (List Byte) := (d.keyRoot k).map (fun r => deriveKey r k.label (d.keyContext k))

/-- A storage key (R426). -/
def Dev.storeKey (bind : Nat) (d : Dev) : List Byte := deriveKey rootSecret (KeyName.store bind).label (d.keyContext (.store bind))

/-! ### Blocks of the stacks (R427, R428) -/

/-- A block's counters: its line's major counter and its own minor counter. -/
def Dev.blockCounters (stack slot block : Nat) (d : Dev) : Nat × Nat :=
  (Tab.getD (lineBlock stack slot block / 64) 0 d.media.major, Tab.getD (lineBlock stack slot block) 0 d.media.minor)

/-- The initial counter block of a 512-byte block: stack, logical slot and block index, the major counter, the minor counter, and zeros
that count its 32 AES blocks. [DESIGN CHOICE: log entry 122] -/
def Dev.counterBlock (stack slot block : Nat) (d : Dev) : List Byte :=
  let c := d.blockCounters stack slot block
  beBytes 16 ((((stack * 2 ^ 7 + slot) * 2 ^ 24 + block) * 2 ^ 64 + c.1) * 2 ^ 30 + c.2 * 2 ^ 23)

/-- The ciphertext that a block of a stack holds for its 512 bytes, under the key its chunk is bound to (R427). -/
def Dev.cipherBlock (bind stack slot block : Nat) (plain : List Byte) (d : Dev) : List Byte :=
  aesCtr (d.storeKey bind) (d.counterBlock stack slot block) plain

/-- The MAC key that goes with a storage key; how it is derived is not stated. [DESIGN CHOICE: log entry 122] -/
def Dev.macKey (bind : Nat) (d : Dev) : List Byte :=
  (List.range 32).map (fun k => BitVec.ofNat 8 (Config.unstated 74 (k :: (d.storeKey bind).map BitVec.toNat)))

/-- A block's 64-bit MAC: GMAC over its ciphertext, address and counters, truncated (R427). The IV is not stated: the address and the
counters, which never repeat. [DESIGN CHOICE: log entry 122] -/
def Dev.blockMac (bind stack slot block : Nat) (cipher : List Byte) (d : Dev) : List Byte :=
  (gmac (d.macKey bind) ((d.counterBlock stack slot block).take 12) (cipher ++ d.counterBlock stack slot block)).take 8

/-- What the stacks hold of the block that a byte of a Sector's tier 1 lies in: its place, its ciphertext and its MAC (R421, R426, R427). -/
def Dev.storedBlock (sector off : Nat) (mem : List Host.Cell) (d : Dev) : Option ((Nat × Nat × Nat) × List Byte × List Byte) :=
  (d.stackPlace sector off).map (fun p =>
    let c := d.cipherBlock (2 + sector) p.1 p.2.1 p.2.2 (Mem.reads (tierAddr 1 sector (off / 512 * 512)) 512 mem)
    (p, c, d.blockMac (2 + sector) p.1 p.2.1 p.2.2 c))

/-! ### Flash pages (R438, R443, R444) -/

/-- An 8-byte entry of the translation table (R438). -/
def FtlEntry.bits (x : FtlEntry) : Nat :=
  x.lun / 32 % 32 + x.lun / 4 % 8 * 2 ^ 5 + x.lun % 4 * 2 ^ 8 + x.group % 2 ^ 20 * 2 ^ 10 + x.page % 2 ^ 12 * 2 ^ 30 + 2 ^ 63

/-- Spare bytes 0x010 to 0x03F of page `p` of an extent (R443). The erase count is in an erase block's first page only. -/
def Dev.spareBytes (e p : Nat) (x : FtlEntry) (d : Dev) : List Byte :=
  leBytes 8 e ++ leBytes 8 x.seq ++ leBytes 2 x.key ++ leBytes 1 p ++ leBytes 1 0 ++
    leBytes 4 (if x.page = 0 then (Tab.getD (x.lun * 2 ^ 20 + x.group) ⟨0, 0, 0, 0⟩ d.media.flash.groups).erases else 0) ++ leBytes 24 0

/-- The 96-bit IV of a page: sequence, extent[29:0], page (R444). [DEDUCED: log entry 122] -/
def flashIv (e p : Nat) (x : FtlEntry) : List Byte := leBytes 8 x.seq ++ leBytes 4 (e % 2 ^ 30 + p * 2 ^ 30)

/-- A flash page as it is programmed: the encrypted data, and the spare area to its parity with the tag in front (R443, R444). -/
def Dev.flashPage (e p : Nat) (x : FtlEntry) (plain : List Byte) (d : Dev) : List Byte × List Byte :=
  let g := aesGcm (d.storeKey x.key) (flashIv e p x) (d.spareBytes e p x) plain
  (g.1, g.2 ++ d.spareBytes e p x)

/-! ### The NOR (R453, R454) -/

/-- The authentication of a counter's response, over the bytes of the response (R453). -/
def Dev.counterAuth (response : List Byte) (d : Dev) : List Byte := hmacSha256 (deriveKey rootSecret KeyName.norCounter.label (d.keyContext .norCounter)) response

/-- The MAC of a record in the NOR, over its bytes (R454). -/
def Dev.recordMac (record : List Byte) (d : Dev) : List Byte := hmacSha256 (deriveKey rootSecret KeyName.norRecord.label (d.keyContext .norRecord)) record

/-! ### Pool payloads (R352) -/

/-- A pool message's payload under a grant key: ciphertext, then the 16-byte tag; the cleartext header is the additional data. The IV is
not stated: `iv` is a value that the device draws. [DESIGN CHOICE: log entry 122] -/
def Dev.sealPool (host handle hostId : Nat) (iv header payload : List Byte) (d : Dev) : Option (List Byte) :=
  (d.key (.grant host handle hostId)).map (fun k => let g := aesGcm k iv header payload; g.1 ++ g.2)

end Sys2Proof.Machine
end

