-- ==== Sys2Proof/Machine/IdxOps.lean ====
section
/-!
DEFINITION. Machine/IdxOps.lean: the layout of a vector index in its range: header, blocks, node records, and the checks of
INDEX_CREATE (R308 to R311, R317).
-/
namespace Sys2Proof.Machine

/-- The device with one index changed. -/
def Dev.idxUpd (n : Nat) (f : VecIndex → VecIndex) (d : Dev) : Dev := { d with idx := { d.idx with idx := Tab.upd n f d.idx.idx } }

/-- The index as a Sector sees it: another Sector's does not exist (R308). -/
def Dev.index (n sector : Nat) (d : Dev) : Option VecIndex := (Tab.look n d.idx.idx).filter (fun x => x.sector == sector)

/-- record_bytes of R310. -/
def recordBytesOf (c degree : Nat) : Nat := ceilDiv (24 + c + degree * (7 + c)) 64 * 64

/-- An index header's fields in a block of bytes (R309). -/
def idxHeader (sector base : Nat) (b : Nat → Nat → Nat) : VecIndex :=
  { sector := sector, base := base, units := 0, st := 2, metric := b 0x06 1, c := b 0x07 1, dim := b 0x08 2, degree := b 0x0A 1,
    full := (b 0x0B 1).testBit 0, rpb := b 0x0C 2, recordBytes := b 0x0E 2, capacity := b 0x10 8, hwm := b 0x18 8, epoch := wrap 48 (b 0x20 8),
    entries := (List.range (min 4 (b 0x28 1))).map (fun k => b (0x30 + 8 * k) 8), cnormOff := b 0x50 8, blocksOff := b 0x58 8,
    vectorsOff := b 0x60 8, alpha := b 0x68 4, buildL := b 0x6C 2, freed := [], tombs := [], writes := [], waiter := none,
    sweepBlock := 0, sweepEpoch := 0, passTombs := [], skipped := false, freeable := [] }

/-- Bytes of the range: header, codebook, centroid norms, node blocks and vectors for the whole capacity (R308 to R310). [DESIGN CHOICE: log entry 52] -/
def VecIndex.rangeBytes (x : VecIndex) : Nat :=
  max (max (0x4000 + 512 * x.dim) (x.cnormOff + 1024 * x.c))
    (max (x.blocksOff + ceilDiv x.capacity x.rpb * 16384) (if x.full then x.vectorsOff + x.capacity * 2 * x.dim else 0))

/-- The checks of R317 on a header whose raw fields `b` reads, and on the source's length. -/
def headerOk (b : Nat → Nat → Nat) (x : VecIndex) (length : Nat) : Bool :=
  b 0 4 == 0x58445A56 && b 4 2 == 1 && decide (x.metric ≤ 2) && decide (8 ≤ x.c) && decide (x.c ≤ 128) && decide (8 ≤ x.dim) &&
  decide (x.dim ≤ 8192) && x.dim % x.c == 0 && decide (8 ≤ x.degree) && decide (x.degree ≤ 64) &&
  x.recordBytes == recordBytesOf x.c x.degree && x.rpb == 16320 / recordBytesOf x.c x.degree && decide (x.capacity ≤ 2 ^ 36) &&
  decide (x.hwm ≤ x.capacity) && decide (b 0x28 1 ≤ 4) && (decide (1 ≤ b 0x28 1) || x.hwm == 0) && x.entries.all (fun n => decide (n < x.hwm)) &&
  decide (0x4000 ≤ x.blocksOff) && x.blocksOff % 16384 == 0 && x.vectorsOff % 16384 == 0 && (x.full || x.vectorsOff == 0) &&
  decide (0x3F800000 ≤ x.alpha) && decide (x.alpha < 0x7F800000) && decide (16 ≤ x.buildL) && decide (x.buildL ≤ 2048) &&
  decide (x.rangeBytes ≤ length)

/-- The 256 bytes of the header as the device rewrites it (R309, R330). -/
def VecIndex.headerBytes (x : VecIndex) : List Byte :=
  leBytes 4 0x58445A56 ++ leBytes 2 1 ++ leBytes 1 x.metric ++ leBytes 1 x.c ++ leBytes 2 x.dim ++ leBytes 1 x.degree ++ leBytes 1 (b2n x.full) ++
    leBytes 2 x.rpb ++ leBytes 2 x.recordBytes ++ leBytes 8 x.capacity ++ leBytes 8 x.hwm ++ leBytes 8 x.epoch ++ leBytes 1 x.entries.length ++
    leBytes 7 0 ++ ((x.entries ++ List.replicate 4 0).take 4).flatMap (leBytes 8) ++ leBytes 8 x.cnormOff ++ leBytes 8 x.blocksOff ++
    leBytes 8 x.vectorsOff ++ leBytes 4 x.alpha ++ leBytes 2 x.buildL ++ List.replicate 146 0

/-- Rewrite the header. -/
def VecIndex.writeHeader (x : VecIndex) (mem : List Host.Cell) : List Host.Cell := Mem.writes x.base x.headerBytes mem

/-- A neighbour in a node record (R310): node ID, inv_norm, code. -/
structure Neigh where
  node : Nat
  invNorm : Nat
  code : List Nat
  deriving DecidableEq, Repr

/-- A node record (R310). -/
structure NodeRec where
  key : Nat
  ins : Nat
  del : Nat
  inUse : Bool
  invNorm : Nat
  code : List Nat
  neighs : List Neigh
  deriving DecidableEq, Repr

/-- del_epoch of a node without a tombstone (R310). -/
def noTomb : Nat := 0xFFFFFFFFFFFF

/-- Flat address of a block and of a node's record (R310). -/
def VecIndex.blockAddr (x : VecIndex) (block : Nat) : Nat := x.base + x.blocksOff + block * 16384
/-- Flat address of a node's record. -/
def VecIndex.recAddr (x : VecIndex) (n : Nat) : Nat := x.blockAddr (n / x.rpb) + 64 + n % x.rpb * x.recordBytes

/-- A code in memory. -/
def codeAt (a c : Nat) (mem : List Host.Cell) : List Nat := (Mem.reads a c mem).map BitVec.toNat

/-- Read a node's record. -/
def VecIndex.readRec (x : VecIndex) (n : Nat) (mem : List Host.Cell) : NodeRec :=
  let a := x.recAddr n
  let f (o k : Nat) : Nat := leNat (Mem.reads (a + o) k mem)
  { key := f 0 8, ins := f 8 6, del := f 0x0E 6, inUse := (f 0x15 1).testBit 0, invNorm := f 0x16 2, code := codeAt (a + 0x18) x.c mem,
    neighs := (List.range (min x.degree (f 0x14 1))).map (fun k =>
      let p := 0x18 + x.c + k * (7 + x.c)
      ⟨wrap 36 (f p 5), f (p + 5) 2, codeAt (a + p + 7) x.c mem⟩) }

/-- The bytes of a record, padded to record_bytes. -/
def VecIndex.recBytes (x : VecIndex) (r : NodeRec) : List Byte :=
  let bs := leBytes 8 r.key ++ leBytes 6 r.ins ++ leBytes 6 r.del ++ leBytes 1 r.neighs.length ++ leBytes 1 (b2n r.inUse) ++ leBytes 2 r.invNorm ++
    r.code.map (BitVec.ofNat 8) ++ r.neighs.flatMap (fun g => leBytes 5 g.node ++ leBytes 2 g.invNorm ++ g.code.map (BitVec.ofNat 8))
  bs ++ List.replicate (x.recordBytes - bs.length) 0

/-- Write a node's record. -/
def VecIndex.writeRec (x : VecIndex) (n : Nat) (r : NodeRec) (mem : List Host.Cell) : List Host.Cell := Mem.writes (x.recAddr n) (x.recBytes r) mem

/-- Rewrite a block's header: magic, records in use, block number (R310). -/
def VecIndex.countBlock (x : VecIndex) (block : Nat) (mem : List Host.Cell) : List Host.Cell :=
  let used := ((List.range x.rpb).filter (fun s => decide (block * x.rpb + s < x.hwm) && (x.readRec (block * x.rpb + s) mem).inUse)).length
  Mem.writes (x.blockAddr block) (leBytes 2 0x4E42 ++ leBytes 2 used ++ leBytes 4 0 ++ leBytes 8 block ++ List.replicate 48 0) mem

/-- An index that waited for the revocation of its extent's grants opens, and INDEX_CREATE completes (R317, R358). -/
def Dev.finishOpen (extent : Nat) (d : Dev) : Dev :=
  match d.idx.idx.find? (fun e => e.2.st == 1 && e.2.base == poolAddr extent 0) with
  | none => d
  | some (n, x) => (d.idxUpd n (fun x => { x with st := 2, waiter := none })).completeOpt x.waiter ST.OK 0

end Sys2Proof.Machine
end

