-- ==== Sys2Proof/Machine/PoolCmds.lean ====
section
/-!
DEFINITION. Machine/PoolCmds.lean: the shared tier: extents and grants, pool requests and their pacing, near-memory operations,
revocation, publication, and coded copies (R351 to R360).
-/
namespace Sys2Proof.Machine

/-! ### Extents and grants (R351, R352) -/

/-- The device with one extent changed. -/
def Dev.extUpd (k : Nat) (f : Extent → Extent) (d : Dev) : Dev := { d with pool := { d.pool with extents := Tab.upd k f d.pool.extents } }

/-- The live extent that a handle names, with its number (R352). -/
def Dev.extentOf (handle : Nat) (d : Dev) : Option (Nat × Extent) :=
  match Tab.look (handle % 65536) d.pool.extents with
  | some x => if x.live && x.gen == handle / 65536 then some (handle % 65536, x) else none
  | none => none

/-- Is a grant this host's? A window extent's grant names a peer chip (R116, R352). -/
def Dev.grantFits (x : Extent) (host : Nat) (d : Dev) (g : Grant) : Bool :=
  if x.window.isSome then decide (host < 256) && d.get (Reg.POOL_HOST_ID.kind host) == 2 && d.get (Reg.POOL_HOST_ID.id host) == g.host
  else g.host == host

/-- The host's grant on an extent. -/
def Dev.grantOf (x : Extent) (host : Nat) (d : Dev) : Option Grant := x.grants.find? (d.grantFits x host)

/-- Bytes that an extent takes of its host's partition (R352). -/
def Extent.taken (x : Extent) : Nat := if x.window.isSome then 0 else if x.publishable then 2 * x.bytes else x.bytes

/-- Bytes of a host's partition in a tier, and those taken (R351). [DEDUCED: log entry 59] -/
def Dev.partition (host tier : Nat) (d : Dev) : Nat :=
  if host ≥ 256 then 0
  else if tier = 1 then d.get (Reg.POOL_HOST_CAP.t1_chunks host) * 2 ^ 26 else d.get (Reg.POOL_HOST_CAP.t2_gib host) * 2 ^ 30

/-- Bytes taken of a host's partition in a tier. [DEDUCED: log entry 59] -/
def Dev.partitionUsed (host tier : Nat) (d : Dev) : Nat :=
  (d.pool.extents.map (fun e => if e.2.live && e.2.host == host && e.2.tier == tier then e.2.taken else 0)).sum

/-- A new grant. -/
def Grant.new (host rights : Nat) : Grant := ⟨host, rights % 8, false, 0, []⟩

/-- EXTENT_CREATE (R352). A size that is no positive multiple of 64 KiB, or a tier other than 1 and 2, has no extent to cover
it (a log entry). [DEDUCED: log entry 59] -/
def Dev.extentCreate (e : Ent) (c : ExtentCmd) (d : Dev) : Dev :=
  if c.bytes = 0 ∨ c.bytes % 65536 ≠ 0 ∨ (c.tier ≠ 1 ∧ c.tier ≠ 2) then d.complete e ST.POOL_RANGE 0
  else
    let pub := c.rights.testBit 3
    match d.extentNext with
    | none => d.complete e ST.POOL_NOSPACE 0
    | some (k, g) =>
      if d.partitionUsed c.host c.tier + (if pub then 2 * c.bytes else c.bytes) ≤ d.partition c.host c.tier then
        let x : Extent := { gen := g, live := true, host := c.host, tier := c.tier, bytes := c.bytes, publishable := pub, version := 0, half := 0,
                            grants := [Grant.new c.host c.rights], window := none, record := false, staged := [], windowEnd := none, oldWriter := none }
        ({ d with pool := { d.pool with extents := Tab.put k x d.pool.extents } }).complete e ST.OK (k + g * 65536)
      else d.complete e ST.POOL_NOSPACE 0

/-- EXTENT_CREATE. -/
def execExtentCreate (c : ExtentCmd) (s : State) : Host.Outcome State Fault Refusal :=
  onServing (fun d => d.ownerAdmin c.hdr ST.POOL_DENIED (fun e d => d.extentCreate e c)) s

/-- EXTENT_SHARE (R352). -/
def execExtentShare (c : ExtentCmd) (s : State) : Host.Outcome State Fault Refusal :=
  onServing (fun d => d.ownerAdmin c.hdr ST.POOL_DENIED (fun e d =>
    match d.extentOf c.handle with
    | none => d.complete e ST.POOL_NOEXTENT 0
    | some (k, x) =>
      if x.grants.length ≥ 8 then d.complete e ST.POOL_NOSPACE 0
      else (d.extUpd k (fun x => { x with grants := x.grants ++ [Grant.new c.host c.rights] })).complete e ST.OK 0)) s

/-- Grants that `which` selects enter DRAINING, until `until_`; those already draining keep their end (R358). -/
def Extent.drain (which : Grant → Bool) (until_ : Nat) (e : Option Ent) (x : Extent) : Extent :=
  { x with grants := x.grants.map (fun g =>
      if which g then { g with draining := true, drainEnd := if g.draining then g.drainEnd else until_, revokers := g.revokers ++ e.toList } else g) }

/-- EXTENT_REVOKE (R352, R358): it completes when the grants' keys are destroyed. -/
def execExtentRevoke (c : ExtentCmd) (t : Nat) (s : State) : Host.Outcome State Fault Refusal :=
  onServing (fun d => (d.advance t).ownerAdmin c.hdr ST.POOL_DENIED (fun e d =>
    match d.extentOf c.handle with
    | none => d.complete e ST.POOL_NOEXTENT 0
    | some (k, x) =>
      let which (g : Grant) : Bool := c.host == 0xFFFF || g.host == c.host
      if x.grants.any which then
        d.extUpd k (Extent.drain which (d.now + us (if c.drainUs = 0 then d.get Reg.POOL_CFG.drain_us else c.drainUs)) (some e))
      else d.complete e ST.POOL_NOEXTENT 0)) s

/-- Requests of a host in flight on an extent: those that wait for its bucket, and its staged publishes (R355, R356, R359). -/
def Dev.poolInFlight (k host : Nat) (d : Dev) : Nat :=
  ((Tab.getD host [] d.pool.queues).filter (fun r => r.handle % 65536 == k)).length +
    (match Tab.look k d.pool.extents with | some x => (x.staged.filter (fun p => p.host == host)).length | none => 0)

/-- Hosts whose requests a grant covers: the host itself, or those that name a window's peer chip. -/
def Dev.grantHosts (x : Extent) (g : Grant) (d : Dev) : List Nat :=
  if x.window.isSome then (List.range 256).filter (fun h => d.grantFits x h g) else [g.host]

/-- The key of a draining grant is destroyed: its requests end without a response, the revocations that waited for it last
complete; with the last grant the extent ends (R358). [DEDUCED: log entry 61] -/
def Dev.destroyGrant (k host : Nat) (mem : List Host.Cell) (d : Dev) : List Host.Cell × Dev :=
  match Tab.look k d.pool.extents with
  | none => (mem, d)
  | some x =>
    match x.grants.find? (fun g => g.draining && g.host == host) with
    | none => (mem, d)
    | some g =>
      let hs := d.grantHosts x g
      if x.live && (hs.all (fun h => d.poolInFlight k h == 0) || decide (g.drainEnd ≤ d.now)) then
        let d : Dev := { d with pool := { d.pool with queues := Tab.mapv (fun h q => if hs.contains h then q.filter (fun r => r.handle % 65536 != k) else q) d.pool.queues,
                                                      pinned := d.pool.pinned.filter (fun p => !(hs.contains p.1.host && p.1.handle % 65536 == k)) } }
        let rest := x.grants.erase g
        let d := d.extUpd k (fun x => { x with grants := rest, staged := x.staged.filter (fun p => !hs.contains p.host) })
        let d := (g.revokers.filter (fun e => !rest.any (fun o => o.revokers.contains e))).foldl (fun d e => d.complete e ST.OK 0) d
        let opens := d.idx.idx.any (fun e => e.2.st == 1 && e.2.base == poolAddr k 0)
        if opens && rest.all (fun o => !o.draining) then (mem, (d.extUpd k (fun x => { x with live := false, grants := [] })).finishOpen k)
        else if rest.isEmpty then
          (if x.window.isSome then mem else Mem.zero (poolAddr k 0) x.taken mem, d.extUpd k (fun x => { x with live := false }))
        else (mem, d)
      else (mem, d)

/-- GRANT_DESTROY (R358). -/
def execGrantDestroy (extent host t : Nat) (s : State) : Host.Outcome State Fault Refusal :=
  onServingMem (fun mem d => (d.advance t).destroyGrant extent host mem) s

/-! ### Pacing (R354, R356) -/

/-- What a host's bucket holds in full: 8 µs of its rate, in tenths of a byte. -/
def Dev.bucketCap (host : Nat) (d : Dev) : Nat := d.get (Reg.POOL_HOST_RATE.rate host) * 8000

/-- The bucket's level at the present time. [DEDUCED: log entry 60] -/
def Dev.bucketLevel (host : Nat) (d : Dev) : Int :=
  let b : Int × Nat := Tab.getD host ((d.bucketCap host : Int), d.now) d.pool.bucket
  min (d.bucketCap host) (b.1 + (d.get (Reg.POOL_HOST_RATE.rate host) * (d.now - b.2) : Nat))

/-- No limit, or an allowance that is not overdrawn. [DEDUCED: log entry 60] -/
def Dev.bucketOk (host : Nat) (d : Dev) : Bool := d.get (Reg.POOL_HOST_RATE.rate host) == 0 || decide (0 ≤ d.bucketLevel host)

/-- A request debits its length. [DEDUCED: log entry 60] -/
def Dev.bucketDebit (host length : Nat) (d : Dev) : Dev :=
  if d.get (Reg.POOL_HOST_RATE.rate host) = 0 then d
  else { d with pool := { d.pool with bucket := Tab.put host (d.bucketLevel host - 10 * length, d.now) d.pool.bucket } }

/-- The load level that a response reports (R354). [DEDUCED: log entry 60] -/
def Dev.poolLoad (host : Nat) (d : Dev) : Nat :=
  let cap := d.bucketCap host
  let used : Nat := if cap = 0 then 0 else (((cap : Int) - d.bucketLevel host).toNat * 100) / cap
  let most := max used ((Tab.getD host [] d.pool.queues).length * 100 / 256)
  if most < 25 then 0 else if most < 50 then 1 else if most < 90 then 2 else 3

/-- The allowance that a response reports, in 4 KiB units (R354). -/
def Dev.poolCredit (host : Nat) (d : Dev) : Nat :=
  if d.get (Reg.POOL_HOST_RATE.rate host) = 0 then 0xFFFF else min 0xFFFF ((d.bucketLevel host).toNat / 10 / 4096)

/-- Send a response (R354); a request served is counted, and a refusal for revocation (R362). -/
def Dev.respond (host op tag status result version : Nat) (data : List Byte) (d : Dev) : Dev :=
  let d := if status = ST.OK then d.bump Reg.POOL_REQS.count 1 else d
  let d := if status = ST.POOL_REVOKED then d.bump Reg.POOL_REVOKED.count 1 else d
  let d := if status = ST.POOL_CONFLICT then d.bump Reg.POOL_CONFLICTS.count 1 else d
  d.emit (.poolResp host ⟨op, d.poolLoad host, status, tag, d.poolCredit host, result, version, data⟩)

/-! ### The exporter's checks (R355) -/

/-- Rights that an op needs of the target's grant; publication and handover ask for the writer of record instead (R359). [DEDUCED: log entry 59] -/
def rightsNeeded (r : PoolReq) : Nat :=
  match r.op with
  | 1 => 1
  | 5 => if r.flags.testBit 2 then 3 else 1
  | 2 | 3 | 4 | 6 => 2
  | _ => 0

/-- Are the op's flags valid? [DEDUCED: log entry 59] -/
def poolFlagsOk (r : PoolReq) : Bool :=
  match r.op with
  | 5 => r.flags == 0 || r.flags == 4
  | 6 => decide (r.flags < 4)
  | _ => r.flags == 0

/-- The first of checks 1 and 3 to 7 that a request fails. `code` is the op of its row; another value stands for an op that is
not known. On a record's window only the compare of R119 may write (R352). [DEDUCED: log entry 59] -/
def Dev.poolCheck (code : Nat) (r : PoolReq) (d : Dev) : Nat :=
  match d.extentOf r.handle with
  | none => ST.POOL_NOEXTENT
  | some (_, x) =>
    match d.grantOf x r.host with
    | none => ST.POOL_NOEXTENT
    | some g =>
      let src := if r.op = 4 ∨ r.op = 7 then d.extentOf r.auxHandle else some (0, x)
      let srcOk : Bool := match src with
        | some (_, y) => !(r.op == 4 || r.op == 7) || (match d.grantOf y r.host with | some h => h.rights.testBit 0 && !h.draining | none => false)
        | none => false
      let srcFits : Bool := match src with | some (_, y) => !(r.op == 4 || r.op == 7) || decide (r.auxOffset + r.length ≤ y.bytes) | none => false
      if g.draining then ST.POOL_REVOKED
      else if !d.epochServed r.mapEpoch then ST.EPOCH_STALE
      else if !((g.rights &&& rightsNeeded r) == rightsNeeded r && srcOk && !(x.record && r.op != 1 && r.op != 5)) then ST.POOL_RIGHTS
      else if !(decide (r.offset + r.length ≤ x.bytes) && r.length % 64 == 0 && decide (r.length ≤ 2 ^ 20) && srcFits) then ST.POOL_RANGE
      else if !(r.op == code && poolFlagsOk r) then ST.POOL_BADOP
      else ST.OK

/-! ### The bytes of an extent -/

/-- Flat address of a byte of an extent: in the current half of a publishable one (R359). -/
def extAddr (k : Nat) (x : Extent) (off : Nat) : Nat := poolAddr k (x.half * x.bytes + off)

/-- Bytes of an extent. A record's window shows the record, a window over a session's parts its export: the manifest and the objects (R116 to
R118). [DESIGN CHOICE: log entries 27, 108] -/
def Dev.extBytes (k : Nat) (x : Extent) (off n : Nat) (mem : List Host.Cell) (d : Dev) : List Byte :=
  match x.window with
  | none => Mem.reads (extAddr k x off) n mem
  | some sid =>
    if x.record then
      (match Tab.look sid d.ses.records with
       | some m => ((moveRecordBytes m ++ List.replicate (off + n) 0).drop off).take n
       | none => List.replicate n 0)
    else
      match d.buoy sid, d.moor sid with
      | some b, some m =>
        (match d.activeImg b.sector with
         | some i => ((exportImage d.position (imgGeometry i) b m mem ++ List.replicate (off + n) 0).drop off).take n
         | none => List.replicate n 0)
      | _, _ => List.replicate n 0

/-! ### Near-memory operations (R357) -/

/-- FILL: the pattern over the range. [DEDUCED: log entry 61] -/
def fillBytes (pattern n : Nat) : List Byte := (List.range n).map (fun i => BitVec.ofNat 8 (pattern / 256 ^ (i % 8)))

/-- The offset in the range of the first differing byte. -/
def firstDiff : Nat → List Byte → List Byte → Option Nat
  | _, [], _ => none
  | _, _ :: _, [] => none
  | i, a :: as, b :: bs => if a = b then firstDiff (i + 1) as bs else some i

/-- REDUCE on one element: the sum rounded once, or the greater (R357). [DEDUCED: log entry 61] -/
def reduceOne (flags : Nat) (f : FloatFmt) (a b : Nat) : Nat :=
  let x := decodeFloat f a
  let y := decodeFloat f b
  if flags.testBit 0 then
    (match x, y with
     | .nan, _ => a
     | _, .nan => b
     | x, y => if FpVal.lt x y then b else if FpVal.lt y x then a else (if a.testBit (f.eb + f.mb) then b else a))
  else (toFloat f false none (if f.mb = 7 then roundFp32 (FpVal.add x y) else FpVal.add x y)).1

/-- REDUCE over a range (R357): `w` bytes an element; `fuel` counts elements. [DEDUCED: log entry 61] -/
def reduceBytes (flags w : Nat) : Nat → List Byte → List Byte → List Byte
  | 0, _, _ => []
  | fuel + 1, as, bs =>
    leBytes w (reduceOne flags (if w = 2 then bf16 else fp32) (leNat (as.take w)) (leNat (bs.take w))) ++ reduceBytes flags w fuel (as.drop w) (bs.drop w)

/-- COMPARE (R357): the answer, and the bytes written when the range is equal and swap is set with at most 64 bytes. -/
def compareOf (r : PoolReq) (now : List Byte) : Nat × Option (List Byte) :=
  match firstDiff 0 now (r.data.take r.length) with
  | some i => (r.offset + i, none)
  | none => (0xFFFFFFFFFFFFFFFF, if r.flags.testBit 2 && decide (r.length ≤ 64) then some ((r.data.drop r.length).take r.length) else none)

/-- The claim of a move record as the compare of R119 writes it, where the range covers it (R117). [DESIGN CHOICE: log entry 27] -/
def claimSwap (off : Nat) (bs : List Byte) (m : MoveRecord) : MoveRecord :=
  if off ≤ 0x10 ∧ 0x14 ≤ off + bs.length then
    let v := leNat ((bs.drop (0x10 - off)).take 4)
    { m with claim := v % 4, claimGroup := v / 65536 }
  else m

/-! ### Publication (R359) -/

/-- A publish is staged; the first opens the extent's window. [DEDUCED: log entry 61] -/
def Dev.stagePublish (k : Nat) (r : PoolReq) (mem : List Host.Cell) (d : Dev) : Dev :=
  match d.extentOf r.auxHandle with
  | none => d
  | some (j, y) =>
    let p : StagedPub := ⟨r.host, r.tag, r.value, r.offset, d.extBytes j y r.auxOffset r.length mem, d.pool.arrivals⟩
    let d : Dev := { d with pool := { d.pool with arrivals := d.pool.arrivals + 1 } }
    d.extUpd k (fun x => { x with staged := x.staged ++ [p], windowEnd := match x.windowEnd with | some w => some w | none => some (d.now + us (d.orZero Reg.POOL_CFG.pub_us 1)) })

/-- Does a staged publish win over another (R359)? -/
def StagedPub.beats (a b : StagedPub) : Bool :=
  decide (b.version < a.version) || (a.version == b.version && (decide (a.host < b.host) || (a.host == b.host && decide (a.arrival < b.arrival))))

/-- The winner among the staged publishes above the current version. -/
def pubWinner (current : Nat) (ps : List StagedPub) : Option StagedPub :=
  (ps.filter (fun p => decide (current < p.version))).foldl (fun w p => match w with | some q => if p.beats q then some p else some q | none => some p) none

/-- The end of a publish window: the winner's bytes become current in one switch; every other is refused (R359). [DEDUCED: log entry 61] -/
def Dev.publishEnd (k : Nat) (mem : List Host.Cell) (d : Dev) : List Host.Cell × Dev :=
  match Tab.look k d.pool.extents with
  | none => (mem, d)
  | some x =>
    match x.windowEnd with
    | none => (mem, d)
    | some w =>
      if d.now < w then (mem, d)
      else
        let win := pubWinner x.version x.staged
        let version := match win with | some p => p.version | none => x.version
        let mem := match win with | some p => Mem.writes (poolAddr k ((1 - x.half) * x.bytes + p.offset)) p.bytes mem | none => mem
        let d := d.extUpd k (fun x => { x with version := version, half := if win.isSome then 1 - x.half else x.half, staged := [], windowEnd := none })
        (mem, x.staged.foldl (fun d p => d.respond p.host 7 p.tag (if win == some p then ST.OK else ST.POOL_CONFLICT) version version []) d)

/-- PUBLISH_WINDOW_END (R359). -/
def execPublishWindowEnd (extent t : Nat) (s : State) : Host.Outcome State Fault Refusal :=
  onServingMem (fun mem d => (d.advance t).publishEnd extent mem) s

/-- A grant loses or gains the writer's mark. -/
def setWriter (host : Nat) (b : Bool) (x : Extent) : Extent :=
  { x with grants := x.grants.map (fun g => if g.host = host then { g with rights := g.rights % 4 + (if b then 4 else 0) } else g) }

/-- The old writer of a handover gives up its mark (R359). -/
def Extent.endOverlap (x : Extent) : Extent :=
  match x.oldWriter with
  | some (h, _) => { setWriter h false x with oldWriter := none }
  | none => x

/-- HANDOVER: the named host becomes writer of record; the sender stays authorised for the overlap (R359). [DEDUCED: log entry 61] -/
def Dev.handover (k : Nat) (x : Extent) (r : PoolReq) (d : Dev) : Dev :=
  let new := r.value % 65536
  if !x.grants.any (fun g => g.host == new) then d.respond r.host 8 r.tag ST.POOL_NOEXTENT 0 0 []
  else if new = r.host then d.respond r.host 8 r.tag ST.OK 0 x.version []
  else
    let d := d.extUpd k (fun x => { setWriter new true x.endOverlap with oldWriter := some (r.host, d.now + ms (bitsOf 31 16 r.value)) })
    d.respond r.host 8 r.tag ST.OK 0 x.version []

/-- HANDOVER_OVERLAP_END (R359). -/
def execHandoverOverlapEnd (extent t : Nat) (s : State) : Host.Outcome State Fault Refusal :=
  onServing (fun d =>
    let d := d.advance t
    d.extUpd extent (fun x => match x.oldWriter with | some (_, w) => if w ≤ d.now then x.endOverlap else x | none => x)) s

/-! ### Requests (R353 to R357) -/

/-- The version that a response carries: that of a publishable extent (R354). [DEDUCED: log entry 61] -/
def Extent.shown (x : Extent) : Nat := if x.publishable then x.version else 0

/-- A request that passed the checks runs, and its response goes out; a publish waits for its window. -/
def Dev.poolRun (r : PoolReq) (mem : List Host.Cell) (d : Dev) : List Host.Cell × Dev :=
  match d.extentOf r.handle with
  | none => (mem, d)
  | some (k, x) =>
    let a := extAddr k x r.offset
    let now := d.extBytes k x r.offset r.length mem
    let ok (result : Nat) (data : List Byte) (d : Dev) : Dev := d.respond r.host r.op r.tag ST.OK result x.shown data
    let writer : Bool := match d.grantOf x r.host with | some g => g.rights.testBit 2 | none => false
    match r.op with
    | 1 => (mem, ok 0 now d)
    | 2 => (Mem.writes a (r.data.take r.length) mem, ok 0 [] d)
    | 3 => (Mem.writes a (fillBytes r.value r.length) mem, ok 0 [] d)
    | 4 => (match d.extentOf r.auxHandle with
        | some (j, y) => (Mem.writes a (d.extBytes j y r.auxOffset r.length mem) mem, ok 0 [] d)
        | none => (mem, d))
    | 5 =>
      let c := compareOf r now
      (match c.2, x.window with
       | some bs, none => (Mem.writes a bs mem, ok c.1 [] d)
       | some bs, some sid => (mem, ok c.1 [] { d with ses := { d.ses with records := Tab.upd sid (claimSwap r.offset bs) d.ses.records } })
       | none, _ => (mem, ok c.1 [] d))
    | 6 => (Mem.writes a (reduceBytes r.flags (if r.flags.testBit 1 then 2 else 4) (r.length / (if r.flags.testBit 1 then 2 else 4)) now r.data) mem, ok 0 [] d)
    | 7 => if x.publishable && writer then (mem, d.stagePublish k r mem) else (mem, d.respond r.host 7 r.tag ST.POOL_NOTOWNER x.version x.shown [])
    | 8 => if writer && (match x.oldWriter with | some (h, _) => h != r.host | none => true) then (mem, d.handover k x r)
           else (mem, d.respond r.host 8 r.tag ST.POOL_NOTOWNER 0 x.shown [])
    | _ => if (match x.oldWriter with | some (h, _) => h == r.host | none => false) then (mem, ok 0 [] (d.extUpd k Extent.endOverlap))
           else (mem, d.respond r.host 9 r.tag ST.POOL_NOTOWNER 0 x.shown [])

/-- A READ of a publishable extent is served from the version that is current when it is accepted, so one that must wait for its host's pace keeps
that version and its bytes (R359). [DEDUCED: log entry 61] -/
def Dev.pinRead (r : PoolReq) (mem : List Host.Cell) (d : Dev) : Dev :=
  match d.extentOf r.handle with
  | some (k, x) =>
    if r.op = 1 ∧ x.publishable then { d with pool := { d.pool with pinned := d.pool.pinned ++ [(r, x.version, d.extBytes k x r.offset r.length mem)] } } else d
  | none => d

/-- A request that has waited runs. -/
def Dev.poolServe (r : PoolReq) (mem : List Host.Cell) (d : Dev) : List Host.Cell × Dev :=
  match d.pool.pinned.find? (fun p => p.1 == r) with
  | some p => (mem, ({ d with pool := { d.pool with pinned := d.pool.pinned.erase p } } : Dev).respond r.host 1 r.tag ST.OK 0 p.2.1 p.2.2)
  | none => d.poolRun r mem

/-- The Sector of a requester that is a local one (R351). -/
def Dev.partySector (host : Nat) (d : Dev) : Option Nat :=
  if host < 256 ∧ d.get (Reg.POOL_HOST_ID.kind host) = 3 ∧ d.get (Reg.POOL_HOST_ID.id host) < 16 then some (d.get (Reg.POOL_HOST_ID.id host)) else none

/-- A request arrives: the checks in order, then the host's pace, then the operation (R355, R356). [DEDUCED: log entry 59] -/
def Dev.poolRequest (code : Nat) (r : PoolReq) (mem : List Host.Cell) (d : Dev) : List Host.Cell × Dev :=
  let st := d.poolCheck code r
  if st = ST.POOL_NOEXTENT then (mem, d.respond r.host r.op r.tag st 0 0 [])
  else if !r.tagOk then (mem, d.flag Reg.POOL_ERR.auth)
  else if st ≠ ST.OK then (mem, (if st = ST.EPOCH_STALE then d.stale (d.partySector r.host) else d).respond r.host r.op r.tag st 0 0 [])
  else
    let q := Tab.getD r.host [] d.pool.queues
    if q.isEmpty && d.bucketOk r.host then (d.bucketDebit r.host r.length).poolRun r mem
    else if q.length ≥ 256 then (mem, d.respond r.host r.op r.tag ST.POOL_BUSY 0 0 [])
    else
      let d := d.pinRead r mem
      (mem, { d with pool := { d.pool with queues := Tab.put r.host (q ++ [r]) d.pool.queues } })

/-- POOL_READ (R353, R355). -/
def execPoolRead (r : PoolReq) (t : Nat) (s : State) : Host.Outcome State Fault Refusal :=
  onServingMem (fun mem d => (d.advance t).poolRequest 1 r mem) s
/-- POOL_WRITE (R353). -/
def execPoolWrite (r : PoolReq) (t : Nat) (s : State) : Host.Outcome State Fault Refusal :=
  onServingMem (fun mem d => (d.advance t).poolRequest 2 r mem) s
/-- POOL_FILL (R357). -/
def execPoolFill (r : PoolReq) (t : Nat) (s : State) : Host.Outcome State Fault Refusal :=
  onServingMem (fun mem d => (d.advance t).poolRequest 3 r mem) s
/-- POOL_COPY (R357). -/
def execPoolCopy (r : PoolReq) (t : Nat) (s : State) : Host.Outcome State Fault Refusal :=
  onServingMem (fun mem d => (d.advance t).poolRequest 4 r mem) s
/-- POOL_COMPARE (R357). -/
def execPoolCompare (r : PoolReq) (t : Nat) (s : State) : Host.Outcome State Fault Refusal :=
  onServingMem (fun mem d => (d.advance t).poolRequest 5 r mem) s
/-- POOL_REDUCE (R357). -/
def execPoolReduce (r : PoolReq) (t : Nat) (s : State) : Host.Outcome State Fault Refusal :=
  onServingMem (fun mem d => (d.advance t).poolRequest 6 r mem) s
/-- POOL_PUBLISH (R359). -/
def execPoolPublish (r : PoolReq) (t : Nat) (s : State) : Host.Outcome State Fault Refusal :=
  onServingMem (fun mem d => (d.advance t).poolRequest 7 r mem) s
/-- POOL_HANDOVER (R359). -/
def execPoolHandover (r : PoolReq) (t : Nat) (s : State) : Host.Outcome State Fault Refusal :=
  onServingMem (fun mem d => (d.advance t).poolRequest 8 r mem) s
/-- POOL_RELEASE (R359). -/
def execPoolRelease (r : PoolReq) (t : Nat) (s : State) : Host.Outcome State Fault Refusal :=
  onServingMem (fun mem d => (d.advance t).poolRequest 9 r mem) s

/-- POOL_QUEUE_RELEASE (R356): the host's first waiting request runs once its allowance is no longer overdrawn. [DEDUCED: log entry 60] -/
def execPoolQueueRelease (r : PoolReq) (t : Nat) (s : State) : Host.Outcome State Fault Refusal :=
  onServingMem (fun mem d =>
    let d := d.advance t
    match Tab.getD r.host [] d.pool.queues with
    | [] => (mem, d)
    | q :: qs =>
      if q = r ∧ d.bucketOk r.host then
        (({ d with pool := { d.pool with queues := Tab.put r.host qs d.pool.queues } } : Dev).bucketDebit r.host r.length).poolServe r mem
      else (mem, d)) s

/-! ### This chip as a requester (R358, R360) -/

/-- The outcome of a coded copy is known: the park's work ends, its objects' bytes moving with them (R103). [DESIGN CHOICE: log entry 62] -/
def Dev.codedEnd (sid : Nat) (ok : Bool) (mem : List Host.Cell) (d : Dev) : List Host.Cell × Dev :=
  match Tab.look sid d.pool.coded with
  | none => (mem, d)
  | some w =>
    let d := if ok then d else d.flag Reg.POOL_ERR.code_fail
    let d : Dev := { d with pool := { d.pool with coded := Tab.upd sid (fun w => { w with members := [], outcome := some ok }) d.pool.coded } }
    finishWork sid w.result mem d

/-- Once no member's acknowledgement is awaited, the copy stands. -/
def Dev.codedCheck (sid : Nat) (mem : List Host.Cell) (d : Dev) : List Host.Cell × Dev :=
  match Tab.look sid d.pool.coded with
  | some w => if w.outcome.isNone && w.members.isEmpty then d.codedEnd sid true mem else (mem, d)
  | none => (mem, d)

/-- A member is left out; a second one ends the copy (R360). -/
def Dev.codedFail (sid member : Nat) (mem : List Host.Cell) (d : Dev) : List Host.Cell × Dev :=
  match Tab.look sid d.pool.coded with
  | none => (mem, d)
  | some w =>
    if w.outcome.isNone && Tab.has member w.members then
      let d := d.flag Reg.POOL_ERR.code_degraded
      let d : Dev := { d with pool := { d.pool with coded := Tab.upd sid (fun w => { w with members := Tab.del member w.members, failed := member :: w.failed }) d.pool.coded,
                                                    requests := d.pool.requests.filter (fun e => !(e.2.sid == sid && e.2.member == member && e.2.opened)) } }
      if w.failed.isEmpty then d.codedCheck sid mem else d.codedEnd sid false mem
    else (mem, d)

/-- A member acknowledges one of its requests. [DESIGN CHOICE: log entry 62] -/
def Dev.codedAck (sid member : Nat) (mem : List Host.Cell) (d : Dev) : List Host.Cell × Dev :=
  match Tab.look sid d.pool.coded with
  | none => (mem, d)
  | some w =>
    let left := Tab.getD member 0 w.members - 1
    let d : Dev := { d with pool := { d.pool with coded := Tab.upd sid (fun w => { w with members := if left = 0 then Tab.del member w.members else Tab.put member left w.members }) d.pool.coded } }
    d.codedCheck sid mem

/-- POOL_RESPONSE (R354, R358, R360): a response under a grant that this chip knows to be revoked is discarded; the word of a
revocation closes the grant; anything but ST_OK leaves the member out. -/
def execPoolResponse (p : PoolResp) (s : State) : Host.Outcome State Fault Refusal :=
  onServingMem (fun mem d =>
    match Tab.look p.tag d.pool.requests with
    | none => (mem, d)
    | some o =>
      let d : Dev := { d with pool := { d.pool with requests := Tab.del p.tag d.pool.requests } }
      if !o.opened then (mem, d.flag Reg.POOL_ERR.late_discard)
      else if p.status = ST.OK then d.codedAck o.sid o.member mem
      else
        let d : Dev := if p.status = ST.POOL_REVOKED then
            { d with pool := { d.pool with requests := Tab.mapv (fun _ q => if q.handle == o.handle then { q with opened := false } else q) d.pool.requests } }
          else d
        d.codedFail o.sid o.member mem) s

/-- CODE_MEMBER_TIMEOUT (R360). [DESIGN CHOICE: log entry 62] -/
def execCodeMemberTimeout (sid member t : Nat) (s : State) : Host.Outcome State Fault Refusal :=
  onServingMem (fun mem d =>
    let d := d.advance t
    match Tab.look sid d.pool.coded with
    | some w => if w.started + ms (d.get Reg.POOL_CFG.code_timeout_ms) ≤ d.now then d.codedFail sid member mem else (mem, d)
    | none => (mem, d)) s

end Sys2Proof.Machine
end

