-- ==== Sys2Proof/Machine/Checkpoint.lean ====
section
/-!
DEFINITION. Machine/Checkpoint.lean: checkpoint and restore: the passes, the cut, the copy into shards, the commit, and the placing of a
restored chain (R395 to R418).
-/
namespace Sys2Proof.Machine

/-! ### The passes (R397 to R401) -/

/-- GO goes out for the commands that waited on a quiesced Sector (R400). [DEDUCED: log entry 63] -/
def Dev.releaseHeld (d : Dev) : Dev :=
  (d.ses.ops.filter (fun e => e.2.pass == .prepare && e.2.returned)).foldl (fun d e => d.sendGo e.1) d

/-- What was captured goes back to the active sets (R403); the run is gone. [DEDUCED: log entry 85] -/
def Dev.clearRun (d : Dev) : Dev :=
  let d : Dev := { d with ckpt := { d.ckpt with run := none, touched := d.ckpt.capture ++ d.ckpt.touched.filter (fun x => !d.ckpt.capture.contains x), capture := [],
                                                news := d.ckpt.newsCapture ++ d.ckpt.news.filter (fun x => !d.ckpt.newsCapture.contains x), newsCapture := [], aside := [] } }
  d.settlePeers

/-- A checkpoint is taken: the checks of R397, then QUIESCE to every group (R400). The status it fails with, or ST_OK. -/
def Dev.takeCkpt (ent : Option Ent) (sectors : Nat) (full peersAnswer : Bool) (newest : Nat) (d : Dev) : Nat × Dev :=
  if !d.isCoordinator then (ST.CKPT_NOTCOORD, d)
  else if d.ckpt.run.isSome || d.ckpt.restoring.isSome then (ST.CKPT_BUSY, d)
  else if !peersAnswer then (ST.CKPT_PEER, d)
  else if !d.seedsOk d.domainId sectors then (ST.CKPT_NOKEY, d)
  else
    let r := CkptRun.start (wrap 64 (newest + 1)) sectors full true ent d.now
    let d : Dev := { d.clearRun with ckpt := { d.clearRun.ckpt with run := some r } }
    let d := d.put Reg.CKPT_STATUS.phase 1
    (ST.OK, (d.sendPeers (d.ckptMk 0x20 r ST.OK)).sendRing (d.ckptMk 0x20 r ST.OK))

/-- CKPT_TAKE (R397). `peersAnswer`: every peer HEAD answered; `newest`: the highest ckpt_seq in the directory. -/
def execCkptTake (hdr : EntryHdr) (sectors : Nat) (full peersAnswer : Bool) (newest t : Nat) (s : State) : Host.Outcome State Fault Refusal :=
  onServing (fun d => (d.advance t).ownerAdmin hdr ST.CKPT_DENIED (fun e d =>
    let r := d.takeCkpt (some e) sectors full peersAnswer newest
    if r.1 = ST.OK then r.2 else d.complete e r.1 0)) s

/-- CKPT_INTERVAL_TIMER (R397, R398): every interval_s seconds, for every present Sector; an interval in which a checkpoint runs is
skipped. -/
def execCkptIntervalTimer (peersAnswer : Bool) (newest t : Nat) (s : State) : Host.Outcome State Fault Refusal :=
  onServing (fun d =>
    let d := d.advance t
    let i := d.get Reg.CKPT_CFG.interval_s
    if i ≠ 0 ∧ d.isCoordinator ∧ d.ckpt.lastAt + ms (1000 * i) ≤ d.now then
      let d : Dev := { d with ckpt := { d.ckpt with lastAt := d.now } }
      if d.ckpt.run.isSome || d.ckpt.restoring.isSome then d
      else
        let mask := ((List.range 16).map (fun n => if d.present n then 2 ^ n else 0)).sum
        let r := d.takeCkpt none mask false peersAnswer newest
        if r.1 = ST.OK then r.2 else d.put Reg.CKPT_STATUS.status r.1
    else d) s

/-- The first failure that a message records (R399). -/
def noteCkpt (st pos : Nat) (m : CkptMsg) : CkptMsg := if m.status = ST.OK ∧ st ≠ ST.OK then { m with status := st, failPos := pos } else m

/-- Is the run under way the message's? -/
def Dev.runOf (m : CkptMsg) (d : Dev) : Bool := match d.ckpt.run with | some r => r.seq == m.seq | none => false

/-- A message of HEAD's has come back over the ring. -/
def Dev.ringReturned (m : CkptMsg) (d : Dev) : Dev :=
  match d.ckpt.passMsg with
  | some (p, _) => if p.kind = m.kind ∧ p.seq = m.seq then { d with ckpt := { d.ckpt with passMsg := none } } else d
  | none => d

/-- A run begins on a chip that QUIESCE reaches. -/
def Dev.joinRun (m : CkptMsg) (d : Dev) : Dev :=
  if d.runOf m then d
  else
    let d : Dev := { d.clearRun with ckpt := { d.clearRun.ckpt with run := some (CkptRun.start m.seq m.sectors m.full false none d.now) } }
    d.put Reg.CKPT_STATUS.phase 1

/-- The seeds' part in QUIESCE (R398). -/
def Dev.seedStatus (m : CkptMsg) (d : Dev) : Nat := if d.seedsOk d.domainId m.sectors then ST.OK else ST.CKPT_NOKEY

/-- QUIESCE (R398 to R400). -/
def execQuiesce (m : CkptMsg) (t : Nat) (s : State) : Host.Outcome State Fault Refusal :=
  onServing (fun d =>
    let d := d.advance t
    if !d.isHead then
      let d := d.joinRun m
      d.emit (.ckptMsg none (noteCkpt (d.seedStatus m) d.position m))
    else if m.groupId = d.groupId then
      if d.runOf m then
        let d := d.ringReturned m
        let d := d.runUpd (fun r => if r.ringBack then r else { r with ringBack := true, status := if r.status = ST.OK then m.status else r.status, failPos := m.failPos })
        d.readyCheck.releaseHeld
      else d
    else if d.runOf m then d
    else
      let d := d.joinRun m
      match d.ckpt.run with
      | some r => d.sendRing (noteCkpt (d.seedStatus m) d.position (d.ckptMk 0x20 r ST.OK))
      | none => d) s

/-- CKPT_READY (R400), at the coordinator. -/
def execCkptReady (m : CkptMsg) (t : Nat) (s : State) : Host.Outcome State Fault Refusal :=
  onServing (fun d =>
    let d := d.advance t
    if d.isCoordinator && d.runOf m then (d.groupReady m.groupId m.status).releaseHeld else d) s

/-- QUIESCE_TIMEOUT (R400). -/
def execQuiesceTimeout (t : Nat) (s : State) : Host.Outcome State Fault Refusal :=
  onServing (fun d =>
    let d := d.advance t
    match d.ckpt.run with
    | some r =>
      if r.coord && !r.cutting && decide (r.startedAt + ms (d.orZero Reg.CKPT_CFG.quiesce_ms 256) ≤ d.now) then (d.abandonAll ST.CKPT_QUIESCE).releaseHeld
      else d
    | none => d) s

/-- CUT (R401). -/
def execCut (m : CkptMsg) (t : Nat) (s : State) : Host.Outcome State Fault Refusal :=
  onServing (fun d =>
    let d := d.advance t
    if !d.isHead then
      let d := if d.runOf m then (d.runUpd (fun r => { r with cutting := true })).put Reg.CKPT_STATUS.phase 2 else d
      d.emit (.ckptMsg none m)
    else if m.groupId = d.groupId then d.ringReturned m
    else if d.runOf m then d.beginCut
    else d) s

/-! ### The cut (R396, R402 to R406) -/

/-- Every flit of a step's rows has come. -/
def Step.rowsHere (s : Step) : Bool := decide (s.rows.length = s.rowsTotal)

/-- The conditions of R402 for one covered Sector. [DEDUCED: log entry 63] -/
def Dev.cutReady (r : CkptRun) (n : Nat) (d : Dev) : Bool :=
  if !d.stepsRun n then true
  else
    match Tab.look n r.cutSteps with
    | none => false
    | some c =>
      let running := (d.srv.batches.filter (fun e => e.1 / 256 == n)).filterMap (fun e => e.2.running)
      running.all (fun s => decide (c ≤ s.number) || s.reported) &&
      (if d.isHead then r.batches.all (fun k => k / 256 != n)
       else (d.sectorBatches n).all (fun k => match (d.batch k).running with | some s => decide (c ≤ s.number) && s.rowsHere | none => false))

/-- Is a Sector taken full (R404)? `k` is the epoch that the cut ends. -/
def Dev.takenFull (r : CkptRun) (k n : Nat) (d : Dev) : Bool :=
  match Tab.look n d.ckpt.bases with
  | none => true
  | some b => r.full || decide (4096 ≤ k - b.epoch) || decide (d.get Reg.CKPT_CFG.chain_max ≤ b.chain)

/-- The diff set (R404). -/
def inDiff (k base dirty : Nat) : Bool := decide ((k % 4096 + 4096 - dirty % 4096) % 4096 < k - base)

/-- An object's entry and body. -/
def mkObj (kind sid layer ordinal head bytes : Nat) (body : CkptBody) : CkptObj :=
  { kind := kind, layerId := layer, sid := sid, ordinal := ordinal, kvHead := head, bytes := bytes, body := body }

/-- An object captured at the cut, which lies nowhere in particular. [DEDUCED: log entry 63] -/
def mkPend (sector : Nat) (o : CkptObj) : PendObj := ⟨sector, o, Loc.none_, 0, 0⟩

/-- REC and STAT as one object for each layer slot (R408). -/
def Dev.partObjs (n : Nat) (b : Buoy) (mem : List Host.Cell) (d : Dev) : List PendObj :=
  match d.activeImg n with
  | none => []
  | some i =>
    let at_ (l : Loc) : Nat := tierAddr l.tier n (4096 * l.unit)
    let recs := if b.recLoc.tier = 3 then [] else (i.slots.filter (fun (s : LayerSlot) => s.recBytes != 0)).map (fun (s : LayerSlot) =>
      mkPend n (mkObj 4 b.sid s.layerId 0 0 s.recBytes (.part (Mem.reads (at_ b.recLoc + recOffset i s.layerId) s.recBytes mem))))
    let size (s : LayerSlot) : Nat := if s.kvFormat = 0xFF then 0 else s.kvHeads * s.g * (d.com Reg.SES_CFG.stat_max * 64) * 8
    let before (s : LayerSlot) : Nat := ((i.slots.takeWhile (fun (x : LayerSlot) => x.layerId != s.layerId)).map size).sum
    let stats := if b.statLoc.tier = 3 then [] else (i.slots.filter (fun (s : LayerSlot) => size s != 0)).map (fun (s : LayerSlot) =>
      mkPend n (mkObj 5 b.sid s.layerId 0 0 (size s) (.part (Mem.reads (at_ b.statLoc + before s) (size s) mem))))
    recs ++ stats

/-- Ascending stream, then ordinal (R405). -/
def pageOrder (a b : Page) : Bool := decide (a.stream < b.stream) || (a.stream == b.stream && decide (a.ordinal ≤ b.ordinal))

/-- A session's pending objects in copy order: Buoy, CTRL, REC, STAT, private pages, shared references (R396, R405). -/
def Dev.sessionObjs (n k : Nat) (full : Bool) (b : Buoy) (m : Moor) (mem : List Host.Cell) (d : Dev) : List PendObj :=
  if !full && !d.ckpt.capture.contains (n, b.sid) then []
  else
    let base := match Tab.look n d.ckpt.bases with | some x => x.epoch | none => 0
    let ps := m.pages.mergeSort pageOrder
    [mkPend n (mkObj 1 b.sid 0 0 0 64 (.buoy b))] ++
    (if b.ctrlLoc.tier = 3 then [] else [mkPend n (mkObj 2 b.sid 0 0 0 4096 (.ctrl m.ctrl (ctrlBytes b m)))]) ++ d.partObjs n b mem ++
    (ps.filter (fun p => !p.shared && (full || inDiff k base p.dirty))).map (fun p =>
      ⟨n, mkObj 3 b.sid p.layerId p.ordinal p.kvHead 16384 (.page p []), p.loc, 4, pageKey p.stream p.ordinal⟩) ++
    (ps.filter (·.shared)).map (fun p => mkPend n (mkObj 6 b.sid p.layerId p.ordinal p.kvHead 32 (.shared p.key)))

/-- The session page that shows a shared page. -/
def Dev.sharedPage (n key : Nat) (d : Dev) : Option Page :=
  (d.ses.buoys.filter (fun e => e.2.sector == n)).findSome? (fun e => match d.moor e.2.sid with
    | some m => m.pages.find? (fun p => p.shared && p.key == key)
    | none => none)

/-- What follows every session of a Sector: drop marks, shared pages, adapters, move records (R396, R406). -/
def Dev.sectorObjs (n : Nat) (full : Bool) (mem : List Host.Cell) (d : Dev) : List PendObj :=
  let drops := (d.ckpt.capture.filter (fun e => e.1 == n && (d.buoy e.2).isNone)).map (fun e => mkPend n (mkObj 9 e.2 0 0 0 0 .dropMark))
  let keys := if full then (d.ses.sharing.filter (fun e => e.1.1 == n && e.2 != 0)).map (fun e => e.1.2)
    else (d.ckpt.newsCapture.filter (fun e => e.1 == 7 && e.2.1 == n)).map (fun e => e.2.2)
  let shared := keys.filterMap (fun key => (d.sharedPage n key).map (fun p =>
    (⟨n, mkObj 7 0 p.layerId p.ordinal p.kvHead 16384 (.page p []), p.loc, 4, key⟩ : PendObj)))
  let refs := if full then (((d.ses.buoys.filter (fun e => e.2.sector == n && e.2.adapterRef != 0)).map (fun e => e.2.adapterRef)).eraseDups)
    else (d.ckpt.newsCapture.filter (fun e => e.1 == 8 && e.2.1 == n)).map (fun e => e.2.2)
  let adapters := refs.map (fun h => let bs := adapterBytes n h mem; mkPend n (mkObj 8 0 0 h 0 bs.length (.adapter bs)))
  let moves := if d.isHead then (d.ses.buoys.filter (fun e => e.2.sector == n && e.2.state == 6)).filterMap (fun e =>
      (Tab.look e.2.sid d.ses.records).map (fun m => mkPend n (mkObj 10 e.2.sid 0 0 0 (moveRecordBytes m).length (.record m)))) else []
  drops ++ shared ++ adapters ++ moves

/-- The cut on a chip (R402 to R404). [DEDUCED: log entry 63] -/
def Dev.chipCut (mem : List Host.Cell) (d : Dev) : Dev :=
  match d.ckpt.run with
  | none => d
  | some r =>
    if r.cutting && !r.cutDone && (sectorsOf r.sectors).all (fun n => d.cutReady r n) then
      let k := d.get Reg.CKPT_EPOCH.epoch
      let d := d.put Reg.CKPT_EPOCH.epoch (k + 1)
      let covered (n : Nat) : Bool := r.sectors.testBit n
      let d : Dev := { d with ckpt := { d.ckpt with capture := d.ckpt.touched.filter (fun e => covered e.1), touched := d.ckpt.touched.filter (fun e => !covered e.1),
                                                    newsCapture := d.ckpt.news.filter (fun e => covered e.2.1), news := d.ckpt.news.filter (fun e => !covered e.2.1) } }
      let fulls := (sectorsOf r.sectors).filter (fun n => d.takenFull r k n)
      let pend := (sectorsOf r.sectors).flatMap (fun n =>
        (d.ses.buoys.flatMap (fun e => if e.2.sector == n then
            (match d.moor e.2.sid with | some m => d.sessionObjs n k (fulls.contains n) e.2 m mem | none => []) else [])) ++ d.sectorObjs n (fulls.contains n) mem)
      ((d.runUpd (fun r => { r with cutDone := true, epoch := k, fulls := fulls, pend := pend })).put Reg.CKPT_STATUS.phase 3).releaseHeld
    else d

/-- CHIP_CUT (R402). -/
def execChipCut (t : Nat) (s : State) : Host.Outcome State Fault Refusal :=
  onServing (fun d => (d.advance t).chipCut s.mem) s

/-! ### The copy into shards (R405 to R411) -/

/-- A pending object as the copy takes it: a page's aside copy where there is one, else its header and its bytes where it lay at the cut. A
shared page's header is the first writer's but for its session ID, which reads 0 (R49). -/
def Dev.copyObj (p : PendObj) (mem : List Host.Cell) (d : Dev) : CkptObj :=
  match p.obj.body with
  | .page q _ =>
    let rev := match d.moor p.obj.sid, d.activeImg p.sector with | some m, _ => m.modelRevision | none, some i => i.modelRevision | none, none => 0
    let bs := match d.ckpt.aside.find? (fun a => a.sid == p.obj.sid && a.key == p.key) with
      | some a => a.bytes
      | none => pageHeader p.obj.sid rev q ++ Mem.reads (flatLoc p.sector p.loc + 64) (16384 - 64) mem
    { p.obj with body := .page q bs }
  | _ => p.obj

/-- The next of the pending set: one session, or what follows the sessions (R405). [DEDUCED: log entry 64] -/
def Dev.copyNext (r : CkptRun) (mem : List Host.Cell) (d : Dev) : Dev :=
  match r.pend with
  | [] => d
  | p :: _ =>
    let same (q : PendObj) : Bool := q.sector == p.sector && q.obj.sid == p.obj.sid
    let now := r.pend.takeWhile same
    let d' := d.runUpd (fun r => { r with pend := r.pend.dropWhile same, copied := r.copied ++ now.map (fun q => (q.sector, d.copyObj q mem)) })
    { d' with ckpt := { d'.ckpt with aside := d'.ckpt.aside.filter (fun a => a.sid != p.obj.sid) } }

/-- Bytes that an object takes in a payload (R408). -/
def objBytes (o : CkptObj) : Nat := ceilDiv (32 + o.bytes) 64 * 64

/-- The bytes that follow an object's entry (R408): a Buoy, a control block, a page, a part, a sharing key, an adapter, a move record. -/
def bodyBytes : CkptBody → List Byte
  | .buoy b => buoyBytes b
  | .ctrl _ bs => bs
  | .page _ bs => bs
  | .part bs => bs
  | .shared k => leBytes 32 k
  | .adapter bs => bs
  | .dropMark => []
  | .record m => moveRecordBytes m

/-- An object's 32-byte entry (R408). -/
def ckptEntry (o : CkptObj) : List Byte :=
  leBytes 1 o.kind ++ leBytes 1 0 ++ leBytes 2 o.layerId ++ leBytes 4 o.sid ++ leBytes 4 o.ordinal ++ leBytes 2 o.kvHead ++ leBytes 2 0 ++ leBytes 4 o.bytes ++ leBytes 12 0

/-- The payload of a shard: each object's entry and bytes, padded (R408). -/
def payloadOf (os : List CkptObj) : List Byte := os.flatMap (fun o => padTo (objBytes o) (ckptEntry o ++ bodyBytes o.body))

/-- A shard of objects, with the SHA-256 of its payload (R407). -/
def mkShard (kind sector : Nat) (os : List CkptObj) : Shard :=
  { kind := kind, sector := sector, objects := os, bytes := (os.map objBytes).sum, digest := sha256 (payloadOf os) }

/-- The first 64 bytes of a shard's header block, the additional data of its encryption (R407). -/
def Dev.shardHead (seq : Nat) (s : Shard) (d : Dev) : List Byte :=
  leBytes 2 0x4853 ++ leBytes 2 1 ++ leBytes 1 s.kind ++ leBytes 1 s.sector ++ leBytes 2 d.domainId ++ leBytes 8 seq ++ leBytes 2 d.position ++ leBytes 2 0 ++
    leBytes 4 s.objects.length ++ leBytes 8 s.bytes ++ leBytes 32 s.digest

/-- A shard as it is written (R407): the header block, then the payload under the Sector's checkpoint key with the first 12 digest bytes as
IV, zero-padded to whole blocks. -/
def Dev.shardImage (seq : Nat) (s : Shard) (d : Dev) : List Byte :=
  let head := d.shardHead seq s
  let g := aesGcm ((d.key (.ckpt d.domainId s.sector)).getD []) ((leBytes 32 s.digest).take 12) head (payloadOf s.objects)
  let body := head ++ g.2 ++ leBytes 44 0
  padTo 4096 (body ++ leBytes 4 (crc32c body)) ++ padTo (ceilDiv s.bytes 4096 * 4096) g.1

/-- Objects packed in order, none across two shards of 64 MiB with their header block (R407). [DEDUCED: log entry 64] -/
def packShards (kind sector : Nat) : List CkptObj → List CkptObj → Nat → List Shard
  | [], acc, _ => if acc.isEmpty then [] else [mkShard kind sector acc.reverse]
  | o :: os, acc, n =>
    if n + objBytes o ≤ 67104768 ∨ acc.isEmpty then packShards kind sector os (o :: acc) (n + objBytes o)
    else mkShard kind sector acc.reverse :: packShards kind sector os [o] (objBytes o)

/-- The key of a shared page's object. [DEDUCED: log entry 64] -/
def objKey (o : CkptObj) : Nat := match o.body with | .page p _ => p.key | _ => 0

/-- A key as the byte string that sorts it. [DEDUCED: log entry 64] -/
def keyString (k : Nat) : Nat := beNat (leBytes 32 k)

/-- The digest of an adapter's object. -/
def adapterDigest (o : CkptObj) : Nat := match o.body with | .adapter bs => sha256 bs | _ => 0

/-- A Sector's shards (R407): session shards, a bucket of shared pages for each first byte of the key, adapter shards. -/
def sectorShards (n : Nat) (os : List CkptObj) : List Shard :=
  let shared := (os.filter (fun o => o.kind == 7)).mergeSort (fun a b => decide (keyString (objKey a) ≤ keyString (objKey b)))
  let adapters := (os.filter (fun o => o.kind == 8)).mergeSort (fun a b => decide (keyString (adapterDigest a) ≤ keyString (adapterDigest b)))
  packShards 1 n (os.filter (fun o => o.kind != 7 && o.kind != 8)) [] 0 ++
    (List.range 256).flatMap (fun b => packShards 2 n (shared.filter (fun o => objKey o % 256 == b)) [] 0) ++ packShards 3 n adapters [] 0

/-- Is a shard deduplicated among replica peers (R411)? [DEDUCED: log entry 64] -/
def Shard.deduped (s : Shard) : Bool := s.kind == 2 || s.kind == 3

/-- The shards are built; digest lists go to the replica peers (R411). [DEDUCED: log entry 64] -/
def Dev.buildShards (r : CkptRun) (d : Dev) : Dev :=
  let shards := (sectorsOf r.sectors).flatMap (fun n => sectorShards n ((r.copied.filter (fun e => e.1 == n)).map (·.2)))
  let digests := (shards.filter Shard.deduped).map (·.digest)
  let d := d.runUpd (fun r => { r with shards := some shards, copied := [], listsSince := some d.now })
  d.ckptPeers.foldl (fun d p => d.emit (.digestList p.2 digests)) d

/-- Every peer's list is in. -/
def Dev.listsIn (r : CkptRun) (d : Dev) : Bool := d.ckptPeers.all (fun p => Tab.has p.2 r.lists)

/-- A peer with a lower chip ID lists the shard's digest, so that it writes it (R411). -/
def Dev.writtenByPeer (r : CkptRun) (s : Shard) (d : Dev) : Bool :=
  s.deduped && r.lists.any (fun e => decide (e.1 < d.chipId) && e.2.contains s.digest)

/-- Blocks of a shard: header and payload (R407). -/
def Shard.blocks (s : Shard) : Nat := 1 + ceilDiv s.bytes 4096

/-- The NGUID and size of the namespace that the chip writes to: its Identify data, which the model does not hold. [DESIGN CHOICE: log entry 65] -/
def Dev.ns0 (d : Dev) : Nat := d.get (Reg.CKPT_NS.target 0) * 2 ^ 32 + d.get (Reg.CKPT_NS.nsid 0)

/-- The log's next `n` blocks, wrapping at the namespace's end to block 64 (R410). [DEDUCED: log entry 64; DESIGN CHOICE: log entry 65] -/
def Dev.logTake (n : Nat) (d : Dev) : Nat × Dev :=
  let size := Config.unstated 41 [d.ns0]
  let at_ := if d.ckpt.log + n ≤ size then d.ckpt.log else 64
  (at_, { d with ckpt := { d.ckpt with log := at_ + n } })

/-- Write one shard, or record a reference to a peer's (R411). [DEDUCED: log entry 64; DESIGN CHOICE: log entry 65] -/
def Dev.writeShard (r : CkptRun) (s : Shard) (x : List ShardEntry × Dev) : List ShardEntry × Dev :=
  let d := x.2
  if d.writtenByPeer r s then (x.1 ++ [⟨0, 0, 0, s.kind, s.sector, true, s.digest⟩], d.bump Reg.CKPT_REFS.count 1)
  else
    let l := d.logTake s.blocks
    let nguid := wrap 128 (Config.unstated 40 [d.ns0])
    (x.1 ++ [⟨nguid, l.1, s.blocks, s.kind, s.sector, false, s.digest⟩], l.2.emit (.ckptShard nguid l.1 s (d.shardImage r.seq s)))

/-- This chip's entry (R413). -/
def Dev.chipEntry (r : CkptRun) (shards : Nat) (d : Dev) : CkptChip :=
  let img := (sectorsOf r.sectors).findSome? (fun n => d.activeImg n)
  { groupId := d.groupId, position := d.position, chipId := d.chipId, firstShard := 0, shards := shards,
    layerDigest := match img with | some i => i.layerDigest | none => 0, slots := match img with | some i => i.slots | none => [] }

/-- This group's entry (R413). -/
def Dev.groupEntry (r : CkptRun) (d : Dev) : CkptGroup := { groupId := d.groupId, size := d.groupSize, cutSteps := r.cutSteps }

/-! ### Reports and the commit (R412, R413) -/

/-- The checkpoint becomes the base of its Sectors on this chip (R412 step 5). [DESIGN CHOICE: log entry 65] -/
def Dev.commitBase (d : Dev) : Dev :=
  match d.ckpt.run with
  | none => d
  | some r =>
    let bases := (sectorsOf r.sectors).foldl (fun t n =>
      let chain := if r.fulls.contains n then 0 else (match Tab.look n t with | some b => b.chain + 1 | none => 0)
      Tab.put n (⟨r.seq, r.epoch, chain⟩ : CkptBase) t) d.ckpt.bases
    let d : Dev := { d with ckpt := { d.ckpt with bases := bases, run := none, capture := [], newsCapture := [], aside := [],
                                                  kept := ((sectorsOf r.sectors).all (fun n => r.fulls.contains n), r.blocks) :: d.ckpt.kept } }
    ((d.settlePeers.put Reg.CKPT_STATUS.phase 0).put Reg.CKPT_STATUS.status ST.OK).put Reg.CKPT_SEQ.ckpt_seq r.seq

/-- Chip entries in manifest order, with each chip's shard entries (R413). -/
def manifestOrder (chips : List CkptChip) (entries : List ShardEntry) : List CkptChip × List ShardEntry :=
  let cs := chips.mergeSort (fun a b => decide (a.groupId < b.groupId) || (a.groupId == b.groupId && decide (a.position ≤ b.position)))
  cs.foldl (fun acc c => (acc.1 ++ [{ c with firstShard := acc.2.length }], acc.2 ++ (entries.drop c.firstShard).take c.shards)) ([], [])

/-- The manifest (R413). -/
def Dev.manifest (r : CkptRun) (d : Dev) : Manifest :=
  let o := manifestOrder r.chips r.entries
  let full := (sectorsOf r.sectors).all (fun n => r.fulls.contains n)
  let base := (sectorsOf r.sectors).findSome? (fun n => if r.fulls.contains n then none else Tab.look n d.ckpt.bases)
  { domain := d.domainId, full := full, seq := r.seq, baseSeq := match base with | some b => b.seq | none => 0,
    chainLen := match base with | some b => b.chain + 1 | none => 0, sectors := r.sectors,
    modelRevision := match (sectorsOf r.sectors).findSome? (fun n => d.activeImg n) with | some i => i.modelRevision | none => 0,
    cutDaymark := r.cutDaymark, groups := r.groups.mergeSort (fun a b => decide (a.groupId ≤ b.groupId)), chips := o.1, shards := o.2 }

/-- Layer slots of a manifest's chips. -/
def manifestSlots (m : Manifest) : Nat := (m.chips.map (fun c => c.slots.length)).sum

/-- Blocks of a manifest (R413). [DESIGN CHOICE: log entry 65] -/
def manifestBlocks (m : Manifest) : Nat :=
  ceilDiv (128 + 80 * m.groups.length + 64 * m.chips.length + 32 * manifestSlots m + 64 * m.shards.length) 4096

/-- A manifest's header (R413). -/
def ckptHeader (m : Manifest) : List Byte :=
  leBytes 2 0x4D43 ++ leBytes 2 1 ++ leBytes 2 m.domain ++ leBytes 1 m.groups.length ++ leBytes 1 (b2n m.full) ++ leBytes 8 m.seq ++ leBytes 8 m.baseSeq ++
    leBytes 2 m.chainLen ++ leBytes 2 m.sectors ++ leBytes 2 m.chips.length ++ leBytes 2 0 ++ leBytes 8 m.modelRevision ++ leBytes 8 m.cutDaymark ++
    leBytes 4 m.shards.length ++ leBytes 76 0

/-- A group entry: 80 bytes (R413). -/
def groupEntryBytes (g : CkptGroup) : List Byte :=
  leBytes 2 g.groupId ++ leBytes 2 g.size ++ leBytes 12 0 ++ (List.range 16).flatMap (fun n => leBytes 4 (Tab.getD n 0xFFFFFFFF g.cutSteps))

/-- A manifest's bytes (R413). -/
def manifestBytes (m : Manifest) : List Byte :=
  ckptHeader m ++ m.groups.flatMap groupEntryBytes ++ m.chips.flatMap chipEntryBytes ++ m.chips.flatMap (fun c => c.slots.flatMap slotBytes) ++
    m.shards.flatMap shardEntryBytes

/-- A directory slot's block (R413). -/
def slotImage (m : Manifest) (lba : Nat) : List Byte :=
  let a := leBytes 2 0x4443 ++ leBytes 2 1 ++ leBytes 2 m.domain ++ leBytes 2 0 ++ leBytes 8 m.seq ++ leBytes 8 m.baseSeq ++ leBytes 8 lba ++ leBytes 4 (manifestBlocks m)
  let b := leBytes 32 (sha256 (manifestBytes m))
  padTo 4096 (a ++ leBytes 4 (crc32c (a ++ b)) ++ b)

/-- Blocks that the newest CKPT_DOMAIN.keep chains hold: a chain is a full checkpoint and what builds on it (R410). -/
def keptSpans : Nat → List (Bool × List (Nat × Nat)) → List (Nat × Nat)
  | 0, _ => []
  | _, [] => []
  | k + 1, (full, xs) :: rest => xs ++ keptSpans (if full then k else k + 1) rest

/-- Do blocks lie in the way of a kept chain (R410)? -/
def Dev.keptAt (spans : List (Nat × Nat)) (d : Dev) : Bool :=
  (keptSpans (d.orZero Reg.CKPT_DOMAIN.keep 1) d.ckpt.kept).any (fun k => spans.any (fun x => decide (x.1 < k.1 + k.2) && decide (k.1 < x.1 + x.2)))

/-- The blocks that a run wrote are held by its checkpoint. -/
def Dev.holdBlocks (spans : List (Nat × Nat)) (d : Dev) : Dev := d.runUpd (fun r => { r with blocks := r.blocks ++ spans })

/-- Every report is in: the manifest, Flush, and the directory slot, whose write is the commit; then COMMIT goes to every chip
(R412). [DESIGN CHOICE: log entry 65] -/
def Dev.commitAll (manifestStatus : Nat) (d : Dev) : Dev :=
  match d.ckpt.run with
  | none => d
  | some r =>
    let d := d.put Reg.CKPT_STATUS.phase 4
    if manifestStatus ≠ ST.OK then (if manifestStatus = ST.CKPT_TARGET then d.flag Reg.CKPT_ERR.target else d).abandonAll manifestStatus
    else
      let m := d.manifest r
      let l := d.logTake (manifestBlocks m)
      if l.2.keptAt [(l.1, manifestBlocks m)] then d.abandonAll ST.CKPT_NOSPACE
      else
      let d := (((l.2.emit (.ckptManifest l.1 m (manifestBytes m))).emit .ckptFlush).emit (.ckptSlot (r.seq % 64) (slotImage m l.1))).holdBlocks [(l.1, manifestBlocks m)]
      let d := d.put Reg.CKPT_LAST_US.count (min ((d.daymark - r.cutDaymark) / 1000) 0xFFFFFFFF)
      let c := d.ckptMk 0x24 r ST.OK
      (((d.sendPeers c).commitBase).sendRing c).completeOpt r.ent ST.OK r.seq

/-- Groups whose reports are complete, at the coordinator. -/
def Dev.groupsIn (r : CkptRun) (d : Dev) : Bool := (d.groupId :: d.ckptPeers.map (·.1)).all (fun g => r.groups.any (fun x => x.groupId == g))

/-- Reports reach HEAD (R412): its group's, forwarded to the coordinator when they are complete; at the coordinator every
group's. -/
def Dev.takeReport (group status : Nat) (chips : List CkptChip) (entries : List ShardEntry) (groups : List CkptGroup) (manifestStatus : Nat) (d : Dev) : Dev :=
  match d.ckpt.run with
  | none => d
  | some r =>
    if status ≠ ST.OK then
      if r.coord then d.abandonAll status
      else d.emit (.ckptReport (some d.coordinatorChip) { d.ckptMk 0x23 r status with entries := 0 } [] [] [])
    else if chips.any (fun c => r.chips.any (fun x => x.groupId == c.groupId && x.position == c.position)) then d
    else
      let d := d.runUpd (fun r => { r with chips := r.chips ++ chips.map (fun c => { c with firstShard := r.entries.length + c.firstShard }),
                                           entries := r.entries ++ entries, groups := r.groups ++ groups })
      let mine : List CkptChip := match d.ckpt.run with | some r => r.chips.filter (fun (c : CkptChip) => c.groupId == d.groupId) | none => []
      let d := if group = d.groupId ∧ mine.length = d.groupSize then d.runUpd (fun r => { r with groups := r.groups ++ [d.groupEntry r] }) else d
      match d.ckpt.run with
      | none => d
      | some r =>
        if r.coord then (if d.groupsIn r then d.commitAll manifestStatus else d)
        else if mine.length = d.groupSize then
          d.emit (.ckptReport (some d.coordinatorChip) { d.ckptMk 0x23 r ST.OK with entries := r.chips.length + r.entries.length } r.chips r.entries r.groups)
        else d

/-- A chip's report: to its HEAD over the ring, or taken at once by HEAD itself (R412). -/
def Dev.sendReport (r : CkptRun) (status : Nat) (entries : List ShardEntry) (d : Dev) : Dev :=
  let d := d.runUpd (fun r => { r with reported := true })
  let chips := if status = ST.OK then [d.chipEntry r entries.length] else []
  if d.isHead then d.takeReport d.groupId status chips entries [] ST.OK
  else d.emit (.ckptReport none { d.ckptMk 0x23 r status with entries := chips.length + entries.length } chips entries [])

/-- The shards are written and flushed, and the chip reports (R410 to R412). -/
def Dev.writeShards (r : CkptRun) (shards : List Shard) (fits writes : Bool) (d : Dev) : Dev :=
  if d.get (Reg.CKPT_NS.valid 0) = 0 ∨ (fits ∧ !writes) then (d.flag Reg.CKPT_ERR.target).sendReport r ST.CKPT_TARGET []
  else if !fits then d.sendReport r ST.CKPT_NOSPACE []
  else
    let x := shards.foldl (fun x s => Dev.writeShard r s x) ([], d)
    let spans := (x.1.filter (fun e => !e.reference)).map (fun e => (e.lba, e.blocks))
    let mib := ((x.1.map (fun e => e.blocks)).sum * 4096) / 2 ^ 20
    if x.2.keptAt spans then d.sendReport r ST.CKPT_NOSPACE []
    else (((x.2.emit .ckptFlush).bump Reg.CKPT_MIB.count mib).holdBlocks spans).sendReport r ST.OK x.1

/-- One step of the background copy: a session of the pending set, then the shards, then their writing. `fits`: no block of a chain
kept from before the last reset is in the way; `writes`: the target took every write. -/
def Dev.copyStep (fits writes : Bool) (mem : List Host.Cell) (d : Dev) : Dev :=
  match d.ckpt.run with
  | none => d
  | some r =>
    if !r.cutDone || r.reported then d
    else if !r.pend.isEmpty then d.copyNext r mem
    else
      match r.shards with
      | none => d.buildShards r
      | some shards => if d.listsIn r then (d.writeShards r shards fits writes).releaseHeld else d

/-- CKPT_COPY (R405 to R411). [DEDUCED: log entry 64] -/
def execCkptCopy (fits writes : Bool) (t : Nat) (s : State) : Host.Outcome State Fault Refusal :=
  onServing (fun d => (d.advance t).copyStep fits writes s.mem) s

/-- DEDUP_DIGEST_LIST (R411). -/
def execDedupDigestList (chip : Nat) (digests : List Nat) (s : State) : Host.Outcome State Fault Refusal :=
  onServing (fun d => d.runUpd (fun r => { r with lists := Tab.put chip digests r.lists })) s

/-- DEDUP_LIST_TIMEOUT (R411): after 10 ms a list that has not come counts as empty. -/
def execDedupListTimeout (t : Nat) (s : State) : Host.Outcome State Fault Refusal :=
  onServing (fun d =>
    let d := d.advance t
    match d.ckpt.run with
    | some { listsSince := some a, .. } =>
      if a + ms 10 ≤ d.now then
        let missing := d.ckptPeers.map (·.2)
        d.runUpd (fun r => { r with lists := missing.foldl (fun t c => if Tab.has c t then t else Tab.put c [] t) r.lists })
      else d
    | _ => d) s

/-- REPORT (R412). `manifestStatus`: how the coordinator's writing of the manifest and the slot went. -/
def execReport (m : CkptMsg) (chips : List CkptChip) (shards : List ShardEntry) (groups : List CkptGroup) (manifestStatus t : Nat) (s : State) :
    Host.Outcome State Fault Refusal :=
  onServing (fun d =>
    let d := d.advance t
    if !d.isHead then d.emit (.ckptReport none m chips shards groups)
    else if d.runOf m then (d.takeReport m.groupId m.status chips shards groups manifestStatus).releaseHeld
    else d) s

/-- The end of a run reaches a chip: from the coordinator at another HEAD, which sends it down its own ring; back at HEAD; or on its
way down the ring. -/
def Dev.endMsg (m : CkptMsg) (f : Dev → Dev) (d : Dev) : Dev :=
  let mine := d.runOf m
  let d' := if mine then (f d).releaseHeld else d
  if !d.isHead then d'.emit (.ckptMsg none m)
  else if m.groupId = d.groupId then d.ringReturned m
  else if mine then d'.sendRing { m with groupId := d.groupId }
  else d

/-- CKPT_COMMIT (R412 step 5). -/
def execCkptCommit (m : CkptMsg) (t : Nat) (s : State) : Host.Outcome State Fault Refusal :=
  onServing (fun d => (d.advance t).endMsg m Dev.commitBase) s

/-- ABANDON (R400, R403, R412). -/
def execAbandon (m : CkptMsg) (s : State) : Host.Outcome State Fault Refusal :=
  onServing (fun d => d.endMsg m (fun d => d.dropRun m.status)) s

/-- CKPT_MSG_RESEND (R399): every 10 ms, without the limit of R98. [DEDUCED: log entry 64] -/
def execCkptMsgResend (t : Nat) (s : State) : Host.Outcome State Fault Refusal :=
  onServing (fun d =>
    let d := d.advance t
    match d.ckpt.passMsg with
    | some (m, a) => if a + ms 10 ≤ d.now then ({ d with ckpt := { d.ckpt with passMsg := some (m, d.now) } } : Dev).emit (.ckptMsg none m) else d
    | none => d) s

/-! ### Restore (R414 to R418) -/

/-- The objects of a shard entry as the chip read them; a reference is resolved to the written entry of the same digest in the same
manifest (R415). -/
def linkObjectsAt (l : ChainLink) (i : Nat) : List CkptObj :=
  let at_ := match l.manifest.shards[i]? with
    | some e => if e.reference then l.manifest.shards.findIdx? (fun x => !x.reference && x.digest == e.digest && x.kind == e.kind) else some i
    | none => none
  match at_ with
  | some k => (match Tab.look k l.files with | some f => f.objects | none => [])
  | none => []

/-- A chip's shard entries of a Sector. -/
def linkEntries (l : ChainLink) (c : CkptChip) (n : Nat) : List Nat :=
  ((List.range c.shards).map (fun k => c.firstShard + k)).filter (fun i => match l.manifest.shards[i]? with | some e => e.sector == n | none => false)

/-- What a source group's chips hold of a Sector at one checkpoint: each object with the position of its chip. -/
def linkObjects (l : ChainLink) (group n : Nat) : List (Nat × CkptObj) :=
  (l.manifest.chips.filter (fun c => c.groupId == group)).flatMap (fun c => (linkEntries l c n).flatMap (fun i => (linkObjectsAt l i).map (fun o => (c.position, o))))

/-- Objects of a chain, newest first; one behind a drop mark newer than it is discarded (R415). -/
def chainObjects (group n : Nat) : List ChainLink → List Nat → List (Nat × CkptObj)
  | [], _ => []
  | l :: rest, dropped =>
    let os := linkObjects l group n
    os.filter (fun x => x.2.kind != 9 && (x.2.kind == 7 || x.2.kind == 8 || !dropped.contains x.2.sid)) ++
      chainObjects group n rest (dropped ++ (os.filter (fun x => x.2.kind == 9)).map (fun x => x.2.sid))

/-- The first failure of a shard's checks (R415): hdr_crc, domain and ckpt_seq against the manifest, tag, digest. A failed hdr_crc counts as
a failed check of the shard. [DEDUCED: log entry 66] -/
def linkStatus (l : ChainLink) : Nat :=
  match l.files.find? (fun e => !e.2.hdrOk || e.2.domain != l.manifest.domain || e.2.seq != l.manifest.seq || !e.2.tagOk || !e.2.digestOk) with
  | some e => if e.2.hdrOk ∧ (e.2.domain ≠ l.manifest.domain ∨ e.2.seq ≠ l.manifest.seq) then ST.CKPT_MIXED else ST.CKPT_VERIFY
  | none => ST.OK

/-- The shards' status of a candidate: this chip's, then what the others met. -/
def candShards (c : RestoreCand) : Nat :=
  match (c.chain.map linkStatus).find? (fun x => x != ST.OK) with
  | some x => x
  | none => c.otherShards

/-- A chain as base_seq walks it: every slot valid, every digest matching, back to the full checkpoint (R415). -/
def chainWalks (domain : Nat) : Nat → List ChainLink → Bool
  | _, [] => false
  | seq, l :: rest =>
    l.slotOk && l.digestOk && l.manifest.seq == seq && l.manifest.domain == domain &&
      (if l.manifest.baseSeq = 0 then l.manifest.full && rest.isEmpty else chainWalks domain l.manifest.baseSeq rest)

/-- Is the candidate's chain whole, its full checkpoint with the source group (R415)? -/
def candWhole (domain group : Nat) (c : RestoreCand) : Bool :=
  chainWalks domain c.seq c.chain && (match c.chain.getLast? with | some l => l.manifest.groups.any (fun g => g.groupId == group) | none => false)

/-- The manifest of the candidate itself. -/
def candManifest (c : RestoreCand) : Option Manifest := c.chain.head?.map (fun l => l.manifest)

/-- Layer slots of the source group's chips. -/
def candSlots (group : Nat) (c : RestoreCand) : List LayerSlot :=
  match candManifest c with
  | some m => (m.chips.filter (fun x => x.groupId == group)).flatMap (fun x => x.slots)
  | none => []

/-- Position of the source group's TAIL. -/
def candTail (group : Nat) (c : RestoreCand) : Nat :=
  match candManifest c with
  | some m => (match m.groups.find? (fun g => g.groupId == group) with | some g => g.size - 1 | none => 0)
  | none => 0

/-- A slot's part among objects of a kind: what its bytes are, brought to `size`. -/
def slotPart (kind sid size : Nat) (os : List (Nat × CkptObj)) (s : LayerSlot) : List Byte :=
  match os.find? (fun x => x.2.kind == kind && x.2.sid == sid && x.2.layerId == s.layerId) with
  | some (_, { body := .part bs, .. }) => padTo size bs
  | _ => List.replicate size 0

/-- The stream of a layer and KV head among an image's slots (R63). -/
def streamAt (i : Image) (layer head : Nat) : Nat := (i.slots.takeWhile (fun (s : LayerSlot) => s.layerId != layer)).length * i.kvHeads + head

/-- A session's pages of the chip's own layers, each with its bytes, from the newest object of its layer, head and ordinal: a private page or
a shared reference with its page (R416). One that lies past the context length is no page of the session. [DEDUCED: log entry 66] -/
def restoredPages (i : Image) (sid ctx : Nat) (os : List (Nat × CkptObj)) : List (Page × List Byte) :=
  let mine := (os.filter (fun x => x.2.sid == sid && (x.2.kind == 3 || x.2.kind == 6) && i.slots.any (fun s => s.layerId == x.2.layerId))).map (·.2)
  let newest := mine.foldl (fun (acc : List CkptObj) o => if acc.any (fun x => x.layerId == o.layerId && x.kvHead == o.kvHead && x.ordinal == o.ordinal) then acc else acc ++ [o]) []
  (newest.filterMap (fun o =>
    let put (p : Page) : Page := { p with stream := streamAt i o.layerId o.kvHead, ordinal := o.ordinal, loc := ⟨0, 0⟩, bad := false }
    match o.body with
    | .page p bs => some (put p, bs)
    | .shared key => os.findSome? (fun x => match x.2.body with | .page p bs => if x.2.kind = 7 ∧ p.key = key then some (put p, bs) else none | _ => none)
    | _ => none)).filter (fun x => decide (x.1.first < ctx))

/-- The control block (R416): the carry from the source HEAD's; the rest, grammar and detok among it, from the source TAIL's, and the held
token and tool record from the HEAD's (R208). [DEDUCED: log entry 66] -/
def joinCtrl (head tail : Ctrl) : Ctrl := { tail with carry := head.carry, held := head.held, seed := head.seed, toolSeq := head.toolSeq, toolPos := head.toolPos,
                                                      toolTag := head.toolTag, toolQueue := head.toolQueue }

/-- A session as this chip takes it from a chain (R415, R416). -/
def Dev.restoredOne (group n sid : Nat) (c : RestoreCand) (i : Image) (os : List (Nat × CkptObj)) (d : Dev) : Option RestoredSession :=
  let buoyAt (pos : Nat) : Option Buoy := os.findSome? (fun x => match x.2.body with | .buoy b => if x.1 = pos ∧ x.2.sid = sid then some b else none | _ => none)
  let ctrlAt (pos : Nat) : Ctrl := (os.findSome? (fun x => match x.2.body with | .ctrl k _ => if x.1 = pos ∧ x.2.sid = sid then some k else none | _ => none)).getD Ctrl.empty
  (buoyAt 0).map (fun b =>
    let t := candTail group c
    let b : Buoy := { b with sector := n, sampler := match buoyAt t with | some x => x.sampler | none => b.sampler }
    let ps := restoredPages i sid b.ctx os
    let statSize (s : LayerSlot) : Nat := if s.kvFormat = 0xFF then 0 else s.kvHeads * s.g * d.statWindow * 8
    let has (kind : Nat) : Bool := os.any (fun x => x.2.kind == kind && x.2.sid == sid && i.slots.any (fun s => s.layerId == x.2.layerId))
    let recs := if has 4 then (i.slots.filter (fun (s : LayerSlot) => s.recBytes != 0)).flatMap (fun s => slotPart 4 sid s.recBytes os s) else []
    let stats := if has 5 then i.slots.flatMap (fun s => slotPart 5 sid (statSize s) os s) else []
    let adapter : Option (List Byte) := if b.adapterRef = 0 then none else
      (match os.find? (fun x => x.2.kind == 8 && x.2.ordinal == b.adapterRef && x.1 == d.position) with
       | some x => some (bodyBytes x.2.body)
       | none => (os.find? (fun x => x.2.kind == 8 && x.2.ordinal == b.adapterRef)).map (fun x => bodyBytes x.2.body))
    { buoy := b, ctrl := joinCtrl (ctrlAt 0) (ctrlAt t), pages := ps.map (·.1), recUnits := ceilDiv recs.length 4096, statUnits := ceilDiv stats.length 4096,
      record := os.findSome? (fun x => match x.2.body with | .record r => if x.2.sid = sid then some r else none | _ => none),
      pageBytes := ps.map (·.2), recBytes := recs, statBytes := stats, adapter := adapter })

/-- The sessions of a Sector that a chain holds, in ascending session ID. -/
def Dev.restoredSector (group : Nat) (c : RestoreCand) (n : Nat) (d : Dev) : List RestoredSession :=
  match d.activeImg n with
  | none => []
  | some i =>
    let os := chainObjects group n c.chain []
    let sids := (((os.filter (fun x => x.2.kind == 1 && x.1 == 0)).map (fun x => x.2.sid)).eraseDups).mergeSort (fun a b => decide (a ≤ b))
    sids.filterMap (fun sid => d.restoredOne group n sid c i os)

/-- The sessions of a candidate as this chip takes them. -/
def Dev.restored (sectors group : Nat) (c : RestoreCand) (d : Dev) : List RestoredSession := (sectorsOf sectors).flatMap (fun n => d.restoredSector group c n)

/-- The layers of a candidate fit the group's placement (R416). -/
def slotsMatch (source target : List LayerSlot) : Bool := source.all (fun s => target.contains s) && target.all (fun s => source.contains s)

/-- The candidate's layers, revision and streams suit the restored Sectors' images, on this chip and on the others (R416). [DEDUCED: log entry 66] -/
def Dev.placementOk (sectors group : Nat) (c : RestoreCand) (d : Dev) : Bool :=
  (sectorsOf sectors).all (fun n => match d.activeImg n, candManifest c with
    | some i, some m => i.modelRevision == m.modelRevision && slotsMatch (candSlots group c) (i.slots ++ c.otherSlots) &&
        (d.restoredSector group c n).all (fun x => x.pages.all (fun p => decide (p.ordinal < i.lps * 512)))
    | _, _ => false) && c.otherPagesFit

/-- A restored session's state, and where it went (R417); none for one that was moving in. [DEDUCED: log entry 66] -/
def restoredState (cold : Bool) (x : RestoredSession) : Option (Nat × Nat × Nat) :=
  let parked : Nat := if cold then 5 else 4
  let plain (st : Nat) : Nat := if st = 7 ∨ st = 8 then st else parked
  if x.buoy.state = 6 then
    match x.record with
    | none => none
    | some m => if m.claim = 1 then some (7, m.claimGroup, 0) else if m.claim = 2 then some (plain m.fromState, 0, 0) else some (8, 0, 0)
  else some (plain x.buoy.state, x.buoy.remGroup, x.buoy.remChip)

/-- Units that a restored session takes of its tier: root, CTRL, leaves, private pages, REC, STAT. -/
def restoreUnits (cold : Bool) (x : RestoredSession) : Nat :=
  match restoredState cold x with
  | some (st, _, _) => if st = 7 ∨ st = 8 then 0 else
      5 + ((x.pages.map (fun p => leafKey p.stream (p.ordinal / 512))).eraseDups).length + 4 * (x.pages.filter (fun p => !p.shared)).length + x.recUnits + x.statUnits
  | none => 0

/-- Resource 4 of R188 for a restore: what the sessions of a Sector take of the tier they go to, with one copy of each shared page in tier 1
(R75, R416); the shortfall in bytes, if any. [DEDUCED: log entry 66] -/
def Dev.restoreShort (sectors group : Nat) (cold : Bool) (c : RestoreCand) (d : Dev) : Option Nat :=
  (sectorsOf sectors).findSome? (fun n =>
    let xs := d.restoredSector group c n
    let own := (xs.map (restoreUnits cold)).sum
    let shared := 4 * (((xs.flatMap (fun x => (x.pages.filter (·.shared)).map (fun p => p.key))).eraseDups).length)
    let short (tier want : Nat) : Option Nat := if d.tierFree tier n < want then some (noFit 4 0xFFFF (shortKib (4096 * want) (4096 * d.tierFree tier n))) else none
    if cold then (match short 2 own with | some x => some x | none => short 1 shared) else short 1 (own + shared))

/-- The end of a restore at HEAD. -/
def Dev.restoreEnd (e : Ent) (status result : Nat) (d : Dev) : Dev :=
  let d : Dev := { d with ckpt := { d.ckpt with restoring := none } }
  ((d.put Reg.CKPT_STATUS.phase 0).put Reg.CKPT_STATUS.status status).complete e status result

/-- A shard's failed check leaves its mark (R415). -/
def Dev.shardMark (st : Nat) (d : Dev) : Dev :=
  if st = ST.CKPT_MIXED then d.flag Reg.CKPT_ERR.mixed else if st = ST.CKPT_VERIFY then d.flag Reg.CKPT_ERR.verify else if st = ST.CKPT_TARGET then d.flag Reg.CKPT_ERR.target else d

/-- The newest candidate whose chain is whole and verifies is placed; one that does not suit ends the command (R415, R416). [DEDUCED: log entry 66] -/
def Dev.tryCands (e : Ent) (sectors : Nat) (cold : Bool) (domain group : Nat) : List RestoreCand → Dev → Dev
  | [], d => d.restoreEnd e ST.CKPT_NONE 0
  | c :: cs, d =>
    if !candWhole domain group c then Dev.tryCands e sectors cold domain group cs d
    else if !d.placementOk sectors group c then d.restoreEnd e ST.CKPT_PLACEMENT 0
    else if (d.restoreShort sectors group cold c).isSome ∨ !c.otherRoom then d.restoreEnd e ST.IMG_NOFIT ((d.restoreShort sectors group cold c).getD (noFit 4 0xFFFF 0))
    else if candShards c ≠ ST.OK then Dev.tryCands e sectors cold domain group cs (d.shardMark (candShards c))
    else
      let d : Dev := { d with ckpt := { d.ckpt with restoring := some (e, sectors, cold, c :: cs, group) } }
      (d.put Reg.CKPT_STATUS.phase 5).emit (.restoreChain (c.chain.map (fun l => l.manifest.seq)))

/-- CKPT_RESTORE (R414, R415). `cands`: what the directory offers. [DEDUCED: log entry 66] -/
def execCkptRestore (hdr : EntryHdr) (sectors : Nat) (cold : Bool) (seq sourceDomain sourceGroup : Nat) (seedStatus : Nat) (cands : List RestoreCand) (s : State) :
    Host.Outcome State Fault Refusal :=
  onServing (fun d => d.ownerAdmin hdr ST.CKPT_DENIED (fun e d =>
    if !d.isHead then d.complete e ST.CKPT_NOTCOORD 0
    else if d.ckpt.run.isSome || d.ckpt.restoring.isSome then d.complete e ST.CKPT_BUSY 0
    else if (sectorsOf sectors).any (fun n => d.sectorBuoys n != 0) then d.complete e ST.CKPT_NOTEMPTY 0
    else if (sectorsOf sectors).any (fun n => (d.activeImg n).isNone) then d.complete e ST.IMG_NOIMAGE 0
    else if !d.seedsOk sourceDomain sectors || seedStatus != ST.OK then d.complete e ST.CKPT_NOKEY 0
    else d.tryCands e sectors cold sourceDomain sourceGroup ((cands.filter (fun c => seq == 0 || decide (c.seq ≤ seq))).mergeSort (fun a b => decide (b.seq ≤ a.seq))))) s

/-- A reference to a shared page of a Sector: the entry's count rises, to stay at its end; where there is none, an entry (R74, R418). -/
def shareRef (n key : Nat) (t : List ((Nat × Nat) × Nat)) : List ((Nat × Nat) × Nat) :=
  if t.any (fun e => e.1 == (n, key)) then t.map (fun e => if e.1 = (n, key) then (e.1, min 0xFFFFFFFF (e.2 + 1)) else e) else t ++ [((n, key), 1)]

/-- Shared pages of a restored session take the place that their page has in tier 1, or a new one with their bytes (R75). [DEDUCED: log entry 66] -/
def placeShared (n : Nat) : List (Page × List Byte) → List Host.Cell × Dev → List Page → List Page × List Host.Cell × Dev
  | [], s, acc => (acc, s.1, s.2)
  | (p, bs) :: ps, s, acc =>
    if p.shared then
      let known := match (acc.find? (fun q => q.shared && q.key == p.key)).map (·.loc) with | some l => some l | none => s.2.sharedAt n p.key
      match known with
      | some l => placeShared n ps s (acc ++ [{ p with loc := l }])
      | none =>
        let l : Loc := ⟨1, (s.2.pickUnit 1 n 4 true false (acc.map (fun q => ⟨.page q.stream q.ordinal, q.loc, 4⟩))).getD 0⟩
        placeShared n ps (Mem.writes (flatLoc n l) (padTo 16384 bs) s.1, s.2.flatWrite (flatLoc n l) 16384) (acc ++ [{ p with loc := l }])
    else placeShared n ps s (acc ++ [p])

/-- A restored session's adapter, under a handle that its Sector's table has free, or that an earlier session of the restore took with
the same source handle. [DEDUCED: log entry 66] -/
def restoreAdapter (x : RestoredSession) (refs : Tab Nat) (s : List Host.Cell × Dev) : Nat × Tab Nat × List Host.Cell × Dev :=
  match x.adapter with
  | none => (0, refs, s.1, s.2)
  | some bs =>
    let key := x.buoy.sector * 2 ^ 24 + x.buoy.adapterRef
    match Tab.look key refs with
    | some h => (h, refs, s.1, { s.2 with ses := { s.2.ses with adapters := Tab.upd h (fun e => (e.1, e.2 + 1)) s.2.ses.adapters } })
    | none =>
      let h := (Tab.firstFree s.2.ses.adapters 1 (s.2.ses.adapters.length + 2)).getD 1
      (h, Tab.put key h refs, Mem.writes (tierAddr 1 x.buoy.sector (2 ^ 40 + h * 2 ^ 28)) bs s.1,
        { s.2 with ses := { s.2.ses with adapters := Tab.put h (x.buoy.sector, 1) s.2.ses.adapters } })

/-- The Mooring that a restored session has before its parts are placed: roots and leaves are rebuilt (R416), and every page bears this
chip's epoch (R404). -/
def restoredMoor (i : Image) (epoch : Nat) (x : RestoredSession) (pages : List Page) : Moor :=
  { Moor.empty with modelRevision := i.modelRevision, layerSlots := i.layerSlots, kvHeads := i.kvHeads, lps := i.lps, rootGen := wrap 16 (x.buoy.gen + 1),
                    pages := pages.map (fun p => { p with dirty := epoch }),
                    leafLocs := ((pages.map (fun p => leafKey p.stream (p.ordinal / 512))).eraseDups).map (fun k => (k, ⟨0, 0⟩)),
                    ctrl := x.ctrl, recUnits := x.recUnits, statUnits := x.statUnits, startCtx := x.buoy.ctx }

/-- The Buoy that a restored session has (R417): busy clear, one generation more, the epoch and places of this chip. -/
def Dev.restoredBuoy (x : RestoredSession) (st g c h : Nat) (d : Dev) : Buoy :=
  let lost : Bool := st == 7 || st == 8
  let b : Buoy := { x.buoy with state := st, busy := false, pendingOp := 0, beacon := false, gen := wrap 16 (x.buoy.gen + 1), remGroup := g, remChip := c }
  let b : Buoy := { b with mapEpoch := d.comp.cur.epoch, bad := false, ctrlLoc := if lost then Loc.none_ else ⟨0, 0⟩, kvRoot := if lost then Loc.none_ else ⟨0, 0⟩ }
  { b with adapterRef := h, recLoc := if lost ∨ x.recUnits = 0 then Loc.none_ else ⟨0, 0⟩, statLoc := if lost ∨ x.statUnits = 0 then Loc.none_ else ⟨0, 0⟩ }

/-- One restored session: its Buoy, parts and Locator entry (R416 to R418). [DEDUCED: log entry 66] -/
def restoreSession (cold : Bool) (s : Tab Nat × List Host.Cell × Dev) (x : RestoredSession) : Tab Nat × List Host.Cell × Dev :=
  let d := s.2.2
  match restoredState cold x, d.activeImg x.buoy.sector with
  | some (st, g, c), some i =>
    let n := x.buoy.sector
    let k := d.buoyIndex 0
    if st = 7 ∨ st = 8 then
      let b := d.restoredBuoy x st g c 0
      let d : Dev := { d with ses := { d.ses with buoys := Tab.put k b d.ses.buoys, moors := Tab.put b.sid Moor.empty d.ses.moors,
                                                  digests := if d.isHead then Tab.put k ⟨[], [], 0, false⟩ d.ses.digests else d.ses.digests } }
      (s.1, s.2.1, (d.touch b.sid).locSync b.sid)
    else
      let a := restoreAdapter x s.1 s.2
      let sh := placeShared n (x.pages.zip x.pageBytes) a.2.2 []
      let d := sh.2.2
      let m := restoredMoor i (d.get Reg.CKPT_EPOCH.epoch % 4096) x sh.1
      let b := d.restoredBuoy x st g c a.1
      let plan := (d.planObjs n m (fun _ => [if cold then 2 else 1]) none (objsIn (fun _ => true) b m) []).getD []
      let p := placeAll plan (b, m)
      let keys := (p.2.pages.filter (·.shared)).map (fun q => q.key)
      let d : Dev := { d with ses := { d.ses with buoys := Tab.put k p.1 d.ses.buoys, moors := Tab.put p.1.sid p.2 d.ses.moors,
                                                  digests := if d.isHead then Tab.put k ⟨[], [], 0, false⟩ d.ses.digests else d.ses.digests,
                                                  sharing := keys.foldl (fun t q => shareRef n q t) d.ses.sharing } }
      (a.2.1, fillParts p.1 p.2 x.pageBytes x.recBytes x.statBytes sh.2.1, (d.touch p.1.sid).locSync p.1.sid)
  | _, _ => s

/-- The restore commits on this chip (R418). -/
def restoreAll (sectors : Nat) (cold : Bool) (seq : Option Nat) (xs : List RestoredSession) (mem : List Host.Cell) (d : Dev) : List Host.Cell × Dev :=
  let r := xs.foldl (restoreSession cold) ([], mem, d)
  let d : Dev := { r.2.2 with ckpt := { r.2.2.ckpt with bases := r.2.2.ckpt.bases.filter (fun e => !sectors.testBit e.1) } }
  (r.2.1, match seq with | some q => d.put Reg.CKPT_SEQ.ckpt_seq q | none => d)

/-- RESTORE_COMMIT (R415, R418): every chip has placed its objects, or one failed with `status`. HEAD places the sessions of its
candidate, another chip those of the chain that HEAD sent it. [DEDUCED: log entry 66] -/
def execRestoreCommit (sectors : Nat) (cold : Bool) (sourceGroup : Nat) (cand : RestoreCand) (status : Nat) (s : State) : Host.Outcome State Fault Refusal :=
  onServingMem (fun mem d =>
    if d.isHead then
      match d.ckpt.restoring with
      | some (e, mask, cd, c :: cs, group) =>
        if status ≠ ST.OK then (mem, (d.shardMark status).tryCands e mask cd (match candManifest c with | some m => m.domain | none => 0) group cs)
        else
          let r := restoreAll mask cd (some c.seq) (d.restored mask group c) mem d
          (r.1, r.2.restoreEnd e ST.OK c.seq)
      | _ => (mem, d)
    else if status = ST.OK then restoreAll sectors cold none (d.restored sectors sourceGroup cand) mem d
    else (mem, d)) s

end Sys2Proof.Machine
end

