-- ==== Sys2Proof/Machine/Queues.lean ====
section
/-!
DEFINITION. Machine/Queues.lean: creating and deleting queues, the peer table, doorbells, held completions and interrupt
coalescing (R491 to R497, R511), and what the death of a queue brings (R499, R508).
-/
namespace Sys2Proof.Machine

/-! ### Creation (R491, R492, R497, R514) -/

/-- Sizes and places in range and aligned (R492, R497, R514). [DEDUCED: log entry 82] -/
def specFits (x : QueueSpec) : Bool :=
  decide (x.kind ≤ 2) && decide (x.location ≤ 2) && (decide (x.owner ≤ 15) || (x.owner == 0xFF && x.kind == 0)) &&
  (if x.kind = 2 then decide (16 ≤ x.ringLog2) && decide (x.ringLog2 ≤ 30) else decide (4 ≤ x.ringLog2) && decide (x.ringLog2 ≤ 16)) &&
  (x.payloadLog2 == 0 || (decide (12 ≤ x.payloadLog2) && decide (x.payloadLog2 ≤ 32))) &&
  (if x.kind = 2 then x.cplAddr % 8 == 0 else x.location == 2 || x.cplAddr % 4096 == 0) &&
  (x.location == 2 || (x.ringAddr % 4096 == 0 && (x.payloadLog2 == 0 || x.payloadAddr % 4096 == 0))) &&
  (x.location == 2 || decide (x.vector < (if x.owner = 0xFF then 256 else 64))) && decide (x.remoteQpn < 2 ^ 24)

/-- The queue as created: its rings empty, running. [DEDUCED: log entry 82] -/
def newQueue (x : QueueSpec) (region qpn : Nat) : Queue :=
  { kind := x.kind, pf := x.owner == 0xFF, sector := if x.owner = 0xFF then 0 else x.owner, location := x.location, ringLog2 := x.ringLog2,
    payloadLog2 := x.payloadLog2, peer := x.peer, ringAddr := x.ringAddr, cplAddr := x.cplAddr, payloadAddr := x.payloadAddr,
    vector := x.vector, rkey := x.rkey, remoteQpn := x.remoteQpn, regionRkey := region, qpn := qpn, st := .running, sqHead := 0,
    fetched := 0, opened := [], cqPos := 0, held := [], recSeq := 0, heldRecs := [], produced := 0, acks := [], irqPending := 0,
    irqFirst := 0, deleter := none }

/-- A queue's window shows its reset values again, and its waiting doorbells are forgotten. [DEDUCED: log entry 82] -/
def Dev.clearWindow (q : Nat) (d : Dev) : Dev :=
  let d := ((d.put (Reg.QUE_SQ_TAIL.tail q) 0).put (Reg.QUE_CQ_HEAD.head q) 0).put (Reg.QUE_IRQ.delay_us q) 0
  let d := ((d.put (Reg.QUE_IRQ.count q) 1).put (Reg.QUE_ERR.bad_doorbell q) 0).put (Reg.QUE_ERR.cq_full q) 0
  { d with lens := { d.lens with bells := Tab.del q d.lens.bells } }

/-- A connection starts at line rate (R508); rates count 2^32 to line rate. -/
def Qp.fresh (now : Nat) : Qp := { retries := 0, rate := 2 ^ 32, lastCnp := none, lastRaise := now, error := false }

/-- Key of a connection: a location-2 queue's, a file-store target's, a pool host's (R508). -/
def qpKey : QpRef → Nat
  | .queue q => q
  | .target p => 0x10000 + p
  | .host h => 0x20000 + h

/-- Does a location-2 queue's region fit (R492, R497)? The Sector's range decides; the device region always has room for the PF's
(a log entry). [DEDUCED: log entry 82] -/
def Dev.regionFits (x : QueueSpec) (d : Dev) : Bool :=
  x.location != 2 || x.owner == 0xFF || decide ((newQueue x 0 0).regionUnits ≤ d.tierFree 1 x.owner)

/-- The checks of QUEUE_CREATE (R497). [DEDUCED: log entry 82] -/
def Dev.queueOk (x : QueueSpec) (d : Dev) : Bool :=
  decide (2 ≤ x.queue) && decide (x.queue ≤ 16383) && !Tab.has x.queue d.que && specFits x &&
  (x.location != 2 || (match Tab.look x.peer d.peers with | some p => p.kind == 1 | none => false)) && d.regionFits x

/-- A queue is created, by QUEUE_CREATE or from the Light List's queue map (R491, R497). At location 2 its region's rkey and its QP
number are values the device chooses. [DEDUCED: log entry 82] -/
def Dev.createQueue (x : QueueSpec) (d : Dev) : Dev :=
  if x.location = 2 then
    let d2 := d.drawn.drawn
    let d := { d2 with que := Tab.put x.queue (newQueue x (wrap 32 d.fresh) (wrap 24 d.drawn.fresh)) d2.que,
                       qps := Tab.put (qpKey (.queue x.queue)) (Qp.fresh d2.now) d2.qps }
    Dev.clearWindow x.queue d
  else Dev.clearWindow x.queue { d with que := Tab.put x.queue (newQueue x 0 0) d.que }

/-- What QUEUE_CREATE answers for a queue: at location 2 the region's rkey and the QP number (R497). -/
def Dev.createResult (q : Nat) (d : Dev) : Nat :=
  match Tab.look q d.que with | some u => u.regionRkey + u.qpn * 2 ^ 32 | none => 0

/-- QUEUE_CREATE (R497). -/
def execQueueCreate (hdr : EntryHdr) (q : QueueSpec) (s : State) : Host.Outcome State Fault Refusal :=
  onServing (fun d => d.ownerAdmin hdr ST.HOST_DENIED (fun e d =>
    if d.queueOk q then (let d := d.createQueue q; d.complete e ST.OK (d.createResult q.queue))
    else d.complete e ST.HOST_QUEUE 0)) s

/-- PCI_ADMQp is enabled or disabled (R491, R514): queue p runs from the ring that the registers describe, or goes. Values that make
no queue leave enable at 0 (a log entry). [DEDUCED: log entry 83] -/
def Dev.admqEnable (p : Nat) (on : Bool) (d : Dev) : Dev :=
  if on then
    if Tab.has p d.que then d
    else
      let x : QueueSpec :=
        { queue := p, kind := 0, owner := 0xFF, location := p, ringLog2 := d.get (Reg.PCI_ADMQ_CFG.ring_log2 p), payloadLog2 := d.get (Reg.PCI_ADMQ_PAY.log2 p),
          peer := 0, ringAddr := d.get (Reg.PCI_ADMQ_RING.address p), cplAddr := d.get (Reg.PCI_ADMQ_CQ.address p),
          payloadAddr := d.get (Reg.PCI_ADMQ_PAY.address p) * 4096, vector := d.get (Reg.PCI_ADMQ_CFG.vector p), rkey := 0, remoteQpn := 0 }
      if specFits x then d.createQueue x else d.put (Reg.PCI_ADMQ_CFG.enable p) 0
  else { d.clearWindow p with que := Tab.del p d.que }

/-! ### Deletion (R497) -/

/-- Is an egress queue named by a QUEUED or RUNNING turn (R497)? TAIL knows its turns by TURN_CFG. [DEDUCED: log entry 41] -/
def Dev.egressNamed (q : Nat) (d : Dev) : Bool :=
  (d.isSolo && d.srv.turns.any (fun e => e.2.entry.egress == q && (e.2.st == .queued || e.2.st == .running))) ||
  (!d.isSolo && d.srv.tail.any (fun e => e.2.egress == q && !e.2.ended))

/-- Turns of HEAD for which `p` holds, ended with a reason and status (R206). [DEDUCED: log entry 42] -/
def Dev.failTurns (p : Turn → Bool) (reason status : Nat) (d : Dev) : Dev :=
  (d.srv.turns.filter (fun e => p e.2)).foldl (fun d e => d.failTurn e.1 reason status) d

/-- Turns that wait for the delivery of their last record on a queue complete, since it will not be delivered. [DEDUCED: log entry 42] -/
def Dev.closeEnding (q : Nat) (end_ : Turn → Nat × Nat) (d : Dev) : Dev :=
  (d.srv.turns.filter (fun e => e.2.st == .ending && e.2.entry.egress == q)).foldl (fun d e => d.closeTurn e.1 (end_ e.2).1 (end_ e.2).2) d

/-- QUEUE_DELETE begins on a queue (R497): fetching stops, and an ingress queue's turns end as if cancelled. [DEDUCED: log entry 83] -/
def Dev.startDelete (e : Ent) (q : Nat) (u : Queue) (d : Dev) : Dev :=
  let d := d.queUpd q (fun u => { u with st := if u.st == .dead then .dead else .deleting, deleter := some e, heldRecs := [] })
  let d := if u.kind = 1 then d.failTurns (fun t => t.ent.src == .queue q) 6 ST.SRV_CANCELLED else d
  let d := if u.kind = 2 && d.isSolo then d.closeEnding q (fun t => (t.endReason, t.endStatus)) else d
  d.finishDelete q

/-- QUEUE_DELETE (R497). [DEDUCED: log entry 83] -/
def execQueueDelete (hdr : EntryHdr) (q : Nat) (s : State) : Host.Outcome State Fault Refusal :=
  onServing (fun d => d.ownerAdmin hdr ST.HOST_DENIED (fun e d =>
    match Tab.look q d.que with
    | none => d.complete e ST.HOST_QUEUE 0
    | some u =>
      if q < 2 ∨ u.deleter.isSome then d.complete e ST.HOST_QUEUE 0
      else if u.kind = 2 ∧ d.egressNamed q then d.complete e ST.HOST_QBUSY 0
      else d.startDelete e q u)) s

/-! ### Queues that die (R499, R508) -/

/-- A queue becomes DEAD: what it held is discarded, counted behind a port; turns submitted to it or streaming to it end with end
reason 7 and ST_HOST_GONE. [DEDUCED: log entry 84] -/
def Dev.killQueue (q : Nat) (d : Dev) : Dev :=
  match Tab.look q d.que with
  | none => d
  | some u =>
    let d := if u.location < 2 then d.bump (Reg.PCI_DROP.count u.location) (u.held.length + u.heldRecs.length) else d
    let d := d.queUpd q (fun u => { u with st := .dead, held := [], heldRecs := [], acks := [], irqPending := 0 })
    let d : Dev := { d with lens := { d.lens with bells := Tab.del q d.lens.bells } }
    let d := if u.kind = 2 && d.isSolo then d.closeEnding q (fun _ => (7, ST.HOST_GONE)) else d
    let d := if u.kind = 2 then { d with srv := { d.srv with tail := Tab.mapv (fun _ t => if t.egress = q then { t with gone := true } else t) d.srv.tail } } else d
    let d := d.failTurns (fun t => t.ent.src == .queue q || (d.isSolo && t.entry.egress == q)) 7 ST.HOST_GONE
    d.finishDelete q

/-- A function-level reset empties a queue (R499): what was not fetched and what is held is discarded, and fetched entries run to
their end without a completion. [DEDUCED: log entry 84] -/
def Dev.emptyQueue (q : Nat) (d : Dev) : Dev :=
  match Tab.look q d.que with
  | none => d
  | some u =>
    let d := d.queUpd q (fun u => { u with sqHead := 0, opened := [], cqPos := 0, held := [], heldRecs := [], produced := 0, acks := [], irqPending := 0 })
    let d := (d.put (Reg.QUE_SQ_TAIL.tail q) 0).put (Reg.QUE_CQ_HEAD.head q) 0
    let d : Dev := { d with lens := { d.lens with bells := Tab.del q d.lens.bells } }
    let d := if u.kind = 2 && d.isSolo then d.closeEnding q (fun t => (t.endReason, t.endStatus)) else d
    d.finishDelete q

/-! ### PEER_SET (R511) -/

/-- A peer entry is well formed (R511). -/
def peerOk (p : PeerEntry) : Bool :=
  decide (p.kind ≤ 2) && (p.kind == 0 ||
    ((p.ipVersion == 6 || (p.ipVersion == 4 && p.address / 2 ^ 32 == 0xFFFF)) && decide (1 ≤ p.ports) && decide (p.ports ≤ 3) &&
     decide (p.address < 2 ^ 128) && decide (p.servicePort < 2 ^ 16) && decide (p.subnqn.length ≤ 256) && (p.kind != 2 || !p.subnqn.isEmpty)))

/-- A running checkpoint writes to this peer: it is the target of a namespace (R419, R511). [DEDUCED: log entry 85] -/
def Dev.ckptUses (i : Nat) (d : Dev) : Bool :=
  d.ckpt.run.isSome && (List.range 16).any (fun k => d.get (Reg.CKPT_NS.valid k) == 1 && d.get (Reg.CKPT_NS.target k) == i)

/-- PEER_SET (R497, R511). [DEDUCED: log entry 85] -/
def execPeerSet (hdr : EntryHdr) (index : Nat) (entry : PeerEntry) (s : State) : Host.Outcome State Fault Refusal :=
  onServing (fun d => d.ownerAdmin hdr ST.HOST_DENIED (fun e d =>
    if decide (256 ≤ index) || !peerOk entry then d.complete e ST.HOST_PEER 0
    else if d.ckptUses index then ({ d with peersNext := Tab.put index entry d.peersNext } : Dev).complete e ST.OK 0
    else ({ d with peers := Tab.put index entry d.peers } : Dev).complete e ST.OK 0)) s

/-- An opcode that no chapter accepts (R494). -/
def execAdminUnknownOpcode (hdr : EntryHdr) (_opcode : Nat) (s : State) : Host.Outcome State Fault Refusal :=
  onServing (fun d => d.admin hdr (fun e d => d.complete e ST.HOST_OPCODE 0)) s

/-! ### Doorbells (R487, R492, R494, R495) -/

/-- May a function reach a queue's window for a write (R487, R491, R498)? [DEDUCED: log entry 17] -/
def Dev.mayRing (m : Master) (fn : Fn) (q : Nat) (d : Dev) : Bool :=
  match Tab.look q d.que with
  | none => fn == .pf && d.owner == m.code
  | some u =>
    match fn with
    | .pf => d.owner == m.code || (!u.pf && u.location + 1 == m.code)
    | .vf n => !u.pf && u.sector == n && u.location + 1 == m.code

/-- A write into a queue's window: one that may not is ignored, and a master's to the physical function counted (R487). -/
def Dev.ring (m : Master) (fn : Fn) (q : Nat) (f : Dev → Dev) (d : Dev) : Dev :=
  if d.mayRing m fn q then f d else if fn == .pf then d.bump Reg.OWN_DENIED.count 1 else d

/-- A submission tail arrives (R494). -/
def Dev.setTail (q tail : Nat) (d : Dev) : Dev :=
  match Tab.look q d.que with
  | none => d
  | some u =>
    if 2 ^ u.ringLog2 ≤ tail then d.flag (Reg.QUE_ERR.bad_doorbell q)
    else
      let d := d.put (Reg.QUE_SQ_TAIL.tail q) tail
      if u.st == .running && tail != u.sqHead then d.bell q tail else d

/-- Held completions are written while the ring has room (R494). -/
def Dev.releaseCompletions (q : Nat) : Nat → Dev → Dev
  | 0, d => d
  | fuel + 1, d =>
    match Tab.look q d.que with
    | none => d
    | some u =>
      match u.held with
      | [] => d
      | (c, irq) :: rest =>
        if d.cqFull q u then d
        else Dev.releaseCompletions q fuel ((d.queUpd q (fun u => { u with held := rest })).writeCompletion q c irq)

/-- A completion head, or an egress queue's consumed bytes, arrives (R494, R495). [DEDUCED: log entry 82] -/
def Dev.setHead (q head : Nat) (d : Dev) : Dev :=
  match Tab.look q d.que with
  | none => d
  | some u =>
    let d := d.put (Reg.QUE_CQ_HEAD.head q) head
    if u.kind = 2 then d else (Dev.releaseCompletions q u.held.length d).finishDelete q

/-- QUE_SQ_TAIL (R494). -/
def execQueSqTail (m : Master) (fn : Fn) (q tail : Nat) (s : State) : Host.Outcome State Fault Refusal :=
  onServing (fun d => d.ring m fn q (fun d => d.setTail q (tail % 2 ^ 16))) s

/-- QUE_CQ_HEAD (R494, R495). -/
def execQueCqHead (m : Master) (fn : Fn) (q head : Nat) (s : State) : Host.Outcome State Fault Refusal :=
  onServing (fun d => d.ring m fn q (fun d => d.setHead q (head % 2 ^ 32))) s

/-- RDMA_DOORBELL (R492): tail and head of a location-2 queue. -/
def execRdmaDoorbell (q tail head : Nat) (s : State) : Host.Outcome State Fault Refusal :=
  onServing (fun d =>
    match Tab.look q d.que with
    | some u => if u.location = 2 then (d.setTail q (tail % 2 ^ 16)).setHead q (head % 2 ^ 32) else d
    | none => d) s

/-- IRQ_COALESCE_TIMER (R496): delay_us after the first pending event. [DEDUCED: log entry 86] -/
def execIrqCoalesceTimer (q t : Nat) (s : State) : Host.Outcome State Fault Refusal :=
  onServing (fun d =>
    let d := d.advance t
    match Tab.look q d.que with
    | some u => if 0 < u.irqPending ∧ u.irqFirst + us (d.get (Reg.QUE_IRQ.delay_us q)) ≤ d.now then d.queFire q else d
    | none => d) s

/-- RDMA_WRITE_ACK (R495): the oldest record's RDMA WRITE is acknowledged, and the produce count is written. -/
def execRdmaWriteAck (q : Nat) (s : State) : Host.Outcome State Fault Refusal :=
  onServing (fun d =>
    match Tab.look q d.que with
    | some u =>
      match u.acks with
      | [] => d
      | c :: rest =>
        let d : Dev := { d with qps := Tab.upd (qpKey (.queue q)) (fun x => { x with retries := 0 }) d.qps }
        (((d.queUpd q (fun u => { u with acks := rest })).portDebit u 8).emit (.produced q c)).bellGone q
    | none => d) s

end Sys2Proof.Machine
end

