-- ==== Sys2Proof/Machine/SecurityMsg.lean ====
section
/-!
DEFINITION. Machine/SecurityMsg.lean: the security messages that travel inside an SPDM secure session of the owner (R459, R460,
R465, R467, R468, R475, R476), and the measurements (R470).
-/
namespace Sys2Proof.Machine

/-- The SPDM session that a message came in: established, on this transport and function (R469). -/
def Dev.spdmSession (ch : SecChannel) (d : Dev) : Option SpdmSession :=
  match Tab.look ch.session d.sec.spdm with
  | some s => if s.established && s.transport == ch.transport && s.fn == ch.fn then some s else none
  | none => none

/-- May the session carry security messages (R467)? Mutually authenticated, with a chain that ends at the anchor, over a physical
function's DOE or MCTP (transport 2), by the current owner. -/
def Dev.securityOk (ch : SecChannel) (d : Dev) : Bool :=
  match d.spdmSession ch with
  | some s => s.mutualAuth && s.anchorChain && (ch.transport == 2 || ch.fn == .pf) && d.owner != 0 && s.master == d.owner
  | none => false

/-- A security message: refused with ST_SEC_SESSION outside such a session; its response's first field is the status (R467). -/
def Dev.security (ch : SecChannel) (f : Dev → Nat × List Nat × Dev) (d : Dev) : Dev :=
  if d.securityOk ch then (f d).2.2.emit (.secResp ch (f d).1 (f d).2.1)
  else d.emit (.secResp ch ST.SEC_SESSION [])

/-- The anchor's key_id as the registers show it (R483): bytes 0 to 3, of the little-endian value. -/
def Dev.showAnchor (d : Dev) : Dev :=
  match d.sec.nor.anchor with
  | some k => (d.put Reg.SEC_STATUS.anchor_set 1).put Reg.SEC_ANCHOR.key_id_lo k
  | none => (d.put Reg.SEC_STATUS.anchor_set 0).put Reg.SEC_ANCHOR.key_id_lo 0

/-- The anchor record is replaced by a key_id that the current anchor signed (R459). -/
def Dev.anchorSet (keyId : Nat) (sig : Signature) (d : Dev) : Nat × List Nat × Dev :=
  if sigVerifies sig && sig.signer == 1 && d.sec.nor.anchor == some sig.keyId then
    (ST.OK, [], (d.norUpd (fun n => { n with anchor := some keyId })).showAnchor)
  else (ST.SEC_SIG, [], d.sigRefused)

/-- ANCHOR_SET (R459, R467). -/
def execAnchorSet (ch : SecChannel) (keyId : Nat) (sig : Signature) (s : State) : Host.Outcome State Fault Refusal :=
  onAwake (fun d => d.security ch (fun d => d.anchorSet keyId sig)) s

/-- A host holds a grant of some extent (R465); a window's grant names a chip, whose hosts hold it (R116, R352). -/
def Dev.hostHoldsGrant (host : Nat) (d : Dev) : Bool :=
  d.pool.extents.any (fun e => e.2.live && e.2.grants.any (fun g => d.grantFits e.2 host g))

/-- A host key is installed for a host that holds no grant (R465). -/
def Dev.hostKeySet (host key : Nat) (d : Dev) : Nat × List Nat × Dev :=
  if d.hostHoldsGrant host then (ST.SEC_INUSE, [], d.flag Reg.SEC_ERR.key_refused)
  else (ST.OK, [], { d with sec := { d.sec with hostKeys := Tab.put host key d.sec.hostKeys } })

/-- HOST_KEY_SET (R465, R467). -/
def execHostKeySet (ch : SecChannel) (host key : Nat) (s : State) : Host.Outcome State Fault Refusal :=
  onAwake (fun d => d.security ch (fun d => d.hostKeySet (wrap 8 host) key)) s

/-- A checkpoint or restore runs in the domain (R465). -/
def Dev.domainBusy (domain : Nat) (d : Dev) : Bool := domain == d.domainId && (d.ckpt.run.isSome || d.ckpt.restoring.isSome)

/-- A checkpoint seed is installed for a domain's Sectors (R465). -/
def Dev.domainSeedSet (sectors domain seed : Nat) (d : Dev) : Nat × List Nat × Dev :=
  if d.domainBusy domain then (ST.SEC_INUSE, [], d.flag Reg.SEC_ERR.key_refused)
  else
    (ST.OK, [], { d with sec := { d.sec with seeds := (sectorsOf sectors).foldl (fun t n => Tab.put (domain * 16 + n) seed t) d.sec.seeds } })

/-- DOMAIN_SEED_SET (R465, R467). -/
def execDomainSeedSet (ch : SecChannel) (sectors domain seed : Nat) (s : State) : Host.Outcome State Fault Refusal :=
  onAwake (fun d => d.security ch (fun d => d.domainSeedSet sectors domain seed)) s

/-- Counters 0 and 1 rise to the security versions that run; none is lowered (R460). -/
def Dev.svnCommit (counterOk : Bool) (d : Dev) : Nat × List Nat × Dev :=
  if !counterOk then (ST.SEC_COUNTER, [], d.counterFail)
  else
    let d := d.norUpd (fun n => { n with counter0 := max n.counter0 d.sec.fwVersion, counter1 := max n.counter1 d.sec.cfgVersion })
    (ST.OK, [], (d.put Reg.SEC_SVN_FW.counter d.sec.nor.counter0).put Reg.SEC_SVN_CFG.counter d.sec.nor.counter1)

/-- SVN_COMMIT (R460, R467). -/
def execSvnCommit (ch : SecChannel) (counterOk : Bool) (s : State) : Host.Outcome State Fault Refusal :=
  onAwake (fun d => d.security ch (fun d => d.svnCommit counterOk)) s

/-- DEBUG_CHALLENGE (R467, R475). [DEDUCED: log entry 80] -/
def execDebugChallenge (ch : SecChannel) (s : State) : Host.Outcome State Fault Refusal :=
  onAwake (fun d => d.security ch (fun d => (ST.OK, [d.newNonce.1], d.newNonce.2))) s

/-- DEBUG_UNLOCK (R467, R475, R476). [DEDUCED: log entry 80] -/
def execDebugUnlock (ch : SecChannel) (tok : DebugToken) (counterOk : Bool) (s : State) : Host.Outcome State Fault Refusal :=
  onAwake (fun d => d.security ch (fun d => ((d.unlock tok counterOk).1, [], (d.unlock tok counterOk).2))) s

/-! ### Measurements (R470) -/

/-- Present Sectors of the current map that a function may see: all of them, or a virtual function's own. -/
def Dev.seenSectors (fn : Fn) (d : Dev) : List Nat :=
  (List.range 16).filter (fun n => d.present n && (match fn with | .pf => true | .vf k => k == n))

/-- What the configuration part holds, as numbers. -/
def cfgWords (c : CfgPart) : List Nat :=
  [c.sig.signer, c.sig.securityVersion, c.sig.keyId, c.sig.keysHash, c.anchor, c.tableExtents, c.composition.epoch] ++ c.imageKeys ++ c.fields.flatMap (fun f => [f.1, f.2]) ++
    c.composition.sects.flatMap (fun s => [b2n s.present, b2n s.isSealed, b2n s.userCounters, s.cores, s.t0d0, s.t0d1, s.t1Chunks, s.groups, s.t2Gib]) ++ c.reservedChunks ++
    c.queues.flatMap (fun q => [q.queue, q.kind, q.owner, q.location, q.ringLog2, q.payloadLog2, q.peer, q.ringAddr, q.cplAddr, q.payloadAddr, q.vector, q.rkey, q.remoteQpn]) ++
    c.peers.flatMap (fun p => [p.1, p.2.kind, p.2.ipVersion, p.2.ports, p.2.servicePort, p.2.address] ++ p.2.subnqn.map BitVec.toNat)

/-- What the measurement of the configuration part is taken over. -/
def Dev.cfgDigest (d : Dev) : Nat :=
  match d.boot.running with
  | some l => Config.digest (3 :: cfgWords l.cfg)
  | none => Config.digest [3]

/-- The SHA-384 digest of bytes, as a number. -/
def digest384 (bs : List Byte) : Nat := beNat (sha384 bs)

/-- The resident vocabularies and grammars of a function's view: digest and sectors mask (R470 block 23). [DEDUCED: log entry 8] -/
def Dev.tokMeasures (fn : Fn) (d : Dev) : List Nat :=
  let sees (mask : Nat) : Bool := match fn with | .pf => true | .vf n => mask.testBit n
  (d.tok.vocabs.filter (fun v => v.2.phase.holds && sees v.2.sectors)).flatMap (fun v => [digest384 v.2.bytes, v.2.sectors]) ++
    (d.tok.grams.filter (fun g => g.2.phase.holds && sees g.2.sectors)).flatMap (fun g => [digest384 g.2.bytes, g.2.sectors])

/-- The measurement block of an index as a function reads it, none where it is omitted (R470). Blocks 4 and 5 are raw values, the
others digests. [DEDUCED: log entry 8] -/
def Dev.measure (fn : Fn) (i : Nat) (mem : List Host.Cell) (d : Dev) : Option (List Nat) :=
  if i = 1 then some [Config.digest [1]]
  else if i = 2 then some [d.sec.fwDigest]
  else if i = 3 then some [d.cfgDigest]
  else if i = 4 then some [d.sec.fwVersion, d.sec.cfgVersion, d.sec.nor.counter0, d.sec.nor.counter1]
  else if i = 5 then some [d.debugLevel, d.sec.nor.counter2]
  else if i = 6 then
    some [Config.digest (6 :: d.comp.cur.epoch :: (d.seenSectors fn).flatMap (fun n => [n, b2n (d.sector n).isSealed, (d.sector n).cores]))]
  else if 7 ≤ i ∧ i ≤ 22 then
    (if (match fn with | .pf => true | .vf k => k == i - 7) then
      match d.activeImg (i - 7) with
      | some g => some [digest384 (Mem.reads (tierAddr 1 (i - 7) (d.imgBase (i - 7) g)) g.imageLength mem)]
      | none => none
    else none)
  else if i = 23 then some [Config.digest (23 :: d.tokMeasures fn)]
  else none

/-- The blocks of a mask of indices, each with its index. -/
def Dev.measures (fn : Fn) (is : List Nat) (mem : List Host.Cell) (d : Dev) : List Nat :=
  is.flatMap (fun i => match d.measure fn i mem with | some vs => i :: vs | none => [])

/-- EVIDENCE_PQ (R467, R470): the blocks of the mask with the nonce, under a signature of the ML-DSA-65 alias key. -/
def execEvidencePq (ch : SecChannel) (nonce mask : Nat) (s : State) : Host.Outcome State Fault Refusal :=
  onAwake (fun d => d.security ch (fun d =>
    let bs := d.measures ch.fn ((List.range 32).filter (fun i => mask.testBit i)) s.mem
    (ST.OK, nonce :: bs ++ [Config.digest (60 :: d.sec.fwDigest :: nonce :: bs)], d))) s

end Sys2Proof.Machine
end

