-- ==== Sys2Proof/Machine/Spdm.lean ====
section
/-!
DEFINITION. Machine/Spdm.lean: the SPDM responder (R456, R469, R470), IDE key management (R471) and the TEE device interfaces
(R472 to R474). Error codes are those of the standards named (a log entry).
-/
namespace Sys2Proof.Machine

/-- SPDM errors of DSP0274: InvalidRequest, Busy, UnexpectedRequest, DecryptError. [PRESUMED: log entry 77] -/
def SpdmErr.invalid : Nat := 0x01
/-- Busy. -/
def SpdmErr.busy : Nat := 0x03
/-- UnexpectedRequest. -/
def SpdmErr.unexpected : Nat := 0x04
/-- DecryptError. -/
def SpdmErr.decrypt : Nat := 0x06

/-- Key of a transport and function among the negotiations. -/
def linkKey (ch : SecChannel) : Nat := ch.transport * 32 + (match ch.fn with | .pf => 0 | .vf n => n + 1)

/-- How far the negotiation has come. -/
def Dev.spdmLink (ch : SecChannel) (d : Dev) : SpdmLink := Tab.getD (linkKey ch) ⟨false, false, false⟩ d.sec.links

/-- The device with a negotiation changed. [PRESUMED: log entry 77] -/
def Dev.linkPut (ch : SecChannel) (l : SpdmLink) (d : Dev) : Dev :=
  { d with sec := { d.sec with links := Tab.put (linkKey ch) l d.sec.links } }

/-- A request that needs a stage of the negotiation, or else is unexpected. [PRESUMED: log entry 77] -/
def Dev.needs (ch : SecChannel) (ok : Bool) (f : Dev → Dev) (d : Dev) : Dev :=
  if ok then f d else d.emit (.spdmError ch SpdmErr.unexpected)

/-- GET_VERSION (R469): version 1.3; negotiation starts afresh. [PRESUMED: log entry 77] -/
def execGetVersion (ch : SecChannel) (s : State) : Host.Outcome State Fault Refusal :=
  onAwake (fun d => (d.linkPut ch ⟨true, false, false⟩).emit (.spdm ch 0x04 [0x13])) s

/-- GET_CAPABILITIES (R469): the responder's capabilities; no PSK_EXCHANGE, messages up to 64 KiB. -/
def execGetCapabilities (ch : SecChannel) (s : State) : Host.Outcome State Fault Refusal :=
  onAwake (fun d => d.needs ch (d.spdmLink ch).version (fun d =>
    (d.linkPut ch ⟨true, true, false⟩).emit (.spdm ch 0x61 [65536]))) s

/-- NEGOTIATE_ALGORITHMS (R469): ECDSA P-384 with SHA-384, secp384r1, AES-256-GCM. [PRESUMED: log entry 77] -/
def execNegotiateAlgorithms (ch : SecChannel) (p384 _mldsa aes256gcm : Bool) (s : State) : Host.Outcome State Fault Refusal :=
  onAwake (fun d => d.needs ch (d.spdmLink ch).capabilities (fun d =>
    if p384 && aes256gcm then (d.linkPut ch ⟨true, true, true⟩).emit (.spdm ch 0x63 [384, 256])
    else d.emit (.spdmError ch SpdmErr.invalid))) s

/-- A certificate chain (R455, R456): the identity chain in slot 0, empty on a mismatch; the alias chain in slot 1. [DEDUCED: log entry 8] -/
def Dev.certChain (slot : Nat) (d : Dev) : Option (List Nat) :=
  if slot = 0 then some (if d.get Reg.SEC_STATUS.cert_mismatch = 1 then [] else [Config.digest [0x1D, d.boot.rom.uid]])
  else if slot = 1 then some [Config.digest [0xA1, d.boot.rom.uid, d.sec.fwDigest]]
  else none

/-- GET_DIGESTS (R469). -/
def execGetDigests (ch : SecChannel) (s : State) : Host.Outcome State Fault Refusal :=
  onAwake (fun d => d.needs ch (d.spdmLink ch).algorithms (fun d =>
    d.emit (.spdm ch 0x01 (3 :: [0, 1].map (fun n => Config.digest ((d.certChain n).getD [])))))) s

/-- GET_CERTIFICATE (R456, R469). -/
def execGetCertificate (ch : SecChannel) (slot : Nat) (s : State) : Host.Outcome State Fault Refusal :=
  onAwake (fun d => d.needs ch (d.spdmLink ch).algorithms (fun d =>
    match d.certChain slot with
    | some c => d.emit (.spdm ch 0x02 (slot :: c))
    | none => d.emit (.spdmError ch SpdmErr.invalid))) s

/-- CHALLENGE (R469): a signature of the identity key over both nonces. -/
def execChallenge (ch : SecChannel) (nonce : Nat) (s : State) : Host.Outcome State Fault Refusal :=
  onAwake (fun d => d.needs ch (d.spdmLink ch).algorithms (fun d =>
    d.drawn.emit (.spdm ch 0x03 [nonce, d.fresh, Config.digest [61, d.boot.rom.uid, nonce, d.fresh]]))) s

/-- GET_MEASUREMENTS (R470): one block, or all of them for index 0xFF; what a virtual function may not read is omitted. -/
def execGetMeasurements (ch : SecChannel) (index : Nat) (s : State) : Host.Outcome State Fault Refusal :=
  onAwake (fun d => d.needs ch (d.spdmLink ch).algorithms (fun d =>
    d.emit (.spdm ch 0x60 (d.measures ch.fn (if index = 0xFF then List.range 24 else [index]) s.mem)))) s

/-- SPDM sessions open, as SEC_STATUS shows them (R483). -/
def Dev.showSessions (d : Dev) : Dev := d.put Reg.SEC_STATUS.sessions d.sec.spdm.length

/-- The device with its SPDM sessions changed. -/
def Dev.spdmSet (t : Tab SpdmSession) (d : Dev) : Dev := ({ d with sec := { d.sec with spdm := t } }).showSessions

/-- KEY_EXCHANGE (R469): a new session under handshake; a ninth is answered Busy. -/
def execKeyExchange (ch : SecChannel) (master : Nat) (mutualAuth anchorChain : Bool) (s : State) : Host.Outcome State Fault Refusal :=
  onAwake (fun d => d.needs ch (d.spdmLink ch).algorithms (fun d =>
    if 8 ≤ d.sec.spdm.length then d.emit (.spdmError ch SpdmErr.busy)
    else
      match Tab.firstFree d.sec.spdm 1 9 with
      | some k => (d.spdmSet (Tab.put k ⟨ch.transport, ch.fn, false, mutualAuth, anchorChain, master, 0⟩ d.sec.spdm)).emit (.spdm ch 0x64 [k])
      | none => d.emit (.spdmError ch SpdmErr.busy))) s

/-- The session under handshake that a FINISH names. -/
def Dev.handshake (ch : SecChannel) (d : Dev) : Option SpdmSession :=
  match Tab.look ch.session d.sec.spdm with
  | some s => if !s.established && s.transport == ch.transport && s.fn == ch.fn then some s else none
  | none => none

/-- FINISH (R469): the handshake verifies and the session is established, or it is closed. -/
def execFinish (ch : SecChannel) (verified : Bool) (s : State) : Host.Outcome State Fault Refusal :=
  onAwake (fun d => d.needs ch (d.handshake ch).isSome (fun d =>
    if verified then (d.spdmSet (Tab.upd ch.session (fun s => { s with established := true }) d.sec.spdm)).emit (.spdm ch 0x65 [])
    else (d.spdmSet (Tab.del ch.session d.sec.spdm)).emit (.spdmError ch SpdmErr.decrypt))) s

/-- HEARTBEAT of SPDM (R469). -/
def execHeartbeat (ch : SecChannel) (s : State) : Host.Outcome State Fault Refusal :=
  onAwake (fun d => d.needs ch (d.spdmSession ch).isSome (fun d => d.emit (.spdm ch 0x68 []))) s

/-- KEY_UPDATE (R469). -/
def execKeyUpdate (ch : SecChannel) (s : State) : Host.Outcome State Fault Refusal :=
  onAwake (fun d => d.needs ch (d.spdmSession ch).isSome (fun d =>
    (d.spdmSet (Tab.upd ch.session (fun s => { s with keyUpdates := s.keyUpdates + 1 }) d.sec.spdm)).emit (.spdm ch 0x69 []))) s

/-- END_SESSION (R469). -/
def execEndSession (ch : SecChannel) (s : State) : Host.Outcome State Fault Refusal :=
  onAwake (fun d => d.needs ch (d.spdmSession ch).isSome (fun d =>
    (d.spdmSet (Tab.del ch.session d.sec.spdm)).emit (.spdm ch 0x6C []))) s

/-! ### IDE (R471) -/

/-- Key of an IDE stream: 0 the physical function's, 1 + n virtual function n's. -/
def ideKey (port stream : Nat) : Nat := port * 32 + stream

/-- An IDE stream, insecure until its first K_SET_GO. -/
def Dev.ideStream (port stream : Nat) (d : Dev) : IdeStream := Tab.getD (ideKey port stream) ⟨[], none, true⟩ d.sec.ide

/-- The device with an IDE stream changed. -/
def Dev.idePut (port stream : Nat) (x : IdeStream) (d : Dev) : Dev :=
  { d with sec := { d.sec with ide := Tab.put (ideKey port stream) x d.sec.ide } }

/-- A stream enters the insecure state: every TDI bound to it enters ERROR (R471, R473). [DEDUCED: log entry 78] -/
def Dev.ideInsecure (port stream : Nat) (d : Dev) : Dev :=
  let d := d.idePut port stream { d.ideStream port stream with insecure := true, active := none }
  if 1 ≤ stream ∧ stream ≤ 16 then d.tdiError (16 * port + (stream - 1)) 5 else d

/-- An IDE_KM message, inside an SPDM session on the physical function's DOE of the port (R471). [DEDUCED: log entry 78] -/
def Dev.ideKm (ch : SecChannel) (port stream : Nat) (f : Dev → Dev) (d : Dev) : Dev :=
  if (d.spdmSession ch).isSome && ch.fn == .pf && ch.transport == port && decide (port < 2) then
    (if stream < 17 then f d else d.emit (.spdmError ch SpdmErr.invalid))
  else d.emit (.spdmError ch SpdmErr.unexpected)

/-- KEY_PROG (R471): a key set of the stream takes its key, whether or not the stream runs. [DEDUCED: log entry 78] -/
def execKeyProg (ch : SecChannel) (port stream set key : Nat) (s : State) : Host.Outcome State Fault Refusal :=
  onAwake (fun d => d.ideKm ch port stream (fun d =>
    let x := d.ideStream port stream
    (d.idePut port stream { x with keys := Tab.put set key x.keys }).emit (.spdm ch 0x100 [port, stream, set]))) s

/-- K_SET_GO (R471): the programmed set becomes the stream's active one, and the stream is secure. [DEDUCED: log entry 78] -/
def execKSetGo (ch : SecChannel) (port stream set : Nat) (s : State) : Host.Outcome State Fault Refusal :=
  onAwake (fun d => d.ideKm ch port stream (fun d =>
    let x := d.ideStream port stream
    if Tab.has set x.keys then (d.idePut port stream { x with active := some set, insecure := false }).emit (.spdm ch 0x101 [port, stream, set])
    else d.emit (.spdmError ch SpdmErr.invalid))) s

/-- K_SET_STOP (R471): the set is no longer used; a stream without an active set is insecure. [DEDUCED: log entry 78] -/
def execKSetStop (ch : SecChannel) (port stream set : Nat) (s : State) : Host.Outcome State Fault Refusal :=
  onAwake (fun d => d.ideKm ch port stream (fun d =>
    let x := d.ideStream port stream
    let d := d.idePut port stream { x with keys := Tab.del set x.keys }
    (if x.active == some set then d.ideInsecure port stream else d).emit (.spdm ch 0x102 [port, stream, set]))) s

/-- IDE_KM QUERY (R471): selective streams only, 17 of them with two address blocks each, and each stream's state. -/
def execIdeKmQuery (ch : SecChannel) (port : Nat) (s : State) : Host.Outcome State Fault Refusal :=
  onAwake (fun d => d.ideKm ch port 0 (fun d =>
    d.emit (.spdm ch 0x103 (port :: 17 :: 2 :: (List.range 17).map (fun k => b2n (!(d.ideStream port k).insecure)))))) s

/-- IDE_CHECK_FAIL (R471): the TLP is dropped, the stream becomes insecure, and the failure is counted. [DEDUCED: log entry 78] -/
def execIdeCheckFail (port stream : Nat) (s : State) : Host.Outcome State Fault Refusal :=
  onAwake (fun d => (d.bump Reg.SEC_IDE_FAIL.count 1).ideInsecure port stream) s

/-! ### TDISP (R472 to R474) -/

/-- TDISP errors: INVALID_REQUEST, INVALID_INTERFACE_STATE, INVALID_INTERFACE, INVALID_DEVICE_CONFIGURATION. [PRESUMED: log entry 77] -/
def TdispErr.state : Nat := 0x0004
/-- INVALID_INTERFACE. -/
def TdispErr.interface_ : Nat := 0x0101
/-- INVALID_DEVICE_CONFIGURATION. -/
def TdispErr.config : Nat := 0x0104

/-- A TDISP message: inside an SPDM session, for one of the 32 TDIs (R472). [PRESUMED: log entry 77] -/
def Dev.tdisp (ch : SecChannel) (tdi : Nat) (f : Dev → Dev) (d : Dev) : Dev :=
  if (d.spdmSession ch).isNone then d.emit (.spdmError ch SpdmErr.unexpected)
  else if 32 ≤ tdi then d.emit (.tdispError ch TdispErr.interface_)
  else f d

/-- A TDI's state (R483). [DEDUCED: log entry 79] -/
def Dev.tdiState (t : Nat) (d : Dev) : Nat := d.get (Reg.SEC_TDI.state t)

/-- GET_TDISP_VERSION (R472): 1.0. -/
def execGetTdispVersion (ch : SecChannel) (tdi : Nat) (s : State) : Host.Outcome State Fault Refusal :=
  onAwake (fun d => d.tdisp ch tdi (fun d => d.emit (.tdisp ch 0x01 [0x10]))) s

/-- GET_TDISP_CAPABILITIES (R472): the messages supported; no peer-to-peer binding. -/
def execGetTdispCapabilities (ch : SecChannel) (tdi : Nat) (s : State) : Host.Outcome State Fault Refusal :=
  onAwake (fun d => d.tdisp ch tdi (fun d => d.emit (.tdisp ch 0x02 [0x7F, 0]))) s

/-- LOCK_INTERFACE_REQUEST (R472, R474): refused while invasive debug is in force. [DEDUCED: log entry 79] -/
def execLockInterfaceRequest (ch : SecChannel) (tdi : Nat) (s : State) : Host.Outcome State Fault Refusal :=
  onAwake (fun d => d.tdisp ch tdi (fun d =>
    if 2 ≤ d.debugLevel then d.emit (.tdispError ch TdispErr.config)
    else if d.tdiState tdi ≠ 0 then d.emit (.tdispError ch TdispErr.state)
    else
      let d := d.put (Reg.SEC_TDI.state tdi) 1
      ({ d with sec := { d.sec with tdiEpoch := Tab.put tdi d.comp.cur.epoch d.sec.tdiEpoch } }).emit (.tdisp ch 0x03 []))) s

/-- GET_DEVICE_INTERFACE_REPORT (R472): the TDI's QUE, CNT and SCT windows, its Sector and sealed flag, the epoch at LOCK. [DEDUCED: log entry 79] -/
def execGetDeviceInterfaceReport (ch : SecChannel) (tdi : Nat) (s : State) : Host.Outcome State Fault Refusal :=
  onAwake (fun d => d.tdisp ch tdi (fun d =>
    if d.tdiState tdi = 1 ∨ d.tdiState tdi = 2 then
      d.emit (.tdisp ch 0x04 (((d.que.filter (fun e => !e.2.pf && e.2.sector == tdi % 16)).map (fun e => 0x01000000 + 0x1000 * e.1)) ++ [0x0F110000 + 0x1000 * (tdi % 16), 0x06701000 + 0x1000 * (tdi % 16), tdi % 16, b2n (d.sector (tdi % 16)).isSealed,
        Tab.getD tdi 0 d.sec.tdiEpoch]))
    else d.emit (.tdispError ch TdispErr.state))) s

/-- GET_DEVICE_INTERFACE_STATE (R472). -/
def execGetDeviceInterfaceState (ch : SecChannel) (tdi : Nat) (s : State) : Host.Outcome State Fault Refusal :=
  onAwake (fun d => d.tdisp ch tdi (fun d => d.emit (.tdisp ch 0x05 [d.tdiState tdi]))) s

/-- START_INTERFACE_REQUEST (R472): a locked TDI runs. [DEDUCED: log entry 79] -/
def execStartInterfaceRequest (ch : SecChannel) (tdi : Nat) (s : State) : Host.Outcome State Fault Refusal :=
  onAwake (fun d => d.tdisp ch tdi (fun d =>
    if d.tdiState tdi = 1 then (d.put (Reg.SEC_TDI.state tdi) 2).emit (.tdisp ch 0x06 [])
    else d.emit (.tdispError ch TdispErr.state))) s

/-- STOP_INTERFACE_REQUEST (R473): to CONFIG_UNLOCKED from any state. [DEDUCED: log entry 79] -/
def execStopInterfaceRequest (ch : SecChannel) (tdi : Nat) (s : State) : Host.Outcome State Fault Refusal :=
  onAwake (fun d => d.tdisp ch tdi (fun d => (d.put (Reg.SEC_TDI.state tdi) 0).emit (.tdisp ch 0x07 []))) s

end Sys2Proof.Machine
end

