-- ==== Sys2Proof/Machine/Ports.lean ====
section
/-!
DEFINITION. Machine/Ports.lean: function-level resets, loss and return of a PCIe port, and its fundamental reset (R473, R488, R499,
R517).
-/
namespace Sys2Proof.Machine

/-- Queues located on a port for which `p` holds. -/
def Dev.portQueues (port : Nat) (p : Queue → Bool) (d : Dev) : List Nat :=
  (d.que.filter (fun e => e.2.location == port && p e.2)).map (·.1)

/-- VF_FLR (R473, R499): the Sector's queues on the port return to empty, and the TDI is unlocked. [DEDUCED: log entry 84] -/
def execVfFlr (port vf : Nat) (s : State) : Host.Outcome State Fault Refusal :=
  onServing (fun d =>
    if 2 ≤ port ∨ 16 ≤ vf then d
    else
      let d := (d.portQueues port (fun u => !u.pf && u.sector == vf)).foldl (fun d q => d.emptyQueue q) d
      (d.put (Reg.SEC_TDI.state (16 * port + vf)) 0).flag (Reg.PCI_ERR.vf_flr port)) s

/-- A port's PCI_ADMQ registers clear, and its administration queue goes with them (R499, R514). [DEDUCED: log entry 83] -/
def Dev.clearAdmq (port : Nat) (d : Dev) : Dev :=
  let d := ((d.put (Reg.PCI_ADMQ_CFG.enable port) 0).put (Reg.PCI_ADMQ_CFG.ring_log2 port) 0).put (Reg.PCI_ADMQ_CFG.vector port) 0
  let d := ((d.put (Reg.PCI_ADMQ_RING.address port) 0).put (Reg.PCI_ADMQ_CQ.address port) 0).put (Reg.PCI_ADMQ_PAY.address port) 0
  (d.put (Reg.PCI_ADMQ_PAY.log2 port) 0).admqEnable port false

/-- Ownership lapses when it was the port's (R488), and the port's half-made claim is gone. -/
def Dev.portLapse (port : Nat) (d : Dev) : Dev :=
  let d := d.ownUpd (fun o => { o with half := Tab.del (port + 1) o.half })
  if d.owner = port + 1 then d.lapse else d

/-- What a reset of the physical function does (R488, R499). [DEDUCED: log entry 84] -/
def Dev.resetFunction (port : Nat) (d : Dev) : Dev :=
  let d := (d.portQueues port (fun _ => true)).foldl (fun d q => d.emptyQueue q) d
  let d := (List.range 16).foldl (fun d n => d.put (Reg.SEC_TDI.state (16 * port + n)) 0) d
  (d.clearAdmq port).portLapse port

/-- PF_FLR (R499). [DEDUCED: log entry 84] -/
def execPfFlr (port t : Nat) (s : State) : Host.Outcome State Fault Refusal :=
  onAwake (fun d =>
    let d := d.advance t
    if 2 ≤ port then d else (d.resetFunction port).flag (Reg.PCI_ERR.pf_flr port)) s

/-- The link of a port is gone: its IDE streams become insecure, its SPDM sessions close (R499). [DEDUCED: log entry 84] -/
def Dev.linkGone (port : Nat) (d : Dev) : Dev :=
  let d := ((d.put (Reg.PCI_STATUS.link_up port) 0).put (Reg.PCI_STATUS.speed port) 0).put (Reg.PCI_STATUS.width port) 0
  let d := (List.range 17).foldl (fun d k => if Tab.has (ideKey port k) d.sec.ide then d.ideInsecure port k else d) (d.put (Reg.PCI_STATUS.flit_mode port) 0)
  d.spdmSet (d.sec.spdm.filter (fun e => e.2.transport != port))

/-- SURPRISE_LINK_DOWN (R488, R499). -/
def execSurpriseLinkDown (port t : Nat) (s : State) : Host.Outcome State Fault Refusal :=
  onAwake (fun d =>
    let d := d.advance t
    if 2 ≤ port then d
    else
      let d := (d.portQueues port (fun u => u.st != .dead)).foldl (fun d q => d.killQueue q) d
      ((d.linkGone port).portLapse port).flag (Reg.PCI_ERR.surprise_down port)) s

/-- PCIE_LINK_RETURN (R499): the port trains; DEAD queues stay DEAD. -/
def execPcieLinkReturn (port speed width : Nat) (flitMode : Bool) (s : State) : Host.Outcome State Fault Refusal :=
  onAwake (fun d =>
    if 2 ≤ port then d
    else (((d.put (Reg.PCI_STATUS.link_up port) 1).put (Reg.PCI_STATUS.speed port) speed).put (Reg.PCI_STATUS.width port) width).put
      (Reg.PCI_STATUS.flit_mode port) (b2n flitMode)) s

/-- PERST (R499, R517): the port alone is reset. [DEDUCED: log entry 84] -/
def execPerst (port t : Nat) (s : State) : Host.Outcome State Fault Refusal :=
  onAwake (fun d =>
    let d := d.advance t
    if 2 ≤ port then d else (d.resetFunction port).linkGone port) s

end Sys2Proof.Machine
end

