-- ==== Sys2Proof/Machine/Boot.lean ====
section
/-!
DEFINITION. Machine/Boot.lean: the resets, the start sequence and recovery (R517 to R521), and the firmware update (R522, R523).
-/
namespace Sys2Proof.Machine

/-! ### What a reset keeps (R517) -/

/-- Bytes that survive a reset: those of tier 2, which is flash. [DEDUCED: log entry 7] -/
def keepFlash (mem : List Host.Cell) : List Host.Cell :=
  mem.filter (fun c => decide (tierAddr 2 0 0 ≤ c.1) && decide (c.1 < tierAddr 3 0 0))

/-- The device at a reset (R517): everything but the NOR and the flash returns to its reset value. What the device has sent and the
count of free values drawn are the model's own. [DEDUCED: log entry 7] -/
def Dev.cleared (cause : Nat) (env : RomEnv) (nor : Option LightList) (d : Dev) : Dev :=
  let f := d.media.flash
  let d : Dev := { Dev.reset with
    out := d.out, freeCtr := d.freeCtr,
    boot := { Boot.reset with nor := nor, rom := env },
    sec := { Sec.reset with nor := { d.sec.nor with countersOk := env.countersOk } },
    media := { Media.reset with
      flash := { f with lastChan := [], luns := [], changed := Tab.mapv (fun _ _ => 0) f.changed, seq := f.seq + 2 ^ 20 } } }
  d.put Reg.PWR_BOOT.cause cause

/-! ### Steps 3 and 4: the image's two parts (R453 to R461) -/

/-- Step 3's checks of the firmware part: counters, signature and tag, rollback. [DEDUCED: log entry 92] -/
def Dev.checkFw (l : LightList) (d : Dev) : Nat :=
  if !d.sec.nor.countersOk then ST.SEC_COUNTER
  else if !(sigVerifies l.fw.sig && l.fw.sig.signer == 0 && l.fw.tagOk) then ST.SEC_SIG
  else if l.fw.sig.securityVersion < d.sec.nor.counter0 then ST.SEC_ROLLBACK
  else ST.OK

/-- Step 4's checks of the configuration part: anchor, signature, rollback. [DEDUCED: log entry 92] -/
def Dev.checkCfg (l : LightList) (d : Dev) : Nat :=
  if (match d.sec.nor.anchor with | some k => k != l.cfg.anchor | none => false) then ST.SEC_ANCHOR
  else if !(sigVerifies l.cfg.sig && l.cfg.sig.signer == 1 && l.cfg.sig.keyId == l.cfg.anchor) then ST.SEC_SIG
  else if l.cfg.sig.securityVersion < d.sec.nor.counter1 then ST.SEC_ROLLBACK
  else ST.OK

/-- Steps 3 and 4 applied to an image. [DEDUCED: log entry 92] -/
def Dev.checkImage (l : LightList) (d : Dev) : Nat := if d.checkFw l ≠ ST.OK then d.checkFw l else d.checkCfg l

/-- The event bit of a refused image (R483). -/
def Dev.imageRefused (st : Nat) (d : Dev) : Dev :=
  if st = ST.SEC_COUNTER then d.counterFail
  else if st = ST.SEC_SIG then d.sigRefused
  else if st = ST.SEC_ROLLBACK then d.flag Reg.SEC_ERR.rollback
  else d

/-- The directory is readable (R518). [DEDUCED: log entry 92] -/
def directoryOk (l : LightList) : Bool := l.magic == 0x4C4C && l.version == 1

/-- The key-generation record at a start (R454): absent, or carrying another value than counter 3, it is made anew. -/
def Dev.loadGens (d : Dev) : Dev :=
  let n := d.sec.nor
  let d := if n.genCarried = some n.counter3 then d
    else
      let g := wrap 32 (n.counter3 + 1)
      (d.norUpd (fun x => { x with genDev := g, genPool := g, gens := (List.range 16).map (fun k => (k, g)) })).rewriteGens
  (List.range 16).foldl (fun d k => d.put (Reg.SEC_KEYGEN.gen k) (Tab.getD k 0 d.sec.nor.gens)) d

/-- What a verified image leaves in the security unit and the Keepers (R455, R456, R459, R483). -/
def Dev.takeImage (l : LightList) (d : Dev) : Dev :=
  let d := d.norUpd (fun n => { n with anchor := some (n.anchor.getD l.cfg.anchor) })
  let d : Dev := { d with
    keepers := d.keepers.map (fun k => { k with firmware := l.fw.digest }),
    boot := { d.boot with running := some l },
    sec := { d.sec with fwDigest := l.fw.digest, fwVersion := l.fw.sig.securityVersion, cfgVersion := l.cfg.sig.securityVersion,
                        cfgAnchor := l.cfg.anchor, imageKeys := l.cfg.imageKeys.take 8 } }
  let d := (d.put Reg.SEC_STATUS.cert_mismatch (b2n (!l.cfg.certsMatch))).showAnchor
  let d := (d.put Reg.SEC_SVN_FW.counter d.sec.nor.counter0).put Reg.SEC_SVN_CFG.counter d.sec.nor.counter1
  let d := (d.put Reg.SEC_SVN_RUN.fw d.sec.fwVersion).put Reg.SEC_SVN_RUN.cfg d.sec.cfgVersion
  d.put Reg.SEC_DBG_COUNT.count d.sec.nor.counter2

/-! ### Steps 1 to 5, and failure (R519, R520) -/

/-- A step fails: the device enters recovery, where only the two PCIe masters may claim (R519, R520). -/
def Dev.startFails (step st : Nat) (d : Dev) : Dev :=
  let d := ((d.put Reg.PWR_BOOT.step step).put Reg.PWR_BOOT.status st).put Reg.PWR_BOOT.mode 2
  let d := if ST.SEC_PUF ≤ st ∧ st ≤ ST.SEC_LEVEL then d.put Reg.SEC_STATUS.boot_status st else d
  let d : Dev := { d with boot := { d.boot with waitingPg := none, phase := .run } }
  (d.openWindow 0 0).emit (.started 2)

/-- Step 5 raises VCORE_EN and waits for VCORE_PG (R530, R580). -/
def Dev.raiseVcore (d : Dev) : Dev :=
  ({ d with boot := { d.boot with vcoreEn := true, waitingPg := some d.now } }).emit (.vcoreEn true)

/-- Steps 1 to 4 on the ROM, then step 5 begins (R519, R574). -/
def Dev.romStart (d : Dev) : Dev :=
  if !d.boot.rom.pufOk then d.startFails 1 ST.SEC_PUF
  else
    let d : Dev := { d with sec := { d.sec with puf := true } }
    let d := (d.put Reg.GLB_UID_LO.uid_lo d.boot.rom.uid).put Reg.GLB_UID_HI.uid_hi (d.boot.rom.uid / 2 ^ 32)
    match d.boot.nor with
    | none => d.startFails 2 ST.PWR_NOIMAGE
    | some l =>
      if !directoryOk l then d.startFails 2 ST.PWR_NOIMAGE
      else if !d.sec.nor.countersOk then (d.imageRefused ST.SEC_COUNTER).startFails 3 ST.SEC_COUNTER
      else
        let d := d.loadGens
        if d.checkFw l ≠ ST.OK then (d.imageRefused (d.checkFw l)).startFails 3 (d.checkFw l)
        else if d.checkCfg l ≠ ST.OK then (d.imageRefused (d.checkCfg l)).startFails 4 (d.checkCfg l)
        else ((d.takeImage l).put Reg.PWR_BOOT.step 5).raiseVcore

/-- A reset with its cause, and the start up to the wait for VCORE_PG (R517, R519). [DEDUCED: log entry 7] -/
def Dev.restart (cause : Nat) (env : RomEnv) (nor : Option LightList) (d : Dev) : Dev := (d.cleared cause env nor).romStart

/-- A reset of the whole machine. [DEDUCED: log entry 7] -/
def startOver (cause : Nat) (env : RomEnv) (nor : Option LightList) (s : State) : Host.Outcome State Fault Refusal :=
  .next { s with mem := keepFlash s.mem, dev := s.dev.restart cause env nor }

/-- POWER_ON_RESET (R517): the always-on supply rises, with the NOR that is fitted. [DESIGN CHOICE: log entry 6] -/
def execPowerOnReset (fitted : Option LightList) (env : RomEnv) (s : State) : Host.Outcome State Fault Refusal :=
  startOver 0 env (match fitted with | some l => some l | none => s.dev.boot.nor) s

/-- RESET_N (R517): a low pulse of at least 1 µs; a shorter one does nothing. [DESIGN CHOICE: log entry 106] -/
def execResetN (lowNs : Nat) (env : RomEnv) (s : State) : Host.Outcome State Fault Refusal :=
  if 1000 ≤ lowNs then startOver 1 env s.dev.boot.nor s else .next s

/-- BROWN_OUT (R517, R535). -/
def execBrownOut (env : RomEnv) (s : State) : Host.Outcome State Fault Refusal := startOver 2 env s.dev.boot.nor s

/-- PWR_CTRL_RESET (R517): the owner writes PWR_CTRL.reset; another master's write is ignored and counted (R487). -/
def execPwrCtrlReset (m : Master) (env : RomEnv) (s : State) : Host.Outcome State Fault Refusal :=
  if s.dev.awake && (s.dev.inService || s.dev.inRecovery) && s.dev.owner == m.code then startOver 3 env s.dev.boot.nor s
  else onAwake (fun d => d.ownerWrite m.code (fun d => d)) s

/-- RECOVERY_LOAD (R521): in recovery, the owner loads a Light List of at most 64 MiB; a failure leaves the NOR unchanged. [DESIGN CHOICE: log entry 6; DEDUCED: log entry 92] -/
def execRecoveryLoad (m : Master) (image : LightList) (env : RomEnv) (s : State) : Host.Outcome State Fault Refusal :=
  if s.dev.inRecovery && s.dev.awake && s.dev.owner == m.code then
    let st := if 64 * 2 ^ 20 < image.bytes ∨ directoryOk image = false then ST.PWR_NOIMAGE else s.dev.checkImage image
    if st = ST.OK then startOver 4 env (some image) s
    else .next { s with dev := (s.dev.imageRefused st).put Reg.PWR_RCV_STATUS.status st }
  else onAwake (fun d => d.ownerWrite m.code (fun d => d)) s

/-! ### Step 6: the configuration (R519) -/

/-- A field that the Light List loads: marked LL, and not one that the device computes from its records or its media (R483, R450). -/
def llLoads (f : Fld) : Bool := f.ll && !(decide (0x00040000 ≤ f.off) && decide (f.off < 0x00050000)) && !(decide (0x06800000 ≤ f.off) && decide (f.off < 0x06900000))

/-- The field that a key names. -/
def fieldOfKey (k : Nat) : Option Fld := (findReg (k / 64)).bind (fun r => (r.fieldsAt (k / 64)).find? (fun f => f.key == k))

/-- The LL fields take the configuration part's values, shadow fields their committed values too (R384, R519). [DEDUCED: log entry 92] -/
def Dev.loadFields (fs : List (Nat × Nat)) (d : Dev) : Dev :=
  fs.foldl (fun d e =>
    match fieldOfKey e.1 with
    | some f => if llLoads f then (let d := d.put f e.2; if f.acc == .sh then d.setCom f.key (wrap f.width e.2) else d) else d
    | none => d) d

/-- The group entry agrees with itself (R21, R23). -/
def Dev.groupEntryOk (d : Dev) : Bool :=
  let n := d.groupSize
  let p := d.position
  let uses := (List.range 8).map (fun i => d.portUse i)
  decide (n ≤ 128) && decide (p < n) &&
  (d.role == (if n = 1 then 0 else if p = 0 then 1 else if p + 1 = n then 3 else 2)) &&
  (if n = 1 then !uses.contains 1 && !uses.contains 2 else uses.contains 1 && uses.contains 2)

/-- The starting composition agrees with itself and with the reserved chunks (R338 to R342). -/
def compositionOk (c : CfgPart) : Bool :=
  let m := c.composition
  m.magic == 0x4D53 && m.version == 1 && m.reservedZero && decide (1 ≤ m.epoch) && decide (m.epoch ≤ 0xFFFF) && m.sects.length == 16 &&
  decide (namedCores m.sects).Nodup && (namedCores m.sects).all (fun k => decide (k < 32)) &&
  decide (sumPresent (·.t0d0) m.sects ≤ 256) && decide (sumPresent (·.t0d1) m.sects ≤ 256) &&
  decide c.reservedChunks.Nodup && c.reservedChunks.all (fun k => decide (k < 9216)) &&
  (layChunks c.reservedChunks [] ((List.range 16).zip m.sects) []).isSome

/-- The queues of the queue map are created in order; none where one is not well formed (R491, R497). [DESIGN CHOICE: log entry 93] -/
def Dev.createQueues : List QueueSpec → Dev → Option Dev
  | [], d => some d
  | q :: qs, d => if d.queueOk q then Dev.createQueues qs (d.createQueue q) else none

/-- The composition, the peer table and the queues take effect; none where one of them is not consistent. -/
def Dev.loadMaps (c : CfgPart) (d : Dev) : Option Dev :=
  if compositionOk c && decide (d.get Reg.POOL_SIZE.t1_chunks ≤ c.reservedChunks.length) && c.peers.all (fun p => decide (p.1 < 256) && peerOk p.2) then
    let chunks := (layChunks c.reservedChunks [] ((List.range 16).zip c.composition.sects) []).getD []
    let d : Dev := { d with comp := { d.comp with cur := ⟨c.composition.epoch, c.composition.sects, chunks, []⟩, reserved := c.reservedChunks },
                            peers := c.peers.foldl (fun t p => Tab.put p.1 p.2 t) [] }
    Dev.createQueues c.queues d
  else none

/-! ### Step 7: the media (R420, R433 to R436, R442) -/

/-- A stack trains, or its channel groups are retired (R433). Where the Light List gives no channel map, channel n fills slot n. [DEDUCED: log entry 75; DESIGN CHOICE: log entry 93] -/
def Dev.trainStack (fields : List (Nat × Nat)) (trained : List Nat) (s : Nat) (d : Dev) : Dev :=
  let d : Dev := { d with media := { d.media with stk := Tab.put s ⟨trained.contains s, [], [], none⟩ d.media.stk } }
  let d := if fields.any (fun f => f.1 == (Reg.STK_CH.state s 0).key || f.1 == (Reg.STK_CH.slot s 0).key) then d
    else (List.range 128).foldl (fun d n =>
      if n < 120 then (d.put (Reg.STK_CH.state s n) 0).put (Reg.STK_CH.slot s n) n
      else (d.put (Reg.STK_CH.state s n) 1).put (Reg.STK_CH.slot s n) 0x7F) d
  if trained.contains s then d
  else (List.range 8).foldl (fun d g =>
    ((d.put (Reg.STK_GROUP.retired s g) 1).flag (Reg.STK_ERR.group_retired s)).reportUnit 0x4 (8 * s + g) 2) d

/-- A target's raw bytes. -/
def targetBytes (t : FlashTarget) : Nat := t.pageBytes * t.pagesPerBlock * t.blocksPerLun * t.luns

/-- Two targets have one geometry. [DEDUCED: log entry 75] -/
def sameGeometry (a b : FlashTarget) : Bool :=
  a.pageBytes == b.pageBytes && a.spareBytes == b.spareBytes && a.planes == b.planes && a.luns == b.luns &&
    a.pagesPerBlock == b.pagesPerBlock && a.blocksPerLun == b.blocksPerLun

/-- Why a target is excluded, in the order of R435 from 1; 0 where it is accepted. [DEDUCED: log entry 75] -/
def exclusion (ref : Option FlashTarget) (raw : Nat) (t : FlashTarget) : Nat :=
  if !t.nvLpddr4 then 1
  else if t.pageBytes ≠ 16384 then 2
  else if t.spareBytes < 2048 then 3
  else if t.planes < 2 ∨ 4 < t.planes then 4
  else if 4 < t.luns then 5
  else if (match ref with | some r => !sameGeometry r t | none => false) then 6
  else if 128 * 10 ^ 12 < raw + targetBytes t then 7
  else 0

/-- Enumerate targets in channel order and then chip-enable order: the reference, the raw bytes, and the accepted ones (R435). [DEDUCED: log entry 75] -/
def Dev.enumerate : List FlashTarget → Option FlashTarget → Nat → List FlashTarget → Dev → Dev × List FlashTarget
  | [], _, _, acc, d => (d, acc)
  | t :: ts, ref, raw, acc, d =>
    let n := 8 * t.chan + t.target
    let why := exclusion ref raw t
    if why = 0 then Dev.enumerate ts (some (ref.getD t)) (raw + targetBytes t) (acc ++ [t]) (d.put (Reg.FLS_TGT.state n) 1)
    else Dev.enumerate ts ref raw acc ((d.put (Reg.FLS_TGT.state n) 2).put (Reg.FLS_TGT.reason n) why)

/-- Targets by channel, then chip enable, each once. [DEDUCED: log entry 75] -/
def orderTargets (ts : List FlashTarget) : List FlashTarget :=
  (List.range 256).filterMap (fun n => ts.find? (fun t => 8 * t.chan + t.target == n && decide (t.target < 8)))

/-- A LUN enters use with its block groups, unless more than 2 % of its blocks were retired (R448). -/
def Dev.addLun (t : FlashTarget) (k : Nat) (d : Dev) : Dev :=
  let lun := 32 * t.chan + 4 * t.target + k
  let groups := t.blocksPerLun / t.planes
  let gone := Tab.getD lun 0 d.media.flash.retiredBlocks
  let d := d.bump (Reg.FLS_TGT.retired_blocks (lun / 4)) gone
  if 2 * groups < 100 * gone then d.put (Reg.FLS_TGT.state (lun / 4)) 3
  else d.flUpd (fun f => { f with luns := Tab.put lun groups f.luns })

/-- A channel of accepted targets trains, or is lost (R435, R436). [DEDUCED: log entry 75] -/
def Dev.trainChannel (rates : List (Nat × Nat)) (c : Nat) (d : Dev) : Dev :=
  let rate := Tab.getD c 0 rates
  if rate = 0 then ((d.put (Reg.FLS_CH.state c) 2).flag Reg.FLS_ERR.channel_lost).reportUnit 0x5 c 2
  else (d.put (Reg.FLS_CH.state c) 1).put (Reg.FLS_CH.rate c) rate

/-- Usable tier-2 capacity in GiB (R442): raw less one sixteenth, the table area and retired blocks. -/
def usableGib (raw tableExtents retired : Nat) : Nat := (raw - raw / 16 - tableExtents * 65536 - retired) / 2 ^ 30

/-- Bytes of the blocks retired on the targets given. -/
def Dev.retiredBytes (ts : List FlashTarget) (d : Dev) : Nat :=
  (ts.map (fun t => ((List.range t.luns).map (fun k => Tab.getD (32 * t.chan + 4 * t.target + k) 0 d.media.flash.retiredBlocks)).sum *
    (t.pageBytes * t.pagesPerBlock))).sum

/-- The flash is enumerated, trained and sized (R435, R436, R442). -/
def Dev.startFlash (env : MediaEnv) (tableExtents : Nat) (d : Dev) : Dev :=
  let r := Dev.enumerate (orderTargets env.targets) none 0 [] d
  let ts := r.2
  let d := ts.foldl (fun d t => (List.range t.luns).foldl (fun d k => d.addLun t k) d) r.1
  let d := ((ts.map (·.chan)).eraseDups).foldl (fun d c => d.trainChannel env.rates c) d
  let d := match ts with
    | t :: _ => (((d.put Reg.FLS_GEOM.planes t.planes).put Reg.FLS_GEOM.luns t.luns).put Reg.FLS_GEOM.pages t.pagesPerBlock).put
        Reg.FLS_GEOM.spare_bytes_div16 (t.spareBytes / 16)
    | [] => d
  let act := ts.filter (fun t => d.get (Reg.FLS_CH.state t.chan) == 1)
  d.put Reg.FLS_CAP.gib (usableGib ((act.map targetBytes).sum) tableExtents (d.retiredBytes act))

/-- The units of the starting map, from the flash that was found (R437). [DEDUCED: log entry 92] -/
def Dev.layStartUnits (d : Dev) : Dev :=
  { d with comp := { d.comp with cur := { d.comp.cur with units := layUnits [] ((List.range 16).zip d.comp.cur.sects) d.freeUnits } } }

/-! ### Steps 8 and 9 -/

/-- Lemdin ports in use train (R505, R519 step 8). -/
def Dev.trainPorts (d : Dev) : Dev :=
  (List.range 8).foldl (fun d i => if d.portUse i = 0 then d else (d.put (Reg.LNK_PORT.use i) (d.portUse i)).startTraining i) d

/-- In service: the claim window opens (R486, R519 step 9). -/
def Dev.inServiceNow (d : Dev) : Dev :=
  let d := ((d.put Reg.PWR_BOOT.mode 1).put Reg.PWR_BOOT.step 9).put Reg.PWR_BOOT.status ST.OK
  (((d.showMap.openWindow 0 0).ringChanged false)).emit (.started 1)

/-- Steps 6 to 9, once VCORE and the PLL are up (R519). [DEDUCED: log entry 92] -/
def Dev.configure (l : LightList) (env : MediaEnv) (d : Dev) : Dev :=
  let d := d.loadFields l.cfg.fields
  if !l.cfg.fields.any (fun f => f.1 == Reg.OWN_CFG.hb_ms.key) then d.startFails 6 ST.PWR_CONFIG
  else if !d.groupEntryOk then d.startFails 6 ST.GRP_CONFIG
  else
    match d.loadMaps l.cfg with
    | none => d.startFails 6 ST.PWR_CONFIG
    | some d =>
      let d := (List.range 12).foldl (fun d s => d.trainStack l.cfg.fields env.trainedStacks s) d
      let d := d.startFlash env l.cfg.tableExtents
      if (List.range 12).all (fun s => !(d.stack s).trained) || (List.range 32).all (fun c => d.get (Reg.FLS_CH.state c) != 1) then
        d.startFails 7 ST.PWR_MEDIA
      else
        let d := d.layStartUnits.trainPorts
        ({ d with mctp := { d.mctp with up := true } }).inServiceNow

/-- VCORE is good: the start goes on with the PLL (R519 step 5, R525). -/
def Dev.clocksUp (env : MediaEnv) (d : Dev) : Dev :=
  let d : Dev := { d with boot := { d.boot with waitingPg := none } }
  if !env.pllLock then d.startFails 5 ST.PWR_CLOCK
  else
    let d := (d.put Reg.CLK_STATUS.pll_lock 1).put Reg.CLK_STATUS.on_bosc 0
    match d.boot.running with
    | some l => d.configure l env
    | none => d.startFails 2 ST.PWR_NOIMAGE

/-- VCORE_PG_TIMEOUT (R580): 50 ms without VCORE_PG end the start, or the exit from DEEP. -/
def execVcorePgTimeout (t : Nat) (s : State) : Host.Outcome State Fault Refusal :=
  onDev (fun d =>
    match d.boot.waitingPg with
    | some w =>
      let d := d.advance t
      if w + ms 50 ≤ d.now then d.startFails 5 ST.PWR_CLOCK else d
    | none => d) s

/-! ### FW_UPDATE (R522, R523) -/

/-- The exchange of step 3: the spare takes over each active Keeper in ascending number, and the relieved one becomes the spare. -/
def exchange (digest : Nat) : List Nat → Nat → List Keeper → List Keeper
  | [], _, ks => ks
  | a :: rest, spare, ks => exchange digest rest a ((ks.set spare ⟨.active, digest⟩).set a ⟨.spare, digest⟩)

/-- All active Keepers exchanged; every working spare has the new firmware too. -/
def exchangeAll (digest : Nat) (ks : List Keeper) : List Keeper :=
  match ks.findIdx? (fun k => k.role == .spare) with
  | some sp =>
    (exchange digest ((List.range ks.length).filter (fun i => (ks.map (·.role))[i]? == some .active)) sp ks).map (fun k =>
      if k.role == .failed then k else { k with firmware := digest })
  | none => ks

/-- FW_UPDATE (R522, R523). The configuration that runs stays; the new one takes effect at the next start. [DESIGN CHOICE: log entry 6; DEDUCED: log entry 92] -/
def execFwUpdate (hdr : EntryHdr) (_sourceKind : Nat) (image : LightList) (s : State) : Host.Outcome State Fault Refusal :=
  onServing (fun d => d.ownerAdmin hdr ST.PWR_DENIED (fun e d =>
    if !d.keepers.any (fun k => k.role == .spare) then d.complete e ST.PWR_NOSPARE 0
    else
      let st := if directoryOk image then d.checkImage image else ST.PWR_NOIMAGE
      if st ≠ ST.OK then (d.imageRefused st).complete e st 0
      else
        let d : Dev := { d with keepers := exchangeAll image.fw.digest d.keepers, boot := { d.boot with nor := some image },
                                sec := { d.sec with fwDigest := image.fw.digest, fwVersion := image.fw.sig.securityVersion } }
        ((d.put Reg.SEC_SVN_RUN.fw d.sec.fwVersion).allTdis 4).complete e ST.OK 0)) s

end Sys2Proof.Machine
end

