-- ==== Sys2Proof/Machine/Lens.lean ====
section
/-!
DEFINITION. Machine/Lens.lean: the calendar's visits of its slots and the sampler's sweeps (R364 to R367, R381 to R383).
-/
namespace Sys2Proof.Machine

/-- One entry of a visited slot: released when its eligible time has come, else placed again (R366). [DEDUCED: log entry 67] -/
def Dev.visitEntry (c : CalEnt) (d : Dev) : Dev := if c.te ≤ d.now then d.calDrop c.key else d.calPlace c.key c.te c.need

/-- How late a visit of a slot comes: the time since the slot last began (R367). [DEDUCED: log entry 67] -/
def Dev.visitLag (slot : Nat) (d : Dev) : Nat :=
  d.now % d.slotW + (d.slotOf d.now + 4096 - slot % 4096) % 4096 * d.slotW

/-- A slot begun late is counted, with the largest lag (R367, R389, R390). [DEDUCED: log entry 67] -/
def Dev.countLag (lag : Nat) (d : Dev) : Dev :=
  if lag = 0 then d
  else
    let d := (d.flag Reg.LENS_ERR.late).bump Reg.LENS_LATE.value 1
    d.put Reg.LENS_MAXLAG.value (max (d.get Reg.LENS_MAXLAG.value) (min lag 0xFFFFFFFF))

/-- The engine visits a slot: a commit whose slot boundary has come takes effect first (R379, R384), then the slot's entries
are processed in the order they were entered (R366, R367). [DEDUCED: log entry 67] -/
def Dev.visitSlot (slot : Nat) (d : Dev) : Dev :=
  let d := d.takePends (fun p => p.block == Blk.lens && decide (p.at_ / d.slotW < d.now / d.slotW))
  let d := (d.put Reg.LENS_STATUS.slot slot).countLag (d.visitLag slot)
  (d.lens.cal.filter (fun c => c.slot == slot % 4096)).foldl (fun d c => d.visitEntry c) d

/-- LENS_SLOT_VISIT (R366, R367). -/
def execLensSlotVisit (slot t : Nat) (s : State) : Host.Outcome State Fault Refusal :=
  onServing (fun d => (d.advance t).visitSlot slot) s

/-! ### The sampler -/

/-- One record of the sample ring, or a drop: no port to the ring, or the ring full (R383). -/
def Dev.sampleRecord (v : Nat) (d : Dev) : Dev :=
  let drop := (d.bump Reg.LENS_SAMP_DROP.value 1).flag Reg.LENS_ERR.samp_drop
  let log2 := d.get Reg.LENS_SAMP_CFG.ring_log2 + 10
  let head := d.get Reg.LENS_SAMP_HEAD.head
  match d.hostPort (d.get Reg.LENS_SAMP_CFG.path) with
  | none => drop
  | some p =>
    if ringFull log2 head (d.get Reg.LENS_SAMP_TAIL.tail) then drop
    else (d.put Reg.LENS_SAMP_HEAD.head (head + 1)).emit
      (.hostWrite p (d.get Reg.LENS_SAMP_BASE.address * 4096 + head % 2 ^ log2 * 8) (leBytes 8 v))

/-- A queue's depth: entries submitted and not fetched, or records built and not delivered (R381). [DEDUCED: log entry 68] -/
def Dev.queueDepth (q : Nat) (u : Queue) (d : Dev) : Nat :=
  if u.kind = 2 then u.heldRecs.length + u.acks.length
  else (d.get (Reg.QUE_SQ_TAIL.tail q) + 2 ^ u.ringLog2 - u.sqHead) % 2 ^ u.ringLog2

/-- The age in µs of the oldest of them (R381). [DEDUCED: log entry 68] -/
def Dev.queueDelay (q : Nat) (d : Dev) : Nat :=
  match Tab.getD q [] d.lens.bells with
  | [] => 0
  | b :: _ => (d.now - b.2) / 1000

/-- A sample record (R382). [DEDUCED: log entry 68] -/
def Dev.sampleOf (q : Nat) (u : Queue) (d : Dev) : Nat :=
  min (d.queueDelay q) 0xFFFFFF * 2 ^ 32 + min (d.queueDepth q u) 0x3FFFF * 2 ^ 14 + q

/-- A sweep: one marker, then a sample for each queue whose shaper has `sample` set, in ascending number (R381, R382). [DEDUCED: log entry 68] -/
def Dev.lensSweep (d : Dev) : Dev :=
  let d := d.sampleRecord (2 ^ 63 + d.daymark % 2 ^ 63)
  (d.que.filter (fun e => d.com (Reg.LENS_QCTL.sample e.1) == 1)).foldl (fun d e => d.sampleRecord (d.sampleOf e.1 e.2)) d

/-- Nanoseconds between sweeps: `interval` rotations, 0 acting as 256 (R381, R391). [DEDUCED: log entry 68] -/
def Dev.sweepPeriod (d : Dev) : Nat := d.orZero Reg.LENS_SAMP_CFG.interval 256 * (4096 * d.slotW)

/-- SAMPLE_SWEEP (R381 to R383). -/
def execSampleSweep (t : Nat) (s : State) : Host.Outcome State Fault Refusal :=
  onServing (fun d =>
    let d := d.advance t
    if d.get Reg.LENS_SAMP_CFG.enable == 1 && decide (d.lens.sweepAt ≤ d.now) then
      let d := d.lensSweep
      { d with lens := { d.lens with sweepAt := d.now + d.sweepPeriod } }
    else d) s

end Sys2Proof.Machine
end

