-- ==== Sys2Proof/Machine/Power.lean ====
section
/-!
DEFINITION. Machine/Power.lean: power states, wake sources, the VCORE interface, ACLK stretch and the setting of the Daymark (R526 to
R538).
-/
namespace Sys2Proof.Machine

/-- The device with its start-up and power state changed. -/
def Dev.bootUpd (f : Boot → Boot) (d : Dev) : Dev := { d with boot := f d.boot }

/-! ### Entry (R532, R534, R535) -/

/-- The device is quiet (R532): no tracked turn, no running command, checkpoint, restore, revive, park, move or sparing copy. -/
def Dev.quiet (d : Dev) : Bool :=
  d.srv.turns.isEmpty && d.que.all (fun e => e.2.opened.isEmpty) && d.mctp.outstanding.isEmpty && d.ckpt.run.isNone &&
    d.ckpt.restoring.isNone && d.ses.ops.isEmpty && d.media.stk.all (fun e => e.2.sparing.isNone)

/-- Retention banks selected (R535). -/
def Dev.banksSelected (d : Dev) : Nat := ((List.range 16).filter (fun k => (d.get Reg.PWR_RET.banks).testBit k)).length

/-- The status of a request (R532, R535). -/
def Dev.powerStatus (target : Nat) (d : Dev) : Nat :=
  if target ≠ 2 ∧ target ≠ 3 ∧ target ≠ 4 then ST.PWR_STATE
  else if target = 3 ∧ 6 < d.banksSelected then ST.PWR_RETAIN
  else if d.boot.phase ≠ .run ∨ d.quiet = false then ST.PWR_BUSY
  else ST.OK

/-- A request for a state (R532): its status, and the entry where it is granted. For DEEP the resume state goes into the selected
retention banks. [DEDUCED: log entry 94] -/
def Dev.powerRequest (target : Nat) (d : Dev) : Dev :=
  let st := d.powerStatus target
  let d := (d.put Reg.PWR_CTRL.target target).put Reg.PWR_CTRL.status st
  if st ≠ ST.OK then d
  else
    (d.put Reg.PWR_STATUS.state target).bootUpd (fun b =>
      { b with phase := .entering target, wakeN := false,
               resume := if target = 3 ∧ d.banksSelected ≠ 0 then some d.sec.fwDigest else none })

/-- POWER_STATE_REQUEST (R532): the owner asks for SLEEP, DEEP or OFF. -/
def execPowerStateRequest (m : Master) (target : Nat) (s : State) : Host.Outcome State Fault Refusal :=
  onServing (fun d => d.ownerWrite m.code (fun d => d.powerRequest (target % 8))) s

/-! ### Exit (R536) -/

/-- Is a source enabled, in a state for which it works (R533)? -/
def Dev.wakeEnabled (target : Nat) (src : WakeSource) (d : Dev) : Bool :=
  (d.get Reg.PWR_WAKE_EN.sources).testBit src.bit && (target != 4 || src == .wakeN)

/-- The sources that caused an exit, and the state back to the way out. -/
def Dev.wakeCause (cause : Nat) (d : Dev) : Dev := (d.put Reg.PWR_WAKE_CAUSE.source cause).bootUpd (fun b => { b with wakeN := false })

/-- Exit from the state entered (R536): SLEEP is back at once, with the PLL; DEEP first raises VCORE_EN. OFF is left by a reset. [DEDUCED: log entry 94] -/
def Dev.wakeUp (target cause : Nat) (d : Dev) : Dev :=
  let d := d.wakeCause cause
  if target = 3 then ((d.put Reg.PWR_STATUS.state 5).bootUpd (fun b => { b with phase := .exiting 3 })).raiseVcore
  else (((d.put Reg.PWR_STATUS.state 0).put Reg.CLK_STATUS.pll_lock 1).put Reg.CLK_STATUS.on_bosc 0).bootUpd (fun b => { b with phase := .run })

/-- An exit from the state entered, as an outcome of the machine: OFF is left by a reset with cause 5 (R517, R536). [DEDUCED: log entry 94] -/
def exitState (target cause : Nat) (env : RomEnv) (s : State) : Host.Outcome State Fault Refusal :=
  if target = 4 then startOver 5 env s.dev.boot.nor s else .next { s with dev := s.dev.wakeUp target cause }

/-- Level sources asserted now: WAKE_N low, and comparators in level mode at or below the Daymark (R529, R533). [DEDUCED: log entry 94] -/
def Dev.levelSources (target : Nat) (d : Dev) : Nat :=
  let w := if d.boot.wakeN && d.wakeEnabled target .wakeN then 1 else 0
  w + ((List.range 4).map (fun k =>
    if d.wakeEnabled target (.comparator k) && d.get (Reg.CLK_CMPCTL.enable k) == 1 && d.get (Reg.CLK_CMPCTL.level k) == 1 &&
       decide (d.get (Reg.CLK_CMP.value k) ≤ d.daymark) then 2 ^ (1 + k) else 0)).sum

/-- Entry completes (R532 steps 5 to 7): the PLL stops, and for DEEP and OFF VCORE goes. [DEDUCED: log entry 94] -/
def Dev.enterState (target : Nat) (d : Dev) : Dev :=
  let d := ((d.put Reg.CLK_STATUS.pll_lock 0).put Reg.CLK_STATUS.on_bosc 0xF).bootUpd (fun b => { b with phase := .asleep target })
  if target = 2 then d
  else ((d.put Reg.PWR_AVS.pg 0).bootUpd (fun b => { b with vcoreEn := false })).emit (.vcoreEn false)

/-- POWER_ENTRY_COMPLETE (R534): every enabled level source is sampled, and an asserted one starts the exit at once. -/
def execPowerEntryComplete (env : RomEnv) (t : Nat) (s : State) : Host.Outcome State Fault Refusal :=
  match s.dev.boot.phase with
  | .entering target =>
    if s.dev.boot.frozen then .next s
    else
      let d := (s.dev.advance t).enterState target
      if d.levelSources target = 0 then .next { s with dev := d } else exitState target (d.levelSources target) env { s with dev := d }
  | _ => .next s

/-- A wake source acts (R533, R534): in a state it starts the exit; during entry an edge abandons the entry, or is lost in the last
8 AOCLK; a level holds until it is sampled. -/
def wakeBy (src : WakeSource) (level inLast8 : Bool) (env : RomEnv) (s : State) : Host.Outcome State Fault Refusal :=
  if s.dev.boot.frozen then .next s
  else
    match s.dev.boot.phase with
    | .asleep target => if s.dev.wakeEnabled target src then exitState target (2 ^ src.bit) env s else .next s
    | .entering target =>
      if !s.dev.wakeEnabled target src then .next s
      else if level then .next { s with dev := if src = .wakeN then s.dev.bootUpd (fun b => { b with wakeN := true }) else s.dev }
      else if inLast8 then .next s
      else
        let d := (s.dev.bump Reg.PWR_ABORTS.count 1).wakeCause (2 ^ src.bit)
        .next { s with dev := (d.put Reg.PWR_STATUS.state 0).bootUpd (fun b => { b with phase := .run, resume := none }) }
    | _ => .next s

/-- A comparator in level mode (R529). -/
def Dev.cmpLevel (k : Nat) (d : Dev) : Bool := d.get (Reg.CLK_CMPCTL.level k) == 1

/-- The Daymark has come to a comparator's value (R529): an enabled comparator acts, in edge mode once. -/
def comparatorActs (k : Nat) (inLast8 : Bool) (env : RomEnv) (s : State) : Host.Outcome State Fault Refusal :=
  let d := s.dev
  if 4 ≤ k ∨ d.get (Reg.CLK_CMPCTL.enable k) = 0 ∨ d.daymark < d.get (Reg.CLK_CMP.value k) ∨ d.boot.phase = .asleep 4 then .next s
  else if d.cmpLevel k then wakeBy (.comparator k) true inLast8 env s
  else if d.boot.fired.contains k then .next s
  else wakeBy (.comparator k) false inLast8 env { s with dev := d.bootUpd (fun b => { b with fired := k :: b.fired }) }

/-- WAKE_EVENT (R533, R534). WAKE_N is a level; a message over MCTP is an edge; a comparator acts as COMPARATOR_MATCH says. [DEDUCED: log entry 94] -/
def execWakeEvent (src : WakeSource) (inLast8 : Bool) (env : RomEnv) (t : Nat) (s : State) : Host.Outcome State Fault Refusal :=
  let s : State := { s with dev := s.dev.advance t }
  match src with
  | .wakeN => wakeBy .wakeN true inLast8 env s
  | .comparator k => comparatorActs k inLast8 env s
  | .mctp => wakeBy .mctp false inLast8 env s

/-- COMPARATOR_MATCH (R529, R533, R534). [DEDUCED: log entry 94] -/
def execComparatorMatch (k : Nat) (inLast8 : Bool) (env : RomEnv) (t : Nat) (s : State) : Host.Outcome State Fault Refusal :=
  comparatorActs k inLast8 env { s with dev := s.dev.advance t }

/-! ### VCORE (R530, R536) -/

/-- Does the DEEP exit find its resume state, and the firmware of the start (R536)? [DEDUCED: log entry 94] -/
def Dev.resumes (d : Dev) : Bool :=
  d.boot.resume.isSome && (match d.boot.nor, d.boot.running with
    | some l, some r => d.checkFw l == ST.OK && l.fw.digest == r.fw.digest
    | _, _ => false)

/-- The DEEP exit ends (R536): the PLL locks, the ports train again, and fetching resumes. [DEDUCED: log entry 94] -/
def Dev.resumed (d : Dev) : Dev :=
  let d := ((d.put Reg.CLK_STATUS.pll_lock 1).put Reg.CLK_STATUS.on_bosc 0).put Reg.PWR_STATUS.state 0
  (d.bootUpd (fun b => { b with phase := .run, resume := none, waitingPg := none })).trainPorts

/-- VCORE_PG_RISE (R519 step 5, R530, R536): it ends the wait of a start or of an exit from DEEP; else VCORE is good again. [DESIGN CHOICE: log entry 106] -/
def execVcorePgRise (env : MediaEnv) (t : Nat) (s : State) : Host.Outcome State Fault Refusal :=
  if !s.dev.boot.vcoreEn then .next s
  else
    let d := (s.dev.advance t).put Reg.PWR_AVS.pg 1
    match d.boot.waitingPg, d.boot.phase with
    | some _, .exiting _ =>
      if !env.pllLock then .next { s with dev := d.startFails 5 ST.PWR_CLOCK }
      else if d.resumes then .next { s with dev := d.resumed }
      else startOver 6 d.boot.rom d.boot.nor { s with dev := d }
    | some _, _ => .next { s with dev := d.clocksUp env }
    | none, _ => .next { s with dev := d }

/-- VCORE_PG_FALL (R530): in RUN every quad is stretched to s = 12, and a root fault is reported. [DEDUCED: log entry 94] -/
def execVcorePgFall (s : State) : Host.Outcome State Fault Refusal :=
  onDev (fun d =>
    let d := d.put Reg.PWR_AVS.pg 0
    if d.serving && d.boot.phase == .run then
      (d.bootUpd (fun b => { b with stretch := (List.range 8).map (fun q => (q, 12)) })).reportUnit 0xC 0 2
    else d) s

/-! ### Idle quads, stretch, Daymark (R526, R528, R531) -/

/-- A quad runs no step and no refine command. -/
def Dev.quadFree (q : Nat) (d : Dev) : Bool :=
  (List.range 4).all (fun k => !d.inStep (4 * q + k) && d.runningOn (4 * q + k) == 0)

/-- QUAD_IDLE_TIMER (R531): after idle_us a quad's clocks are gated; the chip is IDLE when all eight are. -/
def execQuadIdleTimer (quad t : Nat) (s : State) : Host.Outcome State Fault Refusal :=
  onServing (fun d =>
    let d := d.advance t
    let idle := d.get Reg.PWR_STATUS.quads_idle
    if decide (quad < 8) && d.quadFree quad && !idle.testBit quad &&
        decide (Tab.getD quad 0 d.boot.lastBusy + us (d.get Reg.PWR_CFG.idle_us) ≤ d.now) then
      let d := d.put Reg.PWR_STATUS.quads_idle (idle + 2 ^ quad)
      if d.get Reg.PWR_STATUS.quads_idle = 0xFF ∧ d.boot.phase = .run then d.put Reg.PWR_STATUS.state 1 else d
    else d) s

/-- A limit of R31 would be crossed: 1,650 W at any instant, 1,300 W for more than 5 ms, 1,300 W over a second. [DESIGN CHOICE: log entry 95] -/
def limitCrossed (powerMw avgMw overMs : Nat) : Bool :=
  decide (1650000 < powerMw) || (decide (1300000 < powerMw) && decide (5 < overMs)) || decide (1300000 < avgMw)

/-- The stretch of one quad for the next µs (R526, R530): 12 without VCORE_PG; else more than none while a limit is crossed, and
no more than now otherwise. How much is not stated: a free value. [DESIGN CHOICE: log entry 95] -/
def nextStretch (pg crossed : Bool) (cur v : Nat) : Nat := if !pg then 12 else if crossed then 1 + v % 12 else v % (cur + 1)

/-- POWER_STRETCH_ADJUST (R31, R526). [DESIGN CHOICE: log entry 95] -/
def execPowerStretchAdjust (powerMw avgMw overMs t : Nat) (s : State) : Host.Outcome State Fault Refusal :=
  onServing (fun d =>
    let d := d.advance t
    let crossed := limitCrossed powerMw avgMw overMs
    let d := (List.range 8).foldl (fun d q =>
      let v := nextStretch (d.get Reg.PWR_AVS.pg == 1) crossed (Tab.getD q 0 d.boot.stretch) d.fresh
      d.drawn.bootUpd (fun b => { b with stretch := Tab.put q v b.stretch })) d
    if d.boot.stretch.any (fun e => e.2 != 0) then d.bump Reg.PWR_STRETCH.count 1 else d) s

/-- The Daymark takes a value; ignored while NET_PTP.enable is set (R509, R528). [DEDUCED: log entry 96] -/
def Dev.setDaymark (value : Nat) (d : Dev) : Dev := if d.get Reg.NET_PTP.enable = 1 then d else { d with daymark := wrap 64 value }

/-- CLK_DAYMARK_SET (R509, R528): the owner sets the Daymark. [DEDUCED: log entry 96] -/
def execClkDaymarkSet (m : Master) (value : Nat) (s : State) : Host.Outcome State Fault Refusal :=
  onServing (fun d => d.ownerWrite m.code (fun d => d.setDaymark value)) s

end Sys2Proof.Machine
end

