-- ==== Sys2Proof/Machine/Observe.lean ====
section
/-!
DEFINITION. Machine/Observe.lean: freeze and the TAP, the Lantern port, counter overflow, debug memory read, Foghorn entries, and the
failover of Keepers and sequencers (R475, R478, R539, R544, R551 to R567).
-/
namespace Sys2Proof.Machine

/-! ### Counters (R539, R544) -/

/-- COUNTER_OVERFLOW (R539, R544): a counter that counts passes 2^48 − 1. [DEDUCED: log entry 97] -/
def execCounterOverflow (c : CounterRef) (stepNo cmdIndex : Nat) (s : State) : Host.Outcome State Fault Refusal :=
  onServing (fun d =>
    if d.get Reg.CNT_CFG.enable == 1 && d.get (cntRegs c).enable == 1 && d.get (cntRegs c).chain == 0 then
      (d.put (cntRegs c).count (2 ^ 48 - 1)).cntAdd stepNo cmdIndex 64 c
    else d) s

/-! ### The Lantern port (R551 to R555) -/

/-- The records that a frame takes from a queue: a loss record first, where records were lost (R554). [DEDUCED: log entry 98] -/
def TraceQueue.frame (kind daymark : Nat) (q : TraceQueue) : List TraceRec :=
  (if q.lost = 0 then [] else [⟨0x30, 16, [kind, q.lost, q.firstLost, daymark]⟩]) ++ q.recs

/-- A queue whose records have left. -/
def TraceQueue.empty : TraceQueue := ⟨[], 0, 0⟩

/-- Does a queue have something to send? -/
def TraceQueue.waits (q : TraceQueue) : Bool := !q.recs.isEmpty || q.lost != 0

/-- The next frame (R551 to R555): engine records in even slots only, general records in odd slots and in even slots that engine
trace leaves empty; below debug level 1 an idle frame. [DEDUCED: log entry 98] -/
def Dev.lanternFrame (d : Dev) : Dev :=
  let l := d.lantern
  let kind := l.frames % 2
  let now := wrap 32 d.daymark
  let eng := kind == 0 && l.engine.waits && decide (1 ≤ d.debugLevel)
  let gen := !eng && l.general.waits && decide (1 ≤ d.debugLevel)
  let recs := if eng then l.engine.frame kind now else if gen then l.general.frame kind now else []
  let l : Lantern := { frames := wrap 32 (l.frames + 1), engine := if eng then TraceQueue.empty else l.engine,
                       general := if gen then TraceQueue.empty else l.general }
  ({ d with lantern := l }).emit (.frame kind (b2n (!eng && !gen)) d.lantern.frames recs d.daymark)

/-- LANTERN_FRAME (R551). [DEDUCED: log entry 98] -/
def execLanternFrame (s : State) : Host.Outcome State Fault Refusal := onServing Dev.lanternFrame s

/-- LANTERN_SYNC (R553): every 1 µs in a general slot, while the debug level is 1 or above. [DEDUCED: log entry 98] -/
def execLanternSync (t : Nat) (s : State) : Host.Outcome State Fault Refusal :=
  onServing (fun d =>
    let d := d.advance t
    if 1 ≤ d.debugLevel then
      let r := TraceQueue.add ⟨0x31, 16, [d.daymark]⟩ (wrap 32 d.daymark) d.lantern.general
      let d : Dev := { d with lantern := { d.lantern with general := r.1 } }
      if r.2 then d else d.bump Reg.DBG_TRACE_LOST.count 1
    else d) s

/-! ### Memory read (R559) -/

/-- Is a fall-back address, with the 256 bytes from it, in the Sector's ranges (R60, R559)? -/
def Dev.fbOk (sector a : Nat) (d : Dev) : Bool :=
  decide (1 ≤ a / 2 ^ 62) && decide (a / 2 ^ 62 ≤ 3) && decide (a / 2 ^ 48 % 2 ^ 14 = 0) &&
    d.inRange (a / 2 ^ 62 - 1) sector (a % 2 ^ 48 / 4096) (ceilDiv (a % 4096 + 256) 4096)

/-- DBG_MEM_CTRL.go (R559): 256 plaintext bytes, at debug level 2. -/
def Dev.memRead (mem : List Host.Cell) (d : Dev) : Dev :=
  let a := d.get Reg.DBG_MEM_ADDR.address
  let n := d.get Reg.DBG_MEM_CTRL.sector
  if d.debugLevel < 2 then d.put Reg.DBG_MEM_CTRL.status ST.SEC_LEVEL
  else if !d.fbOk n a then d.put Reg.DBG_MEM_CTRL.status ST.POOL_RANGE
  else
    let byte (k : Nat) : Byte := d.tierByte (a / 2 ^ 62 - 1) n (a % 2 ^ 48 + k) mem
    let d := (List.range 64).foldl (fun d w => d.put (Reg.DBG_MEM_DATA.bytes w) (leNat ((List.range 4).map (fun i => byte (4 * w + i))))) d
    d.put Reg.DBG_MEM_CTRL.status ST.OK

/-- DEBUG_MEM_READ (R487, R559). -/
def execDebugMemRead (m : Master) (s : State) : Host.Outcome State Fault Refusal :=
  onServing (fun d => d.ownerWrite m.code (fun d => d.memRead s.mem)) s

/-! ### The Foghorn's entries (R562, R563) -/

/-- Writing 1 to FOG_INFOe.valid (R562): the entry is freed; a report of its ID in the same cycle keeps it. [DEDUCED: log entry 99] -/
def Dev.fogFree (e : Nat) (same : Option FogReport) (d : Dev) : Dev :=
  let keep := match Tab.look e d.fog, same with | some x, some r => x.id == r.id | _, _ => false
  let d : Dev := if keep then d else { d with fog := Tab.del e d.fog }
  match same with
  | some r => d.report r
  | none => d

/-- FOG_ENTRY_FREE (R487, R562). [DEDUCED: log entry 99] -/
def execFogEntryFree (m : Master) (e : Nat) (same : Option FogReport) (s : State) : Host.Outcome State Fault Refusal :=
  onServing (fun d => d.ownerWrite m.code (fun d => d.fogFree e same)) s

/-- FOG_GAP_END (R563, R576): one interrupt for the events of the gap. [DEDUCED: log entries 12, 99] -/
def execFogGapEnd (t : Nat) (s : State) : Host.Outcome State Fault Refusal :=
  onServing (fun d =>
    let d := d.advance t
    match d.gap.until_ with
    | some g =>
      if g ≤ d.now then
        (if d.gap.root || d.gap.error then d.fogFire d.gap.root d.gap.error else { d with gap := ⟨none, false, false⟩ })
      else d
    | none => d) s

/-! ### Repair (R564 to R567) -/

/-- A Keeper's role. [DEDUCED: log entry 100] -/
def Dev.keeperRole (k : Nat) (d : Dev) : Option KeeperRole := (d.keepers[k]?).map (·.role)

/-- The device with a Keeper's role changed. [DEDUCED: log entry 100] -/
def Dev.setRole (k : Nat) (r : KeeperRole) (d : Dev) : Dev :=
  { d with keepers := ((List.range d.keepers.length).zip d.keepers).map (fun p => if p.1 = k then { p.2 with role := r } else p.2) }

/-- A Keeper fails (R20, R567): it is held in reset, and the lowest spare takes its work; without one the others absorb it. [DEDUCED: log entry 100] -/
def Dev.keeperFails (k : Nat) (d : Dev) : Dev :=
  match d.keeperRole k with
  | some .active =>
    let d := d.setRole k .failed
    let d : Dev := match d.keepers.findIdx? (fun (x : Keeper) => x.role == KeeperRole.spare) with
      | some sp => (d.setRole sp .active).bump Reg.FOG_REP_KEEPER.count 1
      | none => d.put Reg.GLB_CAP.active_keepers (d.keepers.filter (fun (x : Keeper) => x.role == KeeperRole.active)).length
    d.reportUnit 0x9 k 2
  | some .spare => (d.setRole k .failed).reportUnit 0x9 k 2
  | _ => d

/-- KEEPER_FAILOVER (R567). [DEDUCED: log entry 100] -/
def execKeeperFailover (k : Nat) (s : State) : Host.Outcome State Fault Refusal := onServing (fun d => d.keeperFails k) s

/-- SEQUENCER_CHECK_FAIL (R564, R565): the core is retired. [DEDUCED: log entry 100] -/
def execSequencerCheckFail (core : Nat) (s : State) : Host.Outcome State Fault Refusal :=
  onServing (fun d => if core < 32 then d.retireCore core else d) s

end Sys2Proof.Machine
end

