-- ==== Sys2Proof/Machine/VectorIndex.lean ====
section
/-!
DEFINITION. Machine/VectorIndex.lean: vector search: indexes, queries, distance tables, the walk, inserts and deletes, repair (R308
to R330).
-/
namespace Sys2Proof.Machine

/-! ### The command's Sector and payload -/

/-- The queue number of an entry. -/
def entQueueNo (e : Ent) : Option Nat := match e.src with | .queue q => some q | _ => none

/-- The index that a command may name: its Sector's own, or any from the physical function (R308, R316). [DEDUCED: log entry 51] -/
def Dev.indexFor (e : Ent) (n : Nat) (d : Dev) : Option VecIndex :=
  match d.entSector e with
  | some k => d.index n k
  | none => Tab.look n d.idx.idx

/-- What meets a command for an index: ST_OK when it is open; an index not yet open does not exist, one being dropped turns it
away (R317, R318). -/
def idxStatus (x : Option VecIndex) : Nat :=
  match x with
  | none => ST.IDX_UNKNOWN
  | some x => if x.st = 2 then ST.OK else if x.st = 3 then ST.IDX_DROPPED else ST.IDX_UNKNOWN

/-- Write a result into the queue's payload window (R316). -/
def Dev.writePayload (e : Ent) (off : Nat) (bytes : List Byte) (d : Dev) : Dev :=
  match entQueueNo e with
  | some q => d.emit (.payload q off bytes)
  | none => d

/-! ### Numbers (R311 to R315) -/

/-- The BF16 codes of a vector's bytes. [DESIGN CHOICE: log entry 53] -/
def vecCodes (dim : Nat) (v : List Byte) : List Nat := (List.range dim).map (fun i => leNat ((v.drop (2 * i)).take 2))

/-- Is every element of a vector zero? -/
def vecZero (codes : List Nat) : Bool := codes.all (fun c => c % 2 ^ 15 == 0)

/-- A BF16 code within one unit in the last place of a value: which one is `pick`'s, a free value's. [DESIGN CHOICE: log entry 53] -/
def nearBf16 (pick : Nat) (v : FpVal) : Nat :=
  let c := (toFloat bf16 false none v).1
  let m := c % 2 ^ 15
  c / 2 ^ 15 * 2 ^ 15 + (if m = 0 ∨ infCode bf16 ≤ m then m else min (infCode bf16) (m + pick % 3 - 1))

/-- ‖v‖ of a vector of finite elements; none where one is infinite or NaN. -/
def normOf (codes : List Nat) : Option FpVal :=
  match sumExact (codes.map (fun c => FpVal.mul (decodeFloat bf16 c) (decodeFloat bf16 c))) with
  | .fin _ m e => some (sqrtTrue m e)
  | _ => none

/-- inv_norm: BF16 1 / ‖v‖, 0 for a zero vector (R310); the spec gives the root and quotient no last bit, and no value for elements
that are infinite or NaN. [DESIGN CHOICE: log entry 53] -/
def invNormOf (codes : List Nat) : Nat :=
  if vecZero codes then 0
  else
    match normOf codes with
    | some n => nearBf16 (Config.unstated 24 codes) (quotTrue (.fin false 1 0) n)
    | none => wrap 16 (Config.unstated 24 codes)

/-- A row of a distance table: the vector, normalised for a cosine index (R312, R313); its last bits are open. [DESIGN CHOICE: log entry 53] -/
def tableRow (metric : Nat) (codes : List Nat) : List FpVal :=
  if metric = 2 then
    match normOf codes with
    | some n => (List.range codes.length).map (fun i => decodeFloat bf16 (nearBf16 (Config.unstated 20 (i :: codes)) (quotTrue (decodeFloat bf16 (codes.getD i 0)) n)))
    | none => (List.range codes.length).map (fun i => decodeFloat bf16 (wrap 16 (Config.unstated 20 (i :: codes))))
  else codes.map (decodeFloat bf16)

/-- Dimension `r` of centroid `i` of subquantiser `j` (R309). -/
def VecIndex.centroid (x : VecIndex) (mem : List Host.Cell) (j i r : Nat) : FpVal :=
  bf16At mem (x.base + 0x4000 + ((j * (x.dim / x.c) + r) * 256 + i) * 2)

/-- Entry T[j][i] of a distance table (R312, R313): products accumulated under R133. -/
def VecIndex.tableEntry (x : VecIndex) (euclid : Bool) (row : List FpVal) (mem : List Host.Cell) (j i : Nat) : FpVal :=
  let sub := x.dim / x.c
  let dot := dotFloat 8 ((List.range sub).map (fun r => FpVal.mul (row.getD (j * sub + r) FpVal.zero) (x.centroid mem j i r)))
  if euclid then
    let cn := fieldFp (leNat (Mem.reads (x.base + x.cnormOff + (j * 256 + i) * 4) 4 mem))
    roundFp32 (FpVal.add cn (FpVal.neg (FpVal.mul (.fin false 1 1) dot)))
  else FpVal.neg dot

/-- A row's table, subquantiser by subquantiser (R313). -/
def VecIndex.table (x : VecIndex) (euclid : Bool) (row : List FpVal) (mem : List Host.Cell) : List (List FpVal) :=
  (List.range x.c).map (fun j => (List.range 256).map (fun i => x.tableEntry euclid row mem j i))

/-- The least of a list by FpVal.lt. -/
def fpMin (vs : List FpVal) : FpVal := match vs with | [] => FpVal.zero | v :: vs => vs.foldl (fun a x => if FpVal.lt x a then x else a) v
/-- The greatest of a list. -/
def fpMax (vs : List FpVal) : FpVal := match vs with | [] => FpVal.zero | v :: vs => vs.foldl (fun a x => if FpVal.lt a x then x else a) v

/-- The code of a vector: for each subquantiser the lowest centroid of least squared distance (R311). -/
def encodeVec (tab : List (List FpVal)) : List Nat := tab.map (fun row => row.findIdx (fun v => !(row.any (fun u => FpVal.lt u v))))

/-- A finite value as m × 2^e. -/
def fpPair : FpVal → Int × Int
  | .fin s m e => ((if s then -1 else 1) * (m : Int), e)
  | _ => (0, 0)

/-- m × 2^e as a value. -/
def pairFp (p : Int × Int) : FpVal := .fin (decide (p.1 < 0)) p.1.natAbs p.2

/-- a / b to the nearest integer, ties to even. -/
def divRne (a b : Nat) : Nat :=
  let q := a / b
  let r := a % b
  if b < 2 * r ∨ (b = 2 * r ∧ q % 2 = 1) then q + 1 else q

/-- The quotient of two values of one sign as a ratio of naturals. -/
def fpRatio (a b : FpVal) : Nat × Nat :=
  match a, b with
  | .fin _ m e, .fin _ n f => (m * 2 ^ (e - min e f).toNat, n * 2 ^ (f - min e f).toNat)
  | _, _ => (0, 1)

/-- A packed table: entries, the greatest span hi_j − lo_j (255 Δ), and Σ_j lo_j (R315). None where an entry is no number. [DESIGN CHOICE: log entry 53] -/
def packTable (tab : List (List FpVal)) : Option (List Nat × FpVal × FpVal) :=
  if tab.all (fun row => row.all FpVal.isFin) then
    let span := fpMax (FpVal.zero :: tab.map (fun row => FpVal.add (fpMax row) (FpVal.neg (fpMin row))))
    let zero : Bool := match span with | .fin _ m _ => m == 0 | _ => true
    let entries := tab.flatMap (fun row =>
      row.map (fun t =>
        if zero then 0
        else
          let q := fpRatio (FpVal.add t (FpVal.neg (fpMin row))) span
          min 255 (divRne (255 * q.1) q.2)))
    some (entries, span, sumExact (tab.map fpMin))
  else none

/-- base + Δ × S with 255 Δ = span, rounded once to FP32: the division keeps a sticky bit (R315). [DESIGN CHOICE: log entry 53] -/
def packedKey (base span : FpVal) (s : Nat) : Nat :=
  match FpVal.add (FpVal.mul base (.fin false 255 0)) (FpVal.mul span (.fin false s 0)) with
  | .fin neg m e =>
    let q := m * 2 ^ 40 / 255
    toFp32 (.fin neg (2 * q + (if m * 2 ^ 40 % 255 = 0 then 0 else 1)) (e - 41))
  | v => toFp32 v

/-- The packed key of a code under a query's table (R312, R315). Where the table is no finite numbers the spec states no packed
form: the key is free. [DESIGN CHOICE: log entry 53] -/
def QueryCtx.key (q : QueryCtx) (code : List Nat) : Nat :=
  if q.packed.isEmpty then wrap 32 (Config.unstated 21 (code ++ q.vector.map BitVec.toNat))
  else packedKey (pairFp q.base) (pairFp q.span) (((List.range code.length).zip code).map (fun p => q.packed.getD (256 * p.1 + p.2) 0)).sum

/-- Is a key NaN? -/
def keyNan (k : Nat) : Bool := fieldFp k == .nan

/-- Order of keys: by value, NaN last, equal keys by node ID (R312). -/
def keyLt (a b : Nat × Nat) : Bool :=
  if keyNan a.1 then keyNan b.1 && decide (a.2 < b.2)
  else if keyNan b.1 then true
  else if FpVal.lt (fieldFp a.1) (fieldFp b.1) then true
  else if FpVal.lt (fieldFp b.1) (fieldFp a.1) then false
  else decide (a.2 < b.2)

/-- The value reported for a key (R312). -/
def keyValue (metric k : Nat) : Nat := if metric = 0 then k else k ^^^ 0x80000000

/-! ### Opening and dropping (R317, R318) -/

/-- Bytes of a source given as pieces by offset. [DEDUCED: log entry 51] -/
def contentByte (content : List (Nat × List Byte)) (o : Nat) : Byte :=
  match content.find? (fun p => decide (p.1 ≤ o) && decide (o < p.1 + p.2.length)) with
  | some p => p.2.getD (o - p.1) 0
  | none => 0

/-- Copy a source into the range. [DEDUCED: log entry 51] -/
def writeContent (base n : Nat) (content : List (Nat × List Byte)) (mem : List Host.Cell) : List Host.Cell :=
  content.foldl (fun m p => Mem.writes (base + p.1) (p.2.take (n - p.1)) m) mem

/-- Room for a range in the Sector's tier 2, at a 64 KiB boundary (R308). [DESIGN CHOICE: log entry 52] -/
def Dev.rangePlace (sector units : Nat) (d : Dev) : Option Nat :=
  if units ≤ d.tierFree 2 sector then ((d.starts 2 sector false []).map (fun u => (u + 15) / 16 * 16)).find? (fun u => d.spanFree 2 sector u units) else none

/-- The extent that INDEX_CREATE names: of this chip, in tier 2, exported to the Sector (R316, R352). [DEDUCED: log entry 51] -/
def Dev.sectorExtent (handle sector : Nat) (d : Dev) : Option (Nat × Extent) :=
  match d.extentOf handle with
  | some (k, x) =>
    if x.tier = 2 ∧ x.window.isNone ∧ x.grants.any (fun g => !g.draining && decide (g.host < 256) && d.get (Reg.POOL_HOST_ID.kind g.host) == 3 &&
      d.get (Reg.POOL_HOST_ID.id g.host) == sector) then some (k, x) else none
  | none => none

/-- Open an index from an extent: every grant but the Sector's own is revoked first (R317, R358). [DEDUCED: log entry 51] -/
def Dev.openExtent (e : Ent) (n sector k : Nat) (x : VecIndex) (d : Dev) : Dev :=
  let own (g : Grant) : Bool := decide (g.host < 256) && d.get (Reg.POOL_HOST_ID.kind g.host) == 3 && d.get (Reg.POOL_HOST_ID.id g.host) == sector
  let d := d.extUpd k (Extent.drain (fun g => !own g) (d.now + us (d.get Reg.POOL_CFG.drain_us)) none)
  let d : Dev := { d with idx := { d.idx with idx := Tab.put n { x with st := 1, waiter := some e } d.idx.idx } }
  match Tab.look k d.pool.extents with
  | some y => if y.grants.all own then (d.extUpd k (fun y => { y with live := false, grants := [] })).finishOpen k else d
  | none => d

/-- INDEX_CREATE (R317): the header's checks, the number, the space; then the range is copied or taken in place. [DEDUCED: log entry 51] -/
def Dev.indexCreate (e : Ent) (n kind source length : Nat) (content : List (Nat × List Byte)) (mem : List Host.Cell) (d : Dev) : List Host.Cell × Dev :=
  match d.entSector e with
  | none => (mem, d.complete e ST.IDX_BADPARAM 0)
  | some sector =>
    let ext := if kind = 2 then d.sectorExtent source sector else none
    if n ≥ 64 ∨ (kind ≠ 0 ∧ kind ≠ 2) ∨ (kind = 2 ∧ ext.isNone) then (mem, d.complete e ST.IDX_BADPARAM 0)
    else
      let b (o k : Nat) : Nat := match ext with
        | some (j, _) => leNat (Mem.reads (poolAddr j o) k mem)
        | none => leNat ((List.range k).map (fun i => contentByte content (o + i)))
      let x := idxHeader sector 0 b
      if !headerOk b x (match ext with | some (_, y) => min length y.bytes | none => length) then (mem, d.complete e ST.IDX_FORMAT 0)
      else if Tab.has n d.idx.idx then (mem, d.complete e ST.IDX_EXISTS 0)
      else
        let units := ceilDiv x.rangeBytes 65536 * 16
        match ext with
        | some (j, _) => (mem, d.openExtent e n sector j { x with base := poolAddr j 0, units := units })
        | none =>
          match d.rangePlace sector units with
          | none => (mem, d.complete e ST.IDX_NOSPACE 0)
          | some u =>
            let base := tierAddr 2 sector (4096 * u)
            (writeContent base x.rangeBytes content mem,
             ({ d with idx := { d.idx with idx := Tab.put n { x with base := base, units := units } d.idx.idx } } : Dev).complete e ST.OK 0)

/-- INDEX_CREATE. -/
def execIndexCreate (hdr : EntryHdr) (index sourceKind source length : Nat) (content : List (Nat × List Byte)) (s : State) : Host.Outcome State Fault Refusal :=
  onServingMem (fun mem d =>
    match d.fetch 0 64 hdr with
    | some (e, d) => d.indexCreate e index sourceKind source length content mem
    | none => (mem, d.unserved 0 hdr)) s

/-- The entry of a waiting write. -/
def IdxWrite.ent : IdxWrite → Ent
  | .insert e _ _ _ _ _ _ => e
  | .delete e _ => e

/-- Does a waiting write's search run? -/
def IdxWrite.searching : IdxWrite → Bool
  | .insert _ _ _ _ p _ _ => p == 1
  | .delete _ _ => false

/-- Queries of an index that are under way, an insert's search among them. -/
def Dev.idxQueries (n : Nat) (d : Dev) : List (Nat × QueryCtx) := d.idx.queries.filter (fun e => e.2.q.index == n)

/-- The end of a drop: no command of the index runs any more, so its range and tier-1 state are freed (R318). -/
def Dev.finishDrop (n : Nat) (mem : List Host.Cell) (d : Dev) : List Host.Cell × Dev :=
  match Tab.look n d.idx.idx with
  | none => (mem, d)
  | some x =>
    if x.st = 3 ∧ (d.idxQueries n).isEmpty then
      (Mem.zero x.base (4096 * x.units) mem, ({ d with idx := { d.idx with idx := Tab.del n d.idx.idx } } : Dev).completeOpt x.waiter ST.OK 0)
    else (mem, d)

/-- A query leaves: its context and table units are free. -/
def Dev.queryDel (q : Nat) (d : Dev) : Dev := { d with idx := { d.idx with queries := Tab.del q d.idx.queries } }

/-- INDEX_DROP (R318): commands that wait complete; queries that run end with their round. -/
def Dev.indexDrop (e : Ent) (n : Nat) (mem : List Host.Cell) (d : Dev) : List Host.Cell × Dev :=
  match d.indexFor e n with
  | none => (mem, d.complete e ST.IDX_UNKNOWN 0)
  | some x =>
    if idxStatus (some x) ≠ ST.OK then (mem, d.complete e (idxStatus (some x)) 0)
    else
      let waiting := (d.idxQueries n).filter (fun q => q.2.phase == 0)
      let d := d.idxUpd n (fun x => { x with st := 3, writes := [], waiter := some e })
      let d := (x.writes.filter (fun w => !w.searching)).foldl (fun d w => d.complete w.ent ST.IDX_DROPPED 0) d
      let d := waiting.foldl (fun d q => (d.queryDel q.1).complete q.2.ent ST.IDX_DROPPED 0) d
      let d : Dev := { d with idx := { d.idx with gather := Tab.del n d.idx.gather, tables := Tab.mapv (fun _ js =>
        js.map (fun j => { j with queries := j.queries.filter (fun q => !waiting.any (fun w => w.1 == q)) })) d.idx.tables } }
      d.finishDrop n mem

/-- INDEX_DROP. -/
def execIndexDrop (hdr : EntryHdr) (index : Nat) (s : State) : Host.Outcome State Fault Refusal :=
  onServingMem (fun mem d =>
    match d.fetch 0 64 hdr with
    | some (e, d) => d.indexDrop e index mem
    | none => (mem, d.unserved 0 hdr)) s

/-! ### Distance tables (R314, R315, R319) -/

/-- The table core of a Sector (R333). -/
def Dev.tableCore (n : Nat) (d : Dev) : Nat := d.com (Reg.IDX_TABCORE.core n)

/-- The Sector's table core is one of its cores in service (R314). -/
def Dev.tableOk (n : Nat) (d : Dev) : Bool := (d.secCores n).contains (d.tableCore n)

/-- The Sector's next DIST_TABLE is the commit point of its table core (R385). [DEDUCED: log entry 55] -/
def Dev.takeTabCore (n : Nat) (d : Dev) : Dev :=
  let key := (Reg.IDX_TABCORE.core n).key
  let d := (d.pends.filter (fun p => p.block == Blk.idx)).foldl (fun d p => d.adopt (p.vals.filter (fun v => v.1 == key))) d
  { d with pends := d.pends.map (fun p => if p.block = Blk.idx then { p with vals := p.vals.filter (fun v => v.1 != key) } else p) }

/-- Table units in use (R315). -/
def Dev.tableUnits (d : Dev) : Nat :=
  (d.idx.queries.map (fun e => match Tab.look e.2.q.index d.idx.idx with | some x => ceilDiv x.c 8 | none => 0)).sum

/-- A context and the table units of an index are free (R319). [DEDUCED: log entry 54] -/
def Dev.queryRoom (x : VecIndex) (d : Dev) : Bool :=
  decide (d.idx.queries.length < d.orZero Reg.IDX_CFG.max_queries 1024) && decide (d.tableUnits + ceilDiv x.c 8 ≤ 2048)

/-- A query that failed before its walk: an insert's goes with its write. -/
def Dev.queryFail (q st : Nat) (d : Dev) : Dev :=
  match Tab.look q d.idx.queries with
  | none => d
  | some c =>
    let d := (d.queryDel q).complete c.ent st 0
    if c.insert then d.idxUpd c.q.index (fun x => { x with writes := x.writes.filter (fun w => w.ent != c.ent) }) else d

/-- The gathered queries of an index go to the table core as one DIST_TABLE (R314, R319). [DEDUCED: log entry 55] -/
def Dev.flushGather (n : Nat) (d : Dev) : Dev :=
  match Tab.look n d.idx.gather, Tab.look n d.idx.idx with
  | some g, some x =>
    let d : Dev := { d with idx := { d.idx with gather := Tab.del n d.idx.gather } }
    let d := d.takeTabCore x.sector
    if d.tableOk x.sector then
      let c := d.tableCore x.sector
      { d with idx := { d.idx with tables := Tab.put c (Tab.getD c [] d.idx.tables ++ [⟨x.sector, g.1, d.now, false⟩]) d.idx.tables } }
    else g.1.foldl (fun d q => d.queryFail q ST.IDX_NOTABLE) d
  | _, _ => d

/-- A query context begins: its start epoch, and its place among the gathered (R319). [DEDUCED: log entry 54] -/
def Dev.beginQuery (e : Ent) (insert : Bool) (x : VecIndex) (q : VecQuery) (vector : List Byte) (d : Dev) : Dev :=
  let k := (Tab.firstFree d.idx.queries 0 (d.idx.queries.length + 1)).getD 0
  let c : QueryCtx := { ent := e, insert := insert, q := q, vector := vector, epoch := x.epoch, packed := [], span := (0, 0), base := (0, 0), code := [],
                        cand := [], visited := [], results := [], reads := 0, errors := 0, round := [], phase := 0, hopLimit := false, visitedFull := false }
  let g : List Nat × Nat := Tab.getD q.index ([], d.now) d.idx.gather
  let d : Dev := { d with idx := { d.idx with queries := Tab.put k c d.idx.queries, gather := Tab.put q.index (g.1 ++ [k], g.2) d.idx.gather } }
  if g.1.length + 1 ≥ 32 then d.flushGather q.index else d

/-- Fields of VEC_QUERY in range, with rerank or without; windows and vector (R316). [DEDUCED: log entry 54] -/
def Dev.queryOk (e : Ent) (x : VecIndex) (q : VecQuery) (vector : List Byte) (d : Dev) : Bool :=
  decide (1 ≤ q.k) && decide (q.k ≤ 1024) && decide (q.k ≤ q.l) && decide (q.l ≤ 2048) && decide (1 ≤ q.beam) && decide (q.beam ≤ 16) &&
  decide (q.k ≤ q.rerankN) && decide (q.rerankN ≤ q.l) && (!q.rerank || x.full) && d.inWindow e q.vectorOffset (2 * x.dim) &&
  d.inWindow e q.resultOffset (32 + 24 * q.k) && !(x.metric == 2 && vecZero (vecCodes x.dim vector))

/-- VEC_QUERY (R316, R319). -/
def execVecQuery (hdr : EntryHdr) (q : VecQuery) (vector : List Byte) (t : Nat) (s : State) : Host.Outcome State Fault Refusal :=
  onServing (fun d => (d.advance t).admin hdr (fun e d =>
    match d.indexFor e q.index with
    | none => d.complete e ST.IDX_UNKNOWN 0
    | some x =>
      if idxStatus (some x) ≠ ST.OK then d.complete e (idxStatus (some x)) 0
      else if !d.queryOk e x q vector then d.complete e ST.IDX_BADPARAM 0
      else if !d.tableOk x.sector then d.complete e ST.IDX_NOTABLE 0
      else if !d.queryRoom x then d.complete e ST.IDX_BUSY 0
      else d.beginQuery e false x q vector)) s

/-- Start the searches of an index's waiting inserts, up to insert_par at once and while contexts are free (R325, R326); `fuel`
bounds the loop. [DEDUCED: log entry 54] -/
def Dev.startInserts (n : Nat) : Nat → Dev → Dev
  | 0, d => d
  | fuel + 1, d =>
    match Tab.look n d.idx.idx with
    | none => d
    | some x =>
      if decide ((x.writes.filter IdxWrite.searching).length < d.orZero Reg.IDX_CFG.insert_par 1) && x.st == 2 && d.queryRoom x then
        match x.writes.find? (fun w => match w with | .insert _ _ _ _ p _ _ => p == 0 | .delete _ _ => false) with
        | some (.insert e key v off _ _ _) =>
          let d := d.idxUpd n (fun x => { x with writes := x.writes.map (fun w => if w.ent = e then .insert e key v off 1 [] [] else w) })
          Dev.startInserts n fuel (d.beginQuery e true x ⟨n, false, 0, x.buildL, 1, 0, 0, 0, 0⟩ v)
        | _ => d
      else d

/-- Searches that wait on any index may start. -/
def Dev.startAllInserts (d : Dev) : Dev := d.idx.idx.foldl (fun d e => d.startInserts e.1 (e.2.writes.length)) d

/-- VEC_INSERT (R316, R325, R326). -/
def execVecInsert (hdr : EntryHdr) (index key vectorOffset resultOffset : Nat) (vector : List Byte) (t : Nat) (s : State) : Host.Outcome State Fault Refusal :=
  onServing (fun d => (d.advance t).admin hdr (fun e d =>
    match d.indexFor e index with
    | none => d.complete e ST.IDX_UNKNOWN 0
    | some x =>
      if idxStatus (some x) ≠ ST.OK then d.complete e (idxStatus (some x)) 0
      else if !(d.inWindow e vectorOffset (2 * x.dim) && d.inWindow e resultOffset 16 && !(x.metric == 2 && vecZero (vecCodes x.dim vector))) then
        d.complete e ST.IDX_BADPARAM 0
      else if !d.tableOk x.sector then d.complete e ST.IDX_NOTABLE 0
      else (d.idxUpd index (fun x => { x with writes := x.writes ++ [.insert e key vector resultOffset 0 [] []] })).startInserts index 1)) s

/-- VEC_DELETE (R316, R325). -/
def execVecDelete (hdr : EntryHdr) (index node : Nat) (s : State) : Host.Outcome State Fault Refusal :=
  onServing (fun d => d.admin hdr (fun e d =>
    let x := d.indexFor e index
    if idxStatus x ≠ ST.OK then d.complete e (idxStatus x) 0
    else d.idxUpd index (fun x => { x with writes := x.writes ++ [.delete e node] }))) s

/-- QUERY_BATCH_TIMER (R319): the Sector's gathered queries whose time has run out. -/
def execQueryBatchTimer (sector t : Nat) (s : State) : Host.Outcome State Fault Refusal :=
  onServing (fun d =>
    let d := d.advance t
    let due := d.idx.gather.filter (fun g => decide (g.2.2 + us (d.get Reg.IDX_CFG.batch_us) ≤ d.now) &&
      (match Tab.look g.1 d.idx.idx with | some x => x.sector == sector | none => false))
    due.foldl (fun d g => d.flushGather g.1) d) s

/-- TABLE_WAIT_TIMER (R314): the core's next DIST_TABLE goes ahead of the step list; on a core that has left the Sector its
queries end. [DEDUCED: log entry 55] -/
def execTableWaitTimer (core t : Nat) (s : State) : Host.Outcome State Fault Refusal :=
  onServing (fun d =>
    let d := d.advance t
    match Tab.getD core [] d.idx.tables with
    | [] => d
    | j :: js =>
      if j.since + us (d.get Reg.IDX_CFG.table_wait_us) ≤ d.now then
        if (d.secCores j.sector).contains core then { d with idx := { d.idx with tables := Tab.put core ({ j with urgent := true } :: js) d.idx.tables } }
        else j.queries.foldl (fun d q => d.queryFail q ST.IDX_NOTABLE) { d with idx := { d.idx with tables := Tab.put core js d.idx.tables } }
      else d) s

/-- A query's table is computed and packed, and its first round reads the entry nodes (R312 to R315, R321); an insert's code
comes from the table of metric 0 (R311). -/
def VecIndex.tabled (x : VecIndex) (mem : List Host.Cell) (c : QueryCtx) : QueryCtx :=
  let codes := vecCodes x.dim c.vector
  let row := tableRow x.metric codes
  let tab := x.table (x.metric == 0) row mem
  let code := if c.insert then encodeVec (if x.metric = 0 then tab else x.table true row mem) else []
  let round := x.entries.map (fun n => (0, n))
  match packTable tab with
  | none => { c with code := code, round := round, phase := 1 }
  | some p =>
    let base := if x.metric = 0 then FpVal.add p.2.2 (sumExact (row.map (fun v => FpVal.mul v v))) else p.2.2
    { c with packed := p.1, span := fpPair p.2.1, base := fpPair base, code := code, round := round, phase := 1 }

/-- May the core's next DIST_TABLE issue: a working engine is free, and the wait has run out or no head of the step list can
issue (R314)? [DEDUCED: log entry 55] -/
def Dev.distReady (core : Nat) (j : TableJob) (d : Dev) : Bool :=
  let n := d.coreSector core
  let imgs := (List.range (d.secImg n).hosts.length).filter (fun i => (d.secImg n).hosts.getD i 99 == core)
  let stepReady := d.inStep core && imgs.any (fun i => match d.headOf core i, d.coreEntry core i with | some h, some e => !h.refine && d.canIssue core i h e | _, _ => false)
  d.coreWorks core && decide (d.runningOn core < d.get (Reg.CORE_ENG.active core)) && (j.urgent || !stepReady)

/-- An image core of a core whose list has a DIST_TABLE at its head that may issue (R142, R172). -/
def Dev.tableHead (core : Nat) (d : Dev) : Option Nat :=
  (List.range (d.secImg (d.coreSector core)).hosts.length).find? (fun img =>
    match d.headOf core img, d.coreEntry core img with
    | some i, some e => i.cmd.opcode == 0x20 && !i.refine && d.canIssue core img i e
    | _, _ => false)

/-- The DIST_TABLE of an image core's own list, issued as the list's other commands are. -/
def Dev.listTable (core : Nat) (mem : List Host.Cell) (d : Dev) : List Host.Cell × Dev :=
  match d.tableHead core with
  | some img => runHead 0x20 core img (plainBody EngCtx.distTable) mem d
  | none => (mem, d)

/-- DIST_TABLE (R313 to R315): the core's next table, its command issued by Keeper firmware under layer_id 0xFFFF (R546). [DEDUCED: log entry 55] -/
def execDistTable (core t : Nat) (s : State) : Host.Outcome State Fault Refusal :=
  onServingMem (fun mem d =>
    let d := d.advance t
    match Tab.getD core [] d.idx.tables with
    | [] => d.listTable core mem
    | j :: js =>
      if d.distReady core j then
        let start := d.recCounters core
        let d : Dev := { d with idx := { d.idx with tables := Tab.put core js d.idx.tables } }
        let op := wrap 16 (Config.unstated 23 [0, core])
        let no := wrap 32 (Config.unstated 23 [1, core])
        let eng := d.freeEngine core
        let cmd : EngCmd := { cmdOf (List.replicate 128 0) with opcode := 0x20, layerId := 0xFFFF, operatorId := op }
        let ev (code : Nat) (d : Dev) : Dev := ((d.event (some core) (keeperEvent 2 code j.sector d.keeperNo)).coreTrace j.sector core 2 code 1).engineTrace j.sector core eng code cmd no
        let d := j.queries.foldl (fun d q =>
          match Tab.look q d.idx.queries with
          | some c => (match Tab.look c.q.index d.idx.idx with
              | some x => { d with idx := { d.idx with queries := Tab.put q (x.tabled mem c) d.idx.queries } }
              | none => d)
          | none => d) ((ev 0 d))
        let d := ev 1 d
        (mem, d.cmdRecord { core := core, list := 2, failed := false, layerId := 0xFFFF, operatorId := op,
                            index := no, step := (d.coreRun core).stepNo, status := ST.OK, opcode := 0x20,
                            sector := j.sector, firstRow := 0xFFFF, rows := 0, start := d.daymark, end_ := d.daymark, before := start,
                            after := d.recCounters core })
      else d.listTable core mem) s

/-! ### The walk (R320 to R324) -/

/-- Present and visible at an epoch (R320). -/
def NodeRec.present (r : NodeRec) (s : Nat) : Bool := r.inUse && decide (r.ins ≤ s)
/-- Visible at an epoch: present, and not tombstoned by then. -/
def NodeRec.visible (r : NodeRec) (s : Nat) : Bool := r.present s && decide (s < r.del)

/-- Put a key and node into a list ordered by key, keeping the best `cap`. -/
def insertBest (cap : Nat) (e : Nat × Nat) (l : List (Nat × Nat)) : List (Nat × Nat) :=
  (l.takeWhile (fun x => !keyLt e x) ++ e :: l.dropWhile (fun x => !keyLt e x)).take cap

/-- Enter a candidate: where there is room or it beats the worst (R321). -/
def enterCand (cap : Nat) (c : Cand) (l : List Cand) : List Cand :=
  (l.takeWhile (fun x => !keyLt (c.key, c.node) (x.key, x.node)) ++ c :: l.dropWhile (fun x => !keyLt (c.key, c.node) (x.key, x.node))).take cap

/-- A scored node enters cand, unless its key is NaN (R312, R321); the flag says whether it was. -/
def QueryCtx.enter (key node : Nat) (c : QueryCtx) : QueryCtx × Bool :=
  if keyNan key then (c, true) else ({ c with cand := enterCand c.q.l ⟨key, node, false⟩ c.cand }, false)

/-- One neighbour of an expanded node (R321). -/
def QueryCtx.meet (g : Neigh) (s : QueryCtx × Bool) : QueryCtx × Bool :=
  let c := s.1
  if c.visited.contains g.node then s
  else
    let c := if c.visited.length < 8192 then { c with visited := g.node :: c.visited } else { c with visitedFull := true }
    let r := c.enter (c.key g.code) g.node
    (r.1, s.2 || r.2)

/-- How many results a query keeps: an insert's search keeps every node (R321, R326). -/
def QueryCtx.resultCap (c : QueryCtx) : Nat := if c.insert then 2 ^ 36 else max c.q.k c.q.rerankN

/-- A picked node's record has been read (R321, R322). -/
def QueryCtx.expand (x : VecIndex) (mem : List Host.Cell) (failed : List Nat) (p : Nat × Nat) (s : QueryCtx × Bool) : QueryCtx × Bool :=
  let c := { s.1 with cand := s.1.cand.map (fun e => if e.node = p.2 ∧ e.key = p.1 then { e with expanded := true } else e) }
  let r := x.readRec p.2 mem
  if failed.contains p.2 ∨ !r.present c.epoch then
    ({ c with cand := c.cand.filter (fun e => e.node != p.2), errors := c.errors + (if failed.contains p.2 then 1 else 0) }, s.2)
  else
    let c := if r.visible c.epoch ∧ !c.results.any (fun e => e.2 == p.2) then { c with results := insertBest c.resultCap p c.results } else c
    r.neighs.foldl (fun s g => QueryCtx.meet g s) (c, s.2)

/-- An entry node's record has been read: keyed by its own code (R321). -/
def QueryCtx.entryNode (x : VecIndex) (mem : List Host.Cell) (failed : List Nat) (n : Nat) (s : QueryCtx × Bool) : QueryCtx × Bool :=
  if failed.contains n then ({ s.1 with errors := s.1.errors + 1 }, s.2)
  else
    let r := s.1.enter (s.1.key (x.readRec n mem).code) n
    (r.1, s.2 || r.2)

/-- The next round of the walk, or its stop (R321): true when the walk goes on. -/
def QueryCtx.pick (c : QueryCtx) : QueryCtx × Bool :=
  let picked := ((c.cand.filter (fun e => !e.expanded)).take c.q.beam).map (fun e => (e.key, e.node))
  if picked.isEmpty then (c, false)
  else if c.reads ≥ (if c.q.maxReads = 0 then 65536 else c.q.maxReads) then ({ c with hopLimit := true }, false)
  else ({ c with round := picked, reads := c.reads + picked.length, phase := 2 }, true)

/-- The exact key of a full vector (R312, R323): FP32 sums in groups of at most the 64 elements of an FCLK; how wide a group is summed before it
is rounded is not stated. [DESIGN CHOICE: log entry 53] -/
def VecIndex.exactKey (x : VecIndex) (q : List Byte) (n : Nat) (mem : List Host.Cell) : Nat :=
  let v := (vecCodes x.dim (Mem.reads (x.base + x.vectorsOff + n * 2 * x.dim) (2 * x.dim) mem)).map (decodeFloat bf16)
  let row := tableRow x.metric (vecCodes x.dim q)
  let sum (f : FpVal → FpVal → FpVal) : FpVal := dotFloat (1 + Config.unstated 22 [x.dim] % 64) (List.zipWith f row v)
  if x.metric = 0 then toFp32 (sum (fun a b => let e := FpVal.add a (FpVal.neg b); FpVal.mul e e))
  else if x.metric = 1 then toFp32 (FpVal.neg (sum FpVal.mul))
  else toFp32 (FpVal.neg (FpVal.mul (decodeFloat bf16 (x.readRec n mem).invNorm) (sum FpVal.mul)))

/-- The rerank round (R323): exact keys and their order; a vector that could not be read drops out (a log entry). [DEDUCED: log entry 54] -/
def QueryCtx.rerank (x : VecIndex) (mem : List Host.Cell) (failed : List Nat) (c : QueryCtx) : QueryCtx × Bool :=
  let ns := (c.round.map (·.2)).filter (fun n => !failed.contains n)
  let ks := ns.map (fun n => (x.exactKey c.vector n mem, n))
  ({ c with results := ks.foldl (fun l e => insertBest (c.results.length + 1) e l) [], errors := c.errors + (c.round.filter (fun p => failed.contains p.2)).length },
   ks.any (fun e => keyNan e.1))

/-- The result area (R324). -/
def QueryCtx.resultBytes (x : VecIndex) (mem : List Host.Cell) (reranked : Bool) (c : QueryCtx) : List Byte :=
  let rs := c.results.take c.q.k
  let worst := if x.metric = 0 then 0x7F800000 else 0xFF800000
  leBytes 2 0x5852 ++ leBytes 2 rs.length ++ leBytes 4 (b2n c.hopLimit + 2 * b2n c.visitedFull + 4 * b2n reranked) ++ leBytes 8 c.epoch ++
    leBytes 4 c.reads ++ leBytes 4 c.errors ++ leBytes 8 0 ++
    rs.flatMap (fun e => leBytes 8 e.2 ++ leBytes 8 (x.readRec e.2 mem).key ++ leBytes 4 (keyValue x.metric e.1) ++ leBytes 4 0) ++
    (List.replicate (c.q.k - rs.length) (leBytes 8 0xFFFFFFFFFFFFFFFF ++ leBytes 8 0 ++ leBytes 4 worst ++ leBytes 4 0)).flatten

/-- The end of a query: the result and its completion, or the insert is ready to write (R324, R326). -/
def Dev.queryEnd (k : Nat) (x : VecIndex) (reranked : Bool) (c : QueryCtx) (mem : List Host.Cell) (d : Dev) : Dev :=
  let d := d.queryDel k
  let d := if c.insert then
      d.idxUpd c.q.index (fun x => { x with writes := x.writes.map (fun w => match w with
        | .insert e key v off p code found => if e = c.ent then .insert e key v off 2 c.code (c.results.map (·.2)) else .insert e key v off p code found
        | .delete e n => .delete e n) })
    else
      ((d.bump Reg.IDX_QUERIES.count 1).writePayload c.ent c.q.resultOffset (c.resultBytes x mem reranked)).complete c.ent ST.OK (c.results.take c.q.k).length
  d.startAllInserts

/-- A round's reads that failed their check are counted, flagged and each reported (R322, R334, R335). [DEDUCED: log entry 55] -/
def Dev.readErrors (sector n : Nat) (d : Dev) : Dev :=
  if n = 0 then d else (List.range n).foldl (fun d _ => d.reportHub sector ST.OK 1) ((d.flag Reg.IDX_ERR.read_error).bump Reg.IDX_READ_ERRORS.count n)

/-- QUERY_ROUND_DONE (R321 to R324). -/
def Dev.roundDone (k : Nat) (failed : List Nat) (mem : List Host.Cell) (d : Dev) : List Host.Cell × Dev :=
  match Tab.look k d.idx.queries with
  | none => (mem, d)
  | some c =>
    match Tab.look c.q.index d.idx.idx with
    | none => (mem, d)
    | some x =>
      if c.phase = 0 then (mem, d)
      else
        let bad := (c.round.filter (fun p => failed.contains p.2)).length
        let d := (d.bump Reg.IDX_READS.count c.round.length).readErrors x.sector bad
        if x.st = 3 then ((d.queryDel k).complete c.ent ST.IDX_DROPPED 0).finishDrop c.q.index mem
        else
          let r := if c.phase = 1 then c.round.foldl (fun s p => QueryCtx.entryNode x mem failed p.2 s) (c, false)
            else if c.phase = 2 then c.round.foldl (fun s p => QueryCtx.expand x mem failed p s) (c, false)
            else c.rerank x mem failed
          let d := if r.2 then d.flag Reg.IDX_ERR.nan_dist else d
          let d := if r.1.visitedFull then d.flag Reg.IDX_ERR.visited_full else d
          if c.phase = 3 then (mem, d.queryEnd k x true r.1 mem)
          else
            let n := r.1.pick
            if n.2 then (mem, { d with idx := { d.idx with queries := Tab.put k n.1 d.idx.queries } })
            else if n.1.q.rerank && !n.1.insert then
              (mem, { d with idx := { d.idx with queries := Tab.put k { n.1 with round := n.1.results.take n.1.q.rerankN, phase := 3 } d.idx.queries } })
            else (mem, d.queryEnd k x false n.1 mem)

/-- QUERY_ROUND_DONE. -/
def execQueryRoundDone (query : Nat) (failed : List Nat) (s : State) : Host.Outcome State Fault Refusal :=
  onServingMem (fun mem d => d.roundDone query failed mem) s

/-! ### The writer (R325 to R328) -/

/-- An entry of the build table: the FP32 squared distance of two centroids (R317). [DESIGN CHOICE: log entry 53] -/
def VecIndex.buildEntry (x : VecIndex) (mem : List Host.Cell) (j a b : Nat) : FpVal :=
  roundFp32 (sumExact ((List.range (x.dim / x.c)).map (fun r =>
    let e := FpVal.add (x.centroid mem j a r) (FpVal.neg (x.centroid mem j b r))
    FpVal.mul e e)))

/-- d(a, b) of R326. [DESIGN CHOICE: log entry 53] -/
def VecIndex.codeDist (x : VecIndex) (mem : List Host.Cell) (a b : List Nat) : FpVal :=
  sumExact ((List.range x.c).map (fun j => x.buildEntry mem j (a.getD j 0) (b.getD j 0)))

/-- Sort candidates by distance to a code, ties by node ID; each with its distance. -/
def sortCands : List (FpVal × Neigh) → List (FpVal × Neigh)
  | [] => []
  | p :: ps =>
    let rest := sortCands ps
    let before (a b : FpVal × Neigh) : Bool := FpVal.lt a.1 b.1 || (!FpVal.lt b.1 a.1 && decide (a.2.node < b.2.node))
    rest.takeWhile (fun q => before q p) ++ p :: rest.dropWhile (fun q => before q p)

/-- The choice of neighbours about a code (R326). -/
def VecIndex.prune (x : VecIndex) (mem : List Host.Cell) (code : List Nat) (cs : List Neigh) : List Neigh :=
  (sortCands (cs.map (fun g => (x.codeDist mem code g.code, g)))).foldl (fun ns p =>
    if ns.length < x.degree ∧ ns.all (fun n => FpVal.lt p.1 (FpVal.mul (fieldFp x.alpha) (x.codeDist mem n.code p.2.code))) then ns ++ [p.2] else ns) []

/-- Neighbours, each node once. -/
def uniqNeighs (gs : List Neigh) : List Neigh := gs.foldl (fun l g => if l.any (fun h => h.node == g.node) then l else l ++ [g]) []

/-- v becomes a neighbour of p: added while there is room, else p's list with v is pruned again, tombstoned entries dropped first
(R326). -/
def VecIndex.link (x : VecIndex) (v : Neigh) (p : Nat) (mem : List Host.Cell) : List Host.Cell :=
  let r := x.readRec p mem
  let ns := if r.neighs.length < x.degree then r.neighs ++ [v]
    else x.prune mem r.code (uniqNeighs (r.neighs.filter (fun g => !x.tombs.contains g.node) ++ [v]))
  x.writeRec p { r with neighs := ns } mem

/-- The head of the writer's list leaves, with its completion. -/
def Dev.writeEnd (n : Nat) (e : Ent) (st result : Nat) (d : Dev) : Dev :=
  ((d.idxUpd n (fun x => { x with writes := x.writes.drop 1 })).complete e st result).startAllInserts

/-- The write phase of an insert (R325, R326). The first node of an index becomes its entry node (a log entry). [DEDUCED: log entry 54] -/
def Dev.writeInsert (n : Nat) (x : VecIndex) (e : Ent) (key : Nat) (vector : List Byte) (off : Nat) (code found : List Nat) (unreadable : Bool)
    (mem : List Host.Cell) (d : Dev) : List Host.Cell × Dev :=
  let fromFreed := x.freed.min?
  let node := fromFreed.getD x.hwm
  if fromFreed.isNone ∧ x.hwm ≥ x.capacity then (mem, d.writeEnd n e ST.IDX_FULL 0)
  else if unreadable then (mem, ((d.flag Reg.IDX_ERR.read_error).bump Reg.IDX_READ_ERRORS.count 1).writeEnd n e ST.IDX_READFAIL 0)
  else
    let codes := vecCodes x.dim vector
    let cs := found.map (fun p => let r := x.readRec p mem; (⟨p, r.invNorm, r.code⟩ : Neigh))
    let ns := x.prune mem code (uniqNeighs cs)
    let x' := { x with epoch := x.epoch + 1, hwm := max x.hwm (node + 1), freed := x.freed.erase node, entries := if x.entries.isEmpty then [node] else x.entries,
                       writes := x.writes.drop 1 }
    let v : Neigh := ⟨node, invNormOf codes, code⟩
    let mem := x'.writeRec node ⟨key, x'.epoch, noTomb, true, v.invNorm, code, ns⟩ mem
    let mem := if x.full then Mem.writes (x.base + x.vectorsOff + node * 2 * x.dim) (codes.flatMap (leBytes 2)) mem else mem
    let mem := ns.foldl (fun m g => x'.link v g.node m) mem
    let mem := x'.countBlock (node / x.rpb) mem
    let mem := if fromFreed.isNone ∨ x.entries.isEmpty then x'.writeHeader mem else mem
    let d := (d.idxUpd n (fun _ => x')).bump Reg.IDX_INSERTS.count 1
    (mem, ((d.writePayload e off (leBytes 8 node ++ leBytes 8 x'.epoch)).complete e ST.OK node).startAllInserts)

/-- The write phase of a delete (R327). -/
def Dev.writeDelete (n : Nat) (x : VecIndex) (e : Ent) (node : Nat) (unreadable : Bool) (mem : List Host.Cell) (d : Dev) : List Host.Cell × Dev :=
  let r := x.readRec node mem
  if node ≥ x.hwm then (mem, d.writeEnd n e ST.IDX_NONODE 0)
  else if unreadable then (mem, ((d.flag Reg.IDX_ERR.read_error).bump Reg.IDX_READ_ERRORS.count 1).writeEnd n e ST.IDX_READFAIL 0)
  else if !r.inUse then (mem, d.writeEnd n e ST.IDX_NONODE 0)
  else if r.del ≠ noTomb then (mem, d.writeEnd n e ST.IDX_DELETED 0)
  else
    let d := d.idxUpd n (fun x => { x with epoch := x.epoch + 1, tombs := node :: x.tombs, writes := x.writes.drop 1 })
    (x.writeRec node { r with del := x.epoch + 1 } mem, ((d.bump Reg.IDX_DELETES.count 1).complete e ST.OK (wrap 48 (x.epoch + 1))).startAllInserts)

/-- INSERT_WRITE_PHASE (R325): the first command of the index's writer, once it is ready; the epoch moves with the acknowledged
writes. -/
def execInsertWritePhase (index : Nat) (unreadable : Bool) (s : State) : Host.Outcome State Fault Refusal :=
  onServingMem (fun mem d =>
    match Tab.look index d.idx.idx with
    | none => (mem, d)
    | some x =>
      match x.writes with
      | .insert e key v off 2 code found :: _ => d.writeInsert index x e key v off code found unreadable mem
      | .delete e node :: _ => d.writeDelete index x e node unreadable mem
      | _ => (mem, d)) s

/-! ### Repair (R329, R330) -/

/-- Repair of one record: where its list names a tombstoned node, it is pruned again from its live neighbours and those of its
tombstoned ones (R329). [DEDUCED: log entry 56] -/
def VecIndex.repairRec (x : VecIndex) (p : Nat) (mem : List Host.Cell) : List Host.Cell :=
  let r := x.readRec p mem
  let dead (g : Neigh) : Bool := x.tombs.contains g.node
  if r.inUse && r.neighs.any dead then
    let more := (r.neighs.filter dead).flatMap (fun g => (x.readRec g.node mem).neighs)
    let cs := uniqNeighs ((r.neighs ++ more).filter (fun g => !dead g && g.node != p))
    x.writeRec p { r with neighs := x.prune mem r.code cs } mem
  else mem

/-- A pass begins: the epoch, and the tombstones that it rewires around. -/
def VecIndex.beginPass (x : VecIndex) : VecIndex :=
  if x.sweepBlock = 0 then { x with sweepEpoch := x.epoch, passTombs := x.tombs, skipped := false } else x

/-- Nodes whose slots a finished pass frees: tombstones known at its start and not after its epoch (R330). [DEDUCED: log entry 56] -/
def VecIndex.passFrees (x : VecIndex) (mem : List Host.Cell) : List (Nat × Nat) :=
  (x.passTombs.map (fun n => (n, (x.readRec n mem).del))).filter (fun e => decide (e.2 ≤ x.sweepEpoch) && !x.freeable.any (fun f => f.1 == e.1))

/-- A block of the sweep (R329): its tombstones are marked in the bitmap, its records repaired; a block that cannot be read is
skipped. The last block ends the pass; a pass that skipped a block frees nothing. [DEDUCED: log entry 56] -/
def Dev.sweep (n : Nat) (x0 : VecIndex) (unreadable : Bool) (mem : List Host.Cell) (d : Dev) : List Host.Cell × Dev :=
  let x := x0.beginPass
  let b := x.sweepBlock
  let nodes := ((List.range x.rpb).map (fun s => b * x.rpb + s)).filter (fun p => decide (p < x.hwm))
  let met := if unreadable then [] else nodes.filter (fun p => (x.readRec p mem).inUse && (x.readRec p mem).del != noTomb && !x.tombs.contains p)
  let mem := if unreadable then mem else nodes.foldl (fun m p => x.repairRec p m) mem
  let d := if unreadable then (d.flag Reg.IDX_ERR.read_error).bump Reg.IDX_READ_ERRORS.count 1 else d
  let x := { x with tombs := x.tombs ++ met, skipped := x.skipped || unreadable, sweepBlock := b + 1 }
  if (b + 1) * x.rpb ≥ x.hwm then
    let x := { x with sweepBlock := 0, freeable := x.freeable ++ (if x.skipped then [] else x.passFrees mem) }
    (mem, (d.idxUpd n (fun _ => x)).bump (Reg.IDX_REPAIR.passes n) 1)
  else (mem, d.idxUpd n (fun _ => x))

/-- REPAIR_SWEEP (R329, R330). -/
def execRepairSweep (index : Nat) (unreadable : Bool) (s : State) : Host.Outcome State Fault Refusal :=
  onServingMem (fun mem d =>
    match Tab.look index d.idx.idx with
    | some x => if x.st = 2 ∧ x.hwm ≠ 0 ∧ d.get (Reg.IDX_REPAIR.share index) ≠ 0 then d.sweep index x unreadable mem else (mem, d)
    | none => (mem, d)) s

/-- Does a record of the index still name a node, as one may that an insert wrote after the sweep had passed it (R326, R330)? [DEDUCED: log entry 56] -/
def VecIndex.named (x : VecIndex) (node : Nat) (mem : List Host.Cell) : Bool :=
  (List.range x.hwm).any (fun p => p != node && (x.readRec p mem).inUse && (x.readRec p mem).neighs.any (fun g => g.node == node))

/-- Is a node still named by a record, read by a running query that started before its delete, or wanted by an insert that waits to write
(R330)? [DEDUCED: log entry 56] -/
def Dev.nodeHeld (n : Nat) (x : VecIndex) (node del : Nat) (mem : List Host.Cell) (d : Dev) : Bool :=
  x.named node mem || (d.idxQueries n).any (fun q => decide (q.2.epoch < del)) ||
    x.writes.any (fun w => match w with | .insert _ _ _ _ _ _ found => found.contains node | .delete _ _ => false)

/-- NODE_SLOT_FREE (R330): the slot is cleared, the ID returns, and an entry node gives way to its first visible neighbour. [DEDUCED: log entry 56] -/
def execNodeSlotFree (index node : Nat) (s : State) : Host.Outcome State Fault Refusal :=
  onServingMem (fun mem d =>
    match Tab.look index d.idx.idx with
    | none => (mem, d)
    | some x =>
      match x.freeable.find? (fun e => e.1 == node) with
      | none => (mem, d)
      | some (_, del) =>
        if x.st = 2 ∧ !d.nodeHeld index x node del mem then
          let r := x.readRec node mem
          let heir := (r.neighs.filter (fun g => (x.readRec g.node mem).visible x.epoch)).head?
          let wasEntry := x.entries.contains node
          let es := match heir with | some g => x.entries.map (fun n => if n = node then g.node else n) | none => x.entries.erase node
          let x' := { x with entries := if wasEntry then es.eraseDups else x.entries, freed := node :: x.freed, tombs := x.tombs.filter (fun n => n != node),
                             passTombs := x.passTombs.filter (fun n => n != node), freeable := x.freeable.filter (fun e => e.1 != node) }
          let mem := x'.countBlock (node / x.rpb) (x'.writeRec node { r with inUse := false } mem)
          (if wasEntry then x'.writeHeader mem else mem, d.idxUpd index (fun _ => x'))
        else (mem, d)) s

end Sys2Proof.Machine
end

