-- ==== Sys2Proof/Machine/Registers.lean ====
section
/-!
DEFINITION. Machine/Registers.lean: accesses to BAR0 and BAR2: what each register reads as, what a write does under its access code,
who may write, and the session query (R4 to R7, R84, R85, R487, R571 to R576).
-/
namespace Sys2Proof.Machine

/-! ### What registers read as where the value follows from the state -/

/-- A signed value in 32 bits, saturating (R392, R394). -/
def signed32 (x : Int) : Nat := (max (-2147483648) (min 2147483647 x) % 4294967296).toNat

/-- QUE_INFO and QUE_SQ_HEAD (R513). -/
def Dev.queViews (q : Nat) (d : Dev) : List (Fld × Nat) :=
  match Tab.look q d.que with
  | none => []
  | some u =>
    [(Reg.QUE_INFO.state q, u.st.code), (Reg.QUE_INFO.sector q, u.sector), (Reg.QUE_INFO.pf q, b2n u.pf), (Reg.QUE_INFO.location q, u.location),
     (Reg.QUE_INFO.kind q, u.kind), (Reg.QUE_INFO.ring_log2 q, u.ringLog2), (Reg.QUE_SQ_HEAD.head q, u.sqHead)]

/-- Operations that hold a slot of a kind, and those that wait (R106, R125). -/
def Dev.opsHolding (k : SlotKind) (d : Dev) : Nat := (d.ses.ops.filter (fun e => e.2.slot == k && e.2.holds)).length

/-- Operations in the pending list (`revive`) or the park lists. -/
def Dev.opsWaiting (revive : Bool) (d : Dev) : Nat :=
  (d.ses.ops.filter (fun e => e.2.pass == .waiting && (if revive then e.2.opcode == 0x22 else e.2.opcode != 0x22 && e.2.slot != .none_))).length

/-- The SES registers that count (R79, R82, R83, R125, R235). -/
def Dev.sesViews (o : Nat) (d : Dev) : List (Fld × Nat) :=
  if o = 0x06000008 then [(Reg.SES_BUOYS.in_use, d.ses.buoys.length)]
  else if o = 0x0600001C then [(Reg.SES_DEDUP_ENTRIES.entries, d.ses.sharing.length)]
  else if 0x06000044 ≤ o ∧ o < 0x06000064 then
    [(Reg.SES_STATE_CNT.count ((o - 0x06000044) / 4), (d.ses.buoys.filter (fun e => e.2.state == (o - 0x06000040) / 4)).length)]
  else if o = 0x06000308 then [(Reg.SES_MOV_ACTIVE.warm, d.opsHolding .warm), (Reg.SES_MOV_ACTIVE.cold, d.opsHolding .cold)]
  else if o = 0x0600030C then
    [(Reg.SES_MOV_PENDING.parks, min 0x7FFF (d.opsWaiting false)), (Reg.SES_MOV_PENDING.pending, d.opsWaiting true)]
  else if o = 0x06000404 then [(Reg.SES_SRV_TRACK.in_use, d.srv.turns.length)]
  else []

/-- The Lens's status and its entries' tokens (R388, R392 to R394). -/
def Dev.lensViews (o : Nat) (d : Dev) : List (Fld × Nat) :=
  if o = 0x06100008 then [(Reg.LENS_STATUS.pending, b2n (d.pends.any (fun p => p.block == Blk.lens)))]
  else if 0x06140000 ≤ o ∧ o < 0x06180000 then
    (let q := (o - 0x06140000) / 16
     [(Reg.LENS_QTOK.tokens q, signed32 (d.lensTouch q).x)])
  else if 0x06180000 ≤ o ∧ o < 0x061A0000 then
    (let a := (o - 0x06180000) / 16
     [(Reg.LENS_ATOK.tokens a, min 0xFFFFFFFF (d.lensTouch (acctKey a)).x.toNat)])
  else if 0x061A0000 ≤ o ∧ o < 0x061A0200 then
    (let e := (o - 0x061A0000) / 16
     [(Reg.LENS_PTOK.tokens e, signed32 (d.lensTouch (portKey e)).x)])
  else []

/-- A slot of the token region as its register shows it (R301, R305). -/
def SlotPhase.loads : SlotPhase → Bool
  | .loading => true
  | .checked => true
  | _ => false

/-- The token region and its slots (R301, R305). -/
def Dev.tokViews (o : Nat) (d : Dev) : List (Fld × Nat) :=
  if o = 0x06200000 then [(Reg.TOK_SPACE.free_mib, d.tokFree / 2 ^ 20)]
  else if 0x06200040 ≤ o ∧ o < 0x06200080 then
    (let n := (o - 0x06200040) / 4
     match Tab.look n d.tok.vocabs with
     | some v => [(Reg.TOK_VOCAB.resident n, b2n v.phase.holds), (Reg.TOK_VOCAB.loading n, b2n v.phase.loads),
                  (Reg.TOK_VOCAB.kind n, if v.phase.holds then v.img.kind else 0), (Reg.TOK_VOCAB.sectors n, v.sectors)]
     | none => [])
  else if 0x06300100 ≤ o ∧ o < 0x06300200 then
    (let n := (o - 0x06300100) / 4
     match Tab.look n d.tok.grams with
     | some g => [(Reg.GRM_GRAM.resident n, b2n g.phase.holds), (Reg.GRM_GRAM.loading n, b2n g.phase.loads),
                  (Reg.GRM_GRAM.vocab_id n, match d.vocabFor g.img.vocabDigest with | some v => v.1 | none => 0),
                  (Reg.GRM_GRAM.sectors n, g.sectors)]
     | none => [])
  else []

/-- The indexes (R336). A read of the low word of an epoch latches the high word for the next read of it. -/
def Dev.idxViews (o : Nat) (d : Dev) : List (Fld × Nat) :=
  if 0x06400100 ≤ o ∧ o < 0x06400500 then
    (let n := (o - 0x06400100) / 16
     match Tab.look n d.idx.idx with
     | some x => [(Reg.IDX_STATE.sector n, x.sector), (Reg.IDX_STATE.state n, x.st), (Reg.IDX_EPOCHL.epoch_lo n, wrap 32 x.epoch),
                  (Reg.IDX_EPOCHH.epoch_hi n, Tab.getD n (wrap 16 (x.epoch / 2 ^ 32)) d.idxLatch)]
     | none => [(Reg.IDX_EPOCHH.epoch_hi n, Tab.getD n 0 d.idxLatch)])
  else []

/-- The pool's host table (R362) and the composition's drain (R361). -/
def Dev.poolViews (o : Nat) (d : Dev) : List (Fld × Nat) :=
  if 0x06501000 ≤ o ∧ o < 0x06502000 then
    (let h := (o - 0x06501000) / 16
     [(Reg.POOL_HOST_STAT.extents h, (d.pool.extents.map (fun e => if e.2.live then (e.2.grants.filter (d.grantFits e.2 h)).length else 0)).sum),
      (Reg.POOL_HOST_STAT.load h, d.poolLoad h)])
  else if o = 0x0670000C then [(Reg.SCT_DRAIN.old_inflight, if d.comp.prev.isSome then d.oldCount else 0)]
  else []

/-- The image core whose own list a core runs: one it hosts in its SRAM (R193, R201). -/
def Dev.ownImageCore (c : Nat) (d : Dev) : Option Nat :=
  let x := d.secImg (d.coreSector c)
  (List.range x.hosts.length).find? (fun i => x.hosts.getD i 99 == c && !x.shadow.contains i)

/-- Image cores that a core hosts (R193). -/
def Dev.hostedBy (c : Nat) (d : Dev) : List Nat :=
  let x := d.secImg (d.coreSector c)
  if x.active.isSome then (List.range x.hosts.length).filter (fun i => x.hosts.getD i 99 == c) else []

/-- SRAM bytes outside every region and not holding a preferred blob (R201). -/
def Dev.coreFree (c : Nat) (d : Dev) : Nat :=
  let x := d.secImg (d.coreSector c)
  match d.ownImageCore c, x.active with
  | some i, some g =>
    (match g.cores[i]? with
     | some e => sramFree e - (((g.blobs.zip (d.blobPlaces (d.coreSector c) g)).filter (fun p => p.1.placement == 1 && p.1.core == i && p.2.1 == 0)).map (fun p => p.1.size)).sum
     | none => 0x1000000)
  | _, _ => 0x1000000

/-- CORE_IMAGE and CORE_SRAM_FREE (R201). -/
def Dev.coreViews (o : Nat) (d : Dev) : List (Fld × Nat) :=
  let c := (o - 0x08000000) / 0x100000
  let r := (o - 0x08000000) % 0x100000
  if r = 0xC then
    [(Reg.CORE_IMAGE.hosted c, (d.hostedBy c).length), (Reg.CORE_IMAGE.image_core c, (d.ownImageCore c).getD 0xFF),
     (Reg.CORE_IMAGE.sector c, d.coreSector c % 16),
     (Reg.CORE_IMAGE.state c, if (d.hostedBy c).isEmpty || d.eng.retired.contains c then 0 else if (d.secImg (d.coreSector c)).faulted then 2 else 1)]
  else if r = 0x14 then [(Reg.CORE_SRAM_FREE.bytes c, d.coreFree c)]
  else []

/-- The counters whose view shows Sector n, chip counters first (R543). -/
def Dev.viewCounters (n : Nat) (d : Dev) : List CounterRef :=
  if (d.sector n).userCounters then
    (((List.range 64).map CounterRef.chip ++ (List.range 32).flatMap (fun c => (List.range 16).map (CounterRef.core c))).filter (fun k =>
      d.get (cntRegs k).view == 1 && d.get (cntRegs k).viewSector == n)).take 64
  else []

/-- A counter's CNT_SEL word (R568). -/
def Dev.selWord (k : CounterRef) (d : Dev) : Nat :=
  let r := cntRegs k
  [r.enable, r.chain, r.irq, r.view, r.viewSector, r.event].foldl (fun a f => a + d.get f * 2 ^ f.lo) 0

/-- Page n of the CNT window of a virtual function (R543). -/
def Dev.cntViews (o : Nat) (d : Dev) : List (Fld × Nat) :=
  let n := (o - 0x0F110000) / 0x1000
  let i := (o - 0x0F110000) % 0x1000 / 16
  match (d.viewCounters n)[i]? with
  | some k => [(Reg.CNT_V_VAL.value n i, d.cntValue k), (Reg.CNT_V_SEL.sel n i, d.selWord k)]
  | none => []

/-- DBG_TRACE_STAT, and the watch registers below debug level 1 (R569). -/
def Dev.dbgViews (o : Nat) (d : Dev) : List (Fld × Nat) :=
  if o = 0x0F000004 then [(Reg.DBG_TRACE_STAT.active, b2n (decide (1 ≤ d.debugLevel) && d.get Reg.DBG_TRACE_CFG.enables != 0))]
  else if 0x0F001000 ≤ o ∧ o < 0x0F005000 ∧ d.debugLevel = 0 then
    (match findReg o with | some r => (r.fieldsAt o).map (fun f => (f, 0)) | none => [])
  else []

/-- The Foghorn's entries (R562, R570). -/
def Dev.fogViews (o : Nat) (d : Dev) : List (Fld × Nat) :=
  if o = 0x0F200004 then [(Reg.FOG_STATUS.entries, d.fog.length)]
  else
    let e := (o - 0x0F201000) / 0x20
    match Tab.look e d.fog with
    | some x =>
      [(Reg.FOG_ID.fault_id e, x.id), (Reg.FOG_INFO.valid e, 1), (Reg.FOG_INFO.severity e, x.severity), (Reg.FOG_INFO.cls e, x.cls),
       (Reg.FOG_INFO.reporter e, x.reporter), (Reg.FOG_FIRST.daymark e, x.first), (Reg.FOG_LAST.daymark e, x.last),
       (Reg.FOG_CNTA.class1 e, x.c1), (Reg.FOG_CNTA.class0 e, x.c0), (Reg.FOG_CNTB.class3 e, x.c3), (Reg.FOG_CNTB.class2 e, x.c2)]
    | none => []

/-- Fields of the register at `o` that count clock edges or show events which no command of the table brings: waits on slots,
descriptors, attention tiles and operands (R163, R202), waits at a map switch and throttle levels (R346, R350), counter-cache misses
(R429) and flash read retries (R444). [DESIGN CHOICE: log entry 15] -/
def openFields (o : Nat) : List Fld :=
  ([Reg.SCT_SWITCH_WAIT.count, Reg.FLS_RETRIES.count] ++ (List.range 12).map Reg.STK_CC_MISS.count ++ (List.range 16).map Reg.SCT_S_THROTTLE.levels ++
    (List.range 32).flatMap (fun c => [Reg.CORE_SLOT_WAIT.count c, Reg.CORE_DESC_WAIT.count c, Reg.CORE_ATTN_WAIT.count c,
                                       Reg.CORE_ENG_STARVE.count c])).filter (fun f => f.off == o)

/-- W1C bits that a poisoned TLP, or a peer that address resolution does not find, sets (R514, R516): no command of the table brings either. -/
def openBits (o : Nat) : List Fld := ([Reg.NET_ERR.unreachable] ++ (List.range 2).map Reg.PCI_ERR.poisoned).filter (fun f => f.off == o)

/-- Before an access such a bit may have been set; it stands until a 1 is written (R6). [DESIGN CHOICE: log entry 15] -/
def Dev.stir (o : Nat) (d : Dev) : Dev :=
  if d.inService then (openBits o).foldl (fun d f => (d.put f (d.get f ||| (d.fresh % 2 ^ f.width))).drawn) d else d

/-- The counter whose count lies at an offset (R568). -/
def counterAt (o : Nat) : Option CounterRef :=
  if 0x0F100100 ≤ o ∧ o < 0x0F100500 ∧ o % 16 = 0 then some (.chip ((o - 0x0F100100) / 16))
  else if 0x0F101000 ≤ o ∧ o < 0x0F105000 ∧ o % 16 = 0 ∧ (o - 0x0F101000) % 0x200 < 0x100 then some (.core ((o - 0x0F101000) / 0x200) ((o - 0x0F101000) % 0x200 / 16))
  else none

/-- The open fields' values: free in service, zero until then; and a counter of open events. [DESIGN CHOICE: log entry 15] -/
def Dev.openViews (o : Nat) (d : Dev) : List (Fld × Nat) :=
  (if d.inService then (openFields o).map (fun f => (f, Config.unstated 70 [f.off, d.now, d.freeCtr])) else []) ++
  (match counterAt o with | some c => if d.cntOpen 64 c then [((cntRegs c).count, d.cntValue c)] else [] | none => [])

/-- Fields of the register at `o` whose value follows from other state. `m` reads. -/
def Dev.stateViews (m o : Nat) (d : Dev) : List (Fld × Nat) :=
  if o = 0x00010008 then [(Reg.OWN_SELF.master, m)]
  else if o = 0x00030008 then [(Reg.CLK_DAYMARK.ns, d.daymark)]
  else if o < 0x01000000 then []
  else if o < 0x05000000 then d.queViews ((o - 0x01000000) / 0x1000)
  else if o < 0x06100000 then d.sesViews o
  else if o < 0x06200000 then d.lensViews o
  else if o < 0x06380000 then d.tokViews o
  else if o < 0x06400000 then []
  else if o < 0x06500000 then d.idxViews o
  else if o < 0x06800000 then d.poolViews o
  else if o < 0x08000000 then []
  else if o < 0x0A000000 then d.coreViews o
  else if o < 0x0F100000 then d.dbgViews o
  else if o < 0x0F110000 then []
  else if o < 0x0F200000 then d.cntViews o
  else d.fogViews o

/-- The same, and the fields whose value is free. [DEDUCED: log entry 14; DESIGN CHOICE: log entry 15] -/
def Dev.views (m o : Nat) (d : Dev) : List (Fld × Nat) := d.stateViews m o ++ d.openViews o

/-- A field as a read returns it (R6): a WO field as zero. [DEDUCED: log entry 14] -/
def Dev.readField (views : List (Fld × Nat)) (f : Fld) (d : Dev) : Nat :=
  if f.acc = .wo then 0
  else match views.find? (fun v => v.1 == f) with
    | some v => wrap f.width v.2
    | none => d.get f

/-- The register at `o` as a read returns it; zero where no register lies (R5). [DEDUCED: log entry 14] -/
def Dev.regValue (m o : Nat) (d : Dev) : Nat :=
  match findReg o with
  | some r => (r.fieldsAt o).foldl (fun a f => a + d.readField (d.views m o) f * 2 ^ f.lo) 0
  | none => 0

/-- What a read changes: RC fields clear, keeping `late` events that arrive during it (R6, R7); the low word of an index epoch latches
the high word, and a read of the high word takes the latch (R336). A free value serves one read. [DEDUCED: log entry 14] -/
def Dev.afterRead (o late : Nat) (d : Dev) : Dev :=
  let d := if (d.openViews o).isEmpty && !(decide (0x0F110000 ≤ o) && decide (o < 0x0F200000)) then d else d.drawn
  let d := match findReg o with
    | some r => (r.fieldsAt o).foldl (fun d f => if f.acc = .rc then d.put f (min late (2 ^ f.width - 1)) else d) d
    | none => d
  if 0x06400100 ≤ o ∧ o < 0x06400500 ∧ o % 16 = 4 then
    (match Tab.look ((o - 0x06400100) / 16) d.idx.idx with
     | some x => { d with idxLatch := Tab.put ((o - 0x06400100) / 16) (wrap 16 (x.epoch / 2 ^ 32)) d.idxLatch }
     | none => { d with idxLatch := Tab.put ((o - 0x06400100) / 16) 0 d.idxLatch })
  else if 0x06400100 ≤ o ∧ o < 0x06400500 ∧ o % 16 = 8 then { d with idxLatch := Tab.del ((o - 0x06400100) / 16) d.idxLatch }
  else d

/-! ### Windows and widths (R4, R520, R571 to R573) -/

/-- Windows of the physical function: base and size (R571). -/
def pfWindows : List (Nat × Nat) :=
  [(0x00000000, 0x10000), (0x00010000, 0x10000), (0x00020000, 0x10000), (0x00030000, 0x10000), (0x00040000, 0x10000),
   (0x01000000, 0x4000000), (0x06000000, 0xC00000), (0x07000000, 0xC0000), (0x08000000, 0x2000000), (0x0F000000, 0x300000)]

/-- The window of CLK, which recovery leaves out (R520). -/
def clkOffset (o : Nat) : Bool := decide (0x00030000 ≤ o) && decide (o < 0x00040000)

/-- Does an offset lie in a window of the function's view, as the mode has it (R520, R571, R572)? -/
def Dev.visible (m : Master) (fn : Fn) (o : Nat) (d : Dev) : Bool :=
  match fn with
  | .pf => if d.inRecovery then decide (o < 0x00050000) && !clkOffset o else pfWindows.any (fun w => decide (w.1 ≤ o) && decide (o < w.1 + w.2))
  | .vf n =>
    !d.inRecovery && decide (n < 16) &&
    ((decide (0x01000000 ≤ o) && decide (o < 0x05000000) &&
        (match Tab.look ((o - 0x01000000) / 0x1000) d.que with
         | some u => !u.pf && u.sector == n && u.location + 1 == m.code
         | none => false)) ||
     (decide (0x06701000 + n * 0x1000 ≤ o) && decide (o < 0x06702000 + n * 0x1000)) ||
     (decide (0x0F110000 + n * 0x1000 ≤ o) && decide (o < 0x0F111000 + n * 0x1000)))

/-- An access is naturally aligned and of the register's full width (R4). An offset that holds no register takes any aligned access of
four or eight bytes that touches no register. -/
def accessOk (o bytes : Nat) : Bool :=
  (bytes == 4 || bytes == 8) && o % bytes == 0 &&
  (match findReg o with
   | some r => r.width == 8 * bytes
   | none =>
     (match findReg (o - 4) with | some r => !(decide (4 ≤ o) && r.width == 64) | none => true) &&
       (bytes == 4 || (findReg (o + 4)).isNone))

/-- An access that BAR0 takes (R4): of a register's own width where the function's view has the offset; elsewhere any aligned one, as where there
is no register (R5, R572). -/
def Dev.takes (m : Master) (fn : Fn) (o bytes : Nat) (d : Dev) : Bool :=
  if d.visible m fn o then accessOk o bytes else (bytes == 4 || bytes == 8) && o % bytes == 0

/-- Key of a 32-bit word of BAR2 of a function. [PRESUMED: log entry 16] -/
def bar2Key (m : Master) (fn : Fn) (o : Nat) : Nat := (m.code * 32 + (match fn with | .pf => 0 | .vf n => n + 1)) * 2 ^ 16 + o

/-- Is the offset a word of the function's MSI-X table (R573)? [PRESUMED: log entry 16] -/
def inMsix (fn : Fn) (o : Nat) : Bool := decide (o < (match fn with | .pf => 256 | .vf _ => 64) * 16)

/-- A word of the MSI-X table; an entry starts masked (PCI Express). Every other offset of BAR2 reads zero, the PBA too, since no
vector waits here. [PRESUMED: log entry 16] -/
def Dev.bar2Word (m : Master) (fn : Fn) (o : Nat) (d : Dev) : Nat :=
  if inMsix fn o then Tab.getD (bar2Key m fn o) (if o % 16 = 12 then 1 else 0) d.bar2 else 0

/-! ### Writes (R6, R487) -/

/-- Bits of a written value that belong to a field. -/
def fieldBits (f : Fld) (v : Nat) : Nat := wrap f.width (v / 2 ^ f.lo)

/-- Bits cleared where the mask has a 1. -/
def clearBits (a mask : Nat) : Nat := a - (a &&& mask)

/-- A write to one field under its access code (R6); `late` has a 1 for each bit of a W1C field that an event sets in the same cycle, which stays
set (R7). -/
def Dev.writeField (v late : Nat) (d : Dev) (f : Fld) : Dev :=
  match f.acc with
  | .rw => d.put f (fieldBits f v)
  | .sh => d.put f (fieldBits f v)
  | .w1c => d.put f (clearBits (d.get f) (fieldBits f v) ||| fieldBits f late)
  | .w1s => d.put f (d.get f ||| fieldBits f v)
  | .rwl => if d.get Reg.GLB_LOCK.scratch_lock = 1 then d else d.put f (fieldBits f v)
  | _ => d

/-- A write to every field of a register. -/
def Dev.writeFields (o v late : Nat) (d : Dev) : Dev :=
  match findReg o with
  | some r => (r.fieldsAt o).foldl (Dev.writeField v late) d
  | none => d

/-- A session query starts, where none runs (R84). -/
def Dev.queryGo (d : Dev) : Dev :=
  if d.get Reg.SES_QRY_STATUS.done = 1 then
    { d.put Reg.SES_QRY_STATUS.done 0 with ses := { d.ses with query := some (d.get Reg.SES_QRY_SID.session_id) } }
  else d

/-- The key of the Lens entry whose SH field lies at an offset. -/
def lensKeyAt (o : Nat) : Option Nat :=
  if 0x06140000 ≤ o ∧ o < 0x06180000 then some ((o - 0x06140000) / 16)
  else if 0x06180000 ≤ o ∧ o < 0x061A0000 then some (acctKey ((o - 0x06180000) / 16))
  else if 0x061A0000 ≤ o ∧ o < 0x061A0200 then some (portKey ((o - 0x061A0000) / 16))
  else none

/-- Does a host hold an extent carved from its partition (R351)? -/
def Dev.hostHolds (h : Nat) (d : Dev) : Bool := d.pool.extents.any (fun e => e.2.live && e.2.host == h && e.2.window.isNone)

/-- Registers whose write does more than R6 says, or something else; none for the others. [DEDUCED: log entry 14] -/
def Dev.ownEffect (m : Master) (o v late : Nat) (d : Dev) : Option Dev :=
  if o = 0x00010004 then some (d.claimWrite m.code v)
  else if o = 0x0001000C then some d.beat
  else if o = 0x00010014 then some (d.startHandover (fieldBits Reg.OWN_HANDOVER.target v))
  else if o = 0x00020004 then
    some (if fieldBits Reg.PWR_CTRL.go v = 1 ∧ d.inService then d.powerRequest (fieldBits Reg.PWR_CTRL.target v) else d.writeFields o v late)
  else if o = 0x00030010 then some (d.setDaymark v)
  else if 0x00030020 ≤ o ∧ o < 0x00030050 then
    (let k := if o < 0x00030040 then (o - 0x00030020) / 8 else (o - 0x00030040) / 4
     some ((d.writeFields o v late).bootUpd (fun b => { b with fired := b.fired.filter (· != k) })))
  else if o = 0x06000004 then some (if v % 2 = 1 then d.capture Blk.ses sesShadow else d)
  else if o = 0x06000104 then some (if v % 2 = 1 then d.queryGo else d)
  else if o = 0x06100004 then some (if v % 2 = 1 then d.lensCommit else d)
  else if o = 0x06380004 then some (if v % 2 = 1 then d.capture Blk.sel selShadow else d)
  else if o = 0x06400004 then some (if v % 2 = 1 then d.capture Blk.idx idxShadow else d)
  else if o = 0x06700004 then some (if v % 2 = 1 then d.sctCommit else d)
  else if 0x06501000 ≤ o ∧ o < 0x06502000 ∧ o % 16 = 4 then
    (let n := (o - 0x06501000) / 16
     let w := d.writeFields o v late
     some (if d.hostHolds n && !([1, 2].all (fun t => w.partition n t == d.partition n t)) then d.flag Reg.POOL_ERR.cap_locked else w))
  else if o = 0x06B0000C ∨ o = 0x06B0010C then
    (let p := (o - 0x06B0000C) / 0x100
     some ((d.writeFields o v late).admqEnable p (fieldBits (Reg.PCI_ADMQ_CFG.enable p) v == 1)))
  else if 0x07000000 ≤ o ∧ o < 0x070C0000 ∧ o % 0x10000 = 0xC then
    (let k := (o - 0x07000000) / 0x10000
     let d := d.writeFields o v late
     some (if fieldBits (Reg.STK_SPARE.start k) v = 1 then d.startSparing k (d.get (Reg.STK_SPARE.channel k)) else d))
  else if 0x08000000 ≤ o ∧ o < 0x0A000000 ∧ (o - 0x08000000) % 0x100000 = 0 then some (d.coreSeqCfg ((o - 0x08000000) / 0x100000) v)
  else if 0x0F201004 ≤ o ∧ o < 0x0F209004 ∧ (o - 0x0F201004) % 0x20 = 0 then
    some (if v / 2 ^ 31 % 2 = 1 then d.fogFree ((o - 0x0F201004) / 0x20) none else d)
  else none

/-- Is a register one of a Sector's Lens entries that a commit takes up: does it have an SH field? -/
def lensWritten (o : Nat) : Option Nat :=
  match findReg o with
  | some r => if (r.fieldsAt o).any (fun f => f.acc == .sh) then lensKeyAt o else none
  | none => none

/-- A write that the writer may make. [DEDUCED: log entry 14] -/
def Dev.applyWrite (m : Master) (o v late : Nat) (d : Dev) : Dev :=
  let d := d.stir o
  match d.ownEffect m o v late with
  | some d => d
  | none =>
    let d := d.writeFields o v late
    match lensWritten o with
    | some k => { d with lens := { d.lens with changed := if d.lens.changed.contains k then d.lens.changed else d.lens.changed ++ [k] } }
    | none => d

/-- Registers of the physical function that a master may write without being owner (R487): OWN_CLAIM, and its own port's PCI_ADMQ
registers. [DEDUCED: log entry 17] -/
def openWrite (m : Master) (o : Nat) : Bool :=
  o == 0x00010004 ||
  (match portOf m.code with
   | some p => decide (0x06B0000C + 0x100 * p ≤ o) && decide (o < 0x06B00028 + 0x100 * p)
   | none => false)

/-- A write that reached a window of the function's view (R6, R487): into a queue's window under R494, R495 and R498; by the owner, or
where the register is open, under its access code; else ignored and counted. [DEDUCED: log entry 17] -/
def Dev.writeReg (m : Master) (fn : Fn) (o v late : Nat) (d : Dev) : Dev :=
  if 0x01000000 ≤ o ∧ o < 0x05000000 then
    (let q := (o - 0x01000000) / 0x1000
     d.ring m fn q (fun d => if o % 0x1000 = 0 then d.setTail q (v % 2 ^ 16) else if o % 0x1000 = 4 then d.setHead q v else d.applyWrite m o v late))
  else
    match fn with
    | .vf _ => d.applyWrite m o v late
    | .pf => if openWrite m o then d.applyWrite m o v late else d.ownerWrite m.code (fun d => d.applyWrite m o v late)

/-- A write of a register, as an outcome of the machine. PWR_CTRL.reset resets it (R517), and DBG_MEM_CTRL.go reads memory (R559). -/
def regWrite (m : Master) (fn : Fn) (o v late : Nat) (s : State) : Host.Outcome State Fault Refusal :=
  if !s.dev.visible m fn o then .next s
  else if o = 0x00020004 ∧ fieldBits Reg.PWR_CTRL.reset v = 1 ∧ s.dev.owner = m.code then startOver 3 s.dev.boot.rom s.dev.boot.nor s
  else
    let d := s.dev.writeReg m fn o v late
    let d := if o = 0x0F000018 ∧ fieldBits Reg.DBG_MEM_CTRL.go v = 1 ∧ s.dev.owner = m.code then d.memRead s.mem else d
    .next { s with dev := Dev.sendFrames s.dev d }

/-- Does the device answer accesses to its BARs: in service or recovery, with its clocks running? -/
def Dev.answers (d : Dev) : Bool := d.awake && (d.inService || d.inRecovery)

/-! ### The rows -/

/-- REGISTER_WRITE (R3 to R7, R487, R571 to R573). -/
def execRegisterWrite (a : RegAccess) (value late : Nat) (s : State) : Host.Outcome State Fault Refusal :=
  if !s.dev.answers then .next s
  else if a.bar2 then
    .next { s with dev := if inMsix a.fn a.off && a.off % 4 == 0 && a.master != .bmc then
      { s.dev with bar2 := Tab.put (bar2Key a.master a.fn a.off) (wrap 32 value) s.dev.bar2 } else s.dev }
  else if !s.dev.takes a.master a.fn a.off a.bytes then .next { s with dev := s.dev.emit (.unsupportedRequest a.off) }
  else regWrite a.master a.fn a.off (wrap (8 * a.bytes) value) late s

/-- A read of BAR0 or BAR2: its value, and what it changes. -/
def Dev.readAccess (a : RegAccess) (late : Nat) (d : Dev) : Dev :=
  if a.bar2 then d.emit (.regValue a.off (d.bar2Word a.master a.fn a.off))
  else if !d.takes a.master a.fn a.off a.bytes then d.emit (.unsupportedRequest a.off)
  else if !d.visible a.master a.fn a.off then d.emit (.regValue a.off 0)
  else
    let d := d.stir a.off
    (d.emit (.regValue a.off (d.regValue a.master.code a.off))).afterRead a.off late

/-- RC_COUNTER_READ (R6, R7): a read of a register; RC fields clear in the same read, and an event during it is kept. -/
def execRcCounterRead (a : RegAccess) (late : Nat) (s : State) : Host.Outcome State Fault Refusal := onAwake (fun d => d.readAccess a late) s

/-- IDX_EPOCH_READ (R336): a read of an epoch's low word latches its high word. -/
def execIdxEpochRead (a : RegAccess) (s : State) : Host.Outcome State Fault Refusal := onAwake (fun d => d.readAccess a 0) s

/-- BAR0_BAD_ACCESS (R4): Unsupported Request, and nothing else. -/
def execBar0BadAccess (a : RegAccess) (_write : Bool) (s : State) : Host.Outcome State Fault Refusal :=
  onAwake (fun d => if a.bar2 || d.takes a.master a.fn a.off a.bytes then d else d.emit (.unsupportedRequest a.off)) s

/-- GLB_SCRATCH_LOCK (R574, R575): a scratch write of the same cycle still takes effect. -/
def execGlbScratchLock (m : Master) (same : Option (Nat × Nat)) (s : State) : Host.Outcome State Fault Refusal :=
  onAwake (fun d => d.ownerWrite m.code (fun d =>
    let d := match same with
      | some (n, v) => if n < 8 then Dev.writeField v 0 d (Reg.GLB_SCRATCH.value n) else d
      | none => d
    d.flag Reg.GLB_LOCK.scratch_lock)) s

/-! ### The session query (R40, R84, R85) -/

/-- SES_QUERY_GO (R84): ignored while a query runs. -/
def execSesQueryGo (m : Master) (s : State) : Host.Outcome State Fault Refusal :=
  onServing (fun d => d.ownerWrite m.code Dev.queryGo) s

/-- The query ends: a snapshot of the Buoy, or ST_SES_UNKNOWN (R84, R85). -/
def Dev.queryDone (sid : Nat) (d : Dev) : Dev :=
  let r := d.readBuoy sid
  let d : Dev := { r.2 with ses := { r.2.ses with query := none } }
  let d := d.put Reg.SES_QRY_STATUS.done 1
  match r.1 with
  | some b =>
    let bs := buoyBytes b
    ((List.range 16).foldl (fun d n => d.put (Reg.SES_QRY_DATA.bytes n) (leNat ((bs.drop (4 * n)).take 4))) d).put Reg.SES_QRY_STATUS.status ST.OK
  | none => d.put Reg.SES_QRY_STATUS.status ST.SES_UNKNOWN

/-- SES_QUERY_DONE (R84). -/
def execSesQueryDone (s : State) : Host.Outcome State Fault Refusal :=
  onServing (fun d => match d.ses.query with | some sid => d.queryDone sid | none => d) s

end Sys2Proof.Machine
end

