-- ==== Sys2Proof/Machine/Mctp.lean ====
section
/-!
DEFINITION. Machine/Mctp.lean: the messages of the baseboard link but CLAIM and HEARTBEAT: ADMIN, REGREAD, REGWRITE, PLDM monitoring and
MCTP control (R500).
-/
namespace Sys2Proof.Machine

/-- MCTP completion codes (DSP0236). -/
def mctpOk : Nat := 0x00
/-- ERROR_INVALID_DATA. -/
def mctpInvalidData : Nat := 0x02
/-- ERROR_UNSUPPORTED_CMD. -/
def mctpUnsupported : Nat := 0x05

/-- A message over the link, which must be up; not in recovery (R520). [DEDUCED: log entry 102] -/
def onMctp (f : Dev → Dev) (s : State) : Host.Outcome State Fault Refusal := onServing (fun d => if d.mctp.up then f d else d) s

/-- MCTP_ADMIN (R500): up to four entries are outstanding, and a fifth is answered busy. [DEDUCED: log entry 102] -/
def execMctpAdmin (hdr : EntryHdr) (s : State) : Host.Outcome State Fault Refusal :=
  onMctp (fun d =>
    if 4 ≤ d.mctp.outstanding.length then d.emit (.mctpBusy hdr.cid)
    else { d with mctp := { d.mctp with arrived := d.mctp.arrived ++ [hdr], outstanding := d.mctp.outstanding ++ [hdr] } }) s

/-- REGREAD (R7, R500): one access as master 3 to the physical function's view. [DEDUCED: log entry 102] -/
def execRegread (off width late : Nat) (s : State) : Host.Outcome State Fault Refusal :=
  onMctp (fun d =>
    if !d.takes .bmc .pf off width then d.emit (.mctpReg mctpInvalidData 0)
    else if !d.visible .bmc .pf off then d.emit (.mctpReg mctpOk 0)
    else
      let d := d.stir off
      (d.emit (.mctpReg mctpOk (d.regValue 3 off))).afterRead off late) s

/-- REGWRITE (R7, R487, R500): a write that R487 ignores is answered as any other. [DEDUCED: log entries 17, 102] -/
def execRegwrite (off width value late : Nat) (s : State) : Host.Outcome State Fault Refusal :=
  if !(s.dev.serving && s.dev.mctp.up) then .next s
  else if !s.dev.takes .bmc .pf off width then .next { s with dev := s.dev.emit (.mctpReg mctpInvalidData 0) }
  else regWrite .bmc .pf off (wrap (8 * width) value) late { s with dev := s.dev.emit (.mctpReg mctpOk 0) }

/-- PLDM_REQUEST (R500): a reading of sensor 1 package temperature, 2 VCORE or 3 power, a free value each time; another sensor is answered
INVALID_SENSOR_ID (DSP0248). [PRESUMED: log entry 101] -/
def execPldmRequest (sensor : Nat) (s : State) : Host.Outcome State Fault Refusal :=
  onMctp (fun d => if 1 ≤ sensor ∧ sensor ≤ 3 then d.drawn.emit (.mctpPldm sensor 0 d.fresh) else d.emit (.mctpPldm sensor 0x80 0)) s

/-- The answer to an MCTP control command (DSP0236): completion code, value and endpoint ID afterwards. The message types of R500 answer
command 5, one byte each. [PRESUMED: log entry 101] -/
def mctpAnswer (eid command operand : Nat) : Nat × Nat × Nat :=
  if command = 0x01 then (if operand = 0 ∨ 255 ≤ operand then (mctpInvalidData, eid, eid) else (mctpOk, operand, operand))
  else if command = 0x02 then (mctpOk, eid, eid)
  else if command = 0x04 then (mctpOk, Config.unstated 61 [operand], eid)
  else if command = 0x05 then (mctpOk, 0x7E06050100, eid)
  else if command = 0x0B ∨ command = 0x0C then (mctpOk, 0, eid)
  else (mctpUnsupported, 0, eid)

/-- Commands by which the bus owner discovers the endpoint: Set Endpoint ID, Prepare for Endpoint Discovery and Endpoint Discovery. [PRESUMED: log entry 101] -/
def mctpDiscovers (command : Nat) : Bool := command == 0x01 || command == 0x0B || command == 0x0C

/-- MCTP_CONTROL (R500): endpoint discovery brings a lost link back. [PRESUMED: log entry 101] -/
def execMctpControl (command operand : Nat) (s : State) : Host.Outcome State Fault Refusal :=
  onServing (fun d =>
    if d.mctp.up || mctpDiscovers command then
      (let r := mctpAnswer d.mctp.eid command operand
       ({ d with mctp := { d.mctp with up := true, eid := r.2.2 } }).emit (.mctpControl command r.1 r.2.1))
    else d) s

end Sys2Proof.Machine
end

