-- ==== Sys2Proof/Machine/Network.lean ====
section
/-!
DEFINITION. Machine/Network.lean: the Ethernet ports, RoCEv2 retransmission and congestion control, and the precision time receiver
(R507 to R510).
-/
namespace Sys2Proof.Machine

/-- ETH_LINK_DOWN (R510, R516). -/
def execEthLinkDown (port : Nat) (s : State) : Host.Outcome State Fault Refusal :=
  onServing (fun d => if port < 2 then (d.put (Reg.NET_PORT.link_up port) 0).flag Reg.NET_ERR.link_down else d) s

/-- ETH_LINK_UP (R510, R516). -/
def execEthLinkUp (port : Nat) (s : State) : Host.Outcome State Fault Refusal :=
  onServing (fun d => if port < 2 then d.put (Reg.NET_PORT.link_up port) 1 else d) s

/-- A connection, at line rate before anything happened to it (R508). [DEDUCED: log entry 91] -/
def Dev.qp (q : QpRef) (d : Dev) : Qp := Tab.getD (qpKey q) (Qp.fresh 0) d.qps

/-- The device with a connection changed. [DEDUCED: log entry 91] -/
def Dev.qpPut (q : QpRef) (x : Qp) (d : Dev) : Dev := { d with qps := Tab.put (qpKey q) x d.qps }

/-- A connection is there: a location-2 queue's, a file-store target's, a pool host's over RoCEv2 (R508). -/
def Dev.hasQp (q : QpRef) (d : Dev) : Bool :=
  match q with
  | .queue n => (match Tab.look n d.que with | some u => u.location == 2 | none => false)
  | .target p => (match Tab.look p d.peers with | some e => e.kind == 2 | none => false)
  | .host h => decide (h < 256) && d.get (Reg.POOL_HOST_ID.kind h) == 1

/-- The connection fails (R508): its queue becomes DEAD. [DEDUCED: log entry 91] -/
def Dev.qpFails (q : QpRef) (d : Dev) : Dev :=
  let d := ((d.qpPut q { d.qp q with error := true }).flag Reg.NET_ERR.qp_error).bump Reg.NET_QP_ERR.count 1
  match q with | .queue n => d.killQueue n | _ => d

/-- ROCE_RETX_TIMEOUT (R508): go-back-N, up to seven retries. [DEDUCED: log entry 91] -/
def execRoceRetxTimeout (qp : QpRef) (s : State) : Host.Outcome State Fault Refusal :=
  onServing (fun d =>
    if !d.hasQp qp || (d.qp qp).error then d
    else if (d.qp qp).retries < 7 then
      let d := (d.qpPut qp { d.qp qp with retries := (d.qp qp).retries + 1 }).bump Reg.NET_RETX.count 1
      (d.event none ⟨7, 2, 1, none, none, none, none⟩).emit (.retransmit qp)
    else d.qpFails qp) s

/-- ECN_MARKED_PACKET (R508): answered with a CNP. -/
def execEcnMarkedPacket (qp : QpRef) (s : State) : Host.Outcome State Fault Refusal :=
  onServing (fun d => if d.hasQp qp && !(d.qp qp).error then d.emit (.cnp qp) else d) s

/-- CNP (R508): the rate is halved, at most once per 50 µs. [DEDUCED: log entry 91] -/
def execCnp (qp : QpRef) (t : Nat) (s : State) : Host.Outcome State Fault Refusal :=
  onServing (fun d =>
    let d := d.advance t
    if d.hasQp qp then
      let d := d.bump Reg.NET_CNP.count 1
      let x := { d.qp qp with lastRaise := d.now }
      if (match x.lastCnp with | some c => decide (d.now < c + us 50) | none => false) then d.qpPut qp x
      else d.qpPut qp { x with rate := x.rate / 2, lastCnp := some d.now }
    else d) s

/-- CNP_RATE_RECOVER (R508): 1/16 of line rate for each 500 µs without a CNP. [DEDUCED: log entry 91] -/
def execCnpRateRecover (qp : QpRef) (t : Nat) (s : State) : Host.Outcome State Fault Refusal :=
  onServing (fun d =>
    let d := d.advance t
    let x := d.qp qp
    if d.hasQp qp && decide (x.lastRaise + us 500 ≤ d.now) then
      d.qpPut qp { x with rate := min (2 ^ 32) (x.rate + 2 ^ 28), lastRaise := d.now }
    else d) s

/-- An offset as NET_PTP_OFFSET shows it: two's complement, saturating (R516). -/
def ptpShown (offset : Int) : Nat := (max (-2147483648) (min 2147483647 offset) % 4294967296).toNat

/-- The correction of the Daymark for an offset of this clock from its master, the time since the last exchange being known: the whole of
it beyond step_ns, else as much as 50 ppm allow (R509). [DEDUCED: log entry 91] -/
def Dev.ptpCorrection (offset : Int) (d : Dev) : Int :=
  if d.get Reg.NET_PTP.step_ns < offset.natAbs then -offset
  else
    let most : Int := ((d.now - d.ptpAt) * 50 / 1000000 : Nat)
    max (-most) (min most (-offset))

/-- The lock of R509: set after sixteen consecutive exchanges within 100 ns, and lost with the first beyond. [DEDUCED: log entry 91] -/
def Dev.ptpLock (offset : Int) (d : Dev) : Dev :=
  if offset.natAbs ≤ 100 then
    let d : Dev := { d with ptpGood := d.ptpGood + 1 }
    if 16 ≤ d.ptpGood then d.put Reg.NET_PTP.locked 1 else d
  else
    let d : Dev := { d with ptpGood := 0 }
    if d.get Reg.NET_PTP.locked = 1 then (d.put Reg.NET_PTP.locked 0).flag Reg.NET_ERR.ptp_unlock else d

/-- PTP_SYNC (R509). -/
def execPtpSync (offset : Int) (t : Nat) (s : State) : Host.Outcome State Fault Refusal :=
  onServing (fun d =>
    let d := (d.advance t).put Reg.NET_PTP_OFFSET.offset (ptpShown offset)
    let e : Dev := if d.get Reg.NET_PTP.enable = 1 then
        { d.ptpLock offset with daymark := ((d.daymark + d.ptpCorrection offset) % 18446744073709551616).toNat }
      else d
    { e with ptpAt := e.now }) s

end Sys2Proof.Machine
end

