-- ==== Sys2Proof/Machine/Tap.lean ====
section
/-!
DEFINITION. Machine/Tap.lean: the freeze, and the TAP's instructions: the debug nonce and token, freeze read-out and boundary scan (R475, R478,
R556 to R558, R581).
-/
namespace Sys2Proof.Machine

/-- FREEZE (R556, R581): a low pulse of 20 ns or more stops every clock but AOCLK and TCK, until a reset. [DEDUCED: log entry 103; DESIGN CHOICE: log entry 106] -/
def execFreeze (lowNs : Nat) (s : State) : Host.Outcome State Fault Refusal :=
  onDev (fun d => if 20 ≤ lowNs then { d with boot := { d.boot with frozen := true } } else d) s

/-- Has start-up reached a mode, and is the device not in DEEP or OFF, so that the key engine and the SEC block answer the TAP? [DEDUCED: log entry 103] -/
def Dev.tapLive (d : Dev) : Bool :=
  (d.inService || d.inRecovery) && (match d.boot.phase with | .asleep t => t == 2 | .exiting _ => false | _ => true)

/-- A TAP instruction that needs the SEC block. [DEDUCED: log entry 103] -/
def onTap (f : Dev → Dev) (s : State) : Host.Outcome State Fault Refusal := onDev (fun d => if d.tapLive then f d else d) s

/-- TAP_SEC_CHAL (R475, R557): a fresh nonce. -/
def execTapSecChal (s : State) : Host.Outcome State Fault Refusal :=
  onTap (fun d => let r := d.newNonce; r.2.emit (.tap 0x10 r.1)) s

/-- TAP_SEC_TOKEN (R475, R476, R557): the data register shifts in only, so the status goes nowhere. -/
def execTapSecToken (tok : DebugToken) (counterOk : Bool) (s : State) : Host.Outcome State Fault Refusal :=
  onTap (fun d => (d.unlock tok counterOk).2) s

/-! ### Freeze read-out (R558) -/

/-- The 32-bit word of the registers at an aligned offset, as a read of a master that is none shows it. -/
def Dev.regWord (o : Nat) (d : Dev) : Nat :=
  match findReg o with
  | some _ => wrap 32 (d.regValue 0 o)
  | none =>
    match findReg (o - 4) with
    | some r => if 4 ≤ o ∧ r.width = 64 then d.regValue 0 (o - 4) / 2 ^ 32 else 0
    | none => 0

/-- Eight bytes of the registers at any offset. -/
def Dev.regBytes (o : Nat) (d : Dev) : Nat :=
  let a := o / 4 * 4
  wrap 64 ((d.regWord a + 2 ^ 32 * d.regWord (a + 4) + 2 ^ 64 * d.regWord (a + 8)) / 2 ^ (8 * (o % 4)))

/-- Offsets of the GLB, SEC and FOG windows, which read below level 2 (R478). [DEDUCED: log entry 103] -/
def frzOpen (o : Nat) : Bool := decide (o < 0x10000) || (decide (0x40000 ≤ o) && decide (o < 0x50000)) || (decide (0x0F200000 ≤ o) && decide (o < 0x0F300000))

/-- Where a byte of a stack's data region lies in tier 1: the Sector and its offset, none where no Sector has the chunk (R421). [DEDUCED: log entry 103] -/
def Dev.stackByte (stack slot off : Nat) (d : Dev) : Option (Nat × Nat) :=
  let k := off / 4096
  let chunk := stack * 768 + slot / 15 * 96 + k / 1093
  let unit := 15 * (k % 1093) + slot % 15
  (List.range 16).findSome? (fun n => ((Tab.getD n [] d.comp.cur.chunks).idxOf? chunk).map (fun i => (n, i * 2 ^ 26 + unit * 4096 + off % 4096)))

/-- One byte of stack data (R558): of a Sector's tier 1; zero in a free chunk; open in a chunk of the pool or the device, in the unused end of
a chunk's share of a channel, and where no channel lies. -/
def Dev.stackData (stack slot off : Nat) (mem : List Host.Cell) (d : Dev) : Nat :=
  let k := off / 4096
  if 12 ≤ stack ∨ 120 ≤ slot ∨ 96 * 1093 ≤ k ∨ 16384 ≤ 15 * (k % 1093) + slot % 15 then Config.unstated 60 [stack, slot, off]
  else match d.stackByte stack slot off with
    | some (n, o) => (d.tierByte 1 n o mem).toNat
    | none => if d.comp.reserved.contains (stack * 768 + slot / 15 * 96 + k / 1093) then Config.unstated 60 [stack, slot, off] else 0

/-- One byte of a space of the read-out other than 0. [DEDUCED: log entry 103] -/
def Dev.frzByte (a : Nat) (mem : List Host.Cell) (d : Dev) : Nat :=
  if a / 2 ^ 60 = 1 then (Mem.read (coreAddr (a / 2 ^ 32 % 32) (a % 2 ^ 24)) mem).toNat
  else if a / 2 ^ 60 = 2 then d.dieByte (a / 2 ^ 32 % 2) (a % 2 ^ 25) mem
  else if a / 2 ^ 60 = 3 then d.stackData (a / 2 ^ 40 % 16) (a / 2 ^ 32 % 128) (a % 2 ^ 29) mem
  else Config.unstated 62 [a]

/-- Does the read-out meet a stack block whose check or MAC fails? -/
def Dev.frzFailed (a : Nat) (blockOk : Bool) (d : Dev) : Bool :=
  a / 2 ^ 60 == 3 && (!blockOk || d.blockFailed (a / 2 ^ 40 % 16) (a / 2 ^ 32 % 128) (a % 2 ^ 29 / 512))

/-- The value of a capture at an address, with denied and error (R558). [DEDUCED: log entry 103] -/
def Dev.frzCapture (a : Nat) (blockOk : Bool) (mem : List Host.Cell) (d : Dev) : Nat × Bool × Bool :=
  if !d.boot.frozen then (0, true, false)
  else if a / 2 ^ 60 = 0 ∧ (d.debugLevel = 2 ∨ frzOpen (a % 2 ^ 28)) then (d.regBytes (a % 2 ^ 28), false, false)
  else if d.debugLevel < 2 then (0, true, false)
  else if d.frzFailed a blockOk then (0, false, true)
  else ((List.range 8).foldl (fun v i => v + wrap 8 (d.frzByte (a + i) mem) * 2 ^ (8 * i)) 0, false, false)

/-- FRZ_DATA (R557, R558): an address shifted in first, then a capture of 8 bytes, which adds 8 to FRZ_ADDR. [DEDUCED: log entry 103] -/
def execFrzData (load : Option Nat) (blockOk : Bool) (s : State) : Host.Outcome State Fault Refusal :=
  onDev (fun d =>
    let a := wrap 64 (load.getD d.tap.frzAddr)
    let r := d.frzCapture a blockOk s.mem
    ({ d with tap := { d.tap with frzAddr := wrap 64 (a + 8), denied := d.tap.denied || r.2.1, error := d.tap.error || r.2.2 } }).emit (.tap 0x21 r.1)) s

/-- EXTEST (R557): the boundary-scan cells drive the balls; what the cells capture from them is a free value. [DEDUCED: log entry 103; DESIGN CHOICE: log entry 106] -/
def execExtest (cells : List Bool) (s : State) : Host.Outcome State Fault Refusal :=
  onDev (fun d => ({ d.drawn with tap := { d.drawn.tap with cells := cells } }).emit (.tap 0x03 d.fresh)) s

end Sys2Proof.Machine
end

