-- ==== Sys2Proof/Machine/Dispatch.lean ====
section
/-!
DEFINITION. Machine/Dispatch.lean: one arm for each command, each one call of its meaning.
-/
namespace Sys2Proof.Machine

/-- The effect of one command on the machine, the queue of waiting commands apart. [DESIGN CHOICE: log entry 105] -/
def exec (i : Instr) (s : State) : Host.Outcome State Fault Refusal :=
  match i with
  | .registerWrite a value late => Sys2Proof.Machine.execRegisterWrite a value late s
  | .rcCounterRead a late => Sys2Proof.Machine.execRcCounterRead a late s
  | .bar0BadAccess a write => Sys2Proof.Machine.execBar0BadAccess a write s
  | .idxEpochRead a => Sys2Proof.Machine.execIdxEpochRead a s
  | .glbScratchLock m same => Sys2Proof.Machine.execGlbScratchLock m same s
  | .sesCommit m t => Sys2Proof.Machine.execSesCommit m t s
  | .selCommit m t => Sys2Proof.Machine.execSelCommit m t s
  | .idxCommit m t => Sys2Proof.Machine.execIdxCommit m t s
  | .sctCommit m t => Sys2Proof.Machine.execSctCommit m t s
  | .lensCommit m t => Sys2Proof.Machine.execLensCommit m t s
  | .coreSeqCfgWrite m core value t => Sys2Proof.Machine.execCoreSeqCfgWrite m core value t s
  | .commitFallbackTimer t => Sys2Proof.Machine.execCommitFallbackTimer t s
  | .sesQueryGo m => Sys2Proof.Machine.execSesQueryGo m s
  | .sesQueryDone => Sys2Proof.Machine.execSesQueryDone s
  | .parkWarm c => Sys2Proof.Machine.execParkWarm c s
  | .parkCold c => Sys2Proof.Machine.execParkCold c s
  | .revive c => Sys2Proof.Machine.execRevive c s
  | .moveOut c => Sys2Proof.Machine.execMoveOut c s
  | .moveIn c record manifest buoy => Sys2Proof.Machine.execMoveIn c record manifest buoy s
  | .moveCommit c => Sys2Proof.Machine.execMoveCommit c s
  | .moveAbort c => Sys2Proof.Machine.execMoveAbort c s
  | .drop c => Sys2Proof.Machine.execDrop c s
  | .prepare m manifest buoy => Sys2Proof.Machine.execPrepare m manifest buoy s
  | .go m => Sys2Proof.Machine.execGo m s
  | .sessionWorkComplete sid r => Sys2Proof.Machine.execSessionWorkComplete sid r s
  | .done m claim => Sys2Proof.Machine.execDone m claim s
  | .sesCancel m => Sys2Proof.Machine.execSesCancel m s
  | .lose m => Sys2Proof.Machine.execLose m s
  | .final m => Sys2Proof.Machine.execFinal m s
  | .sessionMsgResend sid t => Sys2Proof.Machine.execSessionMsgResend sid t s
  | .coordPassFail sid t => Sys2Proof.Machine.execCoordPassFail sid t s
  | .sessionSlotAdmit t => Sys2Proof.Machine.execSessionSlotAdmit t s
  | .pageMigrationStart sid stream ordinal dest => Sys2Proof.Machine.execPageMigrationStart sid stream ordinal dest s
  | .pageMigrationSwitch sid stream ordinal verified => Sys2Proof.Machine.execPageMigrationSwitch sid stream ordinal verified s
  | .partLossRebuild sid codedOk => Sys2Proof.Machine.execPartLossRebuild sid codedOk s
  | .gemm core img => Sys2Proof.Machine.execGemm core img s
  | .gemmGated core img => Sys2Proof.Machine.execGemmGated core img s
  | .gemmGather core img => Sys2Proof.Machine.execGemmGather core img s
  | .norm core img => Sys2Proof.Machine.execNorm core img s
  | .rope core img => Sys2Proof.Machine.execRope core img s
  | .elemwise core img => Sys2Proof.Machine.execElemwise core img s
  | .attnFwd core img faults => Sys2Proof.Machine.execAttnFwd core img faults s
  | .attnBwd core img faults => Sys2Proof.Machine.execAttnBwd core img faults s
  | .kvAppend core img copying => Sys2Proof.Machine.execKvAppend core img copying s
  | .recur core img => Sys2Proof.Machine.execRecur core img s
  | .distTable core t => Sys2Proof.Machine.execDistTable core t s
  | .adapt core img => Sys2Proof.Machine.execAdapt core img s
  | .engineFail core engine t => Sys2Proof.Machine.execEngineFail core engine t s
  | .commandComplete core img index t => Sys2Proof.Machine.execCommandComplete core img index t s
  | .routeBuildDone sector entry t => Sys2Proof.Machine.execRouteBuildDone sector entry t s
  | .coreStepStart core step rows t => Sys2Proof.Machine.execCoreStepStart core step rows t s
  | .coreStepEnd core t => Sys2Proof.Machine.execCoreStepEnd core t s
  | .refineIssue core img => Sys2Proof.Machine.execRefineIssue core img s
  | .stepWatchdogExpiry core t => Sys2Proof.Machine.execStepWatchdogExpiry core t s
  | .stepBoundary sector batch t => Sys2Proof.Machine.execStepBoundary sector batch t s
  | .imageLoad hdr sector sourceKind source length host sig => Sys2Proof.Machine.execImageLoad hdr sector sourceKind source length host sig s
  | .imageActivate hdr sector t => Sys2Proof.Machine.execImageActivate hdr sector t s
  | .imageActivateTimer sector t => Sys2Proof.Machine.execImageActivateTimer sector t s
  | .imageDiscard hdr sector => Sys2Proof.Machine.execImageDiscard hdr sector s
  | .imageUnload hdr sector => Sys2Proof.Machine.execImageUnload hdr sector s
  | .turn e buoy t => Sys2Proof.Machine.execTurn e buoy t s
  | .turnText hdr sid tag payloadOffset text more => Sys2Proof.Machine.execTurnText hdr sid tag payloadOffset text more s
  | .cancel hdr sid tag => Sys2Proof.Machine.execCancel hdr sid tag s
  | .headStepStart sector batch t => Sys2Proof.Machine.execHeadStepStart sector batch t s
  | .seg f => Sys2Proof.Machine.execSeg f s
  | .row f sector batch buoy => Sys2Proof.Machine.execRow f sector batch buoy s
  | .digest sector batch sid ds => Sys2Proof.Machine.execDigest sector batch sid ds s
  | .data sector batch segment last addr bytes => Sys2Proof.Machine.execData sector batch segment last addr bytes s
  | .tokens sector batch e => Sys2Proof.Machine.execTokens sector batch e s
  | .egressRecordSend q t => Sys2Proof.Machine.execEgressRecordSend q t s
  | .warmParkTimer sid t => Sys2Proof.Machine.execWarmParkTimer sid t s
  | .coldParkCheck t => Sys2Proof.Machine.execColdParkCheck t s
  | .selJobDone core img ties t => Sys2Proof.Machine.execSelJobDone core img ties t s
  | .selMerge slot row ties heads => Sys2Proof.Machine.execSelMerge slot row ties heads s
  | .vocabLoad hdr id sectors sourceKind source length host sig t => Sys2Proof.Machine.execVocabLoad hdr id sectors sourceKind source length host sig t s
  | .vocabUnload hdr id t => Sys2Proof.Machine.execVocabUnload hdr id t s
  | .grammarLoad hdr id sectors sourceKind source length host sig t => Sys2Proof.Machine.execGrammarLoad hdr id sectors sourceKind source length host sig t s
  | .grammarUnload hdr id t => Sys2Proof.Machine.execGrammarUnload hdr id t s
  | .tokenSlotTimer t => Sys2Proof.Machine.execTokenSlotTimer t s
  | .bulkStart transfer length sha isGram id sectors => Sys2Proof.Machine.execBulkStart transfer length sha isGram id sectors s
  | .bulk transfer offset bytes sig => Sys2Proof.Machine.execBulk transfer offset bytes sig s
  | .tokenizeEntry t => Sys2Proof.Machine.execTokenizeEntry t s
  | .turnCfg c => Sys2Proof.Machine.execTurnCfg c s
  | .maskJobStart sector batch t => Sys2Proof.Machine.execMaskJobStart sector batch t s
  | .grmSliceEnd t => Sys2Proof.Machine.execGrmSliceEnd t s
  | .maskReady sector row t => Sys2Proof.Machine.execMaskReady sector row t s
  | .indexCreate hdr index sourceKind source length content => Sys2Proof.Machine.execIndexCreate hdr index sourceKind source length content s
  | .indexDrop hdr index => Sys2Proof.Machine.execIndexDrop hdr index s
  | .vecQuery hdr q vector t => Sys2Proof.Machine.execVecQuery hdr q vector t s
  | .vecInsert hdr index key vectorOffset resultOffset vector t => Sys2Proof.Machine.execVecInsert hdr index key vectorOffset resultOffset vector t s
  | .vecDelete hdr index node => Sys2Proof.Machine.execVecDelete hdr index node s
  | .queryBatchTimer sector t => Sys2Proof.Machine.execQueryBatchTimer sector t s
  | .tableWaitTimer core t => Sys2Proof.Machine.execTableWaitTimer core t s
  | .queryRoundDone query failed => Sys2Proof.Machine.execQueryRoundDone query failed s
  | .insertWritePhase index unreadable => Sys2Proof.Machine.execInsertWritePhase index unreadable s
  | .repairSweep index unreadable => Sys2Proof.Machine.execRepairSweep index unreadable s
  | .nodeSlotFree index node => Sys2Proof.Machine.execNodeSlotFree index node s
  | .sectorCompose hdr m => Sys2Proof.Machine.execSectorCompose hdr m s
  | .composeReq m t => Sys2Proof.Machine.execComposeReq m t s
  | .compose m t => Sys2Proof.Machine.execCompose m t s
  | .switch m t => Sys2Proof.Machine.execSwitch m t s
  | .composeCancel m => Sys2Proof.Machine.execComposeCancel m s
  | .mapDrainDone => Sys2Proof.Machine.execMapDrainDone s
  | .graceExpiry t => Sys2Proof.Machine.execGraceExpiry t s
  | .extentCreate c => Sys2Proof.Machine.execExtentCreate c s
  | .extentShare c => Sys2Proof.Machine.execExtentShare c s
  | .extentRevoke c t => Sys2Proof.Machine.execExtentRevoke c t s
  | .grantDestroy extent host t => Sys2Proof.Machine.execGrantDestroy extent host t s
  | .poolRead r t => Sys2Proof.Machine.execPoolRead r t s
  | .poolWrite r t => Sys2Proof.Machine.execPoolWrite r t s
  | .poolFill r t => Sys2Proof.Machine.execPoolFill r t s
  | .poolCopy r t => Sys2Proof.Machine.execPoolCopy r t s
  | .poolCompare r t => Sys2Proof.Machine.execPoolCompare r t s
  | .poolReduce r t => Sys2Proof.Machine.execPoolReduce r t s
  | .poolPublish r t => Sys2Proof.Machine.execPoolPublish r t s
  | .poolHandover r t => Sys2Proof.Machine.execPoolHandover r t s
  | .poolRelease r t => Sys2Proof.Machine.execPoolRelease r t s
  | .poolQueueRelease r t => Sys2Proof.Machine.execPoolQueueRelease r t s
  | .poolResponse p => Sys2Proof.Machine.execPoolResponse p s
  | .publishWindowEnd extent t => Sys2Proof.Machine.execPublishWindowEnd extent t s
  | .handoverOverlapEnd extent t => Sys2Proof.Machine.execHandoverOverlapEnd extent t s
  | .codeMemberTimeout sid member t => Sys2Proof.Machine.execCodeMemberTimeout sid member t s
  | .lensSlotVisit slot t => Sys2Proof.Machine.execLensSlotVisit slot t s
  | .sampleSweep t => Sys2Proof.Machine.execSampleSweep t s
  | .ckptTake hdr sectors full peersAnswer newest t => Sys2Proof.Machine.execCkptTake hdr sectors full peersAnswer newest t s
  | .ckptRestore hdr sectors cold seq sourceDomain sourceGroup seedStatus cands => Sys2Proof.Machine.execCkptRestore hdr sectors cold seq sourceDomain sourceGroup seedStatus cands s
  | .ckptIntervalTimer peersAnswer newest t => Sys2Proof.Machine.execCkptIntervalTimer peersAnswer newest t s
  | .quiesce m t => Sys2Proof.Machine.execQuiesce m t s
  | .ckptReady m t => Sys2Proof.Machine.execCkptReady m t s
  | .quiesceTimeout t => Sys2Proof.Machine.execQuiesceTimeout t s
  | .cut m t => Sys2Proof.Machine.execCut m t s
  | .chipCut t => Sys2Proof.Machine.execChipCut t s
  | .ckptCopy fits writes t => Sys2Proof.Machine.execCkptCopy fits writes t s
  | .dedupListTimeout t => Sys2Proof.Machine.execDedupListTimeout t s
  | .report m chips shards groups manifestStatus t => Sys2Proof.Machine.execReport m chips shards groups manifestStatus t s
  | .ckptCommit m t => Sys2Proof.Machine.execCkptCommit m t s
  | .abandon m => Sys2Proof.Machine.execAbandon m s
  | .restoreCommit sectors cold sourceGroup cand status => Sys2Proof.Machine.execRestoreCommit sectors cold sourceGroup cand status s
  | .stackTempEvent stack temp => Sys2Proof.Machine.execStackTempEvent stack temp s
  | .scrubPass stack chan corrected poison failedNodes macFail pinTwice retrainFail => Sys2Proof.Machine.execScrubPass stack chan corrected poison failedNodes macFail pinTwice retrainFail s
  | .stkSpareStart m stack chan => Sys2Proof.Machine.execStkSpareStart m stack chan s
  | .channelSpareDone stack => Sys2Proof.Machine.execChannelSpareDone stack s
  | .flashProgramDone sector extent t ok => Sys2Proof.Machine.execFlashProgramDone sector extent t ok s
  | .flashGc lun unreadable eraseOk t => Sys2Proof.Machine.execFlashGc lun unreadable eraseOk t s
  | .wearLevel lun t => Sys2Proof.Machine.execWearLevel lun t s
  | .readDisturbRelocate lun group reads weak t => Sys2Proof.Machine.execReadDisturbRelocate lun group reads weak t s
  | .retentionScan lun group weak unreadable t => Sys2Proof.Machine.execRetentionScan lun group weak unreadable t s
  | .tableFlush t => Sys2Proof.Machine.execTableFlush t s
  | .flashChannelLost chan => Sys2Proof.Machine.execFlashChannelLost chan s
  | .anchorSet ch keyId sig => Sys2Proof.Machine.execAnchorSet ch keyId sig s
  | .hostKeySet ch host key => Sys2Proof.Machine.execHostKeySet ch host key s
  | .domainSeedSet ch sectors domain seed => Sys2Proof.Machine.execDomainSeedSet ch sectors domain seed s
  | .svnCommit ch counterOk => Sys2Proof.Machine.execSvnCommit ch counterOk s
  | .debugChallenge ch => Sys2Proof.Machine.execDebugChallenge ch s
  | .debugUnlock ch tok counterOk => Sys2Proof.Machine.execDebugUnlock ch tok counterOk s
  | .evidencePq ch nonce mask => Sys2Proof.Machine.execEvidencePq ch nonce mask s
  | .getVersion ch => Sys2Proof.Machine.execGetVersion ch s
  | .getCapabilities ch => Sys2Proof.Machine.execGetCapabilities ch s
  | .negotiateAlgorithms ch p384 mldsa aes256gcm => Sys2Proof.Machine.execNegotiateAlgorithms ch p384 mldsa aes256gcm s
  | .getDigests ch => Sys2Proof.Machine.execGetDigests ch s
  | .getCertificate ch slot => Sys2Proof.Machine.execGetCertificate ch slot s
  | .challenge ch nonce => Sys2Proof.Machine.execChallenge ch nonce s
  | .getMeasurements ch index => Sys2Proof.Machine.execGetMeasurements ch index s
  | .keyExchange ch master mutualAuth anchorChain => Sys2Proof.Machine.execKeyExchange ch master mutualAuth anchorChain s
  | .finish ch verified => Sys2Proof.Machine.execFinish ch verified s
  | .heartbeat ch => Sys2Proof.Machine.execHeartbeat ch s
  | .keyUpdate ch => Sys2Proof.Machine.execKeyUpdate ch s
  | .endSession ch => Sys2Proof.Machine.execEndSession ch s
  | .keyProg ch port stream set key => Sys2Proof.Machine.execKeyProg ch port stream set key s
  | .kSetGo ch port stream set => Sys2Proof.Machine.execKSetGo ch port stream set s
  | .kSetStop ch port stream set => Sys2Proof.Machine.execKSetStop ch port stream set s
  | .ideKmQuery ch port => Sys2Proof.Machine.execIdeKmQuery ch port s
  | .ideCheckFail port stream => Sys2Proof.Machine.execIdeCheckFail port stream s
  | .getTdispVersion ch tdi => Sys2Proof.Machine.execGetTdispVersion ch tdi s
  | .getTdispCapabilities ch tdi => Sys2Proof.Machine.execGetTdispCapabilities ch tdi s
  | .lockInterfaceRequest ch tdi => Sys2Proof.Machine.execLockInterfaceRequest ch tdi s
  | .getDeviceInterfaceReport ch tdi => Sys2Proof.Machine.execGetDeviceInterfaceReport ch tdi s
  | .getDeviceInterfaceState ch tdi => Sys2Proof.Machine.execGetDeviceInterfaceState ch tdi s
  | .startInterfaceRequest ch tdi => Sys2Proof.Machine.execStartInterfaceRequest ch tdi s
  | .stopInterfaceRequest ch tdi => Sys2Proof.Machine.execStopInterfaceRequest ch tdi s
  | .tapSecChal => Sys2Proof.Machine.execTapSecChal s
  | .tapSecToken tok counterOk => Sys2Proof.Machine.execTapSecToken tok counterOk s
  | .frzData load blockOk => Sys2Proof.Machine.execFrzData load blockOk s
  | .extest cells => Sys2Proof.Machine.execExtest cells s
  | .ownClaim m value t => Sys2Proof.Machine.execOwnClaim m value t s
  | .claimWindowEnd t => Sys2Proof.Machine.execClaimWindowEnd t s
  | .ownHeartbeat m t => Sys2Proof.Machine.execOwnHeartbeat m t s
  | .heartbeatLapse t => Sys2Proof.Machine.execHeartbeatLapse t s
  | .ownHandover m target t => Sys2Proof.Machine.execOwnHandover m target t s
  | .handoverTimeout t => Sys2Proof.Machine.execHandoverTimeout t s
  | .queueCreate hdr q => Sys2Proof.Machine.execQueueCreate hdr q s
  | .queueDelete hdr q => Sys2Proof.Machine.execQueueDelete hdr q s
  | .peerSet hdr index entry => Sys2Proof.Machine.execPeerSet hdr index entry s
  | .adminUnknownOpcode hdr opcode => Sys2Proof.Machine.execAdminUnknownOpcode hdr opcode s
  | .queSqTail m fn q tail => Sys2Proof.Machine.execQueSqTail m fn q tail s
  | .queCqHead m fn q head => Sys2Proof.Machine.execQueCqHead m fn q head s
  | .rdmaDoorbell q tail head => Sys2Proof.Machine.execRdmaDoorbell q tail head s
  | .irqCoalesceTimer q t => Sys2Proof.Machine.execIrqCoalesceTimer q t s
  | .vfFlr port vf => Sys2Proof.Machine.execVfFlr port vf s
  | .pfFlr port t => Sys2Proof.Machine.execPfFlr port t s
  | .surpriseLinkDown port t => Sys2Proof.Machine.execSurpriseLinkDown port t s
  | .pcieLinkReturn port speed width flitMode => Sys2Proof.Machine.execPcieLinkReturn port speed width flitMode s
  | .perst port t => Sys2Proof.Machine.execPerst port t s
  | .mctpClaim t => Sys2Proof.Machine.execMctpClaim t s
  | .mctpHeartbeat t => Sys2Proof.Machine.execMctpHeartbeat t s
  | .mctpAdmin hdr => Sys2Proof.Machine.execMctpAdmin hdr s
  | .regread off width late => Sys2Proof.Machine.execRegread off width late s
  | .regwrite off width value late => Sys2Proof.Machine.execRegwrite off width value late s
  | .pldmRequest sensor => Sys2Proof.Machine.execPldmRequest sensor s
  | .mctpControl command operand => Sys2Proof.Machine.execMctpControl command operand s
  | .mctpLinkLoss t => Sys2Proof.Machine.execMctpLinkLoss t s
  | .linkFrame f => Sys2Proof.Machine.execLinkFrame f s
  | .nak port expected t => Sys2Proof.Machine.execNak port expected t s
  | .linkRetrain port t => Sys2Proof.Machine.execLinkRetrain port t s
  | .portTrain port lanes => Sys2Proof.Machine.execPortTrain port lanes s
  | .portTrainTimeout port t => Sys2Proof.Machine.execPortTrainTimeout port t s
  | .ident port x => Sys2Proof.Machine.execIdent port x s
  | .locQuery port exchange chip group sids fecOk => Sys2Proof.Machine.execLocQuery port exchange chip group sids fecOk s
  | .locReply exchange chip replies => Sys2Proof.Machine.execLocReply exchange chip replies s
  | .laneErrorThreshold port lane => Sys2Proof.Machine.execLaneErrorThreshold port lane s
  | .laneDrop port lane => Sys2Proof.Machine.execLaneDrop port lane s
  | .laneTrainRetry port lane errorFree t => Sys2Proof.Machine.execLaneTrainRetry port lane errorFree t s
  | .laneAdd port lane => Sys2Proof.Machine.execLaneAdd port lane s
  | .linkDownTimer t => Sys2Proof.Machine.execLinkDownTimer t s
  | .ethLinkDown port => Sys2Proof.Machine.execEthLinkDown port s
  | .roceRetxTimeout qp => Sys2Proof.Machine.execRoceRetxTimeout qp s
  | .ecnMarkedPacket qp => Sys2Proof.Machine.execEcnMarkedPacket qp s
  | .cnp qp t => Sys2Proof.Machine.execCnp qp t s
  | .cnpRateRecover qp t => Sys2Proof.Machine.execCnpRateRecover qp t s
  | .ptpSync offset t => Sys2Proof.Machine.execPtpSync offset t s
  | .powerOnReset fitted env => Sys2Proof.Machine.execPowerOnReset fitted env s
  | .resetN lowNs env => Sys2Proof.Machine.execResetN lowNs env s
  | .brownOut env => Sys2Proof.Machine.execBrownOut env s
  | .pwrCtrlReset m env => Sys2Proof.Machine.execPwrCtrlReset m env s
  | .recoveryLoad m image env => Sys2Proof.Machine.execRecoveryLoad m image env s
  | .fwUpdate hdr sourceKind image => Sys2Proof.Machine.execFwUpdate hdr sourceKind image s
  | .powerStateRequest m target => Sys2Proof.Machine.execPowerStateRequest m target s
  | .powerEntryComplete env t => Sys2Proof.Machine.execPowerEntryComplete env t s
  | .wakeEvent src inLast8 env t => Sys2Proof.Machine.execWakeEvent src inLast8 env t s
  | .comparatorMatch k inLast8 env t => Sys2Proof.Machine.execComparatorMatch k inLast8 env t s
  | .quadIdleTimer quad t => Sys2Proof.Machine.execQuadIdleTimer quad t s
  | .vcorePgFall => Sys2Proof.Machine.execVcorePgFall s
  | .powerStretchAdjust powerMw avgMw overMs t => Sys2Proof.Machine.execPowerStretchAdjust powerMw avgMw overMs t s
  | .clkDaymarkSet m value => Sys2Proof.Machine.execClkDaymarkSet m value s
  | .freeze lowNs => Sys2Proof.Machine.execFreeze lowNs s
  | .counterOverflow c stepNo cmdIndex => Sys2Proof.Machine.execCounterOverflow c stepNo cmdIndex s
  | .lanternFrame => Sys2Proof.Machine.execLanternFrame s
  | .lanternSync t => Sys2Proof.Machine.execLanternSync t s
  | .debugMemRead m => Sys2Proof.Machine.execDebugMemRead m s
  | .fogEntryFree m e same => Sys2Proof.Machine.execFogEntryFree m e same s
  | .fogGapEnd t => Sys2Proof.Machine.execFogGapEnd t s
  | .keeperFailover k => Sys2Proof.Machine.execKeeperFailover k s
  | .vcorePgRise env t => Sys2Proof.Machine.execVcorePgRise env t s
  | .vcorePgTimeout t => Sys2Proof.Machine.execVcorePgTimeout t s
  | .sequencerCheckFail core => Sys2Proof.Machine.execSequencerCheckFail core s
  | .composeResend t => Sys2Proof.Machine.execComposeResend t s
  | .ckptMsgResend t => Sys2Proof.Machine.execCkptMsgResend t s
  | .dedupDigestList chip digests => Sys2Proof.Machine.execDedupDigestList chip digests s
  | .tokenImageCheckReport isGram id status t => Sys2Proof.Machine.execTokenImageCheckReport isGram id status t s
  | .rdmaWriteAck q => Sys2Proof.Machine.execRdmaWriteAck q s
  | .ethLinkUp port => Sys2Proof.Machine.execEthLinkUp port s

end Sys2Proof.Machine
end

