-- ==== Sys2Proof/Machine/Step.lean ====
section
/-!
DEFINITION. Machine/Step.lean: one step takes the command at the front of the queue; on an empty queue the block idles, and its
clocks advance one tick.
-/
namespace Sys2Proof.Machine

/-- The tick of an empty queue: one period of REFCLK, 10 ns, while the clocks of the Lens run (R363, R527). Timed events have rows of
their own, so nothing else happens (a log entry). [DESIGN CHOICE: log entry 1] -/
def State.idle (s : State) : State := { s with dev := Dev.idleTick s.dev }

/-- One step (three outcomes). [DESIGN CHOICE: log entries 1, 104, 107] -/
def step (s : State) : Host.Outcome State Fault Refusal :=
  match s.pending with
  | [] => .next s.idle
  | c :: rest => exec c { s with pending := rest }

/-- The state with the command that a word spells at the front of its queue: unchanged, since no word spells one. -/
def State.withFetchWord (s : State) (nbits w : Nat) : State :=
  match Sys2Proof.decodeTableWord nbits w with
  | some c => { s with pending := c :: s.pending }
  | none => s

end Sys2Proof.Machine
end

