-- ==== Sys2Proof/Safety.lean ====
section
/-!
DEFINITION. Safety.lean: the terms in which claims speak of a step: the state after a change of the device, the legal states, what a command
that was accepted, issued or ran leaves, and which commands may write memory.
-/
namespace Sys2Proof.Machine

/-- The state after a command that changed the device to `d`: what it sent goes out in frames. -/
def State.after (s : State) (d : Dev) : State := { s with dev := Dev.sendFrames s.dev d }

/-- The same, for a command that also changed memory. -/
def State.afterBoth (s : State) (r : List Host.Cell × Dev) : State := { s with mem := r.1, dev := Dev.sendFrames s.dev r.2 }

/-- Every byte of memory is canonical data: what it takes to compare memories as data. -/
def State.safe (s : State) : Prop := Memory.wf s.mem = true

/-- A session command accepted at HEAD: its Buoy is busy with it, and its operation is kept with the Buoy's generation and its order of arrival
(R47, R93, R106). One that can start takes a slot of its kind and its PREPARE goes out at once; another waits, a revive that a turn with no
tokens holds in its account's order. -/
def Dev.acceptedCommand (op : Nat) (c : SesCmd) (e : Ent) (b : Buoy) (d : Dev) : Dev :=
  let ready := d.slotFree (slotFor op b.state) && !d.leaveOut c.sid && (op != 0x22 || d.reviveHas c.sid)
  let o : SesOp := { SesOp.start op c (some e) (slotFor op b.state) d.now (!c.prefetch) with gen := b.gen, arrived := d.ses.arrivals }
  let k : Dev := d.buoyUpd c.sid (fun b => { b with busy := true, pendingOp := pendingCode op })
  let k : Dev := { k with ses := { k.ses with ops := Tab.put c.sid o k.ses.ops, arrivals := k.ses.arrivals + 1 } }
  if ready then k.startOp c.sid
  else if op == 0x22 && !k.reviveHas c.sid then (match k.turnOf c.sid with | some t => k.acctWait t.entry.account 1 | none => k)
  else k

/-- The head `i` of an image core's list may issue as it stands: its waits are met, no slot it waits on is poisoned, and its operands lie
in their spaces (R140, R172, R176). -/
def Dev.headRuns (core img : Nat) (i : Issue) (d : Dev) : Prop :=
  d.headOf core img = some i ∧ ∃ e, d.coreEntry core img = some e ∧ d.canIssue core img i e = true ∧
    poisoned ((d.imgRun core img).list i.refine) i.cmd.seqn = false ∧ (d.engCtx core img).operandsOk i.cmd = true

/-- What a command reads of the core and image core it is issued on, with the list it came from. -/
def Dev.issueCtx (core img : Nat) (i : Issue) (d : Dev) : EngCtx := { d.engCtx core img with refine := i.refine }

/-- What an engine command whose body came to `r` leaves: its results in memory, its output counted (R428), the batch rows it reports and
the page fault, if any, in its record begun (R68, R546). -/
def Dev.engineRan (core img : Nat) (i : Issue) (r : Ran) (d : Dev) : List Host.Cell × Dev :=
  (r.mem, (r.dev.countOutput (d.issueCtx core img i) i.cmd).started core img i (if r.fault then ST.SES_PAGEFAULT else ST.OK)
    (r.rows.headD 0xFFFF) r.rows.length)

/-- The commands that issue the head of a list, each with the opcode it issues (R142). -/
def headCommands (core img : Nat) (faults : List StackFault) (copying : List Nat) : List (Nat × Instr) :=
  [(0x01, .gemm core img), (0x02, .gemmGated core img), (0x03, .gemmGather core img), (0x08, .norm core img), (0x09, .rope core img),
   (0x0A, .elemwise core img), (0x10, .attnFwd core img faults), (0x11, .attnBwd core img faults), (0x12, .kvAppend core img copying),
   (0x18, .recur core img), (0x30, .adapt core img)]

/-- An address outside the `rows` destination rows of `cols` elements of a command, elements and block scales (R132, R139). -/
def EngCtx.outside (x : EngCtx) (c : EngCmd) (rows cols a : Nat) : Prop :=
  ∀ r, r < rows → (a < x.base c.d + r * c.d.rowStride ∨ x.base c.d + r * c.d.rowStride + ceilDiv (cols * fmtBits c.outFormat) 8 ≤ a) ∧
    (fmtMx c.outFormat = true → a < x.base c.d + c.d.scaleOffset + r * c.d.scaleStride ∨
      x.base c.d + c.d.scaleOffset + r * c.d.scaleStride + ceilDiv cols 32 ≤ a)

/-- An unfinished core's commands closed by the watchdog, and every slot of its step poisoned (R200). -/
def Dev.timeOut (core : Nat) (mem : List Host.Cell) (d : Dev) : Dev :=
  ((d.coreRun core).imgs.map (·.1)).foldl (fun d img =>
    ((d.unfinished core img).foldl (fun d u => d.completeCommand core img false u.1 u.2.1 u.2.2 mem) d).imgUpd core img
      (fun r => { r with ended := true, step := { r.step with poison := List.range 64 } })) d

/-- The engines of a core after one is lost: those that work, at most four active, and no spare left below five (R167). -/
def Dev.loseEngine (core engine : Nat) (d : Dev) : Dev :=
  let ok := d.get (Reg.CORE_ENG.engine_ok core) - 2 ^ engine
  let working := ((List.range 5).filter (fun e => ok.testBit e)).length
  ((d.put (Reg.CORE_ENG.engine_ok core) ok).put (Reg.CORE_ENG.active core) (min 4 working)).put (Reg.CORE_ENG.spare_left core) (working - 4)

/-- Every command that ran on an engine of a core fails with ST_IMG_ENGINE (R167). -/
def Dev.failEngine (core engine : Nat) (d : Dev) : Dev :=
  let fail (l : ListRun) : ListRun := { l with running := Tab.mapv (fun _ c => if c.engine = engine then { c with status := ST.IMG_ENGINE } else c) l.running }
  d.coreUpd core (fun r => { r with imgs := Tab.mapv (fun _ i => { i with step := fail i.step, refine := fail i.refine }) r.imgs })



/-- The pool's requests, each with the op it carries (R353). -/
def poolCommands (r : PoolReq) (t : Nat) : List (Nat × Instr) :=
  [(1, .poolRead r t), (2, .poolWrite r t), (3, .poolFill r t), (4, .poolCopy r t), (5, .poolCompare r t), (6, .poolReduce r t),
   (7, .poolPublish r t), (8, .poolHandover r t), (9, .poolRelease r t)]

/-- A read round of a query as it is counted, flagged and reported (R322, R334, R335). -/
def Dev.roundCounted (sector : Nat) (c : QueryCtx) (failed : List Nat) (d : Dev) : Dev :=
  (d.bump Reg.IDX_READS.count c.round.length).readErrors sector (c.round.filter (fun p => failed.contains p.2)).length

/-- What a read round makes of a query's context, and whether a key was NaN: the entry nodes' round keys them, a walk's round expands what it
picked, the rerank round takes exact keys (R321, R323). -/
def QueryCtx.roundRead (x : VecIndex) (mem : List Host.Cell) (failed : List Nat) (c : QueryCtx) : QueryCtx × Bool :=
  if c.phase = 1 then c.round.foldl (fun s p => QueryCtx.entryNode x mem failed p.2 s) (c, false)
  else if c.phase = 2 then c.round.foldl (fun s p => QueryCtx.expand x mem failed p s) (c, false)
  else c.rerank x mem failed

/-- IDX_ERR after a round (R312, R321, R334). -/
def Dev.roundFlags (r : QueryCtx × Bool) (d : Dev) : Dev :=
  let d := if r.2 then d.flag Reg.IDX_ERR.nan_dist else d
  if r.1.visitedFull then d.flag Reg.IDX_ERR.visited_full else d

/-- Commands that may write memory: engine commands, session bytes, images, segments, masks, indexes, the pool, restores, and the resets,
which clear all but flash. -/
def mayWriteMemory : Instr → Bool
  | .sessionWorkComplete .. | .pageMigrationSwitch .. | .partLossRebuild .. | .restoreCommit .. | .headStepStart .. | .row .. | .data .. => true
  | .gemm .. | .gemmGated .. | .gemmGather .. | .norm .. | .rope .. | .elemwise .. | .attnFwd .. | .attnBwd .. | .kvAppend .. | .recur .. | .adapt .. => true
  | .commandComplete .. | .routeBuildDone .. | .coreStepStart .. | .refineIssue .. | .stepWatchdogExpiry .. | .stepBoundary .. | .imageLoad .. | .imageActivateTimer .. => true
  | .selJobDone .. | .maskReady .. | .mapDrainDone .. => true
  | .indexCreate .. | .indexDrop .. | .distTable .. | .queryRoundDone .. | .insertWritePhase .. | .repairSweep .. | .nodeSlotFree .. => true
  | .grantDestroy .. | .poolWrite .. | .poolFill .. | .poolCopy .. | .poolCompare .. | .poolReduce .. | .poolQueueRelease .. | .poolResponse .. => true
  | .publishWindowEnd .. | .codeMemberTimeout .. => true
  | .registerWrite .. | .regwrite .. | .powerOnReset .. | .resetN .. | .brownOut .. | .pwrCtrlReset .. | .recoveryLoad .. | .powerEntryComplete .. => true
  | .wakeEvent .. | .comparatorMatch .. | .vcorePgRise .. => true
  | _ => false

end Sys2Proof.Machine
end

