-- ==== Sys2Proof/Certificates/Slice0/Obligations.lean ====
section
/-!
DEFINITION. Certificates/Slice0/Obligations.lean: the statements about the block, for the provers. Those that speak of one command say under
which conditions on the state and the operands it answers which next state; what a state's other fields hold is then what they held before.
-/
open Sys2Proof Sys2Proof.Machine

/-! ### The block as a whole -/

/-- One step takes the command at the front of the queue and runs it with the queue's rest. -/
def Obligations.StepRunsFrontCommand : Prop :=
  ∀ (s : State) (c : Instr), step { s with pending := c :: s.pending } = exec c s

/-- MODEL'S CHOICE (log entry 1): on an empty queue the block only idles: Lens time and the Daymark move on by one tick of REFCLK, 10 ns,
40 ns in DEEP, none in OFF, and nothing else changes. -/
def Obligations.EmptyQueueTicks : Prop :=
  ∀ s : State, s.pending = [] → ∃ n, n ≤ 40 ∧
    step s = .next { s with dev := { s.dev with now := s.dev.now + n, daymark := wrap 64 (s.dev.daymark + n) } } ∧
    (s.dev.boot.phase = .run → n = 10) ∧ (s.dev.boot.phase = .asleep 3 → n = 40) ∧ (s.dev.boot.phase = .asleep 4 → n = 0)

/-- What the device holds right after a reset: no command waits, memory is empty, PWR_BOOT shows no mode yet, no master is owner and
nothing is committed.
Where it rests on the model's choices: log entries 3, 6. -/
def Obligations.ResetLeaves : Prop :=
  State.reset.pending = [] ∧ State.reset.mem = [] ∧ State.reset.dev.get Reg.PWR_BOOT.mode = 0 ∧ State.reset.dev.owner = 0 ∧
    State.reset.dev.debugLevel = 0 ∧ State.reset.dev.now = 0 ∧ State.reset.dev.fog = [] ∧ State.reset.dev.que = []

/-- Memory is in its canonical form at reset.
Where it rests on the model's choices: log entry 4. -/
def Obligations.ResetMemoryCanonical : Prop :=
  State.reset.safe

/-- Every step, from any state, keeps memory in its canonical form.
Where it rests on the model's choices: log entry 4. -/
def Obligations.StepKeepsMemoryCanonical : Prop :=
  ∀ s t : State, s.safe → step s = .next t → t.safe

/-- No command stops the block: each answers a next state, and leaves the waiting commands as they are.
Where it rests on the model's choices: log entries 10, 13. -/
def Obligations.EveryCommandAnswers : Prop :=
  ∀ (c : Instr) (s : State), ∃ t, exec c s = .next t ∧ t.pending = s.pending

/-! ### Register access -/

/-- R572: an access to an offset of BAR0 that lies in no window of the function's view reads as zero, and a write to it changes nothing;
neither is counted or reported. In recovery no window beyond 0x0004_FFFF is in the view (R520). -/
def Obligations.OutsideEveryWindow : Prop :=
  ∀ (s : State) (a : RegAccess) (v late : Nat), s.dev.answers = true → a.bar2 = false → (a.bytes = 4 ∨ a.bytes = 8) → a.off % a.bytes = 0 →
    (s.dev.visible a.master a.fn a.off = false →
      exec (.registerWrite a v late) s = .next s ∧ exec (.rcCounterRead a late) s = .next (s.after (s.dev.emit (.regValue a.off 0)))) ∧
    (s.dev.inRecovery = true → 0x00050000 ≤ a.off → s.dev.visible a.master a.fn a.off = false)

/-- What a write leaves in a field under each access code (R6, R7): RW and SH take the bits, each 1 clears a bit of a W1C field unless its
event comes in the same cycle (`late`), each 1 sets a bit of a W1S field, RWL takes the bits until the lock, RO and RC ignore the write; no
other field changes.
Where it rests on the model's choices: log entry 14. -/
def Obligations.FieldTakesWrite : Prop :=
  ∀ (f g : Fld) (v late : Nat) (d : Dev),
    (f.acc = .rw ∨ f.acc = .sh → (Dev.writeField v late d f).get f = fieldBits f v) ∧
    (f.acc = .w1c → (Dev.writeField v late d f).get f = wrap f.width (clearBits (d.get f) (fieldBits f v) ||| fieldBits f late)) ∧
    (f.acc = .w1s → (Dev.writeField v late d f).get f = wrap f.width (d.get f ||| fieldBits f v)) ∧
    (f.acc = .rwl → d.get Reg.GLB_LOCK.scratch_lock = 0 → (Dev.writeField v late d f).get f = fieldBits f v) ∧
    (f.acc = .rwl → d.get Reg.GLB_LOCK.scratch_lock = 1 → Dev.writeField v late d f = d) ∧
    (f.acc = .ro ∨ f.acc = .rc → Dev.writeField v late d f = d) ∧
    (f.key ≠ g.key → (Dev.writeField v late d f).get g = d.get g)

/-- The register rows complete: a write that its master may make is performed, by the owner or of an open register (R485, R492), and from any
other master is ignored and counted (R487); a register with no effect of its own takes its fields' bits; a function's own window and its
queues' doorbells are written from the function; a read answers the register's value, then clears its RC fields but for the events that came
during it, and latches an index epoch; a bad access answers Unsupported Request; the scratch lock is set, after a scratch write of the same
cycle.
Where it rests on the model's choices: log entries 14, 15, 17. -/
def Obligations.RegisterRowsComplete : Prop :=
  (∀ (s : State) (a : RegAccess) (v late w : Nat), s.dev.answers = true → a.bar2 = false → accessOk a.off a.bytes = true →
    s.dev.visible a.master a.fn a.off = true → w = wrap (8 * a.bytes) v → (a.off = 0x00020004 → fieldBits Reg.PWR_CTRL.reset w = 0) →
    (a.off = 0x0F000018 → fieldBits Reg.DBG_MEM_CTRL.go w = 0) →
    ((a.off < 0x01000000 ∨ 0x05000000 ≤ a.off) →
      (a.fn = .pf → s.dev.owner = a.master.code ∨ openWrite a.master a.off = true →
        exec (.registerWrite a v late) s = .next (s.after (s.dev.applyWrite a.master a.off w late))) ∧
      (a.fn = .pf → s.dev.owner ≠ a.master.code → openWrite a.master a.off = false →
        exec (.registerWrite a v late) s = .next (s.after (s.dev.bump Reg.OWN_DENIED.count 1))) ∧
      (∀ n, a.fn = .vf n → exec (.registerWrite a v late) s = .next (s.after (s.dev.applyWrite a.master a.off w late)))) ∧
    (∀ q, q < 16384 → s.dev.mayRing a.master a.fn q = true →
      (a.off = 0x01000000 + 0x1000 * q → exec (.registerWrite a v late) s = .next (s.after (s.dev.setTail q (w % 2 ^ 16)))) ∧
      (a.off = 0x01000004 + 0x1000 * q → exec (.registerWrite a v late) s = .next (s.after (s.dev.setHead q w))))) ∧
  (∀ (d : Dev) (m : Master) (o w late : Nat), openBits o = [] → d.ownEffect m o w late = none → lensWritten o = none →
    d.applyWrite m o w late = d.writeFields o w late) ∧
  (∀ (s : State) (a : RegAccess) (v late : Nat), s.dev.answers = true → a.bar2 = true → inMsix a.fn a.off = true → a.off % 4 = 0 → a.master ≠ .bmc →
    exec (.registerWrite a v late) s = .next { s with dev := { s.dev with bar2 := Tab.put (bar2Key a.master a.fn a.off) (wrap 32 v) s.dev.bar2 } }) ∧
  (∀ (s : State) (a : RegAccess) (late : Nat) (d : Dev), s.dev.answers = true → a.bar2 = false → accessOk a.off a.bytes = true →
    s.dev.visible a.master a.fn a.off = true → d = s.dev.stir a.off →
    exec (.rcCounterRead a late) s = .next (s.after ((d.emit (.regValue a.off (d.regValue a.master.code a.off))).afterRead a.off late))) ∧
  (∀ (s : State) (a : RegAccess) (n : Nat) (x : VecIndex), s.dev.answers = true → a.bar2 = false → a.bytes = 4 → a.fn = .pf → s.dev.inRecovery = false →
    n < 64 → a.off = 0x06400104 + 16 * n → accessOk a.off 4 = true → s.dev.visible a.master .pf a.off = true → Tab.look n s.dev.idx.idx = some x →
    ∃ t, exec (.idxEpochRead a) s = .next t ∧ t.dev.out = .regValue a.off (s.dev.regValue a.master.code a.off) :: s.dev.out ∧
      Tab.look n t.dev.idxLatch = some (wrap 16 (x.epoch / 2 ^ 32))) ∧
  (∀ (s : State) (a : RegAccess) (w : Bool), s.dev.answers = true → a.bar2 = false → s.dev.takes a.master a.fn a.off a.bytes = false →
    exec (.bar0BadAccess a w) s = .next (s.after (s.dev.emit (.unsupportedRequest a.off)))) ∧
  (∀ (s : State) (m : Master), s.dev.answers = true → s.dev.owner = m.code →
    exec (.glbScratchLock m none) s = .next (s.after (s.dev.put Reg.GLB_LOCK.scratch_lock 1)) ∧
    (∀ n v, n < 8 → s.dev.get Reg.GLB_LOCK.scratch_lock = 0 →
      exec (.glbScratchLock m (some (n, v))) s =
        .next (s.after ((s.dev.put (Reg.GLB_SCRATCH.value n) (fieldBits (Reg.GLB_SCRATCH.value n) v)).put Reg.GLB_LOCK.scratch_lock 1))))

/-! ### Commits and the session query -/

/-- The commit rows complete: the owner's commit captures the block's SH fields into a pending set, in place of one that waits, and the
fields' committed values stay as they are until the set's commit point.
A share commit with no previous map held takes effect at once: the committed shares are the fields' values.
The fallback of a commit (R385) and the session query (R84) complete: a set of SEL that has waited 1 ms takes effect; go starts a
query, during which a second go is ignored; and its end leaves ST_SES_UNKNOWN, or ST_OK with the Buoy's bytes.
Where it rests on the model's choices: log entries 12, 18. -/
def Obligations.CommitsComplete : Prop :=
  (∀ (s : State) (m : Master) (t : Nat), s.dev.serving = true → s.dev.owner = m.code →
       (exec (.sesCommit m t) s = .next (s.after { s.dev.advance t with
         pends := s.dev.pends.filter (fun p => p.block != Blk.ses) ++ [⟨Blk.ses, max s.dev.now t, sesShadow.map (fun f => (f.key, s.dev.get f))⟩] })) ∧
       (exec (.selCommit m t) s = .next (s.after { s.dev.advance t with
         pends := s.dev.pends.filter (fun p => p.block != Blk.sel) ++ [⟨Blk.sel, max s.dev.now t, selShadow.map (fun f => (f.key, s.dev.get f))⟩] })) ∧
       (exec (.idxCommit m t) s = .next (s.after { s.dev.advance t with
         pends := s.dev.pends.filter (fun p => p.block != Blk.idx) ++ [⟨Blk.idx, max s.dev.now t, idxShadow.map (fun f => (f.key, s.dev.get f))⟩] })) ∧
       (s.dev.comp.prev.isSome = true → exec (.sctCommit m t) s = .next (s.after { s.dev.advance t with
         pends := s.dev.pends.filter (fun p => p.block != Blk.sct) ++ [⟨Blk.sct, max s.dev.now t, sctShadow.map (fun f => (f.key, s.dev.get f))⟩] })) ∧
       (∃ u, exec (.lensCommit m t) s = .next u ∧ u.dev.committed = s.dev.committed ∧
         u.dev.pends = s.dev.pends.filter (fun p => p.block != Blk.lens) ++
           [⟨Blk.lens, max s.dev.now t, (Reg.LENS_CFG.slot_w :: s.dev.lens.changed.eraseDups.flatMap lensShadow).map (fun f => (f.key, s.dev.get f))⟩]) ∧
       (∀ core v, core < 32 → ∃ u, exec (.coreSeqCfgWrite m core v t) s = .next u ∧ u.dev.committed = s.dev.committed ∧
         u.dev.get (Reg.CORE_SEQ_CFG.refine_enable core) = v % 2 ∧ u.dev.get (Reg.CORE_SEQ_CFG.step_timeout core) = wrap 16 (v / 65536) ∧
         u.dev.pends = s.dev.pends.filter (fun p => p.block != 0x100 + core) ++
           [⟨0x100 + core, max s.dev.now t, [((Reg.CORE_SEQ_CFG.step_timeout core).key, wrap 16 (v / 65536))]⟩])) ∧
  (∀ (s : State) (m : Master) (t : Nat), s.dev.serving = true → s.dev.owner = m.code → s.dev.comp.prev = none →
       ∃ u, exec (.sctCommit m t) s = .next u ∧ u.dev.pends = s.dev.pends.filter (fun p => p.block != Blk.sct) ∧
         (∀ n, n < 16 → u.dev.com (Reg.SCT_BW.stack n) = s.dev.get (Reg.SCT_BW.stack n) ∧ u.dev.com (Reg.SCT_BW2.pcie n) = s.dev.get (Reg.SCT_BW2.pcie n))) ∧
  ((∀ (s : State) (t : Nat) (p : PendSet), s.dev.serving = true → s.dev.pends = [p] → p.block = Blk.sel → p.at_ + 1000000 ≤ max s.dev.now t →
       exec (.commitFallbackTimer t) s =
         .next (s.after (p.vals.foldl (fun d v => d.setCom v.1 v.2) { s.dev.advance t with pends := [] }))) ∧
     (∀ (s : State) (m : Master), s.dev.serving = true → s.dev.owner = m.code →
       (s.dev.get Reg.SES_QRY_STATUS.done = 1 → ∃ t, exec (.sesQueryGo m) s = .next t ∧ t.dev.get Reg.SES_QRY_STATUS.done = 0 ∧
         t.dev.ses.query = some (s.dev.get Reg.SES_QRY_SID.session_id)) ∧
       (s.dev.get Reg.SES_QRY_STATUS.done = 0 → exec (.sesQueryGo m) s = .next s)) ∧
     (∀ (s : State) (sid : Nat), s.dev.serving = true → s.dev.ses.query = some sid → s.dev.buoy sid = none →
       ∃ t, exec .sesQueryDone s = .next t ∧ t.dev.get Reg.SES_QRY_STATUS.done = 1 ∧ t.dev.get Reg.SES_QRY_STATUS.status = ST.SES_UNKNOWN ∧
         t.dev.ses.query = none) ∧
     (∀ (s : State) (sid : Nat) (b : Buoy), s.dev.serving = true → s.dev.ses.query = some sid → s.dev.buoy sid = some b → b.bad = false →
       ∃ t, exec .sesQueryDone s = .next t ∧ t.dev.get Reg.SES_QRY_STATUS.done = 1 ∧ t.dev.get Reg.SES_QRY_STATUS.status = ST.OK ∧
         t.dev.ses.query = none ∧
         (∀ n, n < 16 → t.dev.get (Reg.SES_QRY_DATA.bytes n) = leNat (((buoyBytes b).drop (4 * n)).take 4))))

/-! ### Session commands -/

/-- The session commands complete at HEAD: one that passes the checks of R90 is accepted, as its opcode has it; a revive that has to wait is
accepted while the pending list has room (R106), and the claim decides MOVE_COMMIT and MOVE_ABORT (R120).
A session command that fails a check of R90 completes with the first failing check's status and has no other effect; so does a commit
whose claim is not CLAIMED, and an abort whose claim is (R90, R120); a revive that would wait where the pending list is full completes with
ST_SES_REVFULL and sets SES_MOV_ERR.pending_full (R106, R125); one on a chip other than HEAD completes with ST_SES_NOTHEAD (R89).
Where it rests on the model's choices: log entries 11, 20, 23. -/
def Obligations.SessionCommandsComplete : Prop :=
  (∀ (s : State) (c : SesCmd) (e : Ent) (d : Dev) (b : Buoy), s.dev.serving = true → s.dev.fetch 0 64 c.hdr = some (e, d) → d.isHead = true →
       d.buoy c.sid = some b → b.bad = false →
       (d.checkCmd 0x20 c (d.entSector e) = ST.OK → exec (.parkWarm c) s = .next (s.after (d.acceptedCommand 0x20 c e b))) ∧
       (d.checkCmd 0x21 c (d.entSector e) = ST.OK → exec (.parkCold c) s = .next (s.after (d.acceptedCommand 0x21 c e b))) ∧
       (d.checkCmd 0x22 c (d.entSector e) = ST.OK →
         ((d.slotFree (slotFor 0x22 b.state) = true ∧ d.leaveOut c.sid = false ∧ d.reviveHas c.sid = true) ∨ d.pendingRevives < d.get Reg.SES_MOV_LIM.pending_m1 + 1) →
         exec (.revive c) s = .next (s.after (d.acceptedCommand 0x22 c e b))) ∧
       (d.checkCmd 0x23 c (d.entSector e) = ST.OK → exec (.moveOut c) s = .next (s.after (d.acceptedCommand 0x23 c e b))) ∧
       (∀ r, d.checkCmd 0x25 c (d.entSector e) = ST.OK → Tab.look c.sid d.ses.records = some r → r.claim = 1 →
         exec (.moveCommit c) s = .next (s.after (d.acceptedCommand 0x25 c e b))) ∧
       (∀ r, d.checkCmd 0x26 c (d.entSector e) = ST.OK → Tab.look c.sid d.ses.records = some r → r.claim ≠ 1 →
         exec (.moveAbort c) s = .next (s.after (Dev.acceptedCommand 0x26 c e b
           { (d.flag Reg.SES_MOV_ERR.move_aborted) with ses := { d.ses with records := Tab.upd c.sid (fun r => { r with claim := 2 }) d.ses.records } }))) ∧
       (d.checkCmd 0x27 c (d.entSector e) = ST.OK → exec (.drop c) s = .next (s.after (d.acceptedCommand 0x27 c e b)))) ∧
  (∀ (s : State) (c : SesCmd) (e : Ent) (d : Dev), s.dev.serving = true → s.dev.fetch 0 64 c.hdr = some (e, d) →
       (d.isHead = false →
         (∀ i ∈ [Instr.parkWarm c, .parkCold c, .revive c, .moveOut c, .moveCommit c, .moveAbort c, .drop c],
           exec i s = .next (s.after (d.complete e ST.SES_NOTHEAD 0)))) ∧
       (d.isHead = true → (∀ b, d.buoy c.sid = some b → b.bad = false) →
         (∀ p ∈ [(0x20, Instr.parkWarm c), (0x21, .parkCold c), (0x22, .revive c), (0x23, .moveOut c), (0x25, .moveCommit c), (0x26, .moveAbort c), (0x27, .drop c)],
           d.checkCmd p.1 c (d.entSector e) ≠ ST.OK → exec p.2 s = .next (s.after (d.complete e (d.checkCmd p.1 c (d.entSector e)) 0))) ∧
         (∀ r, Tab.look c.sid d.ses.records = some r →
           (d.checkCmd 0x25 c (d.entSector e) = ST.OK → r.claim ≠ 1 → exec (.moveCommit c) s = .next (s.after (d.complete e ST.SES_BADSTATE 0))) ∧
           (d.checkCmd 0x26 c (d.entSector e) = ST.OK → r.claim = 1 → exec (.moveAbort c) s = .next (s.after (d.complete e ST.SES_CLAIMED 0)))) ∧
         (∀ b, d.buoy c.sid = some b → d.checkCmd 0x22 c (d.entSector e) = ST.OK → d.get Reg.SES_MOV_LIM.pending_m1 + 1 ≤ d.pendingRevives →
           (d.slotFree (slotFor 0x22 b.state) = false ∨ d.leaveOut c.sid = true ∨ d.reviveHas c.sid = false) →
           exec (.revive c) s = .next (s.after ((d.flag Reg.SES_MOV_ERR.pending_full).complete e ST.SES_REVFULL 0)))))

/-- The order of the checks of R90 on a session that HEAD holds: the session's Sector, busy, generation, state, placement, move handle.
Where it rests on the model's choices: log entry 20. -/
def Obligations.SessionChecksInOrder : Prop :=
  ∀ (d : Dev) (op : Nat) (c : SesCmd) (q : Option Nat), op ∈ [0x20, 0x21, 0x22, 0x23, 0x25, 0x26, 0x27] →
    (d.buoy c.sid = none → d.checkCmd op c q = ST.SES_UNKNOWN) ∧
    (∀ b n, d.buoy c.sid = some b → q = some n → (d.rangeSector c.sid ≠ some n ∨ b.sector ≠ n) → d.checkCmd op c q = ST.SES_UNKNOWN) ∧
    (∀ b, d.buoy c.sid = some b → (q = none ∨ (q = some b.sector ∧ d.rangeSector c.sid = some b.sector)) →
      (d.busyNow c.sid = true → d.checkCmd op c q = ST.SES_BUSY) ∧
      (d.busyNow c.sid = false → c.checkGen = true → c.expectGen ≠ b.gen → d.checkCmd op c q = ST.SES_GENMISMATCH) ∧
      (d.busyNow c.sid = false → (c.checkGen = false ∨ c.expectGen = b.gen) →
        (acceptsState op b.state = false → d.checkCmd op c q = ST.SES_BADSTATE) ∧
        (acceptsState op b.state = true → op ≠ 0x25 → op ≠ 0x26 →
          (c.explicit = true → ((op = 0x20 ∧ placeTier c.placement ≠ some 1) ∨ (op = 0x21 ∧ placeTier c.placement ≠ some 2) ∨
              (op = 0x22 ∧ placeTier c.placement ≠ some 0 ∧ placeTier c.placement ≠ some 1)) → d.checkCmd op c q = ST.SES_PLACEMENT) ∧
          ((c.explicit = false ∨ op = 0x23 ∨ op = 0x27) → d.checkCmd op c q = ST.OK)) ∧
        (∀ r, acceptsState op b.state = true → (op = 0x25 ∨ op = 0x26) → Tab.look c.sid d.ses.records = some r →
          d.checkCmd op c q = if c.handleGroup = d.groupId ∧ c.handleChip = d.chipId ∧ c.handleSeq = r.seq then ST.OK else ST.SES_NOMOVE)))

/-- An accepted park, move or drop holds its session busy, with its code in pending_op; its state and generation stay (R47).
Where it rests on the model's choices: log entry 20. -/
def Obligations.AcceptedIsBusy : Prop :=
  ∀ (op : Nat) (c : SesCmd) (e : Option Ent) (first : Bool) (d : Dev) (b : Buoy), op ≠ 0x22 → d.buoy c.sid = some b →
    (d.accept op c e first).1 = true ∧ (d.accept op c e first).2.busyNow c.sid = true ∧
    ∃ b', (d.accept op c e first).2.buoy c.sid = some b' ∧ b'.busy = true ∧ b'.pendingOp = pendingCode op ∧ b'.state = b.state ∧ b'.gen = b.gen

/-- MOVE_IN, slot admission and the timed parks complete: a MOVE_IN whose record passes the checks allocates HEAD's Buoy and is accepted (R119);
the first work that waits takes the slot that is free (R106); a session whose warm_delay or cold_delay has passed is parked (R232).
Where it rests on the model's choices: log entries 12, 22, 23, 44. -/
def Obligations.MoveInAndTimedParks : Prop :=
  (∀ (s : State) (c : SesCmd) (record : Option MoveRecord) (x : Option MoveManifest) (pick n : Nat) (e : Ent) (d : Dev), s.dev.serving = true →
    s.dev.fetch 0 64 c.hdr = some (e, d) → d.isHead = true → d.rangeSector c.sid = some n → (d.entSector e = none ∨ d.entSector e = some n) →
    d.busyNow c.sid = false → d.buoy c.sid = none → (c.explicit = true → placeTier c.placement = some (if c.cold then 2 else 1)) →
    (d.moveInRecord c n record = ST.OK → d.buoyRoom n = true →
      exec (.moveIn c record x pick) s = .next (s.after
        ((d.allocInbound c.sid n pick).acceptWith (fun o => { o with allocated := true, inbound := x, record := record }) 0x24 c (some e) false).2)) ∧
    (d.moveInRecord c n record ≠ ST.OK → exec (.moveIn c record x pick) s = .next (s.after (d.complete e (d.moveInRecord c n record) 0)))) ∧
  (∀ (s : State) (t sid : Nat) (o : SesOp), s.dev.serving = true → s.dev.ses.ops = [(sid, o)] →
    ((s.dev.advance t).nextWork .cold = some sid →
      exec (.sessionSlotAdmit t) s = .next (s.after (Dev.admitKind .warm 1 ((Dev.turnRr sid (s.dev.advance t)).startOp sid)))) ∧
    ((s.dev.advance t).nextWork .cold = none → (s.dev.advance t).nextWork .warm = some sid →
      exec (.sessionSlotAdmit t) s = .next (s.after ((Dev.turnRr sid (s.dev.advance t)).startOp sid)))) ∧
  (∀ (s : State) (sid t : Nat) (a : ParkArm) (b : Buoy), s.dev.serving = true → Tab.look sid s.dev.srv.arms = some a → s.dev.buoy sid = some b →
    s.dev.isHead = true → a.hint = 0 → b.state = 3 → s.dev.turnOf sid = none → s.dev.get (Reg.SES_SRV_PARK.warm_delay b.sector) ≠ 0xFFFF →
    a.since + 1000000 * s.dev.get (Reg.SES_SRV_PARK.warm_delay b.sector) ≤ (s.dev.advance t).daymark →
    exec (.warmParkTimer sid t) s = .next (s.after ((s.dev.advance t).parkNow 0x20 sid))) ∧
  (∀ (s : State) (sid t : Nat) (a : ParkArm), s.dev.serving = true → s.dev.isHead = true → s.dev.srv.arms = [(sid, a)] →
    (s.dev.advance t).coldDue sid = true → exec (.coldParkCheck t) s = .next (s.after ((s.dev.advance t).parkNow 0x21 sid)))

/-! ### Session control messages -/

/-- PREPARE and GO complete. At HEAD a PREPARE that comes back well sends GO, one short of stack space makes a PARK_WARM go on as a PARK_COLD,
and any other failure sends CANCEL; another chip that accepts it marks its Buoy busy, reserves and forwards, and one that refuses it records its
status and forwards. On GO a chip forwards first and then begins its work; at HEAD the pass has returned (R91, R94).
A message that a chip has handled already is forwarded again and changes nothing (R97): as it forwarded it before, where its operation is
still kept, or as it came.
Where it rests on the model's choices: log entries 21, 22. -/
def Obligations.SessionPassesComplete : Prop :=
  ((∀ (s : State) (m : SesMsg) (x : Option MoveManifest) (pick : Nat) (o : SesOp), s.dev.serving = true → s.dev.isHead = true →
       s.dev.op m.sid = some o → o.seq = m.seq → o.pass = .prepare → o.coldFallback = m.coldFallback →
       (m.status = ST.OK → exec (.prepare m x pick) s = .next (s.after (s.dev.sendGo m.sid))) ∧
       (m.status = ST.SES_NOSTACK → o.opcode = 0x20 → o.coldFallback = false → exec (.prepare m x pick) s = .next (s.after
         ((s.dev.opUpd m.sid (fun o => { o with coldFallback := true, plan := [] })).sendPrepare m.sid))) ∧
       (m.status ≠ ST.OK → (m.status = ST.SES_NOSTACK → o.opcode ≠ 0x20 ∨ o.coldFallback = true) →
         exec (.prepare m x pick) s = .next (s.after (s.dev.sendCancel m.sid m.status)))) ∧
     (∀ (s : State) (m : SesMsg) (x : Option MoveManifest) (pick : Nat) (b : Buoy), s.dev.serving = true → s.dev.isHead = false →
       s.dev.ses.handled.contains (msgMark m) = false → s.dev.buoy m.sid = some b → b.bad = false → s.dev.op m.sid = none → m.opcode ≠ 0x24 →
       (s.dev.prepareCheck m = ST.OK → exec (.prepare m x pick) s = .next (s.after (Dev.prepareReserve m
         (let d : Dev := s.dev.buoyUpd m.sid (fun b => { b with busy := true, pendingOp := pendingCode m.opcode })
          { d with ses := { d.ses with ops := Tab.put m.sid (chipOp m none b.state d.now) d.ses.ops } })))) ∧
       (s.dev.prepareCheck m ≠ ST.OK → exec (.prepare m x pick) s = .next (s.after
         (s.dev.forward (noteFail (s.dev.prepareCheck m) s.dev.position 0 m))))) ∧
     (∀ (s : State) (m : SesMsg) (x : Option MoveManifest) (pick n : Nat), s.dev.serving = true → s.dev.isHead = false →
       s.dev.ses.handled.contains (msgMark m) = false → s.dev.buoy m.sid = none → s.dev.op m.sid = none → m.opcode = 0x24 →
       s.dev.rangeSector m.sid = some n → s.dev.buoyRoom n = true →
       exec (.prepare m x pick) s = .next (s.after (Dev.prepareReserve m
         (let d : Dev := s.dev.allocInbound m.sid n pick
          { d with ses := { d.ses with ops := Tab.put m.sid (chipOp m x 6 d.now) d.ses.ops } })))) ∧
     (∀ (s : State) (m : SesMsg) (o : SesOp), s.dev.serving = true → s.dev.isHead = false → s.dev.ses.handled.contains (msgMark m) = false →
       s.dev.op m.sid = some o → o.seq = m.seq →
       exec (.go m) s = .next (s.after ((s.dev.forward m).opUpd m.sid (fun o => if o.seq = m.seq then { o with pass := .go, working := true } else o)))) ∧
     (∀ (s : State) (m : SesMsg) (o : SesOp), s.dev.serving = true → s.dev.isHead = true → s.dev.op m.sid = some o → o.seq = m.seq →
       exec (.go m) s = .next (s.after (s.dev.opUpd m.sid (fun o => if o.pass == .go then { o with returned := true } else { o with goMsg := none }))))) ∧
  (∀ (s : State) (m : SesMsg), s.dev.serving = true → s.dev.isHead = false → s.dev.ses.handled.contains (msgMark m) = true →
       ∀ i ∈ [Instr.prepare m none 0, .go m, .done m 0, .sesCancel m, .lose m, .final m],
         (∀ o, s.dev.op m.sid = some o → o.seq = m.seq → msgMark o.msg = msgMark m → exec i s = .next (s.after (s.dev.emit (.sesMsg o.msg)))) ∧
         ((∀ o, s.dev.op m.sid = some o → o.seq = m.seq → msgMark o.msg ≠ msgMark m) → exec i s = .next (s.after (s.dev.emit (.sesMsg m)))))

/-- The later messages of a command complete. At HEAD a DONE that came back well ends the operation, and one that did not sends LOSE; an inbound
move claims the record and sends FINAL, or CANCEL where its work failed or the claim was refused; CANCEL, LOSE and FINAL end the operation with
their status. Another chip releases, loses or commits its part and forwards; DONE waits for its work (R94, R95, R119).
Resends, the failure of a pass, page moves, lost parts and a chip's work complete. A message goes out again at its time, the first time
with coord_resend and a report (R97); a pass that failed at PREPARE or CANCEL ends the operation, and a later one completes the command and
stops (R98); a page that may move is copied and switched (R62, R110); a lost part is rebuilt from a copy, or loses the session (R107, R112 to
R114); a chip's work moves the parts and leaves the state of its command (R94).
Where it rests on the model's choices: log entries 12, 25, 26. -/
def Obligations.SessionEndsAndMoves : Prop :=
  ((∀ (s : State) (m : SesMsg) (claim : Nat) (o : SesOp), s.dev.serving = true → s.dev.isHead = true → s.dev.op m.sid = some o → o.seq = m.seq →
       o.pass = .done →
       (o.opcode ≠ 0x24 →
         (m.status = ST.OK → exec (.done m claim) s = .next (s.after (s.dev.finishOp m.sid ST.OK (s.dev.opResult m.sid o)))) ∧
         (m.status ≠ ST.OK → exec (.done m claim) s = .next (s.after (s.dev.sendLose m.sid)))) ∧
       (o.opcode = 0x24 →
         (m.status ≠ ST.OK → exec (.done m claim) s = .next (s.after ((s.dev.flag Reg.SES_MOV_ERR.move_aborted).sendCancel m.sid m.status))) ∧
         (m.status = ST.OK → claim = 0 → exec (.done m claim) s = .next (s.after ((s.dev.claimOut o).sendFinal m.sid))) ∧
         (m.status = ST.OK → claim = 1 → exec (.done m claim) s = .next (s.after ((s.dev.claimOut o).sendCancel m.sid ST.SES_CLAIMED))) ∧
         (m.status = ST.OK → claim = 2 →
           exec (.done m claim) s = .next (s.after (((s.dev.claimOut o).flag Reg.SES_MOV_ERR.move_aborted).sendCancel m.sid ST.SES_ABORTED))))) ∧
     (∀ (s : State) (m : SesMsg) (o : SesOp), s.dev.serving = true → s.dev.isHead = true → s.dev.op m.sid = some o → o.seq = m.seq →
       (o.pass = .cancel → exec (.sesCancel m) s = .next (s.after ((s.dev.releaseOp m.sid o).finishOp m.sid o.fail 0))) ∧
       (o.pass = .lose → exec (.lose m) s = .next (s.after (s.dev.finishOp m.sid ST.SES_LOST 0))) ∧
       (o.pass = .final → exec (.final m) s = .next (s.after (s.dev.finishOp m.sid ST.OK 0)))) ∧
     (∀ (s : State) (m : SesMsg) (o : SesOp) (b : Buoy), s.dev.serving = true → s.dev.isHead = false → s.dev.ses.handled.contains (msgMark m) = false →
       s.dev.op m.sid = some o → o.seq = m.seq → s.dev.buoy m.sid = some b →
       (o.committed = true → exec (.done m 0) s = .next (s.after (s.dev.passDone m))) ∧
       (o.committed = false → exec (.done m 0) s = .next (s.after (s.dev.opUpd m.sid (fun o => { o with doneMsg := some m, pass := .done })))) ∧
       exec (.sesCancel m) s = .next (s.after (((s.dev.releaseOp m.sid o).opDel m.sid).forward m)) ∧
       exec (.lose m) s = .next (s.after (((s.dev.loseSession m.sid).opDel m.sid).forward m)) ∧
       exec (.final m) s = .next (s.after (((s.dev.commitFinal m.sid).opDel m.sid).forward m)))) ∧
  ((∀ (s : State) (sid t : Nat) (o : SesOp), s.dev.serving = true → s.dev.isHead = true → s.dev.op sid = some o → o.pass ≠ .waiting →
       o.stopped = false → o.returned = false → o.goMsg = none → o.resends < 100 → o.sentAt + 1000000 * (10 * (o.resends + 1)) ≤ max s.dev.now t →
       exec (.sessionMsgResend sid t) s = .next (s.after
         (((if o.resends = 0 then ((s.dev.advance t).flag Reg.SES_MOV_ERR.coord_resend).reportKeeper (s.dev.sectorOf sid) ST.SES_COORD else s.dev.advance t).opUpd sid
           (fun x => { x with resends := o.resends + 1 })).emit (.sesMsg o.msg)))) ∧
     (∀ (s : State) (sid t : Nat) (o : SesOp) (d : Dev), s.dev.serving = true → s.dev.isHead = true → s.dev.op sid = some o → o.stopped = false →
       o.returned = false → o.resends = 100 → o.sentAt + 1010000000 < max s.dev.now t →
       d = ((s.dev.advance t).flag Reg.SES_MOV_ERR.coord_fail).report ⟨conditionId (s.dev.sectorOf sid) ST.SES_COORD, 2, 1, s.dev.keeperNo⟩ →
       (o.pass = .prepare ∨ o.pass = .cancel → exec (.coordPassFail sid t) s = .next (s.after
         (((({ d with ses := { d.ses with keptCancels := d.ses.keptCancels ++ [o.mkMsg sid 4 o.gen ST.OK 0 0 o.msg.aux] } } : Dev).coordTurn sid).releaseOp sid o).finishOp
           sid ST.SES_COORD 0))) ∧
       (o.pass = .go ∨ o.pass = .done ∨ o.pass = .lose ∨ o.pass = .final → o.coordFailed = false → exec (.coordPassFail sid t) s = .next (s.after
         (((d.completeOpt o.ent ST.SES_COORD 0).opUpd sid (fun o => { o with coordFailed := true, stopped := true, holds := false })).coordTurn sid)))) ∧
     (∀ (s : State) (sid stream ordinal a : Nat) (dest : Loc) (b : Buoy) (m : Moor) (p : Page), s.dev.serving = true → s.dev.buoy sid = some b →
       s.dev.moor sid = some m → m.pages.find? (fun p => p.stream == stream && p.ordinal == ordinal) = some p →
       s.dev.partAddr sid .kv (kvOffset m.lps stream ordinal) = some a → s.dev.mayMigrate b m p dest = true →
       exec (.pageMigrationStart sid stream ordinal dest) s =
         .next (s.after (s.dev.moorUpd sid (fun m => { m with migrating := Tab.put (pageKey stream ordinal) dest m.migrating })))) ∧
     (∀ (s : State) (sid stream ordinal : Nat) (verified : Bool) (m : Moor) (dest : Loc), s.dev.serving = true → s.dev.moor sid = some m →
       Tab.look (pageKey stream ordinal) m.migrating = some dest →
       exec (.pageMigrationSwitch sid stream ordinal verified) s =
         .next (s.afterBoth (moveBytes sid s.dev (s.dev.switchPage sid stream ordinal verified) s.mem,
           Dev.countMoves sid s.dev (s.dev.switchPage sid stream ordinal verified)))) ∧
     (∀ (s : State) (sid : Nat) (b : Buoy) (m : Moor) (coded : Option CodedBytes), s.dev.serving = true → s.dev.buoy sid = some b → s.dev.moor sid = some m →
       (∀ c, b.state ≠ 1 → s.dev.turnOf sid = none → pickCopy m coded b.ctx b.ctx true = some c → (s.dev.rebuild sid c.1 []).1 = true →
         exec (.partLossRebuild sid (.here coded)) s =
           .next (s.afterBoth (rebuiltBytes sid c.1 c.2 (s.dev.rebuild sid c.1 []).2 s.mem, (s.dev.rebuild sid c.1 []).2))) ∧
       (b.state ≠ 1 → s.dev.turnOf sid = none → pickCopy m coded b.ctx b.ctx true = none →
         exec (.partLossRebuild sid (.here coded)) s = .next (s.after (s.dev.lostTier sid))) ∧
       (∀ c w, s.dev.isHead = true → s.dev.turnOf sid = some w → w.log.length ≤ 1048576 → pickCopy m coded m.startCtx b.ctx false = some c →
         (s.dev.rebuild sid c.1 []).1 = true → exec (.partLossRebuild sid (.here coded)) s =
           .next (s.afterBoth (rebuiltBytes sid c.1 c.2 (s.dev.rebuild sid c.1 []).2 s.mem,
             (s.dev.rebuild sid c.1 []).2.replayTurn sid m.startCtx c.1.ctx b.ctx 0))) ∧
       (∀ c w, s.dev.isHead = true → s.dev.turnOf sid = some w → w.log.length ≤ 1048576 →
         exec (.partLossRebuild sid (.elsewhere (some c))) s = .next (s.after (s.dev.replayTurn sid m.startCtx c b.ctx (b.ctx - c)))) ∧
       (s.dev.isHead = true → exec (.partLossRebuild sid (.elsewhere none)) s = .next (s.after (s.dev.lostTier sid)))) ∧
     (∀ (s : State) (sid : Nat) (r : WorkResult) (o : SesOp) (w : Nat × List Host.Cell × Dev) (d : Dev), s.dev.serving = true → s.dev.op sid = some o →
       o.working = true → o.committed = false → Tab.look sid s.dev.pool.coded = none → ((o.opcode = 0x20 ∨ o.opcode = 0x21) → s.dev.codingOn = false) →
       w = s.dev.workStatus sid o r s.mem → w.1 = ST.OK →
       d = w.2.2.commitWork sid o r w.2.1 (w.2.2.moveDest sid).1 (w.2.2.moveDest sid).2 →
       ∃ k : Dev, exec (.sessionWorkComplete sid r) s = .next (s.afterBoth (workBytes sid o w.2.2 d w.2.1, Dev.countMoves sid s.dev
           (if k.isHead then k.sendDone sid ST.OK else match o.doneMsg with | some m => k.passDone m | none => k))) ∧
         k.ses.buoys = d.ses.buoys ∧ k.ses.moors = d.ses.moors ∧ k.op sid = (d.op sid).map (fun o =>
           { o with committed := true, working := false, fail := ST.OK, moved := w.2.2.unitsMoved sid d, plan := [] })))

/-- The state a chip's work leaves its session in, with the generation one further (R45, R87): PARK_WARM in PARKED_WARM, PARK_COLD in
PARKED_COLD, REVIVE in READY at a HEAD whose turn waits and in WAITING otherwise, MOVE_OUT in MOVING, MOVE_COMMIT in REMOTE with the
destination's group and chip, MOVE_ABORT in the state the move began from; DROP leaves no Buoy.
Where it rests on the model's choices: log entry 26. -/
def Obligations.WorkLeavesState : Prop :=
  ∀ (sid : Nat) (o : SesOp) (r : WorkResult) (same : Bool × Bool) (mem : List Host.Cell) (d : Dev) (b : Buoy) (m : Moor), d.buoy sid = some b → d.moor sid = some m →
    (∃ b', (d.workParkWarm sid o r same).buoy sid = some b' ∧ b'.state = 4 ∧ b'.gen = wrap 16 (b.gen + 1)) ∧
    (∃ b', (d.workParkCold sid o same).buoy sid = some b' ∧ b'.state = 5 ∧ b'.gen = wrap 16 (b.gen + 1)) ∧
    (∃ b', (d.workRevive sid o).buoy sid = some b' ∧ b'.gen = wrap 16 (b.gen + 1) ∧
      b'.state = if d.isHead && (d.turnOf sid).isSome then 2 else 3) ∧
    (∃ b', (d.workMoveOut sid o mem).buoy sid = some b' ∧ b'.state = 6 ∧ b'.gen = wrap 16 (b.gen + 1)) ∧
    (∀ g c, ∃ b', (d.workMoveCommit sid g c).buoy sid = some b' ∧ b'.state = 7 ∧ b'.remGroup = g ∧ b'.remChip = c ∧ b'.gen = wrap 16 (b.gen + 1)) ∧
    (∀ x, Tab.look sid d.ses.records = some x → ∃ b', (d.workMoveAbort sid).buoy sid = some b' ∧ b'.state = x.fromState ∧ b'.gen = wrap 16 (b.gen + 1)) ∧
    (d.workDrop sid).buoy sid = none

/-! ### Engine commands -/

/-- Every engine command completes: the head of the list that may issue runs under its opcode (R142), and its results, flags and record
stand.
The attention commands and KV_APPEND complete in the same way, whatever pages fail and whatever copies are under way.
Where it rests on the model's choices: log entries 30, 31, 32. -/
def Obligations.EngineListRuns : Prop :=
  (∀ (s : State) (core img : Nat) (i : Issue) (x : EngCtx), s.dev.serving = true → s.dev.headRuns core img i → x = s.dev.issueCtx core img i →
       (i.cmd.opcode = 0x01 → exec (.gemm core img) s = .next (s.afterBoth (s.dev.engineRan core img i (plainBody EngCtx.gemm x i.cmd s.mem s.dev)))) ∧
       (i.cmd.opcode = 0x02 → exec (.gemmGated core img) s = .next (s.afterBoth (s.dev.engineRan core img i (plainBody EngCtx.gemmGated x i.cmd s.mem s.dev)))) ∧
       (i.cmd.opcode = 0x03 → exec (.gemmGather core img) s = .next (s.afterBoth (s.dev.engineRan core img i (plainBody EngCtx.gemmGather x i.cmd s.mem s.dev)))) ∧
       (i.cmd.opcode = 0x08 → exec (.norm core img) s = .next (s.afterBoth (s.dev.engineRan core img i (plainBody EngCtx.norm x i.cmd s.mem s.dev)))) ∧
       (i.cmd.opcode = 0x09 → exec (.rope core img) s = .next (s.afterBoth (s.dev.engineRan core img i (plainBody EngCtx.rope x i.cmd s.mem s.dev)))) ∧
       (i.cmd.opcode = 0x0A → exec (.elemwise core img) s = .next (s.afterBoth (s.dev.engineRan core img i (plainBody EngCtx.elemwise x i.cmd s.mem s.dev)))) ∧
       (i.cmd.opcode = 0x18 → exec (.recur core img) s = .next (s.afterBoth (s.dev.engineRan core img i (recurBody x i.cmd s.mem s.dev)))) ∧
       (i.cmd.opcode = 0x30 → exec (.adapt core img) s = .next (s.afterBoth (s.dev.engineRan core img i (plainBody EngCtx.adapt x i.cmd s.mem s.dev))))) ∧
  (∀ (s : State) (core img : Nat) (i : Issue) (x : EngCtx) (faults : List StackFault) (copying : List Nat), s.dev.serving = true →
       s.dev.headRuns core img i → x = s.dev.issueCtx core img i →
       (i.cmd.opcode = 0x10 → exec (.attnFwd core img faults) s = .next (s.afterBoth (s.dev.engineRan core img i (attnFwdBody faults x i.cmd s.mem s.dev)))) ∧
       (i.cmd.opcode = 0x11 → exec (.attnBwd core img faults) s = .next (s.afterBoth (s.dev.engineRan core img i (attnBwdBody faults x i.cmd s.mem s.dev)))) ∧
       (i.cmd.opcode = 0x12 → exec (.kvAppend core img copying) s = .next (s.afterBoth (s.dev.engineRan core img i (kvAppendBody copying x i.cmd s.mem s.dev)))))

/-- Every byte outside the destination rows of a plain engine command reads as before: rows of A by columns of B for the products, rows and
columns of A for NORM, ROPE and ELEMWISE (one column for its row sums).
Where it rests on the model's choices: log entry 4. -/
def Obligations.EngineWritesDestinationOnly : Prop :=
  ∀ (x : EngCtx) (c : EngCmd) (mem : List Host.Cell) (a : Nat),
    (x.outside c c.a.rows c.b.cols a → Mem.read a (x.gemm c mem).1 = Mem.read a mem ∧ Mem.read a (x.gemmGated c mem).1 = Mem.read a mem) ∧
    (x.outside c c.a.rows c.a.cols a → Mem.read a (x.norm c mem).1 = Mem.read a mem ∧ Mem.read a (x.rope c mem).1 = Mem.read a mem) ∧
    (x.outside c c.a.rows (if c.param0 = 4 then 1 else c.a.cols) a → Mem.read a (x.elemwise c mem).1 = Mem.read a mem)

/-- A head that waits on a poisoned slot, or whose operands lie outside their spaces, is issued and fails, whichever engine command it is:
memory stays as it is, and the command runs on with the status of its failure (R140, R176).
Where it rests on the model's choices: log entry 33. -/
def Obligations.FailedCommandWritesNothing : Prop :=
  ∀ (s : State) (core img : Nat) (i : Issue) (e : CoreEntry) (faults : List StackFault) (copying : List Nat) (p : Nat × Instr),
    s.dev.serving = true → s.dev.headOf core img = some i → s.dev.coreEntry core img = some e → s.dev.canIssue core img i e = true →
    p ∈ headCommands core img faults copying → i.cmd.opcode = p.1 →
    (poisoned ((s.dev.imgRun core img).list i.refine) i.cmd.seqn = true →
      exec p.2 s = .next (s.afterBoth (s.mem, s.dev.started core img i ST.IMG_POISONED 0xFFFF 0))) ∧
    (poisoned ((s.dev.imgRun core img).list i.refine) i.cmd.seqn = false → (s.dev.engCtx core img).operandsOk i.cmd = false →
      exec p.2 s = .next (s.afterBoth (s.mem,
        (s.dev.report ⟨conditionId (s.dev.engCtx core img).sector ST.IMG_OPERAND, 1, 2, core⟩).started core img i ST.IMG_OPERAND 0xFFFF 0)))

/-! ### Steps of a core -/

/-- A core's step completes from its start to its end: CORE_STEP_START takes a staged composition first where one waits, writes the tables and
resets the scoreboard; COMMAND_COMPLETE closes a running command of the step list or of the refine list; CORE_STEP_END reports the step once
its lists have ended and its segments are sent; the watchdog fails what is unfinished and ends the step; a refine list, begun again where it
had ended, issues its head between steps with the rows of the last one.
The loss of an engine completes (R14, R167): it is reported, its commands fail, and a spare takes its place from the next command on; where
fewer than four work, the core is retired; where four still work, the device's spares and FOG_REP_ENGINE count it.
Where it rests on the model's choices: log entries 33, 34. -/
def Obligations.CoresComplete : Prop :=
  ((∀ (s : State) (core step rows t n key : Nat) (st st' : Step) (d : Dev), s.dev.serving = true →
       (List.range 16).find? (fun n => (s.dev.advance t).present n && ((s.dev.advance t).sector n).cores.testBit core) = some n →
       (s.dev.advance t).stepOf n step = some (key, st) → st.positions = rows → st.epoch ≠ s.dev.comp.cur.epoch → d = s.dev.advance t →
       d.stepOf n step = some (key, st') → d.coreSector core = n → d.mayStart core key st' = true →
       exec (.coreStepStart core step rows t) s = .next (s.afterBoth (startCore core key st' s.mem d))) ∧
     (∀ (s : State) (core step rows t n key : Nat) (st st' : Step) (r : List Host.Cell × Dev), s.dev.serving = true →
       (List.range 16).find? (fun n => (s.dev.advance t).present n && ((s.dev.advance t).sector n).cores.testBit core) = some n →
       (s.dev.advance t).stepOf n step = some (key, st) → st.positions = rows → st.epoch = s.dev.comp.cur.epoch →
       (Dev.hostCores n (s.dev.advance t)).all (fun c => !(s.dev.advance t).inStep c) = true → (s.dev.advance t).gainsHeld n = false →
       st.leaveOnly = false → st.reported = false → followCores n s.mem (s.dev.advance t) = r →
       r.2.stepOf n step = some (key, st') → r.2.coreSector core = n → r.2.mayStart core key st' = true →
       exec (.coreStepStart core step rows t) s = .next (s.afterBoth (startCore core key st' r.1 r.2))) ∧
     (∀ (s : State) (core img index t : Nat) (e : CoreEntry) (c : EngCmd) (r : RunCmd), s.dev.serving = true → (s.dev.advance t).coreEntry core img = some e →
       (Tab.look index (s.dev.imgRun core img).step.running = some r → e.step[index]? = some c →
         exec (.commandComplete core img index t) s = .next (s.afterBoth (s.mem, (s.dev.advance t).completeCommand core img false index c r s.mem))) ∧
       (Tab.look index (s.dev.imgRun core img).step.running = none → Tab.look index (s.dev.imgRun core img).refine.running = some r →
         e.refine[index]? = some c →
         exec (.commandComplete core img index t) s = .next (s.afterBoth (s.mem, (s.dev.advance t).completeCommand core img true index c r s.mem)))) ∧
     (∀ (s : State) (core t : Nat) (d : Dev), s.dev.serving = true → d = s.dev.advance t → d.inStep core = true →
       (d.coreRun core).imgs.all (fun e => listEnded e.2 && d.allSent core e.1) = true →
       exec (.coreStepEnd core t) s = .next (s.after (d.endStep core))) ∧
     (∀ (s : State) (core t : Nat) (d : Dev), s.dev.serving = true → s.dev.inStep core = true → (s.dev.advance t).watchdogDue core = true →
       d = (s.dev.advance t).timeOut core s.mem →
       exec (.stepWatchdogExpiry core t) s = .next (s.afterBoth (s.mem, (d.endStep core).report ⟨conditionId (d.coreSector core) ST.IMG_TIMEOUT, 1, 2, core⟩))) ∧
     (∀ (s : State) (core img : Nat) (i : Issue) (d : Dev), s.dev.serving = true → s.dev.inStep core = false → s.dev.noStepPending core = true →
       s.dev.get (Reg.CORE_SEQ_CFG.refine_enable core) = 1 → d = s.dev.wrapRefine core img → d.headRuns core img i → i.refine = true →
       exec (.refineIssue core img) s = .next (s.afterBoth
         (let mem := d.writeTable (d.engCtx core img) (d.refineRows core) i.cmd s.mem
          d.engineRan core img i (refineBody i.cmd.opcode (d.issueCtx core img i) i.cmd mem d))))) ∧
  (∀ (s : State) (core engine t working : Nat) (d : Dev), s.dev.serving = true → engine < 5 →
       (s.dev.get (Reg.CORE_ENG.engine_ok core)).testBit engine = true → d = (s.dev.advance t).loseEngine core engine →
       working = ((List.range 5).filter (fun e => (s.dev.get (Reg.CORE_ENG.engine_ok core) - 2 ^ engine).testBit e)).length →
       (working = 4 → exec (.engineFail core engine t) s = .next (s.after
         ((((d.put Reg.GLB_CAP.spare_engines (d.get Reg.GLB_CAP.spare_engines - 1)).bump Reg.FOG_REP_ENGINE.count 1).reportUnit 2 (core * 5 + engine) 1).failEngine
           core engine))) ∧
       (working < 4 → exec (.engineFail core engine t) s = .next (s.after
         (((d.reportUnit 2 (core * 5 + engine) 1).failEngine core engine).retireCore core))))

/-- The fields of a core after its step (R174, R178, R202): running clears and CORE_STEPS_DONE counts; a step that did not fail clears the
count of failed steps; one that failed counts in CORE_STEPS_FAILED and in that count, and CORE_STEP_ERR holds its status and command.
Where it rests on the model's choices: log entries 15, 34. -/
def Obligations.StepEndFields : Prop :=
  ∀ (core : Nat) (d : Dev), core < 32 →
    (d.endStep core).get (Reg.CORE_STEP.running core) = 0 ∧
    (d.endStep core).get (Reg.CORE_STEPS_DONE.count core) = min 0xFFFFFFFF (d.get (Reg.CORE_STEPS_DONE.count core) + 1) ∧
    (d.stepFailure core = none → (d.endStep core).get (Reg.CORE_IMAGE.fail_run core) = 0 ∧
      (d.endStep core).get (Reg.CORE_STEPS_FAILED.count core) = d.get (Reg.CORE_STEPS_FAILED.count core) ∧
      (d.endStep core).get (Reg.CORE_STEP_ERR.status core) = d.get (Reg.CORE_STEP_ERR.status core)) ∧
    (∀ index st, d.stepFailure core = some (index, st) →
      (d.endStep core).get (Reg.CORE_STEPS_FAILED.count core) = min 0xFFFFFFFF (d.get (Reg.CORE_STEPS_FAILED.count core) + 1) ∧
      (d.endStep core).get (Reg.CORE_IMAGE.fail_run core) = min 3 (d.get (Reg.CORE_IMAGE.fail_run core) + 1) ∧
      (d.endStep core).get (Reg.CORE_STEP_ERR.status core) = st % 65536 ∧
      (d.endStep core).get (Reg.CORE_STEP_ERR.command core) = index % 65536)

/-- The route builder completes (R171, R194, R195): for an entry that ROUTE has signalled and that is not yet routed in this step, the entry
lists stand in the route areas of the cores that hold the experts, their counts in the commands, ROUTE_DONE is incremented on each of those
cores, and the entry is routed; an entry already routed, or not yet signalled, changes nothing but the time.
Where it rests on the model's choices: log entries 34, 46. -/
def Obligations.RoutesBuiltOnce : Prop :=
  ∀ (s : State) (sector entry t : Nat) (i : Image) (m : MoeEntry) (d : Dev), s.dev.serving = true → d = s.dev.advance t →
    d.activeImg sector = some i → i.moe[entry]? = some m →
    (∀ j lists, entry < d.routeSignals sector → d.sel.routed.contains (sector * 65536 + entry) = false → d.routeJob sector m s.mem = some j →
      lists = d.routeLists sector m j s.mem →
      exec (.routeBuildDone sector entry t) s = .next (s.afterBoth (d.buildRoutes sector entry i m j s.mem)) ∧
      (d.buildRoutes sector entry i m j s.mem).1 =
        writeLists sector (setCounts i m (lists.map List.length) (d.secImg sector).live) (d.secImg sector).hosts (d.secImg sector).shadow
          (d.writeRoutes sector i m lists s.mem) ∧
      (d.buildRoutes sector entry i m j s.mem).2.sel.routed = (sector * 65536 + entry) :: d.sel.routed ∧
      (∀ e, e < m.experts → ((d.buildRoutes sector entry i m j s.mem).2.imgRun (d.hostOf sector (expertHolder m e)) (expertHolder m e)).step =
        ListRun.bump 58 false (d.imgRun (d.hostOf sector (expertHolder m e)) (expertHolder m e)).step)) ∧
    (d.sel.routed.contains (sector * 65536 + entry) = true ∨ d.routeSignals sector ≤ entry →
      exec (.routeBuildDone sector entry t) s = .next (s.afterBoth (s.mem, d)))

/-! ### Steps of a batch -/

/-- HEAD starts a step: the pending sets of the Sector take effect, then the rows are formed, what their formation moved stands in memory, and
the step is launched (R212, R213, R385).
Where it rests on the model's choices: log entry 39. -/
def Obligations.HeadStepStarts : Prop :=
  ∀ (s : State) (sector batch t : Nat) (d : Dev) (f : Form), s.dev.serving = true → (s.dev.advance t).mayHeadStart sector batch = true →
    d = (s.dev.advance t).commitBoundary sector → f = d.formRows sector batch →
    exec (.headStepStart sector batch t) s = .next (s.afterBoth
      (f.rows.foldl (fun mem r => rowBytesMoved sector r d f.dev mem) s.mem, f.dev.launch sector batch f.rows))

/-- A step that HEAD launches with rows becomes the batch's running step, with the next step number, the epoch in force and its positions;
the Sector's step number moves on (R212, R216).
Where it rests on the model's choices: log entry 39. -/
def Obligations.LaunchedStepRuns : Prop :=
  ∀ (n batch : Nat) (rows : List StepRow) (d : Dev), rows ≠ [] → ∃ st,
    ((d.launch n batch rows).batch (batchKey n batch)).running = some st ∧ st.rows = rows ∧ st.number = Tab.getD n 0 d.srv.steps ∧
    st.epoch = d.comp.cur.epoch ∧ st.positions = (rows.map (·.qcount)).sum ∧ st.leaveOnly = false ∧ st.reported = false ∧
    Tab.getD n 0 (d.launch n batch rows).srv.steps = wrap 32 (Tab.getD n 0 d.srv.steps + 1)

/-- The flits of a step complete on a later chip: SEG opens the step, ROW adds a batch row in its place or a leave, DIGEST adds digests, and
DATA writes its bytes at their place in the segment's staging; the last flit of a segment that the step waits for makes it arrive, and the
cores that have started the step have it written into their IO region.
What a chip finds for a batch row (R43, R65, R223, R584): a row for a session in a step stands; a join raises a WAITING session; a row
that does not join and whose Buoy the chip lacks is lost, and so is a LOST session's; a row past the context limit is refused.
Where it rests on the model's choices: log entries 39, 40. -/
def Obligations.StepFlitsTaken : Prop :=
  ((∀ (s : State) (f : SegFlit), s.dev.serving = true → (s.dev.openStep (batchKey f.sector f.batch) f).segMismatch f.sector f = false →
       exec (.seg f) s = .next (s.after (s.dev.openStep (batchKey f.sector f.batch) f))) ∧
     (∀ (s : State) (f : RowFlit) (sector batch pick : Nat) (st : Step), s.dev.serving = true → s.dev.stepIn (batchKey sector batch) f.step = some st →
       (f.leave = true → exec (.row f sector batch pick) s = .next (s.after (s.dev.stepUpd (batchKey sector batch) f.step
         (fun s => { s with leaves := s.leaves ++ [⟨f.sid, false, f.ended, f.status, f.prevCommit, f.prevPath⟩] })))) ∧
       (∀ r, f.leave = false → r = Dev.rowTaken f (s.dev.rowStatus sector f pick) →
         exec (.row f sector batch pick) s = .next (s.afterBoth
           (rowBytesMoved sector r.1 s.dev r.2 s.mem, r.2.stepUpd (batchKey sector batch) f.step (Step.withRow r.1))) ∧
         r.1 = takenRow f (f.invalid || (s.dev.rowStatus sector f pick).1 != ST.OK) (if f.invalid then f.status else (s.dev.rowStatus sector f pick).1))) ∧
     (∀ (s : State) (sector batch sid : Nat) (ds : List Nat) (st : Step), s.dev.serving = true →
       (s.dev.batch (batchKey sector batch)).next.or (s.dev.batch (batchKey sector batch)).running = some st →
       exec (.digest sector batch sid ds) s = .next (s.after (s.dev.stepUpd (batchKey sector batch) st.number
         (fun s => { s with rows := s.rows.map (fun r => if r.sid = sid then { r with tNew := (r.tNew ++ ds).take r.qcount } else r) })))) ∧
     (∀ (s : State) (sector batch segment addr : Nat) (bytes : List Byte) (mem : List Host.Cell), s.dev.serving = true →
       mem = Mem.writes (stageAddr sector batch segment + addr) bytes s.mem →
       exec (.data sector batch segment false addr bytes) s = .next (s.afterBoth (mem, s.dev)) ∧
       (∀ st i g, ((s.dev.batch (batchKey sector batch)).running.toList ++ (s.dev.batch (batchKey sector batch)).next.toList).find?
           (fun s => !s.leaveOnly && !s.segs.contains segment) = some st →
         s.dev.activeImg sector = some i → i.segs.find? (fun g => !g.out && g.number == segment) = some g →
         exec (.data sector batch segment true addr bytes) s = .next (s.afterBoth
           (inArrives sector batch g st mem (s.dev.stepUpd (batchKey sector batch) st.number (fun s => { s with segs := segment :: s.segs }))))))) ∧
  (∀ (sector : Nat) (f : RowFlit) (pick : Nat) (d : Dev),
       (f.invalid = true → f.status = ST.SES_NOBUOY → d.rowStatus sector f pick = (ST.SES_NOBUOY, d)) ∧
       (d.buoy f.sid = none → f.invalid = false → f.join = false → d.rowStatus sector f pick = (ST.SES_LOST, d)) ∧
       (d.buoy f.sid = none → f.invalid = false → f.join = true → d.buoyRoom sector = false → d.rowStatus sector f pick = (ST.SES_NOBUOY, d)) ∧
       (∀ b, d.buoy f.sid = some b → b.bad = false →
         (b.state = 8 → f.invalid = false → d.rowStatus sector f pick = (ST.SES_LOST, d)) ∧
         (b.state = 1 → f.invalid = false → f.qbase + f.qcount ≤ d.posLimit sector → f.join = false → d.rowStatus sector f pick = (ST.OK, d)) ∧
         (b.state = 1 → f.invalid = false → d.posLimit sector < f.qbase + f.qcount → f.join = false → d.rowStatus sector f pick = (ST.SES_CTXFULL, d)) ∧
         (∀ k, b.state = 3 → f.join = true → f.invalid = false → k = ((d.transition f.sid 1).joinParts f.sid).markBeacon sector f.sid →
           d.rowStatus sector f pick = (if k.posLimit sector < f.qbase + f.qcount then ST.SES_CTXFULL else ST.OK, k))))

/-- A segment of the wrong size, or one the image's table lacks, makes its step a failed one: SES_SRV_ERR.segment_mismatch is set and a
command record carries ST_SRV_SEGMENT (R221).
Where it rests on the model's choices: log entry 34. -/
def Obligations.SegmentMismatchFailsStep : Prop :=
  ∀ (s : State) (f : SegFlit), s.dev.serving = true → (s.dev.openStep (batchKey f.sector f.batch) f).segMismatch f.sector f = true →
    ∃ t r, exec (.seg f) s = .next (s.after t) ∧ r.status = ST.SRV_SEGMENT ∧ r.failed = true ∧ r.step = f.step ∧ r.sector = f.sector ∧
      t = (((s.dev.openStep (batchKey f.sector f.batch) f).stepUpd (batchKey f.sector f.batch) f.step (fun s => { s with failed := true })).flag
        Reg.SES_SRV_ERR.segment_mismatch).cmdRecord r

/-- TOKENS, STEP_BOUNDARY and the delivery of a record complete: HEAD takes an entry of the running step, of a row or of a leave, and every
other chip passes it on; a batch's boundary that is due falls; the oldest held record that its egress ring has room for, padded past the ring's
end where it must be, is produced and announced where the shapers let it through; one they hold stays,
and one the ring has no room for stays held until the hold's limit is passed.
Where it rests on the model's choices: log entries 42, 43. -/
def Obligations.BoundaryAndDelivery : Prop :=
  (∀ (s : State) (sector batch : Nat) (e : TokensEntry), s.dev.serving = true →
    (s.dev.isHead = false → exec (.tokens sector batch e) s = .next (s.after (s.dev.emit (.tokens e none)))) ∧
    (∀ st, s.dev.isHead = true → (s.dev.batch (batchKey sector batch)).running = some st → st.number = e.step →
      (e.leave = false → st.rows.any (fun r => r.sid == e.sid) = true) →
      (e.leave = true → st.leaves.any (fun l => l.sid == e.sid && !l.returned) = true) →
      (s.dev.batch (batchKey sector batch)).tokens.any (fun x => x.sid == e.sid && x.leave == e.leave) = false →
      exec (.tokens sector batch e) s = .next (s.after (s.dev.takeTokens (batchKey sector batch) e)))) ∧
  (∀ (s : State) (sector batch t : Nat) (st : Step), s.dev.serving = true → (s.dev.batch (batchKey sector batch)).running = some st →
    (s.dev.advance t).boundaryDue (s.dev.batch (batchKey sector batch)) st = true →
    exec (.stepBoundary sector batch t) s = .next (s.afterBoth
      (boundary sector (batchKey sector batch) (s.dev.batch (batchKey sector batch)) st s.mem (s.dev.advance t)))) ∧
  (∀ (s : State) (q t pad : Nat) (u : Queue) (r : BatchRecord) (rest : List BatchRecord), s.dev.serving = true → Tab.look q s.dev.que = some u →
    u.heldRecs = r :: rest → u.st ≠ .dead → pad = padBytes u r.bytes →
    (((s.dev.advance t).shaperOk q && (s.dev.advance t).portOk u) = false → (s.dev.advance t).ringUsed q u + pad + r.bytes ≤ 2 ^ u.ringLog2 →
      exec (.egressRecordSend q t) s = .next (s.after (s.dev.advance t))) ∧
    (∀ count, (s.dev.advance t).shaperOk q = true → (s.dev.advance t).portOk u = true → (s.dev.advance t).ringUsed q u + pad + r.bytes ≤ 2 ^ u.ringLog2 →
      count = wrap 64 (u.produced + pad + r.bytes) → exec (.egressRecordSend q t) s = .next (s.after
        (let d : Dev := (Dev.queUpd q (fun u => { u with heldRecs := rest, produced := count, acks := if u.location = 2 then u.acks ++ [count] else u.acks })
          (s.dev.advance t)).shaperDebit q (s.dev.unitSize q r.bytes)
         let d := (if pad = 0 then d else d.portDebit u 8).portDebit u r.bytes
         let d := (if pad = 0 then d else d.emit (.pad q pad)).emit (.record r)
         ((if u.location = 2 then d else (d.emit (.produced q count)).bellGone q).queEvent q).delivered r))) ∧
    (2 ^ u.ringLog2 < (s.dev.advance t).ringUsed q u + pad + r.bytes →
      (u.heldRecs.map (·.bytes)).sum ≤ s.dev.get Reg.SES_SRV_CFG.egress_hold_kib * 1024 →
      exec (.egressRecordSend q t) s = .next (s.after (s.dev.advance t))) ∧
    (2 ^ u.ringLog2 < (s.dev.advance t).ringUsed q u + pad + r.bytes →
      s.dev.get Reg.SES_SRV_CFG.egress_hold_kib * 1024 < (u.heldRecs.map (·.bytes)).sum →
      exec (.egressRecordSend q t) s = .next (s.after ((s.dev.advance t).overrun q))))

/-! ### Layer images -/

/-- IMAGE_LOAD, submitted by the owner: the image, from host memory or from the Sector's own tier-1 bytes, is held against the checks in the
order of R187, and the first that fails is the completion, with the result field of R188; an image that passes them all is staged in place
of the one that was, its bytes in tier 1 (R186 to R189).
The other image commands, submitted by the owner (R186, R190, R191): an activation waits for its boundary, and is performed 1 ms later
where the Sector runs no step: the staged bytes become the active image's, the image is placed, and IMAGE_ACTIVATE completes; it completes
at once where nothing is staged or where sessions exist and the layout differs; a discard frees the staged image; an unload frees the active
one, unless sessions exist.
An image command of any master but the owner completes with ST_IMG_DENIED, and changes no image (R186).
Where it rests on the model's choices: log entries 35, 36. -/
def Obligations.ImageCommandsAnswered : Prop :=
  (∀ (s : State) (h : EntryHdr) (n kind src len : Nat) (host bytes : List Byte) (sig : SigVerdict) (i : Image) (e : Ent) (d : Dev), s.dev.serving = true →
       s.dev.fetch 0 64 h = some (e, d) → d.fromOwner e = true → bytes = loadSource n kind src len host s.mem → i = imageOf bytes sig →
       (d.tierFree 1 n * 4096 < i.imageLength → exec (.imageLoad h n kind src len host sig) s = .next (s.after
         (d.complete e ST.IMG_NOFIT (noFit 4 0xFFFF (shortKib i.imageLength (d.tierFree 1 n * 4096)))))) ∧
       (i.imageLength ≤ d.tierFree 1 n * 4096 →
         (d.imageSigOk i.sig = false → exec (.imageLoad h n kind src len host sig) s = .next (s.after (d.sigRefused.complete e ST.IMG_SIGNATURE 0))) ∧
         (d.imageSigOk i.sig = true → imageFormatOk i = false →
           exec (.imageLoad h n kind src len host sig) s = .next (s.after (d.complete e ST.IMG_FORMAT 0))) ∧
         (d.imageSigOk i.sig = true → imageFormatOk i = true → i.role ≠ d.role ∨ i.groupSizeM1 + 1 ≠ d.groupSize ∨ i.position ≠ d.position →
           exec (.imageLoad h n kind src len host sig) s = .next (s.after (d.complete e ST.IMG_ROLE 0))) ∧
         (d.imageSigOk i.sig = true → imageFormatOk i = true → i.role = d.role → i.groupSizeM1 + 1 = d.groupSize → i.position = d.position →
           (∀ r, badCommand i = some r → exec (.imageLoad h n kind src len host sig) s = .next (s.after (d.complete e ST.IMG_COMMAND r))) ∧
           (∀ r, badCommand i = none → d.resourceFault n i = some r →
             exec (.imageLoad h n kind src len host sig) s = .next (s.after (d.complete e ST.IMG_NOFIT r))) ∧
           (badCommand i = none → d.resourceFault n i = none → exec (.imageLoad h n kind src len host sig) s = .next (s.afterBoth
             (Mem.writes (tierAddr 1 n (d.stagedBase n i)) (bytes.take (fld bytes 0x20 8)) s.mem,
              (d.secImgPut n { (d.secImg n) with staged := some i }).complete e ST.OK 0)))))) ∧
  (∀ (s : State) (h : EntryHdr) (n t : Nat) (e : Ent) (d : Dev), s.dev.serving = true →
       ((s.dev.advance t).fetch 0 64 h = some (e, d) → d.fromOwner e = true →
         ((d.secImg n).staged = none → exec (.imageActivate h n t) s = .next (s.after (d.complete e ST.IMG_NOSTAGED 0))) ∧
         (∀ i, (d.secImg n).staged = some i → d.hasBuoy n = true → (∀ a, (d.secImg n).active = some a → sameLayout a i = false) →
           exec (.imageActivate h n t) s = .next (s.after (d.complete e ST.IMG_SESSIONS 0))) ∧
         (∀ i, (d.secImg n).staged = some i → d.hasBuoy n = false ∨ (∃ a, (d.secImg n).active = some a ∧ sameLayout a i = true) →
           (d.secImg n).activating = none →
           exec (.imageActivate h n t) s = .next (s.after (d.secImgPut n { (d.secImg n) with activating := some (e, d.now) })))) ∧
       (∀ at_ i r, d = s.dev.advance t → (d.secImg n).activating = some (e, at_) → (d.secImg n).staged = some i → at_ + 1000000 ≤ d.now →
         d.sectorIdle n = true →
         r = placeImage n i (copyParts s.mem [(tierAddr 1 n (d.stagedBase n i), tierAddr 1 n (d.imgBase n i), i.imageLength)] s.mem)
           (d.secImgPut n { (d.secImg n) with staged := none, activating := none }) →
         exec (.imageActivateTimer n t) s = .next (s.afterBoth (r.1, r.2.complete e ST.OK 0))) ∧
       (s.dev.fetch 0 64 h = some (e, d) → d.fromOwner e = true →
         ((d.secImg n).activating = none →
           exec (.imageDiscard h n) s = .next (s.after ((d.secImgPut n { (d.secImg n) with staged := none }).complete e ST.OK 0))) ∧
         (d.hasBuoy n = true → exec (.imageUnload h n) s = .next (s.after (d.complete e ST.IMG_SESSIONS 0))) ∧
         (d.hasBuoy n = false → exec (.imageUnload h n) s = .next (s.after ((d.secImgPut n { (d.secImg n) with
           active := none, hosts := [], live := [], blobsInTier1 := [], shadow := [], faulted := false }).complete e ST.OK 0))))) ∧
  (∀ (s : State) (h : EntryHdr) (n t : Nat) (e : Ent) (d : Dev), s.dev.serving = true → d.fromOwner e = false →
       (s.dev.fetch 0 64 h = some (e, d) →
         (∀ kind src len host sig, exec (.imageLoad h n kind src len host sig) s = .next (s.after (d.complete e ST.IMG_DENIED 0))) ∧
         exec (.imageDiscard h n) s = .next (s.after (d.complete e ST.IMG_DENIED 0)) ∧
         exec (.imageUnload h n) s = .next (s.after (d.complete e ST.IMG_DENIED 0))) ∧
       ((s.dev.advance t).fetch 0 64 h = some (e, d) → exec (.imageActivate h n t) s = .next (s.after (d.complete e ST.IMG_DENIED 0))))

/-! ### Turns -/

/-- TURN, TURN_TEXT and CANCEL complete on HEAD: a turn that passes the checks of R205 is tracked and its session goes on from its state, a
session without a Buoy being created; more text joins the turn's; a cancel ends the turn with end reason 6.
The checks of a turn in their order, each with its status (R27, R191, R205, R216): the role, the Sector's image, the payload, the epoch,
the parameters, the session's range, a turn already tracked, a LOST or REMOTE session (the latter with its destination, R92), the tool
sequence, the tracking entries and the Buoy. TURN_TEXT and CANCEL off HEAD, for a session of another Sector, or with a tag that no tracked
turn has, complete with their statuses.
Where it rests on the model's choices: log entries 24, 38. -/
def Obligations.TurnsAnswered : Prop :=
  ((∀ (s : State) (x : TurnEntry) (pick t : Nat) (e : Ent) (d k : Dev) (u : Queue), s.dev.serving = true →
       (s.dev.advance t).fetch 1 x.text.length x.hdr = some (e, d) → d.entQueue e = some u → d.isHead = true → (d.activeImg u.sector).isSome = true →
       d.inWindow e x.payloadOffset x.text.length = true → d.epochServed x.mapEpoch = true →
       k = (if d.ownSession u.sector x.sid then (d.readBuoy x.sid).2 else d) →
       k.turnParams u.sector x = ST.OK → k.turnSession u.sector x = ST.OK → k.turnTool x = ST.OK → k.srv.turns.length < 262144 →
       ((k.buoy x.sid).isSome = true → exec (.turn x pick t) s = .next (s.after (k.startTurn e x))) ∧
       (k.buoy x.sid = none → k.buoyRoom u.sector = true → exec (.turn x pick t) s = .next (s.after ((k.createSession x.sid u.sector pick).startTurn e x)))) ∧
     (∀ (s : State) (h : EntryHdr) (sid tag off : Nat) (text : List Byte) (more : Bool) (e : Ent) (d : Dev) (u : Queue) (w : Turn), s.dev.serving = true →
       s.dev.fetch 1 text.length h = some (e, d) → d.entQueue e = some u → d.isHead = true → d.ownSession u.sector sid = true →
       d.namedTurn sid tag = some w → w.takesText = true → d.inWindow e off text.length = true →
       exec (.turnText h sid tag off text more) s = .next (s.after
         (let k : Dev := d.turnUpd sid (fun t => { t with texts := t.texts ++ [⟨e, text, more, false, d.tok.arrivals⟩] })
          { k with tok := { k.tok with arrivals := d.tok.arrivals + 1 } }))) ∧
     (∀ (s : State) (h : EntryHdr) (sid tag : Nat) (e : Ent) (d : Dev) (u : Queue) (w : Turn), s.dev.serving = true →
       s.dev.fetch 1 0 h = some (e, d) → d.entQueue e = some u → d.isHead = true → d.ownSession u.sector sid = true → d.namedTurn sid tag = some w →
       exec (.cancel h sid tag) s = .next (s.after ((d.turnUpd sid (fun t => { t with cancels := t.cancels ++ [e] })).failTurn sid 6 ST.SRV_CANCELLED)))) ∧
  ((∀ (s : State) (x : TurnEntry) (pick t : Nat) (e : Ent) (d k : Dev) (u : Queue), s.dev.serving = true →
       (s.dev.advance t).fetch 1 x.text.length x.hdr = some (e, d) → d.entQueue e = some u →
       (d.isHead = false → exec (.turn x pick t) s = .next (s.after (d.complete e ST.ROLE_UNSERVED 0))) ∧
       (d.isHead = true → d.activeImg u.sector = none → exec (.turn x pick t) s = .next (s.after (d.complete e ST.IMG_NOIMAGE 0))) ∧
       (d.isHead = true → (d.activeImg u.sector).isSome = true →
         (d.inWindow e x.payloadOffset x.text.length = false → exec (.turn x pick t) s = .next (s.after (d.complete e ST.SRV_PAYLOAD 0))) ∧
         (d.inWindow e x.payloadOffset x.text.length = true →
           (d.epochServed x.mapEpoch = false → exec (.turn x pick t) s = .next (s.after ((d.stale (some u.sector)).complete e ST.EPOCH_STALE 0))) ∧
           (d.epochServed x.mapEpoch = true → k = (if d.ownSession u.sector x.sid then (d.readBuoy x.sid).2 else d) →
             (k.turnParams u.sector x ≠ ST.OK → exec (.turn x pick t) s = .next (s.after (k.complete e ST.SRV_BADPARAM 0))) ∧
             (k.turnParams u.sector x = ST.OK →
               (k.ownSession u.sector x.sid = false → exec (.turn x pick t) s = .next (s.after (k.complete e ST.SES_UNKNOWN 0))) ∧
               (k.ownSession u.sector x.sid = true → (k.turnOf x.sid).isSome = true →
                 exec (.turn x pick t) s = .next (s.after (k.complete e ST.SES_BUSY 0))) ∧
               (∀ b, k.ownSession u.sector x.sid = true → k.turnOf x.sid = none → k.busyNow x.sid = false → k.buoy x.sid = some b →
                 (b.state = 8 → exec (.turn x pick t) s = .next (s.after (k.complete e ST.SES_LOST 0))) ∧
                 (b.state = 7 → exec (.turn x pick t) s = .next (s.after (k.complete e ST.SES_REMOTE (b.remGroup + b.remChip * 0x10000))))) ∧
               (k.turnSession u.sector x = ST.OK →
                 (k.turnTool x ≠ ST.OK → exec (.turn x pick t) s = .next (s.after ((k.flag Reg.SES_SRV_ERR.tool_seq).complete e ST.SRV_TOOLSEQ 0))) ∧
                 (k.turnTool x = ST.OK → 262144 ≤ k.srv.turns.length →
                   exec (.turn x pick t) s = .next (s.after ((k.flag Reg.SES_SRV_ERR.track_full).complete e ST.SRV_TRACKFULL 0))) ∧
                 (k.turnTool x = ST.OK → k.srv.turns.length < 262144 → k.buoy x.sid = none → k.buoyRoom u.sector = false →
                   exec (.turn x pick t) s = .next (s.after (k.complete e ST.SES_NOBUOY 0))))))))) ∧
     (∀ (s : State) (h : EntryHdr) (sid tag off : Nat) (text : List Byte) (more : Bool) (e : Ent) (d : Dev) (u : Queue), s.dev.serving = true →
       s.dev.fetch 1 text.length h = some (e, d) → d.entQueue e = some u →
       (d.isHead = false → exec (.turnText h sid tag off text more) s = .next (s.after (d.complete e ST.ROLE_UNSERVED 0))) ∧
       (d.isHead = true → d.ownSession u.sector sid = false → exec (.turnText h sid tag off text more) s = .next (s.after (d.complete e ST.SES_UNKNOWN 0))) ∧
       (d.isHead = true → d.ownSession u.sector sid = true → d.namedTurn sid tag = none →
         exec (.turnText h sid tag off text more) s = .next (s.after (d.complete e ST.SRV_NOTURN 0)))) ∧
     (∀ (s : State) (h : EntryHdr) (sid tag : Nat) (e : Ent) (d : Dev) (u : Queue), s.dev.serving = true →
       s.dev.fetch 1 0 h = some (e, d) → d.entQueue e = some u →
       (d.isHead = false → exec (.cancel h sid tag) s = .next (s.after (d.complete e ST.ROLE_UNSERVED 0))) ∧
       (d.isHead = true → d.ownSession u.sector sid = false → exec (.cancel h sid tag) s = .next (s.after (d.complete e ST.SES_UNKNOWN 0))) ∧
       (d.isHead = true → d.ownSession u.sector sid = true → d.namedTurn sid tag = none →
         exec (.cancel h sid tag) s = .next (s.after (d.complete e ST.SRV_NOTURN 0)))))

/-! ### Vocabularies, grammars and the tokenizer -/

/-- The load and unload commands are checked in the order of R260 before anything else: the owner, the role, the slot number.
A load that passes R260 completes with the first failing check of R262; one that passes them all is held until its boundary on a SOLO chip,
and on HEAD is sent to TAIL over the ring and held as loading. An unload of a resident slot that nothing uses waits for its boundary, one
that fails a check of R263 completes with its status. A slot that has waited 1 ms settles: it becomes resident, or is freed, and its command
completes.
The transfer of an image to TAIL completes (R262): a BODY chip passes it on; TAIL announces it, gathers its bytes in order, checks the whole,
holds the slot where it passes, and reports to HEAD, where the slot goes on or is freed with the status. A turn's settings are taken on TAIL and
passed on elsewhere. The tokenizer takes the next text of the turn it serves.
Where it rests on the model's choices: log entries 41, 48, 49. -/
def Obligations.TokenImagesComplete : Prop :=
  (∀ (s : State) (h : EntryHdr) (id sectors kind src len t : Nat) (host : List Byte) (sig : SigVerdict) (e : Ent) (d : Dev) (st : Nat) (limit : Nat) (c : Instr),
       s.dev.serving = true → (s.dev.advance t).fetch 0 64 h = some (e, d) →
       (limit = 16 ∧ (c = .vocabLoad h id sectors kind src len host sig t ∨ c = .vocabUnload h id t) ∨
        limit = 64 ∧ (c = .grammarLoad h id sectors kind src len host sig t ∨ c = .grammarUnload h id t)) →
       st = (if d.fromOwner e = false then ST.TOK_DENIED else if d.isHead = false then ST.TOK_NOTHEAD else if limit ≤ id then ST.TOK_SLOT else ST.OK) →
       st ≠ ST.OK → exec c s = .next (s.after (d.complete e st 0))) ∧
  ((∀ (s : State) (h : EntryHdr) (id sectors kind src len t : Nat) (host bytes : List Byte) (sig : SigVerdict) (e : Ent) (d : Dev), s.dev.serving = true →
       (s.dev.advance t).fetch 0 64 h = some (e, d) → d.fromOwner e = true → d.isHead = true → bytes = tokSource sectors kind src len host s.mem →
       (id < 16 → Tab.has id d.tok.vocabs = true →
         exec (.vocabLoad h id sectors kind src len host sig t) s = .next (s.after (d.complete e ST.TOK_OCCUPIED 0))) ∧
       (id < 64 → Tab.has id d.tok.grams = true →
         exec (.grammarLoad h id sectors kind src len host sig t) s = .next (s.after (d.complete e ST.TOK_OCCUPIED 0))) ∧
       (∀ g limit st c, (g = false ∧ limit = 16 ∧ c = .vocabLoad h id sectors kind src len host sig t ∨
           g = true ∧ limit = 64 ∧ c = .grammarLoad h id sectors kind src len host sig t) →
         id < limit → d.slotTaken g id = false → st = d.tokCheck len (tokImageOf g bytes sig) →
         (st = ST.TOK_SIGNATURE → exec c s = .next (s.after (d.sigRefused.complete e st 0))) ∧
         (st ≠ ST.TOK_SIGNATURE → st ≠ ST.OK → exec c s = .next (s.after (d.complete e st 0))) ∧
         (st = ST.OK → d.isSolo = true → exec c s = .next (s.after (d.putSlot id sectors bytes (tokImageOf g bytes sig) .checked (some e)))) ∧
         (st = ST.OK → d.isSolo = false → ∃ k, exec c s = .next (s.after k) ∧
           k.out = (bulkFlits d.tok.xferSeq bytes).reverse ++ .bulkStart d.tok.xferSeq bytes.length (beNat (sha256Bytes bytes)) g id sectors :: d.out ∧
           k.tok = { (d.putSlot id sectors bytes (tokImageOf g bytes sig) .loading (some e)).tok with xferSeq := wrap 32 (d.tok.xferSeq + 1) }))) ∧
     (∀ (s : State) (h : EntryHdr) (id t : Nat) (e : Ent) (d : Dev), s.dev.serving = true →
       (s.dev.advance t).fetch 0 64 h = some (e, d) → d.fromOwner e = true → d.isHead = true →
       (id < 16 →
         (Tab.look id d.tok.vocabs = none → exec (.vocabUnload h id t) s = .next (s.after (d.complete e ST.TOK_FREE 0))) ∧
         (∀ v, Tab.look id d.tok.vocabs = some v →
           (v.phase ≠ .resident → exec (.vocabUnload h id t) s = .next (s.after (d.complete e ST.TOK_FREE 0))) ∧
           (v.phase = .resident → d.vocabInUse id v.img = true → exec (.vocabUnload h id t) s = .next (s.after (d.complete e ST.TOK_INUSE 0))) ∧
           (v.phase = .resident → d.vocabInUse id v.img = false →
             exec (.vocabUnload h id t) s = .next (s.after (d.putSlot id v.sectors v.bytes (.vocab v.img) .unloading (some e)))))) ∧
       (id < 64 →
         (Tab.look id d.tok.grams = none → exec (.grammarUnload h id t) s = .next (s.after (d.complete e ST.TOK_FREE 0))) ∧
         (∀ g, Tab.look id d.tok.grams = some g →
           (g.phase ≠ .resident → exec (.grammarUnload h id t) s = .next (s.after (d.complete e ST.TOK_FREE 0))) ∧
           (g.phase = .resident → d.srv.turns.any (fun x => x.2.entry.grammarOn && x.2.entry.grammarId == id) = true →
             exec (.grammarUnload h id t) s = .next (s.after (d.complete e ST.TOK_INUSE 0))) ∧
           (g.phase = .resident → d.srv.turns.any (fun x => x.2.entry.grammarOn && x.2.entry.grammarId == id) = false →
             exec (.grammarUnload h id t) s = .next (s.after (d.putSlot id g.sectors g.bytes (.gram g.img) .unloading (some e))))))) ∧
     (∀ (s : State) (t id : Nat), s.dev.serving = true →
       (∀ v, s.dev.tok.vocabs = [(id, v)] → s.dev.tok.grams = [] → v.since + 1000000 ≤ max s.dev.now t →
         (v.phase = .checked → exec (.tokenSlotTimer t) s =
           .next (s.after (((s.dev.advance t).putSlot id v.sectors v.bytes (.vocab v.img) .resident none).completeOpt v.ent ST.OK 0))) ∧
         (v.phase = .unloading → exec (.tokenSlotTimer t) s = .next (s.after (((s.dev.advance t).delSlot false id).completeOpt v.ent ST.OK 0)))) ∧
       (∀ g, s.dev.tok.vocabs = [] → s.dev.tok.grams = [(id, g)] → g.since + 1000000 ≤ max s.dev.now t →
         (g.phase = .checked → exec (.tokenSlotTimer t) s =
           .next (s.after (((s.dev.advance t).putSlot id g.sectors g.bytes (.gram g.img) .resident none).completeOpt g.ent ST.OK 0))) ∧
         (g.phase = .unloading → exec (.tokenSlotTimer t) s = .next (s.after (((s.dev.advance t).delSlot true id).completeOpt g.ent ST.OK 0)))))) ∧
  ((∀ (s : State) (n length sha id sectors : Nat) (g : Bool), s.dev.serving = true →
       (s.dev.isTail = true → s.dev.isSolo = false → exec (.bulkStart n length sha g id sectors) s = .next (s.after
         (let d : Dev := s.dev.delSlot g id
          { d with tok := { d.tok with xfers := Tab.put n ⟨g, id, sectors, length, sha, []⟩ d.tok.xfers } }))) ∧
       (s.dev.isTail = false → exec (.bulkStart n length sha g id sectors) s = .next (s.after (s.dev.emit (.bulkStart n length sha g id sectors))))) ∧
     (∀ (s : State) (n offset : Nat) (bytes : List Byte) (sig : SigVerdict), s.dev.serving = true →
       (s.dev.isTail = false → exec (.bulk n offset bytes sig) s = .next (s.after (s.dev.emit (.bulk n offset bytes)))) ∧
       (∀ x, s.dev.isTail = true → Tab.look n s.dev.tok.xfers = some x → offset = x.data.length →
         (x.data.length + bytes.length < x.length → exec (.bulk n offset bytes sig) s = .next (s.after
           { s.dev with tok := { s.dev.tok with xfers := Tab.put n { x with data := x.data ++ bytes } s.dev.tok.xfers } })) ∧
         (∀ d data st, x.length ≤ x.data.length + bytes.length → data = (x.data ++ bytes).take x.length →
           d = ({ s.dev with tok := { s.dev.tok with xfers := Tab.del n s.dev.tok.xfers } } : Dev) → beNat (sha256Bytes data) = x.sha →
           st = d.tokCheck x.length (tokImageOf x.isGram data sig) →
           (st = ST.OK → exec (.bulk n offset bytes sig) s = .next (s.after
             ((d.putSlot x.id x.sectors data (tokImageOf x.isGram data sig) .checked none).emit (.tokReport x.isGram x.id ST.OK)))) ∧
           (st ≠ ST.OK → exec (.bulk n offset bytes sig) s = .next (s.after
             ((if st = ST.TOK_SIGNATURE then d.sigRefused else d).emit (.tokReport x.isGram x.id st))))))) ∧
     (∀ (s : State) (id status t : Nat), s.dev.serving = true →
       (∀ v, Tab.look id s.dev.tok.vocabs = some v → v.phase = .loading →
         (status = ST.OK → exec (.tokenImageCheckReport false id status t) s =
           .next (s.after ((s.dev.advance t).putSlot id v.sectors v.bytes (.vocab v.img) .checked v.ent))) ∧
         (status ≠ ST.OK → exec (.tokenImageCheckReport false id status t) s =
           .next (s.after (((s.dev.advance t).delSlot false id).completeOpt v.ent status 0)))) ∧
       (∀ g, Tab.look id s.dev.tok.grams = some g → g.phase = .loading →
         (status = ST.OK → exec (.tokenImageCheckReport true id status t) s =
           .next (s.after ((s.dev.advance t).putSlot id g.sectors g.bytes (.gram g.img) .checked g.ent))) ∧
         (status ≠ ST.OK → exec (.tokenImageCheckReport true id status t) s =
           .next (s.after (((s.dev.advance t).delSlot true id).completeOpt g.ent status 0))))) ∧
     (∀ (s : State) (c : TurnCfg), s.dev.serving = true →
       (s.dev.isTail = true → exec (.turnCfg c) s = .next (s.after (s.dev.takeTurnCfg c))) ∧
       (s.dev.isTail = false → exec (.turnCfg c) s = .next (s.after (s.dev.emit (.turnCfg c))))) ∧
     (∀ (s : State) (t sid : Nat) (u : Turn) (m : Moor) (p : TextPiece) (ps : List TextPiece) (v : VocabImage), s.dev.serving = true →
       (s.dev.advance t).nextText = some sid → s.dev.turnOf sid = some u → s.dev.moor sid = some m → u.texts = p :: ps →
       s.dev.vocab u.entry.vocab = some v →
       exec (.tokenizeEntry t) s = .next (s.after ((s.dev.advance t).takeText sid u p v m))))

/-! ### Masks and selection -/

/-- Mask jobs complete (R295, R296): a job takes the step's sampled rows and reads the pool's size once; the rotation moves past the Sector
served, unless its selection unit waits; a mask is written whole to its area, its address to the row table where that is the pool's, and its
row is ready.
The selection unit completes (R239 to R244, R247): a job whose rows all run writes their results and raises SEL_DONE; one that meets a row
whose mask is not ready waits on that row, and the wait of a row it has gone past is counted (R298); a bad one is reported, fails its step and raises SEL_DONE.
The merge of partial results completes once every source of a row has come (R248, R249): sources that partly overlap set SEL_ERR.overlap
and fail the row; otherwise the merged result is kept, the row's mask area is freed, and the row is verified when all its sampled rows are
merged.
Where it rests on the model's choices: log entries 45, 46, 50. -/
def Obligations.MasksAndSelectionComplete : Prop :=
  ((∀ (s : State) (sector batch t : Nat) (st : Step) (d : Dev), s.dev.serving = true → d = s.dev.advance t → d.isTail = true →
       d.jobStep sector batch = some st → exec (.maskJobStart sector batch t) s = .next (s.after
         { d with grm := { d.grm with jobs := Tab.put sector (Tab.getD sector [] d.grm.jobs ++
           [⟨batch, st.number, max 1 (d.get (Reg.GRM_POOL.slots sector)), d.jobRows st⟩]) d.grm.jobs } })) ∧
     (∀ (s : State) (t n : Nat) (d : Dev), s.dev.serving = true → d = s.dev.advance t → d.served = some n →
       (d.maskWaits n = false → exec (.grmSliceEnd t) s = .next (s.after { d with grm := { d.grm with turn := (n + 1) % 16 } })) ∧
       (d.maskWaits n = true → exec (.grmSliceEnd t) s = .next (s.after d))) ∧
     (∀ (s : State) (sector row t a : Nat) (j : MaskJob) (r : MaskRow) (c : TailTurn) (d : Dev), s.dev.serving = true → d = s.dev.advance t →
       d.served = some sector → d.nextMask sector = some (j, r) → r.area.or (d.nextArea sector j.slots) = some a → d.tailTurn r.sid = some c → r.row = row →
       ∃ u, exec (.maskReady sector row t) s = .next u ∧
         u.mem = (let mem := Mem.writes (fbAddr sector (d.areaAddr sector j.slots a)) (bitsToBytes 32768 (d.nodeMask r.sid c r.path))
                    (Mem.zero (fbAddr sector (d.areaAddr sector j.slots a)) 32768 s.mem)
                  if d.stepTab sector j.step / 2 ^ 62 = 1 then
                    Mem.writes (fbAddr sector (d.stepTab sector j.step + 16 * row + 8)) (leBytes 8 (d.areaAddr sector j.slots a)) mem
                  else mem) ∧
         Tab.look sector u.dev.grm.jobs = some ((Tab.getD sector [] d.grm.jobs).map (fun k =>
           if k.step = j.step then { k with rows := k.rows.map (fun q => if q.row = row then { q with area := some a, ready := true } else q) } else k)))) ∧
  (∀ (s : State) (core img t rows : Nat) (ties : List (List Nat)) (e : CoreEntry) (x : EngCtx) (run : SelRun) (j : SelJob) (d : Dev), s.dev.serving = true →
       d = s.dev.advance t → d.coreEntry core img = some e → d.inStep core = true → run = Tab.getD (selKey core img) ⟨0, 0, none⟩ d.sel.runs →
       run.done < (d.imgRun core img).selGos → x = d.engCtx core img → j = x.selJob e run.done s.mem →
       rows = (if j.rows = 0 then (d.coreRun core).rows else j.rows) →
       (j.bad rows = true ∨ 64 ≤ run.done → exec (.selJobDone core img ties t) s = .next (s.afterBoth (s.mem,
         ((((d.flag Reg.SEL_ERR.bad_job).coreUpd core (fun r => { r with stepFailed := true })).report
           ⟨conditionId x.sector ST.SEL_BADJOB, 1, 2, core⟩).selPut (selKey core img) ⟨run.done + 1, 0, none⟩).imgUpd core img
             (fun r => { r with step := ListRun.bump 60 false r.step })))) ∧
       (∀ r, j.bad rows = false → run.done < 64 →
         r = selRows x j (d.coreRun core).rowTab (d.coreRun core).stepNo ties ((List.range rows).drop run.row) (s.mem, d) →
         (r.2.2 = none → exec (.selJobDone core img ties t) s = .next (s.afterBoth (r.1,
           ((r.2.1.countWait run.waiting).selPut (selKey core img) ⟨run.done + 1, 0, none⟩).imgUpd core img
             (fun r => { r with step := ListRun.bump 60 false r.step })))) ∧
         (∀ w since past, r.2.2 = some w → since = (match run.waiting with | some v => if v.1 = w then v.2 else r.2.1.now | none => r.2.1.now) →
           past = (match run.waiting with | some v => if v.1 = w then none else some v | none => none) →
           exec (.selJobDone core img ties t) s = .next (s.afterBoth (r.1,
           (r.2.1.countWait past).selPut (selKey core img) ⟨run.done, w, some (w, since)⟩))))) ∧
  (∀ (s : State) (slot row n key step : Nat) (ties : List Nat) (heads : List (List Nat)) (ps : List SelRes) (d k : Dev), s.dev.serving = true →
       n = s.dev.com (Reg.SEL_MRG.sector slot) → s.dev.mergeReady slot row = some (key, ps) → step = (ps.headD (SelRes.blank 0 0 0 0 0)).step →
       d = { s.dev with sel := { s.dev.sel with parts := Tab.del key s.dev.sel.parts } } →
       k = Dev.freeArea n step row { d with sel := { d.sel with merged := Tab.put (rowKey n step row) (mergeRow ties ps) d.sel.merged } } →
       (ps.any (fun a => ps.any (fun b => partlyOverlap a b)) = true →
         (∀ r base, (d.flag Reg.SEL_ERR.overlap).stepRowAt n step row = some (r, base) → exec (.selMerge slot row ties heads) s =
           .next (s.after ((d.flag Reg.SEL_ERR.overlap).failRow n step r.sid ST.SEL_OVERLAP)))) ∧
       (ps.any (fun a => ps.any (fun b => partlyOverlap a b)) = false →
         (k.stepRowAt n step row = none → exec (.selMerge slot row ties heads) s = .next (s.after k)) ∧
         (∀ r base, k.stepRowAt n step row = some (r, base) → (sampledRows r base).any (fun p => p.1 == row) = true →
           ((sampledRows r base).all (fun p => (k.mergedRow n step p.1).isSome) = true →
             exec (.selMerge slot row ties heads) s = .next (s.after (k.verifyRow n step r base heads))) ∧
           ((sampledRows r base).all (fun p => (k.mergedRow n step p.1).isSome) = false →
             exec (.selMerge slot row ties heads) s = .next (s.after k)))))

/-! ### Ownership -/

/-- The claim sequence, the window's end, the heartbeat, its lapse, and the handover complete, in service and in recovery alike.
A claim counts at once where the device is unowned: the claimant is owner, with the sampling sweep and the counter recorder off (R383,
R486, R490, R545); a claim value that is followed by anything but its complement within 1 ms leaves no claim (R485).
Where it rests on the model's choices: log entries 12, 81. -/
def Obligations.ClaimsComplete : Prop :=
  (∀ (s : State) (t : Nat) (d : Dev), s.dev.answers = true → d = s.dev.advance t →
       (∀ m, exec (.ownClaim m 0x4F574E52 t) s = .next (s.after (d.ownUpd (fun o => { o with half := Tab.put m.code d.now (Tab.del m.code o.half) })))) ∧
       (∀ (m : Master) t0, Tab.look m.code d.own.half = some t0 → d.now ≤ t0 + 1000000 →
         exec (.ownClaim m 0xB0A8B1AD t) s = .next (s.after ((d.ownUpd (fun o => { o with half := Tab.del m.code o.half })).claimDone m.code))) ∧
       (∀ w m, d.own.windowEnd = some w → w ≤ d.now → d.ownOrder.find? (fun m => d.own.claims.contains m && d.ownCandidate m) = some m →
         exec (.claimWindowEnd t) s = .next (s.after (d.becomeOwner m))) ∧
       (∀ w, d.own.windowEnd = some w → w ≤ d.now → d.ownOrder.find? (fun m => d.own.claims.contains m && d.ownCandidate m) = none →
         exec (.claimWindowEnd t) s = .next (s.after
           ((d.put Reg.OWN_STATE.state 3).ownUpd (fun o => { o with claims := [], windowEnd := none, barred := 0 })))) ∧
       (∀ m, d.owner = m.code → exec (.ownHeartbeat m t) s = .next (s.after (d.ownUpd (fun o => { o with hbAt := d.now })))) ∧
       (d.get Reg.OWN_STATE.state = 1 → d.own.hbAt + (if d.get Reg.OWN_CFG.hb_ms = 0 then 65536 else d.get Reg.OWN_CFG.hb_ms) * 1000000 ≤ d.now →
         exec (.heartbeatLapse t) s = .next (s.after (d.endHandover.openWindow 2 d.owner))) ∧
       (∀ m target, d.owner = m.code → target < 4 → d.ownOrder.contains target = true → target ≠ d.owner →
         exec (.ownHandover m target t) s = .next (s.after
           (((d.put Reg.OWN_HANDOVER.target target).put Reg.OWN_HANDOVER.pending 1).ownUpd (fun o => { o with handoverEnd := some (d.now + 2000000000) })))) ∧
       (∀ e, d.own.handoverEnd = some e → e ≤ d.now → exec (.handoverTimeout t) s = .next (s.after d.endHandover))) ∧
  (∀ (s : State) (t : Nat), s.dev.answers = true →
       (∀ (m : Master) t0, Tab.look m.code s.dev.own.half = some t0 → max s.dev.now t ≤ t0 + 1000000 → s.dev.get Reg.OWN_STATE.state = 3 →
         s.dev.ownOrder.contains m.code = true →
         ∃ u, exec (.ownClaim m 0xB0A8B1AD t) s = .next u ∧ u.dev.owner = m.code ∧ u.dev.get Reg.OWN_STATE.state = 1 ∧
           u.dev.get Reg.LENS_SAMP_CFG.enable = 0 ∧ u.dev.get Reg.CNT_REC_CFG.enable = 0 ∧ u.dev.own.hbAt = max s.dev.now t) ∧
       (∀ (m : Master) v, v ≠ 0x4F574E52 →
         (v ≠ 0xB0A8B1AD ∨ Tab.look m.code s.dev.own.half = none ∨ ∃ t0, Tab.look m.code s.dev.own.half = some t0 ∧ t0 + 1000000 < max s.dev.now t) →
         exec (.ownClaim m v t) s = .next (s.after ((s.dev.advance t).ownUpd (fun o => { o with half := Tab.del m.code o.half })))))

/-- What only the owner may write is ignored from any other master, and counted in OWN_DENIED (R487, R488, R489, R517, R528, R532, R559,
R562).
Where it rests on the model's choices: log entry 17. -/
def Obligations.OtherMastersIgnored : Prop :=
  ∀ (s : State) (m : Master) (t : Nat), s.dev.serving = true → s.dev.owner ≠ m.code →
    (exec (.ownHeartbeat m t) s = .next (s.after ((s.dev.advance t).bump Reg.OWN_DENIED.count 1))) ∧
    (∀ target, exec (.ownHandover m target t) s = .next (s.after ((s.dev.advance t).bump Reg.OWN_DENIED.count 1))) ∧
    (∀ env, exec (.pwrCtrlReset m env) s = .next (s.after (s.dev.bump Reg.OWN_DENIED.count 1))) ∧
    (∀ target, exec (.powerStateRequest m target) s = .next (s.after (s.dev.bump Reg.OWN_DENIED.count 1))) ∧
    (∀ v, exec (.clkDaymarkSet m v) s = .next (s.after (s.dev.bump Reg.OWN_DENIED.count 1))) ∧
    (exec (.debugMemRead m) s = .next (s.after (s.dev.bump Reg.OWN_DENIED.count 1))) ∧
    (∀ e r, exec (.fogEntryFree m e r) s = .next (s.after (s.dev.bump Reg.OWN_DENIED.count 1)))

/-! ### Queues and ports -/

/-- The queue commands complete: a queue is created with its result, one is deleted, a peer entry is set, and an unknown opcode is answered
(R494, R497, R511).
Doorbells, held completions, the coalescing timer and the RDMA acknowledgement complete (R487, R492, R494 to R496).
Where it rests on the model's choices: log entries 82, 83, 85, 86. -/
def Obligations.QueuesComplete : Prop :=
  (∀ (s : State) (h : EntryHdr) (e : Ent) (d : Dev), s.dev.serving = true → s.dev.fetch 0 64 h = some (e, d) →
       (∀ op, exec (.adminUnknownOpcode h op) s = .next (s.after (d.complete e ST.HOST_OPCODE 0))) ∧
       (d.fromOwner e = true →
         (∀ q, d.queueOk q = true → exec (.queueCreate h q) s = .next (s.after ((d.createQueue q).complete e ST.OK ((d.createQueue q).createResult q.queue)))) ∧
         (∀ q, d.queueOk q = false → exec (.queueCreate h q) s = .next (s.after (d.complete e ST.HOST_QUEUE 0))) ∧
         (∀ q u, Tab.look q d.que = some u → 2 ≤ q → u.deleter = none → (u.kind = 2 → d.egressNamed q = false) →
           exec (.queueDelete h q) s = .next (s.after (d.startDelete e q u))) ∧
         (∀ q u, Tab.look q d.que = some u → 2 ≤ q → u.deleter = none → u.kind = 2 → d.egressNamed q = true →
           exec (.queueDelete h q) s = .next (s.after (d.complete e ST.HOST_QBUSY 0))) ∧
         (∀ i p, i < 256 → peerOk p = true → d.ckptUses i = false →
           exec (.peerSet h i p) s = .next (s.after (Dev.complete e ST.OK 0 { d with peers := Tab.put i p d.peers }))) ∧
         (∀ i p, (256 ≤ i ∨ peerOk p = false) → exec (.peerSet h i p) s = .next (s.after (d.complete e ST.HOST_PEER 0)))) ∧
       (d.fromOwner e = false →
         (∀ q, exec (.queueCreate h q) s = .next (s.after (d.complete e ST.HOST_DENIED 0))) ∧
         (∀ q, exec (.queueDelete h q) s = .next (s.after (d.complete e ST.HOST_DENIED 0))) ∧
         (∀ i p, exec (.peerSet h i p) s = .next (s.after (d.complete e ST.HOST_DENIED 0))))) ∧
  (∀ (s : State) (q : Nat) (u : Queue), s.dev.serving = true → Tab.look q s.dev.que = some u →
       (∀ m fn tail, tail < 2 ^ 16 → s.dev.mayRing m fn q = true → tail < 2 ^ u.ringLog2 → u.st = .running → tail ≠ u.sqHead →
         exec (.queSqTail m fn q tail) s = .next (s.after ((s.dev.put (Reg.QUE_SQ_TAIL.tail q) tail).bell q tail))) ∧
       (∀ m fn tail, tail < 2 ^ 16 → s.dev.mayRing m fn q = true → 2 ^ u.ringLog2 ≤ tail →
         exec (.queSqTail m fn q tail) s = .next (s.after (s.dev.flag (Reg.QUE_ERR.bad_doorbell q)))) ∧
       (∀ m tail, s.dev.mayRing m .pf q = false → exec (.queSqTail m .pf q tail) s = .next (s.after (s.dev.bump Reg.OWN_DENIED.count 1))) ∧
       (∀ m fn head, head < 2 ^ 32 → s.dev.mayRing m fn q = true →
         (u.kind = 2 → exec (.queCqHead m fn q head) s = .next (s.after (s.dev.put (Reg.QUE_CQ_HEAD.head q) head))) ∧
         (u.kind ≠ 2 → exec (.queCqHead m fn q head) s = .next (s.after
           ((Dev.releaseCompletions q u.held.length (s.dev.put (Reg.QUE_CQ_HEAD.head q) head)).finishDelete q)))) ∧
       (∀ tail head, tail < 2 ^ 16 → head < 2 ^ 32 → u.location = 2 → exec (.rdmaDoorbell q tail head) s = .next (s.after ((s.dev.setTail q tail).setHead q head))) ∧
       (∀ t, 0 < u.irqPending → u.irqFirst + s.dev.get (Reg.QUE_IRQ.delay_us q) * 1000 ≤ max s.dev.now t →
         exec (.irqCoalesceTimer q t) s = .next (s.after ((s.dev.advance t).queFire q))) ∧
       (∀ c rest, u.acks = c :: rest → exec (.rdmaWriteAck q) s = .next (s.after
         (Dev.bellGone q (Dev.emit (.produced q c) (Dev.portDebit u 8 (Dev.queUpd q (fun u => { u with acks := rest })
           { s.dev with qps := Tab.upd (qpKey (.queue q)) (fun x => { x with retries := 0 }) s.dev.qps })))))))

/-- The events of a PCIe port complete: function-level resets, loss and return of the link, PERST (R473, R488, R499, R517).
Where it rests on the model's choices: log entry 84. -/
def Obligations.PortEventsComplete : Prop :=
  ∀ (s : State) (port t : Nat), port < 2 →
    (∀ vf, vf < 16 → s.dev.serving = true → exec (.vfFlr port vf) s = .next (s.after
      ((((s.dev.portQueues port (fun u => !u.pf && u.sector == vf)).foldl (fun d q => d.emptyQueue q) s.dev).put (Reg.SEC_TDI.state (16 * port + vf)) 0).flag
        (Reg.PCI_ERR.vf_flr port)))) ∧
    (s.dev.answers = true →
      exec (.pfFlr port t) s = .next (s.after (((s.dev.advance t).resetFunction port).flag (Reg.PCI_ERR.pf_flr port))) ∧
      exec (.surpriseLinkDown port t) s = .next (s.after (((((((s.dev.advance t).portQueues port (fun u => u.st != .dead)).foldl (fun d q => d.killQueue q)
        (s.dev.advance t)).linkGone port).portLapse port).flag (Reg.PCI_ERR.surprise_down port)))) ∧
      exec (.perst port t) s = .next (s.after (((s.dev.advance t).resetFunction port).linkGone port)) ∧
      (∀ speed width flit, ∃ u, exec (.pcieLinkReturn port speed width flit) s = .next u ∧ u.dev.get (Reg.PCI_STATUS.link_up port) = 1 ∧
        u.dev.get (Reg.PCI_STATUS.speed port) = wrap (Reg.PCI_STATUS.speed port).width speed ∧
        u.dev.get (Reg.PCI_STATUS.width port) = wrap (Reg.PCI_STATUS.width port).width width ∧
        u.dev.get (Reg.PCI_STATUS.flit_mode port) = b2n flit ∧ u.dev.que = s.dev.que))

/-! ### The baseboard link, and the TAP -/

/-- The messages of the baseboard link complete (R485, R488, R500): a claim while the device is unowned, a heartbeat of the owner, at most four
administration commands at a time and a busy answer to a fifth, register reads and writes with their completion codes, sensors, and the
control messages; the loss of the link while it is the owner is a lapse.
The freeze, the TAP's read-out and its instructions complete (R475, R556 to R558): a freeze keeps until a reset; a boundary scan drives the
cells; a nonce, a token; a capture of eight bytes from the address given, or from where the last one ended, out of the registers, an SRAM, a die
buffer or a stack, where the debug level shows them; what it may not show, or any capture without a freeze, is denied and reads zero.
Where it rests on the model's choices: log entries 101, 102, 103. -/
def Obligations.SideAccessComplete : Prop :=
  (∀ (s : State) (t : Nat), s.dev.serving = true →
       (s.dev.mctp.up = true →
         (s.dev.get Reg.OWN_STATE.state = 3 → s.dev.ownOrder.contains 3 = true → exec (.mctpClaim t) s = .next (s.after ((s.dev.advance t).becomeOwner 3))) ∧
         (s.dev.owner = 3 → exec (.mctpHeartbeat t) s = .next (s.after ((s.dev.advance t).ownUpd (fun o => { o with hbAt := max s.dev.now t })))) ∧
         (∀ h, s.dev.mctp.outstanding.length < 4 → exec (.mctpAdmin h) s = .next (s.after
           { s.dev with mctp := { s.dev.mctp with arrived := s.dev.mctp.arrived ++ [h], outstanding := s.dev.mctp.outstanding ++ [h] } })) ∧
         (∀ h : EntryHdr, 4 ≤ s.dev.mctp.outstanding.length → exec (.mctpAdmin h) s = .next (s.after (s.dev.emit (.mctpBusy h.cid)))) ∧
         (∀ off w late, s.dev.takes .bmc .pf off w = false →
           exec (.regread off w late) s = .next (s.after (s.dev.emit (.mctpReg 2 0))) ∧
           (∀ v, exec (.regwrite off w v late) s = .next { s with dev := s.dev.emit (.mctpReg 2 0) })) ∧
         (∀ off w late, s.dev.takes .bmc .pf off w = true → s.dev.visible .bmc .pf off = false →
           exec (.regread off w late) s = .next (s.after (s.dev.emit (.mctpReg 0 0))) ∧
           (∀ v, exec (.regwrite off w v late) s = .next { s with dev := s.dev.emit (.mctpReg 0 0) })) ∧
         (∀ off w late, s.dev.takes .bmc .pf off w = true → s.dev.visible .bmc .pf off = true →
           exec (.regread off w late) s = .next (s.after (((s.dev.stir off).emit (.mctpReg 0 ((s.dev.stir off).regValue 3 off))).afterRead off late)) ∧
           (∀ v, (off ≠ 0x00020004 ∨ s.dev.owner ≠ 3 ∨ fieldBits Reg.PWR_CTRL.reset (wrap (8 * w) v) = 0) →
             (off ≠ 0x0F000018 ∨ s.dev.owner ≠ 3 ∨ fieldBits Reg.DBG_MEM_CTRL.go (wrap (8 * w) v) = 0) →
             exec (.regwrite off w v late) s =
               .next (State.after { s with dev := s.dev.emit (.mctpReg 0 0) } ((s.dev.emit (.mctpReg 0 0)).writeReg .bmc .pf off (wrap (8 * w) v) late)))) ∧
         (∀ k, 1 ≤ k → k ≤ 3 → exec (.pldmRequest k) s = .next (s.after (s.dev.drawn.emit (.mctpPldm k 0 s.dev.fresh)))) ∧
         (∀ k, k = 0 ∨ 3 < k → exec (.pldmRequest k) s = .next (s.after (s.dev.emit (.mctpPldm k 0x80 0)))) ∧
         (∀ c x, exec (.mctpControl c x) s = .next (s.after (Dev.emit (.mctpControl c (mctpAnswer s.dev.mctp.eid c x).1 (mctpAnswer s.dev.mctp.eid c x).2.1)
           { s.dev with mctp := { s.dev.mctp with up := true, eid := (mctpAnswer s.dev.mctp.eid c x).2.2 } })))) ∧
       (s.dev.owner = 3 → s.dev.get Reg.OWN_STATE.state = 1 → ∃ u, exec (.mctpLinkLoss t) s = .next u ∧ u.dev.mctp.up = false ∧ u.dev.owner = 0 ∧
         u.dev.get Reg.OWN_STATE.state = 2 ∧ u.dev.own.barred = 3 ∧ u.dev.own.windowEnd = some (max s.dev.now t + 2000000000))) ∧
  (∀ (s : State),
       (∀ ns, 20 ≤ ns → exec (.freeze ns) s = .next (s.after { s.dev with boot := { s.dev.boot with frozen := true } })) ∧
       (∀ cells, exec (.extest cells) s = .next (s.after (Dev.emit (.tap 0x03 s.dev.fresh) { s.dev.drawn with tap := { s.dev.tap with cells := cells } }))) ∧
       (s.dev.tapLive = true →
         exec .tapSecChal s = .next (s.after (s.dev.newNonce.2.emit (.tap 0x10 s.dev.newNonce.1))) ∧
         (∀ tok ok, exec (.tapSecToken tok ok) s = .next (s.after (s.dev.unlock tok ok).2))) ∧
       (∀ load a ok, a = wrap 64 (load.getD s.dev.tap.frzAddr) →
         (s.dev.boot.frozen = true → a < 2 ^ 60 → (s.dev.debugLevel = 2 ∨ frzOpen (a % 2 ^ 28) = true) →
           exec (.frzData load ok) s = .next (s.after (Dev.emit (.tap 0x21 (s.dev.regBytes (a % 2 ^ 28)))
             { s.dev with tap := { s.dev.tap with frzAddr := wrap 64 (a + 8) } }))) ∧
         (s.dev.boot.frozen = false ∨ s.dev.debugLevel < 2 ∧ (2 ^ 60 ≤ a ∨ frzOpen (a % 2 ^ 28) = false) →
           exec (.frzData load ok) s = .next (s.after (Dev.emit (.tap 0x21 0)
             { s.dev with tap := { s.dev.tap with frzAddr := wrap 64 (a + 8), denied := true } }))) ∧
         (s.dev.boot.frozen = true → s.dev.debugLevel = 2 → 2 ^ 60 ≤ a →
           (s.dev.frzFailed a ok = true → exec (.frzData load ok) s = .next (s.after (Dev.emit (.tap 0x21 0)
             { s.dev with tap := { s.dev.tap with frzAddr := wrap 64 (a + 8), error := true } }))) ∧
           (s.dev.frzFailed a ok = false → exec (.frzData load ok) s = .next (s.after (Dev.emit
             (.tap 0x21 ((List.range 8).foldl (fun v i => v + wrap 8 (s.dev.frzByte (a + i) s.mem) * 2 ^ (8 * i)) 0))
             { s.dev with tap := { s.dev.tap with frzAddr := wrap 64 (a + 8) } }))))) ∧
       (∀ core off ok, core < 32 → off + 8 ≤ 2 ^ 24 → s.dev.boot.frozen = true → s.dev.debugLevel = 2 → ∃ u,
         exec (.frzData (some (2 ^ 60 + core * 2 ^ 32 + off)) ok) s = .next u ∧
           u.dev.out = .tap 0x21 (leNat (Mem.reads (coreAddr core off) 8 s.mem)) :: s.dev.out))

/-! ### Links and networks -/

/-- Frames, NAKs and retraining complete on a port that is up (R501, R502, R504, R506): the expected frame is delivered, a later one is
answered with a NAK, an old one dropped; a NAK replays; ten replays within 1 ms retrain.
Training, identity and lanes complete (R24, R505, R510, R566): trained lanes bring the identity exchange, a single lane does not; a peer's
identity that fits brings the port up, another leaves it in mismatch; lanes leave and rejoin.
Locator queries complete (R69 to R71, R506): a session whose entry the port's die holds is answered with it and counted, one that it does
not hold with the session ID and zeroes; a query whose check fails is dropped; the querier keeps an answer, and gives up an older generation.
Where it rests on the model's choices: log entries 87, 88, 89, 90. -/
def Obligations.LinksComplete : Prop :=
  (∀ (s : State), s.dev.serving = true →
       (∀ (f : LinkFrame) (d : Dev), s.dev.portUsed f.port = true → s.dev.get (Reg.LNK_PORT.state f.port) = 3 →
         d = s.dev.event none (linkEvent 1 f.cls) → f.uncorrectable = false → f.corrected = false →
         (f.cls = 0 ∨ f.cls = 8 → exec (.linkFrame f) s = .next (s.after (d.lportUpd f.port (LPort.take f)))) ∧
         (f.cls ≠ 0 → f.cls < 8 ∨ f.cls = 9 → exec (.linkFrame f) s = .next (s.after ((d.lportUpd f.port (LPort.take f)).sequenced f)))) ∧
       (∀ (f : LinkFrame), s.dev.portUsed f.port = true → s.dev.get (Reg.LNK_PORT.state f.port) = 3 → f.uncorrectable = true → f.cls ≠ 8 →
         exec (.linkFrame f) s = .next (s.after
           ((s.dev.event none (linkEvent 1 f.cls)).emit (.nak f.port ((s.dev.event none (linkEvent 1 f.cls)).lport f.port).rxSeq)))) ∧
       (∀ (f : LinkFrame) (d : Dev), (f.seq = (d.lport f.port).rxSeq → d.sequenced f =
           (d.lportUpd f.port (fun p => { p with rxSeq := (f.seq + 1) % 4096 })).emit (.delivered f.port f.cls f.seq)) ∧
         (f.seq ≠ (d.lport f.port).rxSeq → (f.seq + 4096 - (d.lport f.port).rxSeq) % 4096 < 2048 → d.sequenced f = d.emit (.nak f.port (d.lport f.port).rxSeq)) ∧
         (2048 ≤ (f.seq + 4096 - (d.lport f.port).rxSeq) % 4096 → f.seq < 4096 → d.sequenced f = d)) ∧
       (∀ port expected t, s.dev.portUsed port = true → s.dev.get (Reg.LNK_PORT.state port) = 3 →
         exec (.nak port expected t) s = .next (s.after ((s.dev.advance t).replayFrom port expected))) ∧
       (∀ port t, s.dev.portUsed port = true → s.dev.get (Reg.LNK_PORT.state port) = 3 →
         10 ≤ ((s.dev.lport port).replayTimes.filter (fun x => decide (max s.dev.now t < x + 1000000))).length →
         exec (.linkRetrain port t) s = .next (s.after ((s.dev.advance t).portMoves (fun d => (d.startTraining port).flag Reg.LNK_ERR.retrain))))) ∧
  (∀ (s : State) (port : Nat), s.dev.serving = true → s.dev.portUsed port = true →
       (∀ lanes, s.dev.get (Reg.LNK_PORT.state port) = 1 → 2 ≤ laneCount (lanes % 16) →
         ∃ u, exec (.portTrain port lanes) s = .next u ∧ u.dev.get (Reg.LNK_PORT.state port) = 2 ∧ u.dev.get (Reg.LNK_PORT.lanes port) = laneCount (lanes % 16)) ∧
       (∀ lanes, s.dev.get (Reg.LNK_PORT.state port) = 1 → laneCount (lanes % 16) < 2 →
         ∃ u, exec (.portTrain port lanes) s = .next u ∧ u.dev.get (Reg.LNK_PORT.state port) = 5 ∧ u.dev.get Reg.LNK_ERR.lane_lost = 1) ∧
       (∀ x t, (s.dev.lport port).trainStart = some x → (s.dev.get (Reg.LNK_PORT.state port) = 1 ∨ s.dev.get (Reg.LNK_PORT.state port) = 2) →
         x + 50000000 ≤ max s.dev.now t → exec (.portTrainTimeout port t) s = .next (s.after
           (((s.dev.advance t).put (Reg.LNK_PORT.state port) 5).lportUpd port (fun p => { p with trainStart := some (max s.dev.now t) })))) ∧
       (∀ i, s.dev.get (Reg.LNK_PORT.state port) = 2 → s.dev.identFits port i = true →
         ∃ u, exec (.ident port i) s = .next u ∧ u.dev.get (Reg.LNK_PORT.state port) = 3) ∧
       (∀ i, s.dev.get (Reg.LNK_PORT.state port) = 2 → s.dev.identFits port i = false →
         ∃ u, exec (.ident port i) s = .next u ∧ u.dev.get (Reg.LNK_PORT.state port) = 4 ∧ u.dev.get Reg.LNK_ERR.ident_mismatch = 1) ∧
       (∀ x i t, s.dev.downSince = some x → s.dev.downPorts = [] → x + s.dev.get Reg.LNK_CFG.down_ms * 1000000 ≤ max s.dev.now t →
         (List.range 8).find? (fun i => s.dev.portUse i == 1) = some i →
         exec (.linkDownTimer t) s = .next (s.after (Dev.reportUnit 8 i 2 { s.dev.advance t with downSince := none }))) ∧
       (∀ lane, s.dev.laneUsed port lane = true →
         exec (.laneErrorThreshold port lane) s = .next (s.after ((s.dev.emit (.link port 2 lane)).dropLane port lane)) ∧
         exec (.laneDrop port lane) s = .next (s.after (s.dev.dropLane port lane))) ∧
       (∀ lane, s.dev.laneOut port lane = true →
         exec (.laneAdd port lane) s = .next (s.after (s.dev.addLane port lane)) ∧
         (∀ t x, Tab.look lane (s.dev.lport port).retrain = some x → x + 1000000000 ≤ max s.dev.now t →
           exec (.laneTrainRetry port lane true t) s = .next (s.after (((s.dev.advance t).emit (.link port 3 lane)).addLane port lane))) ∧
         (∀ t, exec (.laneTrainRetry port lane false t) s = .next (s.after
           ((s.dev.advance t).lportUpd port (fun p => { p with retrain := Tab.put lane (max s.dev.now t) p.retrain })))))) ∧
  (∀ (s : State), s.dev.serving = true →
       (∀ port x chip group sid, s.dev.portUsed port = true → (s.dev.get (Reg.LNK_PORT.state port) = 3 ∨ s.dev.get (Reg.LNK_PORT.state port) = 4) →
         (∀ e, s.dev.locLook (port / 4) sid = some e → ∃ u, exec (.locQuery port x chip group [sid] true) s = .next u ∧
           u.dev.out.head? = some (.locReply port x s.dev.chipId s.dev.groupId [sid] [e]) ∧ u.dev.get Reg.SES_LC_HIT.count = satAdd Reg.SES_LC_HIT.count.width (s.dev.get Reg.SES_LC_HIT.count) 1) ∧
         (s.dev.locLook (port / 4) sid = none → s.dev.buoyAt sid = none → ∃ u, exec (.locQuery port x chip group [sid] true) s = .next u ∧
           u.dev.out.head? = some (.locReply port x s.dev.chipId s.dev.groupId [sid] [⟨sid, 0, 0, false, false, 0, 0, 0, 0, 0⟩]))) ∧
       (∀ port x chip group sids, s.dev.portUsed port = true → (s.dev.get (Reg.LNK_PORT.state port) = 3 ∨ s.dev.get (Reg.LNK_PORT.state port) = 4) →
         exec (.locQuery port x chip group sids false) s = .next (s.after ((s.dev.bump Reg.LNK_LOC_DROP.count 1).flag Reg.LNK_ERR.loc_drop))) ∧
       (∀ x chip e,
         (e.valid = false → exec (.locReply x chip [e]) s = .next (s.after (s.dev.emit (.askKeeper e.sid chip)))) ∧
         (e.valid = true → Tab.look e.sid s.dev.locQuery = none →
           exec (.locReply x chip [e]) s = .next (s.after (Dev.emit (.locKept e) { s.dev with locQuery := Tab.put e.sid e s.dev.locQuery }))) ∧
         (∀ h, e.valid = true → Tab.look e.sid s.dev.locQuery = some h → genOlder e.gen h.gen = true →
           exec (.locReply x chip [e]) s = .next (s.after s.dev))))

/-- The network's events complete (R507 to R510): an Ethernet port goes and comes, a timeout retransmits up to seven times and then fails the
connection, a marked packet is answered, a CNP halves the rate and its absence raises it, and a PTP exchange is shown.
Where it rests on the model's choices: log entry 91. -/
def Obligations.NetworkComplete : Prop :=
  ∀ (s : State) (t : Nat), s.dev.serving = true →
    (∀ port, port < 2 →
      (∃ u, exec (.ethLinkDown port) s = .next u ∧ u.dev.get (Reg.NET_PORT.link_up port) = 0 ∧ u.dev.get Reg.NET_ERR.link_down = 1) ∧
      (exec (.ethLinkUp port) s = .next (s.after (s.dev.put (Reg.NET_PORT.link_up port) 1)))) ∧
    (∀ q, s.dev.hasQp q = true → (s.dev.qp q).error = false →
      ((s.dev.qp q).retries < 7 → ∃ u, exec (.roceRetxTimeout q) s = .next u ∧ u.dev.out.head? = some (.retransmit q) ∧
        u.dev.qp q = { s.dev.qp q with retries := (s.dev.qp q).retries + 1 }) ∧
      (7 ≤ (s.dev.qp q).retries → exec (.roceRetxTimeout q) s = .next (s.after (s.dev.qpFails q))) ∧
      exec (.ecnMarkedPacket q) s = .next (s.after (s.dev.emit (.cnp q)))) ∧
    (∀ q, s.dev.hasQp q = true →
      ((s.dev.qp q).lastCnp = none ∨ (∃ c, (s.dev.qp q).lastCnp = some c ∧ c + 50000 ≤ max s.dev.now t) →
        ∃ u, exec (.cnp q t) s = .next u ∧ (u.dev.qp q).rate = (s.dev.qp q).rate / 2 ∧ (u.dev.qp q).lastCnp = some (max s.dev.now t)) ∧
      ((∃ c, (s.dev.qp q).lastCnp = some c ∧ max s.dev.now t < c + 50000) →
        ∃ u, exec (.cnp q t) s = .next u ∧ (u.dev.qp q).rate = (s.dev.qp q).rate) ∧
      ((s.dev.qp q).lastRaise + 500000 ≤ max s.dev.now t →
        ∃ u, exec (.cnpRateRecover q t) s = .next u ∧ (u.dev.qp q).rate = min (2 ^ 32) ((s.dev.qp q).rate + 2 ^ 32 / 16))) ∧
    (∀ offset : Int, -2147483648 ≤ offset → offset ≤ 2147483647 →
      (s.dev.get Reg.NET_PTP.enable = 0 → exec (.ptpSync offset t) s = .next (s.after
        { (s.dev.advance t).put Reg.NET_PTP_OFFSET.offset (offset % 4294967296).toNat with ptpAt := max s.dev.now t })) ∧
      (s.dev.get Reg.NET_PTP.enable = 1 → s.dev.get Reg.NET_PTP.step_ns < offset.natAbs →
        ∃ u, exec (.ptpSync offset t) s = .next u ∧ u.dev.daymark = (((s.dev.advance t).daymark - offset : Int) % 2 ^ 64).toNat))

/-! ### Start, resets and power -/

/-- The resets complete (R517, R521): whatever the state, a reset keeps flash and the NOR, and PWR_BOOT.cause tells which it was.
Where it rests on the model's choices: log entry 7. -/
def Obligations.ResetsComplete : Prop :=
  ∀ (s : State) (env : RomEnv),
    (∀ l, exec (.powerOnReset (some l) env) s = .next { s with mem := keepFlash s.mem, dev := s.dev.restart 0 env (some l) }) ∧
    (∀ ns, 1000 ≤ ns → exec (.resetN ns env) s = .next { s with mem := keepFlash s.mem, dev := s.dev.restart 1 env s.dev.boot.nor }) ∧
    (exec (.brownOut env) s = .next { s with mem := keepFlash s.mem, dev := s.dev.restart 2 env s.dev.boot.nor }) ∧
    (∀ m, s.dev.answers = true → s.dev.owner = m.code →
      exec (.pwrCtrlReset m env) s = .next { s with mem := keepFlash s.mem, dev := s.dev.restart 3 env s.dev.boot.nor }) ∧
    (∀ m image, s.dev.inRecovery = true → s.dev.awake = true → s.dev.owner = m.code → image.bytes ≤ 67108864 → directoryOk image = true →
      s.dev.checkImage image = ST.OK →
      exec (.recoveryLoad m image env) s = .next { s with mem := keepFlash s.mem, dev := s.dev.restart 4 env (some image) }) ∧
    (∀ a, Mem.read a (keepFlash s.mem) = if tierAddr 2 0 0 ≤ a ∧ a < tierAddr 3 0 0 then Mem.read a s.mem else 0) ∧
    (∀ cause nor, cause < 8 → (s.dev.restart cause env nor).get Reg.PWR_BOOT.cause = cause)

/-- The start goes on, or fails, at VCORE (R519, R525, R530, R536, R580): with VCORE and the PLL up it configures the device; without the PLL,
or 50 ms without VCORE, it ends in recovery with step 5 and ST_PWR_CLOCK, and both PCIe masters may claim.
Where it rests on the model's choices: log entries 6, 92, 93. -/
def Obligations.StartAndUpdateComplete : Prop :=
  (∀ (s : State) (env : MediaEnv) (t w : Nat), s.dev.boot.vcoreEn = true → s.dev.boot.waitingPg = some w →
    (∀ k, s.dev.boot.phase = .run ∨ s.dev.boot.phase = .entering k ∨ s.dev.boot.phase = .asleep k → env.pllLock = true → ∀ l, s.dev.boot.running = some l →
      ∃ d : Dev, exec (.vcorePgRise env t) s = .next { s with dev := d.configure l env } ∧ d.get Reg.PWR_AVS.pg = 1 ∧ d.get Reg.CLK_STATUS.pll_lock = 1 ∧
        d.get Reg.CLK_STATUS.on_bosc = 0 ∧ d.boot.waitingPg = none) ∧
    (env.pllLock = false → ∃ u, exec (.vcorePgRise env t) s = .next u ∧ u.dev.get Reg.PWR_BOOT.mode = 2 ∧ u.dev.get Reg.PWR_BOOT.step = 5 ∧
      u.dev.get Reg.PWR_BOOT.status = ST.PWR_CLOCK)) ∧
  (∀ (s : State) (t w : Nat), s.dev.boot.waitingPg = some w → w + 50000000 ≤ max s.dev.now t →
    exec (.vcorePgTimeout t) s = .next (s.after ((s.dev.advance t).startFails 5 ST.PWR_CLOCK))) ∧
  (∀ (s : State) (h : EntryHdr) (kind : Nat) (image : LightList) (e : Ent) (d : Dev), s.dev.serving = true → s.dev.fetch 0 64 h = some (e, d) →
    d.fromOwner e = true → d.keepers.any (fun k => k.role == .spare) = true → directoryOk image = true →
    (d.checkImage image = ST.OK → ∃ u : Dev, exec (.fwUpdate h kind image) s = .next (s.after (u.complete e ST.OK 0)) ∧ u.boot.nor = some image ∧
      u.sec.fwDigest = image.fw.digest ∧ u.boot.running = d.boot.running ∧ u.keepers = exchangeAll image.fw.digest d.keepers) ∧
    (d.checkImage image ≠ ST.OK →
      exec (.fwUpdate h kind image) s = .next (s.after ((d.imageRefused (d.checkImage image)).complete e (d.checkImage image) 0))))

/-- Entry into a power state and the ways out complete (R31, R526, R528 to R534, R536).
Where it rests on the model's choices: log entries 94, 95, 96. -/
def Obligations.PowerComplete : Prop :=
  (∀ (s : State) (m : Master) (target : Nat), s.dev.serving = true → s.dev.owner = m.code → (target = 2 ∨ target = 3 ∨ target = 4) →
    (target = 3 → s.dev.banksSelected ≤ 6) → s.dev.boot.phase = .run → s.dev.quiet = true →
    ∃ u, exec (.powerStateRequest m target) s = .next u ∧ u.dev.boot.phase = .entering target ∧ u.dev.get Reg.PWR_STATUS.state = target ∧
      u.dev.get Reg.PWR_CTRL.status = ST.OK) ∧
  (∀ (s : State) (env : RomEnv) (t target : Nat), s.dev.boot.phase = .entering target → s.dev.boot.frozen = false →
    ((s.dev.advance t).enterState target).levelSources target = 0 →
    exec (.powerEntryComplete env t) s = .next { s with dev := (s.dev.advance t).enterState target }) ∧
  (∀ (s : State) (env : RomEnv) (t target : Nat) (src : WakeSource) (inLast8 : Bool), s.dev.boot.frozen = false → (src = .wakeN ∨ src = .mctp) →
    s.dev.boot.phase = .asleep target → s.dev.wakeEnabled target src = true →
    (target ≠ 4 → exec (.wakeEvent src inLast8 env t) s = .next { s with dev := (s.dev.advance t).wakeUp target (2 ^ src.bit) }) ∧
    (target = 4 → exec (.wakeEvent src inLast8 env t) s = .next { s with mem := keepFlash s.mem, dev := (s.dev.advance t).restart 5 env s.dev.boot.nor })) ∧
  (∀ (s : State) (env : RomEnv) (t target k : Nat) (inLast8 : Bool), s.dev.boot.frozen = false → k < 4 → s.dev.get (Reg.CLK_CMPCTL.enable k) = 1 →
    s.dev.get (Reg.CLK_CMP.value k) ≤ (s.dev.advance t).daymark → s.dev.get (Reg.CLK_CMPCTL.level k) = 1 → target ≠ 4 → s.dev.boot.phase = .asleep target →
    s.dev.wakeEnabled target (.comparator k) = true →
    exec (.comparatorMatch k inLast8 env t) s = .next { s with dev := (s.dev.advance t).wakeUp target (2 ^ (WakeSource.comparator k).bit) }) ∧
  (∀ (s : State) (t quad : Nat), s.dev.serving = true → quad < 8 → (s.dev.advance t).quadFree quad = true →
    (s.dev.get Reg.PWR_STATUS.quads_idle).testBit quad = false →
    Tab.getD quad 0 s.dev.boot.lastBusy + s.dev.get Reg.PWR_CFG.idle_us * 1000 ≤ max s.dev.now t →
    ∃ u, exec (.quadIdleTimer quad t) s = .next u ∧ (u.dev.get Reg.PWR_STATUS.quads_idle).testBit quad = true) ∧
  (∀ (s : State), ∃ u, exec .vcorePgFall s = .next u ∧ u.dev.get Reg.PWR_AVS.pg = 0 ∧
    (s.dev.serving = true → s.dev.boot.phase = .run → u.dev.boot.stretch = (List.range 8).map (fun q => (q, 12)))) ∧
  (∀ (s : State) (p a o t : Nat), s.dev.serving = true → (1650000 < p ∨ (1300000 < p ∧ 5 < o) ∨ 1300000 < a) →
    ∃ u, exec (.powerStretchAdjust p a o t) s = .next u ∧ ∀ q, q < 8 → ∃ v, Tab.look q u.dev.boot.stretch = some v ∧ 1 ≤ v ∧ v ≤ 12) ∧
  (∀ (s : State) (m : Master) (v : Nat), s.dev.serving = true → s.dev.owner = m.code → s.dev.get Reg.NET_PTP.enable = 0 →
    exec (.clkDaymarkSet m v) s = .next (s.after { s.dev with daymark := v % 2 ^ 64 }))

/-! ### Observation and repair -/

/-- The counters' overflow, the Lantern's frames and syncs, the memory read, the Foghorn's entries and gap, and the failovers complete (R347,
R539, R544, R551 to R567).
Where it rests on the model's choices: log entries 97, 98, 99, 100. -/
def Obligations.ObservationComplete : Prop :=
  ∀ (s : State), s.dev.serving = true →
    (∀ c step cmd, s.dev.get Reg.CNT_CFG.enable = 1 → s.dev.get (cntRegs c).enable = 1 → s.dev.get (cntRegs c).chain = 0 →
      exec (.counterOverflow c step cmd) s = .next (s.after ((s.dev.put (cntRegs c).count (2 ^ 48 - 1)).cntAdd step cmd 64 c))) ∧
    (∀ k step cmd, k < 63 → s.dev.get Reg.CNT_CFG.enable = 1 → s.dev.get (Reg.CNT_SEL.enable k) = 1 → s.dev.get (Reg.CNT_SEL.chain k) = 0 →
      s.dev.get (Reg.CNT_SEL.chain (k + 1)) = 0 → ∃ u, exec (.counterOverflow (.chip k) step cmd) s = .next u ∧ u.dev.get (Reg.CNT_C.count k) = 0 ∧
        (u.dev.get Reg.CNT_OVF.overflow).testBit k = true) ∧
    (exec .lanternFrame s = .next (s.after s.dev.lanternFrame)) ∧
    (∀ t, 1 ≤ s.dev.debugLevel → s.dev.lantern.general.bytes = 0 → s.dev.lantern.general.lost = 0 →
      ∃ u, exec (.lanternSync t) s = .next u ∧ u.dev.lantern.general.recs = s.dev.lantern.general.recs ++ [⟨0x31, 16, [(s.dev.advance t).daymark]⟩]) ∧
    (∀ m, s.dev.owner = m.code →
      (s.dev.debugLevel < 2 → exec (.debugMemRead m) s = .next (s.after (s.dev.put Reg.DBG_MEM_CTRL.status ST.SEC_LEVEL))) ∧
      (s.dev.debugLevel = 2 → s.dev.fbOk (s.dev.get Reg.DBG_MEM_CTRL.sector) (s.dev.get Reg.DBG_MEM_ADDR.address) = true →
        ∃ u, exec (.debugMemRead m) s = .next u ∧ u.dev.get Reg.DBG_MEM_CTRL.status = ST.OK ∧ u.mem = s.mem ∧ ∀ w, w < 64 → u.dev.get (Reg.DBG_MEM_DATA.bytes w) =
          leNat ((List.range 4).map (fun i => s.dev.tierByte (s.dev.get Reg.DBG_MEM_ADDR.address / 2 ^ 62 - 1) (s.dev.get Reg.DBG_MEM_CTRL.sector)
            (s.dev.get Reg.DBG_MEM_ADDR.address % 2 ^ 48 + (4 * w + i)) s.mem))) ∧
      (s.dev.debugLevel = 2 → s.dev.fbOk (s.dev.get Reg.DBG_MEM_CTRL.sector) (s.dev.get Reg.DBG_MEM_ADDR.address) = false →
        exec (.debugMemRead m) s = .next (s.after (s.dev.put Reg.DBG_MEM_CTRL.status ST.POOL_RANGE))) ∧
      (∀ e, exec (.fogEntryFree m e none) s = .next (s.after { s.dev with fog := Tab.del e s.dev.fog })) ∧
      (∀ e x r, Tab.look e s.dev.fog = some x → x.id = r.id → exec (.fogEntryFree m e (some r)) s = .next (s.after (s.dev.report r)))) ∧
    (∀ t g, s.dev.gap.until_ = some g → g ≤ max s.dev.now t →
      ((s.dev.gap.root = true ∨ s.dev.gap.error = true) →
        exec (.fogGapEnd t) s = .next (s.after ((s.dev.advance t).fogFire s.dev.gap.root s.dev.gap.error))) ∧
      (s.dev.gap.root = false → s.dev.gap.error = false → exec (.fogGapEnd t) s = .next (s.after { s.dev.advance t with gap := ⟨none, false, false⟩ }))) ∧
    (∀ k sp, s.dev.keeperRole k = some .active → s.dev.keepers.findIdx? (fun (x : Keeper) => x.role == KeeperRole.spare) = some sp →
      ∃ u, exec (.keeperFailover k) s = .next u ∧ u.dev.keeperRole k = some .failed ∧ u.dev.keeperRole sp = some .active) ∧
    (∀ core, core < 32 → exec (.sequencerCheckFail core) s = .next (s.after (s.dev.retireCore core)))

/-! ### Composition -/

/-- The composition commands complete (R340 to R347): the owner's map that passes its checks is staged and asks for its pass, one that fails a check
completes with that check's status, and any other master's is denied; COMPOSE_REQ starts the pass at HEAD and goes on elsewhere; COMPOSE is
checked against the chip's own map and goes on, and at HEAD ends the first pass; SWITCH switches once and goes on, and at HEAD ends the second;
COMPOSE_CANCEL discards the staged map; when nothing of the former map runs any more its leavings are zeroed, the pending shares take effect and
SECTOR_COMPOSE completes and a pass that waited for the drain starts; the grace period ends; a message that has been out for 10 ms is reported and goes out again.
Where it rests on the model's choices: log entries 57, 58. -/
def Obligations.CompositionComplete : Prop :=
  ∀ (s : State) (t : Nat), s.dev.serving = true →
    (∀ h bytes e d, s.dev.fetch 0 64 h = some (e, d) →
      (d.fromOwner e = true → d.checkMap (mapOf bytes) = ST.OK → exec (.sectorCompose h bytes) s = .next (s.after (Dev.askPass (mapOf bytes).epoch
        { d with comp := { d.comp with staged := some (mapOf bytes), stager := some e } }))) ∧
      (d.fromOwner e = true → d.checkMap (mapOf bytes) ≠ ST.OK →
        exec (.sectorCompose h bytes) s = .next (s.after (d.complete e (d.checkMap (mapOf bytes)) 0))) ∧
      (d.fromOwner e = false → exec (.sectorCompose h bytes) s = .next (s.after (d.complete e ST.SCT_DENIED 0)))) ∧
    (∀ m, (s.dev.isHead = true → exec (.composeReq m t) s = .next (s.after ((s.dev.advance t).startPass m.newEpoch))) ∧
      (s.dev.isHead = false → exec (.composeReq m t) s = .next (s.after ((s.dev.advance t).emit (.compMsg m))))) ∧
    (∀ m : CompMsg, s.dev.isHead = false → s.dev.comp.prev ≠ none → exec (.compose m t) s = .next (s.after (s.dev.advance t))) ∧
    (∀ m : CompMsg, s.dev.isHead = false → s.dev.comp.prev = none →
      (m.status ≠ ST.OK ∨ presentMask ((s.dev.advance t).mapFor m.newEpoch).sects = m.present →
        exec (.compose m t) s = .next (s.after ((s.dev.advance t).emit (.compMsg m)))) ∧
      (m.status = ST.OK → presentMask ((s.dev.advance t).mapFor m.newEpoch).sects ≠ m.present → exec (.compose m t) s = .next (s.after
        ((s.dev.advance t).emit (.compMsg { m with status := ST.SCT_GROUP, failPos := s.dev.position }))))) ∧
    (∀ (m : CompMsg) st, s.dev.isHead = true → s.dev.comp.passMsg = some (0x11, m.newEpoch, st) →
      exec (.compose m t) s = .next (s.after ((s.dev.advance t).composeBack m.newEpoch m.status m.failPos))) ∧
    (∀ m : CompMsg, s.dev.isHead = false →
      (m.newEpoch = nextEpoch s.dev.comp.cur.epoch → s.dev.comp.prev = none →
        exec (.switch m t) s = .next (s.after (((s.dev.advance t).switchMap m.newEpoch m.lastOldStep).emit (.compMsg m)))) ∧
      (m.newEpoch ≠ nextEpoch s.dev.comp.cur.epoch → exec (.switch m t) s = .next (s.after ((s.dev.advance t).emit (.compMsg m)))) ∧
      exec (.composeCancel m) s = .next (s.after (((s.dev.dropStaged m.status).flag Reg.SCT_ERR.compose_cancel).emit (.compMsg m)))) ∧
    (∀ (m : CompMsg) e st, s.dev.isHead = true →
      (s.dev.comp.passMsg = some (0x12, e, st) → exec (.switch m t) s = .next (s.after (s.dev.advance t).nextPass)) ∧
      (s.dev.comp.passMsg = some (0x13, e, st) → exec (.composeCancel m) s = .next (s.after s.dev.nextPass))) ∧
    (∀ p, s.dev.comp.prev = some p → s.dev.oldCount = 0 → exec .mapDrainDone s = .next (s.afterBoth (zeroTails p s.dev.comp.cur s.mem,
      (Dev.completeOpt s.dev.comp.stager ST.OK 0 (Dev.checkShares (Dev.takePends (fun q => q.block == Blk.sct)
        ((Dev.put Reg.SCT_DRAIN.draining 0 { s.dev with comp := { s.dev.comp with prev := none, prevOps := [], lastOld := [], stager := none } }).put
          Reg.SCT_EPOCH.previous 0)))).tryRepair.resumePass))) ∧
    (s.dev.comp.graceEnd ≤ max s.dev.now t → exec (.graceExpiry t) s = .next (s.after
      { s.dev.advance t with comp := { s.dev.comp with graceEnd := 0 } })) ∧
    (∀ k e st, s.dev.comp.passMsg = some (k, e, st) → k ≠ 0x10 → s.dev.comp.passAt + 10000000 ≤ max s.dev.now t → ∃ u m, exec (.composeResend t) s = .next u ∧
      u.dev.out.head? = some (.compMsg m) ∧ m.kind = k ∧ m.newEpoch = e ∧ u.dev.comp.passAt = max s.dev.now t)

/-- A switch makes the map its epoch's, keeps the former one until it drains, and starts the grace period (R343, R344).
Where it rests on the model's choices: log entry 57. -/
def Obligations.SwitchKeepsBothMaps : Prop :=
  ∀ (epoch : Nat) (last : List Nat) (d : Dev) (m : CompMap), d.layMap epoch (d.mapFor epoch).sects = some m →
    ((d.switchMap epoch last).comp.cur = m ∧ (d.switchMap epoch last).comp.prev = some d.comp.cur ∧ (d.switchMap epoch last).comp.staged = none ∧
      (d.switchMap epoch last).comp.graceEnd = d.now + d.get Reg.SCT_CFG.grace_ms * 1000000 ∧
      (d.switchMap epoch last).get Reg.SCT_DRAIN.draining = 1)

/-! ### The Lens and the media -/

/-- The calendar's visits and the sampler's sweeps complete (R366, R367, R381 to R383).
The stacks' events complete (R423 to R425, R431, R432): a reading sets the sensor, the refresh interval and the halt, which begins above
110 °C and ends below 100 °C; a scrub pass, where scrubbing is on, counts its corrections, poisons its uncorrectable blocks, marks its failed
nodes and may start sparing; sparing starts on a free spare and ends with the spare in the channel's slot.
Where it rests on the model's choices: log entries 67, 68, 71, 72, 73. -/
def Obligations.LensAndStacksComplete : Prop :=
  (∀ (s : State) (t : Nat), s.dev.serving = true →
       (∀ slot, exec (.lensSlotVisit slot t) s = .next (s.after ((s.dev.advance t).visitSlot slot))) ∧
       (s.dev.get Reg.LENS_SAMP_CFG.enable = 1 → s.dev.lens.sweepAt ≤ max s.dev.now t → ∃ u, exec (.sampleSweep t) s = .next u ∧
         u.dev.lens.sweepAt = max s.dev.now t + (if s.dev.get Reg.LENS_SAMP_CFG.interval = 0 then 256 else s.dev.get Reg.LENS_SAMP_CFG.interval) *
           (4096 * s.dev.slotW)) ∧
       (s.dev.get Reg.LENS_SAMP_CFG.enable = 0 → exec (.sampleSweep t) s = .next (s.after (s.dev.advance t)))) ∧
  (∀ (s : State) (stack : Nat), s.dev.serving = true → stack < 12 →
       (∀ temp, temp < 256 → ∃ u, exec (.stackTempEvent stack temp) s = .next u ∧ u.dev.get (Reg.STK_STATUS.temp stack) = temp ∧
         u.dev.get (Reg.STK_STATUS.refresh_2x stack) = (if 85 < temp then 1 else 0) ∧
         u.dev.get (Reg.STK_STATUS.halted stack) = (if temp < 100 then 0 else if 110 < temp ∧ s.dev.get (Reg.STK_STATUS.halted stack) ≠ 1 then 1
           else s.dev.get (Reg.STK_STATUS.halted stack))) ∧
       (∀ chan corrected poison nodes mac pin retrain, chan < 128 →
         (s.dev.get (Reg.STK_CFG.scrub_hours stack) = 0 → exec (.scrubPass stack chan corrected poison nodes mac pin retrain) s = .next (s.after s.dev)) ∧
         (s.dev.get (Reg.STK_CFG.scrub_hours stack) ≠ 0 → exec (.scrubPass stack chan corrected poison nodes mac pin retrain) s = .next (s.after
           (let d := poison.foldl (fun (d : Dev) b => d.poisonBlock ⟨stack, chan, b, false, 0, .nothing⟩) (s.dev.scrubCorrected stack chan corrected)
            let d := (mac.foldl (fun (d : Dev) b => d.poisonBlock ⟨stack, chan, b, true, 0, .nothing⟩) d).failNodes stack chan nodes
            d.spareTrigger stack chan (pin || decide (d.get (Reg.STK_CFG.spare_threshold stack) < corrected) || !poison.isEmpty) retrain)))) ∧
       (∀ m chan c, chan < 128 → s.dev.owner = m.code → s.dev.freeSpare stack = some c → (s.dev.stack stack).sparing = none →
         s.dev.get (Reg.STK_CH.state stack chan) = 0 → ∃ u, exec (.stkSpareStart m stack chan) s = .next u ∧
           (u.dev.stack stack).sparing = some ⟨chan, c, s.dev.slotOfChan stack chan⟩ ∧ u.dev.get (Reg.STK_SPARE.busy stack) = 1) ∧
       (∀ x, (s.dev.stack stack).sparing = some x → x.chan ≠ x.spare → x.chan < 128 → x.spare < 128 → x.slot < 128 →
         ∃ u, exec (.channelSpareDone stack) s = .next u ∧ (u.dev.stack stack).sparing = none ∧
           u.dev.get (Reg.STK_CH.slot stack x.spare) = x.slot ∧ u.dev.get (Reg.STK_CH.state stack x.spare) = 0 ∧
           u.dev.get (Reg.STK_CH.state stack x.chan) = 3 ∧ u.dev.get (Reg.STK_SPARE.busy stack) = 0 ∧ u.dev.get (Reg.STK_ERR.spare_done stack) = 1))

/-- The translation layer's events complete (R436 to R448): a program that succeeds lays its extent at the pages taken; collection relocates its
victim and erases it, or retires it where an extent of it cannot be read, where too few groups are free; wear levelling relocates the least-erased group in use, where the counts lie too far apart;
a group read too often, or found weak, is relocated, and one whose scan finds unreadable extents is retired; a flush writes the changed table;
a channel that stops answering is lost and reported.
Where it rests on the model's choices: log entry 74. -/
def Obligations.FlashComplete : Prop :=
  ∀ (s : State) (t : Nat), s.dev.serving = true →
    (∀ sector e key c l g p d', (s.dev.advance t).extentKey sector e = some key → (s.dev.advance t).nextChan sector = some c →
      Dev.pickLun c (Dev.flUpd (fun f => { f with seq := s.dev.media.flash.seq + 1 })
        ((s.dev.advance t).flUpd (fun f => { f with lastChan := Tab.put sector c f.lastChan }))) = some l →
      Dev.takePages l (Dev.flUpd (fun f => { f with seq := s.dev.media.flash.seq + 1 })
        ((s.dev.advance t).flUpd (fun f => { f with lastChan := Tab.put sector c f.lastChan }))) = some (g, p, d') →
      exec (.flashProgramDone sector e t true) s = .next (s.after (d'.programAt l g p e (s.dev.media.flash.seq + 1) key))) ∧
    (∀ lun bad ok d, d = (s.dev.advance t).trim → d.lunActive lun = true →
      ((d.freeGroups lun).length < d.get Reg.FLS_CFG.gc_low → d.gcVictim lun = none → exec (.flashGc lun bad ok t) s = .next (s.after d)) ∧
      (d.get Reg.FLS_CFG.gc_low ≤ (d.freeGroups lun).length → exec (.flashGc lun bad ok t) s = .next (s.after d)) ∧
      (∀ g, (d.freeGroups lun).length < d.get Reg.FLS_CFG.gc_low → d.gcVictim lun = some g →
        ((d.extentsIn lun g).any (fun e => bad.contains e) = true → exec (.flashGc lun bad ok t) s = .next (s.after (d.retireGroup lun g bad))) ∧
        ((d.extentsIn lun g).any (fun e => bad.contains e) = false →
          ((d.relocateGroup lun g bad).extentsIn lun g).all (fun e => (d.relocateGroup lun g bad).media.flash.failed.contains e) = true →
          exec (.flashGc lun bad ok t) s = .next (s.after ((d.relocateGroup lun g bad).eraseGroup lun g ok)))) ∧
      (∀ g, d.get Reg.FLS_CFG2.wl_spread + (d.eraseCounts lun).foldl min ((d.eraseCounts lun).headD 0) < (d.eraseCounts lun).foldl max 0 →
        bestBy false (fun g => (d.blockGroup lun g).erases) ((d.groupsOf lun).filter (fun g => !(d.extentsIn lun g).isEmpty)) = some g →
        exec (.wearLevel lun t) s = .next (s.after (d.relocateGroup lun g []))) ∧
      ((d.eraseCounts lun).foldl max 0 ≤ d.get Reg.FLS_CFG2.wl_spread + (d.eraseCounts lun).foldl min ((d.eraseCounts lun).headD 0) →
        exec (.wearLevel lun t) s = .next (s.after d))) ∧
    (∀ lun g reads weak d, (s.dev.advance t).lunActive lun = true →
      d = (s.dev.advance t).groupUpd lun g (fun b => { b with reads := b.reads + reads }) →
      (weak = true ∨ (if s.dev.get Reg.FLS_CFG.rd_limit_k = 0 then 65536 else s.dev.get Reg.FLS_CFG.rd_limit_k) * 1000 ≤ (d.blockGroup lun g).reads →
        exec (.readDisturbRelocate lun g reads weak t) s = .next (s.after ((d.relocateGroup lun g []).groupUpd lun g (fun b => { b with reads := 0 })))) ∧
      (weak = false → (d.blockGroup lun g).reads < (if s.dev.get Reg.FLS_CFG.rd_limit_k = 0 then 65536 else s.dev.get Reg.FLS_CFG.rd_limit_k) * 1000 →
        exec (.readDisturbRelocate lun g reads weak t) s = .next (s.after d))) ∧
    (∀ lun g weak bad, (s.dev.advance t).lunActive lun = true → s.dev.get Reg.FLS_CFG.retention_days ≠ 0 →
      (bad ≠ [] → exec (.retentionScan lun g weak bad t) s = .next (s.after ((s.dev.advance t).retireGroup lun g bad))) ∧
      (bad = [] → weak = true → exec (.retentionScan lun g weak bad t) s = .next (s.after (((s.dev.advance t).relocateGroup lun g []).groupUpd lun g (fun b => { b with reads := 0 })))) ∧
      (bad = [] → weak = false → exec (.retentionScan lun g weak bad t) s = .next (s.after (s.dev.advance t)))) ∧
    (exec (.tableFlush t) s = .next (s.after ((s.dev.advance t).flUpd (fun f => { f with changed := [], flushedSeq := f.seq })))) ∧
    (∀ chan, s.dev.get (Reg.FLS_CH.state chan) = 1 → exec (.flashChannelLost chan) s = .next (s.after
      (((s.dev.put (Reg.FLS_CH.state chan) 2).flag Reg.FLS_ERR.channel_lost).reportUnit 0x5 chan 2)))

/-! ### The pool -/

/-- The extent commands complete (R351, R352, R358): the owner's extent that fits its host's partition is made with its handle, and one that does
not fit is not; it is shared with up to eight grants; a revocation drains the grants it names; any other master is denied; the end of the last
grant frees the extent and zeroes the bytes it took, where no index opens on it.
Waiting requests, the end of a publish window and of a handover, and a member's answer or silence complete (R356, R358 to R360).
Where it rests on the model's choices: log entries 59, 60, 61, 62. -/
def Obligations.ExtentEventsComplete : Prop :=
  ((∀ (s : State) (c : ExtentCmd) (e : Ent) (d : Dev), s.dev.serving = true → s.dev.fetch 0 64 c.hdr = some (e, d) → d.fromOwner e = true →
       (∀ k g, c.bytes ≠ 0 → c.bytes % 65536 = 0 → (c.tier = 1 ∨ c.tier = 2) → d.extentNext = some (k, g) →
         d.partitionUsed c.host c.tier + (if c.rights.testBit 3 then 2 * c.bytes else c.bytes) ≤ d.partition c.host c.tier →
         ∃ u : Dev, exec (.extentCreate c) s = .next (s.after (u.complete e ST.OK (k + g * 65536))) ∧ u.que = d.que ∧
           ∃ x, Tab.look k u.pool.extents = some x ∧ x.live = true ∧ x.gen = g ∧ x.host = c.host ∧ x.tier = c.tier ∧ x.bytes = c.bytes ∧
             x.publishable = c.rights.testBit 3 ∧ x.version = 0 ∧ x.grants = [⟨c.host, c.rights % 8, false, 0, []⟩]) ∧
       (∀ k g, c.bytes ≠ 0 → c.bytes % 65536 = 0 → (c.tier = 1 ∨ c.tier = 2) → d.extentNext = some (k, g) →
         d.partition c.host c.tier < d.partitionUsed c.host c.tier + (if c.rights.testBit 3 then 2 * c.bytes else c.bytes) →
         exec (.extentCreate c) s = .next (s.after (d.complete e ST.POOL_NOSPACE 0))) ∧
       (∀ k x, d.extentOf c.handle = some (k, x) →
         (x.grants.length < 8 → exec (.extentShare c) s = .next (s.after
           ((d.extUpd k (fun x => { x with grants := x.grants ++ [Grant.new c.host c.rights] })).complete e ST.OK 0))) ∧
         (8 ≤ x.grants.length → exec (.extentShare c) s = .next (s.after (d.complete e ST.POOL_NOSPACE 0)))) ∧
       (d.extentOf c.handle = none → exec (.extentShare c) s = .next (s.after (d.complete e ST.POOL_NOEXTENT 0)))) ∧
     (∀ (s : State) (c : ExtentCmd) (e : Ent) (d : Dev), s.dev.serving = true → s.dev.fetch 0 64 c.hdr = some (e, d) → d.fromOwner e = false →
       exec (.extentCreate c) s = .next (s.after (d.complete e ST.POOL_DENIED 0)) ∧
       exec (.extentShare c) s = .next (s.after (d.complete e ST.POOL_DENIED 0))) ∧
     (∀ (s : State) (c : ExtentCmd) (t : Nat) (e : Ent) (d : Dev), s.dev.serving = true → (s.dev.advance t).fetch 0 64 c.hdr = some (e, d) →
       (d.fromOwner e = false → exec (.extentRevoke c t) s = .next (s.after (d.complete e ST.POOL_DENIED 0))) ∧
       (d.fromOwner e = true → d.extentOf c.handle = none → exec (.extentRevoke c t) s = .next (s.after (d.complete e ST.POOL_NOEXTENT 0))) ∧
       (∀ k x, d.fromOwner e = true → d.extentOf c.handle = some (k, x) →
         (x.grants.any (fun g => c.host == 0xFFFF || g.host == c.host) = true → exec (.extentRevoke c t) s = .next (s.after
           (d.extUpd k (Extent.drain (fun g => c.host == 0xFFFF || g.host == c.host)
             (d.now + (if c.drainUs = 0 then d.get Reg.POOL_CFG.drain_us else c.drainUs) * 1000) (some e))))) ∧
         (x.grants.any (fun g => c.host == 0xFFFF || g.host == c.host) = false → exec (.extentRevoke c t) s = .next (s.after
           (d.complete e ST.POOL_NOEXTENT 0))))) ∧
     (∀ (s : State) (k host t : Nat) (x : Extent) (g : Grant), s.dev.serving = true → Tab.look k s.dev.pool.extents = some x → x.live = true →
       x.grants = [g] → g.host = host → g.draining = true → g.drainEnd ≤ max s.dev.now t →
       s.dev.idx.idx.any (fun e => e.2.st == 1 && e.2.base == poolAddr k 0) = false →
       ∃ u, exec (.grantDestroy k host t) s = .next u ∧ u.mem = (if x.window.isSome then s.mem else Mem.zero (poolAddr k 0) x.taken s.mem) ∧
         (Tab.look k u.dev.pool.extents).map (·.live) = some false)) ∧
  (∀ (s : State) (t : Nat) (d : Dev), s.dev.serving = true → d = s.dev.advance t →
       (∀ (r : PoolReq) qs, Tab.getD r.host [] d.pool.queues = r :: qs → d.bucketOk r.host = true →
         exec (.poolQueueRelease r t) s = .next (s.afterBoth (Dev.poolServe r s.mem (Dev.bucketDebit r.host r.length
           { d with pool := { d.pool with queues := Tab.put r.host qs d.pool.queues } })))) ∧
       (∀ k x w p, Tab.look k d.pool.extents = some x → x.windowEnd = some w → w ≤ d.now → pubWinner x.version x.staged = some p →
         ∃ u, exec (.publishWindowEnd k t) s = .next u ∧ u.mem = Mem.writes (poolAddr k ((1 - x.half) * x.bytes + p.offset)) p.bytes s.mem ∧
           (Tab.look k u.dev.pool.extents).map (·.version) = some p.version ∧ (Tab.look k u.dev.pool.extents).map (·.half) = some (1 - x.half)) ∧
       (∀ k x h w, Tab.look k d.pool.extents = some x → x.oldWriter = some (h, w) → w ≤ d.now →
         ∃ u, exec (.handoverOverlapEnd k t) s = .next u ∧ Tab.look k u.dev.pool.extents = some { setWriter h false x with oldWriter := none }) ∧
       (∀ (p : PoolResp) o, Tab.look p.tag s.dev.pool.requests = some o →
         (o.opened = false → exec (.poolResponse p) s = .next (s.after
           (Dev.flag Reg.POOL_ERR.late_discard { s.dev with pool := { s.dev.pool with requests := Tab.del p.tag s.dev.pool.requests } }))) ∧
         (o.opened = true → p.status = ST.OK → exec (.poolResponse p) s = .next (s.afterBoth (Dev.codedAck o.sid o.member s.mem
           { s.dev with pool := { s.dev.pool with requests := Tab.del p.tag s.dev.pool.requests } })))) ∧
       (∀ sid m w, Tab.look sid d.pool.coded = some w → w.started + d.get Reg.POOL_CFG.code_timeout_ms * 1000000 ≤ d.now →
         exec (.codeMemberTimeout sid m t) s = .next (s.afterBoth (d.codedFail sid m s.mem))))

/-- A request that passes the checks of R355, from a host whose allowance is not overdrawn and that has none waiting, runs at once (R353 to
R357): a read answers the extent's bytes, or those its window shows; a write, fill, copy, compare or reduce changes exactly what it names; a
publish waits for its window, a handover and a release move the writer of record, and all three are refused to a host that may not.
Where it rests on the model's choices: log entries 59, 60, 61. -/
def Obligations.PoolRequestsComplete : Prop :=
  ∀ (s : State) (r : PoolReq) (t k : Nat) (x : Extent) (d b : Dev), s.dev.serving = true → d = s.dev.advance t → r.tagOk = true →
    Tab.getD r.host [] d.pool.queues = [] → d.bucketOk r.host = true → b = d.bucketDebit r.host r.length → b.extentOf r.handle = some (k, x) →
    (d.poolCheck 1 r = ST.OK → r.op = 1 → exec (.poolRead r t) s = .next (s.after
      (b.respond r.host 1 r.tag ST.OK 0 x.shown (b.extBytes k x r.offset r.length s.mem)))) ∧
    (d.poolCheck 2 r = ST.OK → r.op = 2 → exec (.poolWrite r t) s = .next (s.afterBoth
      (Mem.writes (extAddr k x r.offset) (r.data.take r.length) s.mem, b.respond r.host 2 r.tag ST.OK 0 x.shown []))) ∧
    (d.poolCheck 3 r = ST.OK → r.op = 3 → exec (.poolFill r t) s = .next (s.afterBoth
      (Mem.writes (extAddr k x r.offset) (fillBytes r.value r.length) s.mem, b.respond r.host 3 r.tag ST.OK 0 x.shown []))) ∧
    (∀ j y, d.poolCheck 4 r = ST.OK → r.op = 4 → b.extentOf r.auxHandle = some (j, y) → exec (.poolCopy r t) s = .next (s.afterBoth
      (Mem.writes (extAddr k x r.offset) (b.extBytes j y r.auxOffset r.length s.mem) s.mem, b.respond r.host 4 r.tag ST.OK 0 x.shown []))) ∧
    (∀ c, d.poolCheck 5 r = ST.OK → r.op = 5 → c = compareOf r (b.extBytes k x r.offset r.length s.mem) →
      (c.2 = none → exec (.poolCompare r t) s = .next (s.after (b.respond r.host 5 r.tag ST.OK c.1 x.shown []))) ∧
      (∀ bs, c.2 = some bs → x.window = none → exec (.poolCompare r t) s = .next (s.afterBoth (Mem.writes (extAddr k x r.offset) bs s.mem,
          b.respond r.host 5 r.tag ST.OK c.1 x.shown []))) ∧
      (∀ bs sid, c.2 = some bs → x.window = some sid → exec (.poolCompare r t) s = .next (s.after (Dev.respond r.host 5 r.tag ST.OK c.1 x.shown []
          { b with ses := { b.ses with records := Tab.upd sid (claimSwap r.offset bs) b.ses.records } })))) ∧
    (d.poolCheck 6 r = ST.OK → r.op = 6 → exec (.poolReduce r t) s = .next (s.afterBoth
      (Mem.writes (extAddr k x r.offset) (reduceBytes r.flags (if r.flags.testBit 1 then 2 else 4) (r.length / (if r.flags.testBit 1 then 2 else 4))
        (b.extBytes k x r.offset r.length s.mem) r.data) s.mem, b.respond r.host 6 r.tag ST.OK 0 x.shown []))) ∧
    (∀ g, b.grantOf x r.host = some g →
      (d.poolCheck 7 r = ST.OK → r.op = 7 →
        (g.rights.testBit 2 = true → x.publishable = true → exec (.poolPublish r t) s = .next (s.afterBoth (s.mem, b.stagePublish k r s.mem))) ∧
        (g.rights.testBit 2 = false ∨ x.publishable = false → exec (.poolPublish r t) s = .next (s.after
          (b.respond r.host 7 r.tag ST.POOL_NOTOWNER x.version x.shown [])))) ∧
      (d.poolCheck 8 r = ST.OK → r.op = 8 →
        (g.rights.testBit 2 = true → (∀ h w, x.oldWriter = some (h, w) → h ≠ r.host) → exec (.poolHandover r t) s = .next (s.after (b.handover k x r))) ∧
        (g.rights.testBit 2 = false ∨ (∃ w, x.oldWriter = some (r.host, w)) → exec (.poolHandover r t) s = .next (s.after
          (b.respond r.host 8 r.tag ST.POOL_NOTOWNER 0 x.shown []))))) ∧
    (d.poolCheck 9 r = ST.OK → r.op = 9 →
      (∀ w, x.oldWriter = some (r.host, w) → exec (.poolRelease r t) s = .next (s.after
        ((b.extUpd k Extent.endOverlap).respond r.host 9 r.tag ST.OK 0 x.shown []))) ∧
      (x.oldWriter = none → exec (.poolRelease r t) s = .next (s.after (b.respond r.host 9 r.tag ST.POOL_NOTOWNER 0 x.shown []))))

/-- A request that passes its checks but exceeds its host's rate, or finds others waiting, waits in the host's queue, a READ of a publishable
extent with the version it was accepted under (R359); one that finds 256 waiting completes with ST_POOL_BUSY (R356).
A request that fails a check is answered with that check's status, and nothing of its effect happens (R355); one whose tag does not verify is
dropped and POOL_ERR.auth set; a handle that names no live extent of its generation is ST_POOL_NOEXTENT, and a draining grant ST_POOL_REVOKED.
Where it rests on the model's choices: log entry 59. -/
def Obligations.PoolRequestsTurnedAway : Prop :=
  (∀ (s : State) (r : PoolReq) (t : Nat) (d : Dev) (c : Nat × Instr), s.dev.serving = true → d = s.dev.advance t → c ∈ poolCommands r t →
       d.poolCheck c.1 r = ST.OK → r.tagOk = true → (Tab.getD r.host [] d.pool.queues ≠ [] ∨ d.bucketOk r.host = false) →
       ((Tab.getD r.host [] d.pool.queues).length < 256 → exec c.2 s = .next (s.after
         { d.pinRead r s.mem with pool := { (d.pinRead r s.mem).pool with queues := Tab.put r.host (Tab.getD r.host [] d.pool.queues ++ [r]) d.pool.queues } })) ∧
       (∀ k x, d.extentOf r.handle = some (k, x) →
         (r.op = 1 → x.publishable = true →
           d.pinRead r s.mem = { d with pool := { d.pool with pinned := d.pool.pinned ++ [(r, x.version, d.extBytes k x r.offset r.length s.mem)] } }) ∧
         (r.op ≠ 1 ∨ x.publishable = false → d.pinRead r s.mem = d)) ∧
       (256 ≤ (Tab.getD r.host [] d.pool.queues).length → exec c.2 s = .next (s.after (d.respond r.host r.op r.tag ST.POOL_BUSY 0 0 [])))) ∧
  ((∀ (s : State) (r : PoolReq) (t : Nat) (d : Dev) (c : Nat × Instr), s.dev.serving = true → d = s.dev.advance t → c ∈ poolCommands r t →
       (∀ st, d.poolCheck c.1 r = st → st ≠ ST.OK → (st = ST.POOL_NOEXTENT ∨ r.tagOk = true) →
         exec c.2 s = .next (s.after ((if st = ST.EPOCH_STALE then d.stale (d.partySector r.host) else d).respond r.host r.op r.tag st 0 0 []))) ∧
       (d.poolCheck c.1 r ≠ ST.POOL_NOEXTENT → r.tagOk = false → exec c.2 s = .next (s.after (d.flag Reg.POOL_ERR.auth)))) ∧
     (∀ (r : PoolReq) (d : Dev) (op : Nat),
       (d.extentOf r.handle = none → d.poolCheck op r = ST.POOL_NOEXTENT) ∧
       (∀ k x g, d.extentOf r.handle = some (k, x) → d.grantOf x r.host = some g → g.draining = true → d.poolCheck op r = ST.POOL_REVOKED)))

/-! ### Vector search -/

/-- INDEX_CREATE completes, and INDEX_DROP, VEC_INSERT, VEC_DELETE and VEC_QUERY are taken (R316 to R319, R325), or each answers the status of
the first check that fails: the header's form, the number in use and the space for a create from host memory; an extent that is the Sector's
becomes the range in place.
Tables and rounds complete (R313 to R315, R319 to R324): a DIST_TABLE's queries get their tables and begin with the entry nodes, or a
list's own DIST_TABLE runs; gathered queries go to the table core; a table that has waited is urgent, and ends its queries with
ST_IDX_NOTABLE where the core has left the Sector; a round moves its query to the next round, to the rerank or to its result, and ends a query of
an index being dropped.
Where it rests on the model's choices: log entries 51, 52, 54, 55, 56. -/
def Obligations.VectorSearchComplete : Prop :=
  ((∀ (s : State) (h : EntryHdr) (n kind src len : Nat) (content : List (Nat × List Byte)) (e : Ent) (d : Dev) (sector : Nat),
       s.dev.serving = true → s.dev.fetch 0 64 h = some (e, d) → d.entSector e = some sector →
       ((64 ≤ n ∨ (kind ≠ 0 ∧ kind ≠ 2) ∨ (kind = 2 ∧ d.sectorExtent src sector = none)) →
         exec (.indexCreate h n kind src len content) s = .next (s.after (d.complete e ST.IDX_BADPARAM 0))) ∧
       (∀ b x, n < 64 → (∀ o k, b o k = leNat ((List.range k).map (fun i => contentByte content (o + i)))) → x = idxHeader sector 0 b → kind = 0 →
         (headerOk b x len = false → exec (.indexCreate h n kind src len content) s = .next (s.after (d.complete e ST.IDX_FORMAT 0))) ∧
         (headerOk b x len = true → Tab.look n d.idx.idx ≠ none →
           exec (.indexCreate h n kind src len content) s = .next (s.after (d.complete e ST.IDX_EXISTS 0))) ∧
         (headerOk b x len = true → Tab.look n d.idx.idx = none → d.rangePlace sector (ceilDiv x.rangeBytes 65536 * 16) = none →
           exec (.indexCreate h n kind src len content) s = .next (s.after (d.complete e ST.IDX_NOSPACE 0))) ∧
         (∀ u, headerOk b x len = true → Tab.look n d.idx.idx = none → d.rangePlace sector (ceilDiv x.rangeBytes 65536 * 16) = some u →
           ∃ k : Dev, exec (.indexCreate h n kind src len content) s = .next (s.afterBoth
             (writeContent (tierAddr 2 sector (4096 * u)) x.rangeBytes content s.mem, k.complete e ST.OK 0)) ∧
             Tab.look n k.idx.idx = some { x with base := tierAddr 2 sector (4096 * u), units := ceilDiv x.rangeBytes 65536 * 16 })) ∧
       (∀ b x j y, n < 64 → kind = 2 → d.sectorExtent src sector = some (j, y) → (∀ o k, b o k = leNat (Mem.reads (poolAddr j o) k s.mem)) →
         x = idxHeader sector 0 b →
         (headerOk b x (min len y.bytes) = false → exec (.indexCreate h n kind src len content) s = .next (s.after (d.complete e ST.IDX_FORMAT 0))) ∧
         (headerOk b x (min len y.bytes) = true → Tab.look n d.idx.idx ≠ none →
           exec (.indexCreate h n kind src len content) s = .next (s.after (d.complete e ST.IDX_EXISTS 0))) ∧
         (headerOk b x (min len y.bytes) = true → Tab.look n d.idx.idx = none →
           exec (.indexCreate h n kind src len content) s = .next (s.after
             (d.openExtent e n sector j { x with base := poolAddr j 0, units := ceilDiv x.rangeBytes 65536 * 16 }))))) ∧
     (∀ (s : State) (h : EntryHdr) (n : Nat) (e : Ent) (d : Dev), s.dev.serving = true → s.dev.fetch 0 64 h = some (e, d) →
       (idxStatus (d.indexFor e n) ≠ ST.OK →
         exec (.indexDrop h n) s = .next (s.after (d.complete e (idxStatus (d.indexFor e n)) 0)) ∧
         ∀ node, exec (.vecDelete h n node) s = .next (s.after (d.complete e (idxStatus (d.indexFor e n)) 0))) ∧
       (idxStatus (d.indexFor e n) = ST.OK → ∀ node,
         exec (.vecDelete h n node) s = .next (s.after (d.idxUpd n (fun x => { x with writes := x.writes ++ [.delete e node] })))) ∧
       (∀ x, d.indexFor e n = some x → x.st = 2 → Tab.look n d.idx.idx = some x →
         (d.idxQueries n = [] → ∃ u, exec (.indexDrop h n) s = .next u ∧ u.mem = Mem.zero x.base (4096 * x.units) s.mem ∧ Tab.look n u.dev.idx.idx = none) ∧
         (∀ k c, (k, c) ∈ d.idx.queries → (∀ p ∈ d.idx.queries, p.1 = k → p.2 = c) → c.q.index = n → c.phase ≠ 0 →
           ∃ u, exec (.indexDrop h n) s = .next u ∧ u.mem = s.mem ∧ (Tab.look n u.dev.idx.idx).map (·.st) = some 3))) ∧
     (∀ (s : State) (h : EntryHdr) (t : Nat) (e : Ent) (d : Dev), s.dev.serving = true → (s.dev.advance t).fetch 0 64 h = some (e, d) →
       (∀ q v, idxStatus (d.indexFor e q.index) ≠ ST.OK →
         exec (.vecQuery h q v t) s = .next (s.after (d.complete e (idxStatus (d.indexFor e q.index)) 0))) ∧
       (∀ q v x, d.indexFor e q.index = some x → x.st = 2 →
         (d.queryOk e x q v = false → exec (.vecQuery h q v t) s = .next (s.after (d.complete e ST.IDX_BADPARAM 0))) ∧
         (d.queryOk e x q v = true → d.tableOk x.sector = false → exec (.vecQuery h q v t) s = .next (s.after (d.complete e ST.IDX_NOTABLE 0))) ∧
         (d.queryOk e x q v = true → d.tableOk x.sector = true → d.queryRoom x = false →
           exec (.vecQuery h q v t) s = .next (s.after (d.complete e ST.IDX_BUSY 0))) ∧
         (d.queryOk e x q v = true → d.tableOk x.sector = true → d.queryRoom x = true →
           exec (.vecQuery h q v t) s = .next (s.after (d.beginQuery e false x q v)))) ∧
       (∀ n key off res v, idxStatus (d.indexFor e n) ≠ ST.OK →
         exec (.vecInsert h n key off res v t) s = .next (s.after (d.complete e (idxStatus (d.indexFor e n)) 0))) ∧
       (∀ n key off res v x ok, d.indexFor e n = some x → x.st = 2 →
         ok = (d.inWindow e off (2 * x.dim) && d.inWindow e res 16 && !(x.metric == 2 && vecZero (vecCodes x.dim v))) →
         (ok = false → exec (.vecInsert h n key off res v t) s = .next (s.after (d.complete e ST.IDX_BADPARAM 0))) ∧
         (ok = true → d.tableOk x.sector = false → exec (.vecInsert h n key off res v t) s = .next (s.after (d.complete e ST.IDX_NOTABLE 0))) ∧
         (ok = true → d.tableOk x.sector = true → exec (.vecInsert h n key off res v t) s = .next (s.after
           ((d.idxUpd n (fun x => { x with writes := x.writes ++ [.insert e key v res 0 [] []] })).startInserts n 1)))))) ∧
  ((∀ (s : State) (core t : Nat) (d : Dev), s.dev.serving = true → d = s.dev.advance t →
       (∀ j js, Tab.getD core [] d.idx.tables = j :: js → d.distReady core j = true →
         ∃ u, exec (.distTable core t) s = .next u ∧ u.mem = s.mem ∧ Tab.getD core [] u.dev.idx.tables = js ∧
           ∀ q c x, q ∈ j.queries → Tab.look q d.idx.queries = some c → Tab.look c.q.index d.idx.idx = some x →
             Tab.look q u.dev.idx.queries = some (x.tabled s.mem c)) ∧
       (∀ img i, (∀ j js, Tab.getD core [] d.idx.tables = j :: js → d.distReady core j = false) → d.tableHead core = some img → d.headRuns core img i →
         exec (.distTable core t) s = .next (s.afterBoth (d.engineRan core img i (plainBody EngCtx.distTable (d.issueCtx core img i) i.cmd s.mem d)))) ∧
       (∀ j js, Tab.getD core [] d.idx.tables = j :: js → j.since + d.get Reg.IDX_CFG.table_wait_us * 1000 ≤ d.now →
         ((d.secCores j.sector).contains core = true → exec (.tableWaitTimer core t) s = .next (s.after
           { d with idx := { d.idx with tables := Tab.put core ({ j with urgent := true } :: js) d.idx.tables } })) ∧
         ((d.secCores j.sector).contains core = false → exec (.tableWaitTimer core t) s = .next (s.after
           (j.queries.foldl (fun d q => d.queryFail q ST.IDX_NOTABLE) { d with idx := { d.idx with tables := Tab.put core js d.idx.tables } }))))) ∧
     (∀ (s : State) (sector t n since : Nat) (qs : List Nat) (x : VecIndex) (d : Dev), s.dev.serving = true → d = s.dev.advance t →
       d.idx.gather = [(n, (qs, since))] → Tab.look n d.idx.idx = some x → x.sector = sector →
       since + d.get Reg.IDX_CFG.batch_us * 1000 ≤ d.now →
       exec (.queryBatchTimer sector t) s = .next (s.after (d.flushGather n))) ∧
     (∀ (s : State) (k : Nat) (c : QueryCtx) (x : VecIndex) (failed : List Nat) (d : Dev), s.dev.serving = true →
       Tab.look k s.dev.idx.queries = some c → Tab.look c.q.index s.dev.idx.idx = some x → c.phase ≠ 0 →
       d = s.dev.roundCounted x.sector c failed →
       (x.st = 3 → exec (.queryRoundDone k failed) s = .next (s.afterBoth (((d.queryDel k).complete c.ent ST.IDX_DROPPED 0).finishDrop c.q.index s.mem))) ∧
       (∀ r v p, x.st ≠ 3 → r = c.roundRead x s.mem failed → v = d.roundFlags r → p = r.1.pick.1 →
         (c.phase = 3 → exec (.queryRoundDone k failed) s = .next (s.after (v.queryEnd k x true r.1 s.mem))) ∧
         (c.phase ≠ 3 → r.1.pick.2 = true → exec (.queryRoundDone k failed) s = .next (s.after
           { v with idx := { v.idx with queries := Tab.put k p v.idx.queries } })) ∧
         (c.phase ≠ 3 → r.1.pick.2 = false → p.q.rerank = true → p.insert = false →
           exec (.queryRoundDone k failed) s = .next (s.after { v with idx := { v.idx with queries := Tab.put k { p with phase := 3, round := p.results.take p.q.rerankN } v.idx.queries } })) ∧
         (c.phase ≠ 3 → r.1.pick.2 = false → (p.q.rerank = false ∨ p.insert = true) →
           exec (.queryRoundDone k failed) s = .next (s.after (v.queryEnd k x false p s.mem))))))

/-- The writer and the repair sweep complete (R325 to R330): a delete tombstones its node at the next epoch or says why not; an insert takes
the lowest freed node ID, else nodes_hwm, at the next epoch, or answers that the index is full or a block unreadable with the epoch as it was; the
sweep repairs a block and skips one it cannot read; a freed slot's node ID returns once nothing holds it.
Where it rests on the model's choices: log entries 54, 56. -/
def Obligations.VectorWritesComplete : Prop :=
  ∀ (s : State) (n : Nat) (x : VecIndex), s.dev.serving = true → Tab.look n s.dev.idx.idx = some x →
    (∀ e node rest bad, x.writes = .delete e node :: rest →
      ((x.hwm ≤ node ∨ (bad = false ∧ (x.readRec node s.mem).inUse = false)) →
        exec (.insertWritePhase n bad) s = .next (s.after (s.dev.writeEnd n e ST.IDX_NONODE 0))) ∧
      (node < x.hwm → bad = true → exec (.insertWritePhase n bad) s = .next (s.after
        (((s.dev.flag Reg.IDX_ERR.read_error).bump Reg.IDX_READ_ERRORS.count 1).writeEnd n e ST.IDX_READFAIL 0))) ∧
      (node < x.hwm → bad = false → (x.readRec node s.mem).inUse = true → (x.readRec node s.mem).del ≠ noTomb →
        exec (.insertWritePhase n bad) s = .next (s.after (s.dev.writeEnd n e ST.IDX_DELETED 0))) ∧
      (node < x.hwm → bad = false → (x.readRec node s.mem).inUse = true → (x.readRec node s.mem).del = noTomb →
        ∃ u, exec (.insertWritePhase n bad) s = .next u ∧ u.mem = x.writeRec node { x.readRec node s.mem with del := x.epoch + 1 } s.mem ∧
          (Tab.look n u.dev.idx.idx).map (·.epoch) = some (x.epoch + 1) ∧ (Tab.look n u.dev.idx.idx).map (·.tombs) = some (node :: x.tombs))) ∧
    (∀ e key v off code found rest bad, x.writes = .insert e key v off 2 code found :: rest →
      (x.freed = [] → x.capacity ≤ x.hwm → exec (.insertWritePhase n bad) s = .next (s.after (s.dev.writeEnd n e ST.IDX_FULL 0))) ∧
      ((x.freed ≠ [] ∨ x.hwm < x.capacity) → bad = true → exec (.insertWritePhase n bad) s = .next (s.after
        (((s.dev.flag Reg.IDX_ERR.read_error).bump Reg.IDX_READ_ERRORS.count 1).writeEnd n e ST.IDX_READFAIL 0))) ∧
      (∀ node, (x.freed ≠ [] ∨ x.hwm < x.capacity) → bad = false → node = x.freed.min?.getD x.hwm →
        ∃ u, exec (.insertWritePhase n bad) s = .next u ∧ (Tab.look n u.dev.idx.idx).map (·.epoch) = some (x.epoch + 1) ∧
          (Tab.look n u.dev.idx.idx).map (·.hwm) = some (max x.hwm (node + 1)) ∧
          (Tab.look n u.dev.idx.idx).map (·.freed) = some (x.freed.erase node))) ∧
    (∀ bad, (x.st = 2 ∧ x.hwm ≠ 0 ∧ s.dev.get (Reg.IDX_REPAIR.share n) ≠ 0 →
        exec (.repairSweep n bad) s = .next (s.afterBoth (s.dev.sweep n x bad s.mem)) ∧ (bad = true → (s.dev.sweep n x bad s.mem).1 = s.mem)) ∧
      ((x.st ≠ 2 ∨ x.hwm = 0 ∨ s.dev.get (Reg.IDX_REPAIR.share n) = 0) → exec (.repairSweep n bad) s = .next (s.after s.dev))) ∧
    (∀ node del, x.freeable.find? (fun e => e.1 == node) = some (node, del) → x.st = 2 →
      (s.dev.nodeHeld n x node del s.mem = true → exec (.nodeSlotFree n node) s = .next (s.after s.dev)) ∧
      (s.dev.nodeHeld n x node del s.mem = false → ∃ u, exec (.nodeSlotFree n node) s = .next u ∧
        (Tab.look n u.dev.idx.idx).map (·.freed) = some (node :: x.freed) ∧
        (Tab.look n u.dev.idx.idx).map (·.freeable) = some (x.freeable.filter (fun e => e.1 != node)) ∧
        (x.entries.contains node = false → (Tab.look n u.dev.idx.idx).map (·.entries) = some x.entries)))

/-! ### Checkpoint and restore -/

/-- CKPT_TAKE answers the status of the first of its checks that fails, or begins a checkpoint one above the newest and sends QUIESCE; the
interval timer begins one for every present Sector, and skips where one runs or a check fails (R397, R398).
The passes of a checkpoint complete (R398 to R403, R412): QUIESCE on a chip of the ring, at another group's HEAD and back at its sender;
READY and its time limit at the coordinator; CUT in the same three places, and the cut of a chip; COMMIT and ABANDON; a pass not back in 10 ms is
sent again.
Where it rests on the model's choices: log entry 63. -/
def Obligations.CheckpointPassesComplete : Prop :=
  ((∀ (s : State) (h : EntryHdr) (mask newest t : Nat) (full peers : Bool) (e : Ent) (d : Dev), s.dev.serving = true →
       (s.dev.advance t).fetch 0 64 h = some (e, d) →
       (d.fromOwner e = false → exec (.ckptTake h mask full peers newest t) s = .next (s.after (d.complete e ST.CKPT_DENIED 0))) ∧
       (d.fromOwner e = true → d.isCoordinator = false →
         exec (.ckptTake h mask full peers newest t) s = .next (s.after (d.complete e ST.CKPT_NOTCOORD 0))) ∧
       (d.fromOwner e = true → d.isCoordinator = true →
         ((d.ckpt.run.isSome = true ∨ d.ckpt.restoring.isSome = true) →
           exec (.ckptTake h mask full peers newest t) s = .next (s.after (d.complete e ST.CKPT_BUSY 0))) ∧
         (d.ckpt.run = none → d.ckpt.restoring = none →
           (peers = false → exec (.ckptTake h mask full peers newest t) s = .next (s.after (d.complete e ST.CKPT_PEER 0))) ∧
           (peers = true → d.seedsOk d.domainId mask = false →
             exec (.ckptTake h mask full peers newest t) s = .next (s.after (d.complete e ST.CKPT_NOKEY 0))) ∧
           (peers = true → d.seedsOk d.domainId mask = true →
             ∃ u, exec (.ckptTake h mask full peers newest t) s = .next u ∧ u.dev.get Reg.CKPT_STATUS.phase = 1 ∧
               u.dev.ckpt.run = some (CkptRun.start ((newest + 1) % 2 ^ 64) mask full true (some e) d.now) ∧
               (∃ m, u.dev.out.head? = some (.ckptMsg none m) ∧ m.kind = 0x20 ∧ m.seq = (newest + 1) % 2 ^ 64))))) ∧
     (∀ (s : State) (peers : Bool) (newest t mask : Nat) (d k : Dev), s.dev.serving = true → d = s.dev.advance t →
       d.get Reg.CKPT_CFG.interval_s ≠ 0 → d.isCoordinator = true → d.ckpt.lastAt + 1000000000 * d.get Reg.CKPT_CFG.interval_s ≤ d.now →
       mask = ((List.range 16).map (fun n => if d.present n then 2 ^ n else 0)).sum → k = { d with ckpt := { d.ckpt with lastAt := d.now } } →
       ((d.ckpt.run.isSome = true ∨ d.ckpt.restoring.isSome = true) → exec (.ckptIntervalTimer peers newest t) s = .next (s.after k)) ∧
       (d.ckpt.run = none → d.ckpt.restoring = none →
         (peers = false → exec (.ckptIntervalTimer peers newest t) s = .next (s.after (k.put Reg.CKPT_STATUS.status ST.CKPT_PEER))) ∧
         (peers = true → d.seedsOk d.domainId mask = false →
           exec (.ckptIntervalTimer peers newest t) s = .next (s.after (k.put Reg.CKPT_STATUS.status ST.CKPT_NOKEY))) ∧
         (peers = true → d.seedsOk d.domainId mask = true →
           ∃ u, exec (.ckptIntervalTimer peers newest t) s = .next u ∧ u.dev.get Reg.CKPT_STATUS.phase = 1 ∧ u.dev.ckpt.lastAt = d.now ∧
             u.dev.ckpt.run = some (CkptRun.start ((newest + 1) % 2 ^ 64) mask false true none d.now))))) ∧
  (∀ (s : State) (t : Nat) (d : Dev), s.dev.serving = true → d = s.dev.advance t →
       (∀ m : CkptMsg, d.isHead = false →
         exec (.quiesce m t) s = .next (s.after ((d.joinRun m).emit (.ckptMsg none (noteCkpt ((d.joinRun m).seedStatus m) (d.joinRun m).position m)))) ∧
         (d.runOf m = true → exec (.cut m t) s = .next (s.after
           (((d.runUpd (fun r => { r with cutting := true })).put Reg.CKPT_STATUS.phase 2).emit (.ckptMsg none m))) ∧
           exec (.ckptCommit m t) s = .next (s.after (d.commitBase.releaseHeld.emit (.ckptMsg none m)))) ∧
         (d.runOf m = false → exec (.cut m t) s = .next (s.after (d.emit (.ckptMsg none m))) ∧
           exec (.ckptCommit m t) s = .next (s.after (d.emit (.ckptMsg none m))))) ∧
       (∀ m : CkptMsg, d.isHead = true → m.groupId ≠ d.groupId →
         (∀ r, d.runOf m = false → (d.joinRun m).ckpt.run = some r → exec (.quiesce m t) s = .next (s.after ((d.joinRun m).sendRing
           (noteCkpt ((d.joinRun m).seedStatus m) (d.joinRun m).position ((d.joinRun m).ckptMk 0x20 r ST.OK))))) ∧
         (d.runOf m = true → exec (.cut m t) s = .next (s.after d.beginCut) ∧
           exec (.ckptCommit m t) s = .next (s.after (d.commitBase.releaseHeld.sendRing { m with groupId := d.groupId })))) ∧
       (∀ m : CkptMsg, d.isHead = true → m.groupId = d.groupId →
         exec (.cut m t) s = .next (s.after (d.ringReturned m)) ∧ exec (.ckptCommit m t) s = .next (s.after (d.ringReturned m)) ∧
         (d.runOf m = true → exec (.quiesce m t) s = .next (s.after (((d.ringReturned m).runUpd (fun r => if r.ringBack then r else
           { r with ringBack := true, status := if r.status = ST.OK then m.status else r.status, failPos := m.failPos })).readyCheck.releaseHeld)))) ∧
       (∀ m : CkptMsg, d.isCoordinator = true → d.runOf m = true →
         exec (.ckptReady m t) s = .next (s.after ((d.groupReady m.groupId m.status).releaseHeld))) ∧
       (∀ r, d.ckpt.run = some r → r.coord = true → r.cutting = false →
         r.startedAt + (if d.get Reg.CKPT_CFG.quiesce_ms = 0 then 256 else d.get Reg.CKPT_CFG.quiesce_ms) * 1000000 ≤ d.now →
         exec (.quiesceTimeout t) s = .next (s.after ((d.abandonAll ST.CKPT_QUIESCE).releaseHeld))) ∧
       (∀ r, d.ckpt.run = some r → r.cutting = true → r.cutDone = false → (sectorsOf r.sectors).all (fun n => d.cutReady r n) = true →
         ∃ k : Dev, exec (.chipCut t) s = .next (s.after k.releaseHeld) ∧ k.get Reg.CKPT_EPOCH.epoch = wrap Reg.CKPT_EPOCH.epoch.width (d.get Reg.CKPT_EPOCH.epoch + 1) ∧
           k.get Reg.CKPT_STATUS.phase = 3 ∧ (k.ckpt.run.map (·.cutDone)) = some true) ∧
       (∀ m a, d.ckpt.passMsg = some (m, a) → a + 10000000 ≤ d.now →
         exec (.ckptMsgResend t) s = .next (s.after (Dev.emit (.ckptMsg none m) { d with ckpt := { d.ckpt with passMsg := some (m, d.now) } }))) ∧
       (∀ m : CkptMsg,
         (s.dev.isHead = false → s.dev.runOf m = true → exec (.abandon m) s = .next (s.after ((s.dev.dropRun m.status).releaseHeld.emit (.ckptMsg none m)))) ∧
         (s.dev.isHead = false → s.dev.runOf m = false → exec (.abandon m) s = .next (s.after (s.dev.emit (.ckptMsg none m)))) ∧
         (s.dev.isHead = true → m.groupId = s.dev.groupId → exec (.abandon m) s = .next (s.after (s.dev.ringReturned m))) ∧
         (s.dev.isHead = true → m.groupId ≠ s.dev.groupId → s.dev.runOf m = true →
           exec (.abandon m) s = .next (s.after ((s.dev.dropRun m.status).releaseHeld.sendRing { m with groupId := s.dev.groupId })))))

/-- The copy, the lists and the reports complete (R405 to R412): a captured object is copied, the shards are built and, once every peer's list
is in, written; a list that does not come within 10 ms is empty; a report goes on round the ring and is taken at HEAD.
CKPT_RESTORE answers the status of the first of its checks that fails, or goes through the directory's candidates, newest first (R414,
R415): one whose chain is broken gives way to the next, one that cannot be placed ends the command, one whose shards fail gives way, the first that
suits goes to every chip, and the command fails where none is left. When every chip has placed its objects HEAD's Sectors hold the candidate's
sessions and the command completes; a failure there goes on to the next candidate; another chip places the chain that HEAD sent (R416 to R418).
Where it rests on the model's choices: log entries 64, 65, 66. -/
def Obligations.CheckpointCopiesAndRestores : Prop :=
  (∀ (s : State) (t : Nat) (d : Dev) (r : CkptRun), s.dev.serving = true → d = s.dev.advance t → d.ckpt.run = some r →
       (∀ fits writes, r.cutDone = true → r.reported = false → r.pend ≠ [] → exec (.ckptCopy fits writes t) s = .next (s.after (d.copyNext r s.mem))) ∧
       (∀ fits writes, r.cutDone = true → r.reported = false → r.pend = [] → r.shards = none →
         exec (.ckptCopy fits writes t) s = .next (s.after (d.buildShards r))) ∧
       (∀ fits writes shards, r.cutDone = true → r.reported = false → r.pend = [] → r.shards = some shards →
         (d.listsIn r = true → exec (.ckptCopy fits writes t) s = .next (s.after ((d.writeShards r shards fits writes).releaseHeld))) ∧
         (d.listsIn r = false → exec (.ckptCopy fits writes t) s = .next (s.after d))) ∧
       (∀ chip ds, exec (.dedupDigestList chip ds) s = .next (s.after (s.dev.runUpd (fun r => { r with lists := Tab.put chip ds r.lists })))) ∧
       (∀ a, r.listsSince = some a → a + 10000000 ≤ d.now → ∃ u, exec (.dedupListTimeout t) s = .next u ∧
         ∃ r', u.dev.ckpt.run = some r' ∧ u.dev.listsIn r' = true) ∧
       (∀ m chips es gs st, d.isHead = false → exec (.report m chips es gs st t) s = .next (s.after (d.emit (.ckptReport none m chips es gs)))) ∧
       (∀ (m : CkptMsg) chips es gs st, d.isHead = true → d.runOf m = true →
         exec (.report m chips es gs st t) s = .next (s.after ((d.takeReport m.groupId m.status chips es gs st).releaseHeld)))) ∧
  ((∀ (s : State) (h : EntryHdr) (sectors dom grp q seeds : Nat) (cold : Bool) (cands : List RestoreCand) (e : Ent) (d : Dev), s.dev.serving = true →
       s.dev.fetch 0 64 h = some (e, d) →
       (d.fromOwner e = false → exec (.ckptRestore h sectors cold q dom grp seeds cands) s = .next (s.after (d.complete e ST.CKPT_DENIED 0))) ∧
       (d.fromOwner e = true → d.isHead = false →
         exec (.ckptRestore h sectors cold q dom grp seeds cands) s = .next (s.after (d.complete e ST.CKPT_NOTCOORD 0))) ∧
       (d.fromOwner e = true → d.isHead = true → d.ckpt.run = none → d.ckpt.restoring = none →
         ((sectorsOf sectors).any (fun n => d.sectorBuoys n != 0) = true →
           exec (.ckptRestore h sectors cold q dom grp seeds cands) s = .next (s.after (d.complete e ST.CKPT_NOTEMPTY 0))) ∧
         ((sectorsOf sectors).any (fun n => d.sectorBuoys n != 0) = false →
           ((sectorsOf sectors).any (fun n => (d.activeImg n).isNone) = true →
             exec (.ckptRestore h sectors cold q dom grp seeds cands) s = .next (s.after (d.complete e ST.IMG_NOIMAGE 0))) ∧
           ((sectorsOf sectors).any (fun n => (d.activeImg n).isNone) = false → (d.seedsOk dom sectors = false ∨ seeds ≠ ST.OK) →
             exec (.ckptRestore h sectors cold q dom grp seeds cands) s = .next (s.after (d.complete e ST.CKPT_NOKEY 0))) ∧
           ((sectorsOf sectors).any (fun n => (d.activeImg n).isNone) = false → d.seedsOk dom sectors = true → seeds = ST.OK →
             exec (.ckptRestore h sectors cold q dom grp seeds cands) s = .next (s.after (d.tryCands e sectors cold dom grp
               ((cands.filter (fun c => q == 0 || decide (c.seq ≤ q))).mergeSort (fun a b => decide (b.seq ≤ a.seq))))))))) ∧
     (∀ (d : Dev) (e : Ent) (sectors dom grp : Nat) (cold : Bool) (c : RestoreCand) (cs : List RestoreCand),
       d.tryCands e sectors cold dom grp [] = d.restoreEnd e ST.CKPT_NONE 0 ∧
       (candWhole dom grp c = false → d.tryCands e sectors cold dom grp (c :: cs) = d.tryCands e sectors cold dom grp cs) ∧
       (candWhole dom grp c = true → d.placementOk sectors grp c = false → d.tryCands e sectors cold dom grp (c :: cs) = d.restoreEnd e ST.CKPT_PLACEMENT 0) ∧
       (∀ x, candWhole dom grp c = true → d.placementOk sectors grp c = true → d.restoreShort sectors grp cold c = some x →
         d.tryCands e sectors cold dom grp (c :: cs) = d.restoreEnd e ST.IMG_NOFIT x) ∧
       (candWhole dom grp c = true → d.placementOk sectors grp c = true → d.restoreShort sectors grp cold c = none → c.otherRoom = true →
         (candShards c ≠ ST.OK → d.tryCands e sectors cold dom grp (c :: cs) = (d.shardMark (candShards c)).tryCands e sectors cold dom grp cs) ∧
         (candShards c = ST.OK → d.tryCands e sectors cold dom grp (c :: cs) = Dev.emit (.restoreChain (c.chain.map (fun l => l.manifest.seq)))
           (Dev.put Reg.CKPT_STATUS.phase 5 { d with ckpt := { d.ckpt with restoring := some (e, sectors, cold, c :: cs, grp) } })))) ∧
     (∀ (s : State) (sectors grp : Nat) (cold : Bool) (cand : RestoreCand), s.dev.serving = true →
       (∀ e mask cd c cs g st, s.dev.isHead = true → s.dev.ckpt.restoring = some (e, mask, cd, c :: cs, g) →
         (st = ST.OK → exec (.restoreCommit sectors cold grp cand st) s = .next (s.afterBoth
           ((restoreAll mask cd (some c.seq) (s.dev.restored mask g c) s.mem s.dev).1,
            (restoreAll mask cd (some c.seq) (s.dev.restored mask g c) s.mem s.dev).2.restoreEnd e ST.OK c.seq))) ∧
         (∀ m, st ≠ ST.OK → candManifest c = some m → exec (.restoreCommit sectors cold grp cand st) s = .next (s.after
           ((s.dev.shardMark st).tryCands e mask cd m.domain g cs)))) ∧
       (s.dev.isHead = false → exec (.restoreCommit sectors cold grp cand ST.OK) s =
         .next (s.afterBoth (restoreAll sectors cold none (s.dev.restored sectors grp cand) s.mem s.dev)))))

/-! ### Security -/

/-- The security messages complete inside a session that may carry them (R459, R460, R465, R467, R470, R475, R476): the anchor, host keys and
seeds, the counters, the debug challenge and unlock, and the evidence with the blocks of R470 that the function may read.
A security message outside such a session is answered with ST_SEC_SESSION, and does nothing else (R467); a debug unlock never lowers the
level, spends its nonce whatever comes of it, and after a freeze brings no level 2 (R475, R476, R478).
Where it rests on the model's choices: log entries 8, 76, 80. -/
def Obligations.SecurityMessagesAnswered : Prop :=
  (∀ (s : State) (ch : SecChannel), s.dev.answers = true → s.dev.securityOk ch = true →
       (∀ key sig, sigVerifies sig = true → sig.signer = 1 → s.dev.sec.nor.anchor = some sig.keyId →
         exec (.anchorSet ch key sig) s = .next (s.after (((s.dev.norUpd (fun n => { n with anchor := some key })).showAnchor).emit (.secResp ch ST.OK [])))) ∧
       (∀ key sig, (sigVerifies sig = false ∨ sig.signer ≠ 1 ∨ s.dev.sec.nor.anchor ≠ some sig.keyId) →
         exec (.anchorSet ch key sig) s = .next (s.after (s.dev.sigRefused.emit (.secResp ch ST.SEC_SIG [])))) ∧
       (∀ host key, host < 256 → s.dev.hostHoldsGrant host = false → exec (.hostKeySet ch host key) s = .next (s.after
         (Dev.emit (.secResp ch ST.OK []) { s.dev with sec := { s.dev.sec with hostKeys := Tab.put host key s.dev.sec.hostKeys } }))) ∧
       (∀ host key, host < 256 → s.dev.hostHoldsGrant host = true → exec (.hostKeySet ch host key) s = .next (s.after
         ((s.dev.flag Reg.SEC_ERR.key_refused).emit (.secResp ch ST.SEC_INUSE [])))) ∧
       (∀ mask dom seed, s.dev.domainBusy dom = false → ∃ u, exec (.domainSeedSet ch mask dom seed) s = .next u ∧
         u.dev.out = .secResp ch ST.OK [] :: s.dev.out ∧ ∀ n, n < 16 →
           Tab.look (dom * 16 + n) u.dev.sec.seeds = if mask.testBit n then some seed else Tab.look (dom * 16 + n) s.dev.sec.seeds) ∧
       (∀ mask dom seed, s.dev.domainBusy dom = true → exec (.domainSeedSet ch mask dom seed) s = .next (s.after
         ((s.dev.flag Reg.SEC_ERR.key_refused).emit (.secResp ch ST.SEC_INUSE [])))) ∧
       (exec (.svnCommit ch false) s = .next (s.after ((s.dev.flag Reg.SEC_ERR.counter_fail).emit (.secResp ch ST.SEC_COUNTER [])))) ∧
       (∃ u, exec (.svnCommit ch true) s = .next u ∧ u.dev.sec.nor.counter0 = max s.dev.sec.nor.counter0 s.dev.sec.fwVersion ∧
         u.dev.sec.nor.counter1 = max s.dev.sec.nor.counter1 s.dev.sec.cfgVersion ∧ u.dev.out = .secResp ch ST.OK [] :: s.dev.out) ∧
       (exec (.debugChallenge ch) s = .next (s.after (s.dev.newNonce.2.emit (.secResp ch ST.OK [s.dev.newNonce.1])))) ∧
       (∀ tok ok, exec (.debugUnlock ch tok ok) s = .next (s.after ((s.dev.unlock tok ok).2.emit (.secResp ch (s.dev.unlock tok ok).1 [])))) ∧
       (∀ nonce mask, ∃ sig, exec (.evidencePq ch nonce mask) s = .next (s.after (s.dev.emit (.secResp ch ST.OK
         (nonce :: s.dev.measures ch.fn ((List.range 32).filter (fun i => mask.testBit i)) s.mem ++ [sig])))))) ∧
  ((∀ (s : State) (ch : SecChannel), s.dev.answers = true → s.dev.securityOk ch = false →
       (∀ key sig, exec (.anchorSet ch key sig) s = .next (s.after (s.dev.emit (.secResp ch ST.SEC_SESSION [])))) ∧
       (∀ host key, exec (.hostKeySet ch host key) s = .next (s.after (s.dev.emit (.secResp ch ST.SEC_SESSION [])))) ∧
       (∀ mask dom seed, exec (.domainSeedSet ch mask dom seed) s = .next (s.after (s.dev.emit (.secResp ch ST.SEC_SESSION [])))) ∧
       (∀ ok, exec (.svnCommit ch ok) s = .next (s.after (s.dev.emit (.secResp ch ST.SEC_SESSION [])))) ∧
       (exec (.debugChallenge ch) s = .next (s.after (s.dev.emit (.secResp ch ST.SEC_SESSION [])))) ∧
       (∀ tok ok, exec (.debugUnlock ch tok ok) s = .next (s.after (s.dev.emit (.secResp ch ST.SEC_SESSION [])))) ∧
       (∀ nonce mask, exec (.evidencePq ch nonce mask) s = .next (s.after (s.dev.emit (.secResp ch ST.SEC_SESSION []))))) ∧
     (∀ (d : Dev) (tok : DebugToken) (ok : Bool), d.get Reg.SEC_STATUS.debug_level ≤ 2 →
       d.get Reg.SEC_STATUS.debug_level ≤ (d.unlock tok ok).2.get Reg.SEC_STATUS.debug_level ∧ (d.unlock tok ok).2.sec.nonce ≠ some tok.nonce ∧
       (d.boot.frozen = true → tok.level = 2 → (d.unlock tok ok).1 = ST.SEC_UNLOCK)))

/-- The SPDM responder completes (R455, R456, R469, R470): negotiation in its order, certificates, challenges, measurements, sessions, of which a
ninth is answered Busy; a request out of its order is unexpected, and one that names an algorithm or a slot the device does not have is
invalid.
IDE key management and the TEE device interfaces complete (R471 to R474): a stream is secure while its programmed set runs, and a set that was
never programmed is not started; a failed check makes the stream insecure, is counted, and puts the TDI bound to it into ERROR with cause 5; a TDI is
locked, started and stopped, never locked under invasive debug, and a request in a wrong state is refused.
Where it rests on the model's choices: log entries 8, 77, 78, 79. -/
def Obligations.ProtocolsComplete : Prop :=
  (∀ (s : State) (ch : SecChannel), s.dev.answers = true →
       (exec (.getVersion ch) s = .next (s.after ((s.dev.linkPut ch ⟨true, false, false⟩).emit (.spdm ch 0x04 [0x13])))) ∧
       ((s.dev.spdmLink ch).version = true → exec (.getCapabilities ch) s = .next (s.after ((s.dev.linkPut ch ⟨true, true, false⟩).emit (.spdm ch 0x61 [65536])))) ∧
       ((s.dev.spdmLink ch).version = false → exec (.getCapabilities ch) s = .next (s.after (s.dev.emit (.spdmError ch 0x04)))) ∧
       (∀ p ml a, (s.dev.spdmLink ch).capabilities = true →
         exec (.negotiateAlgorithms ch p ml a) s = .next (s.after (if p = true ∧ a = true then
           (s.dev.linkPut ch ⟨true, true, true⟩).emit (.spdm ch 0x63 [384, 256]) else s.dev.emit (.spdmError ch 0x01)))) ∧
       (∀ p ml a, (s.dev.spdmLink ch).capabilities = false → exec (.negotiateAlgorithms ch p ml a) s = .next (s.after (s.dev.emit (.spdmError ch 0x04)))) ∧
       (∀ slot nonce i mst ma ac c, (s.dev.spdmLink ch).algorithms = false →
         c ∈ [Instr.getDigests ch, .getCertificate ch slot, .challenge ch nonce, .getMeasurements ch i, .keyExchange ch mst ma ac] →
         exec c s = .next (s.after (s.dev.emit (.spdmError ch 0x04)))) ∧
       ((s.dev.spdmLink ch).algorithms = true →
         (∃ vs, exec (.getDigests ch) s = .next (s.after (s.dev.emit (.spdm ch 0x01 (3 :: vs))))) ∧
         (∀ slot, s.dev.certChain slot = none → exec (.getCertificate ch slot) s = .next (s.after (s.dev.emit (.spdmError ch 0x01)))) ∧
         (∀ slot c, s.dev.certChain slot = some c → exec (.getCertificate ch slot) s = .next (s.after (s.dev.emit (.spdm ch 0x02 (slot :: c))))) ∧
         (∀ nonce, ∃ v, exec (.challenge ch nonce) s = .next (s.after (s.dev.drawn.emit (.spdm ch 0x03 [nonce, s.dev.fresh, v])))) ∧
         (∀ i, exec (.getMeasurements ch i) s = .next (s.after (s.dev.emit (.spdm ch 0x60 (s.dev.measures ch.fn (if i = 0xFF then List.range 24 else [i]) s.mem))))) ∧
         (∀ k mst ma ac, s.dev.sec.spdm.length < 8 → Tab.firstFree s.dev.sec.spdm 1 9 = some k → exec (.keyExchange ch mst ma ac) s = .next (s.after
           ((s.dev.spdmSet (Tab.put k ⟨ch.transport, ch.fn, false, ma, ac, mst, 0⟩ s.dev.sec.spdm)).emit (.spdm ch 0x64 [k])))) ∧
         (∀ mst ma ac, 8 ≤ s.dev.sec.spdm.length → exec (.keyExchange ch mst ma ac) s = .next (s.after (s.dev.emit (.spdmError ch 0x03))))) ∧
       ((s.dev.handshake ch).isSome = true →
         (exec (.finish ch true) s = .next (s.after
           ((s.dev.spdmSet (Tab.upd ch.session (fun s => { s with established := true }) s.dev.sec.spdm)).emit (.spdm ch 0x65 [])))) ∧
         (exec (.finish ch false) s = .next (s.after ((s.dev.spdmSet (Tab.del ch.session s.dev.sec.spdm)).emit (.spdmError ch 0x06))))) ∧
       (∀ c, (s.dev.spdmSession ch).isSome = false → c ∈ [Instr.heartbeat ch, .keyUpdate ch, .endSession ch] →
         exec c s = .next (s.after (s.dev.emit (.spdmError ch 0x04)))) ∧
       ((s.dev.spdmSession ch).isSome = true →
         exec (.heartbeat ch) s = .next (s.after (s.dev.emit (.spdm ch 0x68 []))) ∧
         exec (.keyUpdate ch) s = .next (s.after
           ((s.dev.spdmSet (Tab.upd ch.session (fun s => { s with keyUpdates := s.keyUpdates + 1 }) s.dev.sec.spdm)).emit (.spdm ch 0x69 []))) ∧
         exec (.endSession ch) s = .next (s.after ((s.dev.spdmSet (Tab.del ch.session s.dev.sec.spdm)).emit (.spdm ch 0x6C []))))) ∧
  ((∀ (s : State) (ch : SecChannel) (port stream set : Nat), s.dev.answers = true → (s.dev.spdmSession ch).isSome = true → ch.fn = .pf →
       ch.transport = port → port < 2 → stream < 17 →
       (∀ key, exec (.keyProg ch port stream set key) s = .next (s.after
         ((s.dev.idePut port stream { s.dev.ideStream port stream with keys := Tab.put set key (s.dev.ideStream port stream).keys }).emit
           (.spdm ch 0x100 [port, stream, set])))) ∧
       (Tab.has set (s.dev.ideStream port stream).keys = true → exec (.kSetGo ch port stream set) s = .next (s.after
         ((s.dev.idePut port stream { s.dev.ideStream port stream with active := some set, insecure := false }).emit (.spdm ch 0x101 [port, stream, set])))) ∧
       (Tab.has set (s.dev.ideStream port stream).keys = false → exec (.kSetGo ch port stream set) s = .next (s.after (s.dev.emit (.spdmError ch 0x01)))) ∧
       ((s.dev.ideStream port stream).active ≠ some set → exec (.kSetStop ch port stream set) s = .next (s.after
         ((s.dev.idePut port stream { s.dev.ideStream port stream with keys := Tab.del set (s.dev.ideStream port stream).keys }).emit
           (.spdm ch 0x102 [port, stream, set])))) ∧
       ((s.dev.ideStream port stream).active = some set → ∃ u, exec (.kSetStop ch port stream set) s = .next u ∧
         (u.dev.ideStream port stream).insecure = true ∧ (u.dev.ideStream port stream).active = none) ∧
       (exec (.ideKmQuery ch port) s = .next (s.after (s.dev.emit (.spdm ch 0x103
         (port :: 17 :: 2 :: (List.range 17).map (fun k => b2n (!(s.dev.ideStream port k).insecure)))))))) ∧
     (∀ (s : State) (port stream : Nat), s.dev.answers = true → port < 2 → stream < 17 → ∃ u, exec (.ideCheckFail port stream) s = .next u ∧
       (u.dev.ideStream port stream).insecure = true ∧ u.dev.get Reg.SEC_IDE_FAIL.count = satAdd Reg.SEC_IDE_FAIL.count.width (s.dev.get Reg.SEC_IDE_FAIL.count) 1 ∧
       ∀ n, n < 16 → stream = n + 1 → (s.dev.get (Reg.SEC_TDI.state (16 * port + n)) = 1 ∨ s.dev.get (Reg.SEC_TDI.state (16 * port + n)) = 2) →
         u.dev.get (Reg.SEC_TDI.state (16 * port + n)) = 3 ∧ u.dev.get (Reg.SEC_TDI.cause (16 * port + n)) = 5) ∧
     (∀ (s : State) (ch : SecChannel) (tdi : Nat), s.dev.answers = true → (s.dev.spdmSession ch).isNone = false → tdi < 32 →
       (exec (.getTdispVersion ch tdi) s = .next (s.after (s.dev.emit (.tdisp ch 0x01 [0x10])))) ∧
       (exec (.getTdispCapabilities ch tdi) s = .next (s.after (s.dev.emit (.tdisp ch 0x02 [0x7F, 0])))) ∧
       (s.dev.debugLevel < 2 → s.dev.get (Reg.SEC_TDI.state tdi) = 0 → ∃ u, exec (.lockInterfaceRequest ch tdi) s = .next u ∧
         u.dev.get (Reg.SEC_TDI.state tdi) = 1 ∧ Tab.look tdi u.dev.sec.tdiEpoch = some s.dev.comp.cur.epoch) ∧
       (s.dev.debugLevel < 2 → s.dev.get (Reg.SEC_TDI.state tdi) ≠ 0 →
         exec (.lockInterfaceRequest ch tdi) s = .next (s.after (s.dev.emit (.tdispError ch 0x0004)))) ∧
       (2 ≤ s.dev.debugLevel → exec (.lockInterfaceRequest ch tdi) s = .next (s.after (s.dev.emit (.tdispError ch 0x0104)))) ∧
       ((s.dev.get (Reg.SEC_TDI.state tdi) = 1 ∨ s.dev.get (Reg.SEC_TDI.state tdi) = 2) →
         ∃ vs, exec (.getDeviceInterfaceReport ch tdi) s = .next (s.after (s.dev.emit (.tdisp ch 0x04
           (vs ++ [tdi % 16, b2n (s.dev.sector (tdi % 16)).isSealed, Tab.getD tdi 0 s.dev.sec.tdiEpoch]))))) ∧
       ((s.dev.get (Reg.SEC_TDI.state tdi) = 0 ∨ s.dev.get (Reg.SEC_TDI.state tdi) = 3) →
         exec (.getDeviceInterfaceReport ch tdi) s = .next (s.after (s.dev.emit (.tdispError ch 0x0004)))) ∧
       (s.dev.get (Reg.SEC_TDI.state tdi) ≠ 1 → exec (.startInterfaceRequest ch tdi) s = .next (s.after (s.dev.emit (.tdispError ch 0x0004)))) ∧
       (exec (.getDeviceInterfaceState ch tdi) s = .next (s.after (s.dev.emit (.tdisp ch 0x05 [s.dev.get (Reg.SEC_TDI.state tdi)])))) ∧
       (s.dev.get (Reg.SEC_TDI.state tdi) = 1 → exec (.startInterfaceRequest ch tdi) s = .next (s.after
         ((s.dev.put (Reg.SEC_TDI.state tdi) 2).emit (.tdisp ch 0x06 [])))) ∧
       (exec (.stopInterfaceRequest ch tdi) s = .next (s.after ((s.dev.put (Reg.SEC_TDI.state tdi) 0).emit (.tdisp ch 0x07 []))))))

/-! ### The whole machine -/

/-- R4: every register is 32 or 64 bits wide; an access is good that is naturally aligned and of the register's full width; any other access
to BAR0, by any of the rows that make one, is answered with Unsupported Request and changes nothing else. Where the function's view holds no window
(R572) any naturally aligned access of a register's width is good. -/
def Obligations.BadAccessHasNoEffect : Prop :=
  (∀ r ∈ regRows, r.width = 32 ∨ r.width = 64) ∧
  (∀ o bytes r, findReg o = some r → (accessOk o bytes = true ↔ 8 * bytes = r.width ∧ o % bytes = 0)) ∧
  (∀ (d : Dev) (m : Master) (fn : Fn) (o bytes : Nat),
    (d.visible m fn o = true → d.takes m fn o bytes = accessOk o bytes) ∧
    (d.visible m fn o = false → (d.takes m fn o bytes = true ↔ (bytes = 4 ∨ bytes = 8) ∧ o % bytes = 0))) ∧
  (∀ (s : State) (a : RegAccess), s.dev.answers = true → a.bar2 = false → s.dev.takes a.master a.fn a.off a.bytes = false →
    (∀ v late, exec (.registerWrite a v late) s = .next { s with dev := s.dev.emit (.unsupportedRequest a.off) }) ∧
    (∀ late, exec (.rcCounterRead a late) s = .next { s with dev := s.dev.emit (.unsupportedRequest a.off) }) ∧
    (exec (.idxEpochRead a) s = .next { s with dev := s.dev.emit (.unsupportedRequest a.off) }) ∧
    (∀ w, exec (.bar0BadAccess a w) s = .next { s with dev := s.dev.emit (.unsupportedRequest a.off) }))

/-- R465: the key of a host that holds a grant, and the seeds of a domain in which a checkpoint or restore runs, stay as they are, and the
messages complete with ST_SEC_INUSE; a reset leaves no host key and no seed; and without seeds a checkpoint or restore of the domain is
refused. -/
def Obligations.KeysInUseStay : Prop :=
  (∀ (s : State) (ch : SecChannel) (host key : Nat), s.dev.answers = true → s.dev.securityOk ch = true → host < 256 → s.dev.hostHoldsGrant host = true →
    ∃ u, exec (.hostKeySet ch host key) s = .next u ∧ u.dev.sec.hostKeys = s.dev.sec.hostKeys ∧ u.dev.out.head? = some (.secResp ch 0x0908 [])) ∧
  (∀ (s : State) (ch : SecChannel) (mask seed : Nat), s.dev.answers = true → s.dev.securityOk ch = true →
    (s.dev.ckpt.run.isSome = true ∨ s.dev.ckpt.restoring.isSome = true) →
    ∃ u, exec (.domainSeedSet ch mask (s.dev.get Reg.CKPT_DOMAIN.domain_id) seed) s = .next u ∧ u.dev.sec.seeds = s.dev.sec.seeds ∧
      u.dev.out.head? = some (.secResp ch 0x0908 [])) ∧
  (∀ (cause : Nat) (env : RomEnv) (nor : Option LightList) (d : Dev), (d.restart cause env nor).sec.hostKeys = [] ∧ (d.restart cause env nor).sec.seeds = []) ∧
  (∀ (s : State) (h : EntryHdr) (mask newest t : Nat) (full : Bool) (e : Ent) (d : Dev), s.dev.serving = true →
    (s.dev.advance t).fetch 0 64 h = some (e, d) → d.fromOwner e = true → d.isCoordinator = true → d.ckpt.run = none → d.ckpt.restoring = none →
    d.seedsOk (d.get Reg.CKPT_DOMAIN.domain_id) mask = false → exec (.ckptTake h mask full true newest t) s = .next (s.after (d.complete e ST.CKPT_NOKEY 0))) ∧
  (∀ (s : State) (h : EntryHdr) (sectors dom grp seq : Nat) (cold : Bool) (cs : List RestoreCand) (e : Ent) (d : Dev), s.dev.serving = true →
    s.dev.fetch 0 64 h = some (e, d) → d.fromOwner e = true → d.isHead = true → d.ckpt.run = none → d.ckpt.restoring = none →
    (sectorsOf sectors).any (fun n => d.sectorBuoys n != 0) = false → (sectorsOf sectors).any (fun n => (d.activeImg n).isNone) = false →
    d.seedsOk dom sectors = false → exec (.ckptRestore h sectors cold seq dom grp ST.OK cs) s = .next (s.after (d.complete e ST.CKPT_NOKEY 0)))

/-- Lens time is zero after a reset, advances with every step of the Daymark by as much, and neither a write of the Daymark nor a PTP
correction changes it (R363, R527).
Where it rests on the model's choices: log entries 1, 69. -/
def Obligations.LensTimeFollowsTheDaymark : Prop :=
  State.reset.dev.now = 0 ∧ State.reset.dev.daymark = 0 ∧
  (∀ (cause : Nat) (env : RomEnv) (nor : Option LightList) (d : Dev), (d.restart cause env nor).now = 0 ∧ (d.restart cause env nor).daymark = 0) ∧
  (∀ (t : Nat) (d : Dev), d.now ≤ (d.advance t).now ∧ (d.advance t).daymark = (d.daymark + ((d.advance t).now - d.now)) % 2 ^ 64) ∧
  (∀ (d : Dev), d.boot.phase = .asleep 3 → (d.idleTick).now = d.now + 40 ∧ d.idleTick.daymark = (d.daymark + 40) % 2 ^ 64) ∧
  (∀ (s : State) (m : Master) (v : Nat), ∃ u, exec (.clkDaymarkSet m v) s = .next u ∧ u.dev.now = s.dev.now) ∧
  (∀ (s : State) (offset : Int) (t : Nat), s.dev.serving = true → ∃ u, exec (.ptpSync offset t) s = .next u ∧ u.dev.now = max s.dev.now t)

/-- Memory changes by nothing but the commands that may write it: every byte reads as before after any other.
Where it rests on the model's choices: log entries 4, 5. -/
def Obligations.OtherCommandsKeepMemory : Prop :=
  ∀ (i : Instr) (s u : State), mayWriteMemory i = false → exec i s = .next u → ∀ a, Mem.read a u.mem = Mem.read a s.mem
end

