-- ==== Sys2Proof/Laws/Memory.lean ====
section
/-! SUPPORT. Laws/Memory.lean: a read after a write, and that every memory operation keeps the canonical form. -/
namespace Sys2Proof.Machine

/-! ### The canonical form, cell by cell -/

theorem wf_cons {a : Nat} {v : Byte} {m : List Host.Cell} :
    Memory.wf ((a, v) :: m) = true ↔ v ≠ Mem.default ∧ (∀ c ∈ m, a < c.1) ∧ Memory.wf m = true := by
  simp [Memory.wf, and_assoc]

@[simp] theorem wf_nil : Memory.wf [] = true := rfl

/-- Any sublist of a canonical memory is canonical: this is all that zeroing and dropping bytes do. -/
theorem wf_sublist {m m' : List Host.Cell} (h : m'.Sublist m) (hw : Memory.wf m = true) : Memory.wf m' = true := by
  induction h with
  | slnil => rfl
  | cons c h ih =>
    obtain ⟨a, v⟩ := c
    exact ih (wf_cons.mp hw).2.2
  | cons_cons c h ih =>
    obtain ⟨a, v⟩ := c
    have hw := wf_cons.mp hw
    exact wf_cons.mpr ⟨hw.1, fun c hc => hw.2.1 c (h.subset hc), ih hw.2.2⟩

theorem erase_sublist (a : Nat) (m : List Host.Cell) : (Mem.erase a m).Sublist m := by
  induction m with
  | nil => exact List.Sublist.slnil
  | cons c m ih =>
    obtain ⟨b, w⟩ := c
    simp only [Mem.erase]
    split
    · exact List.sublist_cons_self _ _
    · exact ih.cons_cons _

theorem mem_insert {a : Nat} {v : Byte} {m : List Host.Cell} {c : Host.Cell} (h : c ∈ Mem.insert a v m) : c = (a, v) ∨ c ∈ m := by
  induction m with
  | nil => simpa [Mem.insert] using h
  | cons e m ih =>
    obtain ⟨b, w⟩ := e
    simp only [Mem.insert] at h
    split at h
    · simpa using h
    · split at h
      · simp only [List.mem_cons] at h ⊢
        tauto
      · simp only [List.mem_cons] at h ⊢
        rcases h with h | h
        · exact .inr (.inl h)
        · rcases ih h with h | h
          · exact .inl h
          · exact .inr (.inr h)

theorem insert_wf {a : Nat} {v : Byte} {m : List Host.Cell} (hv : v ≠ Mem.default) (hw : Memory.wf m = true) :
    Memory.wf (Mem.insert a v m) = true := by
  induction m with
  | nil => simp [Mem.insert, Memory.wf, hv]
  | cons e m ih =>
    obtain ⟨b, w⟩ := e
    have h := wf_cons.mp hw
    simp only [Mem.insert]
    split
    · rename_i hab
      refine wf_cons.mpr ⟨hv, ?_, hw⟩
      intro c hc
      rcases List.mem_cons.mp hc with rfl | hc
      · exact hab
      · exact Nat.lt_trans hab (h.2.1 c hc)
    · split
      · rename_i hba
        exact wf_cons.mpr ⟨hv, fun c hc => hba ▸ h.2.1 c hc, h.2.2⟩
      · refine wf_cons.mpr ⟨h.1, ?_, ih h.2.2⟩
        intro c hc
        rcases mem_insert hc with rfl | hc
        · simp only; omega
        · exact h.2.1 c hc

/-! ### The operations -/

theorem write_wf (a : Nat) (v : Byte) {m : List Host.Cell} (hw : Memory.wf m = true) : Memory.wf (Mem.write a v m) = true := by
  unfold Mem.write
  split
  · exact wf_sublist (erase_sublist a m) hw
  · rename_i h
    exact insert_wf h hw

theorem writes_wf (vs : List Byte) : ∀ (a : Nat) {m : List Host.Cell}, Memory.wf m = true → Memory.wf (Mem.writes a vs m) = true := by
  induction vs with
  | nil => exact fun _ _ h => h
  | cons v vs ih => exact fun a m h => ih (a + 1) (write_wf a v h)

theorem filter_wf (p : Host.Cell → Bool) {m : List Host.Cell} (hw : Memory.wf m = true) : Memory.wf (m.filter p) = true :=
  wf_sublist List.filter_sublist hw

theorem zero_wf (a n : Nat) {m : List Host.Cell} (hw : Memory.wf m = true) : Memory.wf (Mem.zero a n m) = true := filter_wf _ hw

/-- What every step of a fold keeps, the fold keeps. -/
theorem foldl_keeps {α β : Type} (P : α → Prop) {f : α → β → α} (hf : ∀ s b, P s → P (f s b)) (l : List β) {s : α} (h : P s) : P (l.foldl f s) := by
  induction l generalizing s with
  | nil => exact h
  | cons b l ih => exact ih (hf s b h)

/-! ### Reading after a write -/

theorem read_none {a : Nat} {m : List Host.Cell} (h : ∀ c ∈ m, a < c.1) : Mem.read a m = Mem.default := by
  induction m with
  | nil => rfl
  | cons c m ih =>
    obtain ⟨b, w⟩ := c
    have hb : a < b := h (b, w) (by simp)
    have : b ≠ a := by omega
    simp [Mem.read, this, ih (fun c hc => h c (List.mem_cons_of_mem _ hc))]

theorem read_insert (a b : Nat) (v : Byte) (m : List Host.Cell) :
    Mem.read b (Mem.insert a v m) = if b = a then v else Mem.read b m := by
  induction m with
  | nil =>
    by_cases h : a = b
    · simp [Mem.insert, Mem.read, h]
    · simp [Mem.insert, Mem.read, h, Ne.symm h]
  | cons c m ih =>
    obtain ⟨x, w⟩ := c
    simp only [Mem.insert]
    split
    · by_cases h : a = b
      · simp [Mem.read, h]
      · simp [Mem.read, h, Ne.symm h]
    · split
      · rename_i hx
        subst hx
        by_cases h : x = b
        · simp [Mem.read, h]
        · simp [Mem.read, h, Ne.symm h]
      · rename_i hx
        by_cases h : x = b
        · subst h
          simp [Mem.read, hx]
        · simp [Mem.read, h, ih]

theorem read_erase {m : List Host.Cell} (hw : Memory.wf m = true) (a b : Nat) :
    Mem.read b (Mem.erase a m) = if b = a then Mem.default else Mem.read b m := by
  induction m with
  | nil => simp [Mem.erase, Mem.read]
  | cons c m ih =>
    obtain ⟨x, w⟩ := c
    have h := wf_cons.mp hw
    simp only [Mem.erase]
    split
    · rename_i hx
      subst hx
      by_cases hb : b = x
      · subst hb
        simp [read_none h.2.1]
      · simp [Mem.read, hb, Ne.symm hb]
    · rename_i hx
      by_cases hb : x = b
      · subst hb
        simp [Mem.read, hx]
      · simp [Mem.read, hb, ih h.2.2]

/-- A byte reads as what was written to it, and every other byte as before. -/
theorem read_write {m : List Host.Cell} (hw : Memory.wf m = true) (a b : Nat) (v : Byte) :
    Mem.read b (Mem.write a v m) = if b = a then v else Mem.read b m := by
  unfold Mem.write
  split
  · rename_i h
    rw [read_erase hw, h]
  · exact read_insert a b v m

theorem read_writes_outside (vs : List Byte) : ∀ (a b : Nat) {m : List Host.Cell}, Memory.wf m = true → (b < a ∨ a + vs.length ≤ b) →
    Mem.read b (Mem.writes a vs m) = Mem.read b m := by
  induction vs with
  | nil => intro a b m _ _; rfl
  | cons v vs ih =>
    intro a b m hw hb
    simp only [List.length_cons] at hb
    rw [Mem.writes, ih (a + 1) b (write_wf a v hw) (by omega), read_write hw, if_neg (by omega)]

theorem read_zero (a n b : Nat) (m : List Host.Cell) : Mem.read b (Mem.zero a n m) = if a ≤ b ∧ b < a + n then Mem.default else Mem.read b m := by
  induction m with
  | nil => simp [Mem.zero, Mem.read]
  | cons c m ih =>
    obtain ⟨x, w⟩ := c
    simp only [Mem.zero, List.filter_cons] at ih ⊢
    by_cases hx : x < a ∨ a + n ≤ x
    · simp only [hx, decide_true, if_true, Mem.read]
      rw [ih]
      by_cases hb : x = b
      · subst hb
        simp [show ¬(a ≤ x ∧ x < a + n) by omega]
      · simp [hb]
    · simp only [hx, decide_false, Mem.read]
      by_cases hb : x = b
      · subst hb
        have hin : a ≤ x ∧ x < a + n := by omega
        rw [if_pos hin] at ih ⊢
        exact ih
      · simpa [hb] using ih

end Sys2Proof.Machine
end

