-- ==== Sys2Proof/Laws/MemoryEngine.lean ====
section
/-! SUPPORT. Laws/MemoryEngine.lean: what the engines, cores, step boundaries and images write keeps the memory canonical. -/
namespace Sys2Proof.Machine

/-! ### Rows of an engine's output -/

theorem writeRow_wf (x : EngCtx) (c : EngCmd) (r : Nat) (vs : List FpVal) {mem : List Host.Cell} (hw : Memory.wf mem = true) :
    Memory.wf (x.writeRow c r vs mem).1 = true := by
  unfold EngCtx.writeRow
  dsimp only
  split
  · exact writes_wf _ _ hw
  · exact writes_wf _ _ (writes_wf _ _ hw)

theorem writeRows_wf (x : EngCtx) (c : EngCmd) (f : List Host.Cell → Nat → List FpVal) (rs : List Nat) :
    ∀ {s : List Host.Cell × NumFlags}, Memory.wf s.1 = true → Memory.wf (x.writeRows c f rs s).1 = true := by
  induction rs with
  | nil => exact fun h => h
  | cons r rs ih => exact fun h => ih (writeRow_wf x c r _ h)

theorem gemm_wf (x : EngCtx) (c : EngCmd) {mem : List Host.Cell} (hw : Memory.wf mem = true) : Memory.wf (x.gemm c mem).1 = true :=
  writeRows_wf _ _ _ _ hw

theorem gemmGated_wf (x : EngCtx) (c : EngCmd) {mem : List Host.Cell} (hw : Memory.wf mem = true) : Memory.wf (x.gemmGated c mem).1 = true :=
  writeRows_wf _ _ _ _ hw

theorem gemmGather_wf (x : EngCtx) (c : EngCmd) {mem : List Host.Cell} (hw : Memory.wf mem = true) : Memory.wf (x.gemmGather c mem).1 = true := by
  unfold EngCtx.gemmGather
  refine foldl_keeps (fun (s : List Host.Cell × NumFlags) => Memory.wf s.1 = true) (fun s n h => ?_) _ ?_
  · exact writeRow_wf x c _ _ h
  · exact hw

theorem norm_wf (x : EngCtx) (c : EngCmd) {mem : List Host.Cell} (hw : Memory.wf mem = true) : Memory.wf (x.norm c mem).1 = true :=
  writeRows_wf _ _ _ _ hw

theorem rope_wf (x : EngCtx) (c : EngCmd) {mem : List Host.Cell} (hw : Memory.wf mem = true) : Memory.wf (x.rope c mem).1 = true :=
  writeRows_wf _ _ _ _ hw

theorem elemwise_wf (x : EngCtx) (c : EngCmd) {mem : List Host.Cell} (hw : Memory.wf mem = true) : Memory.wf (x.elemwise c mem).1 = true :=
  writeRows_wf _ _ _ _ hw

theorem recur_wf (x : EngCtx) (c : EngCmd) (size : Nat) {mem : List Host.Cell} (hw : Memory.wf mem = true) : Memory.wf (x.recur c size mem).1 = true := by
  unfold EngCtx.recur
  refine foldl_keeps (fun (s : List Host.Cell × NumFlags) => Memory.wf s.1 = true) (fun s r h => ?_) _ hw
  dsimp only
  split
  · exact h
  · exact writes_wf _ _ (writeRow_wf x c _ _ h)

theorem distTable_wf (x : EngCtx) (c : EngCmd) {mem : List Host.Cell} (hw : Memory.wf mem = true) : Memory.wf (x.distTable c mem).1 = true :=
  writeRows_wf _ _ _ _ hw

theorem adapt_wf (x : EngCtx) (c : EngCmd) {mem : List Host.Cell} (hw : Memory.wf mem = true) : Memory.wf (x.adapt c mem).1 = true := by
  unfold EngCtx.adapt
  refine foldl_keeps (fun (s : List Host.Cell × NumFlags) => Memory.wf s.1 = true) (fun s r h => ?_) _ hw
  dsimp only
  split
  · exact h
  · exact writeRow_wf x c _ _ h

/-! ### Attention -/

theorem writePageRow_wf (sector : Nat) (p : Page) (slot : Nat) (k v : List Byte × List Byte × NumFlags) {mem : List Host.Cell} (hw : Memory.wf mem = true) :
    Memory.wf (writePageRow sector p slot k v mem) = true :=
  writes_wf _ _ (writes_wf _ _ (writes_wf _ _ (writes_wf _ _ hw)))

theorem addFp32s_wf (vs : List FpVal) : ∀ (a : Nat) {s : List Host.Cell × NumFlags}, Memory.wf s.1 = true → Memory.wf (addFp32s a vs s).1 = true := by
  induction vs with
  | nil => exact fun _ _ h => h
  | cons v vs ih => exact fun a s h => ih (a + 4) (writes_wf _ _ h)

theorem fwdRow_wf (x : EngCtx) (c : EngCmd) (p : AttnPar) (info : RowInfo) (kfmt base : Nat) (tiles : List (List Key)) {s : List Host.Cell × NumFlags}
    (hw : Memory.wf s.1 = true) : Memory.wf (fwdRow x c p info kfmt base tiles s).1 = true := by
  unfold fwdRow
  refine foldl_keeps (fun (s : List Host.Cell × NumFlags) => Memory.wf s.1 = true) (fun s r h => ?_) _ hw
  dsimp only
  split
  · exact writes_wf _ _ (writeRow_wf x c _ _ h)
  · exact writeRow_wf x c _ _ h

theorem zeroRow_wf (x : EngCtx) (c : EngCmd) (base n : Nat) {s : List Host.Cell × NumFlags} (hw : Memory.wf s.1 = true) :
    Memory.wf (zeroRow x c base n s).1 = true := by
  unfold zeroRow
  refine foldl_keeps (fun (s : List Host.Cell × NumFlags) => Memory.wf s.1 = true) (fun s n h => ?_) _ ?_
  · exact writeRow_wf x c _ _ h
  · exact hw

theorem bwdRow_wf (x : EngCtx) (c : EngCmd) (p : AttnPar) (info : RowInfo) (kfmt base : Nat) (tiles : List (List Key)) {s : List Host.Cell × NumFlags}
    (hw : Memory.wf s.1 = true) : Memory.wf (bwdRow x c p info kfmt base tiles s).1 = true := by
  unfold bwdRow
  refine foldl_keeps (fun (s : List Host.Cell × NumFlags) => Memory.wf s.1 = true) (fun s r h => ?_) _ hw
  dsimp only
  refine foldl_keeps (fun (s : List Host.Cell × NumFlags) => Memory.wf s.1 = true) (fun s k h => addFp32s_wf _ _ (addFp32s_wf _ _ h)) _ ?_
  exact writeRow_wf x c _ _ h

theorem attnWalk_wf (x : EngCtx) (c : EngCmd) (faults : List StackFault) {mem : List Host.Cell} (d : Dev)
    (one : AttnPar → RowInfo → Nat → Nat → List (List Key) → List Host.Cell × NumFlags → List Host.Cell × NumFlags)
    (h1 : ∀ p i k b t s, Memory.wf s.1 = true → Memory.wf (one p i k b t s).1 = true) (hw : Memory.wf mem = true) :
    Memory.wf (attnWalk x c faults mem d one).mem = true := by
  unfold attnWalk
  dsimp only
  refine foldl_keeps (fun (s : (List Host.Cell × NumFlags) × Ran) => Memory.wf s.1.1 = true) (fun s b h => ?_) _ ?_
  · split
    · split
      · exact h
      · split
        · exact zeroRow_wf _ _ _ _ h
        · exact h1 _ _ _ _ _ _ h
    · exact h
  · exact hw

theorem attnFwdBody_wf (faults : List StackFault) (x : EngCtx) (c : EngCmd) {mem : List Host.Cell} (d : Dev) (hw : Memory.wf mem = true) :
    Memory.wf (attnFwdBody faults x c mem d).mem = true :=
  attnWalk_wf x c faults d _ (fun _ _ _ _ _ _ h => fwdRow_wf _ _ _ _ _ _ _ h) hw

theorem attnBwdBody_wf (faults : List StackFault) (x : EngCtx) (c : EngCmd) {mem : List Host.Cell} (d : Dev) (hw : Memory.wf mem = true) :
    Memory.wf (attnBwdBody faults x c mem d).mem = true :=
  attnWalk_wf x c faults d _ (fun _ _ _ _ _ _ h => bwdRow_wf _ _ _ _ _ _ _ h) hw

theorem appendTo_wf (x : EngCtx) (c : EngCmd) (copying : List Nat) (e : AppendEntry) (row : StepRow) (m : Moor) (slot : LayerSlot) (stream : Nat)
    {acc : Ran × NumFlags} (hw : Memory.wf acc.1.mem = true) : Memory.wf (appendTo x c copying e row m slot stream acc).1.mem = true := by
  unfold appendTo
  dsimp only
  repeat' split
  all_goals first | exact hw | exact writes_wf _ _ hw | exact writePageRow_wf _ _ _ _ _ hw

theorem appendOne_wf (x : EngCtx) (c : EngCmd) (copying : List Nat) (n : Nat) {acc : Ran × NumFlags} (hw : Memory.wf acc.1.mem = true) :
    Memory.wf (appendOne x c copying acc n).1.mem = true := by
  unfold appendOne
  dsimp only
  repeat' split
  all_goals first | exact hw | exact appendTo_wf _ _ _ _ _ _ _ _ hw

theorem kvAppendBody_wf (copying : List Nat) (x : EngCtx) (c : EngCmd) {mem : List Host.Cell} (d : Dev) (hw : Memory.wf mem = true) :
    Memory.wf (kvAppendBody copying x c mem d).mem = true :=
  foldl_keeps (fun (s : Ran × NumFlags) => Memory.wf s.1.mem = true) (fun _ n h => appendOne_wf x c copying n h) _ hw

/-! ### Engine commands and cores -/

/-- A body of an engine command that keeps the canonical form, whatever it is given. -/
def KeepsWf (body : EngCtx → EngCmd → List Host.Cell → Dev → Ran) : Prop :=
  ∀ x c mem d, Memory.wf mem = true → Memory.wf (body x c mem d).mem = true

theorem bodyOf_wf (op : Nat) : KeepsWf (bodyOf op) := by
  intro x c mem d h
  unfold bodyOf
  split
  · exact gemm_wf x c h
  · exact gemmGated_wf x c h
  · exact gemmGather_wf x c h
  · exact norm_wf x c h
  · exact rope_wf x c h
  · exact elemwise_wf x c h
  · exact attnFwdBody_wf _ x c d h
  · exact attnBwdBody_wf _ x c d h
  · exact kvAppendBody_wf _ x c d h
  · exact recur_wf x c _ h
  · exact distTable_wf x c h
  · exact adapt_wf x c h
  · exact h

theorem runHead_wf (op core img : Nat) {body : EngCtx → EngCmd → List Host.Cell → Dev → Ran} (hb : KeepsWf body) {mem : List Host.Cell} (d : Dev)
    (hw : Memory.wf mem = true) : Memory.wf (runHead op core img body mem d).1 = true := by
  unfold runHead
  dsimp only
  repeat' split
  all_goals first | exact hw | exact hb _ _ _ _ hw

theorem privateCopy_wf (n adapter : Nat) {mem : List Host.Cell} (d : Dev) (hw : Memory.wf mem = true) : Memory.wf (privateCopy n adapter mem d).1 = true := by
  unfold privateCopy
  dsimp only
  repeat' split
  · exact hw
  · exact foldl_keeps (fun m => Memory.wf m = true) (fun m c h => write_wf _ _ h) _ hw
  · exact hw

theorem refineBody_wf (op : Nat) : KeepsWf (refineBody op) := by
  intro x c mem d h
  unfold refineBody
  dsimp only
  split
  · exact bodyOf_wf op _ _ _ _ (privateCopy_wf _ _ d h)
  · exact bodyOf_wf op _ _ _ _ h

theorem copyParts_wf (old : List Host.Cell) (cs : List (Nat × Nat × Nat)) : ∀ {m : List Host.Cell}, Memory.wf m = true → Memory.wf (copyParts old cs m) = true := by
  induction cs with
  | nil => exact fun h => h
  | cons c cs ih =>
    intro m h
    obtain ⟨src, dst, n⟩ := c
    exact ih (foldl_keeps (fun m => Memory.wf m = true) (fun m c h => write_wf _ _ h) _ (zero_wf _ _ h))

theorem writeTable_wf (x : EngCtx) (rows : List StepRow) (c : EngCmd) {mem : List Host.Cell} (d : Dev) (hw : Memory.wf mem = true) :
    Memory.wf (d.writeTable x rows c mem) = true :=
  foldl_keeps (fun m => Memory.wf m = true) (fun _ _ h => writes_wf _ _ h) _ hw

theorem writeTables_wf (core img step : Nat) (rows : List StepRow) {mem : List Host.Cell} (d : Dev) (hw : Memory.wf mem = true) :
    Memory.wf (d.writeTables core img step rows mem) = true := by
  unfold Dev.writeTables
  split
  · exact hw
  · exact foldl_keeps (fun m => Memory.wf m = true) (fun m c h => writeTable_wf _ _ _ _ h) _ hw

theorem writeSegment_wf (core img batch positions : Nat) (g : SegEntry) {mem : List Host.Cell} (d : Dev) (hw : Memory.wf mem = true) :
    Memory.wf (d.writeSegment core img batch positions g mem) = true := by
  unfold Dev.writeSegment
  split
  · exact hw
  · exact copyParts_wf _ _ hw

theorem writeRowTable_wf (n : Nat) (s : Step) {mem : List Host.Cell} (d : Dev) (hw : Memory.wf mem = true) : Memory.wf (writeRowTable n s mem d) = true := by
  unfold writeRowTable
  dsimp only
  split
  · exact hw
  · exact writes_wf _ _ hw

theorem embed_wf (n key : Nat) (i : Image) (s : Step) {mem : List Host.Cell} (hw : Memory.wf mem = true) : Memory.wf (embed n key i s mem) = true :=
  foldl_keeps (fun m => Memory.wf m = true) (fun _ _ h => writes_wf _ _ h) _ hw

theorem startCore_wf (core key : Nat) (s : Step) {mem : List Host.Cell} (d : Dev) (hw : Memory.wf mem = true) :
    Memory.wf (startCore core key s mem d).1 = true := by
  unfold startCore
  dsimp only
  split
  · exact hw
  · refine writeRowTable_wf _ _ _ (foldl_keeps (fun m => Memory.wf m = true) (fun m img h => ?_) _ ?_)
    · exact foldl_keeps (fun m => Memory.wf m = true) (fun m g h => writeSegment_wf _ _ _ _ _ _ h) _ (writeTables_wf _ _ _ _ _ h)
    · split
      · exact embed_wf _ _ _ _ hw
      · exact hw

theorem inArrives_wf (n batch : Nat) (g : SegEntry) (s : Step) {mem : List Host.Cell} (d : Dev) (hw : Memory.wf mem = true) :
    Memory.wf (inArrives n batch g s mem d).1 = true := by
  unfold inArrives
  refine foldl_keeps (fun (a : List Host.Cell × Dev) => Memory.wf a.1 = true) (fun a img h => ?_) _ hw
  dsimp only
  split
  · exact writeSegment_wf _ _ _ _ _ _ h
  · exact h

/-! ### Images -/

theorem writeBlobs_wf (n : Nat) (i : Image) (places : List (Nat × Nat)) (hosts shadow : List Nat) (which : Blob → Bool) {mem : List Host.Cell}
    (hw : Memory.wf mem = true) : Memory.wf (writeBlobs n i places hosts shadow which mem) = true := by
  unfold writeBlobs
  refine foldl_keeps (fun m => Memory.wf m = true) (fun m p h => ?_) _ hw
  dsimp only
  split
  · exact writes_wf _ _ h
  · exact h

theorem writeLists_wf (n : Nat) (live : List CoreEntry) (hosts shadow : List Nat) {mem : List Host.Cell} (hw : Memory.wf mem = true) :
    Memory.wf (writeLists n live hosts shadow mem) = true :=
  foldl_keeps (fun m => Memory.wf m = true) (fun _ _ h => writes_wf _ _ h) _ hw

theorem placeImage_wf (n : Nat) (i : Image) {mem : List Host.Cell} (d : Dev) (hw : Memory.wf mem = true) : Memory.wf (placeImage n i mem d).1 = true := by
  unfold placeImage
  dsimp only
  exact writeLists_wf _ _ _ _ (writeBlobs_wf _ _ _ _ _ _ hw)

theorem activate_wf (n : Nat) {mem : List Host.Cell} (d : Dev) (hw : Memory.wf mem = true) : Memory.wf (activate n mem d).1 = true := by
  unfold activate
  dsimp only
  split
  · exact placeImage_wf _ _ _ (copyParts_wf _ _ hw)
  · exact hw
  · exact hw

theorem rehost_wf (n : Nat) {mem : List Host.Cell} (d : Dev) (hw : Memory.wf mem = true) : Memory.wf (rehost n mem d).1 = true := by
  unfold rehost
  dsimp only
  split
  · exact hw
  · refine foldl_keeps (fun (a : List Host.Cell × Dev) => Memory.wf a.1 = true) (fun a c h => ?_) _ hw
    split
    · exact h
    · dsimp only
      exact writeLists_wf _ _ _ _ (writeBlobs_wf _ _ _ _ _ _ h)

theorem leaveService_wf (n : Nat) {mem : List Host.Cell} (d : Dev) (hw : Memory.wf mem = true) : Memory.wf (leaveService n mem d).1 = true := by
  unfold leaveService
  dsimp only
  split
  · exact hw
  · exact rehost_wf _ _ hw

theorem followCores_wf (n : Nat) {mem : List Host.Cell} (d : Dev) (hw : Memory.wf mem = true) : Memory.wf (followCores n mem d).1 = true := by
  unfold followCores
  dsimp only
  repeat' split
  all_goals first | exact hw | exact rehost_wf _ _ hw | exact placeImage_wf _ _ _ hw

theorem coreStart_wf (core step rows : Nat) {mem : List Host.Cell} (d : Dev) (hw : Memory.wf mem = true) :
    Memory.wf (coreStart core step rows mem d).1 = true := by
  unfold coreStart
  extract_lets n
  split
  · exact hw
  · split
    · exact hw
    · extract_lets r
      have h : Memory.wf r.1 = true := by
        simp only [r]
        split
        · exact followCores_wf _ _ hw
        · exact hw
      split
      · split
        · exact startCore_wf _ _ _ _ h
        · exact h
      · exact h

/-! ### Step boundaries -/

theorem appendProv_wf (n sid pos stream : Nat) (bytes : List Byte) {s : List Host.Cell × Dev} (hw : Memory.wf s.1 = true) :
    Memory.wf (appendProv n sid pos stream bytes s).1 = true := by
  unfold appendProv
  dsimp only
  repeat' split
  all_goals first | exact hw | exact writePageRow_wf _ _ _ _ _ hw

theorem resolveProv_wf (n sid qbase : Nat) (path : List Nat) {s : List Host.Cell × Dev} (hw : Memory.wf s.1 = true) :
    Memory.wf (resolveProv n sid qbase path s).1 = true := by
  unfold resolveProv
  split
  · exact hw
  · refine foldl_keeps (fun (a : List Host.Cell × Dev) => Memory.wf a.1 = true) (fun a e h => ?_) _ hw
    refine foldl_keeps (fun (a : List Host.Cell × Dev) => Memory.wf a.1 = true) (fun a p h => ?_) _ h
    split
    · exact appendProv_wf _ _ _ _ _ h
    · exact h

theorem sharePage_wf (n sid : Nat) (p : Page) (key : Nat) {s : List Host.Cell × Dev} (hw : Memory.wf s.1 = true) :
    Memory.wf (sharePage n sid p key s).1 = true := by
  unfold sharePage
  dsimp only
  repeat' split
  all_goals first | exact hw | exact copyParts_wf _ _ hw

theorem shareRow_wf (n : Nat) (r : StepRow) {s : List Host.Cell × Dev} (hw : Memory.wf s.1 = true) : Memory.wf (shareRow n r s).1 = true := by
  unfold shareRow
  split
  · exact hw
  · split
    · exact hw
    · refine foldl_keeps (fun (a : List Host.Cell × Dev) => Memory.wf a.1 = true) (fun a p h => ?_) _ hw
      dsimp only
      split
      · exact sharePage_wf _ _ _ _ h
      · exact h

theorem commitRow_wf (n : Nat) (r : StepRow) (path : List Nat) {s : List Host.Cell × Dev} (hw : Memory.wf s.1 = true) :
    Memory.wf (commitRow n r path s).1 = true := by
  unfold commitRow
  dsimp only
  repeat' split
  all_goals first | exact hw | exact resolveProv_wf _ _ _ _ hw

theorem atBoundary_wf (n number : Nat) {s : List Host.Cell × Dev} (hw : Memory.wf s.1 = true) : Memory.wf (atBoundary n number s).1 = true := by
  unfold atBoundary
  dsimp only
  split
  · exact activate_wf _ _ (leaveService_wf _ _ hw)
  · exact leaveService_wf _ _ hw

theorem boundaryRows_wf (n : Nat) (b : Batch) (es : List TokensEntry) (s : Step) {x : List Host.Cell × Dev} (hw : Memory.wf x.1 = true) :
    Memory.wf (boundaryRows n b es s x).1 = true := by
  unfold boundaryRows
  refine foldl_keeps (fun (a : List Host.Cell × Dev) => Memory.wf a.1 = true) (fun a r h => ?_) _ hw
  dsimp only
  split
  · exact commitRow_wf _ _ _ h
  · exact shareRow_wf _ _ (commitRow_wf _ _ _ h)

theorem boundary_wf (n key : Nat) (b : Batch) (s : Step) {mem : List Host.Cell} (d : Dev) (hw : Memory.wf mem = true) :
    Memory.wf (boundary n key b s mem d).1 = true := by
  unfold boundary
  exact atBoundary_wf _ _ (boundaryRows_wf _ _ _ _ hw)

end Sys2Proof.Machine
end

