-- ==== Sys2Proof/Laws/MemoryService.lean ====
section
/-! SUPPORT. Laws/MemoryService.lean: what session moves, the shared tier, vector indexes, selection, masks, composition and restore write keeps the
memory canonical. -/
namespace Sys2Proof.Machine

/-! ### Session moves -/

theorem moveBytes_wf (sid : Nat) (d d' : Dev) {mem : List Host.Cell} (hw : Memory.wf mem = true) : Memory.wf (moveBytes sid d d' mem) = true := by
  unfold moveBytes
  split
  · exact copyParts_wf _ _ hw
  · exact hw

theorem fillParts_wf (b : Buoy) (m : Moor) (pages : List (List Byte)) (rec stat : List Byte) {mem : List Host.Cell} (hw : Memory.wf mem = true) :
    Memory.wf (fillParts b m pages rec stat mem) = true := by
  have h : Memory.wf ((m.pages.zip pages).foldl (fun mem e => if e.1.loc.tier = 3 || e.1.shared then mem
      else Mem.writes (flatLoc b.sector e.1.loc) (padTo 16384 e.2) mem) mem) = true := by
    refine foldl_keeps (fun m => Memory.wf m = true) (fun mem e h => ?_) _ hw
    split
    · exact h
    · exact writes_wf _ _ h
  unfold fillParts
  dsimp only
  repeat' split
  all_goals first
    | exact h
    | exact writes_wf _ _ h
    | exact writes_wf _ _ (writes_wf _ _ h)

theorem inboundBytes_wf (sid : Nat) (o : SesOp) (d' : Dev) {mem : List Host.Cell} (hw : Memory.wf mem = true) : Memory.wf (inboundBytes sid o d' mem) = true := by
  unfold inboundBytes
  dsimp only
  repeat' split
  all_goals first
    | exact hw
    | exact writes_wf _ _ (zero_wf _ _ (fillParts_wf _ _ _ _ _ hw))
    | exact fillParts_wf _ _ _ _ _ hw

theorem backBytes_wf (sid : Nat) (d : Dev) {mem : List Host.Cell} (hw : Memory.wf mem = true) : Memory.wf (backBytes sid d mem) = true := by
  unfold backBytes
  repeat' split
  all_goals first | exact hw | exact copyParts_wf _ _ hw

theorem rebuiltBytes_wf (sid : Nat) (c : CopyRec) (coded : Option CodedBytes) (d : Dev) {mem : List Host.Cell} (hw : Memory.wf mem = true) :
    Memory.wf (rebuiltBytes sid c coded d mem) = true := by
  unfold rebuiltBytes
  repeat' split
  all_goals first | exact hw | exact fillParts_wf _ _ _ _ _ hw | exact copyParts_wf _ _ hw

theorem placeBytes_wf (sid : Nat) (d d' : Dev) {mem : List Host.Cell} (hw : Memory.wf mem = true) : Memory.wf (placeBytes sid d d' mem) = true := by
  unfold placeBytes
  split
  · extract_lets m mem1 fresh mem2 had mem3
    have h2 : Memory.wf mem2 = true := foldl_keeps (fun m => Memory.wf m = true) (fun _ _ h => zero_wf _ _ h) _ (moveBytes_wf _ _ _ hw)
    have h3 : Memory.wf mem3 = true := by
      simp only [mem3]
      split
      · exact h2
      · exact zero_wf _ _ h2
    split
    · exact h3
    · exact zero_wf _ _ h3
  · exact hw

theorem slideStats_wf (i : Image) (r : StepRow) (d d' : Dev) {mem : List Host.Cell} (hw : Memory.wf mem = true) :
    Memory.wf (slideStats i r mem d d') = true := by
  unfold slideStats
  dsimp only
  repeat' split
  all_goals first | exact copyParts_wf _ _ hw | exact hw

theorem rowBytesMoved_wf (n : Nat) (r : StepRow) (d d' : Dev) {mem : List Host.Cell} (hw : Memory.wf mem = true) :
    Memory.wf (rowBytesMoved n r d d' mem) = true := by
  unfold rowBytesMoved
  dsimp only
  split
  · exact slideStats_wf _ _ _ _ (placeBytes_wf _ _ _ hw)
  · exact placeBytes_wf _ _ _ hw

theorem imageLoad_wf (e : Ent) (n : Nat) (i : Image) (bytes : List Byte) {mem : List Host.Cell} (d : Dev) (hw : Memory.wf mem = true) :
    Memory.wf (d.imageLoad e n i bytes mem).1 = true := by
  unfold Dev.imageLoad
  repeat' split
  all_goals first | exact hw | exact writes_wf _ _ hw

theorem partLoss_wf (sid : Nat) (coded : Option CodedBytes) {mem : List Host.Cell} (d : Dev) (hw : Memory.wf mem = true) :
    Memory.wf (d.partLoss sid coded mem).1 = true := by
  unfold Dev.partLoss
  dsimp only
  repeat' split
  all_goals first | exact rebuiltBytes_wf _ _ _ _ hw | exact hw

/-! ### The shared tier -/

theorem destroyGrant_wf (k host : Nat) {mem : List Host.Cell} (d : Dev) (hw : Memory.wf mem = true) : Memory.wf (d.destroyGrant k host mem).1 = true := by
  unfold Dev.destroyGrant
  dsimp only
  repeat' split
  all_goals first | exact hw | exact zero_wf _ _ hw

theorem publishEnd_wf (k : Nat) {mem : List Host.Cell} (d : Dev) (hw : Memory.wf mem = true) : Memory.wf (d.publishEnd k mem).1 = true := by
  unfold Dev.publishEnd
  dsimp only
  repeat' split
  all_goals first | exact hw | exact writes_wf _ _ hw

theorem poolRun_wf (r : PoolReq) {mem : List Host.Cell} (d : Dev) (hw : Memory.wf mem = true) : Memory.wf (d.poolRun r mem).1 = true := by
  unfold Dev.poolRun
  dsimp only
  repeat' split
  all_goals first | exact hw | exact writes_wf _ _ hw

theorem poolServe_wf (r : PoolReq) {mem : List Host.Cell} (d : Dev) (hw : Memory.wf mem = true) : Memory.wf (d.poolServe r mem).1 = true := by
  unfold Dev.poolServe
  split
  · exact hw
  · exact poolRun_wf _ _ hw

theorem poolRequest_wf (code : Nat) (r : PoolReq) {mem : List Host.Cell} (d : Dev) (hw : Memory.wf mem = true) :
    Memory.wf (d.poolRequest code r mem).1 = true := by
  unfold Dev.poolRequest
  dsimp only
  repeat' split
  all_goals first | exact hw | exact poolRun_wf _ _ hw

theorem workBytes_wf (sid : Nat) (o : SesOp) (d d' : Dev) {mem : List Host.Cell} (hw : Memory.wf mem = true) :
    Memory.wf (workBytes sid o d d' mem) = true := by
  unfold workBytes
  split
  · exact inboundBytes_wf _ _ _ hw
  · exact backBytes_wf _ _ (moveBytes_wf _ _ _ hw)

theorem workStatus_wf (sid : Nat) (o : SesOp) (r : WorkResult) {mem : List Host.Cell} (d : Dev) (hw : Memory.wf mem = true) :
    Memory.wf (d.workStatus sid o r mem).2.1 = true := by
  unfold Dev.workStatus
  extract_lets d1 lost
  have hl : Memory.wf lost.2.1 = true := hw
  clear_value lost d1
  dsimp only
  repeat' split
  all_goals first | exact rebuiltBytes_wf _ _ _ _ hw | exact hl | exact hw

theorem finishWork_wf (sid : Nat) (r : WorkResult) {mem : List Host.Cell} (d : Dev) (hw : Memory.wf mem = true) :
    Memory.wf (finishWork sid r mem d).1 = true := by
  show Memory.wf (d.endWork sid r mem).1 = true
  unfold Dev.endWork
  split
  · exact hw
  · extract_lets d1 w done d2 mem1 d3
    have h : Memory.wf w.2.1 = true := workStatus_wf _ _ _ _ hw
    have h1 : Memory.wf mem1 = true := by
      simp only [mem1]
      split
      · exact workBytes_wf _ _ _ _ h
      · exact h
    clear_value mem1 d3
    repeat' split
    all_goals first | exact h1 | exact hw

theorem codedEnd_wf (sid : Nat) (ok : Bool) {mem : List Host.Cell} (d : Dev) (hw : Memory.wf mem = true) : Memory.wf (d.codedEnd sid ok mem).1 = true := by
  unfold Dev.codedEnd
  dsimp only
  split
  · exact hw
  · exact finishWork_wf _ _ _ hw

theorem codedCheck_wf (sid : Nat) {mem : List Host.Cell} (d : Dev) (hw : Memory.wf mem = true) : Memory.wf (d.codedCheck sid mem).1 = true := by
  unfold Dev.codedCheck
  repeat' split
  all_goals first | exact hw | exact codedEnd_wf _ _ _ hw

theorem codedFail_wf (sid member : Nat) {mem : List Host.Cell} (d : Dev) (hw : Memory.wf mem = true) : Memory.wf (d.codedFail sid member mem).1 = true := by
  unfold Dev.codedFail
  dsimp only
  repeat' split
  all_goals first | exact hw | exact codedCheck_wf _ _ hw | exact codedEnd_wf _ _ _ hw

theorem codedAck_wf (sid member : Nat) {mem : List Host.Cell} (d : Dev) (hw : Memory.wf mem = true) : Memory.wf (d.codedAck sid member mem).1 = true := by
  unfold Dev.codedAck
  dsimp only
  split
  · exact hw
  · exact codedCheck_wf _ _ hw

/-! ### Vector indexes -/

theorem writeContent_wf (base n : Nat) (content : List (Nat × List Byte)) {mem : List Host.Cell} (hw : Memory.wf mem = true) :
    Memory.wf (writeContent base n content mem) = true :=
  foldl_keeps (fun m => Memory.wf m = true) (fun _ _ h => writes_wf _ _ h) _ hw

theorem indexCreate_wf (e : Ent) (n kind source length : Nat) (content : List (Nat × List Byte)) {mem : List Host.Cell} (d : Dev) (hw : Memory.wf mem = true) :
    Memory.wf (d.indexCreate e n kind source length content mem).1 = true := by
  unfold Dev.indexCreate
  dsimp only
  repeat' split
  all_goals first | exact hw | exact writeContent_wf _ _ _ hw

theorem finishDrop_wf (n : Nat) {mem : List Host.Cell} (d : Dev) (hw : Memory.wf mem = true) : Memory.wf (d.finishDrop n mem).1 = true := by
  unfold Dev.finishDrop
  repeat' split
  all_goals first | exact hw | exact zero_wf _ _ hw

theorem indexDrop_wf (e : Ent) (n : Nat) {mem : List Host.Cell} (d : Dev) (hw : Memory.wf mem = true) : Memory.wf (d.indexDrop e n mem).1 = true := by
  unfold Dev.indexDrop
  dsimp only
  repeat' split
  all_goals first | exact hw | exact finishDrop_wf _ _ hw

theorem roundDone_wf (k : Nat) (failed : List Nat) {mem : List Host.Cell} (d : Dev) (hw : Memory.wf mem = true) : Memory.wf (d.roundDone k failed mem).1 = true := by
  unfold Dev.roundDone
  dsimp only
  repeat' split
  all_goals first | exact hw | exact finishDrop_wf _ _ hw

theorem writeRec_wf (x : VecIndex) (n : Nat) (r : NodeRec) {mem : List Host.Cell} (hw : Memory.wf mem = true) : Memory.wf (x.writeRec n r mem) = true := writes_wf _ _ hw

theorem writeHeader_wf (x : VecIndex) {mem : List Host.Cell} (hw : Memory.wf mem = true) : Memory.wf (x.writeHeader mem) = true := writes_wf _ _ hw

theorem countBlock_wf (x : VecIndex) (b : Nat) {mem : List Host.Cell} (hw : Memory.wf mem = true) : Memory.wf (x.countBlock b mem) = true := writes_wf _ _ hw

theorem link_wf (x : VecIndex) (v : Neigh) (p : Nat) {mem : List Host.Cell} (hw : Memory.wf mem = true) : Memory.wf (x.link v p mem) = true := writes_wf _ _ hw

theorem repairRec_wf (x : VecIndex) (p : Nat) {mem : List Host.Cell} (hw : Memory.wf mem = true) : Memory.wf (x.repairRec p mem) = true := by
  unfold VecIndex.repairRec
  dsimp only
  split
  · exact writeRec_wf _ _ _ hw
  · exact hw

theorem writeInsert_wf (n : Nat) (x : VecIndex) (e : Ent) (key : Nat) (vector : List Byte) (off : Nat) (code found : List Nat) (unreadable : Bool)
    {mem : List Host.Cell} (d : Dev) (hw : Memory.wf mem = true) : Memory.wf (d.writeInsert n x e key vector off code found unreadable mem).1 = true := by
  have hl : ∀ (x : VecIndex) (v : Neigh) (ns : List Neigh) (m : List Host.Cell), Memory.wf m = true → Memory.wf (ns.foldl (fun m g => x.link v g.node m) m) = true :=
    fun x v ns m h => foldl_keeps (fun m => Memory.wf m = true) (fun _ _ h => link_wf _ _ _ h) _ h
  unfold Dev.writeInsert
  extract_lets fromFreed node codes cs ns x' v mem1 mem2 mem3 mem4 mem5 d'
  split
  · exact hw
  · split
    · exact hw
    · have h1 : Memory.wf mem1 = true := writeRec_wf _ _ _ hw
      have h2 : Memory.wf mem2 = true := by
        simp only [mem2]
        split
        · exact writes_wf _ _ h1
        · exact h1
      have h4 : Memory.wf mem4 = true := countBlock_wf _ _ (hl _ _ _ _ h2)
      show Memory.wf mem5 = true
      simp only [mem5]
      split
      · exact writeHeader_wf _ h4
      · exact h4

theorem writeDelete_wf (n : Nat) (x : VecIndex) (e : Ent) (node : Nat) (unreadable : Bool) {mem : List Host.Cell} (d : Dev) (hw : Memory.wf mem = true) :
    Memory.wf (d.writeDelete n x e node unreadable mem).1 = true := by
  unfold Dev.writeDelete
  dsimp only
  repeat' split
  all_goals first | exact hw | exact writeRec_wf _ _ _ hw

theorem sweep_wf (n : Nat) (x0 : VecIndex) (unreadable : Bool) {mem : List Host.Cell} (d : Dev) (hw : Memory.wf mem = true) :
    Memory.wf (d.sweep n x0 unreadable mem).1 = true := by
  have hf : ∀ (x : VecIndex) (ns : List Nat), Memory.wf (ns.foldl (fun m p => x.repairRec p m) mem) = true :=
    fun x ns => foldl_keeps (fun m => Memory.wf m = true) (fun _ _ h => repairRec_wf _ _ h) _ hw
  unfold Dev.sweep
  dsimp only
  repeat' split
  all_goals first | exact hw | exact hf _ _

/-! ### Selection, composition and restore -/

theorem selRow_wf (x : EngCtx) (j : SelJob) (p : RowPar) (step r : Nat) (ties : List Nat) {mem : List Host.Cell} (d : Dev) (hw : Memory.wf mem = true) :
    Memory.wf (selRow x j p step r ties mem d).1 = true := by
  unfold selRow
  dsimp only
  exact writes_wf _ _ hw

theorem selRows_wf (x : EngCtx) (j : SelJob) (tab step : Nat) (ties : List (List Nat)) (rs : List Nat) :
    ∀ {s : List Host.Cell × Dev}, Memory.wf s.1 = true → Memory.wf (selRows x j tab step ties rs s).1 = true := by
  induction rs with
  | nil => exact fun h => h
  | cons r rs ih =>
    intro s h
    unfold selRows
    extract_lets par p
    split
    · exact ih h
    · split
      · exact h
      · exact ih (selRow_wf _ _ _ _ _ _ _ h)

theorem zeroTails_wf (old new : CompMap) {mem : List Host.Cell} (hw : Memory.wf mem = true) : Memory.wf (zeroTails old new mem) = true := by
  unfold zeroTails
  exact foldl_keeps (fun m => Memory.wf m = true) (fun _ _ h => zero_wf _ _ (zero_wf _ _ (zero_wf _ _ (zero_wf _ _ h)))) _ hw

theorem restoreAdapter_wf (x : RestoredSession) (refs : Tab Nat) {s : List Host.Cell × Dev} (hw : Memory.wf s.1 = true) :
    Memory.wf (restoreAdapter x refs s).2.2.1 = true := by
  unfold restoreAdapter
  dsimp only
  repeat' split
  all_goals first | exact hw | exact writes_wf _ _ hw

theorem placeShared_wf (n : Nat) (ps : List (Page × List Byte)) :
    ∀ {s : List Host.Cell × Dev} (acc : List Page), Memory.wf s.1 = true → Memory.wf (placeShared n ps s acc).2.1 = true := by
  induction ps with
  | nil => exact fun _ h => h
  | cons p ps ih =>
    intro s acc h
    obtain ⟨p, bs⟩ := p
    unfold placeShared
    dsimp only
    repeat' split
    all_goals first | exact ih _ h | exact ih _ (writes_wf _ _ h)

theorem restoreSession_wf (cold : Bool) (x : RestoredSession) {s : Tab Nat × List Host.Cell × Dev} (hw : Memory.wf s.2.1 = true) :
    Memory.wf (restoreSession cold s x).2.1 = true := by
  unfold restoreSession
  dsimp only
  repeat' split
  all_goals first | exact hw | exact fillParts_wf _ _ _ _ _ (placeShared_wf _ _ _ (restoreAdapter_wf _ _ hw))

theorem restoreAll_wf (sectors : Nat) (cold : Bool) (seq : Option Nat) (xs : List RestoredSession) {mem : List Host.Cell} (d : Dev) (hw : Memory.wf mem = true) :
    Memory.wf (restoreAll sectors cold seq xs mem d).1 = true := by
  unfold restoreAll
  dsimp only
  exact foldl_keeps (fun (a : Tab Nat × List Host.Cell × Dev) => Memory.wf a.2.1 = true) (fun a x h => restoreSession_wf _ _ h) _ hw

theorem keepFlash_wf {mem : List Host.Cell} (hw : Memory.wf mem = true) : Memory.wf (keepFlash mem) = true := filter_wf _ hw

end Sys2Proof.Machine
end

