-- ==== Sys2Proof/Laws/Frames.lean ====
section
/-! SUPPORT. Laws/Frames.lean: the frames of a command touch the ports alone, and a command that sends nothing on them touches nothing. -/
namespace Sys2Proof.Machine

theorem sendFlits_ports (p : Option Nat) (xs : List (Nat × List Byte)) (d : Dev) : ∃ ps w, d.sendFlits p xs = { d with ports := ps, ringWait := w } := by
  cases p with
  | some i => exact ⟨_, d.ringWait, rfl⟩
  | none => exact ⟨d.ports, _, rfl⟩

theorem sendOn_ports (p : Option Nat) (c : Nat) (bs : List Byte) (d : Dev) : ∃ ps w, d.sendOn p c bs = { d with ports := ps, ringWait := w } :=
  sendFlits_ports _ _ _

theorem sendSide_ports (chip c : Nat) (bs : List Byte) (d : Dev) : ∃ ps w, d.sendSide chip c bs = { d with ports := ps, ringWait := w } := by
  unfold Dev.sendSide
  split
  · exact sendOn_ports _ _ _ _
  · exact ⟨d.ports, d.ringWait, rfl⟩

theorem sendPool_ports (h : Nat) (bs : List Byte) (d : Dev) : ∃ ps w, d.sendPool h bs = { d with ports := ps, ringWait := w } := by
  unfold Dev.sendPool
  split
  · exact sendSide_ports _ _ _ _
  · exact ⟨d.ports, d.ringWait, rfl⟩

theorem sendFramesOf_ports (e : Emission) (d : Dev) : ∃ ps w, d.sendFramesOf e = { d with ports := ps, ringWait := w } := by
  unfold Dev.sendFramesOf
  split <;> first
    | exact sendOn_ports _ _ _ _
    | exact sendSide_ports _ _ _ _
    | exact sendPool_ports _ _ _
    | exact ⟨d.ports, d.ringWait, rfl⟩

theorem foldFrames_ports (es : List Emission) : ∀ d : Dev, ∃ ps w, es.foldl (fun d e => d.sendFramesOf e) d = { d with ports := ps, ringWait := w } := by
  induction es with
  | nil => exact fun d => ⟨d.ports, d.ringWait, rfl⟩
  | cons e es ih =>
    intro d
    obtain ⟨p, w, h⟩ := sendFramesOf_ports e d
    obtain ⟨p', w', h'⟩ := ih (d.sendFramesOf e)
    exact ⟨p', w', by rw [List.foldl_cons, h', h]⟩

/-- Sending frames changes the ports and the frames that wait for the ring, and nothing else. -/
theorem sendFrames_ports (old d : Dev) : ∃ ps w, Dev.sendFrames old d = { d with ports := ps, ringWait := w } := foldFrames_ports _ d

/-- A command that appended nothing to the output log sends no frame. -/
theorem sendFrames_same_out {old d : Dev} (h : d.out = old.out) : Dev.sendFrames old d = d := by simp [Dev.sendFrames, h]

/-- A command whose one output travels in no frame. -/
theorem sendFrames_one {old d : Dev} (e : Emission) (h : d.out = e :: old.out) : Dev.sendFrames old d = d.sendFramesOf e := by
  have : (e :: old.out).length - old.out.length = 1 := by simp
  simp [Dev.sendFrames, h]

/-! ### Field by field -/

@[simp] theorem sendFrames_now (old d : Dev) : (Dev.sendFrames old d).now = d.now := by obtain ⟨_, _, h⟩ := sendFrames_ports old d; rw [h]
@[simp] theorem sendFrames_daymark (old d : Dev) : (Dev.sendFrames old d).daymark = d.daymark := by obtain ⟨_, _, h⟩ := sendFrames_ports old d; rw [h]
@[simp] theorem sendFrames_freeCtr (old d : Dev) : (Dev.sendFrames old d).freeCtr = d.freeCtr := by obtain ⟨_, _, h⟩ := sendFrames_ports old d; rw [h]
@[simp] theorem sendFrames_out (old d : Dev) : (Dev.sendFrames old d).out = d.out := by obtain ⟨_, _, h⟩ := sendFrames_ports old d; rw [h]
@[simp] theorem sendFrames_regs (old d : Dev) : (Dev.sendFrames old d).regs = d.regs := by obtain ⟨_, _, h⟩ := sendFrames_ports old d; rw [h]
@[simp] theorem sendFrames_committed (old d : Dev) : (Dev.sendFrames old d).committed = d.committed := by obtain ⟨_, _, h⟩ := sendFrames_ports old d; rw [h]
@[simp] theorem sendFrames_pends (old d : Dev) : (Dev.sendFrames old d).pends = d.pends := by obtain ⟨_, _, h⟩ := sendFrames_ports old d; rw [h]
@[simp] theorem sendFrames_bar2 (old d : Dev) : (Dev.sendFrames old d).bar2 = d.bar2 := by obtain ⟨_, _, h⟩ := sendFrames_ports old d; rw [h]
@[simp] theorem sendFrames_idxLatch (old d : Dev) : (Dev.sendFrames old d).idxLatch = d.idxLatch := by obtain ⟨_, _, h⟩ := sendFrames_ports old d; rw [h]
@[simp] theorem sendFrames_own (old d : Dev) : (Dev.sendFrames old d).own = d.own := by obtain ⟨_, _, h⟩ := sendFrames_ports old d; rw [h]
@[simp] theorem sendFrames_que (old d : Dev) : (Dev.sendFrames old d).que = d.que := by obtain ⟨_, _, h⟩ := sendFrames_ports old d; rw [h]
@[simp] theorem sendFrames_peers (old d : Dev) : (Dev.sendFrames old d).peers = d.peers := by obtain ⟨_, _, h⟩ := sendFrames_ports old d; rw [h]
@[simp] theorem sendFrames_peersNext (old d : Dev) : (Dev.sendFrames old d).peersNext = d.peersNext := by obtain ⟨_, _, h⟩ := sendFrames_ports old d; rw [h]
@[simp] theorem sendFrames_qps (old d : Dev) : (Dev.sendFrames old d).qps = d.qps := by obtain ⟨_, _, h⟩ := sendFrames_ports old d; rw [h]
@[simp] theorem sendFrames_mctp (old d : Dev) : (Dev.sendFrames old d).mctp = d.mctp := by obtain ⟨_, _, h⟩ := sendFrames_ports old d; rw [h]
@[simp] theorem sendFrames_locQuery (old d : Dev) : (Dev.sendFrames old d).locQuery = d.locQuery := by obtain ⟨_, _, h⟩ := sendFrames_ports old d; rw [h]
@[simp] theorem sendFrames_downSince (old d : Dev) : (Dev.sendFrames old d).downSince = d.downSince := by obtain ⟨_, _, h⟩ := sendFrames_ports old d; rw [h]
@[simp] theorem sendFrames_ptpGood (old d : Dev) : (Dev.sendFrames old d).ptpGood = d.ptpGood := by obtain ⟨_, _, h⟩ := sendFrames_ports old d; rw [h]
@[simp] theorem sendFrames_ptpAt (old d : Dev) : (Dev.sendFrames old d).ptpAt = d.ptpAt := by obtain ⟨_, _, h⟩ := sendFrames_ports old d; rw [h]
@[simp] theorem sendFrames_fog (old d : Dev) : (Dev.sendFrames old d).fog = d.fog := by obtain ⟨_, _, h⟩ := sendFrames_ports old d; rw [h]
@[simp] theorem sendFrames_gap (old d : Dev) : (Dev.sendFrames old d).gap = d.gap := by obtain ⟨_, _, h⟩ := sendFrames_ports old d; rw [h]
@[simp] theorem sendFrames_lantern (old d : Dev) : (Dev.sendFrames old d).lantern = d.lantern := by obtain ⟨_, _, h⟩ := sendFrames_ports old d; rw [h]
@[simp] theorem sendFrames_keepers (old d : Dev) : (Dev.sendFrames old d).keepers = d.keepers := by obtain ⟨_, _, h⟩ := sendFrames_ports old d; rw [h]
@[simp] theorem sendFrames_tap (old d : Dev) : (Dev.sendFrames old d).tap = d.tap := by obtain ⟨_, _, h⟩ := sendFrames_ports old d; rw [h]
@[simp] theorem sendFrames_sec (old d : Dev) : (Dev.sendFrames old d).sec = d.sec := by obtain ⟨_, _, h⟩ := sendFrames_ports old d; rw [h]
@[simp] theorem sendFrames_ses (old d : Dev) : (Dev.sendFrames old d).ses = d.ses := by obtain ⟨_, _, h⟩ := sendFrames_ports old d; rw [h]
@[simp] theorem sendFrames_loc (old d : Dev) : (Dev.sendFrames old d).loc = d.loc := by obtain ⟨_, _, h⟩ := sendFrames_ports old d; rw [h]
@[simp] theorem sendFrames_srv (old d : Dev) : (Dev.sendFrames old d).srv = d.srv := by obtain ⟨_, _, h⟩ := sendFrames_ports old d; rw [h]
@[simp] theorem sendFrames_comp (old d : Dev) : (Dev.sendFrames old d).comp = d.comp := by obtain ⟨_, _, h⟩ := sendFrames_ports old d; rw [h]
@[simp] theorem sendFrames_pool (old d : Dev) : (Dev.sendFrames old d).pool = d.pool := by obtain ⟨_, _, h⟩ := sendFrames_ports old d; rw [h]
@[simp] theorem sendFrames_media (old d : Dev) : (Dev.sendFrames old d).media = d.media := by obtain ⟨_, _, h⟩ := sendFrames_ports old d; rw [h]
@[simp] theorem sendFrames_boot (old d : Dev) : (Dev.sendFrames old d).boot = d.boot := by obtain ⟨_, _, h⟩ := sendFrames_ports old d; rw [h]
@[simp] theorem sendFrames_eng (old d : Dev) : (Dev.sendFrames old d).eng = d.eng := by obtain ⟨_, _, h⟩ := sendFrames_ports old d; rw [h]
@[simp] theorem sendFrames_sel (old d : Dev) : (Dev.sendFrames old d).sel = d.sel := by obtain ⟨_, _, h⟩ := sendFrames_ports old d; rw [h]
@[simp] theorem sendFrames_tok (old d : Dev) : (Dev.sendFrames old d).tok = d.tok := by obtain ⟨_, _, h⟩ := sendFrames_ports old d; rw [h]
@[simp] theorem sendFrames_grm (old d : Dev) : (Dev.sendFrames old d).grm = d.grm := by obtain ⟨_, _, h⟩ := sendFrames_ports old d; rw [h]
@[simp] theorem sendFrames_idx (old d : Dev) : (Dev.sendFrames old d).idx = d.idx := by obtain ⟨_, _, h⟩ := sendFrames_ports old d; rw [h]
@[simp] theorem sendFrames_ckpt (old d : Dev) : (Dev.sendFrames old d).ckpt = d.ckpt := by obtain ⟨_, _, h⟩ := sendFrames_ports old d; rw [h]
@[simp] theorem sendFrames_lens (old d : Dev) : (Dev.sendFrames old d).lens = d.lens := by obtain ⟨_, _, h⟩ := sendFrames_ports old d; rw [h]
@[simp] theorem sendFrames_get (old d : Dev) (f : Fld) : (Dev.sendFrames old d).get f = d.get f := by simp [Dev.get]

end Sys2Proof.Machine
end

