-- ==== Sys2Proof/Laws/Outcome.lean ====
section
/-! SUPPORT. Laws/Outcome.lean: what each way of lifting a change of the device to a meaning can answer. -/
namespace Sys2Proof.Machine

theorem onDev_next {f : Dev → Dev} {s t : State} (h : onDev f s = .next t) : t = { s with dev := Dev.sendFrames s.dev (f s.dev) } := by
  unfold onDev at h
  injection h with h
  exact h.symm

theorem onServing_next {f : Dev → Dev} {s t : State} (h : onServing f s = .next t) :
    t = { s with dev := if s.dev.serving then Dev.sendFrames s.dev (f s.dev) else s.dev } := by
  unfold onServing at h
  injection h with h
  exact h.symm

theorem onAwake_next {f : Dev → Dev} {s t : State} (h : onAwake f s = .next t) :
    t = { s with dev := if s.dev.awake && (s.dev.inService || s.dev.inRecovery) then Dev.sendFrames s.dev (f s.dev) else s.dev } := by
  unfold onAwake at h
  injection h with h
  exact h.symm

theorem onServingMem_next {f : List Host.Cell → Dev → List Host.Cell × Dev} {s t : State} (h : onServingMem f s = .next t) :
    t = s ∨ t = { s with mem := (f s.mem s.dev).1, dev := Dev.sendFrames s.dev (f s.mem s.dev).2 } := by
  unfold onServingMem at h
  injection h with h
  split at h
  · exact .inr h.symm
  · exact .inl h.symm

/-- What the commands that reset the device answer. -/
theorem startOver_next {cause : Nat} {env : RomEnv} {nor : Option LightList} {s t : State} (h : startOver cause env nor s = .next t) :
    t = { s with mem := keepFlash s.mem, dev := s.dev.restart cause env nor } := by
  unfold startOver at h
  injection h with h
  exact h.symm

/-! ### While the device serves -/

theorem onServing_serving {f : Dev → Dev} {s : State} (h : s.dev.serving = true) :
    onServing f s = .next { s with dev := Dev.sendFrames s.dev (f s.dev) } := by
  simp [onServing, h]

theorem onServingMem_serving {f : List Host.Cell → Dev → List Host.Cell × Dev} {s : State} (h : s.dev.serving = true) :
    onServingMem f s = .next { s with mem := (f s.mem s.dev).1, dev := Dev.sendFrames s.dev (f s.mem s.dev).2 } := by
  simp [onServingMem, h]

theorem onAwake_answering {f : Dev → Dev} {s : State} (ha : s.dev.awake = true) (hm : (s.dev.inService || s.dev.inRecovery) = true) :
    onAwake f s = .next { s with dev := Dev.sendFrames s.dev (f s.dev) } := by
  simp [onAwake, ha, hm]

/-- A device that serves is awake and in service. -/
theorem serving_awake {d : Dev} (h : d.serving = true) : d.awake = true ∧ d.inService = true := by
  simp only [Dev.serving, Bool.and_eq_true] at h
  exact ⟨h.2, h.1⟩

end Sys2Proof.Machine
end

