-- ==== Sys2Proof/Laws/Answers.lean ====
section
/-! SUPPORT. Laws/Answers.lean: the meanings that change memory, or that may reset the device, answer a next state with the same waiting commands, and
keep the memory canonical. -/
namespace Sys2Proof.Machine

/-- The outcome is a next state that differs from `s` in the device and in memory only, and whose memory is canonical if that of `s` is. -/
def Answers (o : Host.Outcome State Fault Refusal) (s : State) : Prop :=
  ∃ m d, o = .next { s with mem := m, dev := d } ∧ (Memory.wf s.mem = true → Memory.wf m = true)

theorem answers_dev (s : State) (d : Dev) : Answers (.next { s with dev := d }) s := ⟨s.mem, d, rfl, id⟩

theorem answers_same (s : State) : Answers (.next s) s := ⟨s.mem, s.dev, rfl, id⟩

theorem answers_onDev (f : Dev → Dev) (s : State) : Answers (onDev f s) s := ⟨s.mem, _, rfl, id⟩

theorem answers_onServing (f : Dev → Dev) (s : State) : Answers (onServing f s) s := ⟨s.mem, _, rfl, id⟩

theorem answers_onAwake (f : Dev → Dev) (s : State) : Answers (onAwake f s) s := ⟨s.mem, _, rfl, id⟩

theorem answers_onServingMem {f : List Host.Cell → Dev → List Host.Cell × Dev} {s : State}
    (h : ∀ mem d, Memory.wf mem = true → Memory.wf (f mem d).1 = true) : Answers (onServingMem f s) s := by
  unfold onServingMem
  split
  · exact ⟨_, _, rfl, h _ _⟩
  · exact answers_same s

theorem answers_startOver (cause : Nat) (env : RomEnv) (nor : Option LightList) (s : State) : Answers (startOver cause env nor s) s :=
  ⟨keepFlash s.mem, _, rfl, fun h => keepFlash_wf h⟩

/-- A meaning applied to the state with another device. -/
theorem answers_of_dev {o : Host.Outcome State Fault Refusal} {s : State} (d : Dev) (h : Answers o { s with dev := d }) : Answers o s := h

theorem answers_regWrite (m : Master) (fn : Fn) (o v late : Nat) (s : State) : Answers (regWrite m fn o v late s) s := by
  unfold regWrite
  split
  · exact answers_same s
  · split
    · exact answers_startOver _ _ _ _
    · exact answers_dev _ _

theorem answers_exitState (target cause : Nat) (env : RomEnv) (s : State) : Answers (exitState target cause env s) s := by
  unfold exitState
  repeat' split
  all_goals first | exact answers_dev _ _ | exact answers_startOver _ _ _ _

theorem answers_wakeBy (src : WakeSource) (level inLast8 : Bool) (env : RomEnv) (s : State) : Answers (wakeBy src level inLast8 env s) s := by
  unfold wakeBy
  dsimp only
  repeat' split
  all_goals first | exact answers_same s | exact answers_dev _ _ | exact answers_exitState _ _ _ _

theorem answers_comparatorActs (k : Nat) (inLast8 : Bool) (env : RomEnv) (s : State) : Answers (comparatorActs k inLast8 env s) s := by
  unfold comparatorActs
  dsimp only
  repeat' split
  all_goals first | exact answers_same s | exact answers_dev _ _ | exact answers_wakeBy _ _ _ _ _

/-! ### Engine commands -/

theorem answers_runHead (op core img : Nat) {body : EngCtx → EngCmd → List Host.Cell → Dev → Ran} (h : KeepsWf body) (s : State) :
    Answers (onServingMem (runHead op core img body) s) s :=
  answers_onServingMem (fun _ d hw => runHead_wf op core img h d hw)

theorem answers_execGemm (core img : Nat) (s : State) : Answers (execGemm core img s) s := answers_runHead _ _ _ (fun _ _ _ _ h => gemm_wf _ _ h) s

theorem answers_execGemmGated (core img : Nat) (s : State) : Answers (execGemmGated core img s) s := answers_runHead _ _ _ (fun _ _ _ _ h => gemmGated_wf _ _ h) s

theorem answers_execGemmGather (core img : Nat) (s : State) : Answers (execGemmGather core img s) s := answers_runHead _ _ _ (fun _ _ _ _ h => gemmGather_wf _ _ h) s

theorem answers_execNorm (core img : Nat) (s : State) : Answers (execNorm core img s) s := answers_runHead _ _ _ (fun _ _ _ _ h => norm_wf _ _ h) s

theorem answers_execRope (core img : Nat) (s : State) : Answers (execRope core img s) s := answers_runHead _ _ _ (fun _ _ _ _ h => rope_wf _ _ h) s

theorem answers_execElemwise (core img : Nat) (s : State) : Answers (execElemwise core img s) s := answers_runHead _ _ _ (fun _ _ _ _ h => elemwise_wf _ _ h) s

theorem answers_execRecur (core img : Nat) (s : State) : Answers (execRecur core img s) s := answers_runHead _ _ _ (fun _ _ _ _ h => recur_wf _ _ _ h) s

theorem answers_execAdapt (core img : Nat) (s : State) : Answers (execAdapt core img s) s := answers_runHead _ _ _ (fun _ _ _ _ h => adapt_wf _ _ h) s

theorem answers_execAttnFwd (core img : Nat) (f : List StackFault) (s : State) : Answers (execAttnFwd core img f s) s := answers_runHead _ _ _ (fun _ _ _ _ h => attnFwdBody_wf _ _ _ _ h) s

theorem answers_execAttnBwd (core img : Nat) (f : List StackFault) (s : State) : Answers (execAttnBwd core img f s) s := answers_runHead _ _ _ (fun _ _ _ _ h => attnBwdBody_wf _ _ _ _ h) s

theorem answers_execKvAppend (core img : Nat) (c : List Nat) (s : State) : Answers (execKvAppend core img c s) s := answers_runHead _ _ _ (fun _ _ _ _ h => kvAppendBody_wf _ _ _ _ h) s

theorem answers_execCoreStepStart (core step rows t : Nat) (s : State) : Answers (execCoreStepStart core step rows t s) s := by
  unfold execCoreStepStart
  exact answers_onServingMem (fun _ _ h => coreStart_wf _ _ _ _ h)

theorem answers_execSessionWorkComplete (sid : Nat) (r : WorkResult) (s : State) : Answers (execSessionWorkComplete sid r s) s := by
  unfold execSessionWorkComplete
  exact answers_onServingMem (fun _ _ h => finishWork_wf _ _ _ h)

theorem answers_execPageMigrationSwitch (sid stream ordinal : Nat) (verified : Bool) (s : State) : Answers (execPageMigrationSwitch sid stream ordinal verified s) s := by
  unfold execPageMigrationSwitch
  exact answers_onServingMem (fun _ _ h => moveBytes_wf _ _ _ h)

theorem answers_execGrantDestroy (extent host t : Nat) (s : State) : Answers (execGrantDestroy extent host t s) s := by
  unfold execGrantDestroy
  exact answers_onServingMem (fun _ _ h => destroyGrant_wf _ _ _ h)

theorem answers_execPublishWindowEnd (extent t : Nat) (s : State) : Answers (execPublishWindowEnd extent t s) s := by
  unfold execPublishWindowEnd
  exact answers_onServingMem (fun _ _ h => publishEnd_wf _ _ h)

theorem answers_execQueryRoundDone (query : Nat) (failed : List Nat) (s : State) : Answers (execQueryRoundDone query failed s) s := by
  unfold execQueryRoundDone
  exact answers_onServingMem (fun _ _ h => roundDone_wf _ _ _ h)

theorem answers_execPoolRead (r : PoolReq) (t : Nat) (s : State) : Answers (execPoolRead r t s) s := by
  unfold execPoolRead
  exact answers_onServingMem (fun _ _ h => poolRequest_wf _ _ _ h)

theorem answers_execPoolWrite (r : PoolReq) (t : Nat) (s : State) : Answers (execPoolWrite r t s) s := by
  unfold execPoolWrite
  exact answers_onServingMem (fun _ _ h => poolRequest_wf _ _ _ h)

theorem answers_execPoolFill (r : PoolReq) (t : Nat) (s : State) : Answers (execPoolFill r t s) s := by
  unfold execPoolFill
  exact answers_onServingMem (fun _ _ h => poolRequest_wf _ _ _ h)

theorem answers_execPoolCopy (r : PoolReq) (t : Nat) (s : State) : Answers (execPoolCopy r t s) s := by
  unfold execPoolCopy
  exact answers_onServingMem (fun _ _ h => poolRequest_wf _ _ _ h)

theorem answers_execPoolCompare (r : PoolReq) (t : Nat) (s : State) : Answers (execPoolCompare r t s) s := by
  unfold execPoolCompare
  exact answers_onServingMem (fun _ _ h => poolRequest_wf _ _ _ h)

theorem answers_execPoolReduce (r : PoolReq) (t : Nat) (s : State) : Answers (execPoolReduce r t s) s := by
  unfold execPoolReduce
  exact answers_onServingMem (fun _ _ h => poolRequest_wf _ _ _ h)

theorem answers_execPoolPublish (r : PoolReq) (t : Nat) (s : State) : Answers (execPoolPublish r t s) s := by
  unfold execPoolPublish
  exact answers_onServingMem (fun _ _ h => poolRequest_wf _ _ _ h)

theorem answers_execPoolHandover (r : PoolReq) (t : Nat) (s : State) : Answers (execPoolHandover r t s) s := by
  unfold execPoolHandover
  exact answers_onServingMem (fun _ _ h => poolRequest_wf _ _ _ h)

theorem answers_execPoolRelease (r : PoolReq) (t : Nat) (s : State) : Answers (execPoolRelease r t s) s := by
  unfold execPoolRelease
  exact answers_onServingMem (fun _ _ h => poolRequest_wf _ _ _ h)

theorem answers_execStepBoundary (sector batch t : Nat) (s : State) : Answers (execStepBoundary sector batch t s) s := by
  unfold execStepBoundary
  refine answers_onServingMem (fun mem d h => ?_)
  dsimp only
  split
  · split
    · exact boundary_wf _ _ _ _ _ h
    · exact h
  · exact h

theorem answers_execRestoreCommit (sectors : Nat) (cold : Bool) (group : Nat) (cand : RestoreCand) (status : Nat) (s : State) : Answers (execRestoreCommit sectors cold group cand status s) s := by
  unfold execRestoreCommit
  refine answers_onServingMem (fun mem d h => ?_)
  dsimp only
  split
  · split
    · rename_i mask cd c _ _ _
      split
      · exact h
      · exact restoreAll_wf mask cd (some c.seq) _ _ h
    · exact h
  · split
    · exact restoreAll_wf _ _ none _ _ h
    · exact h

theorem answers_execMapDrainDone (s : State) : Answers (execMapDrainDone  s) s := by
  unfold execMapDrainDone
  refine answers_onServingMem (fun mem d h => ?_)
  split
  · split
    · dsimp only
      exact zeroTails_wf _ _ h
    · exact h
  · exact h

theorem answers_execCommandComplete (core img index t : Nat) (s : State) : Answers (execCommandComplete core img index t s) s := by
  unfold execCommandComplete
  refine answers_onServingMem (fun mem d h => ?_)
  dsimp only
  split
  · exact h
  · split
    · exact h
    · split
      · exact h
      · exact h

theorem answers_execStepWatchdogExpiry (core t : Nat) (s : State) : Answers (execStepWatchdogExpiry core t s) s := by
  unfold execStepWatchdogExpiry
  refine answers_onServingMem (fun mem d h => ?_)
  dsimp only
  split
  · exact h
  · exact h

theorem answers_execRefineIssue (core img : Nat) (s : State) : Answers (execRefineIssue core img s) s := by
  unfold execRefineIssue
  refine answers_onServingMem (fun mem d h => ?_)
  dsimp only
  split
  · split
    · exact runHead_wf _ _ _ (refineBody_wf _) _ (writeTable_wf _ _ _ _ h)
    · exact h
  · exact h

theorem answers_execImageActivateTimer (sector t : Nat) (s : State) : Answers (execImageActivateTimer sector t s) s := by
  unfold execImageActivateTimer
  refine answers_onServingMem (fun mem d h => ?_)
  dsimp only
  split
  · split
    · exact activate_wf _ _ h
    · exact h
  · exact h

theorem answers_execPoolQueueRelease (r : PoolReq) (t : Nat) (s : State) : Answers (execPoolQueueRelease r t s) s := by
  unfold execPoolQueueRelease
  refine answers_onServingMem (fun mem d h => ?_)
  dsimp only
  split
  · exact h
  · split
    · exact poolServe_wf _ _ h
    · exact h

theorem answers_execPoolResponse (p : PoolResp) (s : State) : Answers (execPoolResponse p s) s := by
  unfold execPoolResponse
  refine answers_onServingMem (fun mem d h => ?_)
  dsimp only
  split
  · exact h
  · split
    · exact h
    · split
      · exact codedAck_wf _ _ _ h
      · exact codedFail_wf _ _ _ h

theorem answers_execCodeMemberTimeout (sid member t : Nat) (s : State) : Answers (execCodeMemberTimeout sid member t s) s := by
  unfold execCodeMemberTimeout
  refine answers_onServingMem (fun mem d h => ?_)
  dsimp only
  split
  · split
    · exact codedFail_wf _ _ _ h
    · exact h
  · exact h

theorem answers_execSelJobDone (core img : Nat) (ties : List (List Nat)) (t : Nat) (s : State) : Answers (execSelJobDone core img ties t s) s := by
  unfold execSelJobDone
  refine answers_onServingMem (fun mem d h => ?_)
  extract_lets
  split
  · exact h
  · extract_lets j rows r
    have hr : Memory.wf r.1 = true := selRows_wf _ _ _ _ _ _ h
    split
    · exact h
    · split
      · exact h
      · split
        · exact hr
        · exact hr

theorem writeRoutes_wf (sector : Nat) (i : Image) (m : MoeEntry) (lists : List (List (Nat × Nat))) {mem : List Host.Cell} (d : Dev)
    (h : Memory.wf mem = true) : Memory.wf (d.writeRoutes sector i m lists mem) = true := by
  refine foldl_keeps (fun m => Memory.wf m = true) (fun m p h => ?_) _ h
  split
  · exact writes_wf _ _ h
  · exact h

theorem answers_execRouteBuildDone (sector entry t : Nat) (s : State) : Answers (execRouteBuildDone sector entry t s) s := by
  unfold execRouteBuildDone
  refine answers_onServingMem (fun mem d h => ?_)
  extract_lets
  split
  · exact h
  · split
    · exact h
    · split
      · exact h
      · split
        · exact h
        · exact writeLists_wf _ _ _ _ (writeRoutes_wf _ _ _ _ _ h)

theorem answers_execPartLossRebuild (sid : Nat) (site : LossSite) (s : State) : Answers (execPartLossRebuild sid site s) s := by
  unfold execPartLossRebuild
  refine answers_onServingMem (fun mem d h => ?_)
  split
  · exact partLoss_wf _ _ _ h
  · exact h

theorem answers_execImageLoad (hdr : EntryHdr) (sector kind source length : Nat) (host : List Byte) (sig : SigVerdict) (s : State) :
    Answers (execImageLoad hdr sector kind source length host sig s) s := by
  unfold execImageLoad
  refine answers_onServingMem (fun mem d h => ?_)
  unfold Dev.ownerAdminMem
  split
  · split
    · exact imageLoad_wf _ _ _ _ _ h
    · exact h
  · exact h

theorem answers_execHeadStepStart (sector batch t : Nat) (s : State) : Answers (execHeadStepStart sector batch t s) s := by
  unfold execHeadStepStart
  refine answers_onServingMem (fun mem d h => ?_)
  dsimp only
  split
  · exact h
  · exact foldl_keeps (fun m => Memory.wf m = true) (fun _ _ h => rowBytesMoved_wf _ _ _ _ h) _ h

theorem answers_execRow (f : RowFlit) (sector batch buoy : Nat) (s : State) : Answers (execRow f sector batch buoy s) s := by
  unfold execRow
  refine answers_onServingMem (fun mem d h => ?_)
  dsimp only
  split
  · exact h
  · split
    · exact h
    · exact rowBytesMoved_wf _ _ _ _ h

theorem answers_execVocabLoad (hdr : EntryHdr) (id sectors kind source length : Nat) (host : List Byte) (sig : SigVerdict) (t : Nat) (s : State) :
    Answers (execVocabLoad hdr id sectors kind source length host sig t s) s := answers_onServingMem (fun _ _ h => h)

theorem answers_execGrammarLoad (hdr : EntryHdr) (id sectors kind source length : Nat) (host : List Byte) (sig : SigVerdict) (t : Nat) (s : State) :
    Answers (execGrammarLoad hdr id sectors kind source length host sig t s) s := answers_onServingMem (fun _ _ h => h)

theorem answers_execData (sector batch segment : Nat) (last : Bool) (addr : Nat) (bytes : List Byte) (s : State) : Answers (execData sector batch segment last addr bytes s) s := by
  unfold execData
  refine answers_onServingMem (fun mem d h => ?_)
  extract_lets key mem' waiting
  have hm : Memory.wf mem' = true := writes_wf _ _ h
  clear_value waiting
  cases last with
  | false => exact hm
  | true =>
    cases waiting with
    | none => exact hm
    | some st =>
      dsimp only
      split
      · split
        · exact inArrives_wf _ _ _ _ _ hm
        · exact hm
      · exact hm

theorem answers_execMaskReady (sector row t : Nat) (s : State) : Answers (execMaskReady sector row t s) s := by
  unfold execMaskReady
  refine answers_onServingMem (fun mem d h => ?_)
  extract_lets d'
  split
  · exact h
  · split
    · exact h
    · split
      · split
        · exact h
        · extract_lets addr bits m1 tab m2
          have h1 : Memory.wf m1 = true := writes_wf _ _ (zero_wf _ _ h)
          show Memory.wf m2 = true
          simp only [m2]
          split
          · exact writes_wf _ _ h1
          · exact h1
      · exact h

theorem answers_execIndexCreate (hdr : EntryHdr) (index sourceKind source length : Nat) (content : List (Nat × List Byte)) (s : State) : Answers (execIndexCreate hdr index sourceKind source length content s) s := by
  unfold execIndexCreate
  refine answers_onServingMem (fun mem d h => ?_)
  split
  · exact indexCreate_wf _ _ _ _ _ _ _ h
  · exact h

theorem answers_execIndexDrop (hdr : EntryHdr) (index : Nat) (s : State) : Answers (execIndexDrop hdr index s) s := by
  unfold execIndexDrop
  refine answers_onServingMem (fun mem d h => ?_)
  split
  · exact indexDrop_wf _ _ _ h
  · exact h

theorem listTable_wf (core : Nat) {mem : List Host.Cell} (d : Dev) (h : Memory.wf mem = true) : Memory.wf (d.listTable core mem).1 = true := by
  unfold Dev.listTable
  split
  · exact runHead_wf _ _ _ (fun _ _ _ _ h => distTable_wf _ _ h) _ h
  · exact h

theorem answers_execDistTable (core t : Nat) (s : State) : Answers (execDistTable core t s) s := by
  unfold execDistTable
  refine answers_onServingMem (fun mem d h => ?_)
  dsimp only
  split
  · exact listTable_wf _ _ h
  · split
    · exact h
    · exact listTable_wf _ _ h

theorem answers_execInsertWritePhase (index : Nat) (unreadable : Bool) (s : State) : Answers (execInsertWritePhase index unreadable s) s := by
  unfold execInsertWritePhase
  refine answers_onServingMem (fun mem d h => ?_)
  split
  · exact h
  · split
    · exact writeInsert_wf _ _ _ _ _ _ _ _ _ _ h
    · exact writeDelete_wf _ _ _ _ _ _ h
    · exact h

theorem answers_execRepairSweep (index : Nat) (unreadable : Bool) (s : State) : Answers (execRepairSweep index unreadable s) s := by
  unfold execRepairSweep
  refine answers_onServingMem (fun mem d h => ?_)
  split
  · split
    · exact sweep_wf _ _ _ _ h
    · exact h
  · exact h

theorem answers_execNodeSlotFree (index node : Nat) (s : State) : Answers (execNodeSlotFree index node s) s := by
  unfold execNodeSlotFree
  refine answers_onServingMem (fun mem d h => ?_)
  split
  · exact h
  · split
    · exact h
    · split
      · extract_lets r heir wasEntry es x' m1
        have h1 : Memory.wf m1 = true := countBlock_wf _ _ (writeRec_wf _ _ _ h)
        show Memory.wf (if wasEntry then x'.writeHeader m1 else m1) = true
        split
        · exact writeHeader_wf _ h1
        · exact h1
      · exact h

/-! ### Register writes, resets and power states -/

theorem answers_execRegisterWrite (a : RegAccess) (value late : Nat) (s : State) : Answers (execRegisterWrite a value late s) s := by
  unfold execRegisterWrite
  repeat' split
  all_goals first | exact answers_same s | exact answers_dev _ _ | exact answers_regWrite _ _ _ _ _ _

theorem answers_execRegwrite (off width value late : Nat) (s : State) : Answers (execRegwrite off width value late s) s := by
  unfold execRegwrite
  repeat' split
  all_goals first | exact answers_same s | exact answers_dev _ _ | exact answers_of_dev _ (answers_regWrite _ _ _ _ _ _)

theorem answers_execResetN (lowNs : Nat) (env : RomEnv) (s : State) : Answers (execResetN lowNs env s) s := by
  unfold execResetN
  split
  · exact answers_startOver _ _ _ _
  · exact answers_same s

theorem answers_execPwrCtrlReset (m : Master) (env : RomEnv) (s : State) : Answers (execPwrCtrlReset m env s) s := by
  unfold execPwrCtrlReset
  repeat' split
  all_goals first | exact answers_same s | exact answers_dev _ _ | exact answers_startOver _ _ _ _

theorem answers_execRecoveryLoad (m : Master) (image : LightList) (env : RomEnv) (s : State) : Answers (execRecoveryLoad m image env s) s := by
  unfold execRecoveryLoad
  dsimp only
  repeat' split
  all_goals first | exact answers_same s | exact answers_dev _ _ | exact answers_startOver _ _ _ _

theorem answers_execPowerEntryComplete (env : RomEnv) (t : Nat) (s : State) : Answers (execPowerEntryComplete env t s) s := by
  unfold execPowerEntryComplete
  dsimp only
  repeat' split
  all_goals first | exact answers_same s | exact answers_dev _ _ | exact answers_of_dev _ (answers_exitState _ _ _ _)

theorem answers_execComparatorMatch (k : Nat) (inLast8 : Bool) (env : RomEnv) (t : Nat) (s : State) : Answers (execComparatorMatch k inLast8 env t s) s :=
  answers_of_dev _ (answers_comparatorActs _ _ _ _)

theorem answers_execWakeEvent (src : WakeSource) (inLast8 : Bool) (env : RomEnv) (t : Nat) (s : State) : Answers (execWakeEvent src inLast8 env t s) s := by
  unfold execWakeEvent
  dsimp only
  split
  all_goals first | exact answers_of_dev _ (answers_wakeBy _ _ _ _ _) | exact answers_of_dev _ (answers_comparatorActs _ _ _ _)

theorem answers_execVcorePgRise (env : MediaEnv) (t : Nat) (s : State) : Answers (execVcorePgRise env t s) s := by
  unfold execVcorePgRise
  dsimp only
  repeat' split
  all_goals first | exact answers_same s | exact answers_dev _ _ | exact answers_startOver _ _ _ _

end Sys2Proof.Machine
end

