-- ==== Sys2Proof/Laws/State.lean ====
section
/-! SUPPORT. Laws/State.lean: each named update of the device changes its own field alone, field by field. -/
namespace Sys2Proof.Machine
variable (d : Dev)

@[simp] theorem Dev.put_now (f : Fld) (v : Nat) : (Dev.put f v d).now = d.now := rfl
@[simp] theorem Dev.put_daymark (f : Fld) (v : Nat) : (Dev.put f v d).daymark = d.daymark := rfl
@[simp] theorem Dev.put_freeCtr (f : Fld) (v : Nat) : (Dev.put f v d).freeCtr = d.freeCtr := rfl
@[simp] theorem Dev.put_out (f : Fld) (v : Nat) : (Dev.put f v d).out = d.out := rfl
@[simp] theorem Dev.put_committed (f : Fld) (v : Nat) : (Dev.put f v d).committed = d.committed := rfl
@[simp] theorem Dev.put_pends (f : Fld) (v : Nat) : (Dev.put f v d).pends = d.pends := rfl
@[simp] theorem Dev.put_bar2 (f : Fld) (v : Nat) : (Dev.put f v d).bar2 = d.bar2 := rfl
@[simp] theorem Dev.put_idxLatch (f : Fld) (v : Nat) : (Dev.put f v d).idxLatch = d.idxLatch := rfl
@[simp] theorem Dev.put_own (f : Fld) (v : Nat) : (Dev.put f v d).own = d.own := rfl
@[simp] theorem Dev.put_que (f : Fld) (v : Nat) : (Dev.put f v d).que = d.que := rfl
@[simp] theorem Dev.put_peers (f : Fld) (v : Nat) : (Dev.put f v d).peers = d.peers := rfl
@[simp] theorem Dev.put_peersNext (f : Fld) (v : Nat) : (Dev.put f v d).peersNext = d.peersNext := rfl
@[simp] theorem Dev.put_qps (f : Fld) (v : Nat) : (Dev.put f v d).qps = d.qps := rfl
@[simp] theorem Dev.put_mctp (f : Fld) (v : Nat) : (Dev.put f v d).mctp = d.mctp := rfl
@[simp] theorem Dev.put_ports (f : Fld) (v : Nat) : (Dev.put f v d).ports = d.ports := rfl
@[simp] theorem Dev.put_ringWait (f : Fld) (v : Nat) : (Dev.put f v d).ringWait = d.ringWait := rfl
@[simp] theorem Dev.put_locQuery (f : Fld) (v : Nat) : (Dev.put f v d).locQuery = d.locQuery := rfl
@[simp] theorem Dev.put_downSince (f : Fld) (v : Nat) : (Dev.put f v d).downSince = d.downSince := rfl
@[simp] theorem Dev.put_ptpGood (f : Fld) (v : Nat) : (Dev.put f v d).ptpGood = d.ptpGood := rfl
@[simp] theorem Dev.put_ptpAt (f : Fld) (v : Nat) : (Dev.put f v d).ptpAt = d.ptpAt := rfl
@[simp] theorem Dev.put_fog (f : Fld) (v : Nat) : (Dev.put f v d).fog = d.fog := rfl
@[simp] theorem Dev.put_gap (f : Fld) (v : Nat) : (Dev.put f v d).gap = d.gap := rfl
@[simp] theorem Dev.put_lantern (f : Fld) (v : Nat) : (Dev.put f v d).lantern = d.lantern := rfl
@[simp] theorem Dev.put_keepers (f : Fld) (v : Nat) : (Dev.put f v d).keepers = d.keepers := rfl
@[simp] theorem Dev.put_tap (f : Fld) (v : Nat) : (Dev.put f v d).tap = d.tap := rfl
@[simp] theorem Dev.put_sec (f : Fld) (v : Nat) : (Dev.put f v d).sec = d.sec := rfl
@[simp] theorem Dev.put_ses (f : Fld) (v : Nat) : (Dev.put f v d).ses = d.ses := rfl
@[simp] theorem Dev.put_loc (f : Fld) (v : Nat) : (Dev.put f v d).loc = d.loc := rfl
@[simp] theorem Dev.put_srv (f : Fld) (v : Nat) : (Dev.put f v d).srv = d.srv := rfl
@[simp] theorem Dev.put_comp (f : Fld) (v : Nat) : (Dev.put f v d).comp = d.comp := rfl
@[simp] theorem Dev.put_pool (f : Fld) (v : Nat) : (Dev.put f v d).pool = d.pool := rfl
@[simp] theorem Dev.put_media (f : Fld) (v : Nat) : (Dev.put f v d).media = d.media := rfl
@[simp] theorem Dev.put_boot (f : Fld) (v : Nat) : (Dev.put f v d).boot = d.boot := rfl
@[simp] theorem Dev.put_eng (f : Fld) (v : Nat) : (Dev.put f v d).eng = d.eng := rfl
@[simp] theorem Dev.put_sel (f : Fld) (v : Nat) : (Dev.put f v d).sel = d.sel := rfl
@[simp] theorem Dev.put_tok (f : Fld) (v : Nat) : (Dev.put f v d).tok = d.tok := rfl
@[simp] theorem Dev.put_grm (f : Fld) (v : Nat) : (Dev.put f v d).grm = d.grm := rfl
@[simp] theorem Dev.put_idx (f : Fld) (v : Nat) : (Dev.put f v d).idx = d.idx := rfl
@[simp] theorem Dev.put_ckpt (f : Fld) (v : Nat) : (Dev.put f v d).ckpt = d.ckpt := rfl
@[simp] theorem Dev.put_lens (f : Fld) (v : Nat) : (Dev.put f v d).lens = d.lens := rfl

@[simp] theorem Dev.flag_now (f : Fld) : (Dev.flag f d).now = d.now := rfl
@[simp] theorem Dev.flag_daymark (f : Fld) : (Dev.flag f d).daymark = d.daymark := rfl
@[simp] theorem Dev.flag_freeCtr (f : Fld) : (Dev.flag f d).freeCtr = d.freeCtr := rfl
@[simp] theorem Dev.flag_out (f : Fld) : (Dev.flag f d).out = d.out := rfl
@[simp] theorem Dev.flag_committed (f : Fld) : (Dev.flag f d).committed = d.committed := rfl
@[simp] theorem Dev.flag_pends (f : Fld) : (Dev.flag f d).pends = d.pends := rfl
@[simp] theorem Dev.flag_bar2 (f : Fld) : (Dev.flag f d).bar2 = d.bar2 := rfl
@[simp] theorem Dev.flag_idxLatch (f : Fld) : (Dev.flag f d).idxLatch = d.idxLatch := rfl
@[simp] theorem Dev.flag_own (f : Fld) : (Dev.flag f d).own = d.own := rfl
@[simp] theorem Dev.flag_que (f : Fld) : (Dev.flag f d).que = d.que := rfl
@[simp] theorem Dev.flag_peers (f : Fld) : (Dev.flag f d).peers = d.peers := rfl
@[simp] theorem Dev.flag_peersNext (f : Fld) : (Dev.flag f d).peersNext = d.peersNext := rfl
@[simp] theorem Dev.flag_qps (f : Fld) : (Dev.flag f d).qps = d.qps := rfl
@[simp] theorem Dev.flag_mctp (f : Fld) : (Dev.flag f d).mctp = d.mctp := rfl
@[simp] theorem Dev.flag_ports (f : Fld) : (Dev.flag f d).ports = d.ports := rfl
@[simp] theorem Dev.flag_ringWait (f : Fld) : (Dev.flag f d).ringWait = d.ringWait := rfl
@[simp] theorem Dev.flag_locQuery (f : Fld) : (Dev.flag f d).locQuery = d.locQuery := rfl
@[simp] theorem Dev.flag_downSince (f : Fld) : (Dev.flag f d).downSince = d.downSince := rfl
@[simp] theorem Dev.flag_ptpGood (f : Fld) : (Dev.flag f d).ptpGood = d.ptpGood := rfl
@[simp] theorem Dev.flag_ptpAt (f : Fld) : (Dev.flag f d).ptpAt = d.ptpAt := rfl
@[simp] theorem Dev.flag_fog (f : Fld) : (Dev.flag f d).fog = d.fog := rfl
@[simp] theorem Dev.flag_gap (f : Fld) : (Dev.flag f d).gap = d.gap := rfl
@[simp] theorem Dev.flag_lantern (f : Fld) : (Dev.flag f d).lantern = d.lantern := rfl
@[simp] theorem Dev.flag_keepers (f : Fld) : (Dev.flag f d).keepers = d.keepers := rfl
@[simp] theorem Dev.flag_tap (f : Fld) : (Dev.flag f d).tap = d.tap := rfl
@[simp] theorem Dev.flag_sec (f : Fld) : (Dev.flag f d).sec = d.sec := rfl
@[simp] theorem Dev.flag_ses (f : Fld) : (Dev.flag f d).ses = d.ses := rfl
@[simp] theorem Dev.flag_loc (f : Fld) : (Dev.flag f d).loc = d.loc := rfl
@[simp] theorem Dev.flag_srv (f : Fld) : (Dev.flag f d).srv = d.srv := rfl
@[simp] theorem Dev.flag_comp (f : Fld) : (Dev.flag f d).comp = d.comp := rfl
@[simp] theorem Dev.flag_pool (f : Fld) : (Dev.flag f d).pool = d.pool := rfl
@[simp] theorem Dev.flag_media (f : Fld) : (Dev.flag f d).media = d.media := rfl
@[simp] theorem Dev.flag_boot (f : Fld) : (Dev.flag f d).boot = d.boot := rfl
@[simp] theorem Dev.flag_eng (f : Fld) : (Dev.flag f d).eng = d.eng := rfl
@[simp] theorem Dev.flag_sel (f : Fld) : (Dev.flag f d).sel = d.sel := rfl
@[simp] theorem Dev.flag_tok (f : Fld) : (Dev.flag f d).tok = d.tok := rfl
@[simp] theorem Dev.flag_grm (f : Fld) : (Dev.flag f d).grm = d.grm := rfl
@[simp] theorem Dev.flag_idx (f : Fld) : (Dev.flag f d).idx = d.idx := rfl
@[simp] theorem Dev.flag_ckpt (f : Fld) : (Dev.flag f d).ckpt = d.ckpt := rfl
@[simp] theorem Dev.flag_lens (f : Fld) : (Dev.flag f d).lens = d.lens := rfl

@[simp] theorem Dev.bump_now (f : Fld) (n : Nat) : (Dev.bump f n d).now = d.now := rfl
@[simp] theorem Dev.bump_daymark (f : Fld) (n : Nat) : (Dev.bump f n d).daymark = d.daymark := rfl
@[simp] theorem Dev.bump_freeCtr (f : Fld) (n : Nat) : (Dev.bump f n d).freeCtr = d.freeCtr := rfl
@[simp] theorem Dev.bump_out (f : Fld) (n : Nat) : (Dev.bump f n d).out = d.out := rfl
@[simp] theorem Dev.bump_committed (f : Fld) (n : Nat) : (Dev.bump f n d).committed = d.committed := rfl
@[simp] theorem Dev.bump_pends (f : Fld) (n : Nat) : (Dev.bump f n d).pends = d.pends := rfl
@[simp] theorem Dev.bump_bar2 (f : Fld) (n : Nat) : (Dev.bump f n d).bar2 = d.bar2 := rfl
@[simp] theorem Dev.bump_idxLatch (f : Fld) (n : Nat) : (Dev.bump f n d).idxLatch = d.idxLatch := rfl
@[simp] theorem Dev.bump_own (f : Fld) (n : Nat) : (Dev.bump f n d).own = d.own := rfl
@[simp] theorem Dev.bump_que (f : Fld) (n : Nat) : (Dev.bump f n d).que = d.que := rfl
@[simp] theorem Dev.bump_peers (f : Fld) (n : Nat) : (Dev.bump f n d).peers = d.peers := rfl
@[simp] theorem Dev.bump_peersNext (f : Fld) (n : Nat) : (Dev.bump f n d).peersNext = d.peersNext := rfl
@[simp] theorem Dev.bump_qps (f : Fld) (n : Nat) : (Dev.bump f n d).qps = d.qps := rfl
@[simp] theorem Dev.bump_mctp (f : Fld) (n : Nat) : (Dev.bump f n d).mctp = d.mctp := rfl
@[simp] theorem Dev.bump_ports (f : Fld) (n : Nat) : (Dev.bump f n d).ports = d.ports := rfl
@[simp] theorem Dev.bump_ringWait (f : Fld) (n : Nat) : (Dev.bump f n d).ringWait = d.ringWait := rfl
@[simp] theorem Dev.bump_locQuery (f : Fld) (n : Nat) : (Dev.bump f n d).locQuery = d.locQuery := rfl
@[simp] theorem Dev.bump_downSince (f : Fld) (n : Nat) : (Dev.bump f n d).downSince = d.downSince := rfl
@[simp] theorem Dev.bump_ptpGood (f : Fld) (n : Nat) : (Dev.bump f n d).ptpGood = d.ptpGood := rfl
@[simp] theorem Dev.bump_ptpAt (f : Fld) (n : Nat) : (Dev.bump f n d).ptpAt = d.ptpAt := rfl
@[simp] theorem Dev.bump_fog (f : Fld) (n : Nat) : (Dev.bump f n d).fog = d.fog := rfl
@[simp] theorem Dev.bump_gap (f : Fld) (n : Nat) : (Dev.bump f n d).gap = d.gap := rfl
@[simp] theorem Dev.bump_lantern (f : Fld) (n : Nat) : (Dev.bump f n d).lantern = d.lantern := rfl
@[simp] theorem Dev.bump_keepers (f : Fld) (n : Nat) : (Dev.bump f n d).keepers = d.keepers := rfl
@[simp] theorem Dev.bump_tap (f : Fld) (n : Nat) : (Dev.bump f n d).tap = d.tap := rfl
@[simp] theorem Dev.bump_sec (f : Fld) (n : Nat) : (Dev.bump f n d).sec = d.sec := rfl
@[simp] theorem Dev.bump_ses (f : Fld) (n : Nat) : (Dev.bump f n d).ses = d.ses := rfl
@[simp] theorem Dev.bump_loc (f : Fld) (n : Nat) : (Dev.bump f n d).loc = d.loc := rfl
@[simp] theorem Dev.bump_srv (f : Fld) (n : Nat) : (Dev.bump f n d).srv = d.srv := rfl
@[simp] theorem Dev.bump_comp (f : Fld) (n : Nat) : (Dev.bump f n d).comp = d.comp := rfl
@[simp] theorem Dev.bump_pool (f : Fld) (n : Nat) : (Dev.bump f n d).pool = d.pool := rfl
@[simp] theorem Dev.bump_media (f : Fld) (n : Nat) : (Dev.bump f n d).media = d.media := rfl
@[simp] theorem Dev.bump_boot (f : Fld) (n : Nat) : (Dev.bump f n d).boot = d.boot := rfl
@[simp] theorem Dev.bump_eng (f : Fld) (n : Nat) : (Dev.bump f n d).eng = d.eng := rfl
@[simp] theorem Dev.bump_sel (f : Fld) (n : Nat) : (Dev.bump f n d).sel = d.sel := rfl
@[simp] theorem Dev.bump_tok (f : Fld) (n : Nat) : (Dev.bump f n d).tok = d.tok := rfl
@[simp] theorem Dev.bump_grm (f : Fld) (n : Nat) : (Dev.bump f n d).grm = d.grm := rfl
@[simp] theorem Dev.bump_idx (f : Fld) (n : Nat) : (Dev.bump f n d).idx = d.idx := rfl
@[simp] theorem Dev.bump_ckpt (f : Fld) (n : Nat) : (Dev.bump f n d).ckpt = d.ckpt := rfl
@[simp] theorem Dev.bump_lens (f : Fld) (n : Nat) : (Dev.bump f n d).lens = d.lens := rfl

@[simp] theorem Dev.setCom_now (k v : Nat) : (Dev.setCom k v d).now = d.now := rfl
@[simp] theorem Dev.setCom_daymark (k v : Nat) : (Dev.setCom k v d).daymark = d.daymark := rfl
@[simp] theorem Dev.setCom_freeCtr (k v : Nat) : (Dev.setCom k v d).freeCtr = d.freeCtr := rfl
@[simp] theorem Dev.setCom_out (k v : Nat) : (Dev.setCom k v d).out = d.out := rfl
@[simp] theorem Dev.setCom_regs (k v : Nat) : (Dev.setCom k v d).regs = d.regs := rfl
@[simp] theorem Dev.setCom_pends (k v : Nat) : (Dev.setCom k v d).pends = d.pends := rfl
@[simp] theorem Dev.setCom_bar2 (k v : Nat) : (Dev.setCom k v d).bar2 = d.bar2 := rfl
@[simp] theorem Dev.setCom_idxLatch (k v : Nat) : (Dev.setCom k v d).idxLatch = d.idxLatch := rfl
@[simp] theorem Dev.setCom_own (k v : Nat) : (Dev.setCom k v d).own = d.own := rfl
@[simp] theorem Dev.setCom_que (k v : Nat) : (Dev.setCom k v d).que = d.que := rfl
@[simp] theorem Dev.setCom_peers (k v : Nat) : (Dev.setCom k v d).peers = d.peers := rfl
@[simp] theorem Dev.setCom_peersNext (k v : Nat) : (Dev.setCom k v d).peersNext = d.peersNext := rfl
@[simp] theorem Dev.setCom_qps (k v : Nat) : (Dev.setCom k v d).qps = d.qps := rfl
@[simp] theorem Dev.setCom_mctp (k v : Nat) : (Dev.setCom k v d).mctp = d.mctp := rfl
@[simp] theorem Dev.setCom_ports (k v : Nat) : (Dev.setCom k v d).ports = d.ports := rfl
@[simp] theorem Dev.setCom_ringWait (k v : Nat) : (Dev.setCom k v d).ringWait = d.ringWait := rfl
@[simp] theorem Dev.setCom_locQuery (k v : Nat) : (Dev.setCom k v d).locQuery = d.locQuery := rfl
@[simp] theorem Dev.setCom_downSince (k v : Nat) : (Dev.setCom k v d).downSince = d.downSince := rfl
@[simp] theorem Dev.setCom_ptpGood (k v : Nat) : (Dev.setCom k v d).ptpGood = d.ptpGood := rfl
@[simp] theorem Dev.setCom_ptpAt (k v : Nat) : (Dev.setCom k v d).ptpAt = d.ptpAt := rfl
@[simp] theorem Dev.setCom_fog (k v : Nat) : (Dev.setCom k v d).fog = d.fog := rfl
@[simp] theorem Dev.setCom_gap (k v : Nat) : (Dev.setCom k v d).gap = d.gap := rfl
@[simp] theorem Dev.setCom_lantern (k v : Nat) : (Dev.setCom k v d).lantern = d.lantern := rfl
@[simp] theorem Dev.setCom_keepers (k v : Nat) : (Dev.setCom k v d).keepers = d.keepers := rfl
@[simp] theorem Dev.setCom_tap (k v : Nat) : (Dev.setCom k v d).tap = d.tap := rfl
@[simp] theorem Dev.setCom_sec (k v : Nat) : (Dev.setCom k v d).sec = d.sec := rfl
@[simp] theorem Dev.setCom_ses (k v : Nat) : (Dev.setCom k v d).ses = d.ses := rfl
@[simp] theorem Dev.setCom_loc (k v : Nat) : (Dev.setCom k v d).loc = d.loc := rfl
@[simp] theorem Dev.setCom_srv (k v : Nat) : (Dev.setCom k v d).srv = d.srv := rfl
@[simp] theorem Dev.setCom_comp (k v : Nat) : (Dev.setCom k v d).comp = d.comp := rfl
@[simp] theorem Dev.setCom_pool (k v : Nat) : (Dev.setCom k v d).pool = d.pool := rfl
@[simp] theorem Dev.setCom_media (k v : Nat) : (Dev.setCom k v d).media = d.media := rfl
@[simp] theorem Dev.setCom_boot (k v : Nat) : (Dev.setCom k v d).boot = d.boot := rfl
@[simp] theorem Dev.setCom_eng (k v : Nat) : (Dev.setCom k v d).eng = d.eng := rfl
@[simp] theorem Dev.setCom_sel (k v : Nat) : (Dev.setCom k v d).sel = d.sel := rfl
@[simp] theorem Dev.setCom_tok (k v : Nat) : (Dev.setCom k v d).tok = d.tok := rfl
@[simp] theorem Dev.setCom_grm (k v : Nat) : (Dev.setCom k v d).grm = d.grm := rfl
@[simp] theorem Dev.setCom_idx (k v : Nat) : (Dev.setCom k v d).idx = d.idx := rfl
@[simp] theorem Dev.setCom_ckpt (k v : Nat) : (Dev.setCom k v d).ckpt = d.ckpt := rfl
@[simp] theorem Dev.setCom_lens (k v : Nat) : (Dev.setCom k v d).lens = d.lens := rfl

@[simp] theorem Dev.advance_freeCtr (t : Nat) : (Dev.advance t d).freeCtr = d.freeCtr := rfl
@[simp] theorem Dev.advance_out (t : Nat) : (Dev.advance t d).out = d.out := rfl
@[simp] theorem Dev.advance_regs (t : Nat) : (Dev.advance t d).regs = d.regs := rfl
@[simp] theorem Dev.advance_committed (t : Nat) : (Dev.advance t d).committed = d.committed := rfl
@[simp] theorem Dev.advance_pends (t : Nat) : (Dev.advance t d).pends = d.pends := rfl
@[simp] theorem Dev.advance_bar2 (t : Nat) : (Dev.advance t d).bar2 = d.bar2 := rfl
@[simp] theorem Dev.advance_idxLatch (t : Nat) : (Dev.advance t d).idxLatch = d.idxLatch := rfl
@[simp] theorem Dev.advance_own (t : Nat) : (Dev.advance t d).own = d.own := rfl
@[simp] theorem Dev.advance_que (t : Nat) : (Dev.advance t d).que = d.que := rfl
@[simp] theorem Dev.advance_peers (t : Nat) : (Dev.advance t d).peers = d.peers := rfl
@[simp] theorem Dev.advance_peersNext (t : Nat) : (Dev.advance t d).peersNext = d.peersNext := rfl
@[simp] theorem Dev.advance_qps (t : Nat) : (Dev.advance t d).qps = d.qps := rfl
@[simp] theorem Dev.advance_mctp (t : Nat) : (Dev.advance t d).mctp = d.mctp := rfl
@[simp] theorem Dev.advance_ports (t : Nat) : (Dev.advance t d).ports = d.ports := rfl
@[simp] theorem Dev.advance_ringWait (t : Nat) : (Dev.advance t d).ringWait = d.ringWait := rfl
@[simp] theorem Dev.advance_locQuery (t : Nat) : (Dev.advance t d).locQuery = d.locQuery := rfl
@[simp] theorem Dev.advance_downSince (t : Nat) : (Dev.advance t d).downSince = d.downSince := rfl
@[simp] theorem Dev.advance_ptpGood (t : Nat) : (Dev.advance t d).ptpGood = d.ptpGood := rfl
@[simp] theorem Dev.advance_ptpAt (t : Nat) : (Dev.advance t d).ptpAt = d.ptpAt := rfl
@[simp] theorem Dev.advance_fog (t : Nat) : (Dev.advance t d).fog = d.fog := rfl
@[simp] theorem Dev.advance_gap (t : Nat) : (Dev.advance t d).gap = d.gap := rfl
@[simp] theorem Dev.advance_lantern (t : Nat) : (Dev.advance t d).lantern = d.lantern := rfl
@[simp] theorem Dev.advance_keepers (t : Nat) : (Dev.advance t d).keepers = d.keepers := rfl
@[simp] theorem Dev.advance_tap (t : Nat) : (Dev.advance t d).tap = d.tap := rfl
@[simp] theorem Dev.advance_sec (t : Nat) : (Dev.advance t d).sec = d.sec := rfl
@[simp] theorem Dev.advance_ses (t : Nat) : (Dev.advance t d).ses = d.ses := rfl
@[simp] theorem Dev.advance_loc (t : Nat) : (Dev.advance t d).loc = d.loc := rfl
@[simp] theorem Dev.advance_srv (t : Nat) : (Dev.advance t d).srv = d.srv := rfl
@[simp] theorem Dev.advance_comp (t : Nat) : (Dev.advance t d).comp = d.comp := rfl
@[simp] theorem Dev.advance_pool (t : Nat) : (Dev.advance t d).pool = d.pool := rfl
@[simp] theorem Dev.advance_media (t : Nat) : (Dev.advance t d).media = d.media := rfl
@[simp] theorem Dev.advance_boot (t : Nat) : (Dev.advance t d).boot = d.boot := rfl
@[simp] theorem Dev.advance_eng (t : Nat) : (Dev.advance t d).eng = d.eng := rfl
@[simp] theorem Dev.advance_sel (t : Nat) : (Dev.advance t d).sel = d.sel := rfl
@[simp] theorem Dev.advance_tok (t : Nat) : (Dev.advance t d).tok = d.tok := rfl
@[simp] theorem Dev.advance_grm (t : Nat) : (Dev.advance t d).grm = d.grm := rfl
@[simp] theorem Dev.advance_idx (t : Nat) : (Dev.advance t d).idx = d.idx := rfl
@[simp] theorem Dev.advance_ckpt (t : Nat) : (Dev.advance t d).ckpt = d.ckpt := rfl
@[simp] theorem Dev.advance_lens (t : Nat) : (Dev.advance t d).lens = d.lens := rfl

@[simp] theorem Dev.emit_now (e : Emission) : (Dev.emit e d).now = d.now := rfl
@[simp] theorem Dev.emit_daymark (e : Emission) : (Dev.emit e d).daymark = d.daymark := rfl
@[simp] theorem Dev.emit_freeCtr (e : Emission) : (Dev.emit e d).freeCtr = d.freeCtr := rfl
@[simp] theorem Dev.emit_regs (e : Emission) : (Dev.emit e d).regs = d.regs := rfl
@[simp] theorem Dev.emit_committed (e : Emission) : (Dev.emit e d).committed = d.committed := rfl
@[simp] theorem Dev.emit_pends (e : Emission) : (Dev.emit e d).pends = d.pends := rfl
@[simp] theorem Dev.emit_bar2 (e : Emission) : (Dev.emit e d).bar2 = d.bar2 := rfl
@[simp] theorem Dev.emit_idxLatch (e : Emission) : (Dev.emit e d).idxLatch = d.idxLatch := rfl
@[simp] theorem Dev.emit_own (e : Emission) : (Dev.emit e d).own = d.own := rfl
@[simp] theorem Dev.emit_que (e : Emission) : (Dev.emit e d).que = d.que := rfl
@[simp] theorem Dev.emit_peers (e : Emission) : (Dev.emit e d).peers = d.peers := rfl
@[simp] theorem Dev.emit_peersNext (e : Emission) : (Dev.emit e d).peersNext = d.peersNext := rfl
@[simp] theorem Dev.emit_qps (e : Emission) : (Dev.emit e d).qps = d.qps := rfl
@[simp] theorem Dev.emit_mctp (e : Emission) : (Dev.emit e d).mctp = d.mctp := rfl
@[simp] theorem Dev.emit_ports (e : Emission) : (Dev.emit e d).ports = d.ports := rfl
@[simp] theorem Dev.emit_ringWait (e : Emission) : (Dev.emit e d).ringWait = d.ringWait := rfl
@[simp] theorem Dev.emit_locQuery (e : Emission) : (Dev.emit e d).locQuery = d.locQuery := rfl
@[simp] theorem Dev.emit_downSince (e : Emission) : (Dev.emit e d).downSince = d.downSince := rfl
@[simp] theorem Dev.emit_ptpGood (e : Emission) : (Dev.emit e d).ptpGood = d.ptpGood := rfl
@[simp] theorem Dev.emit_ptpAt (e : Emission) : (Dev.emit e d).ptpAt = d.ptpAt := rfl
@[simp] theorem Dev.emit_fog (e : Emission) : (Dev.emit e d).fog = d.fog := rfl
@[simp] theorem Dev.emit_gap (e : Emission) : (Dev.emit e d).gap = d.gap := rfl
@[simp] theorem Dev.emit_lantern (e : Emission) : (Dev.emit e d).lantern = d.lantern := rfl
@[simp] theorem Dev.emit_keepers (e : Emission) : (Dev.emit e d).keepers = d.keepers := rfl
@[simp] theorem Dev.emit_tap (e : Emission) : (Dev.emit e d).tap = d.tap := rfl
@[simp] theorem Dev.emit_sec (e : Emission) : (Dev.emit e d).sec = d.sec := rfl
@[simp] theorem Dev.emit_ses (e : Emission) : (Dev.emit e d).ses = d.ses := rfl
@[simp] theorem Dev.emit_loc (e : Emission) : (Dev.emit e d).loc = d.loc := rfl
@[simp] theorem Dev.emit_srv (e : Emission) : (Dev.emit e d).srv = d.srv := rfl
@[simp] theorem Dev.emit_comp (e : Emission) : (Dev.emit e d).comp = d.comp := rfl
@[simp] theorem Dev.emit_pool (e : Emission) : (Dev.emit e d).pool = d.pool := rfl
@[simp] theorem Dev.emit_media (e : Emission) : (Dev.emit e d).media = d.media := rfl
@[simp] theorem Dev.emit_boot (e : Emission) : (Dev.emit e d).boot = d.boot := rfl
@[simp] theorem Dev.emit_eng (e : Emission) : (Dev.emit e d).eng = d.eng := rfl
@[simp] theorem Dev.emit_sel (e : Emission) : (Dev.emit e d).sel = d.sel := rfl
@[simp] theorem Dev.emit_tok (e : Emission) : (Dev.emit e d).tok = d.tok := rfl
@[simp] theorem Dev.emit_grm (e : Emission) : (Dev.emit e d).grm = d.grm := rfl
@[simp] theorem Dev.emit_idx (e : Emission) : (Dev.emit e d).idx = d.idx := rfl
@[simp] theorem Dev.emit_ckpt (e : Emission) : (Dev.emit e d).ckpt = d.ckpt := rfl
@[simp] theorem Dev.emit_lens (e : Emission) : (Dev.emit e d).lens = d.lens := rfl

@[simp] theorem Dev.emits_now (es : List Emission) : (Dev.emits es d).now = d.now := rfl
@[simp] theorem Dev.emits_daymark (es : List Emission) : (Dev.emits es d).daymark = d.daymark := rfl
@[simp] theorem Dev.emits_freeCtr (es : List Emission) : (Dev.emits es d).freeCtr = d.freeCtr := rfl
@[simp] theorem Dev.emits_regs (es : List Emission) : (Dev.emits es d).regs = d.regs := rfl
@[simp] theorem Dev.emits_committed (es : List Emission) : (Dev.emits es d).committed = d.committed := rfl
@[simp] theorem Dev.emits_pends (es : List Emission) : (Dev.emits es d).pends = d.pends := rfl
@[simp] theorem Dev.emits_bar2 (es : List Emission) : (Dev.emits es d).bar2 = d.bar2 := rfl
@[simp] theorem Dev.emits_idxLatch (es : List Emission) : (Dev.emits es d).idxLatch = d.idxLatch := rfl
@[simp] theorem Dev.emits_own (es : List Emission) : (Dev.emits es d).own = d.own := rfl
@[simp] theorem Dev.emits_que (es : List Emission) : (Dev.emits es d).que = d.que := rfl
@[simp] theorem Dev.emits_peers (es : List Emission) : (Dev.emits es d).peers = d.peers := rfl
@[simp] theorem Dev.emits_peersNext (es : List Emission) : (Dev.emits es d).peersNext = d.peersNext := rfl
@[simp] theorem Dev.emits_qps (es : List Emission) : (Dev.emits es d).qps = d.qps := rfl
@[simp] theorem Dev.emits_mctp (es : List Emission) : (Dev.emits es d).mctp = d.mctp := rfl
@[simp] theorem Dev.emits_ports (es : List Emission) : (Dev.emits es d).ports = d.ports := rfl
@[simp] theorem Dev.emits_ringWait (es : List Emission) : (Dev.emits es d).ringWait = d.ringWait := rfl
@[simp] theorem Dev.emits_locQuery (es : List Emission) : (Dev.emits es d).locQuery = d.locQuery := rfl
@[simp] theorem Dev.emits_downSince (es : List Emission) : (Dev.emits es d).downSince = d.downSince := rfl
@[simp] theorem Dev.emits_ptpGood (es : List Emission) : (Dev.emits es d).ptpGood = d.ptpGood := rfl
@[simp] theorem Dev.emits_ptpAt (es : List Emission) : (Dev.emits es d).ptpAt = d.ptpAt := rfl
@[simp] theorem Dev.emits_fog (es : List Emission) : (Dev.emits es d).fog = d.fog := rfl
@[simp] theorem Dev.emits_gap (es : List Emission) : (Dev.emits es d).gap = d.gap := rfl
@[simp] theorem Dev.emits_lantern (es : List Emission) : (Dev.emits es d).lantern = d.lantern := rfl
@[simp] theorem Dev.emits_keepers (es : List Emission) : (Dev.emits es d).keepers = d.keepers := rfl
@[simp] theorem Dev.emits_tap (es : List Emission) : (Dev.emits es d).tap = d.tap := rfl
@[simp] theorem Dev.emits_sec (es : List Emission) : (Dev.emits es d).sec = d.sec := rfl
@[simp] theorem Dev.emits_ses (es : List Emission) : (Dev.emits es d).ses = d.ses := rfl
@[simp] theorem Dev.emits_loc (es : List Emission) : (Dev.emits es d).loc = d.loc := rfl
@[simp] theorem Dev.emits_srv (es : List Emission) : (Dev.emits es d).srv = d.srv := rfl
@[simp] theorem Dev.emits_comp (es : List Emission) : (Dev.emits es d).comp = d.comp := rfl
@[simp] theorem Dev.emits_pool (es : List Emission) : (Dev.emits es d).pool = d.pool := rfl
@[simp] theorem Dev.emits_media (es : List Emission) : (Dev.emits es d).media = d.media := rfl
@[simp] theorem Dev.emits_boot (es : List Emission) : (Dev.emits es d).boot = d.boot := rfl
@[simp] theorem Dev.emits_eng (es : List Emission) : (Dev.emits es d).eng = d.eng := rfl
@[simp] theorem Dev.emits_sel (es : List Emission) : (Dev.emits es d).sel = d.sel := rfl
@[simp] theorem Dev.emits_tok (es : List Emission) : (Dev.emits es d).tok = d.tok := rfl
@[simp] theorem Dev.emits_grm (es : List Emission) : (Dev.emits es d).grm = d.grm := rfl
@[simp] theorem Dev.emits_idx (es : List Emission) : (Dev.emits es d).idx = d.idx := rfl
@[simp] theorem Dev.emits_ckpt (es : List Emission) : (Dev.emits es d).ckpt = d.ckpt := rfl
@[simp] theorem Dev.emits_lens (es : List Emission) : (Dev.emits es d).lens = d.lens := rfl

@[simp] theorem Dev.drawn_now : (Dev.drawn d).now = d.now := rfl
@[simp] theorem Dev.drawn_daymark : (Dev.drawn d).daymark = d.daymark := rfl
@[simp] theorem Dev.drawn_out : (Dev.drawn d).out = d.out := rfl
@[simp] theorem Dev.drawn_regs : (Dev.drawn d).regs = d.regs := rfl
@[simp] theorem Dev.drawn_committed : (Dev.drawn d).committed = d.committed := rfl
@[simp] theorem Dev.drawn_pends : (Dev.drawn d).pends = d.pends := rfl
@[simp] theorem Dev.drawn_bar2 : (Dev.drawn d).bar2 = d.bar2 := rfl
@[simp] theorem Dev.drawn_idxLatch : (Dev.drawn d).idxLatch = d.idxLatch := rfl
@[simp] theorem Dev.drawn_own : (Dev.drawn d).own = d.own := rfl
@[simp] theorem Dev.drawn_que : (Dev.drawn d).que = d.que := rfl
@[simp] theorem Dev.drawn_peers : (Dev.drawn d).peers = d.peers := rfl
@[simp] theorem Dev.drawn_peersNext : (Dev.drawn d).peersNext = d.peersNext := rfl
@[simp] theorem Dev.drawn_qps : (Dev.drawn d).qps = d.qps := rfl
@[simp] theorem Dev.drawn_mctp : (Dev.drawn d).mctp = d.mctp := rfl
@[simp] theorem Dev.drawn_ports : (Dev.drawn d).ports = d.ports := rfl
@[simp] theorem Dev.drawn_ringWait : (Dev.drawn d).ringWait = d.ringWait := rfl
@[simp] theorem Dev.drawn_locQuery : (Dev.drawn d).locQuery = d.locQuery := rfl
@[simp] theorem Dev.drawn_downSince : (Dev.drawn d).downSince = d.downSince := rfl
@[simp] theorem Dev.drawn_ptpGood : (Dev.drawn d).ptpGood = d.ptpGood := rfl
@[simp] theorem Dev.drawn_ptpAt : (Dev.drawn d).ptpAt = d.ptpAt := rfl
@[simp] theorem Dev.drawn_fog : (Dev.drawn d).fog = d.fog := rfl
@[simp] theorem Dev.drawn_gap : (Dev.drawn d).gap = d.gap := rfl
@[simp] theorem Dev.drawn_lantern : (Dev.drawn d).lantern = d.lantern := rfl
@[simp] theorem Dev.drawn_keepers : (Dev.drawn d).keepers = d.keepers := rfl
@[simp] theorem Dev.drawn_tap : (Dev.drawn d).tap = d.tap := rfl
@[simp] theorem Dev.drawn_sec : (Dev.drawn d).sec = d.sec := rfl
@[simp] theorem Dev.drawn_ses : (Dev.drawn d).ses = d.ses := rfl
@[simp] theorem Dev.drawn_loc : (Dev.drawn d).loc = d.loc := rfl
@[simp] theorem Dev.drawn_srv : (Dev.drawn d).srv = d.srv := rfl
@[simp] theorem Dev.drawn_comp : (Dev.drawn d).comp = d.comp := rfl
@[simp] theorem Dev.drawn_pool : (Dev.drawn d).pool = d.pool := rfl
@[simp] theorem Dev.drawn_media : (Dev.drawn d).media = d.media := rfl
@[simp] theorem Dev.drawn_boot : (Dev.drawn d).boot = d.boot := rfl
@[simp] theorem Dev.drawn_eng : (Dev.drawn d).eng = d.eng := rfl
@[simp] theorem Dev.drawn_sel : (Dev.drawn d).sel = d.sel := rfl
@[simp] theorem Dev.drawn_tok : (Dev.drawn d).tok = d.tok := rfl
@[simp] theorem Dev.drawn_grm : (Dev.drawn d).grm = d.grm := rfl
@[simp] theorem Dev.drawn_idx : (Dev.drawn d).idx = d.idx := rfl
@[simp] theorem Dev.drawn_ckpt : (Dev.drawn d).ckpt = d.ckpt := rfl
@[simp] theorem Dev.drawn_lens : (Dev.drawn d).lens = d.lens := rfl

@[simp] theorem Dev.ownUpd_now (f : Own → Own) : (Dev.ownUpd f d).now = d.now := rfl
@[simp] theorem Dev.ownUpd_daymark (f : Own → Own) : (Dev.ownUpd f d).daymark = d.daymark := rfl
@[simp] theorem Dev.ownUpd_freeCtr (f : Own → Own) : (Dev.ownUpd f d).freeCtr = d.freeCtr := rfl
@[simp] theorem Dev.ownUpd_out (f : Own → Own) : (Dev.ownUpd f d).out = d.out := rfl
@[simp] theorem Dev.ownUpd_regs (f : Own → Own) : (Dev.ownUpd f d).regs = d.regs := rfl
@[simp] theorem Dev.ownUpd_committed (f : Own → Own) : (Dev.ownUpd f d).committed = d.committed := rfl
@[simp] theorem Dev.ownUpd_pends (f : Own → Own) : (Dev.ownUpd f d).pends = d.pends := rfl
@[simp] theorem Dev.ownUpd_bar2 (f : Own → Own) : (Dev.ownUpd f d).bar2 = d.bar2 := rfl
@[simp] theorem Dev.ownUpd_idxLatch (f : Own → Own) : (Dev.ownUpd f d).idxLatch = d.idxLatch := rfl
@[simp] theorem Dev.ownUpd_que (f : Own → Own) : (Dev.ownUpd f d).que = d.que := rfl
@[simp] theorem Dev.ownUpd_peers (f : Own → Own) : (Dev.ownUpd f d).peers = d.peers := rfl
@[simp] theorem Dev.ownUpd_peersNext (f : Own → Own) : (Dev.ownUpd f d).peersNext = d.peersNext := rfl
@[simp] theorem Dev.ownUpd_qps (f : Own → Own) : (Dev.ownUpd f d).qps = d.qps := rfl
@[simp] theorem Dev.ownUpd_mctp (f : Own → Own) : (Dev.ownUpd f d).mctp = d.mctp := rfl
@[simp] theorem Dev.ownUpd_ports (f : Own → Own) : (Dev.ownUpd f d).ports = d.ports := rfl
@[simp] theorem Dev.ownUpd_ringWait (f : Own → Own) : (Dev.ownUpd f d).ringWait = d.ringWait := rfl
@[simp] theorem Dev.ownUpd_locQuery (f : Own → Own) : (Dev.ownUpd f d).locQuery = d.locQuery := rfl
@[simp] theorem Dev.ownUpd_downSince (f : Own → Own) : (Dev.ownUpd f d).downSince = d.downSince := rfl
@[simp] theorem Dev.ownUpd_ptpGood (f : Own → Own) : (Dev.ownUpd f d).ptpGood = d.ptpGood := rfl
@[simp] theorem Dev.ownUpd_ptpAt (f : Own → Own) : (Dev.ownUpd f d).ptpAt = d.ptpAt := rfl
@[simp] theorem Dev.ownUpd_fog (f : Own → Own) : (Dev.ownUpd f d).fog = d.fog := rfl
@[simp] theorem Dev.ownUpd_gap (f : Own → Own) : (Dev.ownUpd f d).gap = d.gap := rfl
@[simp] theorem Dev.ownUpd_lantern (f : Own → Own) : (Dev.ownUpd f d).lantern = d.lantern := rfl
@[simp] theorem Dev.ownUpd_keepers (f : Own → Own) : (Dev.ownUpd f d).keepers = d.keepers := rfl
@[simp] theorem Dev.ownUpd_tap (f : Own → Own) : (Dev.ownUpd f d).tap = d.tap := rfl
@[simp] theorem Dev.ownUpd_sec (f : Own → Own) : (Dev.ownUpd f d).sec = d.sec := rfl
@[simp] theorem Dev.ownUpd_ses (f : Own → Own) : (Dev.ownUpd f d).ses = d.ses := rfl
@[simp] theorem Dev.ownUpd_loc (f : Own → Own) : (Dev.ownUpd f d).loc = d.loc := rfl
@[simp] theorem Dev.ownUpd_srv (f : Own → Own) : (Dev.ownUpd f d).srv = d.srv := rfl
@[simp] theorem Dev.ownUpd_comp (f : Own → Own) : (Dev.ownUpd f d).comp = d.comp := rfl
@[simp] theorem Dev.ownUpd_pool (f : Own → Own) : (Dev.ownUpd f d).pool = d.pool := rfl
@[simp] theorem Dev.ownUpd_media (f : Own → Own) : (Dev.ownUpd f d).media = d.media := rfl
@[simp] theorem Dev.ownUpd_boot (f : Own → Own) : (Dev.ownUpd f d).boot = d.boot := rfl
@[simp] theorem Dev.ownUpd_eng (f : Own → Own) : (Dev.ownUpd f d).eng = d.eng := rfl
@[simp] theorem Dev.ownUpd_sel (f : Own → Own) : (Dev.ownUpd f d).sel = d.sel := rfl
@[simp] theorem Dev.ownUpd_tok (f : Own → Own) : (Dev.ownUpd f d).tok = d.tok := rfl
@[simp] theorem Dev.ownUpd_grm (f : Own → Own) : (Dev.ownUpd f d).grm = d.grm := rfl
@[simp] theorem Dev.ownUpd_idx (f : Own → Own) : (Dev.ownUpd f d).idx = d.idx := rfl
@[simp] theorem Dev.ownUpd_ckpt (f : Own → Own) : (Dev.ownUpd f d).ckpt = d.ckpt := rfl
@[simp] theorem Dev.ownUpd_lens (f : Own → Own) : (Dev.ownUpd f d).lens = d.lens := rfl

@[simp] theorem Dev.bootUpd_now (f : Boot → Boot) : (Dev.bootUpd f d).now = d.now := rfl
@[simp] theorem Dev.bootUpd_daymark (f : Boot → Boot) : (Dev.bootUpd f d).daymark = d.daymark := rfl
@[simp] theorem Dev.bootUpd_freeCtr (f : Boot → Boot) : (Dev.bootUpd f d).freeCtr = d.freeCtr := rfl
@[simp] theorem Dev.bootUpd_out (f : Boot → Boot) : (Dev.bootUpd f d).out = d.out := rfl
@[simp] theorem Dev.bootUpd_regs (f : Boot → Boot) : (Dev.bootUpd f d).regs = d.regs := rfl
@[simp] theorem Dev.bootUpd_committed (f : Boot → Boot) : (Dev.bootUpd f d).committed = d.committed := rfl
@[simp] theorem Dev.bootUpd_pends (f : Boot → Boot) : (Dev.bootUpd f d).pends = d.pends := rfl
@[simp] theorem Dev.bootUpd_bar2 (f : Boot → Boot) : (Dev.bootUpd f d).bar2 = d.bar2 := rfl
@[simp] theorem Dev.bootUpd_idxLatch (f : Boot → Boot) : (Dev.bootUpd f d).idxLatch = d.idxLatch := rfl
@[simp] theorem Dev.bootUpd_own (f : Boot → Boot) : (Dev.bootUpd f d).own = d.own := rfl
@[simp] theorem Dev.bootUpd_que (f : Boot → Boot) : (Dev.bootUpd f d).que = d.que := rfl
@[simp] theorem Dev.bootUpd_peers (f : Boot → Boot) : (Dev.bootUpd f d).peers = d.peers := rfl
@[simp] theorem Dev.bootUpd_peersNext (f : Boot → Boot) : (Dev.bootUpd f d).peersNext = d.peersNext := rfl
@[simp] theorem Dev.bootUpd_qps (f : Boot → Boot) : (Dev.bootUpd f d).qps = d.qps := rfl
@[simp] theorem Dev.bootUpd_mctp (f : Boot → Boot) : (Dev.bootUpd f d).mctp = d.mctp := rfl
@[simp] theorem Dev.bootUpd_ports (f : Boot → Boot) : (Dev.bootUpd f d).ports = d.ports := rfl
@[simp] theorem Dev.bootUpd_ringWait (f : Boot → Boot) : (Dev.bootUpd f d).ringWait = d.ringWait := rfl
@[simp] theorem Dev.bootUpd_locQuery (f : Boot → Boot) : (Dev.bootUpd f d).locQuery = d.locQuery := rfl
@[simp] theorem Dev.bootUpd_downSince (f : Boot → Boot) : (Dev.bootUpd f d).downSince = d.downSince := rfl
@[simp] theorem Dev.bootUpd_ptpGood (f : Boot → Boot) : (Dev.bootUpd f d).ptpGood = d.ptpGood := rfl
@[simp] theorem Dev.bootUpd_ptpAt (f : Boot → Boot) : (Dev.bootUpd f d).ptpAt = d.ptpAt := rfl
@[simp] theorem Dev.bootUpd_fog (f : Boot → Boot) : (Dev.bootUpd f d).fog = d.fog := rfl
@[simp] theorem Dev.bootUpd_gap (f : Boot → Boot) : (Dev.bootUpd f d).gap = d.gap := rfl
@[simp] theorem Dev.bootUpd_lantern (f : Boot → Boot) : (Dev.bootUpd f d).lantern = d.lantern := rfl
@[simp] theorem Dev.bootUpd_keepers (f : Boot → Boot) : (Dev.bootUpd f d).keepers = d.keepers := rfl
@[simp] theorem Dev.bootUpd_tap (f : Boot → Boot) : (Dev.bootUpd f d).tap = d.tap := rfl
@[simp] theorem Dev.bootUpd_sec (f : Boot → Boot) : (Dev.bootUpd f d).sec = d.sec := rfl
@[simp] theorem Dev.bootUpd_ses (f : Boot → Boot) : (Dev.bootUpd f d).ses = d.ses := rfl
@[simp] theorem Dev.bootUpd_loc (f : Boot → Boot) : (Dev.bootUpd f d).loc = d.loc := rfl
@[simp] theorem Dev.bootUpd_srv (f : Boot → Boot) : (Dev.bootUpd f d).srv = d.srv := rfl
@[simp] theorem Dev.bootUpd_comp (f : Boot → Boot) : (Dev.bootUpd f d).comp = d.comp := rfl
@[simp] theorem Dev.bootUpd_pool (f : Boot → Boot) : (Dev.bootUpd f d).pool = d.pool := rfl
@[simp] theorem Dev.bootUpd_media (f : Boot → Boot) : (Dev.bootUpd f d).media = d.media := rfl
@[simp] theorem Dev.bootUpd_eng (f : Boot → Boot) : (Dev.bootUpd f d).eng = d.eng := rfl
@[simp] theorem Dev.bootUpd_sel (f : Boot → Boot) : (Dev.bootUpd f d).sel = d.sel := rfl
@[simp] theorem Dev.bootUpd_tok (f : Boot → Boot) : (Dev.bootUpd f d).tok = d.tok := rfl
@[simp] theorem Dev.bootUpd_grm (f : Boot → Boot) : (Dev.bootUpd f d).grm = d.grm := rfl
@[simp] theorem Dev.bootUpd_idx (f : Boot → Boot) : (Dev.bootUpd f d).idx = d.idx := rfl
@[simp] theorem Dev.bootUpd_ckpt (f : Boot → Boot) : (Dev.bootUpd f d).ckpt = d.ckpt := rfl
@[simp] theorem Dev.bootUpd_lens (f : Boot → Boot) : (Dev.bootUpd f d).lens = d.lens := rfl

@[simp] theorem Dev.norUpd_now (f : NorSecure → NorSecure) : (Dev.norUpd f d).now = d.now := rfl
@[simp] theorem Dev.norUpd_daymark (f : NorSecure → NorSecure) : (Dev.norUpd f d).daymark = d.daymark := rfl
@[simp] theorem Dev.norUpd_freeCtr (f : NorSecure → NorSecure) : (Dev.norUpd f d).freeCtr = d.freeCtr := rfl
@[simp] theorem Dev.norUpd_out (f : NorSecure → NorSecure) : (Dev.norUpd f d).out = d.out := rfl
@[simp] theorem Dev.norUpd_regs (f : NorSecure → NorSecure) : (Dev.norUpd f d).regs = d.regs := rfl
@[simp] theorem Dev.norUpd_committed (f : NorSecure → NorSecure) : (Dev.norUpd f d).committed = d.committed := rfl
@[simp] theorem Dev.norUpd_pends (f : NorSecure → NorSecure) : (Dev.norUpd f d).pends = d.pends := rfl
@[simp] theorem Dev.norUpd_bar2 (f : NorSecure → NorSecure) : (Dev.norUpd f d).bar2 = d.bar2 := rfl
@[simp] theorem Dev.norUpd_idxLatch (f : NorSecure → NorSecure) : (Dev.norUpd f d).idxLatch = d.idxLatch := rfl
@[simp] theorem Dev.norUpd_own (f : NorSecure → NorSecure) : (Dev.norUpd f d).own = d.own := rfl
@[simp] theorem Dev.norUpd_que (f : NorSecure → NorSecure) : (Dev.norUpd f d).que = d.que := rfl
@[simp] theorem Dev.norUpd_peers (f : NorSecure → NorSecure) : (Dev.norUpd f d).peers = d.peers := rfl
@[simp] theorem Dev.norUpd_peersNext (f : NorSecure → NorSecure) : (Dev.norUpd f d).peersNext = d.peersNext := rfl
@[simp] theorem Dev.norUpd_qps (f : NorSecure → NorSecure) : (Dev.norUpd f d).qps = d.qps := rfl
@[simp] theorem Dev.norUpd_mctp (f : NorSecure → NorSecure) : (Dev.norUpd f d).mctp = d.mctp := rfl
@[simp] theorem Dev.norUpd_ports (f : NorSecure → NorSecure) : (Dev.norUpd f d).ports = d.ports := rfl
@[simp] theorem Dev.norUpd_ringWait (f : NorSecure → NorSecure) : (Dev.norUpd f d).ringWait = d.ringWait := rfl
@[simp] theorem Dev.norUpd_locQuery (f : NorSecure → NorSecure) : (Dev.norUpd f d).locQuery = d.locQuery := rfl
@[simp] theorem Dev.norUpd_downSince (f : NorSecure → NorSecure) : (Dev.norUpd f d).downSince = d.downSince := rfl
@[simp] theorem Dev.norUpd_ptpGood (f : NorSecure → NorSecure) : (Dev.norUpd f d).ptpGood = d.ptpGood := rfl
@[simp] theorem Dev.norUpd_ptpAt (f : NorSecure → NorSecure) : (Dev.norUpd f d).ptpAt = d.ptpAt := rfl
@[simp] theorem Dev.norUpd_fog (f : NorSecure → NorSecure) : (Dev.norUpd f d).fog = d.fog := rfl
@[simp] theorem Dev.norUpd_gap (f : NorSecure → NorSecure) : (Dev.norUpd f d).gap = d.gap := rfl
@[simp] theorem Dev.norUpd_lantern (f : NorSecure → NorSecure) : (Dev.norUpd f d).lantern = d.lantern := rfl
@[simp] theorem Dev.norUpd_keepers (f : NorSecure → NorSecure) : (Dev.norUpd f d).keepers = d.keepers := rfl
@[simp] theorem Dev.norUpd_tap (f : NorSecure → NorSecure) : (Dev.norUpd f d).tap = d.tap := rfl
@[simp] theorem Dev.norUpd_ses (f : NorSecure → NorSecure) : (Dev.norUpd f d).ses = d.ses := rfl
@[simp] theorem Dev.norUpd_loc (f : NorSecure → NorSecure) : (Dev.norUpd f d).loc = d.loc := rfl
@[simp] theorem Dev.norUpd_srv (f : NorSecure → NorSecure) : (Dev.norUpd f d).srv = d.srv := rfl
@[simp] theorem Dev.norUpd_comp (f : NorSecure → NorSecure) : (Dev.norUpd f d).comp = d.comp := rfl
@[simp] theorem Dev.norUpd_pool (f : NorSecure → NorSecure) : (Dev.norUpd f d).pool = d.pool := rfl
@[simp] theorem Dev.norUpd_media (f : NorSecure → NorSecure) : (Dev.norUpd f d).media = d.media := rfl
@[simp] theorem Dev.norUpd_boot (f : NorSecure → NorSecure) : (Dev.norUpd f d).boot = d.boot := rfl
@[simp] theorem Dev.norUpd_eng (f : NorSecure → NorSecure) : (Dev.norUpd f d).eng = d.eng := rfl
@[simp] theorem Dev.norUpd_sel (f : NorSecure → NorSecure) : (Dev.norUpd f d).sel = d.sel := rfl
@[simp] theorem Dev.norUpd_tok (f : NorSecure → NorSecure) : (Dev.norUpd f d).tok = d.tok := rfl
@[simp] theorem Dev.norUpd_grm (f : NorSecure → NorSecure) : (Dev.norUpd f d).grm = d.grm := rfl
@[simp] theorem Dev.norUpd_idx (f : NorSecure → NorSecure) : (Dev.norUpd f d).idx = d.idx := rfl
@[simp] theorem Dev.norUpd_ckpt (f : NorSecure → NorSecure) : (Dev.norUpd f d).ckpt = d.ckpt := rfl
@[simp] theorem Dev.norUpd_lens (f : NorSecure → NorSecure) : (Dev.norUpd f d).lens = d.lens := rfl

@[simp] theorem Dev.lportUpd_now (i : Nat) (f : LPort → LPort) : (Dev.lportUpd i f d).now = d.now := rfl
@[simp] theorem Dev.lportUpd_daymark (i : Nat) (f : LPort → LPort) : (Dev.lportUpd i f d).daymark = d.daymark := rfl
@[simp] theorem Dev.lportUpd_freeCtr (i : Nat) (f : LPort → LPort) : (Dev.lportUpd i f d).freeCtr = d.freeCtr := rfl
@[simp] theorem Dev.lportUpd_out (i : Nat) (f : LPort → LPort) : (Dev.lportUpd i f d).out = d.out := rfl
@[simp] theorem Dev.lportUpd_regs (i : Nat) (f : LPort → LPort) : (Dev.lportUpd i f d).regs = d.regs := rfl
@[simp] theorem Dev.lportUpd_committed (i : Nat) (f : LPort → LPort) : (Dev.lportUpd i f d).committed = d.committed := rfl
@[simp] theorem Dev.lportUpd_pends (i : Nat) (f : LPort → LPort) : (Dev.lportUpd i f d).pends = d.pends := rfl
@[simp] theorem Dev.lportUpd_bar2 (i : Nat) (f : LPort → LPort) : (Dev.lportUpd i f d).bar2 = d.bar2 := rfl
@[simp] theorem Dev.lportUpd_idxLatch (i : Nat) (f : LPort → LPort) : (Dev.lportUpd i f d).idxLatch = d.idxLatch := rfl
@[simp] theorem Dev.lportUpd_own (i : Nat) (f : LPort → LPort) : (Dev.lportUpd i f d).own = d.own := rfl
@[simp] theorem Dev.lportUpd_que (i : Nat) (f : LPort → LPort) : (Dev.lportUpd i f d).que = d.que := rfl
@[simp] theorem Dev.lportUpd_peers (i : Nat) (f : LPort → LPort) : (Dev.lportUpd i f d).peers = d.peers := rfl
@[simp] theorem Dev.lportUpd_peersNext (i : Nat) (f : LPort → LPort) : (Dev.lportUpd i f d).peersNext = d.peersNext := rfl
@[simp] theorem Dev.lportUpd_qps (i : Nat) (f : LPort → LPort) : (Dev.lportUpd i f d).qps = d.qps := rfl
@[simp] theorem Dev.lportUpd_mctp (i : Nat) (f : LPort → LPort) : (Dev.lportUpd i f d).mctp = d.mctp := rfl
@[simp] theorem Dev.lportUpd_ringWait (i : Nat) (f : LPort → LPort) : (Dev.lportUpd i f d).ringWait = d.ringWait := rfl
@[simp] theorem Dev.lportUpd_locQuery (i : Nat) (f : LPort → LPort) : (Dev.lportUpd i f d).locQuery = d.locQuery := rfl
@[simp] theorem Dev.lportUpd_downSince (i : Nat) (f : LPort → LPort) : (Dev.lportUpd i f d).downSince = d.downSince := rfl
@[simp] theorem Dev.lportUpd_ptpGood (i : Nat) (f : LPort → LPort) : (Dev.lportUpd i f d).ptpGood = d.ptpGood := rfl
@[simp] theorem Dev.lportUpd_ptpAt (i : Nat) (f : LPort → LPort) : (Dev.lportUpd i f d).ptpAt = d.ptpAt := rfl
@[simp] theorem Dev.lportUpd_fog (i : Nat) (f : LPort → LPort) : (Dev.lportUpd i f d).fog = d.fog := rfl
@[simp] theorem Dev.lportUpd_gap (i : Nat) (f : LPort → LPort) : (Dev.lportUpd i f d).gap = d.gap := rfl
@[simp] theorem Dev.lportUpd_lantern (i : Nat) (f : LPort → LPort) : (Dev.lportUpd i f d).lantern = d.lantern := rfl
@[simp] theorem Dev.lportUpd_keepers (i : Nat) (f : LPort → LPort) : (Dev.lportUpd i f d).keepers = d.keepers := rfl
@[simp] theorem Dev.lportUpd_tap (i : Nat) (f : LPort → LPort) : (Dev.lportUpd i f d).tap = d.tap := rfl
@[simp] theorem Dev.lportUpd_sec (i : Nat) (f : LPort → LPort) : (Dev.lportUpd i f d).sec = d.sec := rfl
@[simp] theorem Dev.lportUpd_ses (i : Nat) (f : LPort → LPort) : (Dev.lportUpd i f d).ses = d.ses := rfl
@[simp] theorem Dev.lportUpd_loc (i : Nat) (f : LPort → LPort) : (Dev.lportUpd i f d).loc = d.loc := rfl
@[simp] theorem Dev.lportUpd_srv (i : Nat) (f : LPort → LPort) : (Dev.lportUpd i f d).srv = d.srv := rfl
@[simp] theorem Dev.lportUpd_comp (i : Nat) (f : LPort → LPort) : (Dev.lportUpd i f d).comp = d.comp := rfl
@[simp] theorem Dev.lportUpd_pool (i : Nat) (f : LPort → LPort) : (Dev.lportUpd i f d).pool = d.pool := rfl
@[simp] theorem Dev.lportUpd_media (i : Nat) (f : LPort → LPort) : (Dev.lportUpd i f d).media = d.media := rfl
@[simp] theorem Dev.lportUpd_boot (i : Nat) (f : LPort → LPort) : (Dev.lportUpd i f d).boot = d.boot := rfl
@[simp] theorem Dev.lportUpd_eng (i : Nat) (f : LPort → LPort) : (Dev.lportUpd i f d).eng = d.eng := rfl
@[simp] theorem Dev.lportUpd_sel (i : Nat) (f : LPort → LPort) : (Dev.lportUpd i f d).sel = d.sel := rfl
@[simp] theorem Dev.lportUpd_tok (i : Nat) (f : LPort → LPort) : (Dev.lportUpd i f d).tok = d.tok := rfl
@[simp] theorem Dev.lportUpd_grm (i : Nat) (f : LPort → LPort) : (Dev.lportUpd i f d).grm = d.grm := rfl
@[simp] theorem Dev.lportUpd_idx (i : Nat) (f : LPort → LPort) : (Dev.lportUpd i f d).idx = d.idx := rfl
@[simp] theorem Dev.lportUpd_ckpt (i : Nat) (f : LPort → LPort) : (Dev.lportUpd i f d).ckpt = d.ckpt := rfl
@[simp] theorem Dev.lportUpd_lens (i : Nat) (f : LPort → LPort) : (Dev.lportUpd i f d).lens = d.lens := rfl

@[simp] theorem Dev.stkUpd_now (i : Nat) (f : Stack → Stack) : (Dev.stkUpd i f d).now = d.now := rfl
@[simp] theorem Dev.stkUpd_daymark (i : Nat) (f : Stack → Stack) : (Dev.stkUpd i f d).daymark = d.daymark := rfl
@[simp] theorem Dev.stkUpd_freeCtr (i : Nat) (f : Stack → Stack) : (Dev.stkUpd i f d).freeCtr = d.freeCtr := rfl
@[simp] theorem Dev.stkUpd_out (i : Nat) (f : Stack → Stack) : (Dev.stkUpd i f d).out = d.out := rfl
@[simp] theorem Dev.stkUpd_regs (i : Nat) (f : Stack → Stack) : (Dev.stkUpd i f d).regs = d.regs := rfl
@[simp] theorem Dev.stkUpd_committed (i : Nat) (f : Stack → Stack) : (Dev.stkUpd i f d).committed = d.committed := rfl
@[simp] theorem Dev.stkUpd_pends (i : Nat) (f : Stack → Stack) : (Dev.stkUpd i f d).pends = d.pends := rfl
@[simp] theorem Dev.stkUpd_bar2 (i : Nat) (f : Stack → Stack) : (Dev.stkUpd i f d).bar2 = d.bar2 := rfl
@[simp] theorem Dev.stkUpd_idxLatch (i : Nat) (f : Stack → Stack) : (Dev.stkUpd i f d).idxLatch = d.idxLatch := rfl
@[simp] theorem Dev.stkUpd_own (i : Nat) (f : Stack → Stack) : (Dev.stkUpd i f d).own = d.own := rfl
@[simp] theorem Dev.stkUpd_que (i : Nat) (f : Stack → Stack) : (Dev.stkUpd i f d).que = d.que := rfl
@[simp] theorem Dev.stkUpd_peers (i : Nat) (f : Stack → Stack) : (Dev.stkUpd i f d).peers = d.peers := rfl
@[simp] theorem Dev.stkUpd_peersNext (i : Nat) (f : Stack → Stack) : (Dev.stkUpd i f d).peersNext = d.peersNext := rfl
@[simp] theorem Dev.stkUpd_qps (i : Nat) (f : Stack → Stack) : (Dev.stkUpd i f d).qps = d.qps := rfl
@[simp] theorem Dev.stkUpd_mctp (i : Nat) (f : Stack → Stack) : (Dev.stkUpd i f d).mctp = d.mctp := rfl
@[simp] theorem Dev.stkUpd_ports (i : Nat) (f : Stack → Stack) : (Dev.stkUpd i f d).ports = d.ports := rfl
@[simp] theorem Dev.stkUpd_ringWait (i : Nat) (f : Stack → Stack) : (Dev.stkUpd i f d).ringWait = d.ringWait := rfl
@[simp] theorem Dev.stkUpd_locQuery (i : Nat) (f : Stack → Stack) : (Dev.stkUpd i f d).locQuery = d.locQuery := rfl
@[simp] theorem Dev.stkUpd_downSince (i : Nat) (f : Stack → Stack) : (Dev.stkUpd i f d).downSince = d.downSince := rfl
@[simp] theorem Dev.stkUpd_ptpGood (i : Nat) (f : Stack → Stack) : (Dev.stkUpd i f d).ptpGood = d.ptpGood := rfl
@[simp] theorem Dev.stkUpd_ptpAt (i : Nat) (f : Stack → Stack) : (Dev.stkUpd i f d).ptpAt = d.ptpAt := rfl
@[simp] theorem Dev.stkUpd_fog (i : Nat) (f : Stack → Stack) : (Dev.stkUpd i f d).fog = d.fog := rfl
@[simp] theorem Dev.stkUpd_gap (i : Nat) (f : Stack → Stack) : (Dev.stkUpd i f d).gap = d.gap := rfl
@[simp] theorem Dev.stkUpd_lantern (i : Nat) (f : Stack → Stack) : (Dev.stkUpd i f d).lantern = d.lantern := rfl
@[simp] theorem Dev.stkUpd_keepers (i : Nat) (f : Stack → Stack) : (Dev.stkUpd i f d).keepers = d.keepers := rfl
@[simp] theorem Dev.stkUpd_tap (i : Nat) (f : Stack → Stack) : (Dev.stkUpd i f d).tap = d.tap := rfl
@[simp] theorem Dev.stkUpd_sec (i : Nat) (f : Stack → Stack) : (Dev.stkUpd i f d).sec = d.sec := rfl
@[simp] theorem Dev.stkUpd_ses (i : Nat) (f : Stack → Stack) : (Dev.stkUpd i f d).ses = d.ses := rfl
@[simp] theorem Dev.stkUpd_loc (i : Nat) (f : Stack → Stack) : (Dev.stkUpd i f d).loc = d.loc := rfl
@[simp] theorem Dev.stkUpd_srv (i : Nat) (f : Stack → Stack) : (Dev.stkUpd i f d).srv = d.srv := rfl
@[simp] theorem Dev.stkUpd_comp (i : Nat) (f : Stack → Stack) : (Dev.stkUpd i f d).comp = d.comp := rfl
@[simp] theorem Dev.stkUpd_pool (i : Nat) (f : Stack → Stack) : (Dev.stkUpd i f d).pool = d.pool := rfl
@[simp] theorem Dev.stkUpd_boot (i : Nat) (f : Stack → Stack) : (Dev.stkUpd i f d).boot = d.boot := rfl
@[simp] theorem Dev.stkUpd_eng (i : Nat) (f : Stack → Stack) : (Dev.stkUpd i f d).eng = d.eng := rfl
@[simp] theorem Dev.stkUpd_sel (i : Nat) (f : Stack → Stack) : (Dev.stkUpd i f d).sel = d.sel := rfl
@[simp] theorem Dev.stkUpd_tok (i : Nat) (f : Stack → Stack) : (Dev.stkUpd i f d).tok = d.tok := rfl
@[simp] theorem Dev.stkUpd_grm (i : Nat) (f : Stack → Stack) : (Dev.stkUpd i f d).grm = d.grm := rfl
@[simp] theorem Dev.stkUpd_idx (i : Nat) (f : Stack → Stack) : (Dev.stkUpd i f d).idx = d.idx := rfl
@[simp] theorem Dev.stkUpd_ckpt (i : Nat) (f : Stack → Stack) : (Dev.stkUpd i f d).ckpt = d.ckpt := rfl
@[simp] theorem Dev.stkUpd_lens (i : Nat) (f : Stack → Stack) : (Dev.stkUpd i f d).lens = d.lens := rfl

@[simp] theorem Dev.flUpd_now (f : Flash → Flash) : (Dev.flUpd f d).now = d.now := rfl
@[simp] theorem Dev.flUpd_daymark (f : Flash → Flash) : (Dev.flUpd f d).daymark = d.daymark := rfl
@[simp] theorem Dev.flUpd_freeCtr (f : Flash → Flash) : (Dev.flUpd f d).freeCtr = d.freeCtr := rfl
@[simp] theorem Dev.flUpd_out (f : Flash → Flash) : (Dev.flUpd f d).out = d.out := rfl
@[simp] theorem Dev.flUpd_regs (f : Flash → Flash) : (Dev.flUpd f d).regs = d.regs := rfl
@[simp] theorem Dev.flUpd_committed (f : Flash → Flash) : (Dev.flUpd f d).committed = d.committed := rfl
@[simp] theorem Dev.flUpd_pends (f : Flash → Flash) : (Dev.flUpd f d).pends = d.pends := rfl
@[simp] theorem Dev.flUpd_bar2 (f : Flash → Flash) : (Dev.flUpd f d).bar2 = d.bar2 := rfl
@[simp] theorem Dev.flUpd_idxLatch (f : Flash → Flash) : (Dev.flUpd f d).idxLatch = d.idxLatch := rfl
@[simp] theorem Dev.flUpd_own (f : Flash → Flash) : (Dev.flUpd f d).own = d.own := rfl
@[simp] theorem Dev.flUpd_que (f : Flash → Flash) : (Dev.flUpd f d).que = d.que := rfl
@[simp] theorem Dev.flUpd_peers (f : Flash → Flash) : (Dev.flUpd f d).peers = d.peers := rfl
@[simp] theorem Dev.flUpd_peersNext (f : Flash → Flash) : (Dev.flUpd f d).peersNext = d.peersNext := rfl
@[simp] theorem Dev.flUpd_qps (f : Flash → Flash) : (Dev.flUpd f d).qps = d.qps := rfl
@[simp] theorem Dev.flUpd_mctp (f : Flash → Flash) : (Dev.flUpd f d).mctp = d.mctp := rfl
@[simp] theorem Dev.flUpd_ports (f : Flash → Flash) : (Dev.flUpd f d).ports = d.ports := rfl
@[simp] theorem Dev.flUpd_ringWait (f : Flash → Flash) : (Dev.flUpd f d).ringWait = d.ringWait := rfl
@[simp] theorem Dev.flUpd_locQuery (f : Flash → Flash) : (Dev.flUpd f d).locQuery = d.locQuery := rfl
@[simp] theorem Dev.flUpd_downSince (f : Flash → Flash) : (Dev.flUpd f d).downSince = d.downSince := rfl
@[simp] theorem Dev.flUpd_ptpGood (f : Flash → Flash) : (Dev.flUpd f d).ptpGood = d.ptpGood := rfl
@[simp] theorem Dev.flUpd_ptpAt (f : Flash → Flash) : (Dev.flUpd f d).ptpAt = d.ptpAt := rfl
@[simp] theorem Dev.flUpd_fog (f : Flash → Flash) : (Dev.flUpd f d).fog = d.fog := rfl
@[simp] theorem Dev.flUpd_gap (f : Flash → Flash) : (Dev.flUpd f d).gap = d.gap := rfl
@[simp] theorem Dev.flUpd_lantern (f : Flash → Flash) : (Dev.flUpd f d).lantern = d.lantern := rfl
@[simp] theorem Dev.flUpd_keepers (f : Flash → Flash) : (Dev.flUpd f d).keepers = d.keepers := rfl
@[simp] theorem Dev.flUpd_tap (f : Flash → Flash) : (Dev.flUpd f d).tap = d.tap := rfl
@[simp] theorem Dev.flUpd_sec (f : Flash → Flash) : (Dev.flUpd f d).sec = d.sec := rfl
@[simp] theorem Dev.flUpd_ses (f : Flash → Flash) : (Dev.flUpd f d).ses = d.ses := rfl
@[simp] theorem Dev.flUpd_loc (f : Flash → Flash) : (Dev.flUpd f d).loc = d.loc := rfl
@[simp] theorem Dev.flUpd_srv (f : Flash → Flash) : (Dev.flUpd f d).srv = d.srv := rfl
@[simp] theorem Dev.flUpd_comp (f : Flash → Flash) : (Dev.flUpd f d).comp = d.comp := rfl
@[simp] theorem Dev.flUpd_pool (f : Flash → Flash) : (Dev.flUpd f d).pool = d.pool := rfl
@[simp] theorem Dev.flUpd_boot (f : Flash → Flash) : (Dev.flUpd f d).boot = d.boot := rfl
@[simp] theorem Dev.flUpd_eng (f : Flash → Flash) : (Dev.flUpd f d).eng = d.eng := rfl
@[simp] theorem Dev.flUpd_sel (f : Flash → Flash) : (Dev.flUpd f d).sel = d.sel := rfl
@[simp] theorem Dev.flUpd_tok (f : Flash → Flash) : (Dev.flUpd f d).tok = d.tok := rfl
@[simp] theorem Dev.flUpd_grm (f : Flash → Flash) : (Dev.flUpd f d).grm = d.grm := rfl
@[simp] theorem Dev.flUpd_idx (f : Flash → Flash) : (Dev.flUpd f d).idx = d.idx := rfl
@[simp] theorem Dev.flUpd_ckpt (f : Flash → Flash) : (Dev.flUpd f d).ckpt = d.ckpt := rfl
@[simp] theorem Dev.flUpd_lens (f : Flash → Flash) : (Dev.flUpd f d).lens = d.lens := rfl

@[simp] theorem Dev.extUpd_now (k : Nat) (f : Extent → Extent) : (Dev.extUpd k f d).now = d.now := rfl
@[simp] theorem Dev.extUpd_daymark (k : Nat) (f : Extent → Extent) : (Dev.extUpd k f d).daymark = d.daymark := rfl
@[simp] theorem Dev.extUpd_freeCtr (k : Nat) (f : Extent → Extent) : (Dev.extUpd k f d).freeCtr = d.freeCtr := rfl
@[simp] theorem Dev.extUpd_out (k : Nat) (f : Extent → Extent) : (Dev.extUpd k f d).out = d.out := rfl
@[simp] theorem Dev.extUpd_regs (k : Nat) (f : Extent → Extent) : (Dev.extUpd k f d).regs = d.regs := rfl
@[simp] theorem Dev.extUpd_committed (k : Nat) (f : Extent → Extent) : (Dev.extUpd k f d).committed = d.committed := rfl
@[simp] theorem Dev.extUpd_pends (k : Nat) (f : Extent → Extent) : (Dev.extUpd k f d).pends = d.pends := rfl
@[simp] theorem Dev.extUpd_bar2 (k : Nat) (f : Extent → Extent) : (Dev.extUpd k f d).bar2 = d.bar2 := rfl
@[simp] theorem Dev.extUpd_idxLatch (k : Nat) (f : Extent → Extent) : (Dev.extUpd k f d).idxLatch = d.idxLatch := rfl
@[simp] theorem Dev.extUpd_own (k : Nat) (f : Extent → Extent) : (Dev.extUpd k f d).own = d.own := rfl
@[simp] theorem Dev.extUpd_que (k : Nat) (f : Extent → Extent) : (Dev.extUpd k f d).que = d.que := rfl
@[simp] theorem Dev.extUpd_peers (k : Nat) (f : Extent → Extent) : (Dev.extUpd k f d).peers = d.peers := rfl
@[simp] theorem Dev.extUpd_peersNext (k : Nat) (f : Extent → Extent) : (Dev.extUpd k f d).peersNext = d.peersNext := rfl
@[simp] theorem Dev.extUpd_qps (k : Nat) (f : Extent → Extent) : (Dev.extUpd k f d).qps = d.qps := rfl
@[simp] theorem Dev.extUpd_mctp (k : Nat) (f : Extent → Extent) : (Dev.extUpd k f d).mctp = d.mctp := rfl
@[simp] theorem Dev.extUpd_ports (k : Nat) (f : Extent → Extent) : (Dev.extUpd k f d).ports = d.ports := rfl
@[simp] theorem Dev.extUpd_ringWait (k : Nat) (f : Extent → Extent) : (Dev.extUpd k f d).ringWait = d.ringWait := rfl
@[simp] theorem Dev.extUpd_locQuery (k : Nat) (f : Extent → Extent) : (Dev.extUpd k f d).locQuery = d.locQuery := rfl
@[simp] theorem Dev.extUpd_downSince (k : Nat) (f : Extent → Extent) : (Dev.extUpd k f d).downSince = d.downSince := rfl
@[simp] theorem Dev.extUpd_ptpGood (k : Nat) (f : Extent → Extent) : (Dev.extUpd k f d).ptpGood = d.ptpGood := rfl
@[simp] theorem Dev.extUpd_ptpAt (k : Nat) (f : Extent → Extent) : (Dev.extUpd k f d).ptpAt = d.ptpAt := rfl
@[simp] theorem Dev.extUpd_fog (k : Nat) (f : Extent → Extent) : (Dev.extUpd k f d).fog = d.fog := rfl
@[simp] theorem Dev.extUpd_gap (k : Nat) (f : Extent → Extent) : (Dev.extUpd k f d).gap = d.gap := rfl
@[simp] theorem Dev.extUpd_lantern (k : Nat) (f : Extent → Extent) : (Dev.extUpd k f d).lantern = d.lantern := rfl
@[simp] theorem Dev.extUpd_keepers (k : Nat) (f : Extent → Extent) : (Dev.extUpd k f d).keepers = d.keepers := rfl
@[simp] theorem Dev.extUpd_tap (k : Nat) (f : Extent → Extent) : (Dev.extUpd k f d).tap = d.tap := rfl
@[simp] theorem Dev.extUpd_sec (k : Nat) (f : Extent → Extent) : (Dev.extUpd k f d).sec = d.sec := rfl
@[simp] theorem Dev.extUpd_ses (k : Nat) (f : Extent → Extent) : (Dev.extUpd k f d).ses = d.ses := rfl
@[simp] theorem Dev.extUpd_loc (k : Nat) (f : Extent → Extent) : (Dev.extUpd k f d).loc = d.loc := rfl
@[simp] theorem Dev.extUpd_srv (k : Nat) (f : Extent → Extent) : (Dev.extUpd k f d).srv = d.srv := rfl
@[simp] theorem Dev.extUpd_comp (k : Nat) (f : Extent → Extent) : (Dev.extUpd k f d).comp = d.comp := rfl
@[simp] theorem Dev.extUpd_media (k : Nat) (f : Extent → Extent) : (Dev.extUpd k f d).media = d.media := rfl
@[simp] theorem Dev.extUpd_boot (k : Nat) (f : Extent → Extent) : (Dev.extUpd k f d).boot = d.boot := rfl
@[simp] theorem Dev.extUpd_eng (k : Nat) (f : Extent → Extent) : (Dev.extUpd k f d).eng = d.eng := rfl
@[simp] theorem Dev.extUpd_sel (k : Nat) (f : Extent → Extent) : (Dev.extUpd k f d).sel = d.sel := rfl
@[simp] theorem Dev.extUpd_tok (k : Nat) (f : Extent → Extent) : (Dev.extUpd k f d).tok = d.tok := rfl
@[simp] theorem Dev.extUpd_grm (k : Nat) (f : Extent → Extent) : (Dev.extUpd k f d).grm = d.grm := rfl
@[simp] theorem Dev.extUpd_idx (k : Nat) (f : Extent → Extent) : (Dev.extUpd k f d).idx = d.idx := rfl
@[simp] theorem Dev.extUpd_ckpt (k : Nat) (f : Extent → Extent) : (Dev.extUpd k f d).ckpt = d.ckpt := rfl
@[simp] theorem Dev.extUpd_lens (k : Nat) (f : Extent → Extent) : (Dev.extUpd k f d).lens = d.lens := rfl

end Sys2Proof.Machine
end

