-- ==== Sys2Proof/Laws/Tab.lean ====
section
/-! SUPPORT. Laws/Tab.lean: what a sparse table holds after a put, a delete or an update. -/
namespace Sys2Proof.Machine
variable {α : Type}

@[simp] theorem Tab.look_nil (k : Nat) : Tab.look k ([] : Tab α) = none := rfl

@[simp] theorem Tab.look_put_same (k : Nat) (v : α) (t : Tab α) : Tab.look k (Tab.put k v t) = some v := by
  induction t with
  | nil => simp [Tab.put, Tab.look]
  | cons e t ih =>
    obtain ⟨j, w⟩ := e
    simp only [Tab.put]
    split
    · simp [Tab.look]
    · split
      · simp [Tab.look]
      · simp [Tab.look, *]

theorem Tab.look_put_other {k j : Nat} (h : j ≠ k) (v : α) (t : Tab α) : Tab.look k (Tab.put j v t) = Tab.look k t := by
  induction t with
  | nil => simp [Tab.put, Tab.look, h]
  | cons e t ih =>
    obtain ⟨i, w⟩ := e
    simp only [Tab.put]
    split
    · simp [Tab.look, h]
    · split
      · rename_i _ hi
        simp [Tab.look, h, hi]
      · simp [Tab.look, ih]

@[simp] theorem Tab.look_del_same (k : Nat) (t : Tab α) : Tab.look k (Tab.del k t) = none := by
  induction t with
  | nil => rfl
  | cons e t ih =>
    obtain ⟨j, w⟩ := e
    simp only [Tab.del]
    split
    · exact ih
    · rename_i h
      simp [Tab.look, h, ih]

theorem Tab.look_del_other {k j : Nat} (h : j ≠ k) (t : Tab α) : Tab.look k (Tab.del j t) = Tab.look k t := by
  induction t with
  | nil => rfl
  | cons e t ih =>
    obtain ⟨i, w⟩ := e
    simp only [Tab.del]
    split
    · rename_i hi
      simp [Tab.look, ih, hi ▸ h]
    · simp [Tab.look, ih]

theorem Tab.look_upd_same (k : Nat) (f : α → α) (t : Tab α) : Tab.look k (Tab.upd k f t) = (Tab.look k t).map f := by
  induction t with
  | nil => rfl
  | cons e t ih =>
    obtain ⟨i, w⟩ := e
    simp only [Tab.upd]
    split
    · rename_i h
      simp [Tab.look, h]
    · rename_i h
      simp [Tab.look, h, ih]

theorem Tab.look_upd_other {k j : Nat} (h : j ≠ k) (f : α → α) (t : Tab α) : Tab.look k (Tab.upd j f t) = Tab.look k t := by
  induction t with
  | nil => rfl
  | cons e t ih =>
    obtain ⟨i, w⟩ := e
    simp only [Tab.upd]
    split
    · rename_i hi
      have : i ≠ k := by omega
      simp [Tab.look, this, ih]
    · by_cases hk : i = k <;> simp [Tab.look, hk, ih]

@[simp] theorem Tab.getD_put_same (k : Nat) (v d : α) (t : Tab α) : Tab.getD k d (Tab.put k v t) = v := by simp [Tab.getD]

theorem Tab.getD_put_other {k j : Nat} (h : j ≠ k) (v d : α) (t : Tab α) : Tab.getD k d (Tab.put j v t) = Tab.getD k d t := by
  simp [Tab.getD, Tab.look_put_other h]

@[simp] theorem Tab.getD_del_same (k : Nat) (d : α) (t : Tab α) : Tab.getD k d (Tab.del k t) = d := by simp [Tab.getD]

theorem Tab.getD_del_other {k j : Nat} (h : j ≠ k) (d : α) (t : Tab α) : Tab.getD k d (Tab.del j t) = Tab.getD k d t := by
  simp [Tab.getD, Tab.look_del_other h]

end Sys2Proof.Machine
end

