-- ==== Sys2Proof/Laws/Fields.lean ====
section
/-! SUPPORT. Laws/Fields.lean: reading a register field after a write of it, or of another. -/
namespace Sys2Proof.Machine

theorem wrap_lt (w n : Nat) : wrap w n < 2 ^ w := Nat.mod_lt _ (Nat.two_pow_pos w)

@[simp] theorem wrap_wrap (w n : Nat) : wrap w (wrap w n) = wrap w n := Nat.mod_mod _ _

theorem wrap_of_lt {w n : Nat} (h : n < 2 ^ w) : wrap w n = n := Nat.mod_eq_of_lt h

/-- A field reads as what was written to it, reduced to its width. -/
@[simp] theorem Dev.get_put_same (f : Fld) (v : Nat) (d : Dev) : (d.put f v).get f = wrap f.width v := by
  unfold Dev.put Dev.get
  by_cases h : wrap f.width v = f.reset <;> simp [h]

/-- A write of one field leaves every other as it was. -/
theorem Dev.get_put_other {f g : Fld} (h : f.key ≠ g.key) (v : Nat) (d : Dev) : (d.put f v).get g = d.get g := by
  unfold Dev.put Dev.get
  by_cases hv : wrap f.width v = f.reset
  · simp [hv, Tab.getD_del_other h]
  · simp [hv, Tab.getD_put_other h]

/-- Reading a field after a write of any field. -/
theorem Dev.get_put (f g : Fld) (v : Nat) (d : Dev) :
    (d.put f v).get g = if f.key = g.key then (if wrap f.width v = f.reset then g.reset else wrap f.width v) else d.get g := by
  unfold Dev.put Dev.get
  by_cases h : f.key = g.key
  · by_cases hv : wrap f.width v = f.reset <;> simp [h, hv]
  · by_cases hv : wrap f.width v = f.reset
    · simp [h, hv, Tab.getD_del_other h]
    · simp [h, hv, Tab.getD_put_other h]

theorem Dev.get_flag_other {f g : Fld} (h : f.key ≠ g.key) (d : Dev) : (d.flag f).get g = d.get g := Dev.get_put_other h 1 d

theorem Dev.get_bump_other {f g : Fld} (h : f.key ≠ g.key) (n : Nat) (d : Dev) : (d.bump f n).get g = d.get g := Dev.get_put_other h _ d

/-- A count after `n` more events: it saturates (R6). -/
theorem Dev.get_bump_same (f : Fld) (n : Nat) (d : Dev) : (d.bump f n).get f = satAdd f.width (d.get f) n := by
  have : satAdd f.width (d.get f) n < 2 ^ f.width := by
    have := Nat.two_pow_pos f.width
    unfold satAdd
    omega
  simp [Dev.bump, wrap_of_lt this]

@[simp] theorem Dev.get_emit (e : Emission) (f : Fld) (d : Dev) : (d.emit e).get f = d.get f := rfl
@[simp] theorem Dev.get_emits (es : List Emission) (f : Fld) (d : Dev) : (d.emits es).get f = d.get f := rfl
@[simp] theorem Dev.get_drawn (f : Fld) (d : Dev) : d.drawn.get f = d.get f := rfl
@[simp] theorem Dev.get_advance (t : Nat) (f : Fld) (d : Dev) : (d.advance t).get f = d.get f := rfl
@[simp] theorem Dev.get_setCom (k v : Nat) (f : Fld) (d : Dev) : (d.setCom k v).get f = d.get f := rfl

end Sys2Proof.Machine
end

