-- ==== Sys2Proof/Laws/Reports.lean ====
section
/-! SUPPORT. Laws/Reports.lean: counting an event, tracing and reporting to the Foghorn change the registers of those blocks alone. -/
namespace Sys2Proof.Machine

/-- A field of none of the blocks that count, trace and report: below the DBG, CNT and FOG blocks, and not GLB_IRQ. -/
def Fld.plain (f : Fld) : Prop := f.key < 0x0F000000 * 64 ∧ f.key / 64 ≠ 0x40

theorem Fld.plain.put {f g : Fld} (h : g.plain) (hf : ¬ f.plain) (v : Nat) (d : Dev) : (d.put f v).get g = d.get g :=
  Dev.get_put_other (fun e => hf (by unfold Fld.plain at *; rw [e]; exact h)) v d

theorem Fld.plain.flag {f g : Fld} (h : g.plain) (hf : ¬ f.plain) (d : Dev) : (d.flag f).get g = d.get g := h.put hf 1 d

theorem Fld.plain.bump {f g : Fld} (h : g.plain) (hf : ¬ f.plain) (n : Nat) (d : Dev) : (d.bump f n).get g = d.get g := h.put hf _ d

theorem not_plain_of_le {f : Fld} (h : 0x0F000000 * 64 ≤ f.key) : ¬ f.plain := fun p => absurd p.1 (by omega)

theorem get_ite {g : Fld} {c : Prop} [Decidable c] {a b : Dev} {x : Nat} (ha : a.get g = x) (hb : b.get g = x) : (if c then a else b).get g = x := by
  split
  · exact ha
  · exact hb

@[simp] theorem Dev.get_pfIrqBoth (v : Nat) (f : Fld) (d : Dev) : (d.pfIrqBoth v).get f = d.get f := rfl

@[simp] theorem Dev.get_pfIrqOwner (v : Nat) (f : Fld) (d : Dev) : (d.pfIrqOwner v).get f = d.get f := by
  unfold Dev.pfIrqOwner; split <;> rfl

theorem Dev.get_trace {g : Fld} (h : g.plain) (e : Bool) (b : Nat) (n : Option Nat) (r : TraceRec) (d : Dev) : (d.trace e b n r).get g = d.get g := by
  have b1 : ∀ x : Dev, (x.bump Reg.DBG_TRACE_LOST.count 1).get g = x.get g := fun x => h.bump (not_plain_of_le (by decide)) 1 x
  unfold Dev.trace
  cases n <;> cases e <;> dsimp only <;> (repeat' split) <;> first | rfl | exact b1 _

theorem Dev.get_fogFire {g : Fld} (h : g.plain) (r e : Bool) (d : Dev) : (d.fogFire r e).get g = d.get g := by
  have a : ∀ d : Dev, (({ d with gap := ⟨some (d.now + us (d.orZero Reg.FOG_CFG.irq_gap_us 1)), false, false⟩ } : Dev)).get g = d.get g := fun _ => rfl
  unfold Dev.fogFire
  refine (a _).trans ?_
  rw [h.put (f := Reg.FOG_STATUS.pending) (not_plain_of_le (by decide)), h.bump (f := Reg.FOG_IRQ.count) (not_plain_of_le (by decide))]
  cases r <;> cases e <;> simp [h.flag (f := Reg.GLB_IRQ.root_fault) (by unfold Fld.plain; decide), h.flag (f := Reg.GLB_IRQ.error_entry) (by unfold Fld.plain; decide)]

theorem Dev.get_fogEvent {g : Fld} (h : g.plain) (r e : Bool) (d : Dev) : (d.fogEvent r e).get g = d.get g := by
  unfold Dev.fogEvent
  split
  · split
    · exact h.flag (f := Reg.FOG_STATUS.pending) (not_plain_of_le (by decide)) d
    · exact Dev.get_fogFire h r e d
  · exact Dev.get_fogFire h r e d

theorem Dev.get_newRoot {g : Fld} (h : g.plain) (d : Dev) : d.newRoot.get g = d.get g := by
  unfold Dev.newRoot
  rw [Dev.get_fogEvent h, h.bump (f := Reg.FOG_ROOTS.count) (not_plain_of_le (by decide))]

theorem Dev.get_report {g : Fld} (h : g.plain) (r : FogReport) (d : Dev) : (d.report r).get g = d.get g := by
  have t := Dev.get_trace h false 2 none ⟨0x20, 16, [r.severity * 4 + r.cls, r.reporter, r.id, wrap 32 d.daymark]⟩ d
  have fg : ∀ (x : Dev) (y : Tab FogEntry), ({ x with fog := y } : Dev).get g = x.get g := fun _ _ => rfl
  unfold Dev.report
  dsimp only
  split
  · split
    · rw [Dev.get_newRoot h, fg, t]
    · rw [fg, t]
  · split
    · rw [h.bump (f := Reg.FOG_LOST.count) (not_plain_of_le (by decide)), t]
    · split
      · rw [Dev.get_newRoot h, h.flag (f := Reg.FOG_STATUS.root_lost) (not_plain_of_le (by decide)), h.bump (f := Reg.FOG_LOST.count) (not_plain_of_le (by decide)), t]
      · split
        · rw [Dev.get_newRoot h, fg, t]
        · split
          · rw [Dev.get_fogEvent h, fg, t]
          · rw [fg, t]

theorem Dev.get_reportUnit {g : Fld} (h : g.plain) (k i v : Nat) (d : Dev) : (d.reportUnit k i v).get g = d.get g := Dev.get_report h _ d
theorem Dev.get_reportHub {g : Fld} (h : g.plain) (k i v : Nat) (d : Dev) : (d.reportHub k i v).get g = d.get g := Dev.get_report h _ d
theorem Dev.get_reportKeeper {g : Fld} (h : g.plain) (k i : Nat) (d : Dev) : (d.reportKeeper k i).get g = d.get g := Dev.get_report h _ d

/-! ### Counters -/

theorem Dev.get_overflow {g : Fld} (h : g.plain) (c : CounterRef) (n m : Nat) (d : Dev) : (d.overflow c n m).get g = d.get g := by
  have k : ∀ (f : Fld) (v : Nat) (d : Dev), 0x0F000000 * 64 ≤ f.key → (d.put f v).get g = d.get g := fun f v d hf => h.put (not_plain_of_le hf) v d
  cases c with
  | chip i =>
    unfold Dev.overflow; dsimp only
    exact get_ite ((Dev.get_pfIrqOwner ..).trans (k _ _ _ (by decide))) (k _ _ _ (by decide))
  | core c i =>
    have e0 : 0x0F000000 * 64 ≤ (Reg.CNT_COVF.overflow c).key := by unfold Fld.key Reg.CNT_COVF.overflow; dsimp only; omega
    have e1 : 0x0F000000 * 64 ≤ (Reg.CNT_CSAMP.valid c).key := by unfold Fld.key Reg.CNT_CSAMP.valid; dsimp only; omega
    have e2 : 0x0F000000 * 64 ≤ (Reg.CNT_CSAMP.counter c).key := by unfold Fld.key Reg.CNT_CSAMP.counter; dsimp only; omega
    have e3 : 0x0F000000 * 64 ≤ (Reg.CNT_CSAMP.step c).key := by unfold Fld.key Reg.CNT_CSAMP.step; dsimp only; omega
    have e4 : 0x0F000000 * 64 ≤ (Reg.CNT_CSAMP.command c).key := by unfold Fld.key Reg.CNT_CSAMP.command; dsimp only; omega
    unfold Dev.overflow; dsimp only
    have x : ∀ (c' : Prop) [Decidable c'] (v : Nat) (w : Nat) (d : Dev),
        (if c' then (d.put (Reg.CNT_COVF.overflow c) w).pfIrqOwner v else d.put (Reg.CNT_COVF.overflow c) w).get g = d.get g := fun _ _ v w d =>
      get_ite ((Dev.get_pfIrqOwner ..).trans (k _ _ _ e0)) (k _ _ _ e0)
    refine get_ite ?_ (x ..)
    rw [k _ _ _ e4, k _ _ _ e3, k _ _ _ e2, k _ _ _ e1]
    exact x ..

theorem cnt_not_plain (c : CounterRef) : ¬ (cntRegs c).count.plain := by
  cases c <;> apply not_plain_of_le
  · unfold cntRegs Fld.key Reg.CNT_C.count; dsimp only; omega
  · unfold cntRegs Fld.key Reg.CNT_CC.count; dsimp only; omega

theorem Dev.get_cntAdd {g : Fld} (h : g.plain) (n m fuel : Nat) (c : CounterRef) (d : Dev) : (Dev.cntAdd n m fuel c d).get g = d.get g := by
  induction fuel generalizing c d with
  | zero => rfl
  | succ k ih =>
    unfold Dev.cntAdd; dsimp only
    split
    · exact h.put (cnt_not_plain c) _ d
    · have e : ((d.put (cntRegs c).count 0).overflow c n m).get g = d.get g := by rw [Dev.get_overflow h, h.put (cnt_not_plain c)]
      split
      · split
        · rw [ih, e]
        · exact e
      · exact e

theorem get_foldl {α : Type} {g : Fld} (f : Dev → α → Dev) (hf : ∀ d a, (f d a).get g = d.get g) (l : List α) (d : Dev) : (l.foldl f d).get g = d.get g := by
  induction l generalizing d with
  | nil => rfl
  | cons a l ih => rw [List.foldl_cons, ih, hf]

theorem Dev.get_event {g : Fld} (h : g.plain) (core : Option Nat) (e : CntEvent) (d : Dev) : (d.event core e).get g = d.get g := by
  have a : ∀ (fuel : Nat) (c : CounterRef) (d : Dev), (if d.counts c e then d.cntAdd 0 0 fuel c else d).get g = d.get g := by
    intro fuel c d; split
    · exact Dev.get_cntAdd h ..
    · rfl
  unfold Dev.event
  split
  · cases core with
    | none => exact get_foldl _ (fun d k => a 64 (.chip k) d) _ _
    | some c => exact (get_foldl _ (fun d k => a 16 (.core c k) d) _ _).trans (get_foldl _ (fun d k => a 64 (.chip k) d) _ _)
  · rfl

/-! ### The parts that reporting and counting may change -/

/-- What a report may change: registers, the Foghorn's entries and gap, the trace queues, and what the device has sent. -/
def Dev.Reported (d e : Dev) : Prop :=
  ∃ rs la fo ga ou, e = { d with regs := rs, lantern := la, fog := fo, gap := ga, out := ou }

theorem Dev.Reported.refl (d : Dev) : d.Reported d := ⟨_, _, _, _, _, rfl⟩

theorem Dev.Reported.trans {a b c : Dev} (h : a.Reported b) (k : b.Reported c) : a.Reported c := by
  obtain ⟨_, _, _, _, _, rfl⟩ := h
  obtain ⟨_, _, _, _, _, rfl⟩ := k
  exact ⟨_, _, _, _, _, rfl⟩

theorem Dev.Reported.ite {c : Prop} [Decidable c] {d x y : Dev} (a : d.Reported x) (b : d.Reported y) : d.Reported (if c then x else y) := by
  split
  · exact a
  · exact b

theorem Dev.reported_put (f : Fld) (v : Nat) (d : Dev) : d.Reported (d.put f v) := ⟨_, _, _, _, _, rfl⟩

theorem Dev.reported_trace (e : Bool) (b : Nat) (n : Option Nat) (r : TraceRec) (d : Dev) : d.Reported (d.trace e b n r) := by
  have x : ∀ l : Lantern, d.Reported { d with lantern := l } := fun _ => ⟨_, _, _, _, _, rfl⟩
  unfold Dev.trace
  exact .ite (.ite (x _) ((x _).trans (Dev.reported_put ..))) (.refl d)

theorem Dev.reported_fogFire (r e : Bool) (d : Dev) : d.Reported (d.fogFire r e) := by
  have g : ∀ (d : Dev) (x : FogGap), d.Reported { d with gap := x } := fun _ _ => ⟨_, _, _, _, _, rfl⟩
  have f : ∀ (c : Prop) [Decidable c] (x : Fld) (d : Dev), d.Reported (if c then d.flag x else d) := fun c _ x d =>
    .ite (Dev.reported_put ..) (.refl d)
  have o : d.Reported (d.pfIrqBoth 0) := ⟨_, _, _, _, _, rfl⟩
  unfold Dev.fogFire; dsimp only
  exact ((((o.trans (f ..)).trans (f ..)).trans (Dev.reported_put ..)).trans (Dev.reported_put ..)).trans (g ..)

theorem Dev.reported_fogEvent (r e : Bool) (d : Dev) : d.Reported (d.fogEvent r e) := by
  unfold Dev.fogEvent
  split
  · split
    · exact ⟨_, _, _, _, _, rfl⟩
    · exact Dev.reported_fogFire ..
  · exact Dev.reported_fogFire ..

theorem Dev.reported_newRoot (d : Dev) : d.Reported d.newRoot := (Dev.reported_put ..).trans (Dev.reported_fogEvent ..)

/-- A report to the Foghorn changes those parts alone (R562, R563). -/
theorem Dev.reported_report (r : FogReport) (d : Dev) : d.Reported (d.report r) := by
  have x : ∀ (d : Dev) (t : Tab FogEntry), d.Reported { d with fog := t } := fun _ _ => ⟨_, _, _, _, _, rfl⟩
  unfold Dev.report; dsimp only
  have t := Dev.reported_trace false 2 none ⟨0x20, 16, [r.severity * 4 + r.cls, r.reporter, r.id, wrap 32 d.daymark]⟩ d
  refine t.trans ?_
  generalize Dev.trace _ _ _ _ _ = e at t ⊢
  split
  · exact .ite ((x _ _).trans (Dev.reported_newRoot _)) (x _ _)
  · refine .ite (Dev.reported_put ..) ?_
    split
    · exact ((Dev.reported_put ..).trans (Dev.reported_put ..)).trans (Dev.reported_newRoot _)
    · exact .ite ((x _ _).trans (Dev.reported_newRoot _)) (.ite ((x _ _).trans (Dev.reported_fogEvent ..)) (x _ _))
theorem Dev.reported_foldl {α : Type} (f : Dev → α → Dev) (h : ∀ (d : Dev) (a : α), d.Reported (f d a)) (l : List α) (d : Dev) : d.Reported (l.foldl f d) := by
  induction l generalizing d with
  | nil => exact .refl d
  | cons a l ih => exact (h d a).trans (ih _)

theorem Dev.reported_overflow (c : CounterRef) (n m : Nat) (d : Dev) : d.Reported (d.overflow c n m) := by
  have o : ∀ (v : Nat) (d : Dev), d.Reported (d.pfIrqOwner v) := by
    intro v d; unfold Dev.pfIrqOwner; split
    · exact ⟨_, _, _, _, _, rfl⟩
    · exact .refl d
  have p := fun f v d => Dev.reported_put f v d
  cases c with
  | chip i => exact .ite ((p _ _ _).trans (o _ _)) (p _ _ _)
  | core c i =>
    unfold Dev.overflow; dsimp only
    have x : ∀ (c' : Prop) [Decidable c'] (v : Nat), d.Reported
      (if c' then (d.put (Reg.CNT_COVF.overflow c) (d.get (Reg.CNT_COVF.overflow c) ||| 2 ^ i)).pfIrqOwner v else d.put (Reg.CNT_COVF.overflow c) (d.get (Reg.CNT_COVF.overflow c) ||| 2 ^ i)) := fun _ _ v =>
      .ite ((p _ _ _).trans (o v _)) (p _ _ _)
    exact .ite (((((x ..).trans (p _ _ _)).trans (p _ _ _)).trans (p _ _ _)).trans (p _ _ _)) (x ..)

/-- Counting an event changes registers, and may send an interrupt (R539, R544). -/
theorem Dev.reported_cntAdd (n m fuel : Nat) (c : CounterRef) (d : Dev) : d.Reported (Dev.cntAdd n m fuel c d) := by
  induction fuel generalizing c d with
  | zero => exact .refl d
  | succ k ih =>
    unfold Dev.cntAdd; dsimp only
    refine .ite (Dev.reported_put ..) ?_
    have e := (Dev.reported_put (cntRegs c).count 0 d).trans (Dev.reported_overflow c n m _)
    split
    · exact .ite (e.trans (ih ..)) e
    · exact e

theorem Dev.reported_event (core : Option Nat) (e : CntEvent) (d : Dev) : d.Reported (d.event core e) := by
  have a : ∀ (fuel : Nat) (c : CounterRef) (d : Dev), d.Reported (if d.counts c e then d.cntAdd 0 0 fuel c else d) := fun fuel c d =>
    .ite (Dev.reported_cntAdd ..) (.refl d)
  unfold Dev.event
  refine .ite ?_ (.refl d)
  cases core with
  | none => exact Dev.reported_foldl _ (fun d k => a 64 (.chip k) d) _ _
  | some c => exact (Dev.reported_foldl _ (fun d k => a 64 (.chip k) d) _ _).trans (Dev.reported_foldl _ (fun d k => a 16 (.core c k) d) _ _)

theorem Dev.Reported.now {d e : Dev} (h : d.Reported e) : e.now = d.now := by obtain ⟨_, _, _, _, _, rfl⟩ := h; rfl
theorem Dev.Reported.daymark {d e : Dev} (h : d.Reported e) : e.daymark = d.daymark := by obtain ⟨_, _, _, _, _, rfl⟩ := h; rfl
theorem Dev.Reported.freeCtr {d e : Dev} (h : d.Reported e) : e.freeCtr = d.freeCtr := by obtain ⟨_, _, _, _, _, rfl⟩ := h; rfl
theorem Dev.Reported.own {d e : Dev} (h : d.Reported e) : e.own = d.own := by obtain ⟨_, _, _, _, _, rfl⟩ := h; rfl
theorem Dev.Reported.que {d e : Dev} (h : d.Reported e) : e.que = d.que := by obtain ⟨_, _, _, _, _, rfl⟩ := h; rfl
theorem Dev.Reported.peers {d e : Dev} (h : d.Reported e) : e.peers = d.peers := by obtain ⟨_, _, _, _, _, rfl⟩ := h; rfl
theorem Dev.Reported.qps {d e : Dev} (h : d.Reported e) : e.qps = d.qps := by obtain ⟨_, _, _, _, _, rfl⟩ := h; rfl
theorem Dev.Reported.mctp {d e : Dev} (h : d.Reported e) : e.mctp = d.mctp := by obtain ⟨_, _, _, _, _, rfl⟩ := h; rfl
theorem Dev.Reported.ports {d e : Dev} (h : d.Reported e) : e.ports = d.ports := by obtain ⟨_, _, _, _, _, rfl⟩ := h; rfl
theorem Dev.Reported.keepers {d e : Dev} (h : d.Reported e) : e.keepers = d.keepers := by obtain ⟨_, _, _, _, _, rfl⟩ := h; rfl
theorem Dev.Reported.tap {d e : Dev} (h : d.Reported e) : e.tap = d.tap := by obtain ⟨_, _, _, _, _, rfl⟩ := h; rfl
theorem Dev.Reported.sec {d e : Dev} (h : d.Reported e) : e.sec = d.sec := by obtain ⟨_, _, _, _, _, rfl⟩ := h; rfl
theorem Dev.Reported.ses {d e : Dev} (h : d.Reported e) : e.ses = d.ses := by obtain ⟨_, _, _, _, _, rfl⟩ := h; rfl
theorem Dev.Reported.loc {d e : Dev} (h : d.Reported e) : e.loc = d.loc := by obtain ⟨_, _, _, _, _, rfl⟩ := h; rfl
theorem Dev.Reported.srv {d e : Dev} (h : d.Reported e) : e.srv = d.srv := by obtain ⟨_, _, _, _, _, rfl⟩ := h; rfl
theorem Dev.Reported.comp {d e : Dev} (h : d.Reported e) : e.comp = d.comp := by obtain ⟨_, _, _, _, _, rfl⟩ := h; rfl
theorem Dev.Reported.pool {d e : Dev} (h : d.Reported e) : e.pool = d.pool := by obtain ⟨_, _, _, _, _, rfl⟩ := h; rfl
theorem Dev.Reported.media {d e : Dev} (h : d.Reported e) : e.media = d.media := by obtain ⟨_, _, _, _, _, rfl⟩ := h; rfl
theorem Dev.Reported.boot {d e : Dev} (h : d.Reported e) : e.boot = d.boot := by obtain ⟨_, _, _, _, _, rfl⟩ := h; rfl
theorem Dev.Reported.eng {d e : Dev} (h : d.Reported e) : e.eng = d.eng := by obtain ⟨_, _, _, _, _, rfl⟩ := h; rfl
theorem Dev.Reported.sel {d e : Dev} (h : d.Reported e) : e.sel = d.sel := by obtain ⟨_, _, _, _, _, rfl⟩ := h; rfl
theorem Dev.Reported.tok {d e : Dev} (h : d.Reported e) : e.tok = d.tok := by obtain ⟨_, _, _, _, _, rfl⟩ := h; rfl
theorem Dev.Reported.grm {d e : Dev} (h : d.Reported e) : e.grm = d.grm := by obtain ⟨_, _, _, _, _, rfl⟩ := h; rfl
theorem Dev.Reported.idx {d e : Dev} (h : d.Reported e) : e.idx = d.idx := by obtain ⟨_, _, _, _, _, rfl⟩ := h; rfl
theorem Dev.Reported.ckpt {d e : Dev} (h : d.Reported e) : e.ckpt = d.ckpt := by obtain ⟨_, _, _, _, _, rfl⟩ := h; rfl
theorem Dev.Reported.lens {d e : Dev} (h : d.Reported e) : e.lens = d.lens := by obtain ⟨_, _, _, _, _, rfl⟩ := h; rfl

end Sys2Proof.Machine
end

