-- ==== Sys2Proof/WellFormed.lean ====
section
/-!
DEFINITION. WellFormed.lean: the operands of a command fit the fields that carry them, and name parts that the device has.
-/
namespace Sys2Proof

/-- A value below a bound. -/
def below (b n : Nat) : Bool := decide (n < b)

/-- An entry's header (R493, R497): its queue, command ID and cookie. -/
def hdrWf (h : EntryHdr) : Bool := (match h.src with | .queue q => below 16384 q | _ => true) && below 65536 h.cid && below (2 ^ 64) h.cookie

/-- The fields of an image load (R186, R261); `host` is what host memory holds where the command reads it. -/
def loadWf (h : EntryHdr) (id sectors kind source length : Nat) (host : List Byte) : Bool :=
  hdrWf h && below 256 id && below 65536 sectors && below 2 kind && below (2 ^ 64) source && below (2 ^ 64) length && (kind != 0 || host.length == length)

/-- A function (R498). -/
def fnWf : Fn → Bool
  | .pf => true
  | .vf n => below 16 n

/-- An access (R3, R4, R571 to R573): four or eight bytes inside the BAR. -/
def accessWf (a : RegAccess) : Bool := fnWf a.fn && (a.bytes == 4 || a.bytes == 8) && below (if a.bar2 then 65536 else 2 ^ 28) a.off

/-- A status code that a device returns (R8, R9): ST_OK, a general code, or one of the high bytes 0x01 to 0x0B with a low byte other than 0. -/
def statusWf (st : Nat) : Bool := below 0x0C00 st && (st == 0 || st % 256 != 0)

/-- A recomposition message (R345). -/
def compMsgWf (m : CompMsg) : Bool := below 65536 m.newEpoch && below 65536 m.present && statusWf m.status

/-- A checkpoint message (R399). -/
def ckptMsgWf (m : CkptMsg) : Bool := below 65536 m.sectors && below 65536 m.groupId && statusWf m.status && below (2 ^ 64) m.seq

/-- A session command (R91). -/
def sesCmdWf (c : SesCmd) : Bool :=
  hdrWf c.hdr && below (2 ^ 32) c.sid && below 65536 c.expectGen && below 65536 c.peerGroup && below 65536 c.peerChip

/-- A session control message (R93). -/
def sesMsgWf (m : SesMsg) : Bool := below (2 ^ 32) m.sid && below 65536 m.gen && statusWf m.status && below 256 m.opcode

/-- A TURN entry (R205). -/
def turnWf (e : TurnEntry) : Bool :=
  hdrWf e.hdr && below (2 ^ 32) e.sid && below 65536 e.account && below 16 e.vocab && below 64 e.grammarId && below 16384 e.egress && below 65536 e.mapEpoch

/-- A pool request (R353). -/
def poolReqWf (r : PoolReq) : Bool := below 256 r.op && below 65536 r.host && below (2 ^ 32) r.handle && below (2 ^ 32) r.auxHandle && below 65536 r.mapEpoch

/-- An extent command (R352). -/
def extentWf (c : ExtentCmd) : Bool := hdrWf c.hdr && below 65536 c.host && below 256 c.tier && below 256 c.rights && below (2 ^ 32) c.handle && below (2 ^ 64) c.bytes

/-- A segment header flit (R219). -/
def segWf (f : SegFlit) : Bool := below 16 f.sector && below 65536 f.mapEpoch

/-- A ROW flit (R219). -/
def rowWf (f : RowFlit) : Bool := below (2 ^ 32) f.sid && below 65536 f.account && statusWf f.status

/-- A Lemdin frame's header (R501). -/
def frameWf (f : LinkFrame) : Bool := below 8 f.port && below 16 f.cls && below 4096 f.seq && below 4096 f.ack && below 4 f.pool && below 4 f.credits

/-- The fields of QUEUE_CREATE (R497). -/
def queueWf (q : QueueSpec) : Bool := below 65536 q.queue && below 256 q.kind && below 256 q.location && below 256 q.ringLog2

/-- The channel of a security message (R467): DOE of a port, or MCTP. -/
def channelWf (c : SecChannel) : Bool := below 3 c.transport && fnWf c.fn

/-- A counter (R539). -/
def counterWf : CounterRef → Bool
  | .chip k => below 64 k
  | .core c k => below 32 c && below 16 k

/-- A debug token (R475). -/
def tokenWf (t : DebugToken) : Bool := below 65536 t.magic && below 256 t.level && below 65536 t.chipId

/-- Is a command well formed? A command that is not stands for no event of the device. -/
def Instr.wf : Instr → Bool
  | .registerWrite a value late => accessWf a && below (2 ^ 64) value && below (2 ^ 64) late
  | .rcCounterRead a _ => accessWf a
  | .bar0BadAccess a _ => accessWf a
  | .idxEpochRead a => accessWf a
  | .glbScratchLock _ _ => true
  | .sesCommit _ _ => true
  | .selCommit _ _ => true
  | .idxCommit _ _ => true
  | .sctCommit _ _ => true
  | .lensCommit _ _ => true
  | .coreSeqCfgWrite _ core _ _ => below 32 core
  | .commitFallbackTimer _ => true
  | .sesQueryGo _ => true
  | .sesQueryDone => true
  | .parkWarm c => sesCmdWf c
  | .parkCold c => sesCmdWf c
  | .revive c => sesCmdWf c
  | .moveOut c => sesCmdWf c
  | .moveIn c _ _ _ => sesCmdWf c
  | .moveCommit c => sesCmdWf c
  | .moveAbort c => sesCmdWf c
  | .drop c => sesCmdWf c
  | .prepare m _ _ => sesMsgWf m
  | .go m => sesMsgWf m
  | .sessionWorkComplete sid _ => below (2 ^ 32) sid
  | .done m _ => sesMsgWf m
  | .sesCancel m => sesMsgWf m
  | .lose m => sesMsgWf m
  | .final m => sesMsgWf m
  | .sessionMsgResend sid _ => below (2 ^ 32) sid
  | .coordPassFail sid _ => below (2 ^ 32) sid
  | .sessionSlotAdmit _ => true
  | .pageMigrationStart sid _ _ _ => below (2 ^ 32) sid
  | .pageMigrationSwitch sid _ _ _ => below (2 ^ 32) sid
  | .partLossRebuild sid _ => below (2 ^ 32) sid
  | .gemm core img => below 32 core && below 32 img
  | .gemmGated core img => below 32 core && below 32 img
  | .gemmGather core img => below 32 core && below 32 img
  | .norm core img => below 32 core && below 32 img
  | .rope core img => below 32 core && below 32 img
  | .elemwise core img => below 32 core && below 32 img
  | .attnFwd core img _ => below 32 core && below 32 img
  | .attnBwd core img _ => below 32 core && below 32 img
  | .kvAppend core img _ => below 32 core && below 32 img
  | .recur core img => below 32 core && below 32 img
  | .distTable core _ => below 32 core
  | .adapt core img => below 32 core && below 32 img
  | .engineFail core _ _ => below 32 core
  | .commandComplete core img _ _ => below 32 core && below 32 img
  | .routeBuildDone sector _ _ => below 16 sector
  | .coreStepStart core _ _ _ => below 32 core
  | .coreStepEnd core _ => below 32 core
  | .refineIssue core img => below 32 core && below 32 img
  | .stepWatchdogExpiry core _ => below 32 core
  | .stepBoundary sector _ _ => below 16 sector
  | .imageLoad hdr sector kind source length host _ => loadWf hdr sector 0 kind source length host && below 256 sector
  | .imageActivate hdr sector _ => hdrWf hdr && below 256 sector
  | .imageActivateTimer sector _ => below 16 sector
  | .imageDiscard hdr sector => hdrWf hdr && below 256 sector
  | .imageUnload hdr sector => hdrWf hdr && below 256 sector
  | .turn e _ _ => turnWf e
  | .turnText hdr sid _ _ _ _ => hdrWf hdr && below (2 ^ 32) sid
  | .cancel hdr sid _ => hdrWf hdr && below (2 ^ 32) sid
  | .headStepStart sector _ _ => below 16 sector
  | .seg f => segWf f
  | .row f sector _ _ => rowWf f && below 16 sector
  | .digest sector _ sid _ => below 16 sector && below (2 ^ 32) sid
  | .data sector _ _ _ _ _ => below 16 sector
  | .tokens sector _ e => below 16 sector && below (2 ^ 32) e.sid && statusWf e.status
  | .egressRecordSend q _ => below 16384 q
  | .warmParkTimer sid _ => below (2 ^ 32) sid
  | .coldParkCheck _ => true
  | .selJobDone core img _ _ => below 32 core && below 32 img
  | .selMerge _ _ _ _ => true
  | .vocabLoad hdr id sectors kind source length host _ _ => loadWf hdr id sectors kind source length host
  | .vocabUnload hdr id _ => hdrWf hdr && below 256 id
  | .grammarLoad hdr id sectors kind source length host _ _ => loadWf hdr id sectors kind source length host
  | .grammarUnload hdr id _ => hdrWf hdr && below 256 id
  | .tokenSlotTimer _ => true
  | .bulkStart _ _ _ _ _ _ => true
  | .bulk _ _ _ _ => true
  | .tokenizeEntry _ => true
  | .turnCfg _ => true
  | .maskJobStart sector _ _ => below 16 sector
  | .grmSliceEnd _ => true
  | .maskReady sector _ _ => below 16 sector
  | .indexCreate hdr index _ _ _ _ => hdrWf hdr && below 256 index
  | .indexDrop hdr index => hdrWf hdr && below 256 index
  | .vecQuery hdr _ _ _ => hdrWf hdr
  | .vecInsert hdr index _ _ _ _ _ => hdrWf hdr && below 256 index
  | .vecDelete hdr index _ => hdrWf hdr && below 256 index
  | .queryBatchTimer sector _ => below 16 sector
  | .tableWaitTimer core _ => below 32 core
  | .queryRoundDone _ _ => true
  | .insertWritePhase index _ => below 64 index
  | .repairSweep index _ => below 64 index
  | .nodeSlotFree index _ => below 64 index
  | .sectorCompose hdr map => hdrWf hdr && map.length == 1088
  | .composeReq m _ => compMsgWf m
  | .compose m _ => compMsgWf m
  | .switch m _ => compMsgWf m
  | .composeCancel m => compMsgWf m
  | .mapDrainDone => true
  | .graceExpiry _ => true
  | .extentCreate c => extentWf c
  | .extentShare c => extentWf c
  | .extentRevoke c _ => extentWf c
  | .grantDestroy extent host _ => below 65536 extent && below 65536 host
  | .poolRead r _ => poolReqWf r
  | .poolWrite r _ => poolReqWf r
  | .poolFill r _ => poolReqWf r
  | .poolCopy r _ => poolReqWf r
  | .poolCompare r _ => poolReqWf r
  | .poolReduce r _ => poolReqWf r
  | .poolPublish r _ => poolReqWf r
  | .poolHandover r _ => poolReqWf r
  | .poolRelease r _ => poolReqWf r
  | .poolQueueRelease r _ => poolReqWf r
  | .poolResponse p => statusWf p.status
  | .publishWindowEnd extent _ => below 65536 extent
  | .handoverOverlapEnd extent _ => below 65536 extent
  | .codeMemberTimeout sid _ _ => below (2 ^ 32) sid
  | .lensSlotVisit slot _ => below 4096 slot
  | .sampleSweep _ => true
  | .ckptTake hdr _ _ _ _ _ => hdrWf hdr
  | .ckptRestore hdr _ _ _ _ _ _ _ => hdrWf hdr
  | .ckptIntervalTimer _ _ _ => true
  | .quiesce m _ => ckptMsgWf m
  | .ckptReady m _ => ckptMsgWf m
  | .quiesceTimeout _ => true
  | .cut m _ => ckptMsgWf m
  | .chipCut _ => true
  | .ckptCopy _ _ _ => true
  | .dedupListTimeout _ => true
  | .report m _ _ _ st _ => ckptMsgWf m && statusWf st
  | .ckptCommit m _ => ckptMsgWf m
  | .abandon m => ckptMsgWf m
  | .restoreCommit _ _ _ _ status => statusWf status
  | .stackTempEvent stack _ => below 12 stack
  | .scrubPass stack chan _ _ _ _ _ _ => below 12 stack && below 128 chan
  | .stkSpareStart _ stack chan => below 12 stack && below 128 chan
  | .channelSpareDone stack => below 12 stack
  | .flashProgramDone sector _ _ _ => below 18 sector
  | .flashGc _ _ _ _ => true
  | .wearLevel _ _ => true
  | .readDisturbRelocate _ _ _ _ _ => true
  | .retentionScan _ _ _ _ _ => true
  | .tableFlush _ => true
  | .flashChannelLost chan => below 32 chan
  | .anchorSet ch _ _ => channelWf ch
  | .hostKeySet ch host _ => channelWf ch && below 256 host
  | .domainSeedSet ch _ _ _ => channelWf ch
  | .svnCommit ch _ => channelWf ch
  | .debugChallenge ch => channelWf ch
  | .debugUnlock ch tok _ => channelWf ch && tokenWf tok
  | .evidencePq ch _ _ => channelWf ch
  | .getVersion ch => channelWf ch
  | .getCapabilities ch => channelWf ch
  | .negotiateAlgorithms ch _ _ _ => channelWf ch
  | .getDigests ch => channelWf ch
  | .getCertificate ch _ => channelWf ch
  | .challenge ch _ => channelWf ch
  | .getMeasurements ch _ => channelWf ch
  | .keyExchange ch _ _ _ => channelWf ch
  | .finish ch _ => channelWf ch
  | .heartbeat ch => channelWf ch
  | .keyUpdate ch => channelWf ch
  | .endSession ch => channelWf ch
  | .keyProg ch port _ _ _ => channelWf ch && below 2 port
  | .kSetGo ch port _ _ => channelWf ch && below 2 port
  | .kSetStop ch port _ _ => channelWf ch && below 2 port
  | .ideKmQuery ch port => channelWf ch && below 2 port
  | .ideCheckFail port _ => below 2 port
  | .getTdispVersion ch tdi => channelWf ch && below 32 tdi
  | .getTdispCapabilities ch tdi => channelWf ch && below 32 tdi
  | .lockInterfaceRequest ch tdi => channelWf ch && below 32 tdi
  | .getDeviceInterfaceReport ch tdi => channelWf ch && below 32 tdi
  | .getDeviceInterfaceState ch tdi => channelWf ch && below 32 tdi
  | .startInterfaceRequest ch tdi => channelWf ch && below 32 tdi
  | .stopInterfaceRequest ch tdi => channelWf ch && below 32 tdi
  | .tapSecChal => true
  | .tapSecToken tok _ => tokenWf tok
  | .frzData _ _ => true
  | .extest _ => true
  | .ownClaim _ value _ => below (2 ^ 32) value
  | .claimWindowEnd _ => true
  | .ownHeartbeat _ _ => true
  | .heartbeatLapse _ => true
  | .ownHandover _ target _ => below 4 target
  | .handoverTimeout _ => true
  | .queueCreate hdr q => hdrWf hdr && queueWf q
  | .queueDelete hdr q => hdrWf hdr && below 16384 q
  | .peerSet hdr _ _ => hdrWf hdr
  | .adminUnknownOpcode hdr opcode => hdrWf hdr && below 256 opcode
  | .queSqTail _ fn q tail => fnWf fn && below 16384 q && below 65536 tail
  | .queCqHead _ fn q _ => fnWf fn && below 16384 q
  | .rdmaDoorbell q tail _ => below 16384 q && below 65536 tail
  | .irqCoalesceTimer q _ => below 16384 q
  | .vfFlr port vf => below 2 port && below 16 vf
  | .pfFlr port _ => below 2 port
  | .surpriseLinkDown port _ => below 2 port
  | .pcieLinkReturn port _ _ _ => below 2 port
  | .perst port _ => below 2 port
  | .mctpClaim _ => true
  | .mctpHeartbeat _ => true
  | .mctpAdmin hdr => hdrWf hdr
  | .regread off _ _ => below (2 ^ 28) off
  | .regwrite off _ _ _ => below (2 ^ 28) off
  | .pldmRequest _ => true
  | .mctpControl command _ => below 256 command
  | .mctpLinkLoss _ => true
  | .linkFrame f => frameWf f
  | .nak port _ _ => below 8 port
  | .linkRetrain port _ => below 8 port
  | .portTrain port _ => below 8 port
  | .portTrainTimeout port _ => below 8 port
  | .ident port _ => below 8 port
  | .locQuery port _ _ _ _ _ => below 8 port
  | .locReply _ _ _ => true
  | .laneErrorThreshold port lane => below 8 port && below 4 lane
  | .laneDrop port lane => below 8 port && below 4 lane
  | .laneTrainRetry port lane _ _ => below 8 port && below 4 lane
  | .laneAdd port lane => below 8 port && below 4 lane
  | .linkDownTimer _ => true
  | .ethLinkDown port => below 2 port
  | .roceRetxTimeout _ => true
  | .ecnMarkedPacket _ => true
  | .cnp _ _ => true
  | .cnpRateRecover _ _ => true
  | .ptpSync _ _ => true
  | .powerOnReset _ _ => true
  | .resetN _ _ => true
  | .brownOut _ => true
  | .pwrCtrlReset _ _ => true
  | .recoveryLoad _ _ _ => true
  | .fwUpdate hdr _ _ => hdrWf hdr
  | .powerStateRequest _ _ => true
  | .powerEntryComplete _ _ => true
  | .wakeEvent _ _ _ _ => true
  | .comparatorMatch k _ _ _ => below 4 k
  | .quadIdleTimer quad _ => below 8 quad
  | .vcorePgFall => true
  | .powerStretchAdjust _ _ _ _ => true
  | .clkDaymarkSet _ value => below (2 ^ 64) value
  | .freeze _ => true
  | .counterOverflow c _ _ => counterWf c
  | .lanternFrame => true
  | .lanternSync _ => true
  | .debugMemRead _ => true
  | .fogEntryFree _ e _ => below 1024 e
  | .fogGapEnd _ => true
  | .keeperFailover k => below 10 k
  | .vcorePgRise _ _ => true
  | .vcorePgTimeout _ => true
  | .sequencerCheckFail core => below 32 core
  | .composeResend _ => true
  | .ckptMsgResend _ => true
  | .dedupDigestList _ _ => true
  | .tokenImageCheckReport _ _ status _ => statusWf status
  | .rdmaWriteAck q => below 16384 q
  | .ethLinkUp port => below 2 port

end Sys2Proof
end

