-- ==== Sys2Proof/Tests/Slice0.lean ====
section
/-!
SUPPORT. Tests/Slice0.lean: tests on single steps, and for each statement a concrete state and operands that meet its hypotheses.
-/
namespace Sys2Proof.Tests
open Sys2Proof.Machine
set_option Elab.async false


/-! ### Operands -/

/-- An entry of the device's own. -/
def hdr0 : EntryHdr := ⟨.internal, 1, false, 7⟩
/-- An access of port A to the PF's registers. -/
def acc (off : Nat) : RegAccess := ⟨.portA, .pf, false, off, 4⟩
/-- Operands that fit their fields: a session command, a message, a turn and so on. -/
def cmd0 : SesCmd := ⟨hdr0, 0x500, false, false, false, false, 0, 0, 0, 0, 0, 0, 0⟩
/-- The same. -/
def msg0 : SesMsg := ⟨1, 0x20, false, false, 0x500, 3, 0, 0, 0, 0, 0⟩
/-- The same. -/
def turn0 : TurnEntry := ⟨hdr0, 0x500, 0, 0, 0, false, 9, 0, [], 2, 1, 8, 0, 0, false, false, false, false, 0, 0, 0, 0, 0⟩
/-- The same. -/
def req0 (op : Nat) : PoolReq := ⟨op, 0, 5, 77, 1, 1, 0, 4, 1, 8, 0xAB, [1, 2, 3, 4, 5, 6, 7, 8], true⟩
/-- The same. -/
def ext0 : ExtentCmd := ⟨hdr0, 5, 1, 3, 1, 65536, 0⟩
/-- The same. -/
def queue0 : QueueSpec := ⟨600, 1, 0, 0, 4, 12, 0, 0x10000, 0x20000, 0x30000, 1, 0, 0⟩
/-- The same. -/
def chan0 : SecChannel := ⟨2, .pf, 1⟩
/-- The same. -/
def tok0 : DebugToken := ⟨0x5443, 1, 0, 0, ⟨0, 0, 0, true, true, 0⟩⟩
/-- The same. -/
def frame0 : LinkFrame := ⟨0, 1, 0, 0, 0, 0, false, false⟩

/-! ### A device in service -/

/-- An administration entry of the baseboard controller. -/
def hdrM : EntryHdr := ⟨.mctp, 1, false, 7⟩

/-- A SOLO chip in service, owned by the baseboard controller, with one administration entry that has come over MCTP. -/
def svc : Dev :=
  let d : Dev := (((Dev.reset.put Reg.PWR_BOOT.mode 1).put Reg.OWN_STATE.owner 3).put Reg.OWN_STATE.state 1).put Reg.OWN_CFG.priority 0x1B
  { d with mctp := ⟨true, 8, [hdrM], [hdrM]⟩ }

/-- The machine with a device changed from `svc`, and nothing in memory. -/
def sv (f : Dev → Dev) : State := { State.reset with dev := f svc }

/-- Sector 0 present, with four cores, tier 0, four chunks and a unit of tier 2, the session IDs to 0xFFFF and room for 100 Buoys. -/
def sec0 (d : Dev) : Dev :=
  let d : Dev := { d with comp := { d.comp with cur := ⟨1, [⟨true, false, false, 15, 16, 0, 4, 1, 1⟩], [(0, [0, 1, 2, 3])], [(0, [0])]⟩ } }
  ((d.setCom (Reg.SES_IDBASE.base 0).key 1).setCom (Reg.SES_IDLIM.limit 0).key 0xFFFF).setCom (Reg.SES_QUOTA.max_buoys 0).key 100

/-- The Buoy of session 0x500 in a state. -/
def buoy0 (st : Nat) : Buoy := Buoy.fresh 0x500 0 1 st

/-- Sector 0 with session 0x500 in a state. -/
def ses0 (st : Nat) (d : Dev) : Dev :=
  let d : Dev := sec0 d
  { d with ses := { d.ses with buoys := [(0, buoy0 st)], moors := [(0x500, Moor.empty)] } }

/-- An operation of a session command on session 0x500. -/
def op0 (op : Nat) (pass : Pass) : SesOp := { SesOp.start op { cmd0 with hdr := hdrM } none (slotFor op 3) 0 true with seq := 3, pass := pass }

/-- Sector 0 with session 0x500 in a state and an operation on it. -/
def ops0 (st op : Nat) (pass : Pass) (d : Dev) : Dev :=
  let d : Dev := ses0 st d
  { d with ses := { d.ses with ops := [(0x500, op0 op pass)] } }

/-- The same chip as a BODY of its group. -/
def body (d : Dev) : Dev := d.put Reg.GLB_ROLE.role 2

/-- An operand that a command does not use, and one of one element of a format in a core's SRAM. -/
def noOpnd : Operand := ⟨0, 15, 0, 0, 0, 0, 0, 0⟩
/-- The same. -/
def opnd (addr format : Nat) : Operand := ⟨addr, 0, format, 1, 1, 16, 8, 4⟩

/-- An engine command on elements of one byte, which waits on slot 1 where `wait` says so. -/
def eng0 (op : Nat) (wait : Bool) : EngCmd :=
  ⟨op, false, false, false, 0, 0, 0, 0, 0, 0, 0, 0, ⟨1, wait, 0, 0, false, 0, false, 0, false, false, 0, false, true⟩, opnd 0 0, opnd 256 0, noOpnd, opnd 512 0⟩

/-- A layer image of one image core with a command on its list. -/
def img0 (c : EngCmd) : Image :=
  { magic := 0, version := 0, sectionsOk := true, coreCount := 1, sections := [], recLayout := [], sig := ⟨0, 0, 0, true, true, 0⟩, beacon := false,
    modelRevision := 0, role := 0, groupSizeM1 := 0, position := 0, layerSlots := 1, kvHeads := 1, lps := 0, maxRows := 0, imageLength := 0,
    tier1Bytes := 0, tier0Bytes := 0, recBytes := 0, layerDigest := 0, slots := [], cores := [⟨0, [], [c], [c]⟩], blobs := [], relocs := [],
    segs := [⟨false, 2, 1, 0, 64⟩], moe := [⟨0, 0, 1, 0, 0, 0, 1, 0, 0⟩] }

/-- A row of a step for session 0x500. -/
def row0 : StepRow := ⟨0x500, 0, 0, 0, 1, false, false, true, false, 0, 0, false, 0, [], [], 0, [], 0, []⟩

/-- Step 7 of interleaved batch 1 with one row. -/
def step0 : Step := ⟨7, 1, 0, [row0], [], 1, 1, false, false, false, false, [], []⟩

/-- Session 0x500 in Sector 0, whose image runs on core 0, with step 7 of batch 1. -/
def core0 (c : EngCmd) (d : Dev) : Dev :=
  let d : Dev := ses0 2 d
  let d : Dev := d.secImgPut 0 { (d.secImg 0) with active := some (img0 c), hosts := [0], live := (img0 c).cores }
  { d with srv := { d.srv with batches := [(1, { Batch.empty with running := some step0 })] } }

/-- The same with core 0 in the step. -/
def inStep0 (c : EngCmd) (d : Dev) : Dev :=
  let d : Dev := ((core0 c d).put (Reg.CORE_STEP.running 0) 1)
  d.coreUpd 0 (fun r => { r with imgs := [(0, ImgRun.init)], stepNo := 7, rows := 1 })

/-- A queue of a kind at location 0, a function of Sector 0 behind port A. -/
def que0 (kind : Nat) : Queue :=
  ⟨kind, false, 0, 0, 12, 12, 0, 0x10000, 0x20000, 0x30000, 1, 0, 0, 0, 0, .running, 0, 0, [], 0, [], 0, [], 0, [], 0, 0, none⟩

/-- A signature of the anchor, which svc knows by the key ID 0. -/
def sig0 : Signature := ⟨1, 0, 0, true, true, 0⟩

/-- A vocabulary of one token. -/
def voc0 : VocabImage :=
  ⟨0x4B545A56, 1, true, sig0, false, false, false, 0, 0, [], 0, 0, none32, 0, 0, 5, [0], [([], [])], [⟨none32, 0, 0, 0⟩], [⟨none32, 0, 0, 0⟩], [], [], [],
    List.replicate 16 0, [⟨none32, 0, 0, 0⟩], [], [⟨none32, 0, 0, 0⟩]⟩

/-- A grammar of one state for that vocabulary. -/
def gram0 : GramImage := ⟨0x52475A56, 1, true, sig0, 0, 5, 1, 0, [⟨0, 0, true, true, 0⟩], [], [⟨0, [1], [], []⟩]⟩

/-- svc with the vocabulary resident in slot 0. -/
def voc (d : Dev) : Dev := { d with tok := { d.tok with vocabs := [(0, ⟨[], voc0, 1, .resident, 0, none⟩)] } }

/-- A tracked turn of session 0x500. -/
def track0 (st : TurnSt) : Turn :=
  ⟨⟨.queue 600, 1, false, 7, 0⟩, turn0, st, true, [⟨⟨.queue 600, 1, false, 7, 0⟩, [0x61], true, true, 0⟩], [], [], [], 0, 0, 0, [], 0, 0, 0, false⟩

/-- The text of a turn comes through request-ingress queue 600 of Sector 0; queue 601 is its egress queue. -/
def turns0 (d : Dev) : Dev :=
  let d : Dev := (voc (core0 (eng0 1 false) d)).put (Reg.QUE_SQ_TAIL.tail 600) 1
  let d : Dev := ((d.setCom (Reg.LENS_ACTL.enable 0).key 1).setCom (Reg.LENS_ACTL.unmetered 0).key 1)
  { d with que := [(600, que0 1), (601, que0 2)] }

/-- A TURN entry on queue 600. -/
def turnQ : TurnEntry := { turn0 with hdr := ⟨.queue 600, 1, false, 7⟩, egress := 601 }

/-- svc with Lemdin port 0 assigned to DOWN, in a state. -/
def port0 (st : Nat) (d : Dev) : Dev := (d.put Reg.GLB_PORTMAP.port_use 1).put (Reg.LNK_PORT.state 0) st

/-- A Light List signed by the anchor svc knows, for which no counter stands higher. -/
def light0 : LightList :=
  ⟨0x4C4C, 1, 4096, ⟨{ sig0 with signer := 0 }, true, 3⟩, ⟨sig0, 0, [], true, [], ⟨0, 0, 0, true, []⟩, [], [], [], 0⟩⟩

/-- The ROM's and the media's answers. -/
def env0 : RomEnv := ⟨true, true, 0⟩

/-- svc asleep in a state, with every wake source enabled. -/
def asleep (target : Nat) (d : Dev) : Dev :=
  let d : Dev := d.put Reg.PWR_WAKE_EN.sources 0x3F
  { d with boot := { d.boot with phase := .asleep target } }

/-- Extent 1 of host 5 with all rights, of tier 1. -/
def ext1 : Extent := ⟨0, true, 5, 1, 65536, true, 0, 0, [⟨5, 7, false, 0, []⟩], none, false, [], none, none⟩

/-- A pool request of 64 bytes of that host. -/
def req64 (op : Nat) : PoolReq := ⟨op, 0, 5, 77, 1, 1, 0, 64, 1, 64, 0xAB, List.replicate 64 0, true⟩

/-- svc with Sector 0 and an extent 1. -/
def pool0 (x : Extent) (d : Dev) : Dev := let d : Dev := sec0 d; { d with pool := { d.pool with extents := [(1, x)] } }

/-- An open index of Sector 0 with codes of 8 bytes, in tier 2. -/
def vec0 : VecIndex :=
  { idxHeader 0 0 (fun _ _ => 0) with
    base := tierAddr 2 0 0, units := 16, st := 2, metric := 0, c := 8, dim := 8, degree := 8, rpb := 85, recordBytes := 192, capacity := 85, entries := [],
    hwm := 0, blocksOff := 0x8000, vectorsOff := 0, alpha := 0x3F800000, buildL := 16, full := false }

/-- An administration entry of a virtual function of Sector 0. -/
def hdrQ : EntryHdr := ⟨.queue 602, 1, false, 7⟩

/-- Sector 0 with that queue, and index 0. -/
def idx0 (x : Option VecIndex) (d : Dev) : Dev :=
  let d : Dev := (sec0 d).put (Reg.QUE_SQ_TAIL.tail 602) 1
  { d with que := [(602, que0 0)], idx := { d.idx with idx := match x with | some x => [(0, x)] | none => [] } }

/-- A query of index 0 and its context in a phase. -/
def query0 : VecQuery := ⟨0, false, 1, 1, 1, 1, 0, 0, 64⟩
/-- The same. -/
def qctx0 (phase : Nat) : QueryCtx :=
  ⟨⟨.queue 602, 1, false, 7, 0⟩, false, query0, List.replicate 16 0, 0, [], (0, 0), (0, 0), [], [⟨0, 0, false⟩], [0], [], 0, 0, [], phase, false, false⟩

/-- A checkpoint under way, and a message of it. -/
def run0 : CkptRun := CkptRun.start 4 1 false true none 0
/-- The same. -/
def ckpt0 (kind : Nat) : CkptMsg := ⟨kind, false, 1, 0, 0, 4, 0, 0⟩

/-- Sector 0 with a checkpoint under way. -/
def cut0 (r : CkptRun) (d : Dev) : Dev := let d : Dev := sec0 d; { d with ckpt := { d.ckpt with run := some r } }


/-! ### Commands that are not well formed -/

theorem test_wf_ok : [Instr.registerWrite (acc 0x20000) 1 0, .parkWarm cmd0, .prepare msg0 none 0, .turn turn0 0 0, .poolRead (req0 1) 0,
    .extentCreate ext0, .queueCreate hdr0 queue0, .getVersion chan0, .linkFrame frame0].all Instr.wf = true := by decide

/-- One ill-formed command for each check that WellFormed makes of a field. -/
theorem test_wf_refused : [
    Instr.registerWrite ⟨.portA, .vf 16, false, 0, 4⟩ 0 0, .registerWrite ⟨.portA, .pf, false, 0, 2⟩ 0 0, .registerWrite ⟨.portA, .pf, false, 2 ^ 28, 4⟩ 0 0,
    .registerWrite ⟨.portA, .pf, true, 65536, 4⟩ 0 0, .registerWrite (acc 0) (2 ^ 64) 0,
    .imageDiscard ⟨.queue 16384, 0, false, 0⟩ 0, .imageDiscard ⟨.mctp, 65536, false, 0⟩ 0, .imageDiscard ⟨.mctp, 0, false, 2 ^ 64⟩ 0, .imageDiscard hdr0 256,
    .parkWarm { cmd0 with sid := 2 ^ 32 }, .parkWarm { cmd0 with expectGen := 65536 }, .parkWarm { cmd0 with peerGroup := 65536 },
    .parkWarm { cmd0 with peerChip := 65536 }, .go { msg0 with sid := 2 ^ 32 }, .go { msg0 with gen := 65536 }, .go { msg0 with status := 65536 },
    .go { msg0 with opcode := 256 }, .turn { turn0 with vocab := 16 } 0 0, .turn { turn0 with grammarId := 64 } 0 0, .turn { turn0 with egress := 16384 } 0 0,
    .poolRead { req0 1 with op := 256 } 0, .poolRead { req0 1 with host := 65536 } 0, .extentShare { ext0 with host := 65536 },
    .extentShare { ext0 with tier := 256 }, .queueCreate hdr0 { queue0 with kind := 256 }, .queueCreate hdr0 { queue0 with ringLog2 := 256 },
    .linkFrame { frame0 with port := 8 }, .linkFrame { frame0 with cls := 16 }, .linkFrame { frame0 with seq := 4096 }, .linkFrame { frame0 with pool := 4 },
    .getVersion ⟨3, .pf, 1⟩, .getVersion ⟨0, .vf 16, 1⟩, .counterOverflow (.chip 64) 0 0, .counterOverflow (.core 32 0) 0 0,
    .tapSecToken { tok0 with level := 256 } true, .gemm 32 0, .gemm 0 32, .vocabUnload hdr0 256 0, .grammarUnload hdr0 256 0, .vecDelete hdr0 256 0,
    .grantDestroy 65536 0 0, .lensSlotVisit 4096 0, .stackTempEvent 12 0, .scrubPass 0 128 0 [] [] [] false false, .flashProgramDone 18 0 0 true,
    .flashChannelLost 32, .keyProg chan0 2 0 0 0, .getTdispVersion chan0 32, .ownHandover .bmc 4 0, .adminUnknownOpcode hdr0 256,
    .queSqTail .portA .pf 0 65536, .queSqTail .portA (.vf 16) 0 0, .queCqHead .portA .pf 16384 0, .perst 2 0, .vfFlr 0 16, .regread (2 ^ 28) 4 0, .regwrite (2 ^ 28) 4 0 0,
    .vocabLoad hdr0 0 0 2 0 0 [] ⟨false, false, 0⟩ 0, .imageLoad hdr0 0 0 0 4 [] ⟨false, false, 0⟩, .go { msg0 with status := 0x0100 }, .go { msg0 with status := 0x0C01 },
    .sectorCompose hdr0 [], .tokenImageCheckReport false 0 0x0100 0,
    .mctpControl 256 0, .laneDrop 0 4, .comparatorMatch 4 true ⟨true, true, 0⟩ 0, .quadIdleTimer 8 0, .clkDaymarkSet .bmc (2 ^ 64),
    .fogEntryFree .bmc 1024 none, .keeperFailover 10].any Instr.wf = false := by decide

/-- No word spells a command: the table gives no row any bits. -/
theorem test_decode (n w : Nat) : decodeTableWord n w = none := rfl

/-! ### Arithmetic of the rules, on published or hand-worked values -/

/-- "123456789" in bytes, on which the parameters of a CRC are published. -/
def digits : List Byte := [0x31, 0x32, 0x33, 0x34, 0x35, 0x36, 0x37, 0x38, 0x39]

/-- CRC-64 of ECMA-182 (R550). -/
theorem test_crc64 : crc64 digits = 0x6C40DF5F0B497347 := by decide +kernel
/-- CRC-16 of CCITT with initial value 0xFFFF (R42). -/
theorem test_crc16 : crc16 digits = 0x29B1 := by decide +kernel
/-- SHA-256 of "abc", from FIPS 180-4. -/
theorem test_sha256 : sha256 [0x61, 0x62, 0x63] = leNat
    [0xBA, 0x78, 0x16, 0xBF, 0x8F, 0x01, 0xCF, 0xEA, 0x41, 0x41, 0x40, 0xDE, 0x5D, 0xAE, 0x22, 0x23,
     0xB0, 0x03, 0x61, 0xA3, 0x96, 0x17, 0x7A, 0x9C, 0xB4, 0x10, 0xFF, 0x61, 0xF2, 0x00, 0x15, 0xAD] := by decide +kernel
/-- The record of an index with c = 48 and R = 32 (R310). -/
theorem test_record_bytes : recordBytesOf 48 32 = 1856 := by decide
/-- Generations compare modulo 2^16 (R71). -/
theorem test_gen_older : genOlder 0xFFFF 2 = true ∧ genOlder 2 0xFFFF = false ∧ genOlder 7 7 = false ∧ genOlder 0 0x8000 = false := by decide

/-! ### Witnesses: the block and its registers -/

theorem witness_EmptyQueueTicks : (sv id).pending = [] ∧ (sv id).dev.boot.phase = .run ∧
    (sv (fun d => { d with boot := { d.boot with phase := .asleep 3 } })).dev.boot.phase = .asleep 3 ∧
    (sv (fun d => { d with boot := { d.boot with phase := .asleep 4 } })).dev.boot.phase = .asleep 4 := by decide +kernel

theorem witness_StepKeepsMemoryCanonical : State.reset.safe ∧ step State.reset = .next { State.reset with dev := State.reset.dev.idleTick } := by
  refine ⟨?_, ?_⟩
  · unfold State.safe; decide +kernel
  · rfl

theorem witness_OutsideEveryWindow : (sv id).dev.answers = true ∧ 0x0FFFFFF8 % 4 = 0 ∧ 0x0FFFFFF8 % 8 = 0 ∧
    (sv id).dev.visible .bmc .pf 0x0FFFFFF8 = false ∧
    (let r : State := sv (fun d => d.put Reg.PWR_BOOT.mode 2); r.dev.answers = true ∧ r.dev.inRecovery = true) := by decide +kernel

theorem witness_FieldTakesWrite : (Reg.GLB_SCRATCH.value 0).acc = .rwl ∧ Reg.SES_CFG.tier0_write.acc = .sh ∧ Reg.LENS_SAMP_CFG.enable.acc = .rw ∧
    Reg.LNK_ERR.lane_lost.acc = .w1c ∧ Reg.GLB_LOCK.scratch_lock.acc = .w1s ∧ Reg.OWN_STATE.owner.acc = .ro ∧ Reg.OWN_DENIED.count.acc = .rc ∧
    svc.get Reg.GLB_LOCK.scratch_lock = 0 ∧ (svc.put Reg.GLB_LOCK.scratch_lock 1).get Reg.GLB_LOCK.scratch_lock = 1 ∧
    Reg.LNK_ERR.lane_lost.key ≠ Reg.LNK_ERR.retrain.key := by decide +kernel

/-- GLB_SCRATCH0, as the baseboard controller accesses it. -/
def scratch0 : RegAccess := ⟨.bmc, .pf, false, (Reg.GLB_SCRATCH.value 0).off, 4⟩

theorem witness_RegisterRowsComplete :
    ((sv id).dev.answers = true ∧ accessOk scratch0.off 4 = true ∧ (sv id).dev.visible .bmc .pf scratch0.off = true ∧ (sv id).dev.owner = Master.bmc.code ∧
      (scratch0.off < 0x01000000 ∨ 0x05000000 ≤ scratch0.off) ∧ (sv id).dev.ownEffect .bmc scratch0.off (wrap (8 * 4) 5) 0 = none ∧
      openBits scratch0.off = [] ∧ lensWritten scratch0.off = none ∧ scratch0.off ≠ 0x0F000018 ∧ scratch0.off ≠ 0x00020004) ∧
    ((sv id).dev.owner ≠ Master.portA.code ∧ (sv id).dev.visible .portA .pf scratch0.off = true ∧ openWrite .portA scratch0.off = false ∧
      openWrite .portA 0x00010004 = true ∧ accessOk 0x00010004 4 = true ∧ (sv id).dev.visible .portA .pf 0x00010004 = true) ∧
    ((sv sec0).dev.visible .portA (.vf 0) 0x06701000 = true ∧ accessOk 0x06701000 4 = true) ∧
    (let s : State := sv (fun d => { d with que := [(16383, que0 1)] })
     let o : Nat := 0x01000000 + 0x1000 * 16383
     s.dev.answers = true ∧ s.dev.mayRing .portA (.vf 0) 16383 = true ∧ s.dev.visible .portA (.vf 0) o = true ∧ accessOk o 4 = true ∧ accessOk (o + 4) 4 = true) ∧
    (inMsix .pf 0 = true ∧ (0 : Nat) % 4 = 0 ∧ Master.portA ≠ .bmc) ∧
    (let x : VecIndex := { idxHeader 0 0 (fun _ _ => 0) with st := 2 }
     let s : State := sv (fun d => { d with idx := { d.idx with idx := [(63, x)] } })
     let a : RegAccess := ⟨.bmc, .pf, false, 0x06400104 + 16 * 63, 4⟩
     s.dev.answers = true ∧ s.dev.inRecovery = false ∧ accessOk a.off 4 = true ∧ s.dev.visible .bmc .pf a.off = true ∧ Tab.look 63 s.dev.idx.idx = some x) ∧
    (sv id).dev.takes .bmc .pf scratch0.off 8 = false ∧ (sv id).dev.get Reg.GLB_LOCK.scratch_lock = 0 := by decide +kernel

theorem witness_CommitsComplete :
    ((sv id).dev.serving = true ∧ (sv id).dev.owner = Master.bmc.code ∧ (sv id).dev.comp.prev = none ∧
      (let s : State := sv (fun d => { d with comp := { d.comp with prev := some ⟨1, [], [], []⟩ } }); s.dev.serving = true ∧ s.dev.comp.prev.isSome = true)) ∧
    (let p : PendSet := ⟨Blk.sel, 5, []⟩; let s : State := sv (fun d => { d with pends := [p] })
     s.dev.serving = true ∧ s.dev.pends = [p] ∧ p.block = Blk.sel ∧ p.at_ + 1000000 ≤ max s.dev.now 1000005) ∧
    ((sv id).dev.get Reg.SES_QRY_STATUS.done = 1 ∧ (sv (fun d => d.put Reg.SES_QRY_STATUS.done 0)).dev.get Reg.SES_QRY_STATUS.done = 0) ∧
    (let s : State := sv (fun d => { d with ses := { d.ses with query := some 0x500 } })
     s.dev.serving = true ∧ s.dev.ses.query = some 0x500 ∧ s.dev.buoy 0x500 = none) ∧
    (let s : State := sv (fun d => { ses0 3 d with ses := { (ses0 3 d).ses with query := some 0x500 } })
     s.dev.serving = true ∧ s.dev.ses.query = some 0x500 ∧ s.dev.buoy 0x500 = some (buoy0 3) ∧ (buoy0 3).bad = false) := by decide +kernel

/-! ### Witnesses: session commands -/

/-- A command that came over MCTP is fetched. -/
def cmdM : SesCmd := { cmd0 with hdr := hdrM }

theorem witness_SessionCommandsComplete :
    ([(0x20, 3), (0x21, 4), (0x22, 4), (0x23, 5), (0x27, 8)].all (fun p =>
      let s : State := sv (ses0 p.2)
      s.dev.serving && (match s.dev.fetch 0 64 cmdM.hdr with
        | some (e, d) => d.isHead && (d.buoy 0x500 == some (buoy0 p.2)) && !(buoy0 p.2).bad && (d.checkCmd p.1 cmdM (d.entSector e) == ST.OK) &&
            d.slotFree (slotFor p.1 p.2) && !d.leaveOut 0x500 && d.reviveHas 0x500
        | none => false)) = true) ∧
    ([(0x25, 1), (0x26, 0)].all (fun p =>
      let r : MoveRecord := ⟨1, 0x500, 0, p.2, 0, 3, 0, 0, 0, 0, 0, [], DigestEntry.start⟩
      let s : State := sv (fun d => let d : Dev := ses0 6 d; { d with ses := { d.ses with records := [(0x500, r)] } })
      s.dev.serving && (match s.dev.fetch 0 64 cmdM.hdr with
        | some (e, d) => d.isHead && d.checkCmd p.1 cmdM (d.entSector e) == ST.OK && (Tab.look 0x500 d.ses.records).any (fun r => r.claim == p.2)
        | none => false)) = true) ∧
    (let s : State := sv (fun d => body (ses0 3 d))
     s.dev.serving = true ∧ (s.dev.fetch 0 64 cmdM.hdr).any (fun e => !e.2.isHead) = true) ∧
    ([(0x20, 4), (0x21, 5), (0x22, 3), (0x23, 6), (0x25, 3), (0x26, 3), (0x27, 6)].all (fun p =>
      ((sv (ses0 p.2)).dev.fetch 0 64 cmdM.hdr).any (fun e => e.2.checkCmd p.1 cmdM (e.2.entSector e.1) != ST.OK)) = true) ∧
    ([(0x25, 0), (0x26, 1)].all (fun p =>
      let r : MoveRecord := ⟨1, 0x500, 0, p.2, 0, 3, 0, 0, 0, 0, 0, [], DigestEntry.start⟩
      let s : State := sv (fun d => let d : Dev := ses0 6 d; { d with ses := { d.ses with records := [(0x500, r)] } })
      (s.dev.fetch 0 64 cmdM.hdr).any (fun e => e.2.checkCmd p.1 cmdM (e.2.entSector e.1) == ST.OK)) = true) ∧
    (let s : State := sv (fun d => let d : Dev := (ses0 4 d).put Reg.SES_MOV_LIM.pending_m1 0
        { d with ses := { d.ses with ops := [(0x501, { op0 0x22 .waiting with slot := .warm })] } })
     (s.dev.fetch 0 64 cmdM.hdr).any (fun e => e.2.isHead && (e.2.buoy 0x500 == some (buoy0 4)) && (e.2.checkCmd 0x22 cmdM (e.2.entSector e.1) == ST.OK) &&
       decide (e.2.get Reg.SES_MOV_LIM.pending_m1 + 1 ≤ e.2.pendingRevives)) = true) := by decide +kernel

theorem witness_SessionChecksInOrder :
    (sv sec0).dev.buoy 0x500 = none ∧ ((sv (ses0 3)).dev.buoy 0x500 = some (buoy0 3) ∧ (sv (ses0 3)).dev.rangeSector 0x500 ≠ some 1) ∧
    (sv (ops0 3 0x20 .prepare)).dev.busyNow 0x500 = true ∧ (sv (ses0 3)).dev.busyNow 0x500 = false ∧ (9 : Nat) ≠ (buoy0 3).gen ∧
    acceptsState 0x20 (buoy0 4).state = false ∧ acceptsState 0x20 (buoy0 3).state = true ∧ placeTier 1 ≠ some 2 ∧
    (sv (ses0 3)).dev.rangeSector 0x500 = some (buoy0 3).sector ∧ acceptsState 0x25 (buoy0 6).state = true := by decide +kernel

theorem witness_AcceptedIsBusy : (0x20 : Nat) ≠ 0x22 ∧ (sv (ses0 3)).dev.buoy 0x500 = some (buoy0 3) := by decide +kernel

theorem witness_MoveInAndTimedParks :
    (let r : MoveRecord := ⟨1, 0x500, 0, 0, 0, 3, 0, 0, 0, 0, 0, [], DigestEntry.start⟩
     let i : Image := img0 (eng0 1 false)
     let s : State := sv (fun d => let d : Dev := sec0 d; d.secImgPut 0 { (d.secImg 0) with active := some i })
     s.dev.serving = true ∧ (s.dev.fetch 0 64 cmdM.hdr).any (fun e => e.2.isHead && e.2.rangeSector 0x500 == some 0 && e.2.entSector e.1 == none &&
       !e.2.busyNow 0x500 && e.2.buoy 0x500 == none && !cmdM.explicit && e.2.moveInRecord cmdM 0 (some r) == ST.OK && e.2.buoyRoom 0 &&
       e.2.moveInRecord cmdM 0 none != ST.OK) = true) ∧
    (let s : State := sv (ops0 3 0x20 .waiting); s.dev.ses.ops = [(0x500, op0 0x20 .waiting)] ∧ (s.dev.advance 9).nextWork .cold = none ∧
      (s.dev.advance 9).nextWork .warm = some 0x500) ∧
    (let s : State := sv (ops0 3 0x21 .waiting); s.dev.serving = true ∧ s.dev.ses.ops = [(0x500, op0 0x21 .waiting)] ∧ (s.dev.advance 9).nextWork .cold = some 0x500) ∧
    (let s : State := sv (fun d => let d : Dev := (ses0 3 d).put (Reg.SES_SRV_PARK.warm_delay 0) 2; { d with srv := { d.srv with arms := [(0x500, ⟨0, 0, 0⟩)] } })
     s.dev.serving = true ∧ Tab.look 0x500 s.dev.srv.arms = some ⟨0, 0, 0⟩ ∧ s.dev.buoy 0x500 = some (buoy0 3) ∧ s.dev.isHead = true ∧
       s.dev.turnOf 0x500 = none ∧ s.dev.get (Reg.SES_SRV_PARK.warm_delay 0) ≠ 0xFFFF ∧
       0 + 1000000 * s.dev.get (Reg.SES_SRV_PARK.warm_delay 0) ≤ (s.dev.advance 2000000).daymark) ∧
    (let s : State := sv (fun d => let d : Dev := (ses0 3 d).put (Reg.SES_SRV_PARK.cold_delay 0) 1; { d with srv := { d.srv with arms := [(0x500, ⟨0, 0, 0⟩)] } })
     s.dev.serving = true ∧ s.dev.isHead = true ∧ s.dev.srv.arms = [(0x500, ⟨0, 0, 0⟩)] ∧ (s.dev.advance (2 ^ 30)).coldDue 0x500 = true) := by decide +kernel

/-! ### Witnesses: session control messages -/

theorem witness_SessionPassesComplete :
    (let s : State := sv (ops0 3 0x20 .prepare); s.dev.serving = true ∧ s.dev.isHead = true ∧ s.dev.op 0x500 = some (op0 0x20 .prepare) ∧
      (op0 0x20 .prepare).seq = msg0.seq ∧ (op0 0x20 .prepare).coldFallback = msg0.coldFallback ∧ msg0.status = ST.OK ∧
      (op0 0x20 .prepare).opcode = 0x20 ∧ ({ msg0 with status := ST.SES_BUSY } : SesMsg).status ≠ ST.SES_NOSTACK) ∧
    (let s : State := sv (fun d => body (ses0 3 d)); s.dev.serving = true ∧ s.dev.isHead = false ∧ s.dev.ses.handled.contains (msgMark msg0) = false ∧
      s.dev.buoy 0x500 = some (buoy0 3) ∧ s.dev.op 0x500 = none ∧ msg0.opcode ≠ 0x24 ∧ s.dev.prepareCheck msg0 = ST.OK ∧ (buoy0 3).bad = false ∧ s.dev.prepareCheck { msg0 with gen := 9 } ≠ ST.OK) ∧
    (let s : State := sv (fun d => body (sec0 d)); s.dev.isHead = false ∧ s.dev.buoy 0x500 = none ∧ s.dev.op 0x500 = none ∧
      s.dev.rangeSector 0x500 = some 0 ∧ s.dev.buoyRoom 0 = true) ∧
    (let s : State := sv (fun d => body (ops0 3 0x20 .prepare d)); s.dev.isHead = false ∧ s.dev.op 0x500 = some (op0 0x20 .prepare)) ∧
    (let s : State := sv (ops0 3 0x20 .go); s.dev.isHead = true ∧ (op0 0x20 .go).pass = .go) ∧
    (let s : State := sv (fun d => let d : Dev := body (ses0 3 d); { d with ses := { d.ses with handled := [msgMark msg0] } })
     s.dev.serving = true ∧ s.dev.isHead = false ∧ s.dev.ses.handled.contains (msgMark msg0) = true ∧
       (∀ o, s.dev.op 0x500 = some o → o.seq = 3 → msgMark o.msg ≠ msgMark msg0)) ∧
    (let o : SesOp := { op0 0x20 .prepare with msg := msg0 }
     let s : State := sv (fun d => let d : Dev := body (ses0 3 d); { d with ses := { d.ses with ops := [(0x500, o)], handled := [msgMark msg0] } })
     s.dev.op 0x500 = some o ∧ o.seq = msg0.seq ∧ msgMark o.msg = msgMark msg0) := by
  (repeat' apply And.intro) <;> decide +kernel

/-- A page of session 0x500 in tier 1. -/
def page0 : Page := ⟨0, 0, ⟨1, 16⟩, false, 0, 0, 64, 64, 0, 4, 0, 0, 0, false, false⟩

/-- A retained copy of session 0x500. -/
def copy0 : CopyRec :=
  { ctx := 0, pages := [], ctrl := Moor.empty.ctrl, root := ⟨2, 0⟩, ctrlLoc := ⟨2, 1⟩, recLoc := Loc.none_, statLoc := Loc.none_, leafLocs := [],
    recUnits := 0, statUnits := 0, current := true, offset := 0, slice := 0 }

theorem witness_SessionEndsAndMoves :
    ([Pass.done, .cancel, .lose, .final].all (fun p => let s : State := sv (ops0 3 0x20 p)
      s.dev.serving && s.dev.isHead && s.dev.op 0x500 == some (op0 0x20 p) && (op0 0x20 p).seq == msg0.seq) = true) ∧
    (let s : State := sv (ops0 6 0x24 .done); s.dev.op 0x500 = some (op0 0x24 .done) ∧ (op0 0x24 .done).opcode = 0x24 ∧ (op0 0x20 .done).opcode ≠ 0x24) ∧
    (let s : State := sv (fun d => body (ops0 3 0x20 .go d)); s.dev.op 0x500 = some (op0 0x20 .go) ∧ (op0 0x20 .go).committed = false) ∧
    (let o : SesOp := { op0 0x20 .done with committed := true }
     let s : State := sv (fun d => let d : Dev := body (ses0 3 d); { d with ses := { d.ses with ops := [(0x500, o)] } })
     s.dev.serving = true ∧ s.dev.isHead = false ∧ s.dev.ses.handled.contains (msgMark msg0) = false ∧ s.dev.op 0x500 = some o ∧ s.dev.buoy 0x500 = some (buoy0 3)) ∧
    (let o : SesOp := { op0 0x20 .go with resends := 1 }; let s : State := sv (fun d => let d : Dev := ses0 3 d; { d with ses := { d.ses with ops := [(0x500, o)] } })
     s.dev.op 0x500 = some o ∧ o.pass ≠ .waiting ∧ o.stopped = false ∧ o.returned = false ∧ o.goMsg = none ∧ o.resends < 100 ∧ o.sentAt + 1000000 * (10 * (o.resends + 1)) ≤ max s.dev.now 20000000) ∧
    (let o : SesOp := { op0 0x20 .go with resends := 100 }; let s : State := sv (fun d => let d : Dev := ses0 3 d; { d with ses := { d.ses with ops := [(0x500, o)] } })
     s.dev.op 0x500 = some o ∧ o.pass = .go ∧ o.coordFailed = false ∧ o.sentAt + 1010000000 < max s.dev.now 1010000001 ∧ ({ o with pass := .prepare } : SesOp).resends = 100) ∧
    (let m : Moor := { Moor.empty with pages := [page0] }
     let s : State := sv (fun d => let d : Dev := ses0 3 d; { d with ses := { d.ses with moors := [(0x500, m)] } })
     s.dev.serving = true ∧ s.dev.buoy 0x500 = some (buoy0 3) ∧ s.dev.moor 0x500 = some m ∧ m.pages.find? (fun p => p.stream == 0 && p.ordinal == 0) = some page0 ∧
       (s.dev.partAddr 0x500 .kv (kvOffset m.lps 0 0)).isSome = true ∧ s.dev.mayMigrate (buoy0 3) m page0 ⟨1, 24⟩ = true) ∧
    (let m : Moor := { Moor.empty with pages := [page0], migrating := [(pageKey 0 0, ⟨1, 24⟩)] }
     let s : State := sv (fun d => let d : Dev := ses0 3 d; { d with ses := { d.ses with moors := [(0x500, m)] } })
     s.dev.moor 0x500 = some m ∧ Tab.look (pageKey 0 0) m.migrating = some ⟨1, 24⟩) ∧
    (let m : Moor := { Moor.empty with retained := some copy0 }
     let s : State := sv (fun d => let d : Dev := ses0 5 d; { d with ses := { d.ses with moors := [(0x500, m)] } })
     s.dev.buoy 0x500 = some (buoy0 5) ∧ s.dev.moor 0x500 = some m ∧ s.dev.turnOf 0x500 = none ∧ (buoy0 5).state ≠ 1 ∧
       pickCopy m none (buoy0 5).ctx (buoy0 5).ctx true = some (copy0, none) ∧ (s.dev.rebuild 0x500 copy0 []).1 = true ∧
       pickCopy Moor.empty none (buoy0 5).ctx (buoy0 5).ctx true = none) ∧
    (let m : Moor := { Moor.empty with retained := some copy0 }
     let s : State := sv (fun d => let d : Dev := ses0 2 d
        { d with ses := { d.ses with moors := [(0x500, m)] }, srv := { d.srv with turns := [(0x500, track0 .running)] } })
     s.dev.isHead = true ∧ s.dev.turnOf 0x500 = some (track0 .running) ∧ (track0 .running).log.length ≤ 1048576 ∧
       pickCopy m none m.startCtx (buoy0 2).ctx false = some (copy0, none) ∧ (s.dev.rebuild 0x500 copy0 []).1 = true) ∧
    (let o : SesOp := { op0 0x20 .go with working := true }; let s : State := sv (fun d => let d : Dev := ses0 3 d; { d with ses := { d.ses with ops := [(0x500, o)] } })
     s.dev.op 0x500 = some o ∧ o.working = true ∧ o.committed = false ∧ Tab.look 0x500 s.dev.pool.coded = none ∧ s.dev.codingOn = false ∧
       (s.dev.workStatus 0x500 o ⟨false, none, true⟩ s.mem).1 = ST.OK) := by
  (repeat' apply And.intro) <;> decide +kernel

theorem witness_WorkLeavesState : (sv (ses0 3)).dev.buoy 0x500 = some (buoy0 3) ∧ (sv (ses0 3)).dev.moor 0x500 = some Moor.empty ∧
    (let r : MoveRecord := ⟨1, 0x500, 0, 0, 0, 3, 0, 0, 0, 0, 0, [], DigestEntry.start⟩
     let s : State := sv (fun d => let d : Dev := ses0 6 d; { d with ses := { d.ses with records := [(0x500, r)] } })
     Tab.look 0x500 s.dev.ses.records = some r) := by decide +kernel

/-! ### Witnesses: engines and cores -/

/-- Every opcode's command is the head of core 0's list, and runs. -/
theorem witness_EngineListRuns : ∀ op ∈ [0x01, 0x02, 0x03, 0x08, 0x09, 0x0A, 0x10, 0x11, 0x12, 0x18, 0x30],
    (sv (inStep0 (eng0 op false))).dev.serving = true ∧
    ((sv (inStep0 (eng0 op false))).dev.headOf 0 0).any (fun i => i.cmd.opcode == op && !poisoned (((sv (inStep0 (eng0 op false))).dev.imgRun 0 0).list i.refine) i.cmd.seqn &&
      ((sv (inStep0 (eng0 op false))).dev.engCtx 0 0).operandsOk i.cmd && ((sv (inStep0 (eng0 op false))).dev.coreEntry 0 0).any (fun e => (sv (inStep0 (eng0 op false))).dev.canIssue 0 0 i e)) = true := by decide +kernel

theorem witness_EngineWritesDestinationOnly : (sv (inStep0 (eng0 1 false))).dev.engCtx 0 0 |>.outside (eng0 1 false) 1 1 0x4000 := by
  unfold EngCtx.outside; decide +kernel

theorem witness_FailedCommandWritesNothing :
    (let d : Dev := (sv (fun d => (inStep0 (eng0 1 true) d).imgUpd 0 0 (fun r => { r with step := { r.step with poison := [1] } }))).dev
     d.serving = true ∧ (d.headOf 0 0).any (fun i => i.cmd.opcode == 1 && poisoned ((d.imgRun 0 0).list i.refine) i.cmd.seqn &&
       (d.coreEntry 0 0).any (fun e => d.canIssue 0 0 i e)) = true) ∧
    (let d : Dev := (sv (inStep0 { eng0 1 false with d := opnd 0x1000000 0 })).dev
     (d.headOf 0 0).any (fun i => !poisoned ((d.imgRun 0 0).list i.refine) i.cmd.seqn && !(d.engCtx 0 0).operandsOk i.cmd &&
       (d.coreEntry 0 0).any (fun e => d.canIssue 0 0 i e)) = true) := by decide +kernel

theorem witness_CoresComplete :
    (let s : State := sv (fun d => let d : Dev := core0 (eng0 1 false) d; { d with comp := { d.comp with cur := { d.comp.cur with epoch := 2 } } })
     s.dev.serving = true ∧ (List.range 16).find? (fun n => (s.dev.advance 5).present n && ((s.dev.advance 5).sector n).cores.testBit 0) = some 0 ∧
       (s.dev.advance 5).stepOf 0 7 = some (1, step0) ∧ step0.positions = 1 ∧ step0.epoch ≠ s.dev.comp.cur.epoch ∧ (s.dev.advance 5).coreSector 0 = 0 ∧
       (s.dev.advance 5).mayStart 0 1 step0 = true) ∧
    (let s : State := sv (core0 (eng0 1 false))
     (s.dev.advance 5).stepOf 0 7 = some (1, step0) ∧ step0.epoch = s.dev.comp.cur.epoch ∧ (Dev.hostCores 0 (s.dev.advance 5)).all (fun c => !(s.dev.advance 5).inStep c) = true ∧
       (s.dev.advance 5).gainsHeld 0 = false ∧ step0.leaveOnly = false ∧ step0.reported = false ∧
       ((followCores 0 s.mem (s.dev.advance 5)).2.stepOf 0 7).any (fun e => (followCores 0 s.mem (s.dev.advance 5)).2.mayStart 0 e.1 e.2) = true ∧
       (followCores 0 s.mem (s.dev.advance 5)).2.coreSector 0 = 0) ∧
    (let r : RunCmd := ⟨0, 0, 0, [], 0xFFFF, 0⟩
     let s : State := sv (fun d => (inStep0 (eng0 1 false) d).imgUpd 0 0 (fun x => { x with step := { x.step with head := 1, running := [(0, r)] } }))
     (s.dev.advance 5).coreEntry 0 0 = some ⟨0, [], [eng0 1 false], [eng0 1 false]⟩ ∧ Tab.look 0 (s.dev.imgRun 0 0).step.running = some r ∧ [eng0 1 false][0]? = some (eng0 1 false)) ∧
    (let r : RunCmd := ⟨0, 0, 0, [], 0xFFFF, 0⟩
     let s : State := sv (fun d => (inStep0 (eng0 1 false) d).imgUpd 0 0 (fun x => { x with refine := { x.refine with head := 1, running := [(0, r)] } }))
     Tab.look 0 (s.dev.imgRun 0 0).step.running = none ∧ Tab.look 0 (s.dev.imgRun 0 0).refine.running = some r) ∧
    (let s : State := sv (fun d => (inStep0 (eng0 1 false) d).imgUpd 0 0 (fun x => { x with ended := true }))
     s.dev.inStep 0 = true ∧ (s.dev.coreRun 0).imgs.all (fun e => listEnded e.2 && s.dev.allSent 0 e.1) = true) ∧
    ((sv (inStep0 (eng0 1 false))).dev.inStep 0 = true ∧ ((sv (inStep0 (eng0 1 false))).dev.advance 65536000).watchdogDue 0 = true) ∧
    (let s : State := sv (fun d => let d : Dev := (core0 (eng0 1 false) d).put (Reg.CORE_SEQ_CFG.refine_enable 0) 1; { d with srv := { d.srv with batches := [] } })
     s.dev.inStep 0 = false ∧ s.dev.noStepPending 0 = true ∧ s.dev.get (Reg.CORE_SEQ_CFG.refine_enable 0) = 1 ∧ 
       ((s.dev.wrapRefine 0 0).headOf 0 0).any (fun i => i.refine && !poisoned (((s.dev.wrapRefine 0 0).imgRun 0 0).list i.refine) i.cmd.seqn &&
         ((s.dev.wrapRefine 0 0).engCtx 0 0).operandsOk i.cmd && ((s.dev.wrapRefine 0 0).coreEntry 0 0).any (fun e => (s.dev.wrapRefine 0 0).canIssue 0 0 i e)) = true) ∧
    ((sv id).dev.get (Reg.CORE_ENG.engine_ok 0) = 31 ∧ ((List.range 5).filter (fun e => (31 - 2 ^ 4).testBit e)).length = 4 ∧
      (let s : State := sv (fun d => d.put (Reg.CORE_ENG.engine_ok 0) 15); (s.dev.get (Reg.CORE_ENG.engine_ok 0)).testBit 3 = true ∧
        ((List.range 5).filter (fun e => (15 - 2 ^ 3).testBit e)).length = 3)) := by
  (repeat' apply And.intro) <;> decide +kernel

theorem witness_StepEndFields :
    (let s : State := sv (fun d => let d : Dev := inStep0 (eng0 1 false) d; { d with srv := { d.srv with batches := [] } }); s.dev.stepFailure 0 = none) ∧
    (let s : State := sv (fun d => (inStep0 (eng0 1 false) d).imgUpd 0 0 (fun r => { r with firstFail := some (3, ST.IMG_OPERAND) }))
     s.dev.stepFailure 0 = some (3, ST.IMG_OPERAND)) := by decide +kernel

theorem witness_RoutesBuiltOnce :
    (let s : State := sv (fun d => (inStep0 (eng0 1 false) d).imgUpd 0 0 (fun r => { r with routes := 1 }))
     s.dev.serving = true ∧ s.dev.activeImg 0 = some (img0 (eng0 1 false)) ∧ (img0 (eng0 1 false)).moe[0]? = some ⟨0, 0, 1, 0, 0, 0, 1, 0, 0⟩ ∧
       0 < s.dev.routeSignals 0 ∧ s.dev.sel.routed.contains (0 * 65536 + 0) = false ∧
       (s.dev.routeJob 0 ⟨0, 0, 1, 0, 0, 0, 1, 0, 0⟩ s.mem).isSome = true) ∧
    (let s : State := sv (fun d => let d : Dev := inStep0 (eng0 1 false) d; { d with sel := { d.sel with routed := [0 * 65536 + 0] } })
     s.dev.activeImg 0 = some (img0 (eng0 1 false)) ∧ s.dev.sel.routed.contains (0 * 65536 + 0) = true ∧ s.dev.routeSignals 0 ≤ 0) := by decide +kernel

/-! ### Witnesses: steps of a batch -/

theorem witness_HeadStepStarts : (let s : State := sv (fun d => let d : Dev := core0 (eng0 1 false) d; { d with srv := { d.srv with batches := [] } })
    s.dev.serving = true ∧ (s.dev.advance 5).mayHeadStart 0 1 = true) := by decide +kernel

theorem witness_LaunchedStepRuns : [row0] ≠ [] := by decide

/-- A segment header of step 8 of batch 1 in Sector 0. -/
def seg0 (bytes : Nat) : SegFlit := ⟨0, 1, 2, false, false, 8, 1, 1, 1, 1, 1, bytes, 0⟩
/-- A row of step 7. -/
def rowF (leave invalid : Bool) : RowFlit := ⟨0x500, 7, 0, invalid, false, leave, false, true, false, false, 0, 1, 0, 0, [], 0, if invalid then ST.SES_NOBUOY else 0, [], 0, []⟩

theorem witness_StepFlitsTaken :
    (let s : State := sv (fun d => body (core0 (eng0 1 false) d))
     s.dev.serving = true ∧ (s.dev.openStep (batchKey 0 1) (seg0 64)).segMismatch 0 (seg0 64) = false ∧ s.dev.stepIn (batchKey 0 1) 7 = some step0 ∧
       (rowF true false).leave = true ∧ (rowF false true).leave = false ∧
       (s.dev.batch (batchKey 0 1)).next.or (s.dev.batch (batchKey 0 1)).running = some step0 ∧
       ((s.dev.batch (batchKey 0 1)).running.toList ++ (s.dev.batch (batchKey 0 1)).next.toList).find? (fun s => !s.leaveOnly && !s.segs.contains 2) = some step0 ∧
       s.dev.activeImg 0 = some (img0 (eng0 1 false)) ∧ (img0 (eng0 1 false)).segs.find? (fun g => !g.out && g.number == 2) = some ⟨false, 2, 1, 0, 64⟩) ∧
    ((rowF false true).invalid = true ∧ (rowF false true).status = ST.SES_NOBUOY) ∧
    (let s : State := sv (fun d => body (sec0 d)); s.dev.buoy 0x500 = none ∧ (rowF false false).join = false ∧
      (let k : State := sv (fun d => (body (sec0 d)).setCom (Reg.SES_QUOTA.max_buoys 0).key 0); k.dev.buoyRoom 0 = false)) ∧
    ((sv (fun d => body (ses0 8 d))).dev.buoy 0x500 = some (buoy0 8) ∧ (buoy0 8).bad = false ∧ (buoy0 8).state = 8) ∧
    (let s : State := sv (fun d => body (core0 (eng0 1 false) (ses0 1 d))); (buoy0 1).state = 1 ∧ (rowF false false).qbase + (rowF false false).qcount ≤ s.dev.posLimit 0) ∧
    (let s : State := sv (fun d => body (ses0 1 d)); s.dev.posLimit 0 < (2 ^ 32 : Nat)) ∧ (buoy0 3).state = 3 := by
  (repeat' apply And.intro) <;> decide +kernel

theorem witness_SegmentMismatchFailsStep : (let s : State := sv (fun d => body (core0 (eng0 1 false) d))
    s.dev.serving = true ∧ (s.dev.openStep (batchKey 0 1) (seg0 65)).segMismatch 0 (seg0 65) = true) := by decide +kernel

/-- TAIL's entry for session 0x500 in step 7. -/
def tokens0 : TokensEntry := ⟨0x500, 7, 0, true, false, false, 1, 0, 0, 0, [3], [], [], 0, []⟩

theorem witness_BoundaryAndDelivery :
    (let s : State := sv (core0 (eng0 1 false))
     s.dev.serving = true ∧ s.dev.isHead = true ∧ (s.dev.batch (batchKey 0 1)).running = some step0 ∧ step0.number = tokens0.step ∧
       step0.rows.any (fun r => r.sid == tokens0.sid) = true ∧ (s.dev.batch (batchKey 0 1)).tokens.any (fun x => x.sid == tokens0.sid && x.leave == tokens0.leave) = false) ∧
    (let l : StepLeave := ⟨0x500, false, false, 0, 0, []⟩; let st : Step := { step0 with leaves := [l] }
     st.leaves.any (fun l => l.sid == 0x500 && !l.returned) = true) ∧
    (sv (fun d => body (core0 (eng0 1 false) d))).dev.isHead = false ∧
    (let st : Step := { step0 with reported := true, rows := [] }
     let s : State := sv (fun d => let d : Dev := core0 (eng0 1 false) d; { d with srv := { d.srv with batches := [(1, { Batch.empty with running := some st })] } })
     (s.dev.batch (batchKey 0 1)).running = some st ∧ (s.dev.advance 5).boundaryDue (s.dev.batch (batchKey 0 1)) st = true) ∧
    (let r : BatchRecord := ⟨600, 0, 7, 64, 0, 0, []⟩; let u : Queue := { que0 2 with heldRecs := [r] }
     let s : State := sv (fun d => { d with que := [(600, u)] })
     s.dev.serving = true ∧ Tab.look 600 s.dev.que = some u ∧ u.st ≠ .dead ∧ (s.dev.advance 5).shaperOk 600 = true ∧ (s.dev.advance 5).portOk u = true ∧
       (s.dev.advance 5).ringUsed 600 u + padBytes u r.bytes + r.bytes ≤ 2 ^ u.ringLog2) ∧
    (let r : BatchRecord := ⟨600, 0, 7, 64, 0, 0, []⟩; let u : Queue := { que0 2 with heldRecs := [r] }
     let s : State := sv (fun d => { d with que := [(600, u)], committed := [((Reg.LENS_QCTL.enable 600).key, 1)], lens := { d.lens with ents := [(600, ⟨-5, 0, 0⟩)] } })
     ((s.dev.advance 5).shaperOk 600 && (s.dev.advance 5).portOk u) = false ∧ (s.dev.advance 5).ringUsed 600 u + padBytes u r.bytes + r.bytes ≤ 2 ^ u.ringLog2) ∧
    (let r : BatchRecord := ⟨600, 0, 7, 64, 0, 0, []⟩; let u : Queue := { que0 2 with heldRecs := [r], ringLog2 := 5 }
     let s : State := sv (fun d => { d with que := [(600, u)] })
     2 ^ u.ringLog2 < (s.dev.advance 5).ringUsed 600 u + padBytes u r.bytes + r.bytes ∧
       (u.heldRecs.map (·.bytes)).sum ≤ s.dev.get Reg.SES_SRV_CFG.egress_hold_kib * 1024) ∧
    (let r : BatchRecord := ⟨600, 0, 7, 64, 0, 0, []⟩; let u : Queue := { que0 2 with heldRecs := [r], ringLog2 := 5 }
     let s : State := sv (fun d => { (d.put Reg.SES_SRV_CFG.egress_hold_kib 0) with que := [(600, u)] })
     s.dev.get Reg.SES_SRV_CFG.egress_hold_kib * 1024 < (u.heldRecs.map (·.bytes)).sum) := by
  (repeat' apply And.intro) <;> decide +kernel

/-! ### Witnesses: images, turns, tokens, selection -/

/-- A signature section of the anchor svc knows. -/
def sigB : List Byte := leBytes 2 0x5347 ++ leBytes 2 1 ++ leBytes 1 1 ++ List.replicate 3515 0

/-- An entry of a section table. -/
def secB (kind count off : Nat) : List Byte := leBytes 4 kind ++ leBytes 4 count ++ leBytes 8 off

/-- A layer image of one image core with one command, of some group size and tier-0 bytes. -/
def imgB (groupSizeM1 listSize tier0 : Nat) (c : EngCmd) : List Byte :=
  leBytes 4 0x47495A56 ++ leBytes 2 1 ++ leBytes 11 0 ++ leBytes 1 groupSizeM1 ++ leBytes 1 0 ++ leBytes 1 1 ++ leBytes 2 0 ++ leBytes 2 1 ++ leBytes 2 0 ++
    leBytes 2 1 ++ leBytes 4 4 ++ leBytes 8 3904 ++ leBytes 8 0 ++ leBytes 4 tier0 ++ leBytes 76 0 ++ secB 1 0 192 ++ secB 2 1 192 ++ secB 8 1 256 ++ secB 15 3520 384 ++
    leBytes 4 0 ++ leBytes 4 1 ++ leBytes 8 0 ++ leBytes 4 0 ++ leBytes 4 listSize ++ leBytes 40 0 ++ cmdBytes c ++ sigB

/-- What the check of a signature came to. -/
def good : SigVerdict := ⟨true, true, 0⟩

/-- The image of those bytes, as loaded. -/
def imgOk : Image := imageOf (imgB 0 4096 0 (eng0 1 false)) good

/-- A load of an image by the owner of a chip passes the checks before the given ones. -/
def loads (f : Dev → Image → Bool) (i : Image) : Bool :=
  ((sv sec0).dev.fetch 0 64 hdrM).any (fun e => e.2.fromOwner e.1 && f e.2 i)

theorem witness_ImageCommandsAnswered :
    ((sv sec0).dev.serving = true ∧ loadSource 0 0 0 5000 (imgB 0 4096 0 (eng0 1 false)) [] = imgB 0 4096 0 (eng0 1 false)) ∧
    (loads (fun d i => decide (d.tierFree 1 0 * 4096 < i.imageLength)) (imageOf (leBytes 32 0 ++ leBytes 8 (2 ^ 50)) good) = true ∧
     loads (fun d i => decide (i.imageLength ≤ d.tierFree 1 0 * 4096) && !d.imageSigOk i.sig) (imageOf (imgB 0 4096 0 (eng0 1 false)) ⟨false, true, 0⟩) = true ∧
     loads (fun d i => decide (i.imageLength ≤ d.tierFree 1 0 * 4096) && d.imageSigOk i.sig && !imageFormatOk i) (imageOf (imgB 0 64 0 (eng0 1 false)) good) = true ∧
     loads (fun d i => decide (i.imageLength ≤ d.tierFree 1 0 * 4096) && d.imageSigOk i.sig && imageFormatOk i && i.groupSizeM1 + 1 != d.groupSize)
       (imageOf (imgB 1 4096 0 (eng0 1 false)) good) = true ∧
     loads (fun d i => d.imageSigOk i.sig && imageFormatOk i && i.role == d.role && i.groupSizeM1 + 1 == d.groupSize && i.position == d.position &&
       (badCommand i).isSome) (imageOf (imgB 0 4096 0 (eng0 99 false)) good) = true ∧
     loads (fun d i => d.imageSigOk i.sig && imageFormatOk i && badCommand i == none && (d.resourceFault 0 i).isSome)
       (imageOf (imgB 0 4096 0x7FFFFFFF (eng0 1 false)) good) = true ∧
     loads (fun d i => decide (i.imageLength ≤ d.tierFree 1 0 * 4096) && d.imageSigOk i.sig && imageFormatOk i && i.role == d.role &&
       i.groupSizeM1 + 1 == d.groupSize && i.position == d.position && badCommand i == none && d.resourceFault 0 i == none) imgOk = true) ∧
    (((sv sec0).dev.advance 5).fetch 0 64 hdrM).any (fun e => e.2.fromOwner e.1 && (e.2.secImg 0).staged == none) = true ∧
    (let s : State := sv (fun d => let d : Dev := ses0 3 d; d.secImgPut 0 { (d.secImg 0) with staged := some imgOk })
     ((s.dev.advance 5).fetch 0 64 hdrM).any (fun e => e.2.fromOwner e.1 && (e.2.secImg 0).staged == some imgOk && e.2.hasBuoy 0 &&
       (e.2.secImg 0).active == none) = true) ∧
    (let s : State := sv (fun d => let d : Dev := sec0 d; d.secImgPut 0 { (d.secImg 0) with staged := some imgOk })
     ((s.dev.advance 5).fetch 0 64 hdrM).any (fun e => e.2.fromOwner e.1 && (e.2.secImg 0).staged == some imgOk && (e.2.secImg 0).activating == none && !e.2.hasBuoy 0) = true) ∧
    (let e : Ent := ⟨.mctp, 1, false, 7, 0⟩
     let s : State := sv (fun d => let d : Dev := sec0 d; d.secImgPut 0 { (d.secImg 0) with staged := some imgOk, activating := some (e, 0) })
     let d : Dev := s.dev.advance 1000000
     (d.secImg 0).activating = some (e, 0) ∧ (d.secImg 0).staged = some imgOk ∧ 0 + 1000000 ≤ d.now ∧ d.sectorIdle 0 = true) ∧
    (((sv (fun d => d.put Reg.OWN_STATE.owner 1)).dev.fetch 0 64 hdrM).any (fun e => !e.2.fromOwner e.1) = true ∧
     ((sv (ses0 3)).dev.fetch 0 64 hdrM).any (fun e => e.2.fromOwner e.1 && e.2.hasBuoy 0) = true ∧
     ((sv sec0).dev.fetch 0 64 hdrM).any (fun e => e.2.fromOwner e.1 && !e.2.hasBuoy 0 && (e.2.secImg 0).activating == none) = true) := by
  (repeat' apply And.intro) <;> decide +kernel

/-- A turn's entry, fetched by a chip changed from that of `turns0`, meets a condition on the entry, its queue and the chip. -/
def turns (f : Dev → Dev) (p : Ent → Queue → Dev → Bool) : Bool :=
  (((sv (fun d => f (turns0 d))).dev.advance 5).fetch 1 turnQ.text.length turnQ.hdr).any (fun e => match e.2.entQueue e.1 with | some u => p e.1 u e.2 | none => false)

/-- The checks of a turn up to the Sector's session. -/
def turnOk (x : TurnEntry) (e : Ent) (u : Queue) (d : Dev) : Bool :=
  d.isHead && (d.activeImg u.sector).isSome && d.inWindow e 0 0 && d.epochServed 1 && d.turnParams u.sector x == ST.OK

/-- The same session with another Buoy. -/
def withBuoy (b : Buoy) (d : Dev) : Dev := { d with ses := { d.ses with buoys := [(0, b)] } }

/-- A turn of the session is tracked. -/
def tracked (d : Dev) : Dev := { d with srv := { d.srv with turns := [(0x500, track0 .queued)] } }

theorem witness_TurnsAnswered :
    ((sv turns0).dev.serving = true ∧ turns id (fun e u d => turnOk turnQ e u d && d.ownSession u.sector 0x500 && (d.readBuoy 0x500).2 == d &&
      d.turnSession 0 turnQ == ST.OK && d.turnTool turnQ == ST.OK && d.srv.turns.length < 262144 && d.buoy 0x500 == some (buoy0 2)) = true) ∧
    turns (fun d => { d with ses := { d.ses with buoys := [], moors := [] } }) (fun e u d => turnOk turnQ e u d && (d.readBuoy 0x500).2 == d &&
      d.turnSession 0 turnQ == ST.OK && d.turnTool turnQ == ST.OK && d.buoy 0x500 == none && d.buoyRoom u.sector) = true ∧
    (((sv (fun d => tracked (turns0 d))).dev.fetch 1 1 turnQ.hdr).any (fun e => e.2.isHead && (e.2.entQueue e.1).any (fun u => e.2.ownSession u.sector 0x500) &&
       e.2.namedTurn 0x500 9 == some (track0 .queued) && (track0 .queued).takesText && e.2.inWindow e.1 0 1) = true ∧
     ((sv (fun d => tracked (turns0 d))).dev.fetch 1 0 turnQ.hdr).any (fun e => (e.2.entQueue e.1).isSome && e.2.namedTurn 0x500 9 == some (track0 .queued)) = true) ∧
    (turns body (fun _ _ d => !d.isHead) = true ∧
     turns (fun d => d.secImgPut 0 { (d.secImg 0) with active := none }) (fun _ u d => d.isHead && d.activeImg u.sector == none) = true ∧
     turns id (fun e u d => d.isHead && (d.activeImg u.sector).isSome && !d.inWindow e 1 (2 ^ 60)) = true ∧
     turns id (fun e u d => d.isHead && (d.activeImg u.sector).isSome && d.inWindow e 0 0 && !d.epochServed 999) = true ∧
     turns id (fun e u d => d.isHead && (d.activeImg u.sector).isSome && d.inWindow e 0 0 && d.epochServed 1 &&
       d.turnParams u.sector { turnQ with topK := 1025 } != ST.OK) = true ∧
     turns id (fun e u d => turnOk { turnQ with sid := 0x10000 } e u d && !d.ownSession u.sector 0x10000) = true ∧
     turns tracked (fun e u d => turnOk turnQ e u d && d.ownSession u.sector 0x500 && (d.turnOf 0x500).isSome) = true ∧
     [7, 8].all (fun st => turns (withBuoy (buoy0 st)) (fun e u d => turnOk turnQ e u d && d.ownSession u.sector 0x500 && d.turnOf 0x500 == none &&
       !d.busyNow 0x500 && d.buoy 0x500 == some (buoy0 st))) = true ∧
     turns id (fun e u d => turnOk { turnQ with toolSeq := 1 } e u d && d.turnSession u.sector { turnQ with toolSeq := 1 } == ST.OK &&
       d.turnTool { turnQ with toolSeq := 1 } != ST.OK) = true ∧
     turns (fun d => ({ d with ses := { d.ses with buoys := [], moors := [] } } : Dev).setCom (Reg.SES_QUOTA.max_buoys 0).key 0) (fun e u d => turnOk turnQ e u d &&
       d.turnSession u.sector turnQ == ST.OK && d.turnTool turnQ == ST.OK && d.buoy 0x500 == none && !d.buoyRoom u.sector) = true ∧
     turns id (fun _ u d => d.isHead && !d.ownSession u.sector 0x10000 && d.ownSession u.sector 0x500 && d.namedTurn 0x500 9 == none) = true) := by
  (repeat' apply And.intro) <;> decide +kernel

/-- A grammar image for svc's vocabulary. -/
def gramB : List Byte :=
  leBytes 4 0x52475A56 ++ leBytes 4 1 ++ leBytes 4 1 ++ leBytes 4 0 ++ leBytes 32 5 ++ leBytes 4 1 ++ leBytes 4 6 ++ leBytes 8 3785 ++ leBytes 64 0 ++
    secB 1 1 224 ++ secB 2 0 240 ++ secB 3 1 240 ++ secB 4 1 264 ++ secB 5 0 265 ++ secB 15 3520 265 ++
    leBytes 6 0 ++ leBytes 10 3 ++ leBytes 8 0 ++ leBytes 16 1 ++ leBytes 1 1 ++ sigB

/-- The same as a vocabulary, and without its signatures. -/
def bad : SigVerdict := ⟨false, true, 0⟩

/-- A chip changed from svc fetches an entry that the owner submitted, and meets a condition. -/
def toks (f : Dev → Dev) (p : Ent → Dev → Bool) : Bool := (((sv f).dev.advance 5).fetch 0 64 hdrM).any (fun e => p e.1 e.2)

/-- svc with a vocabulary or a grammar in slot 0, in a phase since a time, the entry of its command held. -/
def vslot (p : SlotPhase) : VocabSlot := ⟨[], voc0, 1, p, 0, some ⟨.mctp, 1, false, 7, 0⟩⟩
/-- The same. -/
def gslot (p : SlotPhase) : GramSlot := ⟨gramB, gramOf gramB good, 1, p, 0, some ⟨.mctp, 1, false, 7, 0⟩⟩
/-- The same. -/
def vocS (p : SlotPhase) (d : Dev) : Dev := { d with tok := { d.tok with vocabs := [(0, vslot p)] } }
/-- The same. -/
def gramS (p : SlotPhase) (d : Dev) : Dev := { d with tok := { d.tok with grams := [(0, gslot p)] } }

/-- svc as TAIL, with the vocabulary and tokenizer space, and a transfer. -/
def tailX (x : TokXfer) (d : Dev) : Dev :=
  let d : Dev := (voc (d.put Reg.GLB_ROLE.role 3)).put Reg.TOK_SPACE.size_mib 1
  { d with tok := { d.tok with xfers := [(0, x)] } }

/-- A turn that uses vocabulary 0 and grammar 0. -/
def usesTok (d : Dev) : Dev :=
  { d with srv := { d.srv with turns := [(0x500, { track0 .queued with entry := { turn0 with grammarOn := true, grammarId := 0 } })] } }

theorem witness_TokenImagesComplete :
    (toks id (fun e d => d.fromOwner e && d.isHead && decide (16 ≤ 16)) = true ∧ toks (fun d => d.put Reg.OWN_STATE.owner 1) (fun e d => !d.fromOwner e) = true ∧
      toks body (fun e d => d.fromOwner e && !d.isHead) = true) ∧
    (toks (fun d => gramS .resident (voc d)) (fun e d => d.fromOwner e && d.isHead && Tab.has 0 d.tok.vocabs && Tab.has 0 d.tok.grams) = true ∧
      toks id (fun e d => d.fromOwner e && d.isHead && !d.slotTaken true 0 && !d.slotTaken false 0) = true ∧ tokSource 0 0 0 3785 gramB [] = gramB ∧
      toks (fun d => (voc d).put Reg.TOK_SPACE.size_mib 1) (fun _ d => d.tokCheck 3785 (tokImageOf true gramB bad) == ST.TOK_SIGNATURE) = true ∧
      toks (fun d => (voc d).put Reg.TOK_SPACE.size_mib 1) (fun _ d => d.tokCheck 3785 (tokImageOf true (gramB.set 4 2) good) == ST.TOK_FORMAT && d.isHead) = true ∧
      toks (fun d => (voc d).put Reg.TOK_SPACE.size_mib 1) (fun _ d => d.tokCheck 3785 (tokImageOf true gramB good) == ST.OK && d.isSolo && !d.slotTaken true 0) = true ∧
      toks (fun d => ((voc d).put Reg.TOK_SPACE.size_mib 1).put Reg.GLB_ROLE.role 1)
        (fun _ d => d.tokCheck 3785 (tokImageOf true gramB good) == ST.OK && d.isHead && !d.isSolo && !d.slotTaken true 0) = true) ∧
    (toks id (fun _ d => Tab.look 0 d.tok.vocabs == none && Tab.look 0 d.tok.grams == none) = true ∧
      toks (vocS .loading) (fun _ d => Tab.look 0 d.tok.vocabs == some (vslot .loading)) = true ∧
      toks (fun d => usesTok (gramS .resident (vocS .resident d))) (fun _ d => Tab.look 0 d.tok.vocabs == some (vslot .resident) && d.vocabInUse 0 voc0 &&
        (Tab.look 0 d.tok.grams).any (fun g => g.phase == .resident) && d.srv.turns.any (fun x => x.2.entry.grammarOn && x.2.entry.grammarId == 0)) = true ∧
      toks (vocS .resident) (fun _ d => !d.vocabInUse 0 voc0) = true ∧
      toks (gramS .resident) (fun _ d => !d.srv.turns.any (fun x => x.2.entry.grammarOn && x.2.entry.grammarId == 0)) = true) ∧
    ((sv (vocS .checked)).dev.tok.vocabs = [(0, vslot .checked)] ∧ (sv (vocS .checked)).dev.tok.grams = [] ∧
      (vslot .checked).since + 1000000 ≤ max (sv (vocS .checked)).dev.now 1000000 ∧ (sv (gramS .unloading)).dev.tok.vocabs = [] ∧
      (sv (gramS .unloading)).dev.tok.grams = [(0, gslot .unloading)] ∧ (gslot .unloading).since + 1000000 ≤ max (sv (gramS .unloading)).dev.now 1000000) ∧
    ((sv (fun d => d.put Reg.GLB_ROLE.role 3)).dev.isTail = true ∧ (sv (fun d => d.put Reg.GLB_ROLE.role 3)).dev.isSolo = false ∧ (sv body).dev.isTail = false) ∧
    (let x : TokXfer := ⟨true, 0, 1, 3785, beNat (sha256Bytes gramB), []⟩; let s : State := sv (tailX x)
     s.dev.serving = true ∧ s.dev.isTail = true ∧ Tab.look 0 s.dev.tok.xfers = some x ∧ x.data.length + [(1 : Byte)].length < x.length) ∧
    (let s : State := sv (fun d => vocS .loading (gramS .loading d))
     Tab.look 0 s.dev.tok.vocabs = some (vslot .loading) ∧ Tab.look 0 s.dev.tok.grams = some (gslot .loading)) ∧
    (let s : State := sv (fun d => tracked (turns0 d))
     (s.dev.advance 5).nextText = some 0x500 ∧ s.dev.turnOf 0x500 = some (track0 .queued) ∧ s.dev.moor 0x500 = some Moor.empty ∧ (track0 .queued).texts ≠ [] ∧
       (s.dev.advance 5).vocab turn0.vocab = some voc0) := by
  (repeat' apply And.intro) <;> decide +kernel

/-- A transfer announced with the digest of its bytes. -/
theorem xfer_sha (g : List Byte) (n : Nat) (x : TokXfer) (h : x = ⟨true, 0, 1, n, beNat (sha256Bytes (([] ++ g).take n)), []⟩) :
    beNat (sha256Bytes ((x.data ++ g).take x.length)) = x.sha ∧ x.length = n ∧ x.data = [] := by
  subst h; exact ⟨rfl, rfl, rfl⟩

/-- The last bytes of a transfer: of an image that passes, and of one that does not. -/
theorem witness_TokenTransfersComplete :
    (∀ x : TokXfer, x = ⟨true, 0, 1, 3785, beNat (sha256Bytes (([] ++ gramB).take 3785)), []⟩ →
      beNat (sha256Bytes ((x.data ++ gramB).take x.length)) = x.sha ∧ x.length = 3785 ∧ x.data = []) ∧ gramB.length = 3785 ∧
    (let x : TokXfer := ⟨true, 0, 1, 3785, 0, []⟩; let d : Dev := { (sv (tailX x)).dev with tok := { (sv (tailX x)).dev.tok with xfers := Tab.del 0 [(0, x)] } }
     d.tokCheck 3785 (tokImageOf true (gramB.take 3785) good) = ST.OK ∧ d.tokCheck 3785 (tokImageOf true (gramB.take 3785) bad) = ST.TOK_SIGNATURE) := by
  exact ⟨xfer_sha gramB 3785, by decide +kernel, by decide +kernel⟩

/-- TAIL's record of the turn of session 0x500, which needs masks. -/
def tail0 : TailTurn := ⟨9, 0, 0, true, false, false, false, 601, 8, 0, 0, 0, 0, 0, true, 0, false, true, false, false⟩

/-- A selection job over one FP32 logit in core 0's SRAM. -/
def selMem (s : State) : State :=
  { s with mem := Mem.writes ((s.dev.engCtx 0 0).sram 0 0) (leBytes 4 4096 ++ leBytes 4 4 ++ leBytes 4 1 ++ leBytes 4 0 ++ [0, 0, 1, 0] ++ leBytes 4 0 ++ leBytes 4 8192 ++ [1, 0, 0, 0]) [] }

/-- The merge of results of step 7's row 0, in slot 0 for Sector 0. -/
def merges (ps : List SelRes) (d : Dev) : Dev :=
  let d : Dev := (core0 (eng0 1 false) d).setCom (Reg.SEL_MRG.enable 0).key 1
  { d with sel := { d.sel with parts := [(rowKey 0 0 0, ps)] } }

/-- A result of step 7 over tokens from a base. -/
def res7 (base : Nat) : SelRes := { SelRes.blank 0 0 0 0 0 with step := 7, base := base, length := 4 }

theorem witness_MasksAndSelectionComplete :
    (let s : State := sv (core0 (eng0 1 false)); s.dev.serving = true ∧ s.dev.isTail = true ∧ (s.dev.advance 5).jobStep 0 1 = some step0) ∧
    (let r : MaskRow := ⟨0, 0x500, [], none, false⟩; let j : MaskJob := ⟨1, 7, 1, [r]⟩
     let s : State := sv (fun d => let d : Dev := core0 (eng0 1 false) d; { d with grm := { d.grm with jobs := [(0, [j])] }, srv := { d.srv with tail := [(0x500, tail0)] } })
     let d : Dev := s.dev.advance 5
     d.served = some 0 ∧ d.maskWaits 0 = false ∧ d.nextMask 0 = some (j, r) ∧ r.area.or (d.nextArea 0 j.slots) = some 0 ∧ d.tailTurn 0x500 = some tail0 ∧
       ({ d with sel := { d.sel with runs := [(selKey 0 0, ⟨0, 0, some (0, 0)⟩)] } } : Dev).maskWaits 0 = true) ∧
    (let s : State := selMem (sv (fun d => (inStep0 (eng0 1 false) d).imgUpd 0 0 (fun r => { r with selGos := 1 })))
     let d : Dev := s.dev.advance 5
     let e : CoreEntry := ⟨0, [], [eng0 1 false], [eng0 1 false]⟩
     let j := (d.engCtx 0 0).selJob e 0 s.mem
     d.coreEntry 0 0 = some e ∧ d.inStep 0 = true ∧ (Tab.getD (selKey 0 0) ⟨0, 0, none⟩ d.sel.runs).done = 0 ∧
       0 < (d.imgRun 0 0).selGos ∧ j.rows = 1 ∧ j.bad 1 = false ∧ ((d.engCtx 0 0).selJob e 0 []).bad 1 = true ∧
       (selRows (d.engCtx 0 0) j (d.rowTab 0 7) 7 [] [0] (s.mem, d)).2.2 = none) ∧
    (let d : Dev := (sv (merges [res7 0, res7 2])).dev
     d.com (Reg.SEL_MRG.sector 0) = 0 ∧ d.mergeReady 0 0 = some (rowKey 0 0 0, [res7 0, res7 2]) ∧
       [res7 0, res7 2].any (fun a => [res7 0, res7 2].any (fun b => partlyOverlap a b)) = true ∧ d.stepRowAt 0 7 0 = some (row0, 0)) ∧
    (let d : Dev := (sv (merges [res7 0])).dev
     d.mergeReady 0 0 = some (rowKey 0 0 0, [res7 0]) ∧ [res7 0].any (fun a => [res7 0].any (fun b => partlyOverlap a b)) = false ∧
       d.stepRowAt 0 7 1 = none ∧ (sampledRows { row0 with lastChunk := true } 0).any (fun p => p.1 == 0) = true ∧
       ({ d with sel := { d.sel with merged := [(rowKey 0 7 0, res7 0)] } } : Dev).mergedRow 0 7 0 = some (res7 0) ∧ d.mergedRow 0 7 0 = none) := by
  (repeat' apply And.intro) <;> decide +kernel

/-! ### Witnesses: ownership, queues, side access -/

theorem witness_ClaimsComplete :
    (sv id).dev.answers = true ∧ (sv (fun d => d.put Reg.PWR_BOOT.mode 2)).dev.answers = true ∧
    (let s : State := sv (fun d => d.ownUpd (fun o => { o with half := [(1, 0)] }))
     Tab.look Master.portA.code (s.dev.advance 1000000).own.half = some 0 ∧ (s.dev.advance 1000000).now ≤ 0 + 1000000 ∧ max s.dev.now 1000000 ≤ 0 + 1000000 ∧
       0 + 1000000 < max s.dev.now 1000001) ∧
    (let s : State := sv (fun d => (d.put Reg.OWN_STATE.state 0).ownUpd (fun o => { o with windowEnd := some 9, claims := [3] }))
     (s.dev.advance 9).own.windowEnd = some 9 ∧ (9 : Nat) ≤ (s.dev.advance 9).now ∧
       (s.dev.advance 9).ownOrder.find? (fun m => (s.dev.advance 9).own.claims.contains m && (s.dev.advance 9).ownCandidate m) = some 3) ∧
    (let s : State := sv (fun d => (d.put Reg.OWN_STATE.state 2).ownUpd (fun o => { o with windowEnd := some 9, claims := [3], barred := 3 }))
     (s.dev.advance 9).ownOrder.find? (fun m => (s.dev.advance 9).own.claims.contains m && (s.dev.advance 9).ownCandidate m) = none) ∧
    ((sv id).dev.advance 5).owner = Master.bmc.code ∧
    (let d : Dev := (sv id).dev.advance 65536000000
     d.get Reg.OWN_STATE.state = 1 ∧ d.own.hbAt + (if d.get Reg.OWN_CFG.hb_ms = 0 then 65536 else d.get Reg.OWN_CFG.hb_ms) * 1000000 ≤ d.now) ∧
    ((1 : Nat) < 4 ∧ ((sv id).dev.advance 5).ownOrder.contains 1 = true ∧ 1 ≠ ((sv id).dev.advance 5).owner) ∧
    (let s : State := sv (fun d => d.ownUpd (fun o => { o with handoverEnd := some 9 })); (s.dev.advance 9).own.handoverEnd = some 9 ∧ 9 ≤ (s.dev.advance 9).now) ∧
    (let s : State := sv (fun d => d.put Reg.OWN_STATE.state 3); s.dev.get Reg.OWN_STATE.state = 3 ∧ s.dev.ownOrder.contains 1 = true) ∧
    Tab.look Master.portA.code (sv id).dev.own.half = none := by decide +kernel

theorem witness_OtherMastersIgnored : (sv id).dev.serving = true ∧ (sv id).dev.owner ≠ Master.portA.code := by decide +kernel

/-- A peer of kind 1, a RoCEv2 host. -/
def peer0 : PeerEntry := ⟨1, 6, 1, 4791, 1, []⟩

theorem witness_QueuesComplete :
    (((sv id).dev.fetch 0 64 hdrM).any (fun e => e.2.fromOwner e.1 && e.2.queueOk queue0 && !e.2.queueOk { queue0 with queue := 1 } && peerOk peer0 &&
      !e.2.ckptUses 255) = true ∧ peerOk { peer0 with kind := 3 } = false) ∧
    (let s : State := sv (fun d => { d with que := [(600, que0 1), (601, que0 2)] })
     (s.dev.fetch 0 64 hdrM).any (fun e => (Tab.look 600 e.2.que == some (que0 1)) && (Tab.look 601 e.2.que == some (que0 2)) && !e.2.egressNamed 601) = true ∧
       (que0 1).deleter = none) ∧
    (let s : State := sv (fun d => let d : Dev := { d with que := [(601, que0 2)] }; { d with srv := { d.srv with turns := [(0x500, { track0 .queued with entry := turnQ })] } })
     (s.dev.fetch 0 64 hdrM).any (fun e => e.2.egressNamed 601) = true) ∧
    ((sv (fun d => d.put Reg.OWN_STATE.owner 1)).dev.fetch 0 64 hdrM).any (fun e => !e.2.fromOwner e.1) = true ∧
    (let s : State := sv (fun d => { d with que := [(600, que0 1)] })
     s.dev.serving = true ∧ Tab.look 600 s.dev.que = some (que0 1) ∧ s.dev.mayRing .portA (.vf 0) 600 = true ∧ 4095 < 2 ^ (que0 1).ringLog2 ∧ (que0 1).st = .running ∧
       4095 ≠ (que0 1).sqHead ∧ 2 ^ (que0 1).ringLog2 ≤ 4096 ∧ s.dev.mayRing .portB .pf 600 = false) ∧
    (let u : Queue := { que0 2 with location := 2, acks := [64], irqPending := 1 }; let s : State := sv (fun d => { d with que := [(600, u)] })
     Tab.look 600 s.dev.que = some u ∧ u.location = 2 ∧ u.kind = 2 ∧ (que0 1).kind ≠ 2 ∧ 0 < u.irqPending ∧
       u.irqFirst + s.dev.get (Reg.QUE_IRQ.delay_us 600) * 1000 ≤ max s.dev.now 65535000 ∧ u.acks = 64 :: []) := by decide +kernel

theorem witness_PortEventsComplete : (sv id).dev.serving = true ∧ (sv id).dev.answers = true ∧ (1 : Nat) < 2 ∧ (15 : Nat) < 16 := by decide +kernel

theorem witness_SideAccessComplete :
    ((sv id).dev.serving = true ∧ (sv id).dev.mctp.up = true ∧ (sv id).dev.owner = 3 ∧ (sv id).dev.get Reg.OWN_STATE.state = 1 ∧ (sv id).dev.mctp.outstanding.length < 4 ∧
      (sv (fun d => d.put Reg.OWN_STATE.state 3)).dev.get Reg.OWN_STATE.state = 3 ∧ (sv (fun d => d.put Reg.OWN_STATE.state 3)).dev.ownOrder.contains 3 = true ∧
      4 ≤ (sv (fun d => { d with mctp := { d.mctp with outstanding := List.replicate 4 hdrM } })).dev.mctp.outstanding.length ∧
      (sv id).dev.takes .bmc .pf 0 4 = true ∧ (sv id).dev.visible .bmc .pf 0 = true ∧ (sv id).dev.takes .bmc .pf 0 8 = false ∧
      (let d : Dev := (sv (fun d => d.put Reg.PWR_BOOT.mode 2)).dev; d.takes .bmc .pf 0x30000 4 = true ∧ d.visible .bmc .pf 0x30000 = false)) ∧
    (sv id).dev.tapLive = true ∧
    (let s : State := sv (fun d => { d with boot := { d.boot with frozen := true } })
     s.dev.boot.frozen = true ∧ frzOpen (0 % 2 ^ 28) = true ∧ s.dev.debugLevel < 2 ∧ frzOpen (0x10000 % 2 ^ 28) = false ∧
       (s.dev.debugLevel = 2 ∨ frzOpen (0xFFFC % 2 ^ 28) = true)) ∧
    (let s : State := sv (fun d => let d : Dev := d.put Reg.SEC_STATUS.debug_level 2; { d with boot := { d.boot with frozen := true } })
     s.dev.boot.frozen = true ∧ s.dev.debugLevel = 2 ∧ (31 : Nat) < 32 ∧ 2 ^ 24 - 8 + 8 ≤ 2 ^ 24) := by decide +kernel

/-! ### Witnesses: links and networks -/

theorem witness_LinksComplete :
    ((sv (port0 3)).dev.serving = true ∧ (sv (port0 3)).dev.portUsed frame0.port = true ∧ (sv (port0 3)).dev.get (Reg.LNK_PORT.state frame0.port) = 3 ∧
      frame0.uncorrectable = false ∧ frame0.corrected = false ∧ frame0.cls ≠ 0 ∧ frame0.cls < 8 ∧ ({ frame0 with cls := 8 } : LinkFrame).cls = 8 ∧
      ({ frame0 with uncorrectable := true } : LinkFrame).cls ≠ 8 ∧ frame0.seq = ((sv (port0 3)).dev.lport frame0.port).rxSeq ∧
      ({ frame0 with seq := 4095 } : LinkFrame).seq ≠ ((sv (port0 3)).dev.lport 0).rxSeq) ∧
    10 ≤ (((sv (fun d => (port0 3 d).lportUpd 0 (fun p => { p with replayTimes := List.replicate 10 0 }))).dev.lport 0).replayTimes.filter
      (fun x => decide (max 0 5 < x + 1000000))).length ∧
    ((sv (port0 1)).dev.get (Reg.LNK_PORT.state 0) = 1 ∧ 2 ≤ laneCount (3 % 16) ∧ laneCount (8 % 16) < 2) ∧
    (let s : State := sv (fun d => (port0 1 d).lportUpd 0 (fun p => { p with trainStart := some 0 }))
     (s.dev.lport 0).trainStart = some 0 ∧ s.dev.get (Reg.LNK_PORT.state 0) = 1 ∧ 0 + 50000000 ≤ max s.dev.now 50000000) ∧
    ((sv (port0 2)).dev.get (Reg.LNK_PORT.state 0) = 2 ∧ (sv (port0 2)).dev.identFits 0 ⟨0, 0, 0, 0, 0, 0, 2, 0⟩ = true ∧
      (sv (port0 2)).dev.identFits 0 ⟨0, 0, 1, 0, 0, 0, 2, 0⟩ = false) ∧
    (let s : State := sv (fun d => { port0 5 d with downSince := some 0 })
     s.dev.downSince = some 0 ∧ s.dev.downPorts = [] ∧ 0 + s.dev.get Reg.LNK_CFG.down_ms * 1000000 ≤ max s.dev.now 65535000000 ∧
       (List.range 8).find? (fun i => s.dev.portUse i == 1) = some 0) ∧
    (let s : State := sv (fun d => (port0 3 d).lportUpd 0 (fun p => { p with lanes := 7, retrain := [(3, 0)] }))
     s.dev.laneUsed 0 0 = true ∧ s.dev.laneOut 0 3 = true ∧ Tab.look 3 (s.dev.lport 0).retrain = some 0 ∧ 0 + 1000000000 ≤ max s.dev.now 1000000000) ∧
    (let e : LocEntry := ⟨0x500, 0, 3, true, false, 0, 0, 0, 1, 0⟩
     let s : State := sv (fun d => { port0 3 d with loc := ⟨[(locSet 0x500, [e])], [(locSet 0x500, [e])]⟩ })
     s.dev.locLook (0 / 4) 0x500 = some e ∧ s.dev.locLook (0 / 4) 0x501 = none ∧ s.dev.buoyAt 0x501 = none ∧ e.valid = true ∧
       Tab.look e.sid s.dev.locQuery = none) ∧
    (let h : LocEntry := ⟨0x500, 0, 3, true, false, 0, 0, 0, 2, 0⟩; let s : State := sv (fun d => { d with locQuery := [(0x500, h)] })
     Tab.look 0x500 s.dev.locQuery = some h ∧ genOlder 1 h.gen = true) := by decide +kernel

theorem witness_NetworkComplete :
    (let q : QpRef := .queue 600
     let s : State := sv (fun d => { d with que := [(600, { que0 1 with location := 2 })] })
     s.dev.serving = true ∧ s.dev.hasQp q = true ∧ (s.dev.qp q).error = false ∧ (s.dev.qp q).retries < 7 ∧ (s.dev.qp q).lastCnp = none ∧
       (s.dev.qp q).lastRaise + 500000 ≤ max s.dev.now 500000) ∧
    (let q : QpRef := .queue 600
     let s : State := sv (fun d => { d with que := [(600, { que0 1 with location := 2 })], qps := [(qpKey q, ⟨7, 2 ^ 32, some 0, 0, false⟩)] })
     7 ≤ (s.dev.qp q).retries ∧ (s.dev.qp q).lastCnp = some 0 ∧ max s.dev.now 49999 < 0 + 50000 ∧ 0 + 50000 ≤ max s.dev.now 50000) ∧
    ((sv id).dev.get Reg.NET_PTP.enable = 0 ∧
      (let s : State := sv (fun d => d.put Reg.NET_PTP.enable 1); s.dev.get Reg.NET_PTP.enable = 1 ∧ s.dev.get Reg.NET_PTP.step_ns < (-2147483648 : Int).natAbs)) := by decide +kernel

/-! ### Witnesses: start, power, observation -/

theorem witness_ResetsComplete : (1000 : Nat) ≤ 1000 ∧ (sv id).dev.answers = true ∧ (sv id).dev.owner = Master.bmc.code ∧
    (let s : State := sv (fun d => d.put Reg.PWR_BOOT.mode 2)
     s.dev.inRecovery = true ∧ s.dev.awake = true ∧ s.dev.owner = Master.bmc.code ∧ light0.bytes ≤ 67108864 ∧ directoryOk light0 = true ∧ s.dev.checkImage light0 = ST.OK) := by decide +kernel

theorem witness_StartAndUpdateComplete :
    (let s : State := sv (fun d => { d with boot := { d.boot with vcoreEn := true, waitingPg := some 0, running := some light0 } })
     s.dev.boot.vcoreEn = true ∧ s.dev.boot.waitingPg = some 0 ∧ s.dev.boot.phase = .run ∧ s.dev.boot.running = some light0 ∧ 0 + 50000000 ≤ max s.dev.now 50000000) ∧
    ((sv id).dev.fetch 0 64 hdrM).any (fun e => e.2.fromOwner e.1 && e.2.keepers.any (fun k => k.role == .spare) && directoryOk light0 && e.2.checkImage light0 == ST.OK &&
      e.2.checkImage { light0 with cfg := { light0.cfg with sig := { sig0 with ecdsaOk := false } } } != ST.OK) = true := by decide +kernel

theorem witness_PowerComplete :
    (let s : State := sv (fun d => { d with mctp := { d.mctp with arrived := [], outstanding := [] } })
     s.dev.serving = true ∧ s.dev.owner = Master.bmc.code ∧ s.dev.banksSelected ≤ 6 ∧ s.dev.boot.phase = .run ∧ s.dev.quiet = true) ∧
    (let s : State := sv (fun d => { d with boot := { d.boot with phase := .entering 3 } })
     s.dev.boot.phase = .entering 3 ∧ s.dev.boot.frozen = false ∧ ((s.dev.advance 5).enterState 3).levelSources 3 = 0) ∧
    ((sv (asleep 3)).dev.boot.frozen = false ∧ (sv (asleep 3)).dev.boot.phase = .asleep 3 ∧ (sv (asleep 3)).dev.wakeEnabled 3 .mctp = true ∧
      (sv (asleep 4)).dev.boot.phase = .asleep 4 ∧ (sv (asleep 4)).dev.wakeEnabled 4 .wakeN = true) ∧
    (let s : State := sv (fun d => (((asleep 2 d).put (Reg.CLK_CMP.value 3) 0).put (Reg.CLK_CMPCTL.enable 3) 1).put (Reg.CLK_CMPCTL.level 3) 1)
     s.dev.get (Reg.CLK_CMPCTL.enable 3) = 1 ∧ s.dev.get (Reg.CLK_CMP.value 3) ≤ (s.dev.advance 5).daymark ∧ s.dev.get (Reg.CLK_CMPCTL.level 3) = 1 ∧
       s.dev.boot.phase = .asleep 2 ∧ s.dev.wakeEnabled 2 (.comparator 3) = true) ∧
    ((sv id).dev.serving = true ∧ ((sv id).dev.advance 65535000).quadFree 7 = true ∧ ((sv id).dev.get Reg.PWR_STATUS.quads_idle).testBit 7 = false ∧
      Tab.getD 7 0 (sv id).dev.boot.lastBusy + (sv id).dev.get Reg.PWR_CFG.idle_us * 1000 ≤ max (sv id).dev.now 65535000) ∧
    ((1300000 < 1300001 ∧ 5 < 6) ∧ (sv id).dev.get Reg.NET_PTP.enable = 0) := by decide +kernel

theorem witness_ObservationComplete :
    (let s : State := sv (fun d => (d.put Reg.CNT_CFG.enable 1).put (Reg.CNT_SEL.enable 62) 1)
     s.dev.serving = true ∧ s.dev.get Reg.CNT_CFG.enable = 1 ∧ s.dev.get (Reg.CNT_SEL.enable 62) = 1 ∧ s.dev.get (Reg.CNT_SEL.chain 62) = 0 ∧ s.dev.get (Reg.CNT_SEL.chain 63) = 0) ∧
    (let s : State := sv (fun d => d.put Reg.SEC_STATUS.debug_level 1)
     1 ≤ s.dev.debugLevel ∧ s.dev.lantern.general.bytes = 0 ∧ s.dev.lantern.general.lost = 0 ∧ s.dev.owner = Master.bmc.code ∧ s.dev.debugLevel < 2) ∧
    (let s : State := sv (fun d => ((sec0 d).put Reg.SEC_STATUS.debug_level 2).put Reg.DBG_MEM_ADDR.address (2 * 2 ^ 62))
     s.dev.debugLevel = 2 ∧ s.dev.fbOk (s.dev.get Reg.DBG_MEM_CTRL.sector) (s.dev.get Reg.DBG_MEM_ADDR.address) = true) ∧
    (let x : FogEntry := ⟨5, 1, 1, 0, 0, 0, 1, 0, 0, 0⟩; let s : State := sv (fun d => { d with fog := [(1023, x)] })
     Tab.look 1023 s.dev.fog = some x ∧ x.id = (⟨5, 1, 1, 0⟩ : FogReport).id) ∧
    (let s : State := sv (fun d => { d with gap := ⟨some 9, true, false⟩ }); s.dev.gap.until_ = some 9 ∧ 9 ≤ max s.dev.now 9 ∧ s.dev.gap.root = true) ∧
    (let s : State := sv (fun d => { d with gap := ⟨some 9, false, false⟩ }); s.dev.gap.root = false ∧ s.dev.gap.error = false) ∧
    ((sv id).dev.keeperRole 7 = some .active ∧ (sv id).dev.keepers.findIdx? (fun (x : Keeper) => x.role == KeeperRole.spare) = some 8) := by decide +kernel

/-! ### Witnesses: composition, Lens, media -/

/-- A map of no Sectors for an epoch, and a message of the pass for it. -/
def mapB (epoch : Nat) : List Byte := leBytes 2 0x4D53 ++ leBytes 2 1 ++ leBytes 2 epoch ++ List.replicate 1082 0
/-- The same. -/
def comp0 (kind : Nat) : CompMsg := ⟨kind, 2, 0, 0, 0, []⟩

theorem witness_CompositionComplete :
    (((sv id).dev.fetch 0 64 hdrM).any (fun e => e.2.fromOwner e.1 && e.2.checkMap (mapOf (mapB 9)) == ST.SCT_EPOCH) = true ∧
      ((sv sec0).dev.fetch 0 64 hdrM).any (fun e => e.2.fromOwner e.1 && e.2.checkMap (mapOf (mapB 2)) == ST.OK) = true) ∧
    ((sv id).dev.isHead = true ∧ (sv body).dev.isHead = false ∧ (comp0 0x11).status = ST.OK ∧
      presentMask (((sv body).dev.advance 5).mapFor 2).sects = 0 ∧ presentMask (((sv body).dev.advance 5).mapFor 2).sects ≠ 1) ∧
    (let s : State := sv (fun d => { d with comp := { d.comp with passMsg := some (0x11, 2, 0) } })
     s.dev.comp.passMsg = some (0x11, 2, 0) ∧ s.dev.comp.passAt + 10000000 ≤ max s.dev.now 10000000) ∧
    (let s : State := sv (fun d => body (sec0 d)); (2 : Nat) = nextEpoch s.dev.comp.cur.epoch ∧ s.dev.comp.prev = none) ∧
    (let p : CompMap := ⟨1, [], [], []⟩; let s : State := sv (fun d => { d with comp := { d.comp with prev := some p } })
     s.dev.comp.prev = some p ∧ s.dev.oldCount = 0 ∧ s.dev.comp.repair = false) ∧
    (sv id).dev.comp.graceEnd ≤ max (sv id).dev.now 5 ∧ (sv (fun d => { d with comp := { d.comp with passMsg := some (0x12, 2, 0) } })).dev.isHead = true ∧
    ((sv (fun d => d.put Reg.OWN_STATE.owner 1)).dev.fetch 0 64 hdrM).any (fun e => !e.2.fromOwner e.1) = true := by decide +kernel

theorem witness_SwitchKeepsBothMaps : ((sv sec0).dev.layMap 2 ((sv sec0).dev.mapFor 2).sects).isSome = true := by decide +kernel

theorem witness_LensAndStacksComplete :
    (let s : State := sv (fun d => d.put Reg.LENS_SAMP_CFG.enable 1); s.dev.serving = true ∧ s.dev.get Reg.LENS_SAMP_CFG.enable = 1 ∧ s.dev.lens.sweepAt ≤ max s.dev.now 5) ∧
    (sv id).dev.get Reg.LENS_SAMP_CFG.enable = 0 ∧ (sv id).dev.get (Reg.STK_STATUS.halted 11) = 0 ∧
    (let s : State := sv (fun d => d.put (Reg.STK_CFG.scrub_hours 11) 24)
     s.dev.get (Reg.STK_CFG.scrub_hours 11) ≠ 0 ∧ 0 ≤ s.dev.get (Reg.STK_CFG.spare_threshold 11)) ∧
    (let s : State := sv (fun d => let d : Dev := d.put (Reg.STK_CH.state 11 127) 1; { d with media := { d.media with stk := [(11, ⟨true, [], [], none⟩)] } })
     s.dev.owner = Master.bmc.code ∧ (s.dev.freeSpare 11).isSome = true ∧ (s.dev.stack 11).sparing = none ∧ s.dev.get (Reg.STK_CH.state 11 0) = 0) ∧
    (let x : Sparing := ⟨0, 120, 0⟩; let s : State := sv (fun d => { d with media := { d.media with stk := [(11, ⟨true, [], [], some x⟩)] } })
     (s.dev.stack 11).sparing = some x) := by decide +kernel

/-- A LUN of two block groups in the states and with the erase counts given, whose first holds extent 0 of the pool where `data` says so. -/
def lun0 (st0 er0 st1 er1 : Nat) (data : Bool) (d : Dev) : Dev :=
  let d : Dev := ((d.put (Reg.FLS_CH.state 0) 1).put Reg.POOL_SIZE.t2_gib 1).put Reg.FLS_GEOM.pages 8
  let tab : Tab FtlEntry := if data then [(0, ⟨0, 0, 0, 0, 1⟩)] else []
  let f : Flash := { d.media.flash with luns := [(0, 2)], groups := [(0, ⟨st0, er0, 0, 0⟩), (1, ⟨st1, er1, 0, 0⟩)], table := tab }
  { d with media := { d.media with flash := f } }

theorem witness_FlashComplete :
    (let d : Dev := (sv (lun0 0 0 0 0 false)).dev.advance 5
     (sv (lun0 0 0 0 0 false)).dev.serving = true ∧ d.extentKey 16 0 = some 1 ∧ d.nextChan 16 = some 0 ∧
       Dev.pickLun 0 (Dev.flUpd (fun f => { f with seq := 1 }) (d.flUpd (fun f => { f with lastChan := Tab.put 16 0 f.lastChan }))) = some 0 ∧
       (Dev.takePages 0 (Dev.flUpd (fun f => { f with seq := 1 }) (d.flUpd (fun f => { f with lastChan := Tab.put 16 0 f.lastChan })))).isSome = true ∧
       d.lunActive 0 = true) ∧
    (let d : Dev := ((sv (fun d => (lun0 0 0 0 0 false d).put Reg.FLS_CFG.gc_low 3)).dev.advance 5).trim
     d.lunActive 0 = true ∧ (d.freeGroups 0).length < d.get Reg.FLS_CFG.gc_low ∧ d.gcVictim 0 = none) ∧
    (let d : Dev := ((sv (fun d => (lun0 2 0 0 0 true d).put Reg.FLS_CFG.gc_low 2)).dev.advance 5).trim
     d.lunActive 0 = true ∧ (d.freeGroups 0).length < d.get Reg.FLS_CFG.gc_low ∧ d.gcVictim 0 = some 0 ∧
       ((d.relocateGroup 0 0 []).extentsIn 0 0).all (fun e => (d.relocateGroup 0 0 []).media.flash.failed.contains e) = true ∧
       (d.extentsIn 0 0).any (fun e => ([] : List Nat).contains e) = false ∧ (d.extentsIn 0 0).any (fun e => [0].contains e) = true) ∧
    (let d : Dev := ((sv (fun d => (lun0 2 0 0 9 true d).put Reg.FLS_CFG2.wl_spread 8)).dev.advance 5).trim
     d.lunActive 0 = true ∧ d.get Reg.FLS_CFG2.wl_spread + (d.eraseCounts 0).foldl min ((d.eraseCounts 0).headD 0) < (d.eraseCounts 0).foldl max 0 ∧
       bestBy false (fun g => (d.blockGroup 0 g).erases) ((d.groupsOf 0).filter (fun g => !(d.extentsIn 0 g).isEmpty)) = some 0) ∧
    (sv (fun d => d.put Reg.FLS_CFG.retention_days 30)).dev.get Reg.FLS_CFG.retention_days ≠ 0 := by decide +kernel

/-! ### Witnesses: the pool -/

theorem witness_ExtentEventsComplete :
    (let s : State := sv (fun d => d.put (Reg.POOL_HOST_CAP.t1_chunks 5) 1)
     s.dev.serving = true ∧ (s.dev.fetch 0 64 hdrM).any (fun e => e.2.fromOwner e.1 && e.2.extentNext == some (0, 0) &&
       decide (e.2.partitionUsed 5 1 + (if ext0.rights.testBit 3 then 2 * ext0.bytes else ext0.bytes) ≤ e.2.partition 5 1)) = true ∧
       ext0.bytes ≠ 0 ∧ ext0.bytes % 65536 = 0 ∧ ext0.tier = 1) ∧
    ((sv id).dev.fetch 0 64 hdrM).any (fun e => decide (e.2.partition 5 1 < e.2.partitionUsed 5 1 + ext0.bytes)) = true ∧
    (((sv (pool0 ext1)).dev.advance 5).fetch 0 64 hdrM).any (fun e => e.2.extentOf ext0.handle == some (1, ext1) && decide (ext1.grants.length < 8) &&
      ext1.grants.any (fun g => ext0.host == 0xFFFF || g.host == ext0.host) && !ext1.grants.any (fun g => (6 : Nat) == 0xFFFF || g.host == 6)) = true ∧
    8 ≤ (List.replicate 8 (Grant.new 6 7)).length ∧ (sv sec0).dev.extentOf ext0.handle = none ∧
    (let g : Grant := ⟨5, 7, true, 9, []⟩; let x : Extent := { ext1 with grants := [g] }; let s : State := sv (pool0 x)
     Tab.look 1 s.dev.pool.extents = some x ∧ g.drainEnd ≤ max s.dev.now 9 ∧ s.dev.idx.idx = []) ∧
    (let s : State := sv (fun d => let d : Dev := pool0 ext1 d; { d with pool := { d.pool with queues := [(5, [req64 1])] } })
     Tab.getD (req64 1).host [] (s.dev.advance 5).pool.queues = req64 1 :: [] ∧ (s.dev.advance 5).bucketOk 5 = true) ∧
    (let p : StagedPub := ⟨5, 77, 3, 0, [1], 0⟩; let x : Extent := { ext1 with staged := [p], windowEnd := some 9 }; let s : State := sv (pool0 x)
     Tab.look 1 (s.dev.advance 9).pool.extents = some x ∧ 9 ≤ (s.dev.advance 9).now ∧ pubWinner x.version x.staged = some p) ∧
    (let x : Extent := { ext1 with oldWriter := some (5, 9) }; Tab.look 1 ((sv (pool0 x)).dev.advance 9).pool.extents = some x) ∧
    (let o : PoolOut := ⟨0x500, 0, 1, true⟩; let s : State := sv (fun d => { d with pool := { d.pool with requests := [(77, o), (78, { o with opened := false })] } })
     Tab.look 77 s.dev.pool.requests = some o ∧ o.opened = true ∧ (Tab.look 78 s.dev.pool.requests).any (fun o => !o.opened) = true) ∧
    (let w : CodedWrite := ⟨⟨false, none, true⟩, [(0, 1)], [], 0, 0, 64, none⟩; let s : State := sv (fun d => { d with pool := { d.pool with coded := [(0x500, w)] } })
     Tab.look 0x500 (s.dev.advance 65535000000).pool.coded = some w ∧
       w.started + (s.dev.advance 65535000000).get Reg.POOL_CFG.code_timeout_ms * 1000000 ≤ (s.dev.advance 65535000000).now) := by decide +kernel

theorem witness_PoolRequestsComplete :
    (let d : Dev := (sv (pool0 ext1)).dev.advance 5
     (sv (pool0 ext1)).dev.serving = true ∧ (req64 1).tagOk = true ∧ Tab.getD 5 [] d.pool.queues = [] ∧ d.bucketOk 5 = true ∧
       (d.bucketDebit 5 64).extentOf 1 = some (1, ext1) ∧ ext1.window = none ∧ ([1, 2, 3, 4, 5, 6, 7, 8, 9].all (fun op => d.poolCheck op (req64 op) == ST.OK)) = true ∧
       firstDiff 0 (Mem.reads (extAddr 1 ext1 0) 64 []) (List.replicate 64 0) = none ∧ firstDiff 0 (Mem.reads (extAddr 1 ext1 0) 64 []) [1] = some 0 ∧
       d.poolCheck 5 { req64 5 with flags := 4 } = ST.OK ∧
       ((d.bucketDebit 5 64).grantOf ext1 5).any (fun g => g.rights.testBit 2) = true ∧ ext1.oldWriter = none) ∧
    ({ ext1 with oldWriter := some (5, 9) } : Extent).oldWriter = some ((req64 9).host, 9) := by decide +kernel

theorem witness_PoolRequestsTurnedAway :
    (let s : State := sv (fun d => let d : Dev := pool0 ext1 d; { d with pool := { d.pool with queues := [(5, [req64 1])] } }); let d : Dev := s.dev.advance 5
     s.dev.serving = true ∧ (1, Instr.poolRead (req64 1) 5) ∈ poolCommands (req64 1) 5 ∧ d.poolCheck 1 (req64 1) = ST.OK ∧ (req64 1).tagOk = true ∧
       Tab.getD 5 [] d.pool.queues ≠ [] ∧ (Tab.getD 5 [] d.pool.queues).length < 256 ∧ 256 ≤ (List.replicate 256 (req64 1)).length) ∧
    (let d : Dev := (sv (pool0 ext1)).dev.advance 5
     d.poolCheck 1 { req64 1 with offset := 65536 } ≠ ST.OK ∧ d.poolCheck 2 (req64 2) ≠ ST.POOL_NOEXTENT ∧ d.extentOf { req64 1 with handle := 2 }.handle = none) ∧
    (let g : Grant := ⟨5, 7, true, 9, []⟩; let x : Extent := { ext1 with grants := [g] }; let d : Dev := (sv (pool0 x)).dev.advance 5
     d.extentOf (req64 1).handle = some (1, x) ∧ d.grantOf x 5 = some g ∧ g.draining = true) := by decide +kernel

/-! ### Witnesses: vector search -/

theorem witness_VectorSearchComplete :
    (let b := fun o k => leNat ((List.range k).map (fun i => contentByte [(0, vec0.headerBytes)] (o + i)))
     ((sv (idx0 none)).dev.fetch 0 64 hdrQ).any (fun e => e.2.entSector e.1 == some 0 && headerOk b (idxHeader 0 0 b) (2 ^ 20) && Tab.look 63 e.2.idx.idx == none &&
       (e.2.rangePlace 0 (ceilDiv (idxHeader 0 0 b).rangeBytes 65536 * 16)).isSome && !headerOk b (idxHeader 0 0 b) 1) = true) ∧
    ((sv (idx0 (some vec0))).dev.fetch 0 64 hdrQ).any (fun e => e.2.indexFor e.1 0 == some vec0 && vec0.st == 2 && Tab.look 0 e.2.idx.idx == some vec0 && e.2.idx.queries == []) = true ∧
    (((sv (idx0 (some vec0))).dev.advance 5).fetch 0 64 hdrQ).any (fun e => e.2.tableOk 0 && e.2.indexFor e.1 query0.index == some vec0 && e.2.queryOk e.1 vec0 query0 [] &&
      e.2.queryRoom vec0 && e.2.inWindow e.1 0 16 && e.2.inWindow e.1 64 16) = true ∧
    (((sv (fun d => let d : Dev := (idx0 (some vec0) d).put Reg.IDX_CFG.max_queries 1; { d with idx := { d.idx with queries := [(0, qctx0 0)] } })).dev.advance 5).fetch 0 64 hdrQ).any
      (fun e => !e.2.queryRoom vec0) = true ∧
    (let j : TableJob := ⟨0, [0], 0, false⟩
     let s : State := sv (fun d => let d : Dev := idx0 (some vec0) d; { d with idx := { d.idx with queries := [(0, qctx0 0)], tables := [(0, [j])] } })
     Tab.getD 0 [] (s.dev.advance 5).idx.tables = j :: [] ∧ (s.dev.advance 5).distReady 0 j = true ∧ Tab.look 0 (s.dev.advance 5).idx.queries = some (qctx0 0) ∧
       Tab.look (qctx0 0).q.index (s.dev.advance 5).idx.idx = some vec0 ∧ j.since + (s.dev.advance 65535000).get Reg.IDX_CFG.table_wait_us * 1000 ≤ (s.dev.advance 65535000).now ∧
       ((s.dev.advance 5).secCores j.sector).contains 0 = true) ∧
    (let s : State := sv (fun d => let d : Dev := idx0 (some vec0) d; { d with idx := { d.idx with queries := [(0, qctx0 0)], gather := [(0, ([0], 0))] } })
     (s.dev.advance 65535000).idx.gather = [(0, ([0], 0))] ∧ vec0.sector = 0 ∧ 0 + (s.dev.advance 65535000).get Reg.IDX_CFG.batch_us * 1000 ≤ (s.dev.advance 65535000).now) ∧
    (let s : State := sv (fun d => let d : Dev := idx0 (some vec0) d; { d with idx := { d.idx with queries := [(0, qctx0 2)] } })
     Tab.look 0 s.dev.idx.queries = some (qctx0 2) ∧ (qctx0 2).phase = 2 ∧ (QueryCtx.pick (((qctx0 2).round.foldl (fun q p => QueryCtx.expand vec0 s.mem [] p q) (qctx0 2, false)).1)).2 = true) := by decide +kernel

theorem witness_VectorWritesComplete :
    (let e : Ent := ⟨.queue 602, 1, false, 7, 0⟩; let x : VecIndex := { vec0 with hwm := 1, writes := [.delete e 0] }
     let s : State := { sv (idx0 (some x)) with mem := x.writeRec 0 ⟨0, 0, noTomb, true, 0, List.replicate 8 0, []⟩ [] }
     Tab.look 0 s.dev.idx.idx = some x ∧ 0 < x.hwm ∧ (x.readRec 0 s.mem).inUse = true ∧ (x.readRec 0 s.mem).del = noTomb) ∧
    (let e : Ent := ⟨.queue 602, 1, false, 7, 0⟩; let x : VecIndex := { vec0 with writes := [.insert e 9 (List.replicate 16 0) 0 2 (List.replicate 8 0) []] }
     Tab.look 0 (sv (idx0 (some x))).dev.idx.idx = some x ∧ x.freed = [] ∧ x.hwm < x.capacity ∧ ({ x with hwm := x.capacity } : VecIndex).capacity ≤ ({ x with hwm := x.capacity } : VecIndex).hwm) ∧
    (let x : VecIndex := { vec0 with hwm := 1, freeable := [(0, 1)] }; let s : State := sv (fun d => (idx0 (some x) d).put (Reg.IDX_REPAIR.share 0) 1)
     Tab.look 0 s.dev.idx.idx = some x ∧ x.st = 2 ∧ x.hwm ≠ 0 ∧ s.dev.get (Reg.IDX_REPAIR.share 0) ≠ 0 ∧ s.dev.nodeHeld 0 x 0 1 s.mem = false ∧
       x.freeable.find? (fun e => e.1 == 0) = some (0, 1) ∧ ({ x with st := 3 } : VecIndex).st ≠ 2) := by decide +kernel

/-! ### Witnesses: checkpoint and restore -/

theorem witness_CheckpointPassesComplete :
    (let s : State := sv (fun d => (sec0 d).put Reg.CKPT_CFG.interval_s 1)
     s.dev.serving = true ∧ ((s.dev.advance 5).fetch 0 64 hdrM).any (fun e => e.2.fromOwner e.1 && e.2.isCoordinator && e.2.ckpt.run.isNone && e.2.ckpt.restoring.isNone &&
       e.2.seedsOk e.2.domainId 0) = true ∧
     (let d : Dev := s.dev.advance 1000000000
      d.get Reg.CKPT_CFG.interval_s ≠ 0 ∧ d.isCoordinator = true ∧ d.ckpt.lastAt + 1000000000 * d.get Reg.CKPT_CFG.interval_s ≤ d.now)) ∧
    (let s : State := sv (fun d => let d : Dev := sec0 d; { d with sec := { d.sec with seeds := [(0, 5)] } })
     s.dev.seedsOk s.dev.domainId ((List.range 16).map (fun n => if s.dev.present n then 2 ^ n else 0)).sum = true) ∧
    (((sv (cut0 run0)).dev.advance 5).fetch 0 64 hdrM).any (fun e => e.2.isCoordinator && e.2.ckpt.run.isSome) = true ∧
    (let s : State := sv (fun d => body (cut0 run0 d)); s.dev.isHead = false ∧ (s.dev.advance 5).runOf (ckpt0 0x22) = true ∧ ((sv body).dev.advance 5).runOf (ckpt0 0x22) = false) ∧
    (let d : Dev := (sv (cut0 run0)).dev.advance 65536000000
     d.isCoordinator = true ∧ d.runOf (ckpt0 0x21) = true ∧ d.ckpt.run = some run0 ∧ run0.coord = true ∧ run0.cutting = false ∧
       run0.startedAt + (if d.get Reg.CKPT_CFG.quiesce_ms = 0 then 256 else d.get Reg.CKPT_CFG.quiesce_ms) * 1000000 ≤ d.now) ∧
    (let r : CkptRun := { run0 with cutting := true, cutSteps := [(0, 0)] }; let d : Dev := (sv (cut0 r)).dev.advance 5
     d.ckpt.run = some r ∧ r.cutDone = false ∧ (sectorsOf r.sectors).all (fun n => d.cutReady r n) = true) ∧
    (let s : State := sv (fun d => { d with ckpt := { d.ckpt with passMsg := some (ckpt0 0x20, 0) } }); (s.dev.advance 10000000).ckpt.passMsg = some (ckpt0 0x20, 0)) := by decide +kernel

/-- A candidate of one full checkpoint of group 0 for a model revision, with its shards' files. -/
def cand0 (seq revision : Nat) (files : List (Nat × ShardFile)) : RestoreCand :=
  ⟨seq, [⟨true, true, ⟨0, true, seq, 0, 1, 1, revision, 0, [⟨0, 1, [(0, 7)]⟩], [], []⟩, files⟩], [], true, true, 0⟩

/-- A shard whose header does not fit. -/
def file0 : ShardFile := { hdrOk := false, domain := 0, seq := 4, tagOk := true, digestOk := true, objects := [] }

/-- Sector 0 with an image and no sessions, in a checkpoint domain whose seed is there. -/
def restoring0 (d : Dev) : Dev :=
  let d : Dev := core0 (eng0 1 false) d
  { d with ses := { d.ses with buoys := [], moors := [] }, sec := { d.sec with seeds := [(0, 5)] } }

theorem witness_CheckpointCopiesAndRestores :
    (let o : PendObj := ⟨0, ⟨0, 0, 0x500, 0, 0, 0, .dropMark⟩, Loc.none_, 0, 0⟩; let r : CkptRun := { run0 with cutDone := true, pend := [o] }
     ((sv (cut0 r)).dev.advance 5).ckpt.run = some r ∧ r.reported = false ∧ r.pend ≠ []) ∧
    (let r : CkptRun := { run0 with cutDone := true, shards := some [], listsSince := some 0 }
     ((sv (cut0 r)).dev.advance 10000000).ckpt.run = some r ∧ ((sv (cut0 r)).dev.advance 5).listsIn r = true ∧ 0 + 10000000 ≤ ((sv (cut0 r)).dev.advance 10000000).now) ∧
    ((sv (cut0 { run0 with cutDone := true })).dev.advance 5).runOf (ckpt0 0x24) = true ∧
    (let s : State := sv restoring0
     (s.dev.fetch 0 64 hdrM).any (fun e => e.2.fromOwner e.1 && e.2.isHead && e.2.ckpt.run.isNone && e.2.ckpt.restoring.isNone &&
       !(sectorsOf 1).any (fun n => e.2.sectorBuoys n != 0) && !(sectorsOf 1).any (fun n => (e.2.activeImg n).isNone) && e.2.seedsOk 0 1) = true ∧
       (s.dev.fetch 0 64 hdrM).any (fun e => e.2.fromOwner e.1 && !e.2.seedsOk 1 1) = true) ∧
    ((sv (core0 (eng0 1 false))).dev.fetch 0 64 hdrM).any (fun e => e.2.fromOwner e.1 && (sectorsOf 1).any (fun n => e.2.sectorBuoys n != 0)) = true ∧
    ((sv sec0).dev.fetch 0 64 hdrM).any (fun e => (sectorsOf 1).any (fun n => (e.2.activeImg n).isNone)) = true ∧
    (let d : Dev := (sv restoring0).dev
     candWhole 0 0 (cand0 4 0 []) = true ∧ candWhole 1 0 (cand0 4 0 []) = false ∧ d.placementOk 1 0 (cand0 4 0 []) = true ∧ d.placementOk 1 0 (cand0 4 9 []) = false ∧
       d.restoreShort 1 0 true (cand0 4 0 []) = none ∧ (cand0 4 0 []).otherRoom = true ∧ candShards (cand0 4 0 []) = ST.OK ∧
       candShards (cand0 4 0 [(0, file0)]) ≠ ST.OK ∧ candManifest (cand0 4 0 []) ≠ none) ∧
    (let e : Ent := ⟨.mctp, 1, false, 7, 0⟩
     let s : State := sv (fun d => { d with ckpt := { d.ckpt with restoring := some (e, 1, false, [cand0 4 0 []], 0) } })
     s.dev.isHead = true ∧ s.dev.ckpt.restoring = some (e, 1, false, [cand0 4 0 []], 0) ∧ (sv body).dev.isHead = false) := by
  (repeat' apply And.intro) <;> decide +kernel

/-! ### Witnesses: security, and the whole machine -/

/-- svc with an established SPDM session 1 of the owner over MCTP, and one of port A's physical function. -/
def spdm0 (d : Dev) : Dev :=
  { d with sec := { d.sec with spdm := [(1, ⟨2, .pf, true, true, true, 3, 0⟩), (2, ⟨0, .pf, true, true, true, 3, 0⟩), (3, ⟨2, .pf, false, true, true, 3, 0⟩)] } }

theorem witness_SecurityMessagesAnswered :
    ((sv spdm0).dev.answers = true ∧ (sv spdm0).dev.securityOk chan0 = true ∧ (sv id).dev.securityOk chan0 = false) ∧
    (let s : State := sv (fun d => (spdm0 d).norUpd (fun n => { n with anchor := some 0 }))
     sigVerifies sig0 = true ∧ sig0.signer = 1 ∧ s.dev.sec.nor.anchor = some sig0.keyId ∧ sigVerifies { sig0 with ecdsaOk := false } = false) ∧
    ((sv spdm0).dev.hostHoldsGrant 255 = false ∧ (sv (pool0 ext1)).dev.hostHoldsGrant 5 = true) ∧
    ((sv spdm0).dev.domainBusy 0 = false ∧ (sv (cut0 run0)).dev.domainBusy (sv (cut0 run0)).dev.domainId = true) ∧
    ((sv spdm0).dev.get Reg.SEC_STATUS.debug_level ≤ 2 ∧ (sv (fun d => { d with boot := { d.boot with frozen := true } })).dev.boot.frozen = true) := by decide +kernel

theorem witness_ProtocolsComplete :
    (let s : State := sv (fun d => d.linkPut chan0 ⟨true, true, true⟩)
     (s.dev.spdmLink chan0).version = true ∧ (s.dev.spdmLink chan0).capabilities = true ∧ (s.dev.spdmLink chan0).algorithms = true ∧ (s.dev.certChain 0).isSome = true ∧
       s.dev.sec.spdm.length < 8 ∧ Tab.firstFree s.dev.sec.spdm 1 9 = some 1) ∧
    8 ≤ (List.replicate 8 (⟨2, .pf, true, true, true, 3, 0⟩ : SpdmSession)).length ∧
    ((sv spdm0).dev.handshake ⟨2, .pf, 3⟩).isSome = true ∧ ((sv spdm0).dev.spdmSession chan0).isSome = true ∧ ((sv spdm0).dev.spdmSession ⟨0, .pf, 2⟩).isSome = true ∧
    (let s : State := sv (fun d => (spdm0 d).idePut 0 16 ⟨[(0, 9)], some 0, false⟩)
     Tab.has 0 (s.dev.ideStream 0 16).keys = true ∧ (s.dev.ideStream 0 16).active = some 0) ∧
    ((sv spdm0).dev.spdmSession chan0).isNone = false ∧ (sv spdm0).dev.debugLevel < 2 ∧ (sv spdm0).dev.get (Reg.SEC_TDI.state 31) = 0 ∧
    2 ≤ (sv (fun d => d.put Reg.SEC_STATUS.debug_level 2)).dev.debugLevel ∧ (sv (fun d => d.put (Reg.SEC_TDI.state 31) 1)).dev.get (Reg.SEC_TDI.state 31) = 1 := by decide +kernel

theorem witness_BadAccessHasNoEffect : (∃ r ∈ regRows, r.width = 64) ∧ (findReg 0).isSome = true ∧ (sv id).dev.answers = true ∧ accessOk 0 8 = false ∧ accessOk 2 4 = false := by
  refine ⟨?_, ?_⟩
  · exact List.any_eq_true.mp (by decide +kernel : regRows.any (fun r => decide (r.width = 64)) = true) |>.imp (fun r h => ⟨h.1, of_decide_eq_true h.2⟩)
  · decide +kernel

theorem witness_KeysInUseStay :
    (let s : State := sv (fun d => spdm0 (pool0 ext1 d)); s.dev.answers = true ∧ s.dev.securityOk chan0 = true ∧ s.dev.hostHoldsGrant 5 = true) ∧
    (let s : State := sv (fun d => spdm0 (cut0 run0 d)); s.dev.securityOk chan0 = true ∧ s.dev.ckpt.run.isSome = true) ∧
    (let s : State := sv sec0; ((s.dev.advance 5).fetch 0 64 hdrM).any (fun e => e.2.fromOwner e.1 && e.2.isCoordinator && e.2.ckpt.run.isNone && e.2.ckpt.restoring.isNone &&
       !e.2.seedsOk (e.2.get Reg.CKPT_DOMAIN.domain_id) 1) = true) ∧
    (let s : State := sv (fun d => let d : Dev := core0 (eng0 1 false) d; { d with ses := { d.ses with buoys := [], moors := [] } })
     (s.dev.fetch 0 64 hdrM).any (fun e => e.2.fromOwner e.1 && e.2.isHead && e.2.ckpt.run.isNone && e.2.ckpt.restoring.isNone &&
       !(sectorsOf 1).any (fun n => e.2.sectorBuoys n != 0) && !(sectorsOf 1).any (fun n => (e.2.activeImg n).isNone) && !e.2.seedsOk 0 1) = true) := by decide +kernel

theorem witness_LensTimeFollowsTheDaymark : (sv (asleep 3)).dev.boot.phase = .asleep 3 ∧ (sv id).dev.serving = true := by decide +kernel

theorem witness_OtherCommandsKeepMemory : mayWriteMemory (.sesQueryGo .bmc) = false ∧ exec (.sesQueryGo .bmc) State.reset = .next State.reset := by
  refine ⟨rfl, rfl⟩

end Sys2Proof.Tests
end

section
/-! PROOFS. Accesses to BAR0 that are not of a register's width or alignment (R4): what the register tables say of widths, when an access is
good, and that each row that makes an access answers a bad one with Unsupported Request alone. -/
namespace Sys2Proof.Machine

/-! ### Widths, and the accesses that are good -/

/-- Every register of the tables is 32 or 64 bits wide (R4). -/
theorem width_of_mem_regRows : ∀ r ∈ regRows, r.width = 32 ∨ r.width = 64 := by decide +kernel

theorem width_of_findReg {o : Nat} {r : RegDesc} (h : findReg o = some r) : r.width = 32 ∨ r.width = 64 :=
  width_of_mem_regRows r (List.mem_of_find?_eq_some h)

/-- Where a register lies, a good access is of its full width and naturally aligned; that such an access has 4 or 8 bytes follows from
the widths of the tables. -/
theorem accessOk_iff_of_findReg {o bytes : Nat} {r : RegDesc} (h : findReg o = some r) :
    accessOk o bytes = true ↔ 8 * bytes = r.width ∧ o % bytes = 0 := by
  have hw := width_of_findReg h
  simp only [accessOk, h, Bool.and_eq_true, Bool.or_eq_true, beq_iff_eq]
  constructor
  · rintro ⟨⟨-, ho⟩, hr⟩
    exact ⟨hr.symm, ho⟩
  · rintro ⟨hr, ho⟩
    exact ⟨⟨by omega, ho⟩, hr.symm⟩

theorem Dev.takes_of_visible {m : Master} {fn : Fn} {o : Nat} {d : Dev} (h : d.visible m fn o = true) (bytes : Nat) :
    d.takes m fn o bytes = accessOk o bytes := by
  simp [Dev.takes, h]

theorem Dev.takes_iff_of_not_visible {m : Master} {fn : Fn} {o : Nat} {d : Dev} (h : d.visible m fn o = false) (bytes : Nat) :
    d.takes m fn o bytes = true ↔ (bytes = 4 ∨ bytes = 8) ∧ o % bytes = 0 := by
  simp [Dev.takes, h]

/-! ### The answer to a bad access -/

/-- Unsupported Request is a completion on the bus: no frame of a Lemdin port carries it. -/
theorem sendFrames_emit_unsupportedRequest (o : Nat) (d : Dev) :
    Dev.sendFrames d (d.emit (.unsupportedRequest o)) = d.emit (.unsupportedRequest o) :=
  sendFrames_one (.unsupportedRequest o) rfl

theorem onAwake_unsupportedRequest {f : Dev → Dev} {s : State} {o : Nat} (ha : s.dev.answers = true)
    (hf : f s.dev = s.dev.emit (.unsupportedRequest o)) :
    onAwake f s = .next { s with dev := s.dev.emit (.unsupportedRequest o) } := by
  obtain ⟨hw, hm⟩ := (Bool.and_eq_true _ _).mp ha
  rw [onAwake_answering hw hm, hf, sendFrames_emit_unsupportedRequest]

section BadAccess
variable {s : State} {a : RegAccess} (hb : a.bar2 = false) (ht : s.dev.takes a.master a.fn a.off a.bytes = false)
include hb ht

theorem Dev.readAccess_bad (late : Nat) : s.dev.readAccess a late = s.dev.emit (.unsupportedRequest a.off) := by
  simp [Dev.readAccess, hb, ht]

variable (ha : s.dev.answers = true)
include ha

theorem exec_registerWrite_bad (v late : Nat) :
    exec (.registerWrite a v late) s = .next { s with dev := s.dev.emit (.unsupportedRequest a.off) } := by
  change execRegisterWrite a v late s = _
  simp [execRegisterWrite, ha, hb, ht]

theorem exec_rcCounterRead_bad (late : Nat) :
    exec (.rcCounterRead a late) s = .next { s with dev := s.dev.emit (.unsupportedRequest a.off) } :=
  onAwake_unsupportedRequest ha (Dev.readAccess_bad hb ht late)

theorem exec_idxEpochRead_bad : exec (.idxEpochRead a) s = .next { s with dev := s.dev.emit (.unsupportedRequest a.off) } :=
  onAwake_unsupportedRequest ha (Dev.readAccess_bad hb ht 0)

theorem exec_bar0BadAccess_bad (write : Bool) :
    exec (.bar0BadAccess a write) s = .next { s with dev := s.dev.emit (.unsupportedRequest a.off) } := by
  change execBar0BadAccess a write s = _
  exact onAwake_unsupportedRequest ha (by simp [hb, ht])

end BadAccess

/-- Settles O57: the widths by evaluating the register tables, the good accesses by the two cases of the function's view, and the answer
to a bad access row by row. -/
theorem badAccessHasNoEffect : Obligations.BadAccessHasNoEffect := by
  unfold Obligations.BadAccessHasNoEffect
  refine ⟨width_of_mem_regRows, fun o bytes r => accessOk_iff_of_findReg, fun d m fn o bytes => ?view, fun s a ha hb ht => ?answer⟩
  case view => exact ⟨fun h => Dev.takes_of_visible h bytes, fun h => Dev.takes_iff_of_not_visible h bytes⟩
  case answer =>
    exact ⟨exec_registerWrite_bad hb ht ha, exec_rcCounterRead_bad hb ht ha, exec_idxEpochRead_bad hb ht ha,
      exec_bar0BadAccess_bad hb ht ha⟩

end Sys2Proof.Machine
end

section
/-! PROOFS. Keys and seeds in use (R465): what a security message answers within a session that carries it, that a reset leaves no host key
and no seed because no step of the start installs one (R517), and the refusal of a checkpoint or restore without seeds (R398). -/
namespace Sys2Proof.Machine

/-! ### Key messages -/

theorem onAwake_of_answers {f : Dev → Dev} {s : State} (ha : s.dev.answers = true) : onAwake f s = .next (s.after (f s.dev)) := by
  obtain ⟨hw, hm⟩ := (Bool.and_eq_true _ _).mp ha
  exact onAwake_answering hw hm

@[simp] theorem State.after_sec (s : State) (d : Dev) : (s.after d).dev.sec = d.sec := sendFrames_sec s.dev d

@[simp] theorem State.after_out (s : State) (d : Dev) : (s.after d).dev.out = d.out := sendFrames_out s.dev d

section KeyMessages
variable {s : State} {ch : SecChannel} (ha : s.dev.answers = true) (hs : s.dev.securityOk ch = true)
include ha hs

/-- A security message in a session that may carry it does its work, and its response is the last thing sent (R467). -/
theorem onAwake_security (f : Dev → Nat × List Nat × Dev) :
    onAwake (fun d => d.security ch f) s =
      .next (s.after ((f s.dev).2.2.emit (.secResp ch (f s.dev).1 (f s.dev).2.1))) := by
  rw [onAwake_of_answers ha, Dev.security, if_pos hs]

theorem exec_hostKeySet_inUse {host : Nat} (hh : host < 256) (hg : s.dev.hostHoldsGrant host = true) (key : Nat) :
    exec (.hostKeySet ch host key) s =
      .next (s.after ((s.dev.flag Reg.SEC_ERR.key_refused).emit (.secResp ch ST.SEC_INUSE []))) := by
  change onAwake (fun d => d.security ch (fun d => d.hostKeySet (wrap 8 host) key)) s = _
  rw [onAwake_security ha hs, wrap_of_lt hh, Dev.hostKeySet, if_pos hg]

theorem exec_domainSeedSet_inUse {domain : Nat} (hb : s.dev.domainBusy domain = true) (sectors seed : Nat) :
    exec (.domainSeedSet ch sectors domain seed) s =
      .next (s.after ((s.dev.flag Reg.SEC_ERR.key_refused).emit (.secResp ch ST.SEC_INUSE []))) := by
  change onAwake (fun d => d.security ch (fun d => d.domainSeedSet sectors domain seed)) s = _
  rw [onAwake_security ha hs, Dev.domainSeedSet, if_pos hb]

end KeyMessages

/-- A checkpoint or restore under way makes the chip's own domain busy. -/
theorem Dev.domainBusy_domainId {d : Dev} (h : d.ckpt.run.isSome = true ∨ d.ckpt.restoring.isSome = true) :
    d.domainBusy d.domainId = true := by
  simpa [Dev.domainBusy] using h

/-! ### A reset leaves no keys -/

/-- The host keys and the checkpoint seeds that the key engine holds (R465). -/
def Dev.keysHeld (d : Dev) : Tab Nat × Tab Nat := (d.sec.hostKeys, d.sec.seeds)

@[simp] theorem Dev.keysHeld_put (f : Fld) (v : Nat) (d : Dev) : (d.put f v).keysHeld = d.keysHeld := rfl

@[simp] theorem Dev.keysHeld_norUpd (f : NorSecure → NorSecure) (d : Dev) : (d.norUpd f).keysHeld = d.keysHeld := rfl

@[simp] theorem Dev.keysHeld_raiseVcore (d : Dev) : d.raiseVcore.keysHeld = d.keysHeld := rfl

@[simp] theorem Dev.keysHeld_startFails (step st : Nat) (d : Dev) : (d.startFails step st).keysHeld = d.keysHeld := by
  unfold Dev.startFails
  extract_lets shown marked boot waits
  have hm : marked.keysHeld = shown.keysHeld := by unfold marked; split <;> rfl
  calc ((waits.openWindow 0 0).emit (.started 2)).keysHeld
    _ = marked.keysHeld := rfl
    _ = shown.keysHeld := hm
    _ = d.keysHeld := rfl

@[simp] theorem Dev.keysHeld_imageRefused (st : Nat) (d : Dev) : (d.imageRefused st).keysHeld = d.keysHeld := by
  unfold Dev.imageRefused
  split_ifs <;> rfl

@[simp] theorem Dev.keysHeld_showAnchor (d : Dev) : d.showAnchor.keysHeld = d.keysHeld := by
  unfold Dev.showAnchor
  split <;> rfl

theorem keysHeld_foldl_put (f : Dev → Nat → Fld × Nat) (l : List Nat) (d : Dev) :
    (l.foldl (fun d k => d.put (f d k).1 (f d k).2) d).keysHeld = d.keysHeld := by
  induction l generalizing d with
  | nil => rfl
  | cons k l ih => exact (ih _).trans (Dev.keysHeld_put ..)

/-- The key-generation record lies in the NOR (R454): loading it makes no host key and no seed. -/
@[simp] theorem Dev.keysHeld_loadGens (d : Dev) : d.loadGens.keysHeld = d.keysHeld := by
  unfold Dev.loadGens
  refine (keysHeld_foldl_put (fun d k => (Reg.SEC_KEYGEN.gen k, Tab.getD k 0 d.sec.nor.gens)) _ _).trans ?_
  split <;> rfl

/-- A verified image brings keys of images, none of a host or domain. -/
@[simp] theorem Dev.keysHeld_takeImage (l : LightList) (d : Dev) : (d.takeImage l).keysHeld = d.keysHeld := by
  simp only [Dev.takeImage, Dev.keysHeld_put, Dev.keysHeld_showAnchor]
  rfl

/-- However the start ends, at a failed step or at the wait for VCORE_PG (R519), it installs no host key and no seed. -/
theorem Dev.keysHeld_romStart (d : Dev) : d.romStart.keysHeld = d.keysHeld := by
  unfold Dev.romStart
  split
  · exact Dev.keysHeld_startFails ..
  extract_lets sec keyed identified
  have hid : identified.keysHeld = d.keysHeld := rfl
  rw [← hid]
  split
  · exact Dev.keysHeld_startFails ..
  · split_ifs <;> simp <;> exact Dev.keysHeld_loadGens identified

theorem Dev.keysHeld_cleared (cause : Nat) (env : RomEnv) (nor : Option LightList) (d : Dev) :
    (d.cleared cause env nor).keysHeld = ([], []) := rfl

theorem Dev.keysHeld_restart (cause : Nat) (env : RomEnv) (nor : Option LightList) (d : Dev) :
    (d.restart cause env nor).keysHeld = ([], []) :=
  (Dev.keysHeld_romStart _).trans (Dev.keysHeld_cleared cause env nor d)

/-! ### Checkpoints and restores without seeds -/

theorem Dev.ownerAdmin_of_fetch {h : EntryHdr} {e : Ent} {d d' : Dev} (hf : d.fetch 0 64 h = some (e, d')) (ho : d'.fromOwner e = true)
    (denied : Nat) (f : Ent → Dev → Dev) : d.ownerAdmin h denied f = f e d' := by
  simp only [Dev.ownerAdmin, Dev.admin, hf, ho, if_true]

/-- Checks 1 to 3 of R397 passed, the fourth refuses a checkpoint for which a seed is absent. -/
theorem Dev.takeCkpt_noSeeds {d : Dev} {sectors : Nat} (hc : d.isCoordinator = true) (hr : d.ckpt.run = none)
    (hq : d.ckpt.restoring = none) (hs : d.seedsOk d.domainId sectors = false) (ent : Option Ent) (full : Bool) (newest : Nat) :
    d.takeCkpt ent sectors full true newest = (ST.CKPT_NOKEY, d) := by
  simp [Dev.takeCkpt, hc, hr, hq, hs]

section Refusals
variable {s : State} {h : EntryHdr} {e : Ent} {d : Dev} {sectors : Nat} (hv : s.dev.serving = true) (ho : d.fromOwner e = true)
  (hr : d.ckpt.run = none) (hq : d.ckpt.restoring = none)
include hv ho hr hq

theorem exec_ckptTake_noSeeds {t : Nat} (hf : (s.dev.advance t).fetch 0 64 h = some (e, d)) (hc : d.isCoordinator = true)
    (hs : d.seedsOk d.domainId sectors = false) (full : Bool) (newest : Nat) :
    exec (.ckptTake h sectors full true newest t) s = .next (s.after (d.complete e ST.CKPT_NOKEY 0)) := by
  change execCkptTake h sectors full true newest t s = _
  rw [execCkptTake, onServing_serving hv, Dev.ownerAdmin_of_fetch hf ho, Dev.takeCkpt_noSeeds hc hr hq hs]
  rfl

theorem exec_ckptRestore_noSeeds {domain : Nat} (hf : s.dev.fetch 0 64 h = some (e, d)) (hh : d.isHead = true)
    (hb : (sectorsOf sectors).any (fun n => d.sectorBuoys n != 0) = false)
    (hi : (sectorsOf sectors).any (fun n => (d.activeImg n).isNone) = false) (hs : d.seedsOk domain sectors = false)
    (cold : Bool) (seq group status : Nat) (cands : List RestoreCand) :
    exec (.ckptRestore h sectors cold seq domain group status cands) s = .next (s.after (d.complete e ST.CKPT_NOKEY 0)) := by
  change execCkptRestore h sectors cold seq domain group status cands s = _
  rw [execCkptRestore, onServing_serving hv, Dev.ownerAdmin_of_fetch hf ho]
  simp only [hh, hr, hq, hb, hi, hs, Option.isSome_none, Bool.not_true, Bool.not_false, Bool.or_self, Bool.true_or, Bool.false_eq_true,
    if_false, if_true]
  rfl

end Refusals

/-- Settles O58: the messages by their answers in use, the reset by what the start keeps, the refusals by the checks in their order. -/
theorem keysInUseStay : Obligations.KeysInUseStay := by
  unfold Obligations.KeysInUseStay
  refine ⟨fun s ch host key ha hs hh hg => ?hostKey, fun s ch mask seed ha hs hb => ?seeds, fun cause env nor d => ?reset,
    fun s h mask newest t full e d hv hf ho hc hr hq hn => exec_ckptTake_noSeeds hv ho hr hq hf hc hn full newest,
    fun s h sectors dom grp seq cold cs e d hv hf ho hh hr hq hb hi hn =>
      exec_ckptRestore_noSeeds hv ho hr hq hf hh hb hi hn cold seq grp ST.OK cs⟩
  case hostKey => exact ⟨_, exec_hostKeySet_inUse ha hs hh hg key, by simp, by simp [Dev.emit, ST.SEC_INUSE]⟩
  case seeds =>
    exact ⟨_, exec_domainSeedSet_inUse ha hs (Dev.domainBusy_domainId hb) mask seed, by simp, by simp [Dev.emit, ST.SEC_INUSE]⟩
  case reset => exact Prod.ext_iff.mp (Dev.keysHeld_restart cause env nor d)

end Sys2Proof.Machine
end

section
/-! PROOFS. Accesses to BAR0 outside every window of the function's view (R572): BAR0 takes them, a write leaves the state as it is, a read
answers zero; and the view that recovery leaves (R520). -/
namespace Sys2Proof.Machine

/-- In recovery only the GLB, OWN, PWR and SEC windows respond, and only to the physical function (R520). -/
theorem Dev.visible_iff_of_inRecovery {d : Dev} (hr : d.inRecovery = true) (m : Master) (fn : Fn) (o : Nat) :
    d.visible m fn o = true ↔ fn = .pf ∧ o < 0x00050000 ∧ (o < 0x00030000 ∨ 0x00040000 ≤ o) := by
  cases fn with
  | pf => simp [Dev.visible, hr, clkOffset]
  | vf n => simp [Dev.visible, hr]

theorem regWrite_outside {m : Master} {fn : Fn} {o : Nat} {s : State} (hv : s.dev.visible m fn o = false) (v late : Nat) :
    regWrite m fn o v late s = .next s := by
  simp [regWrite, hv]

section OutsideView
variable {s : State} {a : RegAccess} (hb : a.bar2 = false) (ht : s.dev.takes a.master a.fn a.off a.bytes = true)
  (hv : s.dev.visible a.master a.fn a.off = false)
include hb ht hv

theorem Dev.readAccess_outside (late : Nat) : s.dev.readAccess a late = s.dev.emit (.regValue a.off 0) := by
  simp [Dev.readAccess, hb, ht, hv]

variable (ha : s.dev.answers = true)
include ha

theorem exec_registerWrite_outside (v late : Nat) : exec (.registerWrite a v late) s = .next s := by
  change execRegisterWrite a v late s = _
  simp [execRegisterWrite, ha, hb, ht, regWrite_outside hv]

theorem exec_rcCounterRead_outside (late : Nat) :
    exec (.rcCounterRead a late) s = .next (s.after (s.dev.emit (.regValue a.off 0))) := by
  rw [← Dev.readAccess_outside hb ht hv late]
  exact onAwake_of_answers ha

end OutsideView

/-- Settles O7: an aligned access outside the view is one that BAR0 takes, so neither row reaches a register; the recovery clause by the
view that R520 leaves. -/
theorem outsideEveryWindow : Obligations.OutsideEveryWindow := by
  unfold Obligations.OutsideEveryWindow
  intro s a v late ha hb hw ho
  refine ⟨fun hv => ?outside, fun hr hbeyond => ?recovery⟩
  case outside =>
    have ht : s.dev.takes a.master a.fn a.off a.bytes = true := (Dev.takes_iff_of_not_visible hv a.bytes).mpr ⟨hw, ho⟩
    exact ⟨exec_registerWrite_outside hb ht hv ha v late, exec_rcCounterRead_outside hb ht hv ha late⟩
  case recovery =>
    refine Bool.eq_false_iff.mpr fun hv => ?_
    obtain ⟨-, hlow, -⟩ := (Dev.visible_iff_of_inRecovery hr a.master a.fn a.off).mp hv
    omega

end Sys2Proof.Machine
end

section
/-! PROOFS. The block as a whole: which commands change the device alone, that every command answers a next state, that the waiting commands
stay and memory stays canonical, and what a step on an empty queue does. -/
namespace Sys2Proof.Machine

/-! ### Commands that change the device alone -/

/-- The outcome is a next state that differs from `s` in the device only. -/
def OnlyDev (o : Host.Outcome State Fault Refusal) (s : State) : Prop := ∃ d, o = .next { s with dev := d }

theorem OnlyDev.answers {o : Host.Outcome State Fault Refusal} {s : State} (h : OnlyDev o s) : Answers o s := by
  obtain ⟨d, rfl⟩ := h
  exact answers_dev s d

theorem onlyDev_onServingMem {f : List Host.Cell → Dev → List Host.Cell × Dev} {s : State} (h : ∀ mem d, (f mem d).1 = mem) :
    OnlyDev (onServingMem f s) s := by
  unfold onServingMem
  split
  · exact ⟨_, by rw [h]⟩
  · exact ⟨s.dev, rfl⟩

theorem onlyDev_execVocabLoad (hdr : EntryHdr) (id sectors kind source length : Nat) (host : List Byte) (sig : SigVerdict) (t : Nat) (s : State) :
    OnlyDev (execVocabLoad hdr id sectors kind source length host sig t s) s := onlyDev_onServingMem fun _ _ => rfl

theorem onlyDev_execGrammarLoad (hdr : EntryHdr) (id sectors kind source length : Nat) (host : List Byte) (sig : SigVerdict) (t : Nat) (s : State) :
    OnlyDev (execGrammarLoad hdr id sectors kind source length host sig t s) s := onlyDev_onServingMem fun _ _ => rfl

/-! ### Pool requests that write nothing -/

/-- A request whose opcode is not that of its command fails the check of its form (R355). -/
theorem Dev.op_of_poolCheck {code : Nat} {r : PoolReq} {d : Dev} (h : d.poolCheck code r = ST.OK) : r.op = code := by
  unfold Dev.poolCheck at h
  split at h
  · exact absurd h (by decide)
  · split at h
    · exact absurd h (by decide)
    · extract_lets at h
      split_ifs at h
      iterate 5 exact absurd h (by decide)
      simp_all

/-- A read, a publish, a handover and a release change no byte: a publish stages its content aside (R353, R359). -/
theorem Dev.poolRun_mem {r : PoolReq} (h : r.op = 1 ∨ 7 ≤ r.op) (mem : List Host.Cell) (d : Dev) : (d.poolRun r mem).1 = mem := by
  unfold Dev.poolRun
  split
  · rfl
  · extract_lets
    split
    case h_2 | h_3 | h_4 | h_5 | h_6 => omega
    case h_1 => rfl
    all_goals exact (apply_ite Prod.fst ..).trans (ite_self mem)

theorem Dev.poolRequest_mem {code : Nat} (h : code = 1 ∨ 7 ≤ code) (r : PoolReq) (mem : List Host.Cell) (d : Dev) :
    (d.poolRequest code r mem).1 = mem := by
  unfold Dev.poolRequest
  extract_lets st q
  split_ifs with hno htag hok hq
  case pos => rfl
  all_goals first | rfl | exact Dev.poolRun_mem (Dev.op_of_poolCheck (not_not.mp hok) ▸ h) mem _

/-! ### Every command -/

/-- A command outside `mayWriteMemory` is lifted to the state from a change of the device, or hands memory back as it was. -/
theorem exec_onlyDev {i : Instr} (h : mayWriteMemory i = false) (s : State) : OnlyDev (exec i s) s := by
  cases i with
  | registerWrite | sessionWorkComplete | pageMigrationSwitch | partLossRebuild | gemm | gemmGated | gemmGather | norm | rope | elemwise
  | attnFwd | attnBwd | kvAppend | recur | distTable | adapt | commandComplete | routeBuildDone | coreStepStart | refineIssue
  | stepWatchdogExpiry | stepBoundary | imageLoad | imageActivateTimer | headStepStart | row | data | selJobDone | maskReady | indexCreate
  | indexDrop | queryRoundDone | insertWritePhase | repairSweep | nodeSlotFree | mapDrainDone | grantDestroy | poolWrite | poolFill
  | poolCopy | poolCompare | poolReduce | poolQueueRelease | poolResponse | publishWindowEnd | codeMemberTimeout | restoreCommit | regwrite
  | powerOnReset | resetN | brownOut | pwrCtrlReset | recoveryLoad | powerEntryComplete | wakeEvent | comparatorMatch | vcorePgRise =>
    exact Bool.noConfusion h
  | vocabLoad => exact onlyDev_execVocabLoad _ _ _ _ _ _ _ _ _ s
  | grammarLoad => exact onlyDev_execGrammarLoad _ _ _ _ _ _ _ _ _ s
  | poolRead | poolPublish | poolHandover | poolRelease =>
    exact onlyDev_onServingMem fun _ _ => Dev.poolRequest_mem (by decide) _ _ _
  | _ => exact ⟨_, rfl⟩

theorem exec_answers (i : Instr) (s : State) : Answers (exec i s) s := by
  cases hi : mayWriteMemory i with
  | false => exact (exec_onlyDev hi s).answers
  | true =>
    cases i with
    | registerWrite a value late => exact answers_execRegisterWrite a value late s
    | sessionWorkComplete sid r => exact answers_execSessionWorkComplete sid r s
    | pageMigrationSwitch sid stream ordinal verified => exact answers_execPageMigrationSwitch sid stream ordinal verified s
    | partLossRebuild sid codedOk => exact answers_execPartLossRebuild sid codedOk s
    | gemm core img => exact answers_execGemm core img s
    | gemmGated core img => exact answers_execGemmGated core img s
    | gemmGather core img => exact answers_execGemmGather core img s
    | norm core img => exact answers_execNorm core img s
    | rope core img => exact answers_execRope core img s
    | elemwise core img => exact answers_execElemwise core img s
    | attnFwd core img faults => exact answers_execAttnFwd core img faults s
    | attnBwd core img faults => exact answers_execAttnBwd core img faults s
    | kvAppend core img copying => exact answers_execKvAppend core img copying s
    | recur core img => exact answers_execRecur core img s
    | distTable core t => exact answers_execDistTable core t s
    | adapt core img => exact answers_execAdapt core img s
    | commandComplete core img index t => exact answers_execCommandComplete core img index t s
    | routeBuildDone sector entry t => exact answers_execRouteBuildDone sector entry t s
    | coreStepStart core step rows t => exact answers_execCoreStepStart core step rows t s
    | refineIssue core img => exact answers_execRefineIssue core img s
    | stepWatchdogExpiry core t => exact answers_execStepWatchdogExpiry core t s
    | stepBoundary sector batch t => exact answers_execStepBoundary sector batch t s
    | imageLoad hdr sector sourceKind source length host sig => exact answers_execImageLoad hdr sector sourceKind source length host sig s
    | imageActivateTimer sector t => exact answers_execImageActivateTimer sector t s
    | headStepStart sector batch t => exact answers_execHeadStepStart sector batch t s
    | row f sector batch buoy => exact answers_execRow f sector batch buoy s
    | data sector batch segment last addr bytes => exact answers_execData sector batch segment last addr bytes s
    | selJobDone core img ties t => exact answers_execSelJobDone core img ties t s
    | maskReady sector row t => exact answers_execMaskReady sector row t s
    | indexCreate hdr index sourceKind source length content => exact answers_execIndexCreate hdr index sourceKind source length content s
    | indexDrop hdr index => exact answers_execIndexDrop hdr index s
    | queryRoundDone query failed => exact answers_execQueryRoundDone query failed s
    | insertWritePhase index unreadable => exact answers_execInsertWritePhase index unreadable s
    | repairSweep index unreadable => exact answers_execRepairSweep index unreadable s
    | nodeSlotFree index node => exact answers_execNodeSlotFree index node s
    | mapDrainDone => exact answers_execMapDrainDone s
    | grantDestroy extent host t => exact answers_execGrantDestroy extent host t s
    | poolWrite r t => exact answers_execPoolWrite r t s
    | poolFill r t => exact answers_execPoolFill r t s
    | poolCopy r t => exact answers_execPoolCopy r t s
    | poolCompare r t => exact answers_execPoolCompare r t s
    | poolReduce r t => exact answers_execPoolReduce r t s
    | poolQueueRelease r t => exact answers_execPoolQueueRelease r t s
    | poolResponse p => exact answers_execPoolResponse p s
    | publishWindowEnd extent t => exact answers_execPublishWindowEnd extent t s
    | codeMemberTimeout sid member t => exact answers_execCodeMemberTimeout sid member t s
    | restoreCommit sectors cold sourceGroup cand status => exact answers_execRestoreCommit sectors cold sourceGroup cand status s
    | regwrite off width value late => exact answers_execRegwrite off width value late s
    | resetN lowNs env => exact answers_execResetN lowNs env s
    | pwrCtrlReset m env => exact answers_execPwrCtrlReset m env s
    | recoveryLoad m image env => exact answers_execRecoveryLoad m image env s
    | powerEntryComplete env t => exact answers_execPowerEntryComplete env t s
    | wakeEvent src inLast8 env t => exact answers_execWakeEvent src inLast8 env t s
    | comparatorMatch k inLast8 env t => exact answers_execComparatorMatch k inLast8 env t s
    | vcorePgRise env t => exact answers_execVcorePgRise env t s
    | powerOnReset | brownOut => exact answers_startOver _ _ _ s
    | _ => exact Bool.noConfusion hi

/-- Settles O6: every command answers a state that differs from the former in the device and in memory only. -/
theorem everyCommandAnswers : Obligations.EveryCommandAnswers := by
  unfold Obligations.EveryCommandAnswers
  intro c s
  obtain ⟨m, d, h, -⟩ := exec_answers c s
  exact ⟨_, h, rfl⟩

/-- What `exec` answers has canonical memory where the state had. -/
theorem exec_keeps_safe {c : Instr} {s t : State} (hs : s.safe) (h : exec c s = .next t) : t.safe := by
  obtain ⟨m, d, ha, hm⟩ := exec_answers c s
  obtain rfl : _ = t := Host.Outcome.next.inj (ha.symm.trans h)
  exact hm hs

/-- Settles O5: an idle tick leaves memory as it is, and every command keeps its canonical form. -/
theorem stepKeepsMemoryCanonical : Obligations.StepKeepsMemoryCanonical := by
  unfold Obligations.StepKeepsMemoryCanonical
  intro s t hs h
  unfold step at h
  split at h
  case h_1 =>
    obtain rfl : _ = t := Host.Outcome.next.inj h
    exact hs
  case h_2 c rest _ => exact exec_keeps_safe (s := { s with pending := rest }) hs h

/-- Settles O60: a command outside the list changes the device alone. -/
theorem otherCommandsKeepMemory : Obligations.OtherCommandsKeepMemory := by
  unfold Obligations.OtherCommandsKeepMemory
  intro i s u hi h a
  obtain ⟨d, hd⟩ := exec_onlyDev hi s
  obtain rfl : _ = u := Host.Outcome.next.inj (hd.symm.trans h)
  rfl

/-! ### Steps and the reset -/

/-- Settles O1: by the definition of a step. -/
theorem stepRunsFrontCommand : Obligations.StepRunsFrontCommand := by
  unfold Obligations.StepRunsFrontCommand
  intro s c
  rfl

/-- An idle block's clock edge is at most 40 ns long. -/
theorem Dev.tickNs_le (d : Dev) : d.tickNs ≤ 40 := by
  unfold Dev.tickNs
  split <;> omega

theorem Dev.idleTick_eq (d : Dev) :
    d.idleTick = { d with now := d.now + d.tickNs, daymark := wrap 64 (d.daymark + d.tickNs) } := by
  simp [Dev.idleTick, Dev.advance]

/-- Settles O2: the tick is `tickNs`, by the phase the device is in. -/
theorem emptyQueueTicks : Obligations.EmptyQueueTicks := by
  unfold Obligations.EmptyQueueTicks
  intro s hp
  refine ⟨s.dev.tickNs, s.dev.tickNs_le, ?step, fun h => ?run, fun h => ?deep, fun h => ?off⟩
  case step =>
    rw [← Dev.idleTick_eq]
    simp only [step, hp, State.idle]
  case run | deep | off => simp only [Dev.tickNs, h]

/-- Settles O3: by evaluating the state after a reset. -/
theorem resetLeaves : Obligations.ResetLeaves := by
  unfold Obligations.ResetLeaves
  refine ⟨rfl, rfl, ?_, ?_, ?_, ?_, ?_, ?_⟩ <;> decide +kernel

/-- Settles O4: memory is empty at reset. -/
theorem resetMemoryCanonical : Obligations.ResetMemoryCanonical := wf_nil

/-! ### Register fields -/

/-- Settles O8: by the access code, each of which puts one value or leaves the field as it is. -/
theorem fieldTakesWrite : Obligations.FieldTakesWrite := by
  unfold Obligations.FieldTakesWrite
  intro f g v late d
  have hbits : wrap f.width (fieldBits f v) = fieldBits f v := wrap_wrap _ _
  refine ⟨?plain, fun h => ?w1c, fun h => ?w1s, fun h hl => ?open_, fun h hl => ?locked, ?ignored, fun hk => ?other⟩
  case plain => rintro (h | h) <;> simp [Dev.writeField, h, hbits]
  case w1c | w1s => simp [Dev.writeField, h]
  case open_ => simp [Dev.writeField, h, hl, hbits]
  case locked => simp [Dev.writeField, h, hl]
  case ignored => rintro (h | h) <;> simp [Dev.writeField, h]
  case other =>
    unfold Dev.writeField
    split
    case h_5 => exact get_ite rfl (Dev.get_put_other hk _ d)
    case h_6 => rfl
    all_goals exact Dev.get_put_other hk _ d

end Sys2Proof.Machine
end

section
/-! PROOFS. Buoys and Moorings: what the named updates of a session leave in its Buoy (R40, R45, R87). -/
namespace Sys2Proof.Machine

/-! ### Tables -/

theorem Tab.find?_mapv {α : Type} (p : Nat × α → Bool) (f : Nat → α → α) (hp : ∀ k x, p (k, f k x) = p (k, x)) (t : Tab α) :
    (Tab.mapv f t).find? p = (t.find? p).map (fun e => (e.1, f e.1 e.2)) := by
  induction t with
  | nil => rfl
  | cons e t ih =>
    obtain ⟨k, x⟩ := e
    have hkx := hp k x
    simp only [Tab.mapv, List.find?_cons] at ih ⊢
    cases hx : p (k, x) <;> simp_all

/-! ### Parts of the device that updates of a session leave alone -/

@[simp] theorem Dev.touch_ses (sid : Nat) (d : Dev) : (d.touch sid).ses = d.ses := by
  unfold Dev.touch
  split
  · split <;> rfl
  · rfl

@[simp] theorem Dev.snapMark_ses (sector sid key : Nat) (l : Loc) (bytes : List Byte) (d : Dev) :
    (d.snapMark sector sid key l bytes).ses = d.ses := by
  simp only [Dev.snapMark, (Dev.reported_event _ _ _).ses, Dev.bump_ses]

@[simp] theorem Dev.partStall_ses (sid kind : Nat) (d : Dev) : (d.partStall sid kind).ses = d.ses := by
  unfold Dev.partStall
  split
  · exact Dev.snapMark_ses ..
  · rfl

@[simp] theorem Dev.locInstall_ses (e : LocEntry) (d : Dev) : (d.locInstall e).ses = d.ses := by
  unfold Dev.locInstall
  dsimp only
  split <;> rfl

@[simp] theorem Dev.locSync_ses (sid : Nat) (d : Dev) : (d.locSync sid).ses = d.ses := by
  unfold Dev.locSync
  split
  · exact Dev.locInstall_ses ..
  · rfl

@[simp] theorem Dev.moorUpd_buoys (sid : Nat) (f : Moor → Moor) (d : Dev) : (d.moorUpd sid f).ses.buoys = d.ses.buoys := by
  simp [Dev.moorUpd]

@[simp] theorem Dev.ctrlUpd_buoys (sid : Nat) (f : Ctrl → Ctrl) (d : Dev) : (d.ctrlUpd sid f).ses.buoys = d.ses.buoys := by
  simp [Dev.ctrlUpd]

@[simp] theorem Dev.rootUpd_buoys (sid : Nat) (f : Moor → Moor) (d : Dev) : (d.rootUpd sid f).ses.buoys = d.ses.buoys :=
  Dev.moorUpd_buoys ..

/-! ### The Buoy of a session -/

/-- A session's Buoy is read from the table of Buoys alone. -/
theorem Dev.buoy_congr {d e : Dev} (h : e.ses.buoys = d.ses.buoys) (sid : Nat) : e.buoy sid = d.buoy sid := by
  simp [Dev.buoy, Dev.buoyAt, h]

theorem Dev.buoy_sid {sid : Nat} {b : Buoy} {d : Dev} (h : d.buoy sid = some b) : b.sid = sid := by
  simp only [Dev.buoy, Dev.buoyAt, Option.map_eq_some_iff] at h
  obtain ⟨e, he, rfl⟩ := h
  simpa using List.find?_some he

/-- A change of a session's Buoy that keeps its session ID. -/
theorem Dev.buoy_buoyUpd {sid : Nat} {f : Buoy → Buoy} (hf : ∀ b, b.sid = sid → (f b).sid = sid) (d : Dev) :
    (d.buoyUpd sid f).buoy sid = (d.buoy sid).map f := by
  have hsid : ∀ (k : Nat) (x : Buoy), ((k, if x.sid == sid then f x else x).2.sid == sid) = (x.sid == sid) := by
    intro k x
    by_cases hx : x.sid = sid <;> simp [hx, hf]
  simp only [Dev.buoy, Dev.buoyAt, Dev.buoyUpd, Dev.partStall_ses, Dev.touch_ses]
  rw [Tab.find?_mapv _ _ hsid]
  cases hb : d.ses.buoys.find? (fun e => e.2.sid == sid) with
  | none => rfl
  | some e => simp [by simpa using List.find?_some hb]

theorem Dev.buoy_locsUpd {sid : Nat} {f : Buoy → Buoy} (hf : ∀ b, b.sid = sid → (f b).sid = sid) (d : Dev) :
    (d.locsUpd sid f).buoy sid = (d.buoy sid).map (fun b => { f b with mapEpoch := d.comp.cur.epoch }) :=
  Dev.buoy_buoyUpd (f := fun b => { f b with mapEpoch := d.comp.cur.epoch }) hf d

@[simp] theorem Dev.buoy_moorUpd (sid k : Nat) (f : Moor → Moor) (d : Dev) : (d.moorUpd k f).buoy sid = d.buoy sid :=
  Dev.buoy_congr (Dev.moorUpd_buoys ..) sid

@[simp] theorem Dev.buoy_ctrlUpd (sid k : Nat) (f : Ctrl → Ctrl) (d : Dev) : (d.ctrlUpd k f).buoy sid = d.buoy sid :=
  Dev.buoy_congr (Dev.ctrlUpd_buoys ..) sid

@[simp] theorem Dev.buoy_rootUpd (sid k : Nat) (f : Moor → Moor) (d : Dev) : (d.rootUpd k f).buoy sid = d.buoy sid :=
  Dev.buoy_moorUpd ..

@[simp] theorem Dev.buoy_locSync (sid k : Nat) (d : Dev) : (d.locSync k).buoy sid = d.buoy sid :=
  Dev.buoy_congr (by rw [Dev.locSync_ses]) sid

@[simp] theorem Dev.buoy_flag (sid : Nat) (f : Fld) (d : Dev) : (d.flag f).buoy sid = d.buoy sid := rfl

@[simp] theorem Dev.buoy_emit (sid : Nat) (e : Emission) (d : Dev) : (d.emit e).buoy sid = d.buoy sid := rfl

@[simp] theorem Dev.buoy_opUpd (sid k : Nat) (f : SesOp → SesOp) (d : Dev) : (d.opUpd k f).buoy sid = d.buoy sid := rfl

/-! ### Places and transitions -/

/-- Where an object lies is no matter of its session's ID, state or generation. -/
theorem setLoc_buoy (o : ObjRef) (l : Loc) (x : Buoy × Moor) :
    (setLoc o l x).1.sid = x.1.sid ∧ (setLoc o l x).1.state = x.1.state ∧ (setLoc o l x).1.gen = x.1.gen := by
  cases o <;> exact ⟨rfl, rfl, rfl⟩

theorem placeAll_buoy (plan : List Spot) (x : Buoy × Moor) :
    (placeAll plan x).1.sid = x.1.sid ∧ (placeAll plan x).1.state = x.1.state ∧ (placeAll plan x).1.gen = x.1.gen := by
  refine foldl_keeps (fun y : Buoy × Moor => y.1.sid = x.1.sid ∧ y.1.state = x.1.state ∧ y.1.gen = x.1.gen) ?_ plan ⟨rfl, rfl, rfl⟩
  rintro y s ⟨hsid, hst, hgen⟩
  obtain ⟨ksid, kst, kgen⟩ := setLoc_buoy s.obj s.loc y
  exact ⟨ksid.trans hsid, kst.trans hst, kgen.trans hgen⟩

theorem movePlan_buoy (plan : List Spot) (b : Buoy) (m : Moor) :
    (movePlan plan b m).1.sid = b.sid ∧ (movePlan plan b m).1.state = b.state ∧ (movePlan plan b m).1.gen = b.gen :=
  placeAll_buoy plan (b, m)

/-- A completed transition leaves the state it leads to and the next generation (R40, R45). -/
theorem Dev.buoy_transition (sid st : Nat) (d : Dev) :
    (d.transition sid st).buoy sid = (d.buoy sid).map (fun b =>
      { b with state := st, gen := wrap 16 (b.gen + 1), waitSince := if st = 3 ∧ b.state ≠ 3 then d.dayUnits else b.waitSince }) :=
  (Dev.buoy_locSync ..).trans (Dev.buoy_buoyUpd (by exact fun _ h => h) d)

/-- A session written back has the Buoy given, its epoch apart (R40). -/
theorem Dev.buoy_putSession {sid : Nat} {b b' : Buoy} {d : Dev} (h : d.buoy sid = some b) (hs : b'.sid = sid) (m : Moor) :
    (d.putSession sid b' m).buoy sid = some { b' with mapEpoch := d.comp.cur.epoch } := by
  simp [Dev.putSession, Dev.buoy_locsUpd (fun _ _ => hs), h]

/-- What `transition` makes of a Buoy whose generation is known. -/
theorem Dev.exists_transition {sid st : Nat} {b : Buoy} {d : Dev} (h : d.buoy sid = some b) :
    ∃ b', (d.transition sid st).buoy sid = some b' ∧ b'.state = st ∧ b'.gen = wrap 16 (b.gen + 1) := by
  rw [Dev.buoy_transition, h]
  exact ⟨_, rfl, rfl, rfl⟩

/-- A session whose objects move by a plan and that then changes its state. -/
theorem Dev.exists_putSession_transition {sid st : Nat} {plan : List Spot} {b : Buoy} {m : Moor} {d : Dev} (h : d.buoy sid = some b) (m' : Moor) :
    ∃ b', ((d.putSession sid (movePlan plan b m).1 m').transition sid st).buoy sid = some b' ∧ b'.state = st ∧ b'.gen = wrap 16 (b.gen + 1) := by
  obtain ⟨hsid, -, hgen⟩ := movePlan_buoy plan b m
  obtain ⟨b', hb', hst, hg⟩ := Dev.exists_transition (st := st) (Dev.buoy_putSession h (hsid.trans (Dev.buoy_sid h)) m')
  exact ⟨b', hb', hst, hg.trans (by rw [← hgen])⟩

end Sys2Proof.Machine
end

section
/-! PROOFS. What a chip's work leaves a session in (R45, R87), and the acceptance of a command (R47). -/
namespace Sys2Proof.Machine

/-! ### The work of a command -/

@[simp] theorem Dev.buoy_revokeExports (sid k : Nat) (d : Dev) : (d.revokeExports k).buoy sid = d.buoy sid := rfl

@[simp] theorem Dev.buoy_recordDel (sid k : Nat) (d : Dev) : (d.recordDel k).buoy sid = d.buoy sid := rfl

@[simp] theorem Dev.releaseShared_buoys (sid : Nat) (d : Dev) : (d.releaseShared sid).ses.buoys = d.ses.buoys := by
  unfold Dev.releaseShared
  split <;> rfl

@[simp] theorem Dev.exportWindow_ses (sid host : Nat) (peers : List Nat) (bytes : Nat) (record : Bool) (d : Dev) :
    (d.exportWindow sid host peers bytes record).ses = d.ses := by
  unfold Dev.exportWindow
  split <;> rfl

theorem Dev.ite_exportWindow_ses (c : Prop) [Decidable c] (sid host : Nat) (peers : List Nat) (bytes : Nat) (record : Bool) (d : Dev) :
    (if c then d.exportWindow sid host peers bytes record else d).ses = d.ses := by
  split <;> simp

theorem Dev.buoy_flag_ite (sid : Nat) (c : Prop) [Decidable c] (f : Fld) (d : Dev) : (if c then d.flag f else d).buoy sid = d.buoy sid := by
  split <;> rfl

section Work
variable {sid : Nat} {d : Dev} {b : Buoy} {m : Moor} (hb : d.buoy sid = some b)
include hb

theorem Dev.buoy_workMoveCommit (g c : Nat) :
    ∃ b', (d.workMoveCommit sid g c).buoy sid = some b' ∧ b'.state = 7 ∧ b'.remGroup = g ∧ b'.remChip = c ∧ b'.gen = wrap 16 (b.gen + 1) := by
  have hfree : ∃ b₁, (d.freeParts sid).buoy sid = some b₁ ∧ b₁.gen = b.gen := by
    unfold Dev.freeParts
    rw [Dev.buoy_locsUpd (by exact fun _ h => h), Dev.buoy_moorUpd, Dev.buoy_congr (Dev.releaseShared_buoys ..), hb]
    exact ⟨_, rfl, rfl⟩
  obtain ⟨b₁, h₁, hg⟩ := hfree
  have hrem : ((((d.freeParts sid).buoyUpd sid (fun b => { b with remGroup := g, remChip := c })).revokeExports sid).recordDel sid).buoy sid =
      some { b₁ with remGroup := g, remChip := c } := by
    rw [Dev.buoy_recordDel, Dev.buoy_revokeExports, Dev.buoy_buoyUpd (by exact fun _ h => h), h₁, Option.map_some]
  unfold Dev.workMoveCommit
  rw [Dev.buoy_transition, hrem, Option.map_some]
  exact ⟨_, rfl, rfl, rfl, rfl, by rw [← hg]⟩

theorem Dev.buoy_workMoveAbort {r : MoveRecord} (hr : Tab.look sid d.ses.records = some r) :
    ∃ b', (d.workMoveAbort sid).buoy sid = some b' ∧ b'.state = r.fromState ∧ b'.gen = wrap 16 (b.gen + 1) := by
  have hback : ((d.revokeExports sid).recordDel sid).buoy sid = some b := hb
  simpa only [Dev.workMoveAbort, hr] using Dev.exists_transition (st := r.fromState) hback

omit hb in
theorem Dev.buoy_workDrop : (d.workDrop sid).buoy sid = none := by
  unfold Dev.workDrop Dev.removeSession
  simp only [Dev.buoy, Dev.buoyAt, Dev.locDrop]
  simp

variable (hm : d.moor sid = some m)
include hm

theorem Dev.buoy_workParkWarm (o : SesOp) (r : WorkResult) (same : Bool × Bool) :
    ∃ b', (d.workParkWarm sid o r same).buoy sid = some b' ∧ b'.state = 4 ∧ b'.gen = wrap 16 (b.gen + 1) := by
  simp only [Dev.workParkWarm, hb, hm]
  exact Dev.exists_putSession_transition hb _

theorem Dev.buoy_workParkCold (o : SesOp) (same : Bool × Bool) :
    ∃ b', (d.workParkCold sid o same).buoy sid = some b' ∧ b'.state = 5 ∧ b'.gen = wrap 16 (b.gen + 1) := by
  simp only [Dev.workParkCold, hb, hm]
  exact Dev.exists_putSession_transition hb _

theorem Dev.buoy_workRevive (o : SesOp) :
    ∃ b', (d.workRevive sid o).buoy sid = some b' ∧ b'.state = (if d.isHead && (d.turnOf sid).isSome then 2 else 3) ∧
      b'.gen = wrap 16 (b.gen + 1) := by
  have hflag : ∀ (c : Prop) [Decidable c] (f : Fld), (if c then d.flag f else d).buoy sid = some b :=
    fun c _ f => (Dev.buoy_flag_ite sid c f d).trans hb
  simp only [Dev.workRevive, hb, hm]
  split
  case isTrue =>
    generalize (if (o.plan.isEmpty && b.ctrlLoc.tier != 0) = true then _ else o.plan) = plan
    by_cases hp : plan.isEmpty = true
    · rw [if_pos hp]
      exact Dev.exists_transition ((Dev.buoy_moorUpd ..).trans (hflag ..))
    · rw [if_neg hp]
      exact Dev.exists_putSession_transition (hflag ..) _
  case isFalse => exact Dev.exists_putSession_transition (hflag ..) _

theorem Dev.buoy_workMoveOut (o : SesOp) (mem : List Host.Cell) :
    ∃ b', (d.workMoveOut sid o mem).buoy sid = some b' ∧ b'.state = 6 ∧ b'.gen = wrap 16 (b.gen + 1) := by
  obtain ⟨i, hat⟩ : ∃ i, d.buoyAt sid = some (i, b) := by
    obtain ⟨e, he, rfl⟩ := Option.map_eq_some_iff.mp hb
    exact ⟨e.1, he⟩
  simp only [Dev.workMoveOut, hat, hm]
  refine Dev.exists_putSession_transition ?_ _
  refine (Dev.buoy_congr ?_ sid).trans hb
  rw [Dev.ite_exportWindow_ses, Dev.exportWindow_ses]

end Work

/-- Settles O17: each work writes the session back with its state and generation, and then completes one transition. -/
theorem workLeavesState : Obligations.WorkLeavesState := by
  unfold Obligations.WorkLeavesState
  intro sid o r same mem d b m hb hm
  refine ⟨Dev.buoy_workParkWarm hb hm o r same, Dev.buoy_workParkCold hb hm o same, ?revive, Dev.buoy_workMoveOut hb hm o mem,
    Dev.buoy_workMoveCommit hb, fun x hx => Dev.buoy_workMoveAbort hb hx, Dev.buoy_workDrop⟩
  case revive =>
    obtain ⟨b', h, hst, hgen⟩ := Dev.buoy_workRevive hb hm o
    exact ⟨b', h, hgen, hst⟩

/-! ### Acceptance -/

@[simp] theorem Dev.opUpd_buoys (sid : Nat) (f : SesOp → SesOp) (d : Dev) : (d.opUpd sid f).ses.buoys = d.ses.buoys := rfl

@[simp] theorem Dev.sendPass_buoys (sid : Nat) (p : Pass) (m : SesMsg) (d : Dev) : (d.sendPass sid p m).ses.buoys = d.ses.buoys := by
  unfold Dev.sendPass
  extract_lets held e
  cases held <;> rfl

@[simp] theorem Dev.sendPrepare_buoys (sid : Nat) (d : Dev) : (d.sendPrepare sid).ses.buoys = d.ses.buoys := by
  unfold Dev.sendPrepare
  split
  · simp
  · rfl

/-- The start of an operation other than a revive changes no Buoy. -/
theorem Dev.startOp_buoys {sid : Nat} {d : Dev} (h : ∀ o, d.op sid = some o → o.opcode ≠ 0x22) : (d.startOp sid).ses.buoys = d.ses.buoys := by
  unfold Dev.startOp
  extract_lets checked src numbered
  have hchecked : checked = d := by
    unfold checked
    split
    · next o ho => exact if_neg (h o ho)
    · rfl
  calc ((numbered.opUpd sid _).sendPrepare sid).ses.buoys
    _ = checked.ses.buoys := Dev.sendPrepare_buoys ..
    _ = d.ses.buoys := by rw [hchecked]

/-- What an accepted command other than a revive leaves of the Buoys (R47). -/
theorem Dev.accept_buoys {op : Nat} {c : SesCmd} {b : Buoy} {d : Dev} (hop : op ≠ 0x22) (hb : d.buoy c.sid = some b) (e : Option Ent) (first : Bool) :
    (d.accept op c e first).1 = true ∧
      (d.accept op c e first).2.ses.buoys = (d.buoyUpd c.sid (fun b => { b with busy := true, pendingOp := pendingCode op })).ses.buoys := by
  have hrev : (op == 0x22) = false := by simpa using hop
  simp only [Dev.accept, Dev.acceptWith, hb, hrev, Bool.false_and, Bool.and_false, Bool.false_eq_true, if_false, true_and]
  split
  · refine Dev.startOp_buoys fun o ho => ?_
    obtain rfl := Option.some.inj ((Tab.look_put_same ..).symm.trans ho)
    exact hop
  · rfl

/-- Settles O13: acceptance sets the Buoy's busy bit and code, and an operation that starts changes no Buoy. -/
theorem acceptedIsBusy : Obligations.AcceptedIsBusy := by
  unfold Obligations.AcceptedIsBusy
  intro op c e first d b hop hb
  obtain ⟨hyes, hbuoys⟩ := Dev.accept_buoys hop hb e first
  have hbuoy : (d.accept op c e first).2.buoy c.sid = some { b with busy := true, pendingOp := pendingCode op } := by
    rw [Dev.buoy_congr hbuoys, Dev.buoy_buoyUpd (by exact fun _ h => h), hb, Option.map_some]
  refine ⟨hyes, ?busy, _, hbuoy, rfl, rfl, rfl, rfl⟩
  case busy => simp [Dev.busyNow, hbuoy]

end Sys2Proof.Machine
end

section
/-! PROOFS. A step that HEAD starts and launches (R210 to R216). -/
namespace Sys2Proof.Machine

@[simp] theorem Dev.event_srv (core : Option Nat) (e : CntEvent) (d : Dev) : (d.event core e).srv = d.srv := (Dev.reported_event core e d).srv

@[simp] theorem Dev.cutStarted_srv (key number : Nat) (d : Dev) : (d.cutStarted key number).srv = d.srv := rfl

/-- The step that HEAD launches with rows (R212, R213, R216). -/
def Dev.launchedStep (n batch : Nat) (rows : List StepRow) (d : Dev) : Step :=
  { number := Tab.getD n 0 d.srv.steps, epoch := d.comp.cur.epoch, headDaymark := d.daymark, rows := rows,
    leaves := (d.batch (batchKey n batch)).leaves, rowsTotal := rows.length, positions := (rows.map (·.qcount)).sum, leaveOnly := false,
    cut := d.cutPart (batchKey n batch) == .cut, failed := false, reported := false,
    segs := (match d.activeImg n with | some i => (i.segs.filter (fun g => !g.out)).map (·.number) | none => []), ports := d.downPorts }

/-- A launch with rows leaves the batch with its step alone and the Sector with its next step number; the cut and the event counted change
nothing of serving. -/
theorem Dev.launch_srv {rows : List StepRow} (hr : rows ≠ []) (n batch : Nat) (d : Dev) :
    (d.launch n batch rows).srv = { d.srv with
      batches := Tab.put (batchKey n batch)
        { members := rows.map (·.sid), running := some (d.launchedStep n batch rows), next := none, tokens := [], leaves := [] } d.srv.batches,
      steps := Tab.put n (wrap 32 (Tab.getD n 0 d.srv.steps + 1)) d.srv.steps } := by
  have hne : rows.isEmpty = false := by simpa using hr
  simp only [Dev.launch, hne, Bool.false_and, Bool.false_eq_true, if_false, Dev.event_srv]
  split <;> rfl

/-- Settles O25: what a launch with rows leaves, read back from the tables of batches and of step numbers. -/
theorem launchedStepRuns : Obligations.LaunchedStepRuns := by
  unfold Obligations.LaunchedStepRuns
  intro n batch rows d hr
  refine ⟨d.launchedStep n batch rows, ?_, rfl, rfl, rfl, rfl, rfl, rfl, ?_⟩
  · simp [Dev.batch, Dev.launch_srv hr]
  · simp [Dev.launch_srv hr]

end Sys2Proof.Machine
end

section
/-! PROOFS. The bytes that an engine command writes are those of its destination rows (R132, R139, R142). -/
namespace Sys2Proof.Machine

/-! ### Reading beside a write, in any memory -/

theorem read_erase_other {a b : Nat} (h : b ≠ a) (m : List Host.Cell) : Mem.read b (Mem.erase a m) = Mem.read b m := by
  induction m with
  | nil => rfl
  | cons c m ih =>
    obtain ⟨x, w⟩ := c
    simp only [Mem.erase]
    split
    · next hx => simp [Mem.read, hx, Ne.symm h]
    · simp [Mem.read, ih]

theorem read_write_other {a b : Nat} (h : b ≠ a) (v : Byte) (m : List Host.Cell) : Mem.read b (Mem.write a v m) = Mem.read b m := by
  unfold Mem.write
  split
  · exact read_erase_other h m
  · rw [read_insert, if_neg h]

/-- Bytes written over a span leave every byte outside it, canonical memory or not. -/
theorem read_writes_other (vs : List Byte) : ∀ (a b : Nat) (m : List Host.Cell), (b < a ∨ a + vs.length ≤ b) →
    Mem.read b (Mem.writes a vs m) = Mem.read b m := by
  induction vs with
  | nil => intro a b m _; rfl
  | cons v vs ih =>
    intro a b m hb
    simp only [List.length_cons] at hb
    rw [Mem.writes, ih (a + 1) b _ (by omega), read_write_other (by omega)]

/-! ### The length of a row of output -/

theorem leBytes_length (k : Nat) : ∀ n, (leBytes k n).length = k := by
  induction k with
  | zero => intro n; rfl
  | succ k ih => intro n; simp [leBytes, ih]

theorem packCodes_length (w : Nat) (cs : List Nat) : (packCodes w cs).length = ceilDiv (cs.length * w) 8 := leBytes_length ..

theorem quantBlock_length (f : FloatFmt) (xs : List FpVal) : (quantBlock f xs).2.1.length = xs.length := by
  unfold quantBlock
  split
  · simp
  · split <;> simp

theorem ceilDiv_32 (n : Nat) : ceilDiv n 32 = (n + 31) / 32 := rfl

/-- Pieces of 32 of a list, with fuel enough for it: as many as there are blocks, with its elements between them. -/
theorem pieces_spec {α : Type} (fuel : Nat) : ∀ xs : List α, xs.length ≤ fuel →
    ((pieces 32 fuel xs).map List.length).sum = xs.length ∧ (pieces 32 fuel xs).length = ceilDiv xs.length 32 := by
  induction fuel with
  | zero =>
    intro xs h
    obtain rfl := List.length_eq_zero_iff.mp (Nat.le_zero.mp h)
    simp [pieces, ceilDiv_32]
  | succ k ih =>
    intro xs h
    unfold pieces
    split
    · next he =>
      obtain rfl := List.isEmpty_iff.mp he
      simp [ceilDiv_32]
    · next he =>
      have hpos : 0 < xs.length := List.length_pos_iff.mpr (by simpa using he)
      obtain ⟨hsum, hlen⟩ := ih (xs.drop 32) (by rw [List.length_drop]; omega)
      rw [List.length_drop] at hsum hlen
      refine ⟨?_, ?_⟩
      · rw [List.map_cons, List.sum_cons, hsum, List.length_take]
        omega
      · rw [List.length_cons, hlen, ceilDiv_32, ceilDiv_32]
        omega

/-- A row of output has a code for each value, and, in an MX format alone, a scale for each block of 32 (R131, R132). -/
theorem outRow_length (allow : Bool) (c : EngCmd) (i : Nat) (vs : List FpVal) :
    (outRow allow c i vs).1.length = vs.length ∧
      (if fmtMx c.outFormat then (outRow allow c i vs).2.1.length = ceilDiv vs.length 32 else (outRow allow c i vs).2.1 = []) := by
  unfold outRow
  split
  · next hmx =>
    obtain ⟨hsum, hlen⟩ := pieces_spec vs.length vs le_rfl
    refine ⟨?_, ?_⟩
    · simpa [List.length_flatMap, Function.comp_def, quantBlock_length] using hsum
    · simpa using hlen
  · simp

/-! ### Rows -/

section Rows
variable {x : EngCtx} {c : EngCmd} {rows cols a : Nat} (ho : x.outside c rows cols a)
include ho

theorem read_writeRow {r : Nat} (hr : r < rows) {vs : List FpVal} (hv : vs.length = cols) (mem : List Host.Cell) :
    Mem.read a (x.writeRow c r vs mem).1 = Mem.read a mem := by
  obtain ⟨hel, hsc⟩ := ho r hr
  obtain ⟨hcodes, hscales⟩ := outRow_length x.srAllow c (r * vs.length) vs
  have hcodesOut : ∀ m, Mem.read a (Mem.writes (x.base c.d + r * c.d.rowStride)
      (packCodes (fmtBits c.outFormat) (outRow x.srAllow c (r * vs.length) vs).1) m) = Mem.read a m :=
    fun m => read_writes_other _ _ _ m (by rw [packCodes_length, hcodes, hv]; exact hel)
  unfold EngCtx.writeRow
  dsimp only
  split
  · exact hcodesOut mem
  · next hne =>
    by_cases hmx : fmtMx c.outFormat = true
    · rw [if_pos hmx] at hscales
      rw [read_writes_other _ _ _ _ (by rw [List.length_map, hscales, hv]; exact hsc hmx), hcodesOut]
    · rw [if_neg hmx] at hscales
      exact absurd (by rw [hscales]; rfl) hne

theorem read_writeRows {f : List Host.Cell → Nat → List FpVal} (hf : ∀ m r, (f m r).length = cols) (rs : List Nat) (hrs : ∀ r ∈ rs, r < rows)
    (s : List Host.Cell × NumFlags) : Mem.read a (x.writeRows c f rs s).1 = Mem.read a s.1 := by
  induction rs generalizing s with
  | nil => rfl
  | cons r rs ih =>
    rw [EngCtx.writeRows, ih fun q hq => hrs q (List.mem_cons_of_mem r hq)]
    exact read_writeRow ho (hrs r List.mem_cons_self) (hf ..) s.1

/-- Every row below `rows` written, each of `cols` values. -/
theorem read_allRows {f : List Host.Cell → Nat → List FpVal} (hf : ∀ m r, (f m r).length = cols) (s : List Host.Cell × NumFlags) :
    Mem.read a (x.writeRows c f (List.range rows) s).1 = Mem.read a s.1 :=
  read_writeRows ho hf _ (fun _ => List.mem_range.mp) s

end Rows

/-- Settles O19: each of these commands writes rows of as many values as its destination has columns. -/
theorem engineWritesDestinationOnly : Obligations.EngineWritesDestinationOnly := by
  unfold Obligations.EngineWritesDestinationOnly
  intro x c mem a
  refine ⟨fun ho => ⟨?gemm, ?gated⟩, fun ho => ⟨?norm, ?rope⟩, fun ho => ?elemwise⟩
  case gemm | gated | norm | rope => exact read_allRows ho (fun _ _ => by simp) _
  case elemwise =>
    refine read_allRows ho (fun _ _ => ?_) _
    split <;> simp

end Sys2Proof.Machine
end

section
/-! PROOFS. Resets and time: what the start changes neither of the clocks nor of PWR_BOOT.cause, and Lens time (R363, R517, R519, R527). -/
namespace Sys2Proof.Machine

/-! ### What the start leaves as it is -/

/-- Lens time, the Daymark and PWR_BOOT.cause. -/
def Dev.clocksAndCause (d : Dev) : Nat × Nat × Nat := (d.now, d.daymark, d.get Reg.PWR_BOOT.cause)

theorem Dev.clocksAndCause_put {f : Fld} (h : f.key ≠ Reg.PWR_BOOT.cause.key) (v : Nat) (d : Dev) :
    (d.put f v).clocksAndCause = d.clocksAndCause := by
  simp [Dev.clocksAndCause, Dev.get_put_other h]

@[simp] theorem Dev.clocksAndCause_norUpd (f : NorSecure → NorSecure) (d : Dev) : (d.norUpd f).clocksAndCause = d.clocksAndCause := rfl

@[simp] theorem Dev.clocksAndCause_raiseVcore (d : Dev) : d.raiseVcore.clocksAndCause = d.clocksAndCause := rfl

@[simp] theorem Dev.clocksAndCause_openWindow (st barred : Nat) (d : Dev) : (d.openWindow st barred).clocksAndCause = d.clocksAndCause := by
  refine (Dev.clocksAndCause_put (f := Reg.OWN_STATE.owner) (by decide) 0 (d.put Reg.OWN_STATE.state st)).trans ?_
  exact Dev.clocksAndCause_put (by decide) st d

@[simp] theorem Dev.clocksAndCause_startFails (step st : Nat) (d : Dev) : (d.startFails step st).clocksAndCause = d.clocksAndCause := by
  unfold Dev.startFails
  extract_lets shown marked boot waits
  have hshown : shown.clocksAndCause = d.clocksAndCause := by
    simp only [shown]
    rw [Dev.clocksAndCause_put (by decide), Dev.clocksAndCause_put (by decide), Dev.clocksAndCause_put (by decide)]
  have hmarked : marked.clocksAndCause = shown.clocksAndCause := by
    unfold marked
    split
    · exact Dev.clocksAndCause_put (by decide) ..
    · rfl
  calc ((waits.openWindow 0 0).emit (.started 2)).clocksAndCause
    _ = (waits.openWindow 0 0).clocksAndCause := rfl
    _ = waits.clocksAndCause := Dev.clocksAndCause_openWindow ..
    _ = marked.clocksAndCause := rfl
    _ = d.clocksAndCause := hmarked.trans hshown

@[simp] theorem Dev.clocksAndCause_imageRefused (st : Nat) (d : Dev) : (d.imageRefused st).clocksAndCause = d.clocksAndCause := by
  unfold Dev.imageRefused
  split_ifs
  · exact Dev.clocksAndCause_put (by decide) ..
  · exact (Dev.clocksAndCause_put (by decide) ..).trans (Dev.clocksAndCause_put (by decide) ..)
  · exact Dev.clocksAndCause_put (by decide) ..
  · rfl

@[simp] theorem Dev.clocksAndCause_showAnchor (d : Dev) : d.showAnchor.clocksAndCause = d.clocksAndCause := by
  unfold Dev.showAnchor
  split <;> exact (Dev.clocksAndCause_put (by decide) ..).trans (Dev.clocksAndCause_put (by decide) ..)

theorem Dev.clocksAndCause_putGen (k v : Nat) (d : Dev) : (d.put (Reg.SEC_KEYGEN.gen k) v).clocksAndCause = d.clocksAndCause :=
  Dev.clocksAndCause_put (by simp only [Fld.key, Reg.SEC_KEYGEN.gen, Reg.PWR_BOOT.cause]; omega) v d

@[simp] theorem Dev.clocksAndCause_loadGens (d : Dev) : d.loadGens.clocksAndCause = d.clocksAndCause := by
  unfold Dev.loadGens
  refine foldl_keeps (fun e : Dev => e.clocksAndCause = d.clocksAndCause) (fun e k he => ?_) _ ?_
  · exact (Dev.clocksAndCause_putGen ..).trans he
  · split <;> rfl

@[simp] theorem Dev.clocksAndCause_takeImage (l : LightList) (d : Dev) : (d.takeImage l).clocksAndCause = d.clocksAndCause := by
  unfold Dev.takeImage
  iterate 5 refine (Dev.clocksAndCause_put (by decide) ..).trans ?_
  refine (Dev.clocksAndCause_showAnchor _).trans ?_
  exact Dev.clocksAndCause_put (by decide) ..

theorem Dev.clocksAndCause_romStart (d : Dev) : d.romStart.clocksAndCause = d.clocksAndCause := by
  unfold Dev.romStart
  split
  · exact Dev.clocksAndCause_startFails ..
  extract_lets sec keyed identified
  have hid : identified.clocksAndCause = d.clocksAndCause :=
    (Dev.clocksAndCause_put (by decide) ..).trans (Dev.clocksAndCause_put (by decide) ..)
  rw [← hid]
  split
  · exact Dev.clocksAndCause_startFails ..
  split
  · exact Dev.clocksAndCause_startFails ..
  split
  · exact (Dev.clocksAndCause_startFails ..).trans (Dev.clocksAndCause_imageRefused ..)
  have hload (e : Dev) (h : e.clocksAndCause = identified.loadGens.clocksAndCause) : e.clocksAndCause = identified.clocksAndCause :=
    h.trans (Dev.clocksAndCause_loadGens identified)
  refine hload _ ?_
  split_ifs
  · exact (Dev.clocksAndCause_startFails ..).trans (Dev.clocksAndCause_imageRefused ..)
  · exact (Dev.clocksAndCause_startFails ..).trans (Dev.clocksAndCause_imageRefused ..)
  · exact (Dev.clocksAndCause_raiseVcore _).trans ((Dev.clocksAndCause_put (by decide) ..).trans (Dev.clocksAndCause_takeImage ..))

/-- A reset sets both clocks to zero, and the cause given (R363, R517). -/
theorem Dev.restart_clocksAndCause (cause : Nat) (env : RomEnv) (nor : Option LightList) (d : Dev) :
    (d.restart cause env nor).now = 0 ∧
    (d.restart cause env nor).daymark = 0 ∧ (d.restart cause env nor).get Reg.PWR_BOOT.cause = wrap 4 cause := by
  have h : (d.restart cause env nor).clocksAndCause = (0, 0, wrap 4 cause) := by
    refine (Dev.clocksAndCause_romStart _).trans ?_
    simp only [Dev.clocksAndCause, Dev.cleared, Dev.get_put_same]
    rfl
  simpa [Dev.clocksAndCause] using h

/-! ### Resets -/

/-- What a reset keeps of memory: the bytes of tier 2 (R517). -/
theorem read_keepFlash (a : Nat) (m : List Host.Cell) :
    Mem.read a (keepFlash m) = if tierAddr 2 0 0 ≤ a ∧ a < tierAddr 3 0 0 then Mem.read a m else Mem.default := by
  induction m with
  | nil => simp [keepFlash, Mem.read]
  | cons c m ih =>
    obtain ⟨b, v⟩ := c
    simp only [keepFlash, List.filter_cons, Bool.and_eq_true, decide_eq_true_eq] at ih ⊢
    by_cases hb : tierAddr 2 0 0 ≤ b ∧ b < tierAddr 3 0 0
    · rw [if_pos hb]
      by_cases hba : b = a
      · subst hba
        simp [Mem.read, hb]
      · simp only [Mem.read, if_neg hba, ih]
    · rw [if_neg hb, ih]
      by_cases hba : b = a
      · subst hba
        simp [hb]
      · simp [Mem.read, hba]

theorem exec_pwrCtrlReset_owner {s : State} {m : Master} (ha : s.dev.answers = true) (ho : s.dev.owner = m.code) (env : RomEnv) :
    exec (.pwrCtrlReset m env) s = startOver 3 env s.dev.boot.nor s := by
  have hcond : (s.dev.awake && (s.dev.inService || s.dev.inRecovery) && s.dev.owner == m.code) = true := by
    have h : (s.dev.awake && (s.dev.inService || s.dev.inRecovery)) = true := ha
    simp [h, ho]
  change execPwrCtrlReset m env s = _
  rw [execPwrCtrlReset, if_pos hcond]

theorem exec_recoveryLoad_good {s : State} {m : Master} {image : LightList} (hr : s.dev.inRecovery = true) (ha : s.dev.awake = true)
    (ho : s.dev.owner = m.code) (hn : image.bytes ≤ 67108864) (hd : directoryOk image = true) (hc : s.dev.checkImage image = ST.OK) (env : RomEnv) :
    exec (.recoveryLoad m image env) s = startOver 4 env (some image) s := by
  have hsize : ¬ (64 * 2 ^ 20 < image.bytes ∨ directoryOk image = false) := by simp [hd, hn]
  change execRecoveryLoad m image env s = _
  rw [execRecoveryLoad, if_pos (by simp [hr, ha, ho])]
  simp only [if_neg hsize, hc, if_true]

/-- Settles O40: each row starts the machine over with its own cause. -/
theorem resetsComplete : Obligations.ResetsComplete := by
  unfold Obligations.ResetsComplete
  intro s env
  refine ⟨fun l => rfl, fun ns hns => ?low, rfl, fun m ha ho => exec_pwrCtrlReset_owner ha ho env,
    fun m image hr ha ho hn hd hc => exec_recoveryLoad_good hr ha ho hn hd hc env, fun a => read_keepFlash a s.mem, fun cause nor hcause => ?cause⟩
  case low => exact if_pos hns
  case cause =>
    obtain ⟨-, -, h⟩ := Dev.restart_clocksAndCause cause env nor s.dev
    exact h.trans (wrap_of_lt (by omega))

/-! ### Lens time -/

/-- A write of the Daymark, taken or refused, leaves Lens time. -/
theorem Dev.ownerWrite_setDaymark_now (m v : Nat) (d : Dev) : (d.ownerWrite m (fun d => d.setDaymark v)).now = d.now := by
  unfold Dev.ownerWrite Dev.setDaymark
  dsimp only
  split_ifs <;> rfl

theorem Dev.ptpLock_now (offset : Int) (d : Dev) : (d.ptpLock offset).now = d.now := by
  unfold Dev.ptpLock
  dsimp only
  split_ifs <;> rfl

/-- Settles O59: the clocks are zero after a reset and advance together; the Daymark's writes change the Daymark alone. -/
theorem lensTimeFollowsTheDaymark : Obligations.LensTimeFollowsTheDaymark := by
  unfold Obligations.LensTimeFollowsTheDaymark
  refine ⟨rfl, rfl, fun cause env nor d => ?reset, fun t d => ⟨le_max_left .., rfl⟩, fun d hd => ?deep, fun s m v => ?daymarkSet,
    fun s offset t hs => ?ptp⟩
  case reset =>
    obtain ⟨hnow, hday, -⟩ := Dev.restart_clocksAndCause cause env nor d
    exact ⟨hnow, hday⟩
  case deep => simp [Dev.idleTick_eq, Dev.tickNs, hd, wrap]
  case daymarkSet =>
    refine ⟨_, rfl, ?_⟩
    rw [apply_ite Dev.now, sendFrames_now, Dev.ownerWrite_setDaymark_now, ite_self]
  case ptp =>
    change ∃ u, execPtpSync offset t s = .next u ∧ _
    rw [execPtpSync, onServing_serving hs]
    refine ⟨_, rfl, ?_⟩
    rw [sendFrames_now]
    dsimp only
    split
    · exact Dev.ptpLock_now offset _
    · rfl

end Sys2Proof.Machine
end

section
/-! PROOFS. Register accesses, commits and the session query (R4 to R7, R84, R384, R385, R487, R492, R571 to R575). -/
namespace Sys2Proof.Machine

/-! ### What a row leaves while the device serves -/

theorem onServing_after {f : Dev → Dev} {s : State} (h : s.dev.serving = true) : onServing f s = .next (s.after (f s.dev)) :=
  onServing_serving h

theorem onServingMem_after {f : List Host.Cell → Dev → List Host.Cell × Dev} {s : State} (h : s.dev.serving = true) :
    onServingMem f s = .next (s.afterBoth (f s.mem s.dev)) :=
  onServingMem_serving h

theorem State.after_get (s : State) (d : Dev) (f : Fld) : (s.after d).dev.get f = d.get f := sendFrames_get s.dev d f

@[simp] theorem State.after_ses (s : State) (d : Dev) : (s.after d).dev.ses = d.ses := sendFrames_ses s.dev d

@[simp] theorem State.after_idxLatch (s : State) (d : Dev) : (s.after d).dev.idxLatch = d.idxLatch := sendFrames_idxLatch s.dev d

theorem Dev.get_of_regs {d e : Dev} {f : Fld} (h : d.regs = e.regs) : d.get f = e.get f := by rw [Dev.get, Dev.get, h]

theorem masterCode_ne_zero (m : Master) : m.code ≠ 0 := by cases m <;> decide

theorem Dev.ownerWrite_owner {m : Master} {d : Dev} (h : d.owner = m.code) (f : Dev → Dev) : d.ownerWrite m.code f = f d := by
  simp [Dev.ownerWrite, h, masterCode_ne_zero]

theorem Dev.ownerWrite_other {m : Master} {d : Dev} (h : d.owner ≠ m.code) (f : Dev → Dev) : d.ownerWrite m.code f = d.bump Reg.OWN_DENIED.count 1 := by
  simp [Dev.ownerWrite, h]

/-! ### Writes -/

section Write
variable {s : State} {a : RegAccess} {v late w : Nat} (ha : s.dev.answers = true) (hb : a.bar2 = false) (hok : accessOk a.off a.bytes = true)
  (hv : s.dev.visible a.master a.fn a.off = true) (hw : w = wrap (8 * a.bytes) v)
  (hreset : a.off = 0x00020004 → fieldBits Reg.PWR_CTRL.reset w = 0) (hgo : a.off = 0x0F000018 → fieldBits Reg.DBG_MEM_CTRL.go w = 0)
include ha hb hok hv hw hreset hgo

/-- A write that neither resets the device nor reads its memory is one of the register alone (R6). -/
theorem exec_registerWrite_visible :
    exec (.registerWrite a v late) s = .next (s.after (s.dev.writeReg a.master a.fn a.off w late)) := by
  have ht : s.dev.takes a.master a.fn a.off a.bytes = true := (Dev.takes_of_visible hv _).trans hok
  have hr : ¬ (a.off = 0x00020004 ∧ fieldBits Reg.PWR_CTRL.reset w = 1 ∧ s.dev.owner = a.master.code) := by
    rintro ⟨ho, h1, -⟩
    simp [hreset ho] at h1
  have hg : ¬ (a.off = 0x0F000018 ∧ fieldBits Reg.DBG_MEM_CTRL.go w = 1 ∧ s.dev.owner = a.master.code) := by
    rintro ⟨ho, h1, -⟩
    simp [hgo ho] at h1
  subst hw
  change execRegisterWrite a v late s = _
  simp only [execRegisterWrite, ha, hb, ht, Bool.not_true, Bool.false_eq_true, if_false]
  simp only [regWrite, hv, Bool.not_true, Bool.false_eq_true, if_false, if_neg hr, if_neg hg]
  rfl

end Write

section WriteReg
variable {m : Master} {fn : Fn} {o w late : Nat} {d : Dev}

theorem Dev.writeReg_granted (ho : o < 0x01000000 ∨ 0x05000000 ≤ o) (h : d.owner = m.code ∨ openWrite m o = true) :
    d.writeReg m .pf o w late = d.applyWrite m o w late := by
  have hout : ¬ (0x01000000 ≤ o ∧ o < 0x05000000) := by omega
  unfold Dev.writeReg
  rw [if_neg hout]
  cases hopen : openWrite m o
  case true => rfl
  case false => exact Dev.ownerWrite_owner (by simpa [hopen] using h) _

theorem Dev.writeReg_denied (ho : o < 0x01000000 ∨ 0x05000000 ≤ o) (h : d.owner ≠ m.code) (hopen : openWrite m o = false) :
    d.writeReg m .pf o w late = d.bump Reg.OWN_DENIED.count 1 := by
  have hout : ¬ (0x01000000 ≤ o ∧ o < 0x05000000) := by omega
  unfold Dev.writeReg
  rw [if_neg hout]
  simp only [hopen]
  exact Dev.ownerWrite_other h _

theorem Dev.writeReg_vf (ho : o < 0x01000000 ∨ 0x05000000 ≤ o) (n : Nat) : d.writeReg m (.vf n) o w late = d.applyWrite m o w late := by
  have hout : ¬ (0x01000000 ≤ o ∧ o < 0x05000000) := by omega
  unfold Dev.writeReg
  rw [if_neg hout]

/-- A write at offset `r` of queue `q`'s window is the queue's (R494, R495). -/
theorem Dev.writeReg_doorbell {q r : Nat} (hq : q < 16384) (hr : r < 0x1000) (hring : d.mayRing m fn q = true) :
    d.writeReg m fn (0x01000000 + 0x1000 * q + r) w late =
      if r = 0 then d.setTail q (w % 2 ^ 16) else if r = 4 then d.setHead q w else d.applyWrite m (0x01000000 + 0x1000 * q + r) w late := by
  have hin : 0x01000000 ≤ 0x01000000 + 0x1000 * q + r ∧ 0x01000000 + 0x1000 * q + r < 0x05000000 := by omega
  have hwin : (0x01000000 + 0x1000 * q + r - 0x01000000) / 0x1000 = q := by omega
  have hoff : (0x01000000 + 0x1000 * q + r) % 0x1000 = r := by omega
  simp only [Dev.writeReg, if_pos hin, hwin, hoff, Dev.ring, hring, if_true]

end WriteReg

/-- A register with no effect of its own takes its fields' bits (R6). -/
theorem Dev.applyWrite_plain {m : Master} {o w late : Nat} {d : Dev} (hopen : openBits o = []) (hown : d.ownEffect m o w late = none)
    (hlens : lensWritten o = none) : d.applyWrite m o w late = d.writeFields o w late := by
  have hstir : d.stir o = d := by simp [Dev.stir, hopen]
  rw [Dev.applyWrite, hstir]
  simp only [hown, hlens]

theorem exec_registerWrite_msix {s : State} {a : RegAccess} {v late : Nat} (ha : s.dev.answers = true) (hb : a.bar2 = true)
    (hin : inMsix a.fn a.off = true) (hal : a.off % 4 = 0) (hm : a.master ≠ .bmc) :
    exec (.registerWrite a v late) s =
      .next { s with dev := { s.dev with bar2 := Tab.put (bar2Key a.master a.fn a.off) (wrap 32 v) s.dev.bar2 } } := by
  have hcond : (inMsix a.fn a.off && a.off % 4 == 0 && a.master != .bmc) = true := by simp [hin, hal, hm]
  change execRegisterWrite a v late s = _
  simp only [execRegisterWrite, ha, hb, Bool.not_true, Bool.false_eq_true, if_false, if_true, if_pos hcond]

/-! ### The scratch lock -/

theorem exec_scratchLock {s : State} {m : Master} (ha : s.dev.answers = true) (ho : s.dev.owner = m.code) :
    exec (.glbScratchLock m none) s = .next (s.after (s.dev.put Reg.GLB_LOCK.scratch_lock 1)) := by
  change execGlbScratchLock m none s = _
  rw [execGlbScratchLock, onAwake_of_answers ha, Dev.ownerWrite_owner ho]
  rfl

/-- A scratch write of the same cycle comes before the lock (R575). -/
theorem exec_scratchLock_write {s : State} {m : Master} {n : Nat} (ha : s.dev.answers = true) (ho : s.dev.owner = m.code) (hn : n < 8)
    (hl : s.dev.get Reg.GLB_LOCK.scratch_lock = 0) (v : Nat) :
    exec (.glbScratchLock m (some (n, v))) s =
      .next (s.after ((s.dev.put (Reg.GLB_SCRATCH.value n) (fieldBits (Reg.GLB_SCRATCH.value n) v)).put Reg.GLB_LOCK.scratch_lock 1)) := by
  have hw : Dev.writeField v 0 s.dev (Reg.GLB_SCRATCH.value n) = s.dev.put (Reg.GLB_SCRATCH.value n) (fieldBits (Reg.GLB_SCRATCH.value n) v) := by
    simp [Dev.writeField, Reg.GLB_SCRATCH.value, hl]
  change execGlbScratchLock m (some (n, v)) s = _
  rw [execGlbScratchLock, onAwake_of_answers ha, Dev.ownerWrite_owner ho]
  simp only [if_pos hn, hw]
  rfl

/-! ### Reads -/

theorem exec_bar0BadAccess_after {s : State} {a : RegAccess} (ha : s.dev.answers = true) (hb : a.bar2 = false)
    (ht : s.dev.takes a.master a.fn a.off a.bytes = false) (w : Bool) :
    exec (.bar0BadAccess a w) s = .next (s.after (s.dev.emit (.unsupportedRequest a.off))) := by
  change execBar0BadAccess a w s = _
  rw [execBar0BadAccess, onAwake_of_answers ha]
  simp [hb, ht]


/-- A good read: the register's value, and what the read changes (R5 to R7). -/
theorem Dev.readAccess_visible {a : RegAccess} {late : Nat} {d : Dev} (hb : a.bar2 = false) (hok : accessOk a.off a.bytes = true)
    (hv : d.visible a.master a.fn a.off = true) :
    d.readAccess a late = ((d.stir a.off).emit (.regValue a.off ((d.stir a.off).regValue a.master.code a.off))).afterRead a.off late := by
  simp only [Dev.readAccess, hb, (Dev.takes_of_visible hv a.bytes).trans hok, hv, Bool.not_true, Bool.false_eq_true, if_false]

/-- The registers of a read clear, and their free values are drawn, without touching what was sent or the indexes (R6). -/
theorem Dev.clearRc_keeps (late : Nat) (fs : List Fld) (d : Dev) :
    (fs.foldl (fun d f => if f.acc = .rc then d.put f (min late (2 ^ f.width - 1)) else d) d).out = d.out ∧
    (fs.foldl (fun d f => if f.acc = .rc then d.put f (min late (2 ^ f.width - 1)) else d) d).idx = d.idx := by
  refine foldl_keeps (fun e : Dev => e.out = d.out ∧ e.idx = d.idx) (fun e f he => ?_) _ ⟨rfl, rfl⟩
  split
  · exact he
  · exact he

/-- A read of the low word of an index epoch latches the high word (R336). -/
theorem Dev.afterRead_idxEpoch {n : Nat} (hn : n < 64) {x : VecIndex} {d : Dev} (hx : Tab.look n d.idx.idx = some x) (late : Nat) :
    (d.afterRead (0x06400104 + 16 * n) late).out = d.out ∧
    Tab.look n (d.afterRead (0x06400104 + 16 * n) late).idxLatch = some (wrap 16 (x.epoch / 2 ^ 32)) := by
  have hin : 0x06400100 ≤ 0x06400104 + 16 * n ∧ 0x06400104 + 16 * n < 0x06400500 ∧ (0x06400104 + 16 * n) % 16 = 4 := by omega
  have hk : (0x06400104 + 16 * n - 0x06400100) / 16 = n := by omega
  unfold Dev.afterRead
  extract_lets drawn cleared
  have hdrawn : drawn.out = d.out ∧ drawn.idx = d.idx := by
    unfold drawn
    split <;> exact ⟨rfl, rfl⟩
  have hcleared : cleared.out = d.out ∧ cleared.idx = d.idx := by
    unfold cleared
    split
    · obtain ⟨hout, hidx⟩ := Dev.clearRc_keeps late (RegDesc.fieldsAt _ _) drawn
      exact ⟨hout.trans hdrawn.1, hidx.trans hdrawn.2⟩
    · exact hdrawn
  obtain ⟨hout, hidx⟩ := hcleared
  rw [if_pos hin, hk, hidx, hx]
  exact ⟨hout, Tab.look_put_same ..⟩

theorem Dev.openBits_idxEpoch {n : Nat} (hn : n < 64) : openBits (0x06400104 + 16 * n) = [] := by
  have h1 : (Reg.NET_ERR.unreachable.off == 0x06400104 + 16 * n) = false := by simp [Reg.NET_ERR.unreachable]; omega
  have h2 (p : Nat) (hp : p < 2) : ((Reg.PCI_ERR.poisoned p).off == 0x06400104 + 16 * n) = false := by simp [Reg.PCI_ERR.poisoned]; omega
  simp [openBits, List.range_succ, h1, h2]

/-- Settles O9: a good write is the register's, a good read is its value and what it clears, row by row. -/
theorem registerRowsComplete : Obligations.RegisterRowsComplete := by
  unfold Obligations.RegisterRowsComplete
  refine ⟨fun s a v late w ha hb hok hv hw hreset hgo => ?write, fun d m o w late hopen hown hlens => Dev.applyWrite_plain hopen hown hlens,
    fun s a v late ha hb hin hal hm => ?msix, fun s a late d ha hb hok hv hd => ?read, fun s a n x ha hb hbytes hfn hr hn hoff hok hv hx => ?epoch,
    fun s a w ha hb ht => exec_bar0BadAccess_after ha hb ht w, fun s m ha ho => ⟨exec_scratchLock ha ho, fun n v hn hl => exec_scratchLock_write ha ho hn hl v⟩⟩
  case write =>
    rw [exec_registerWrite_visible ha hb hok hv hw hreset hgo]
    refine ⟨fun hout => ⟨fun hfn h => ?_, fun hfn ho hopen => ?_, fun n hfn => ?_⟩, fun q hq hring => ⟨fun hoff => ?_, fun hoff => ?_⟩⟩
    · rw [hfn, Dev.writeReg_granted hout h]
    · rw [hfn, Dev.writeReg_denied hout ho hopen]
    · rw [hfn, Dev.writeReg_vf hout]
    · rw [hoff, show 0x01000000 + 0x1000 * q = 0x01000000 + 0x1000 * q + 0 from rfl, Dev.writeReg_doorbell hq (by decide) hring, if_pos rfl]
    · rw [hoff, show 0x01000004 + 0x1000 * q = 0x01000000 + 0x1000 * q + 4 by omega, Dev.writeReg_doorbell hq (by decide) hring, if_neg (by decide), if_pos rfl]
  case msix => exact exec_registerWrite_msix ha hb hin hal hm
  case read =>
    subst hd
    change execRcCounterRead a late s = _
    rw [execRcCounterRead, onAwake_of_answers ha, Dev.readAccess_visible hb hok hv]
  case epoch =>
    rw [← hfn] at hv
    have hok' : accessOk a.off a.bytes = true := by rw [hbytes]; exact hok
    have hstir : s.dev.stir a.off = s.dev := by simp [Dev.stir, hoff, Dev.openBits_idxEpoch hn]
    refine ⟨_, onAwake_of_answers ha, ?_⟩
    rw [Dev.readAccess_visible hb hok' hv, hstir, State.after_out, State.after_idxLatch, hoff]
    exact Dev.afterRead_idxEpoch (d := s.dev.emit _) hn hx 0

/-! ### Commits -/

theorem Dev.adopt_append (vs ws : List (Nat × Nat)) (d : Dev) : d.adopt (vs ++ ws) = (d.adopt vs).adopt ws := List.foldl_append ..

/-- A committed value is that of the field captured, where fields of one key have one reset value. -/
theorem Dev.com_adopt {e : Dev} {f : Fld} {fs : List Fld} (hf : f ∈ fs) (hkey : ∀ g ∈ fs, g.reset = f.reset) (d : Dev) :
    (d.adopt (fs.map (fun g => (g.key, e.get g)))).com f = e.get f := by
  induction fs using List.reverseRecOn with
  | nil => cases hf
  | append_singleton fs g ih =>
    have hg : g.reset = f.reset := hkey g (by simp)
    rw [List.map_append, Dev.adopt_append]
    by_cases hk : f.key = g.key
    · simp [Dev.adopt, Dev.setCom, Dev.com, Dev.get, hk, hg]
    · have hmem : f ∈ fs := by
        rcases List.mem_append.mp hf with h | h
        · exact h
        · exact absurd (congrArg Fld.key (List.mem_singleton.mp h)) hk
      refine Eq.trans ?_ (ih hmem (fun x hx => hkey x (List.mem_append_left _ hx)))
      exact Tab.getD_put_other (Ne.symm hk) ..

@[simp] theorem Dev.adopt_pends (vals : List (Nat × Nat)) (d : Dev) : (d.adopt vals).pends = d.pends :=
  foldl_keeps (fun e : Dev => e.pends = d.pends) (by exact fun _ _ h => h) vals rfl

theorem Dev.checkShares_com (f : Fld) (d : Dev) : d.checkShares.com f = d.com f ∧ d.checkShares.pends = d.pends := by
  unfold Dev.checkShares
  split <;> exact ⟨rfl, rfl⟩

section Commits
variable {s : State} {m : Master} (hs : s.dev.serving = true) (ho : s.dev.owner = m.code)
include hs ho

/-- The owner's commit, at its time. -/
theorem onServing_ownerWrite (t : Nat) (f : Dev → Dev) :
    onServing (fun d => (d.advance t).ownerWrite m.code f) s = .next (s.after (f (s.dev.advance t))) := by
  rw [onServing_after hs, Dev.ownerWrite_owner (show (s.dev.advance t).owner = m.code from ho)]

theorem exec_lensCommit (t : Nat) : ∃ u, exec (.lensCommit m t) s = .next u ∧ u.dev.committed = s.dev.committed ∧
    u.dev.pends = s.dev.pends.filter (fun p => p.block != Blk.lens) ++
      [⟨Blk.lens, max s.dev.now t, (Reg.LENS_CFG.slot_w :: s.dev.lens.changed.eraseDups.flatMap lensShadow).map (fun f => (f.key, s.dev.get f))⟩] :=
  ⟨_, onServing_ownerWrite hs ho t Dev.lensCommit, sendFrames_committed .., sendFrames_pends ..⟩

theorem exec_coreSeqCfgWrite {core : Nat} (v t : Nat) : ∃ u, exec (.coreSeqCfgWrite m core v t) s = .next u ∧ u.dev.committed = s.dev.committed ∧
    u.dev.get (Reg.CORE_SEQ_CFG.refine_enable core) = v % 2 ∧ u.dev.get (Reg.CORE_SEQ_CFG.step_timeout core) = wrap 16 (v / 65536) ∧
    u.dev.pends = s.dev.pends.filter (fun p => p.block != 0x100 + core) ++
      [⟨0x100 + core, max s.dev.now t, [((Reg.CORE_SEQ_CFG.step_timeout core).key, wrap 16 (v / 65536))]⟩] := by
  have hkey : (Reg.CORE_SEQ_CFG.step_timeout core).key ≠ (Reg.CORE_SEQ_CFG.refine_enable core).key := by
    simp [Fld.key, Reg.CORE_SEQ_CFG.step_timeout, Reg.CORE_SEQ_CFG.refine_enable]
  let written : Dev := ((s.dev.advance t).put (Reg.CORE_SEQ_CFG.refine_enable core) (v % 2)).put (Reg.CORE_SEQ_CFG.step_timeout core) (v / 65536)
  have hrefine : written.get (Reg.CORE_SEQ_CFG.refine_enable core) = v % 2 := by
    refine (Dev.get_put_other hkey _ _).trans ((Dev.get_put_same ..).trans (wrap_of_lt ?_))
    exact Nat.mod_lt v (by decide)
  have htimeout : written.get (Reg.CORE_SEQ_CFG.step_timeout core) = wrap 16 (v / 65536) := Dev.get_put_same ..
  refine ⟨_, onServing_ownerWrite hs ho t (fun d => d.coreSeqCfg core v), sendFrames_committed .., (sendFrames_get ..).trans hrefine,
    (sendFrames_get ..).trans htimeout, (sendFrames_pends ..).trans ?_⟩
  rw [← htimeout]
  rfl

theorem exec_sctCommit_held (t : Nat) (hp : s.dev.comp.prev.isSome = true) :
    exec (.sctCommit m t) s = .next (s.after ((s.dev.advance t).capture Blk.sct sctShadow)) := by
  have h : (s.dev.advance t).sctCommit = (s.dev.advance t).capture Blk.sct sctShadow := by
    refine if_neg ?_
    simpa [Dev.capture, Option.isSome_iff_ne_none] using hp
  exact (onServing_ownerWrite hs ho t Dev.sctCommit).trans (by rw [h])

end Commits

theorem Dev.takePend_sct {p : PendSet} (hb : p.block = Blk.sct) (d : Dev) :
    d.takePend p = (Dev.adopt p.vals { d with pends := d.pends.filter (fun q => q.block != Blk.sct) }).checkShares := by
  unfold Dev.takePend
  rw [if_neg (by rw [hb]; decide), if_pos hb, hb]

theorem Dev.takePend_sel {p : PendSet} (hb : p.block = Blk.sel) (d : Dev) :
    d.takePend p = Dev.adopt p.vals { d with pends := d.pends.filter (fun q => q.block != Blk.sel) } := by
  unfold Dev.takePend
  rw [if_neg (by rw [hb]; decide), if_neg (by rw [hb]; decide), if_neg (by rw [hb]; decide), hb]

/-- Without a previous map the captured shares are adopted at once (R384). -/
theorem Dev.sctCommit_now {d : Dev} (hp : d.comp.prev = none) :
    d.sctCommit = (Dev.adopt (sctShadow.map (fun f => (f.key, d.get f))) { d with pends := d.pends.filter (fun p => p.block != Blk.sct) }).checkShares := by
  have hsel : (d.pends.filter (fun p => p.block != Blk.sct) ++ [(⟨Blk.sct, d.now, sctShadow.map (fun f => (f.key, d.get f))⟩ : PendSet)]).filter
      (fun p => p.block == Blk.sct) = [⟨Blk.sct, d.now, sctShadow.map (fun f => (f.key, d.get f))⟩] := by
    rw [List.filter_append, List.filter_filter]
    simp
  have hrest : (d.pends.filter (fun p => p.block != Blk.sct) ++ [(⟨Blk.sct, d.now, sctShadow.map (fun f => (f.key, d.get f))⟩ : PendSet)]).filter
      (fun p => p.block != Blk.sct) = d.pends.filter (fun p => p.block != Blk.sct) := by
    rw [List.filter_append, List.filter_filter]
    simp
  unfold Dev.sctCommit
  rw [if_pos (by simp [Dev.capture, hp])]
  simp only [Dev.takePends, Dev.capture, hsel, List.foldl_cons, List.foldl_nil]
  rw [Dev.takePend_sct rfl, hrest]

theorem sctShadow_reset : ∀ f ∈ sctShadow, f.reset = 0 := by decide

theorem exec_sctCommit_now {s : State} {m : Master} (hs : s.dev.serving = true) (ho : s.dev.owner = m.code) (t : Nat) (hp : s.dev.comp.prev = none) :
    ∃ u, exec (.sctCommit m t) s = .next u ∧ u.dev.pends = s.dev.pends.filter (fun p => p.block != Blk.sct) ∧
      ∀ f ∈ sctShadow, u.dev.com f = s.dev.get f := by
  refine ⟨_, onServing_ownerWrite hs ho t Dev.sctCommit, ?_⟩
  rw [Dev.sctCommit_now (show (s.dev.advance t).comp.prev = none from hp)]
  refine ⟨(sendFrames_pends ..).trans ((Dev.checkShares_com Reg.LENS_CFG.slot_w _).2.trans (Dev.adopt_pends ..)), fun f hf => ?_⟩
  have hreset : ∀ g ∈ sctShadow, g.reset = f.reset := fun g hg => (sctShadow_reset g hg).trans (sctShadow_reset f hf).symm
  calc (Dev.sendFrames s.dev _).com f
    _ = Dev.com f (Dev.checkShares _) := by rw [Dev.com, Dev.com, sendFrames_committed]
    _ = _ := (Dev.checkShares_com f _).1
    _ = (s.dev.advance t).get f := Dev.com_adopt hf hreset _

/-- A set of SEL that has waited 1 ms takes effect (R385). -/
theorem exec_commitFallbackTimer_sel {s : State} {t : Nat} {p : PendSet} (hs : s.dev.serving = true) (hp : s.dev.pends = [p])
    (hb : p.block = Blk.sel) (hat : p.at_ + 1000000 ≤ max s.dev.now t) :
    exec (.commitFallbackTimer t) s =
      .next (s.after (p.vals.foldl (fun d v => d.setCom v.1 v.2) { s.dev.advance t with pends := [] })) := by
  have hsel : ([p].filter (fun p => (p.block == Blk.ses || p.block == Blk.sel || decide (0x100 ≤ p.block)) &&
      decide (p.at_ + ms 1 ≤ (s.dev.advance t).now))) = [p] := by
    have hnow : p.at_ + 1000000 ≤ (s.dev.advance t).now := hat
    simp [hb, ms, hnow]
  have hrest : (s.dev.advance t).pends.filter (fun q => q.block != Blk.sel) = [] := by simp [hp, hb]
  change execCommitFallbackTimer t s = _
  rw [execCommitFallbackTimer, onServing_after hs]
  simp only [Dev.takePends]
  rw [show (s.dev.advance t).pends = [p] from hp, hsel, List.foldl_cons, List.foldl_nil, Dev.takePend_sel hb, hrest]
  rfl

/-! ### The session query -/

theorem exec_sesQueryGo_starts {s : State} {m : Master} (hs : s.dev.serving = true) (ho : s.dev.owner = m.code)
    (h : s.dev.get Reg.SES_QRY_STATUS.done = 1) :
    ∃ t, exec (.sesQueryGo m) s = .next t ∧ t.dev.get Reg.SES_QRY_STATUS.done = 0 ∧
      t.dev.ses.query = some (s.dev.get Reg.SES_QRY_SID.session_id) := by
  refine ⟨_, onServing_after hs, ?_⟩
  rw [Dev.ownerWrite_owner ho, Dev.queryGo, if_pos h]
  exact ⟨(sendFrames_get ..).trans ((Dev.get_of_regs rfl).trans (Dev.get_put_same Reg.SES_QRY_STATUS.done 0 s.dev)), congrArg Ses.query (sendFrames_ses ..)⟩

theorem exec_sesQueryGo_runs {s : State} {m : Master} (hs : s.dev.serving = true) (ho : s.dev.owner = m.code)
    (h : s.dev.get Reg.SES_QRY_STATUS.done = 0) : exec (.sesQueryGo m) s = .next s := by
  change execSesQueryGo m s = _
  rw [execSesQueryGo, onServing_after hs, Dev.ownerWrite_owner ho, Dev.queryGo, if_neg (by rw [h]; decide), State.after, sendFrames_same_out rfl]

theorem leNat_lt (bs : List Byte) : leNat bs < 256 ^ bs.length := by
  induction bs with
  | nil => simp [leNat]
  | cons b bs ih =>
    have hb : b.toNat < 256 := b.isLt
    simp only [leNat, List.length_cons, pow_succ]
    omega

theorem Dev.queryDone_none {sid : Nat} {d : Dev} (hb : d.buoy sid = none) :
    d.queryDone sid =
      (({ d with ses := { d.ses with query := none } } : Dev).put Reg.SES_QRY_STATUS.done 1).put Reg.SES_QRY_STATUS.status ST.SES_UNKNOWN := by
  simp only [Dev.queryDone, Dev.readBuoy, hb]

/-- The words of a list of bytes in the query's data registers. -/
def Dev.showBytes (bs : List Byte) (ns : List Nat) (d : Dev) : Dev :=
  ns.foldl (fun d n => d.put (Reg.SES_QRY_DATA.bytes n) (leNat ((bs.drop (4 * n)).take 4))) d

theorem Dev.queryDone_some {sid : Nat} {b : Buoy} {d : Dev} (hb : d.buoy sid = some b) (hok : b.bad = false) :
    d.queryDone sid = (Dev.showBytes (buoyBytes b) (List.range 16)
      (({ d with ses := { d.ses with query := none } } : Dev).put Reg.SES_QRY_STATUS.done 1)).put Reg.SES_QRY_STATUS.status ST.OK := by
  simp only [Dev.queryDone, Dev.readBuoy, hb, hok, Bool.false_eq_true, if_false]
  rfl

theorem Dev.showBytes_ses (bs : List Byte) (ns : List Nat) (d : Dev) : (d.showBytes bs ns).ses = d.ses :=
  foldl_keeps (fun e : Dev => e.ses = d.ses) (by exact fun _ _ h => h) ns rfl

theorem Dev.get_showBytes_other {f : Fld} (h : ∀ n, (Reg.SES_QRY_DATA.bytes n).key ≠ f.key) (bs : List Byte) (ns : List Nat) (d : Dev) :
    (d.showBytes bs ns).get f = d.get f :=
  foldl_keeps (fun e : Dev => e.get f = d.get f) (fun _ n he => (Dev.get_put_other (h n) ..).trans he) ns rfl

theorem Dev.get_showBytes {n : Nat} {ns : List Nat} (hn : n ∈ ns) (bs : List Byte) (d : Dev) :
    (d.showBytes bs ns).get (Reg.SES_QRY_DATA.bytes n) = leNat ((bs.drop (4 * n)).take 4) := by
  have hlt (k : Nat) : leNat ((bs.drop (4 * k)).take 4) < 2 ^ 32 := by
    refine lt_of_lt_of_le (leNat_lt _) ((Nat.pow_le_pow_right (by decide) (List.length_take_le 4 _)).trans ?_)
    decide
  induction ns using List.reverseRecOn with
  | nil => cases hn
  | append_singleton ns k ih =>
    have hstep : d.showBytes bs (ns ++ [k]) = (d.showBytes bs ns).put (Reg.SES_QRY_DATA.bytes k) (leNat ((bs.drop (4 * k)).take 4)) :=
      List.foldl_append ..
    rw [hstep]
    by_cases hk : n = k
    · subst hk
      exact (Dev.get_put_same ..).trans (wrap_of_lt (hlt n))
    · have hmem : n ∈ ns := by simpa [hk] using hn
      have hkey : (Reg.SES_QRY_DATA.bytes k).key ≠ (Reg.SES_QRY_DATA.bytes n).key := by
        simp only [Fld.key, Reg.SES_QRY_DATA.bytes]
        omega
      exact (Dev.get_put_other hkey ..).trans (ih hmem)

theorem key_bytes_ne_status (n : Nat) : (Reg.SES_QRY_DATA.bytes n).key ≠ Reg.SES_QRY_STATUS.done.key ∧
    Reg.SES_QRY_STATUS.status.key ≠ (Reg.SES_QRY_DATA.bytes n).key := by
  simp only [Fld.key, Reg.SES_QRY_DATA.bytes, Reg.SES_QRY_STATUS.done, Reg.SES_QRY_STATUS.status]
  omega

theorem Dev.get_done_shown (bs : List Byte) (ns : List Nat) (st : Nat) (d : Dev) :
    ((d.showBytes bs ns).put Reg.SES_QRY_STATUS.status st).get Reg.SES_QRY_STATUS.done = d.get Reg.SES_QRY_STATUS.done :=
  (Dev.get_put_other (by decide) ..).trans (Dev.get_showBytes_other (fun k => (key_bytes_ne_status k).1) ..)

theorem exec_sesQueryDone {s : State} {sid : Nat} (hs : s.dev.serving = true) (hq : s.dev.ses.query = some sid) :
    exec .sesQueryDone s = .next (s.after (s.dev.queryDone sid)) := by
  change execSesQueryDone s = _
  rw [execSesQueryDone, onServing_after hs, hq]

theorem exec_sesQueryDone_unknown {s : State} {sid : Nat} (hs : s.dev.serving = true) (hq : s.dev.ses.query = some sid) (hb : s.dev.buoy sid = none) :
    ∃ t, exec .sesQueryDone s = .next t ∧ t.dev.get Reg.SES_QRY_STATUS.done = 1 ∧ t.dev.get Reg.SES_QRY_STATUS.status = ST.SES_UNKNOWN ∧
      t.dev.ses.query = none := by
  refine ⟨_, exec_sesQueryDone hs hq, ?_⟩
  rw [Dev.queryDone_none hb]
  refine ⟨(sendFrames_get ..).trans ((Dev.get_put_other (by decide) ..).trans (Dev.get_put_same ..)), (sendFrames_get ..).trans (Dev.get_put_same ..),
    congrArg Ses.query (sendFrames_ses ..)⟩

theorem exec_sesQueryDone_shows {s : State} {sid : Nat} {b : Buoy} (hs : s.dev.serving = true) (hq : s.dev.ses.query = some sid)
    (hb : s.dev.buoy sid = some b) (hok : b.bad = false) :
    ∃ t, exec .sesQueryDone s = .next t ∧ t.dev.get Reg.SES_QRY_STATUS.done = 1 ∧ t.dev.get Reg.SES_QRY_STATUS.status = ST.OK ∧
      t.dev.ses.query = none ∧ ∀ n, n < 16 → t.dev.get (Reg.SES_QRY_DATA.bytes n) = leNat (((buoyBytes b).drop (4 * n)).take 4) := by
  refine ⟨_, exec_sesQueryDone hs hq, ?_⟩
  rw [Dev.queryDone_some hb hok]
  refine ⟨?_, (State.after_get ..).trans (Dev.get_put_same ..), ?_, fun n hn => ?_⟩
  · rw [State.after_get, Dev.get_done_shown, Dev.get_put_same]
    rfl
  · rw [State.after_ses, Dev.put_ses, Dev.showBytes_ses, Dev.put_ses]
  · rw [State.after_get, Dev.get_put_other (key_bytes_ne_status n).2, Dev.get_showBytes (List.mem_range.mpr hn)]

/-- Settles O10: each commit captures its block's fields, a share commit without a previous map adopts them, and the query shows the Buoy. -/
theorem commitsComplete : Obligations.CommitsComplete := by
  unfold Obligations.CommitsComplete
  refine ⟨fun s m t hs ho => ⟨onServing_ownerWrite hs ho t _, onServing_ownerWrite hs ho t _, onServing_ownerWrite hs ho t _, exec_sctCommit_held hs ho t,
      exec_lensCommit hs ho t, fun core v _ => exec_coreSeqCfgWrite hs ho v t⟩,
    fun s m t hs ho hp => ?now, fun s t p hs hp hb hat => exec_commitFallbackTimer_sel hs hp hb hat,
    fun s m hs ho => ⟨exec_sesQueryGo_starts hs ho, exec_sesQueryGo_runs hs ho⟩, fun s sid hs hq hb => exec_sesQueryDone_unknown hs hq hb,
    fun s sid b hs hq hb hok => exec_sesQueryDone_shows hs hq hb hok⟩
  case now =>
    obtain ⟨u, hu, hpends, hcom⟩ := exec_sctCommit_now hs ho t hp
    have hmem {f : Fld} {n : Nat} (hn : n < 16)
        (h : f ∈ [Reg.SCT_BW.ethernet n, Reg.SCT_BW.lemdin n, Reg.SCT_BW.flash n, Reg.SCT_BW.stack n, Reg.SCT_BW2.pcie n]) : f ∈ sctShadow :=
      List.mem_flatMap.mpr ⟨n, List.mem_range.mpr hn, h⟩
    exact ⟨u, hu, hpends, fun n hn => ⟨hcom _ (hmem hn (by simp)), hcom _ (hmem hn (by simp))⟩⟩

end Sys2Proof.Machine
end

section
/-! PROOFS. The session commands at HEAD: their checks in order, their acceptance, MOVE_IN, slot admission and the timed parks (R87 to R92, R106,
R119, R120, R232). -/
namespace Sys2Proof.Machine

/-! ### The checks of R90 -/

/-- An explicit placement in a tier that the command does not place in (R90, R91). -/
def misplaced (op : Nat) (c : SesCmd) : Bool :=
  match op with
  | 0x20 => placeTier c.placement != some 1
  | 0x21 => placeTier c.placement != some 2
  | 0x22 => placeTier c.placement != some 0 && placeTier c.placement != some 1
  | _ => false

section Checks
variable {d : Dev} {op : Nat} {c : SesCmd} {q : Option Nat} {b : Buoy}

theorem Dev.checkCmd_absent (hb : d.buoy c.sid = none) : d.checkCmd op c q = ST.SES_UNKNOWN := by simp only [Dev.checkCmd, hb]

variable (hb : d.buoy c.sid = some b)
include hb

theorem Dev.checkCmd_otherSector {n : Nat} (hq : q = some n) (h : d.rangeSector c.sid ≠ some n ∨ b.sector ≠ n) :
    d.checkCmd op c q = ST.SES_UNKNOWN := by
  have hcond : (d.rangeSector c.sid != some n || b.sector != n) = true := by simpa using h
  simp only [Dev.checkCmd, hb, hq]
  exact if_pos hcond

variable (hq : q = none ∨ (q = some b.sector ∧ d.rangeSector c.sid = some b.sector))
include hq

theorem Dev.checkCmd_busy (hbusy : d.busyNow c.sid = true) : d.checkCmd op c q = ST.SES_BUSY := by
  rcases hq with hq | ⟨hq, hr⟩
  · simp [Dev.checkCmd, hb, hq, hbusy]
  · simp [Dev.checkCmd, hb, hq, hr, hbusy]

/-- An entry of the session's own Sector is checked as one of none (R44). -/
theorem Dev.checkCmd_own : d.checkCmd op c q = d.checkCmd op c none := by
  rcases hq with hq | ⟨hq, hr⟩
  · rw [hq]
  · simp [Dev.checkCmd, hb, hq, hr]

variable (hidle : d.busyNow c.sid = false)
include hidle

theorem Dev.checkCmd_gen (hg : c.checkGen = true) (hne : c.expectGen ≠ b.gen) : d.checkCmd op c q = ST.SES_GENMISMATCH := by
  rcases hq with hq | ⟨hq, hr⟩
  · simp [Dev.checkCmd, hb, hq, hidle, hg, hne]
  · simp [Dev.checkCmd, hb, hq, hr, hidle, hg, hne]

variable (hgen : c.checkGen = false ∨ c.expectGen = b.gen)
include hgen

/-- What is left of the checks once Sector, busy and generation have passed: state, placement, move handle. -/
theorem Dev.checkCmd_rest : d.checkCmd op c q =
    if !acceptsState op b.state || ((op == 0x25 || op == 0x26) && !Tab.has c.sid d.ses.records) then ST.SES_BADSTATE
    else if c.explicit && misplaced op c then ST.SES_PLACEMENT
    else if op == 0x25 || op == 0x26 then
      ((Tab.look c.sid d.ses.records).map (fun r =>
        if c.handleGroup == d.groupId && c.handleChip == d.chipId && c.handleSeq == r.seq then ST.OK else ST.SES_NOMOVE)).getD ST.SES_NOMOVE
    else ST.OK := by
  have hpass : (c.checkGen && c.expectGen != b.gen) = false := by
    rcases hgen with h | h <;> simp [h]
  rw [Dev.checkCmd_own hb hq]
  simp only [Dev.checkCmd, hb, hidle, hpass, Bool.false_eq_true, if_false]
  cases Tab.look c.sid d.ses.records <;> rfl

theorem Dev.checkCmd_state (hs : acceptsState op b.state = false) : d.checkCmd op c q = ST.SES_BADSTATE := by
  rw [Dev.checkCmd_rest hb hq hidle hgen, if_pos (by simp [hs])]

variable (hs : acceptsState op b.state = true)
include hs

theorem Dev.checkCmd_placement (h25 : op ≠ 0x25) (h26 : op ≠ 0x26) (he : c.explicit = true)
    (h : (op = 0x20 ∧ placeTier c.placement ≠ some 1) ∨ (op = 0x21 ∧ placeTier c.placement ≠ some 2) ∨
      (op = 0x22 ∧ placeTier c.placement ≠ some 0 ∧ placeTier c.placement ≠ some 1)) : d.checkCmd op c q = ST.SES_PLACEMENT := by
  rw [Dev.checkCmd_rest hb hq hidle hgen, if_neg (by simp [hs, h25, h26]), if_pos]
  rcases h with ⟨rfl, h⟩ | ⟨rfl, h⟩ | ⟨rfl, h, h'⟩
  · simp [he, misplaced, h]
  · simp [he, misplaced, h]
  · simp [he, misplaced, h, h']

theorem Dev.checkCmd_passes (h25 : op ≠ 0x25) (h26 : op ≠ 0x26) (h : c.explicit = false ∨ op = 0x23 ∨ op = 0x27) : d.checkCmd op c q = ST.OK := by
  rw [Dev.checkCmd_rest hb hq hidle hgen, if_neg (by simp [hs, h25, h26]), if_neg, if_neg (by simp [h25, h26])]
  rcases h with h | rfl | rfl
  · simp [h]
  · simp [misplaced]
  · simp [misplaced]

theorem Dev.checkCmd_handle {r : MoveRecord} (hop : op = 0x25 ∨ op = 0x26) (hr : Tab.look c.sid d.ses.records = some r) :
    d.checkCmd op c q = if c.handleGroup = d.groupId ∧ c.handleChip = d.chipId ∧ c.handleSeq = r.seq then ST.OK else ST.SES_NOMOVE := by
  have hhas : Tab.has c.sid d.ses.records = true := by simp [Tab.has, hr]
  rw [Dev.checkCmd_rest hb hq hidle hgen, if_neg (by simp [hs, hhas]), if_neg, if_pos (by simpa using hop), hr, Option.map_some, Option.getD_some]
  · simp only [Bool.and_eq_true, beq_iff_eq, and_assoc]
  · rcases hop with rfl | rfl <;> simp [misplaced]

end Checks

/-- Settles O12: each check answers its status where those before it have passed. -/
theorem sessionChecksInOrder : Obligations.SessionChecksInOrder := by
  unfold Obligations.SessionChecksInOrder
  intro d op c q _
  refine ⟨Dev.checkCmd_absent, fun b n hb hq h => Dev.checkCmd_otherSector hb hq h, fun b hb hq => ⟨Dev.checkCmd_busy hb hq,
    fun hidle hg hne => Dev.checkCmd_gen hb hq hidle hg hne, fun hidle hgen => ⟨Dev.checkCmd_state hb hq hidle hgen, fun hs h25 h26 => ⟨?_, ?_⟩,
    fun r hs hop hr => Dev.checkCmd_handle hb hq hidle hgen hs hop hr⟩⟩⟩
  · exact fun he h => Dev.checkCmd_placement hb hq hidle hgen hs h25 h26 he h
  · exact fun h => Dev.checkCmd_passes hb hq hidle hgen hs h25 h26 h

/-! ### Acceptance and refusal at HEAD -/

/-- A Buoy that reads well, or is absent, is read without effect (R42). -/
theorem Dev.readBuoy_keeps {sid : Nat} {d : Dev} (h : ∀ b, d.buoy sid = some b → b.bad = false) : (d.readBuoy sid).2 = d := by
  cases hb : d.buoy sid with
  | none => simp only [Dev.readBuoy, hb]
  | some b => simp only [Dev.readBuoy, hb, h b hb, Bool.false_eq_true, if_false]

@[simp] theorem SesOp.start_slot (op : Nat) (c : SesCmd) (ent : Option Ent) (slot : SlotKind) (now : Nat) (first : Bool) :
    (SesOp.start op c ent slot now first).slot = slot := rfl

section Accept
variable {op : Nat} {c : SesCmd} {e : Ent} {d : Dev} {b : Buoy} (hb : d.buoy c.sid = some b)
include hb

/-- An operation that starts, or that may wait, is accepted (R47, R106). -/
theorem Dev.accept_accepted (h : op = 0x22 → (d.slotFree (slotFor 0x22 b.state) = true ∧ d.leaveOut c.sid = false ∧ d.reviveHas c.sid = true) ∨
      d.pendingRevives < d.get Reg.SES_MOV_LIM.pending_m1 + 1) :
    d.accept op c (some e) (!c.prefetch) = (true, d.acceptedCommand op c e b) := by
  have hroom : (op == 0x22 && !(d.slotFree (slotFor op b.state) && !d.leaveOut c.sid && (op != 0x22 || d.reviveHas c.sid)) &&
      decide (d.pendingRevives ≥ d.get Reg.SES_MOV_LIM.pending_m1 + 1)) = false := by
    by_cases hop : op = 0x22
    · subst hop
      rcases h rfl with ⟨h1, h2, h3⟩ | h
      · simp [h1, h2, h3]
      · have hlt : ¬ d.get Reg.SES_MOV_LIM.pending_m1 + 1 ≤ d.pendingRevives := by omega
        simp only [ge_iff_le, hlt, decide_false, Bool.and_false]
    · simp [hop]
  simp only [Dev.accept, Dev.acceptWith, hb, id, SesOp.start_slot]
  refine (if_neg (by rw [hroom]; decide)).trans ?_
  simp only [Dev.acceptedCommand]
  rcases Bool.eq_false_or_eq_true (d.slotFree (slotFor op b.state) && !d.leaveOut c.sid && (op != 0x22 || d.reviveHas c.sid)) with hready | hready
  · simp only [hready, Bool.not_true, Bool.false_and, Bool.false_eq_true, if_false, if_true]
    rfl
  · simp only [hready, Bool.not_false, Bool.true_and, Bool.false_eq_true, if_false]
    rfl

/-- A revive that has to wait is refused where the pending list is full (R106). -/
theorem Dev.accept_full (hwait : d.slotFree (slotFor 0x22 b.state) = false ∨ d.leaveOut c.sid = true ∨ d.reviveHas c.sid = false)
    (hfull : d.get Reg.SES_MOV_LIM.pending_m1 + 1 ≤ d.pendingRevives) (ent : Option Ent) (first : Bool) :
    d.accept 0x22 c ent first = (false, d.flag Reg.SES_MOV_ERR.pending_full) := by
  have hready : (d.slotFree (slotFor 0x22 b.state) && !d.leaveOut c.sid && d.reviveHas c.sid) = false := by
    rcases hwait with h | h | h <;> simp [h]
  simp only [Dev.accept, Dev.acceptWith, hb, id]
  refine if_pos ?_
  simp only [SesOp.start_slot, bne_self_eq_false, Bool.false_or, hready]
  simpa using hfull

end Accept

/-- The device with the claim that a MOVE_ABORT about to be accepted sets in its record (R120). -/
def Dev.claimed (op : Nat) (c : SesCmd) (d : Dev) : Dev :=
  if op = 0x26 then
    { (d.flag Reg.SES_MOV_ERR.move_aborted) with ses := { d.ses with records := Tab.upd c.sid (fun r => { r with claim := 2 }) d.ses.records } }
  else d

theorem Dev.claimed_of_ne {op : Nat} (h : op ≠ 0x26) (c : SesCmd) (d : Dev) : d.claimed op c = d := if_neg h

@[simp] theorem Dev.claimed_buoy (op : Nat) (c : SesCmd) (sid : Nat) (d : Dev) : (d.claimed op c).buoy sid = d.buoy sid := by
  unfold Dev.claimed
  split <;> rfl

section SesCommand
variable {op : Nat} {c : SesCmd} {e : Ent} {d' d : Dev} (hf : d'.fetch 0 64 c.hdr = some (e, d))
include hf

omit hf in
theorem Dev.admin_fetched {h : EntryHdr} {f : Ent → Dev → Dev} {e : Ent} {d' d : Dev} (hf : d'.fetch 0 64 h = some (e, d)) : d'.admin h f = f e d := by
  simp only [Dev.admin, hf]

theorem Dev.sesCommand_notHead (hh : d.isHead = false) : d'.sesCommand op c = d.complete e ST.SES_NOTHEAD 0 := by
  rw [Dev.sesCommand, Dev.admin_fetched hf, if_pos (by simp [hh])]

variable (hh : d.isHead = true) (hread : ∀ b, d.buoy c.sid = some b → b.bad = false)
include hh hread

/-- A session command at HEAD once its Buoy has been read: the checks, the claim, acceptance. -/
theorem Dev.sesCommand_head : d'.sesCommand op c =
    if d.checkCmd op c (d.entSector e) ≠ ST.OK then d.complete e (d.checkCmd op c (d.entSector e)) 0
    else if op = 0x25 ∧ ((Tab.look c.sid d.ses.records).map (·.claim)).getD 0 ≠ 1 then d.complete e ST.SES_BADSTATE 0
    else if op = 0x26 ∧ ((Tab.look c.sid d.ses.records).map (·.claim)).getD 0 = 1 then d.complete e ST.SES_CLAIMED 0
    else if ((d.claimed op c).accept op c (some e) (!c.prefetch)).1 then ((d.claimed op c).accept op c (some e) (!c.prefetch)).2
    else ((d.claimed op c).accept op c (some e) (!c.prefetch)).2.complete e ST.SES_REVFULL 0 := by
  rw [Dev.sesCommand, Dev.admin_fetched hf, if_neg (by simp [hh])]
  simp only [Dev.readBuoy_keeps hread, ite_self]
  cases Tab.look c.sid d.ses.records <;> rfl

theorem Dev.sesCommand_refused (hc : d.checkCmd op c (d.entSector e) ≠ ST.OK) :
    d'.sesCommand op c = d.complete e (d.checkCmd op c (d.entSector e)) 0 := by
  rw [Dev.sesCommand_head hf hh hread, if_pos hc]

variable (hc : d.checkCmd op c (d.entSector e) = ST.OK)
include hc

theorem Dev.sesCommand_unclaimed (hop : op = 0x25) {r : MoveRecord} (hr : Tab.look c.sid d.ses.records = some r) (hcl : r.claim ≠ 1) :
    d'.sesCommand op c = d.complete e ST.SES_BADSTATE 0 := by
  rw [Dev.sesCommand_head hf hh hread, if_neg (by simp [hc]), if_pos (by simp [hop, hr, hcl])]

theorem Dev.sesCommand_claimed (hop : op = 0x26) {r : MoveRecord} (hr : Tab.look c.sid d.ses.records = some r) (hcl : r.claim = 1) :
    d'.sesCommand op c = d.complete e ST.SES_CLAIMED 0 := by
  rw [Dev.sesCommand_head hf hh hread, if_neg (by simp [hc]), if_neg (by simp [hop]), if_pos (by simp [hop, hr, hcl])]

theorem Dev.sesCommand_full (hop : op = 0x22) {b : Buoy} (hb : d.buoy c.sid = some b)
    (hwait : d.slotFree (slotFor 0x22 b.state) = false ∨ d.leaveOut c.sid = true ∨ d.reviveHas c.sid = false)
    (hfull : d.get Reg.SES_MOV_LIM.pending_m1 + 1 ≤ d.pendingRevives) :
    d'.sesCommand op c = (d.flag Reg.SES_MOV_ERR.pending_full).complete e ST.SES_REVFULL 0 := by
  subst hop
  rw [Dev.sesCommand_head hf hh hread, if_neg (by simp [hc]), if_neg (by simp), if_neg (by simp), Dev.claimed_of_ne (by decide), Dev.accept_full hb hwait hfull]
  rfl

theorem Dev.sesCommand_accepted (hop : op ≠ 0x26) {b : Buoy} (hb : d.buoy c.sid = some b)
    (hclaim : op = 0x25 → ∃ r, Tab.look c.sid d.ses.records = some r ∧ r.claim = 1)
    (hroom : op = 0x22 → (d.slotFree (slotFor 0x22 b.state) = true ∧ d.leaveOut c.sid = false ∧ d.reviveHas c.sid = true) ∨
      d.pendingRevives < d.get Reg.SES_MOV_LIM.pending_m1 + 1) :
    d'.sesCommand op c = d.acceptedCommand op c e b := by
  have hcl : ¬ (op = 0x25 ∧ ((Tab.look c.sid d.ses.records).map (·.claim)).getD 0 ≠ 1) := by
    rintro ⟨h25, hne⟩
    obtain ⟨r, hr, h1⟩ := hclaim h25
    simp [hr, h1] at hne
  rw [Dev.sesCommand_head hf hh hread, if_neg (by simp [hc]), if_neg hcl, if_neg (by simp [hop]), Dev.claimed_of_ne hop, Dev.accept_accepted hb hroom]
  rfl

/-- MOVE_ABORT sets the record's claim to ABORTED and is accepted (R120). -/
theorem Dev.sesCommand_abort (hop : op = 0x26) {b : Buoy} (hb : d.buoy c.sid = some b) {r : MoveRecord} (hr : Tab.look c.sid d.ses.records = some r)
    (hcl : r.claim ≠ 1) :
    d'.sesCommand op c = Dev.acceptedCommand 0x26 c e b
      { (d.flag Reg.SES_MOV_ERR.move_aborted) with ses := { d.ses with records := Tab.upd c.sid (fun r => { r with claim := 2 }) d.ses.records } } := by
  subst hop
  rw [Dev.sesCommand_head hf hh hread, if_neg (by simp [hc]), if_neg (by simp), if_neg (by simp [hr, hcl]),
    Dev.accept_accepted ((Dev.claimed_buoy ..).trans hb) (fun h => absurd h (by decide))]
  rfl

end SesCommand

/-- The session commands of R89 on a chip, each with its opcode. -/
theorem exec_sesCommand {s : State} (hs : s.dev.serving = true) (c : SesCmd) :
    ∀ p ∈ [(0x20, Instr.parkWarm c), (0x21, .parkCold c), (0x22, .revive c), (0x23, .moveOut c), (0x25, .moveCommit c), (0x26, .moveAbort c), (0x27, .drop c)],
      exec p.2 s = .next (s.after (s.dev.sesCommand p.1 c)) := by
  intro p hp
  simp only [List.mem_cons, List.not_mem_nil, or_false] at hp
  rcases hp with rfl | rfl | rfl | rfl | rfl | rfl | rfl <;> exact onServing_after hs

section Rows
variable {s : State} {c : SesCmd} {e : Ent} {d : Dev} (hs : s.dev.serving = true) (hf : s.dev.fetch 0 64 c.hdr = some (e, d))
include hs hf

theorem exec_sesCommand_notHead (hh : d.isHead = false) :
    ∀ i ∈ [Instr.parkWarm c, .parkCold c, .revive c, .moveOut c, .moveCommit c, .moveAbort c, .drop c],
      exec i s = .next (s.after (d.complete e ST.SES_NOTHEAD 0)) := by
  have hrow (op : Nat) : s.dev.sesCommand op c = d.complete e ST.SES_NOTHEAD 0 := Dev.sesCommand_notHead hf hh
  intro i hi
  have hp : ∃ op, (op, i) ∈ [(0x20, Instr.parkWarm c), (0x21, .parkCold c), (0x22, .revive c), (0x23, .moveOut c), (0x25, .moveCommit c),
      (0x26, .moveAbort c), (0x27, .drop c)] := by
    simpa [exists_or] using hi
  obtain ⟨op, hp⟩ := hp
  rw [← hrow op]
  exact exec_sesCommand hs c _ hp

theorem exec_sesCommand_refused (hh : d.isHead = true) (hread : ∀ b, d.buoy c.sid = some b → b.bad = false) :
    ∀ p ∈ [(0x20, Instr.parkWarm c), (0x21, .parkCold c), (0x22, .revive c), (0x23, .moveOut c), (0x25, .moveCommit c), (0x26, .moveAbort c), (0x27, .drop c)],
      d.checkCmd p.1 c (d.entSector e) ≠ ST.OK → exec p.2 s = .next (s.after (d.complete e (d.checkCmd p.1 c (d.entSector e)) 0)) := by
  intro p hp hc
  rw [exec_sesCommand hs c p hp, Dev.sesCommand_refused hf hh hread hc]

end Rows

/-- Settles O11: what a session command leaves where HEAD accepts it, and where it refuses it. -/
theorem sessionCommandsComplete : Obligations.SessionCommandsComplete := by
  unfold Obligations.SessionCommandsComplete
  refine ⟨fun s c e d b hs hf hh hb hok => ?accepts, fun s c e d hs hf => ⟨exec_sesCommand_notHead hs hf, fun hh hread => ?refuses⟩⟩
  case accepts =>
    have hread : ∀ x, d.buoy c.sid = some x → x.bad = false := fun x hx => by
      obtain rfl := Option.some.inj (hb.symm.trans hx)
      exact hok
    have run (p : Nat × Instr) (hp) : exec p.2 s = .next (s.after (s.dev.sesCommand p.1 c)) := exec_sesCommand hs c p hp
    refine ⟨fun hc => ?_, fun hc => ?_, fun hc hroom => ?_, fun hc => ?_, fun r hc hr hcl => ?_, fun r hc hr hcl => ?_, fun hc => ?_⟩
    · rw [run (0x20, .parkWarm c) (by simp), Dev.sesCommand_accepted hf hh hread hc (by decide) hb (by simp) (by simp)]
    · rw [run (0x21, .parkCold c) (by simp), Dev.sesCommand_accepted hf hh hread hc (by decide) hb (by simp) (by simp)]
    · rw [run (0x22, .revive c) (by simp), Dev.sesCommand_accepted hf hh hread hc (by decide) hb (by simp) (fun _ => hroom)]
    · rw [run (0x23, .moveOut c) (by simp), Dev.sesCommand_accepted hf hh hread hc (by decide) hb (by simp) (by simp)]
    · rw [run (0x25, .moveCommit c) (by simp), Dev.sesCommand_accepted hf hh hread hc (by decide) hb (fun _ => ⟨r, hr, hcl⟩) (by simp)]
    · rw [run (0x26, .moveAbort c) (by simp), Dev.sesCommand_abort hf hh hread hc rfl hb hr hcl]
    · rw [run (0x27, .drop c) (by simp), Dev.sesCommand_accepted hf hh hread hc (by decide) hb (by simp) (by simp)]
  case refuses =>
    have run (p : Nat × Instr) (hp) : exec p.2 s = .next (s.after (s.dev.sesCommand p.1 c)) := exec_sesCommand hs c p hp
    refine ⟨exec_sesCommand_refused hs hf hh hread, fun r hr => ⟨fun hc hcl => ?_, fun hc hcl => ?_⟩, fun b hb hc hfull hwait => ?_⟩
    · rw [run (0x25, .moveCommit c) (by simp), Dev.sesCommand_unclaimed hf hh hread hc rfl hr hcl]
    · rw [run (0x26, .moveAbort c) (by simp), Dev.sesCommand_claimed hf hh hread hc rfl hr hcl]
    · rw [run (0x22, .revive c) (by simp), Dev.sesCommand_full hf hh hread hc rfl hb hwait hfull]

/-! ### MOVE_IN, slot admission and the timed parks -/

section MoveIn
variable {s : State} {c : SesCmd} {record : Option MoveRecord} {x : Option MoveManifest} {pick n : Nat} {e : Ent} {d : Dev} (hs : s.dev.serving = true)
  (hf : s.dev.fetch 0 64 c.hdr = some (e, d)) (hh : d.isHead = true) (hrange : d.rangeSector c.sid = some n)
  (hent : d.entSector e = none ∨ d.entSector e = some n) (hidle : d.busyNow c.sid = false) (hb : d.buoy c.sid = none)
  (hplace : c.explicit = true → placeTier c.placement = some (if c.cold then 2 else 1))
include hf hh hrange hent hidle hb hplace

/-- MOVE_IN once the checks of R90 have passed: its record's checks, room for a Buoy, and acceptance (R119). -/
theorem Dev.moveInCommand_checked : s.dev.moveInCommand c record x pick =
    if d.moveInRecord c n record ≠ ST.OK then d.complete e (d.moveInRecord c n record) 0
    else if !d.buoyRoom n then d.complete e ST.SES_NOBUOY 0
    else ((d.allocInbound c.sid n pick).acceptWith (fun o => { o with allocated := true, inbound := x, record := record }) 0x24 c (some e) false).2 := by
  have hsector : ((d.entSector e).isSome && d.entSector e != some n) = false := by
    rcases hent with h | h <;> simp [h]
  have hunplaced : (c.explicit && placeTier c.placement != some (if c.cold then 2 else 1)) = false := by
    cases hx : c.explicit
    case false => rfl
    case true => simp [hplace hx]
  rw [Dev.moveInCommand, Dev.admin_fetched hf, if_neg (by simp [hh])]
  simp only [hrange, hsector, hb, hidle, hunplaced, Option.isSome_none, Bool.false_eq_true, if_false]

include hs

theorem exec_moveIn_accepted (hr : d.moveInRecord c n record = ST.OK) (hroom : d.buoyRoom n = true) :
    exec (.moveIn c record x pick) s = .next (s.after
      ((d.allocInbound c.sid n pick).acceptWith (fun o => { o with allocated := true, inbound := x, record := record }) 0x24 c (some e) false).2) := by
  change execMoveIn c record x pick s = _
  rw [execMoveIn, onServing_after hs, Dev.moveInCommand_checked hf hh hrange hent hidle hb hplace, if_neg (by simp [hr]), if_neg (by simp [hroom])]

theorem exec_moveIn_refused (hr : d.moveInRecord c n record ≠ ST.OK) :
    exec (.moveIn c record x pick) s = .next (s.after (d.complete e (d.moveInRecord c n record) 0)) := by
  change execMoveIn c record x pick s = _
  rw [execMoveIn, onServing_after hs, Dev.moveInCommand_checked hf hh hrange hent hidle hb hplace, if_pos hr]

end MoveIn

theorem Dev.admitKind_one_some {k : SlotKind} {sid : Nat} {d : Dev} (h : d.nextWork k = some sid) : d.admitKind k 1 = (d.turnRr sid).startOp sid := by
  simp only [Dev.admitKind, h]

theorem Dev.admitKind_one_none {k : SlotKind} {d : Dev} (h : d.nextWork k = none) : d.admitKind k 1 = d := by
  simp only [Dev.admitKind, h]

theorem exec_sessionSlotAdmit_one {s : State} {sid : Nat} {o : SesOp} (hs : s.dev.serving = true) (ho : s.dev.ses.ops = [(sid, o)]) (t : Nat) :
    exec (.sessionSlotAdmit t) s = .next (s.after (Dev.admitKind .warm 1 (Dev.admitKind .cold 1 (s.dev.advance t)))) := by
  have hlen : (s.dev.advance t).ses.ops.length = 1 := by simp [ho]
  change execSessionSlotAdmit t s = _
  rw [execSessionSlotAdmit, onServing_after hs]
  simp only [hlen]

/-- A session whose warm_delay has passed is parked (R232). -/
theorem exec_warmParkTimer_due {s : State} {sid t : Nat} {a : ParkArm} {b : Buoy} (hs : s.dev.serving = true) (ha : Tab.look sid s.dev.srv.arms = some a)
    (hb : s.dev.buoy sid = some b) (hh : s.dev.isHead = true) (hint : a.hint = 0) (hst : b.state = 3) (hturn : s.dev.turnOf sid = none)
    (hdelay : s.dev.get (Reg.SES_SRV_PARK.warm_delay b.sector) ≠ 0xFFFF)
    (hdue : a.since + 1000000 * s.dev.get (Reg.SES_SRV_PARK.warm_delay b.sector) ≤ (s.dev.advance t).daymark) :
    exec (.warmParkTimer sid t) s = .next (s.after ((s.dev.advance t).parkNow 0x20 sid)) := by
  have ha' : Tab.look sid (s.dev.advance t).srv.arms = some a := ha
  have hb' : (s.dev.advance t).buoy sid = some b := hb
  have hh' : (s.dev.advance t).isHead = true := hh
  have hturn' : (s.dev.advance t).turnOf sid = none := hturn
  change execWarmParkTimer sid t s = _
  rw [execWarmParkTimer, onServing_after hs]
  simp only [ha', hb', hh', hint, hst, hturn', Dev.get_advance]
  rw [if_pos]
  simpa [hdelay, ms, Nat.mul_comm] using hdue

theorem exec_coldParkCheck_due {s : State} {sid t : Nat} {a : ParkArm} (hs : s.dev.serving = true) (hh : s.dev.isHead = true)
    (ha : s.dev.srv.arms = [(sid, a)]) (hdue : (s.dev.advance t).coldDue sid = true) :
    exec (.coldParkCheck t) s = .next (s.after ((s.dev.advance t).parkNow 0x21 sid)) := by
  have hh' : (s.dev.advance t).isHead = true := hh
  have ha' : (s.dev.advance t).srv.arms = [(sid, a)] := ha
  change execColdParkCheck t s = _
  rw [execColdParkCheck, onServing_after hs]
  simp only [hh', if_true, ha', List.foldl_cons, List.foldl_nil, hdue]

/-- Settles O14: MOVE_IN's checks in their order, the one slot admission per kind, and the two delays. -/
theorem moveInAndTimedParks : Obligations.MoveInAndTimedParks := by
  unfold Obligations.MoveInAndTimedParks
  refine ⟨fun s c record x pick n e d hs hf hh hrange hent hidle hb hplace => ⟨exec_moveIn_accepted hs hf hh hrange hent hidle hb hplace,
      exec_moveIn_refused hs hf hh hrange hent hidle hb hplace⟩, fun s t sid o hs ho => ⟨fun hcold => ?_, fun hcold hwarm => ?_⟩,
    fun s sid t a b hs ha hb hh hint hst hturn hdelay hdue => exec_warmParkTimer_due hs ha hb hh hint hst hturn hdelay hdue,
    fun s sid t a hs hh ha hdue => exec_coldParkCheck_due hs hh ha hdue⟩
  · rw [exec_sessionSlotAdmit_one hs ho, Dev.admitKind_one_some hcold]
  · rw [exec_sessionSlotAdmit_one hs ho, Dev.admitKind_one_none hcold, Dev.admitKind_one_some hwarm]

end Sys2Proof.Machine
end

section
/-! PROOFS. Session control messages: PREPARE and GO, the messages that end a command, resends and failed passes, page moves, lost parts, and a
chip's work (R91, R94 to R98, R107, R110, R112 to R114, R119). -/
namespace Sys2Proof.Machine

/-! ### Messages on a chip -/

theorem Dev.opOf_eq_some {m : SesMsg} {o : SesOp} {d : Dev} : d.opOf m = some o ↔ d.op m.sid = some o ∧ o.seq = m.seq := by
  cases ho : d.op m.sid with
  | none => simp [Dev.opOf, ho]
  | some o' =>
    by_cases h : o'.seq = m.seq
    · simp only [Dev.opOf, ho, if_pos h, Option.some.injEq]
      exact ⟨fun e => ⟨e, e ▸ h⟩, fun e => e.1⟩
    · simp only [Dev.opOf, ho, if_neg h, Option.some.injEq]
      exact ⟨fun e => absurd e (by simp), fun e => absurd e.2 (e.1 ▸ h)⟩

theorem Dev.opOf_some {m : SesMsg} {o : SesOp} {d : Dev} (ho : d.op m.sid = some o) (hseq : o.seq = m.seq) : d.opOf m = some o :=
  Dev.opOf_eq_some.mpr ⟨ho, hseq⟩

theorem Dev.opOf_none {m : SesMsg} {d : Dev} (h : ∀ o, d.op m.sid = some o → o.seq ≠ m.seq) : d.opOf m = none := by
  cases ho : d.op m.sid with
  | none => simp only [Dev.opOf, ho]
  | some o => simp only [Dev.opOf, ho, if_neg (h o ho)]

theorem Dev.onMsg_handled {m : SesMsg} {work : Dev → Dev} {d : Dev} (h : d.ses.handled.contains (msgMark m) = true) : d.onMsg m work = d.forwardAgain m :=
  if_pos h

theorem Dev.onMsg_new {m : SesMsg} {work : Dev → Dev} {d : Dev} (h : d.ses.handled.contains (msgMark m) = false) : d.onMsg m work = work d :=
  if_neg (by rw [h]; decide)

/-! ### PREPARE and GO -/

section Prepare
variable {s : State} {m : SesMsg} {x : Option MoveManifest} {pick : Nat} (hs : s.dev.serving = true)
include hs

theorem exec_prepare_head (hh : s.dev.isHead = true) : exec (.prepare m x pick) s = .next (s.after (s.dev.prepareBack m)) := by
  change execPrepare m x pick s = _
  rw [execPrepare, onServing_after hs, if_pos hh]

theorem exec_prepare_chip (hh : s.dev.isHead = false) : exec (.prepare m x pick) s = .next (s.after (s.dev.prepareChip m x pick)) := by
  change execPrepare m x pick s = _
  rw [execPrepare, onServing_after hs, if_neg (by rw [hh]; decide)]

theorem exec_go_head (hh : s.dev.isHead = true) : exec (.go m) s = .next (s.after (s.dev.goBack m)) := by
  change execGo m s = _
  rw [execGo, onServing_after hs, if_pos hh]

theorem exec_go_chip (hh : s.dev.isHead = false) : exec (.go m) s = .next (s.after (s.dev.onMsg m (fun d =>
    (d.forward m).opUpd m.sid (fun o => if o.seq = m.seq then { o with pass := .go, working := true } else o)))) := by
  change execGo m s = _
  rw [execGo, onServing_after hs, if_neg (by rw [hh]; decide)]

end Prepare

section PrepareBack
variable {m : SesMsg} {o : SesOp} {d : Dev} (ho : d.op m.sid = some o) (hseq : o.seq = m.seq) (hp : o.pass = .prepare) (hcf : o.coldFallback = m.coldFallback)
include ho hseq hp hcf

/-- PREPARE is back for the operation that awaits it: GO, the cold fallback, or CANCEL (R94, R96). -/
theorem Dev.prepareBack_awaited : d.prepareBack m =
    if m.status = ST.OK then d.sendGo m.sid
    else if m.status = ST.SES_NOSTACK ∧ o.opcode = 0x20 ∧ !o.coldFallback then
      (d.opUpd m.sid (fun o => { o with coldFallback := true, plan := [] })).sendPrepare m.sid
    else d.sendCancel m.sid m.status := by
  simp only [Dev.prepareBack, Dev.opOf_some ho hseq]
  exact if_pos (by simp [hp, hcf])

end PrepareBack

section PrepareChip
variable {m : SesMsg} {x : Option MoveManifest} {pick : Nat} {d : Dev} (hnew : d.ses.handled.contains (msgMark m) = false) (ho : d.op m.sid = none)
include hnew ho

theorem Dev.prepareChip_command {b : Buoy} (hb : d.buoy m.sid = some b) (hok : b.bad = false) (hop : m.opcode ≠ 0x24) :
    d.prepareChip m x pick =
      if d.prepareCheck m ≠ ST.OK then d.forward (noteFail (d.prepareCheck m) d.position 0 m)
      else Dev.prepareReserve m
        (let d : Dev := d.buoyUpd m.sid (fun b => { b with busy := true, pendingOp := pendingCode m.opcode })
         { d with ses := { d.ses with ops := Tab.put m.sid (chipOp m none b.state d.now) d.ses.ops } }) := by
  have hread : (d.readBuoy m.sid).2 = d := Dev.readBuoy_keeps fun b' hb' => by
    obtain rfl := Option.some.inj (hb.symm.trans hb')
    exact hok
  have hnone : d.opOf m = none := Dev.opOf_none (by simp [ho])
  rw [Dev.prepareChip, Dev.onMsg_new hnew]
  simp only [hread, hnone, hb, if_neg hop]

theorem Dev.prepareChip_moveIn {n : Nat} (hb : d.buoy m.sid = none) (hop : m.opcode = 0x24) (hr : d.rangeSector m.sid = some n) (hroom : d.buoyRoom n = true) :
    d.prepareChip m x pick = Dev.prepareReserve m
      (let d : Dev := d.allocInbound m.sid n pick
       { d with ses := { d.ses with ops := Tab.put m.sid (chipOp m x 6 d.now) d.ses.ops } }) := by
  have hread : (d.readBuoy m.sid).2 = d := Dev.readBuoy_keeps (by simp [hb])
  have hnone : d.opOf m = none := Dev.opOf_none (by simp [ho])
  rw [Dev.prepareChip, Dev.onMsg_new hnew]
  simp only [hread, hnone, hb, if_pos hop, hr, hroom, Option.isSome_none, Bool.not_true, Bool.false_eq_true, if_false]

end PrepareChip

/-- The control messages, on a chip that has handled them already (R97). -/
theorem exec_message_handled {s : State} {m : SesMsg} (hs : s.dev.serving = true) (hh : s.dev.isHead = false)
    (hd : s.dev.ses.handled.contains (msgMark m) = true) :
    ∀ i ∈ [Instr.prepare m none 0, .go m, .done m 0, .sesCancel m, .lose m, .final m], exec i s = .next (s.after (s.dev.forwardAgain m)) := by
  have hchip : ¬ s.dev.isHead = true := by rw [hh]; decide
  have run (f : Dev → Dev) (g : Dev → Dev) : onServing (fun d => if d.isHead then g d else d.onMsg m f) s = .next (s.after (s.dev.forwardAgain m)) := by
    rw [onServing_after hs, if_neg hchip, Dev.onMsg_handled hd]
  intro i hi
  simp only [List.mem_cons, List.not_mem_nil, or_false] at hi
  rcases hi with rfl | rfl | rfl | rfl | rfl | rfl
  · change execPrepare m none 0 s = _
    rw [execPrepare]
    exact run _ _
  · change execGo m s = _
    rw [execGo]
    exact run _ _
  · change execDone m 0 s = _
    rw [execDone]
    exact run _ _
  · change execSesCancel m s = _
    rw [execSesCancel]
    exact run _ _
  · change execLose m s = _
    rw [execLose]
    exact run _ _
  · change execFinal m s = _
    rw [execFinal]
    exact run _ _

/-- Settles O15: what PREPARE and GO do at HEAD and on another chip, and that a message handled before is only forwarded. -/
theorem sessionPassesComplete : Obligations.SessionPassesComplete := by
  unfold Obligations.SessionPassesComplete
  refine ⟨⟨fun s m x pick o hs hh ho hseq hp hcf => ?back, fun s m x pick b hs hh hnew hb hok ho hop => ?command,
    fun s m x pick n hs hh hnew hb ho hop hr hroom => ?moveIn, fun s m o hs hh hnew ho hseq => ?goChip, fun s m o hs hh ho hseq => ?goHead⟩,
    fun s m hs hh hd i hi => ?handled⟩
  case back =>
    have hback := Dev.prepareBack_awaited ho hseq hp hcf
    rw [exec_prepare_head hs hh, hback]
    refine ⟨fun hst => ?_, fun hst hop hwarm => ?_, fun hst hno => ?_⟩
    · rw [if_pos hst]
    · rw [if_neg (by rw [hst]; decide), if_pos ⟨hst, hop, by rw [hwarm]; decide⟩]
    · rw [if_neg hst, if_neg]
      rintro ⟨h1, h2, h3⟩
      rcases hno h1 with h | h
      · exact h h2
      · simp [h] at h3
  case command =>
    rw [exec_prepare_chip hs hh, Dev.prepareChip_command hnew ho hb hok hop]
    exact ⟨fun h => by rw [if_neg (by simp [h])], fun h => by rw [if_pos h]⟩
  case moveIn => rw [exec_prepare_chip hs hh, Dev.prepareChip_moveIn hnew ho hb hop hr hroom]
  case goChip => rw [exec_go_chip hs hh, Dev.onMsg_new hnew]
  case goHead =>
    rw [exec_go_head hs hh]
    simp only [Dev.goBack, Dev.opOf_some ho hseq]
  case handled =>
    rw [exec_message_handled hs hh hd i hi]
    refine ⟨fun o ho hseq hm => ?_, fun hm => ?_⟩
    · simp only [Dev.forwardAgain, Dev.opOf_some ho hseq, if_pos hm]
    · cases ho : s.dev.opOf m with
      | none => simp only [Dev.forwardAgain, ho]
      | some o =>
        have hop : s.dev.op m.sid = some o ∧ o.seq = m.seq := Dev.opOf_eq_some.mp ho
        simp only [Dev.forwardAgain, ho, if_neg (hm o hop.1 hop.2)]

/-! ### The messages that end a command -/

section DoneBack
variable {m : SesMsg} {o : SesOp} {d : Dev} (ho : d.op m.sid = some o) (hseq : o.seq = m.seq) (hp : o.pass = .done)
include ho hseq hp

/-- DONE is back for a command that awaits it (R94, R95). -/
theorem Dev.doneBack_command (hop : o.opcode ≠ 0x24) (claim : Nat) : d.doneBack m claim =
    if m.status ≠ ST.OK then d.sendLose m.sid else d.finishOp m.sid ST.OK (d.opResult m.sid o) := by
  simp only [Dev.doneBack, Dev.opOf_some ho hseq, hp, beq_self_eq_true, if_true, if_neg hop]

/-- DONE is back for an inbound move: FINAL, or CANCEL with what stopped it (R119). -/
theorem Dev.doneBack_moveIn (hop : o.opcode = 0x24) (claim : Nat) : d.doneBack m claim =
    if m.status ≠ ST.OK then (d.flag Reg.SES_MOV_ERR.move_aborted).sendCancel m.sid m.status
    else if claim = 0 then (d.claimOut o).sendFinal m.sid
    else if claim = 1 then (d.claimOut o).sendCancel m.sid ST.SES_CLAIMED
    else ((d.claimOut o).flag Reg.SES_MOV_ERR.move_aborted).sendCancel m.sid ST.SES_ABORTED := by
  simp only [Dev.doneBack, Dev.opOf_some ho hseq, hp, beq_self_eq_true, if_true, if_pos hop]

end DoneBack

section EndsHead
variable {s : State} {m : SesMsg} (hs : s.dev.serving = true) (hh : s.dev.isHead = true)
include hs hh

theorem exec_done_head (claim : Nat) : exec (.done m claim) s = .next (s.after (s.dev.doneBack m claim)) := by
  change execDone m claim s = _
  rw [execDone, onServing_after hs, if_pos hh]

variable {o : SesOp} (ho : s.dev.op m.sid = some o) (hseq : o.seq = m.seq)
include ho hseq

theorem exec_sesCancel_head (hp : o.pass = .cancel) :
    exec (.sesCancel m) s = .next (s.after ((s.dev.releaseOp m.sid o).finishOp m.sid o.fail 0)) := by
  change execSesCancel m s = _
  rw [execSesCancel, onServing_after hs, if_pos hh]
  simp only [Dev.opOf_some ho hseq, hp, beq_self_eq_true, if_true]

theorem exec_lose_head (hp : o.pass = .lose) : exec (.lose m) s = .next (s.after (s.dev.finishOp m.sid ST.SES_LOST 0)) := by
  change execLose m s = _
  rw [execLose, onServing_after hs, if_pos hh]
  simp only [Dev.opOf_some ho hseq, hp, beq_self_eq_true, if_true]

theorem exec_final_head (hp : o.pass = .final) : exec (.final m) s = .next (s.after (s.dev.finishOp m.sid ST.OK 0)) := by
  change execFinal m s = _
  rw [execFinal, onServing_after hs, if_pos hh]
  simp only [Dev.opOf_some ho hseq, hp, beq_self_eq_true, if_true]

end EndsHead

section EndsChip
variable {s : State} {m : SesMsg} {o : SesOp} (hs : s.dev.serving = true) (hh : s.dev.isHead = false)
  (hnew : s.dev.ses.handled.contains (msgMark m) = false) (ho : s.dev.op m.sid = some o) (hseq : o.seq = m.seq)
include hs hh hnew

theorem onServing_onMsg_new (g f : Dev → Dev) : onServing (fun d => if d.isHead then g d else d.onMsg m f) s = .next (s.after (f s.dev)) := by
  rw [onServing_after hs, if_neg (by rw [hh]; decide), Dev.onMsg_new hnew]

theorem exec_final_chip : exec (.final m) s = .next (s.after (((s.dev.commitFinal m.sid).opDel m.sid).forward m)) := by
  change execFinal m s = _
  rw [execFinal]
  exact onServing_onMsg_new hs hh hnew _ _

theorem exec_lose_chip {b : Buoy} (hb : s.dev.buoy m.sid = some b) :
    exec (.lose m) s = .next (s.after (((s.dev.loseSession m.sid).opDel m.sid).forward m)) := by
  change execLose m s = _
  rw [execLose, onServing_onMsg_new hs hh hnew, if_pos (by rw [hb]; rfl)]

include ho hseq

theorem exec_done_chip (claim : Nat) : exec (.done m claim) s = .next (s.after
    (if o.committed then s.dev.passDone m else s.dev.opUpd m.sid (fun o => { o with doneMsg := some m, pass := .done }))) := by
  change execDone m claim s = _
  rw [execDone, onServing_onMsg_new hs hh hnew]
  simp only [Dev.opOf_some ho hseq]

theorem exec_sesCancel_chip : exec (.sesCancel m) s = .next (s.after (((s.dev.releaseOp m.sid o).opDel m.sid).forward m)) := by
  change execSesCancel m s = _
  rw [execSesCancel, onServing_onMsg_new hs hh hnew]
  simp only [Dev.opOf_some ho hseq]

end EndsChip

/-! ### Resends and failed passes -/

section Passes
variable {s : State} {sid t : Nat} {o : SesOp} (hs : s.dev.serving = true) (hh : s.dev.isHead = true) (ho : s.dev.op sid = some o)
  (hstop : o.stopped = false) (hret : o.returned = false)
include hs hh ho hstop hret

theorem exec_sessionMsgResend_due (hp : o.pass ≠ .waiting) (hgo : o.goMsg = none) (hn : o.resends < 100)
    (hdue : o.sentAt + 1000000 * (10 * (o.resends + 1)) ≤ max s.dev.now t) :
    exec (.sessionMsgResend sid t) s = .next (s.after
      (((if o.resends = 0 then ((s.dev.advance t).flag Reg.SES_MOV_ERR.coord_resend).reportKeeper (s.dev.sectorOf sid) ST.SES_COORD else s.dev.advance t).opUpd sid
        (fun x => { x with resends := o.resends + 1 })).emit (.sesMsg o.msg))) := by
  have hdue' : (!o.returned && resendDue o.sentAt o.resends (s.dev.advance t).now) = true := by
    have h : o.sentAt + ms (10 * (o.resends + 1)) ≤ (s.dev.advance t).now := by
      rw [ms, Nat.mul_comm]
      exact hdue
    simp only [hret, resendDue, hn, h, decide_true, Bool.and_self, Bool.not_false]
  have hout : ((s.dev.advance t).isHead && o.pass != .waiting && !o.stopped) = true := by
    rw [show (s.dev.advance t).isHead = true from hh, hstop]
    simpa using hp
  change execSessionMsgResend sid t s = _
  rw [execSessionMsgResend, onServing_after hs]
  simp only [show (s.dev.advance t).op sid = some o from ho, if_pos hout, Dev.resendOp, hgo, if_pos hdue']
  rfl

/-- A pass not back after its hundredth resend has failed, and is reported (R98). -/
theorem exec_coordPassFail_failed (hp : o.pass ≠ .waiting) (hn : o.resends = 100) (hlate : o.sentAt + 1010000000 < max s.dev.now t) {d : Dev}
    (hd : d = ((s.dev.advance t).flag Reg.SES_MOV_ERR.coord_fail).report ⟨conditionId (s.dev.sectorOf sid) ST.SES_COORD, 2, 1, s.dev.keeperNo⟩) :
    exec (.coordPassFail sid t) s = .next (s.after
      (if o.pass == .prepare || o.pass == .cancel then
        ((({ d with ses := { d.ses with keptCancels := d.ses.keptCancels ++ [o.mkMsg sid 4 o.gen ST.OK 0 0 o.msg.aux] } } : Dev).coordTurn sid).releaseOp sid o).finishOp
          sid ST.SES_COORD 0
      else ((if o.coordFailed then d else d.completeOpt o.ent ST.SES_COORD 0).opUpd sid
        (fun o => { o with coordFailed := true, stopped := true, holds := false })).coordTurn sid)) := by
  have hfailed : (!o.returned && passFailed o.sentAt o.resends (s.dev.advance t).now) = true := by
    have h : o.sentAt + ms 1010 < (s.dev.advance t).now := hlate
    simp only [hret, passFailed, hn, h, decide_true, beq_self_eq_true, Bool.and_self, Bool.not_false]
  have hout : ((s.dev.advance t).isHead && o.pass != .waiting && !o.stopped) = true := by
    rw [show (s.dev.advance t).isHead = true from hh, hstop]
    simpa using hp
  subst hd
  change execCoordPassFail sid t s = _
  rw [execCoordPassFail, onServing_after hs]
  simp only [show (s.dev.advance t).op sid = some o from ho]
  refine congrArg (fun x => Host.Outcome.next (s.after x)) (if_pos ?_)
  simp only [hout, hfailed, Bool.true_or, Bool.and_self]

end Passes

/-! ### Page moves and lost parts -/

theorem exec_pageMigrationStart_may {s : State} {sid stream ordinal a : Nat} {dest : Loc} {b : Buoy} {m : Moor} {p : Page} (hs : s.dev.serving = true)
    (hb : s.dev.buoy sid = some b) (hm : s.dev.moor sid = some m) (hp : m.pages.find? (fun p => p.stream == stream && p.ordinal == ordinal) = some p)
    (ha : s.dev.partAddr sid .kv (kvOffset m.lps stream ordinal) = some a) (hmay : s.dev.mayMigrate b m p dest = true) :
    exec (.pageMigrationStart sid stream ordinal dest) s =
      .next (s.after (s.dev.moorUpd sid (fun m => { m with migrating := Tab.put (pageKey stream ordinal) dest m.migrating }))) := by
  change execPageMigrationStart sid stream ordinal dest s = _
  rw [execPageMigrationStart, onServing_after hs]
  simp only [hb, hm, hp, ha, hmay, if_true]

section PartLoss
variable {sid : Nat} {b : Buoy} {m : Moor} {coded : Option CodedBytes} {mem : List Host.Cell} {d : Dev} (hb : d.buoy sid = some b) (hm : d.moor sid = some m)
include hb hm

/-- With no request in progress a copy of the Buoy's own context length rebuilds the part (R114). -/
theorem Dev.partLoss_idle (hst : b.state ≠ 1) (ht : d.turnOf sid = none) {c : CopyRec × Option CodedBytes}
    (hc : pickCopy m coded b.ctx b.ctx true = some c) (hr : (d.rebuild sid c.1 []).1 = true) :
    d.partLoss sid coded mem = (rebuiltBytes sid c.1 c.2 (d.rebuild sid c.1 []).2 mem, (d.rebuild sid c.1 []).2) := by
  have hidle : (b.state == 1 || (d.turnOf sid).isSome) = false := by simp [hst, ht]
  have hlog : d.logWhole sid = true := by simp [Dev.logWhole, ht]
  simp only [Dev.partLoss, hb, hm, hidle, hlog, if_true, Bool.false_eq_true, if_false, Bool.not_false, hc, hr]

/-- Without such a copy the session is lost (R114). -/
theorem Dev.partLoss_none (hst : b.state ≠ 1) (ht : d.turnOf sid = none) (hc : pickCopy m coded b.ctx b.ctx true = none) :
    d.partLoss sid coded mem = (mem, d.lostTier sid) := by
  have hidle : (b.state == 1 || (d.turnOf sid).isSome) = false := by simp [hst, ht]
  have hlog : d.logWhole sid = true := by simp [Dev.logWhole, ht]
  simp only [Dev.partLoss, hb, hm, hidle, hlog, if_true, Bool.false_eq_true, if_false, Bool.not_false, hc]

/-- With a request in progress HEAD replays the positions since the copy (R112). -/
theorem Dev.partLoss_turn (hh : d.isHead = true) {w : Turn} (ht : d.turnOf sid = some w) (hw : w.log.length ≤ 1048576) {c : CopyRec × Option CodedBytes}
    (hc : pickCopy m coded m.startCtx b.ctx false = some c) (hr : (d.rebuild sid c.1 []).1 = true) :
    d.partLoss sid coded mem = (rebuiltBytes sid c.1 c.2 (d.rebuild sid c.1 []).2 mem,
      (d.rebuild sid c.1 []).2.replayTurn sid m.startCtx c.1.ctx b.ctx 0) := by
  have hbusy : (b.state == 1 || (d.turnOf sid).isSome) = true := by simp [ht]
  have hlog : d.logWhole sid = true := by simp [Dev.logWhole, ht, hw]
  simp only [Dev.partLoss, hb, hm, hbusy, hlog, if_true, Bool.not_true, hc, hr, hh]

theorem Dev.otherLoss_rebuilt (hh : d.isHead = true) {w : Turn} (ht : d.turnOf sid = some w) (hw : w.log.length ≤ 1048576) (c : Nat) :
    d.otherLoss sid (some c) = d.replayTurn sid m.startCtx c b.ctx (b.ctx - c) := by
  have hlog : d.logWhole sid = true := by simp [Dev.logWhole, ht, hw]
  simp only [Dev.otherLoss, hh, hb, hm, ht, hlog, Option.isSome_some, Bool.and_self, Bool.not_true, Bool.false_eq_true, if_false, if_true]

theorem Dev.otherLoss_none (hh : d.isHead = true) : d.otherLoss sid none = d.lostTier sid := by
  simp only [Dev.otherLoss, hh, hb, hm, Bool.not_true, Bool.false_eq_true, if_false]

end PartLoss

theorem exec_partLossRebuild_here {s : State} (hs : s.dev.serving = true) (sid : Nat) (coded : Option CodedBytes) :
    exec (.partLossRebuild sid (.here coded)) s = .next (s.afterBoth (s.dev.partLoss sid coded s.mem)) :=
  onServingMem_after hs

theorem exec_partLossRebuild_elsewhere {s : State} (hs : s.dev.serving = true) (sid : Nat) (c : Option Nat) :
    exec (.partLossRebuild sid (.elsewhere c)) s = .next (s.after (s.dev.otherLoss sid c)) :=
  onServingMem_after (f := fun mem d => (mem, d.otherLoss sid c)) hs

/-! ### The end of a chip's work -/

/-- The operation after its work has committed: no work is under way, and no coded copy is awaited. -/
def Dev.workDone (sid moved : Nat) (d : Dev) : Dev :=
  let d := d.opUpd sid (fun o => { o with committed := true, working := false, fail := ST.OK, moved := moved, plan := [] })
  { d with pool := { d.pool with coded := Tab.del sid d.pool.coded } }

theorem Dev.workDone_op (sid moved : Nat) (d : Dev) : (d.workDone sid moved).op sid =
    (d.op sid).map (fun o => { o with committed := true, working := false, fail := ST.OK, moved := moved, plan := [] }) :=
  Tab.look_upd_same ..

/-- Work that succeeds commits; DONE then goes out at HEAD, or on from another chip where it waits (R94). -/
theorem finishWork_ok {sid : Nat} {r : WorkResult} {o : SesOp} {mem : List Host.Cell} {w : Nat × List Host.Cell × Dev} {d k : Dev} (ho : d.op sid = some o)
    (hw : o.working = true) (hc : o.committed = false) (hcoded : Tab.look sid d.pool.coded = none)
    (hcoding : (o.opcode = 0x20 ∨ o.opcode = 0x21) → d.codingOn = false) (hwork : w = d.workStatus sid o r mem) (hok : w.1 = ST.OK)
    (hk : k = w.2.2.commitWork sid o r w.2.1 (w.2.2.moveDest sid).1 (w.2.2.moveDest sid).2) :
    finishWork sid r mem d = (workBytes sid o w.2.2 k w.2.1, Dev.countMoves sid d
      (if (k.workDone sid (w.2.2.unitsMoved sid k)).isHead then (k.workDone sid (w.2.2.unitsMoved sid k)).sendDone sid ST.OK
       else match o.doneMsg with
         | some m => (k.workDone sid (w.2.2.unitsMoved sid k)).passDone m
         | none => k.workDone sid (w.2.2.unitsMoved sid k))) := by
  have hplain : (o.working && !o.committed && (o.opcode == 0x20 || o.opcode == 0x21) && d.codingOn && !r.unreadable && (Tab.look sid d.pool.coded).isNone) = false := by
    by_cases hop : o.opcode = 0x20 ∨ o.opcode = 0x21
    · simp [hcoding hop]
    · have h : (o.opcode == 0x20 || o.opcode == 0x21) = false := by simpa using hop
      simp [h]
  subst hk
  simp only [finishWork, Dev.endWork, ho, hplain, Bool.false_eq_true, if_false]
  simp only [hw, hc, hcoded]
  simp only [← hwork, hok, beq_self_eq_true, Bool.not_false, Bool.and_self, if_true]
  rfl

/-- Settles O16: what each later message does at HEAD and on another chip, when a pass goes out again or fails, how a lost part is rebuilt, and
how a chip's work ends. -/
theorem sessionEndsAndMoves : Obligations.SessionEndsAndMoves := by
  unfold Obligations.SessionEndsAndMoves
  refine ⟨⟨fun s m claim o hs hh ho hseq hp => ?done, fun s m o hs hh ho hseq => ⟨exec_sesCancel_head hs hh ho hseq, exec_lose_head hs hh ho hseq, exec_final_head hs hh ho hseq⟩,
    fun s m o b hs hh hnew ho hseq hb => ?chip⟩, fun s sid t o hs hh ho hp hstop hret hgo hn hdue => ?resend,
    fun s sid t o d hs hh ho hstop hret hn hlate hd => ?failed,
    fun s sid stream ordinal a dest b m p hs hb hm hp ha hmay => exec_pageMigrationStart_may hs hb hm hp ha hmay,
    fun s sid stream ordinal verified m dest hs _ _ => ?switch, fun s sid b m coded hs hb hm => ?lost,
    fun s sid r o w d hs ho hw hc hcoded hcoding hwork hok hd => ?work⟩
  case done =>
    rw [exec_done_head hs hh]
    refine ⟨fun hop => ?_, fun hop => ?_⟩
    · rw [Dev.doneBack_command ho hseq hp hop]
      exact ⟨fun h => by rw [if_neg (by simp [h])], fun h => by rw [if_pos h]⟩
    · rw [Dev.doneBack_moveIn ho hseq hp hop]
      refine ⟨fun h => by rw [if_pos h], fun h h0 => ?_, fun h h1 => ?_, fun h h2 => ?_⟩
      · rw [if_neg (by simp [h]), if_pos h0]
      · rw [if_neg (by simp [h]), if_neg (by simp [h1]), if_pos h1]
      · rw [if_neg (by simp [h]), if_neg (by simp [h2]), if_neg (by simp [h2])]
  case chip =>
    refine ⟨fun hc => ?_, fun hc => ?_, exec_sesCancel_chip hs hh hnew ho hseq, exec_lose_chip hs hh hnew hb, exec_final_chip hs hh hnew⟩
    · rw [exec_done_chip hs hh hnew ho hseq, if_pos hc]
    · rw [exec_done_chip hs hh hnew ho hseq, if_neg (by rw [hc]; decide)]
  case resend => exact exec_sessionMsgResend_due hs hh ho hstop hret hp hgo hn hdue
  case failed =>
    refine ⟨fun hp => ?_, fun hp hcf => ?_⟩
    · rw [exec_coordPassFail_failed hs hh ho hstop hret (by rcases hp with h | h <;> rw [h] <;> decide) hn hlate hd, if_pos (by simpa using hp)]
    · have hlater : o.pass ≠ .waiting ∧ (o.pass == .prepare || o.pass == .cancel) = false := by
        rcases hp with h | h | h | h <;> rw [h] <;> decide
      rw [exec_coordPassFail_failed hs hh ho hstop hret hlater.1 hn hlate hd, if_neg (by rw [hlater.2]; decide), if_neg (by rw [hcf]; decide)]
  case switch =>
    change execPageMigrationSwitch sid stream ordinal verified s = _
    rw [execPageMigrationSwitch, onServingMem_after hs]
  case lost =>
    refine ⟨fun c hst ht hc hr => ?_, fun hst ht hc => ?_, fun c w hh ht hw hc hr => ?_, fun c w hh ht hw => ?_, fun hh => ?_⟩
    · rw [exec_partLossRebuild_here hs, Dev.partLoss_idle hb hm hst ht hc hr]
    · rw [exec_partLossRebuild_here hs, Dev.partLoss_none hb hm hst ht hc]
      rfl
    · rw [exec_partLossRebuild_here hs, Dev.partLoss_turn hb hm hh ht hw hc hr]
    · rw [exec_partLossRebuild_elsewhere hs, Dev.otherLoss_rebuilt hb hm hh ht hw]
    · rw [exec_partLossRebuild_elsewhere hs, Dev.otherLoss_none hb hm hh]
  case work =>
    refine ⟨d.workDone sid (w.2.2.unitsMoved sid d), ?_, rfl, rfl, Dev.workDone_op ..⟩
    refine (onServingMem_after hs : onServingMem (finishWork sid r) s = _).trans ?_
    rw [finishWork_ok ho hw hc hcoded hcoding hwork hok hd] <;> rfl

end Sys2Proof.Machine
end

section
/-! PROOFS. Engine commands at the head of their list, and a core's step from its start to its end (R140, R142, R167, R170 to R178, R200, R202). -/
namespace Sys2Proof.Machine

/-! ### The head of a list -/

section RunHead
variable {op core img : Nat} {i : Issue} {d : Dev} (hop : i.cmd.opcode = op) (body : EngCtx → EngCmd → List Host.Cell → Dev → Ran) (mem : List Host.Cell)
include hop

/-- A head that may issue runs its body (R142). -/
theorem runHead_runs (h : d.headRuns core img i) :
    runHead op core img body mem d = d.engineRan core img i (body (d.issueCtx core img i) i.cmd mem d) := by
  obtain ⟨hi, e, he, hcan, hp, hok⟩ := h
  have hissue : (i.cmd.opcode == op && d.canIssue core img i e) = true := by simp [hop, hcan]
  simp only [runHead, hi, he, hissue, hp, hok, Bool.not_true, Bool.false_eq_true, if_false, if_true]
  rfl

variable (hi : d.headOf core img = some i) {e : CoreEntry} (he : d.coreEntry core img = some e) (hcan : d.canIssue core img i e = true)
include hi he hcan

/-- A head that waits on a poisoned slot fails at issue (R176). -/
theorem runHead_poisoned (hp : poisoned ((d.imgRun core img).list i.refine) i.cmd.seqn = true) :
    runHead op core img body mem d = (mem, d.started core img i ST.IMG_POISONED 0xFFFF 0) := by
  have hissue : (i.cmd.opcode == op && d.canIssue core img i e) = true := by simp [hop, hcan]
  simp only [runHead, hi, he, hissue, hp, if_true]

/-- A head whose operands lie outside their spaces fails at issue, and is reported (R140). -/
theorem runHead_operands (hp : poisoned ((d.imgRun core img).list i.refine) i.cmd.seqn = false) (hok : (d.engCtx core img).operandsOk i.cmd = false) :
    runHead op core img body mem d =
      (mem, (d.report ⟨conditionId (d.engCtx core img).sector ST.IMG_OPERAND, 1, 2, core⟩).started core img i ST.IMG_OPERAND 0xFFFF 0) := by
  have hissue : (i.cmd.opcode == op && d.canIssue core img i e) = true := by simp [hop, hcan]
  simp only [runHead, hi, he, hissue, hp, hok, Bool.not_false, Bool.false_eq_true, if_false, if_true]

end RunHead

/-- A row that issues a head leaves what its run leaves. -/
theorem onServingMem_runHead {s : State} (hs : s.dev.serving = true) (op core img : Nat) (body : EngCtx → EngCmd → List Host.Cell → Dev → Ran) :
    onServingMem (runHead op core img body) s = .next (s.afterBoth (runHead op core img body s.mem s.dev)) :=
  onServingMem_after hs

/-- Settles O18: every engine row issues the head under its own opcode. -/
theorem engineListRuns : Obligations.EngineListRuns := by
  unfold Obligations.EngineListRuns
  have run {s : State} {core img : Nat} {i : Issue} {x : EngCtx} (hs : s.dev.serving = true) (h : s.dev.headRuns core img i)
      (hx : x = s.dev.issueCtx core img i) {op : Nat} (hop : i.cmd.opcode = op) (body : EngCtx → EngCmd → List Host.Cell → Dev → Ran) :
      onServingMem (runHead op core img body) s = .next (s.afterBoth (s.dev.engineRan core img i (body x i.cmd s.mem s.dev))) := by
    rw [onServingMem_runHead hs, runHead_runs hop body s.mem h, hx]
  refine ⟨fun s core img i x hs h hx => ⟨fun hop => run hs h hx hop _, fun hop => run hs h hx hop _, fun hop => run hs h hx hop _,
    fun hop => run hs h hx hop _, fun hop => run hs h hx hop _, fun hop => run hs h hx hop _, fun hop => run hs h hx hop _, fun hop => run hs h hx hop _⟩,
    fun s core img i x faults copying hs h hx => ⟨fun hop => run hs h hx hop _, fun hop => run hs h hx hop _, fun hop => run hs h hx hop _⟩⟩

/-- Every command that issues a head is a run of it under the command's opcode. -/
theorem exec_headCommand {s : State} (hs : s.dev.serving = true) {core img : Nat} {faults : List StackFault} {copying : List Nat} {p : Nat × Instr}
    (hp : p ∈ headCommands core img faults copying) : ∃ body, exec p.2 s = .next (s.afterBoth (runHead p.1 core img body s.mem s.dev)) := by
  simp only [headCommands, List.mem_cons, List.not_mem_nil, or_false] at hp
  rcases hp with rfl | rfl | rfl | rfl | rfl | rfl | rfl | rfl | rfl | rfl | rfl <;> exact ⟨_, onServingMem_runHead hs ..⟩

/-- Settles O20: whichever command the head is, a failure at issue writes nothing. -/
theorem failedCommandWritesNothing : Obligations.FailedCommandWritesNothing := by
  unfold Obligations.FailedCommandWritesNothing
  intro s core img i e faults copying p hs hi he hcan hp hop
  obtain ⟨body, hrun⟩ := exec_headCommand hs hp
  rw [hrun]
  exact ⟨fun hpo => by rw [runHead_poisoned hop body s.mem hi he hcan hpo],
    fun hpo hok => by rw [runHead_operands hop body s.mem hi he hcan hpo hok]⟩

/-! ### A core's step -/

section CoreStart
variable {core step rows n key : Nat} {st st' : Step} {mem : List Host.Cell} {d : Dev}
  (hn : (List.range 16).find? (fun n => d.present n && (d.sector n).cores.testBit core) = some n)
  (hst : d.stepOf n step = some (key, st)) (hrows : st.positions = rows)
include hn hst hrows

/-- A step of another map starts at once where it may (R173). -/
theorem coreStart_sameMap (hep : st.epoch ≠ d.comp.cur.epoch) (hst' : d.stepOf n step = some (key, st')) (hcs : d.coreSector core = n)
    (hmay : d.mayStart core key st' = true) : coreStart core step rows mem d = startCore core key st' mem d := by
  have hif : ∀ a b : List Host.Cell × Dev, (if st.epoch = d.comp.cur.epoch ∧ ((d.hostCores n).all fun c => !d.inStep c) = true ∧
      (!d.gainsHeld n) = true ∧ (!st.leaveOnly) = true ∧ (!st.reported) = true then a else b) = b := fun a b => if_neg (fun h => hep h.1)
  obtain rfl : st = st' := by
    have h := hst.symm.trans hst'
    injection h with h
    injection h
  simp only [coreStart, hn, hst, hrows, ne_eq, not_true_eq_false, if_false, hif, hcs, hmay, beq_self_eq_true, Bool.and_self, if_true]

/-- A step of the present map takes the composition first (R346). -/
theorem coreStart_newMap {r : List Host.Cell × Dev} (hep : st.epoch = d.comp.cur.epoch) (hidle : (d.hostCores n).all (fun c => !d.inStep c) = true)
    (hgain : d.gainsHeld n = false) (hleave : st.leaveOnly = false) (hrep : st.reported = false) (hr : followCores n mem d = r)
    (hst' : r.2.stepOf n step = some (key, st')) (hcs : r.2.coreSector core = n) (hmay : r.2.mayStart core key st' = true) :
    coreStart core step rows mem d = startCore core key st' r.1 r.2 := by
  have hif : ∀ a b : List Host.Cell × Dev, (if st.epoch = d.comp.cur.epoch ∧ ((d.hostCores n).all fun c => !d.inStep c) = true ∧
      (!d.gainsHeld n) = true ∧ (!st.leaveOnly) = true ∧ (!st.reported) = true then a else b) = a :=
    fun a b => if_pos ⟨hep, hidle, by rw [hgain]; rfl, by rw [hleave]; rfl, by rw [hrep]; rfl⟩
  simp only [coreStart, hn, hst, hrows, ne_eq, not_true_eq_false, if_false, hif, hr, hst', hcs, hmay, beq_self_eq_true, Bool.and_self, if_true]

end CoreStart

section CoreRows
variable {s : State} (hs : s.dev.serving = true)
include hs

theorem exec_coreStepStart (core step rows t : Nat) :
    exec (.coreStepStart core step rows t) s = .next (s.afterBoth (coreStart core step rows s.mem (s.dev.advance t))) := by
  change execCoreStepStart core step rows t s = _
  rw [execCoreStepStart, onServingMem_after hs]

theorem exec_commandComplete_step {core img index t : Nat} {e : CoreEntry} {c : EngCmd} {r : RunCmd} (he : (s.dev.advance t).coreEntry core img = some e)
    (hr : Tab.look index (s.dev.imgRun core img).step.running = some r) (hc : e.step[index]? = some c) :
    exec (.commandComplete core img index t) s = .next (s.afterBoth (s.mem, (s.dev.advance t).completeCommand core img false index c r s.mem)) := by
  have hr' : Tab.look index ((s.dev.advance t).imgRun core img).step.running = some r := hr
  change execCommandComplete core img index t s = _
  rw [execCommandComplete, onServingMem_after hs]
  simp only [he, hr', hc]

theorem exec_commandComplete_refine {core img index t : Nat} {e : CoreEntry} {c : EngCmd} {r : RunCmd} (he : (s.dev.advance t).coreEntry core img = some e)
    (hn : Tab.look index (s.dev.imgRun core img).step.running = none) (hr : Tab.look index (s.dev.imgRun core img).refine.running = some r)
    (hc : e.refine[index]? = some c) :
    exec (.commandComplete core img index t) s = .next (s.afterBoth (s.mem, (s.dev.advance t).completeCommand core img true index c r s.mem)) := by
  have hn' : Tab.look index ((s.dev.advance t).imgRun core img).step.running = none := hn
  have hr' : Tab.look index ((s.dev.advance t).imgRun core img).refine.running = some r := hr
  change execCommandComplete core img index t s = _
  rw [execCommandComplete, onServingMem_after hs]
  simp only [he, hn', hr', hc]

theorem exec_coreStepEnd_ended {core t : Nat} (hin : (s.dev.advance t).inStep core = true)
    (hend : ((s.dev.advance t).coreRun core).imgs.all (fun e => listEnded e.2 && (s.dev.advance t).allSent core e.1) = true) :
    exec (.coreStepEnd core t) s = .next (s.after ((s.dev.advance t).endStep core)) := by
  change execCoreStepEnd core t s = _
  rw [execCoreStepEnd, onServing_after hs]
  simp only [hin, hend, Bool.and_self, if_true]

theorem exec_stepWatchdogExpiry_due {core t : Nat} (hin : s.dev.inStep core = true) (hdue : (s.dev.advance t).watchdogDue core = true) :
    exec (.stepWatchdogExpiry core t) s = .next (s.afterBoth (s.mem, (((s.dev.advance t).timeOut core s.mem).endStep core).report
      ⟨conditionId (((s.dev.advance t).timeOut core s.mem).coreSector core) ST.IMG_TIMEOUT, 1, 2, core⟩)) := by
  have hin' : (s.dev.advance t).inStep core = true := hin
  change execStepWatchdogExpiry core t s = _
  rw [execStepWatchdogExpiry, onServingMem_after hs]
  simp only [hin', hdue, Bool.and_self, if_true]
  rfl

theorem exec_refineIssue_runs {core img : Nat} {i : Issue} (hin : s.dev.inStep core = false) (hno : s.dev.noStepPending core = true)
    (hen : s.dev.get (Reg.CORE_SEQ_CFG.refine_enable core) = 1) {d : Dev} (hd : d = s.dev.wrapRefine core img) (h : d.headRuns core img i) :
    exec (.refineIssue core img) s = .next (s.afterBoth
      (d.engineRan core img i (refineBody i.cmd.opcode (d.issueCtx core img i) i.cmd (d.writeTable (d.engCtx core img) (d.refineRows core) i.cmd s.mem) d))) := by
  have hi : d.headOf core img = some i := h.1
  have hmay : (!s.dev.inStep core && s.dev.noStepPending core && s.dev.get (Reg.CORE_SEQ_CFG.refine_enable core) == 1) = true := by simp [hin, hno, hen]
  change execRefineIssue core img s = _
  rw [execRefineIssue, onServingMem_after hs, if_pos hmay]
  simp only [← hd, hi, runHead_runs rfl _ _ h]

/-- An engine that worked is lost: a spare takes its place, or the core is retired (R167). -/
theorem exec_engineFail_lost {core engine t : Nat} (he : engine < 5) (hok : (s.dev.get (Reg.CORE_ENG.engine_ok core)).testBit engine = true) {d : Dev}
    (hd : d = (s.dev.advance t).loseEngine core engine) {working : Nat}
    (hw : working = ((List.range 5).filter (fun e => (s.dev.get (Reg.CORE_ENG.engine_ok core) - 2 ^ engine).testBit e)).length) :
    exec (.engineFail core engine t) s = .next (s.after
      (let d := if working = 4 then (d.put Reg.GLB_CAP.spare_engines (d.get Reg.GLB_CAP.spare_engines - 1)).bump Reg.FOG_REP_ENGINE.count 1 else d
       let d := (d.reportUnit 2 (core * 5 + engine) 1).failEngine core engine
       if working < 4 then d.retireCore core else d)) := by
  have hlost : (((s.dev.advance t).get (Reg.CORE_ENG.engine_ok core)).testBit engine && decide (engine < 5)) = true := by simp [hok, he]
  subst hd hw
  change execEngineFail core engine t s = _
  rw [execEngineFail, onServing_after hs]
  exact congrArg (fun x => Host.Outcome.next (s.after x)) (if_pos hlost)

end CoreRows

/-- Settles O21: each row of a core's step, and the loss of an engine. -/
theorem coresComplete : Obligations.CoresComplete := by
  unfold Obligations.CoresComplete
  refine ⟨⟨fun s core step rows t n key st st' d hs hn hst hrows hep hd hst' hcs hmay => ?same,
    fun s core step rows t n key st st' r hs hn hst hrows hep hidle hgain hleave hrep hr hst' hcs hmay => ?new,
    fun s core img index t e c r hs he => ⟨exec_commandComplete_step hs he, exec_commandComplete_refine hs he⟩,
    fun s core t d hs hd hin hend => ?ends, fun s core t d hs hin hdue hd => ?watchdog,
    fun s core img i d hs hin hno hen hd h _ => exec_refineIssue_runs hs hin hno hen hd h⟩,
    fun s core engine t working d hs he hok hd hw => ⟨fun h4 => ?spare, fun h4 => ?retired⟩⟩
  case same =>
    subst hd
    rw [exec_coreStepStart hs, coreStart_sameMap hn hst hrows hep hst' hcs hmay]
  case new => rw [exec_coreStepStart hs, coreStart_newMap hn hst hrows hep hidle hgain hleave hrep hr hst' hcs hmay]
  case ends =>
    subst hd
    exact exec_coreStepEnd_ended hs hin hend
  case watchdog =>
    subst hd
    exact exec_stepWatchdogExpiry_due hs hin hdue
  case spare =>
    rw [exec_engineFail_lost hs he hok hd hw]
    simp only [h4, if_true, Nat.lt_irrefl, if_false]
  case retired =>
    have h : working ≠ 4 := by omega
    rw [exec_engineFail_lost hs he hok hd hw]
    simp only [h, h4, if_true, if_false]

/-! ### The fields of a core after its step -/

/-- A core whose step has failed three times in a row, and whose step now ends with a bad selection job. -/
def Dev.failedAgain : Dev := (Dev.reset.coreUpd 0 (fun r => { r with stepFailed := true })).put (Reg.CORE_IMAGE.fail_run 0) 3

/-- Refutes O22: the count of failed steps is a field of eight bits that goes on past 3. -/
theorem not_stepEndFields : ¬ Obligations.StepEndFields := by
  unfold Obligations.StepEndFields
  intro h
  have hfail : Dev.failedAgain.stepFailure 0 = some (0xFFFF, ST.SEL_BADJOB) := by decide
  have hfour : (Dev.failedAgain.endStep 0).get (Reg.CORE_IMAGE.fail_run 0) = 4 := by decide
  have hmin : min 3 (Dev.failedAgain.get (Reg.CORE_IMAGE.fail_run 0) + 1) = 3 := by decide
  obtain ⟨-, -, -, hfailed⟩ := h 0 Dev.failedAgain (by decide)
  obtain ⟨-, hrun, -⟩ := hfailed _ _ hfail
  rw [hfour, hmin] at hrun
  exact absurd hrun (by decide)

end Sys2Proof.Machine
end

section
/-! PROOFS. The route builder, and the steps of a batch on HEAD and on a later chip, to their boundary and the delivery of their records (R171, R195,
R211 to R223, R227 to R230). -/
namespace Sys2Proof.Machine

/-! ### The route builder -/

theorem nodup_eraseDups : ∀ l : List Nat, l.eraseDups.Nodup
  | [] => by simp
  | a :: l => by
    rw [List.eraseDups_cons, List.nodup_cons, List.mem_eraseDups]
    exact ⟨by simp, nodup_eraseDups (l.filter (fun b => !b == a))⟩
termination_by l => l.length
decreasing_by exact Nat.lt_succ_of_le (List.length_filter_le ..)

@[simp] theorem Dev.imgUpd_secImg (core img : Nat) (f : ImgRun → ImgRun) (n : Nat) (d : Dev) : (d.imgUpd core img f).secImg n = d.secImg n := rfl

theorem Dev.imgRun_imgUpd_same (core img : Nat) (f : ImgRun → ImgRun) (d : Dev) : (d.imgUpd core img f).imgRun core img = f (d.imgRun core img) := by
  simp [Dev.imgRun, Dev.imgUpd, Dev.coreUpd, Dev.coreRun]

/-- A change of an image core's run leaves those of other image cores. -/
theorem Dev.imgRun_imgUpd_other {img img' : Nat} (h : img' ≠ img) (core core' : Nat) (f : ImgRun → ImgRun) (d : Dev) :
    (d.imgUpd core' img' f).imgRun core img = d.imgRun core img := by
  by_cases hc : core' = core
  · subst hc
    simp only [Dev.imgRun, Dev.imgUpd, Dev.coreUpd, Dev.coreRun, Tab.getD_put_same]
    exact Tab.getD_put_other h ..
  · simp only [Dev.imgRun, Dev.imgUpd, Dev.coreUpd, Dev.coreRun]
    rw [Tab.getD_put_other hc]

/-- ROUTE_DONE is incremented on the cores that host some image cores. -/
def Dev.routesDone (sector : Nat) (cs : List Nat) (d : Dev) : Dev :=
  cs.foldl (fun (d : Dev) c => d.imgUpd (d.hostOf sector c) c (fun r => { r with step := ListRun.bump 58 false r.step })) d

theorem Dev.routesDone_cons (sector c : Nat) (cs : List Nat) (d : Dev) : d.routesDone sector (c :: cs) =
    (d.imgUpd (d.hostOf sector c) c (fun r => { r with step := ListRun.bump 58 false r.step })).routesDone sector cs := rfl

@[simp] theorem Dev.routesDone_secImg (sector n : Nat) (cs : List Nat) (d : Dev) : (d.routesDone sector cs).secImg n = d.secImg n :=
  foldl_keeps (fun e : Dev => e.secImg n = d.secImg n) (by exact fun _ _ h => h) cs rfl

@[simp] theorem Dev.routesDone_sel (sector : Nat) (cs : List Nat) (d : Dev) : (d.routesDone sector cs).sel = d.sel :=
  foldl_keeps (fun e : Dev => e.sel = d.sel) (by exact fun _ _ h => h) cs rfl

theorem Dev.imgRun_routesDone_other {sector c : Nat} {cs : List Nat} (hc : c ∉ cs) (core : Nat) (d : Dev) :
    (d.routesDone sector cs).imgRun core c = d.imgRun core c := by
  induction cs generalizing d with
  | nil => rfl
  | cons c' cs ih =>
    rw [List.mem_cons, not_or] at hc
    rw [Dev.routesDone_cons, ih hc.2, Dev.imgRun_imgUpd_other (Ne.symm hc.1)]

theorem Dev.imgRun_routesDone {sector c : Nat} {cs : List Nat} (hn : cs.Nodup) (hc : c ∈ cs) (d : Dev) :
    ((d.routesDone sector cs).imgRun (d.hostOf sector c) c).step = ListRun.bump 58 false (d.imgRun (d.hostOf sector c) c).step := by
  induction cs generalizing d with
  | nil => cases hc
  | cons c' cs ih =>
    rw [List.nodup_cons] at hn
    rw [Dev.routesDone_cons]
    by_cases h : c = c'
    · subst h
      rw [Dev.imgRun_routesDone_other hn.1, Dev.imgRun_imgUpd_same]
    · have hmem : c ∈ cs := by simpa [h] using hc
      have hstep := ih hn.2 hmem (d.imgUpd (d.hostOf sector c') c' (fun r => { r with step := ListRun.bump 58 false r.step }))
      rw [Dev.imgRun_imgUpd_other (Ne.symm h)] at hstep
      exact hstep

/-- What the route builder leaves: the lists, the counts, the cores' ROUTE_DONE, and the entry as routed (R184, R195). -/
theorem Dev.buildRoutes_eq (sector entry : Nat) (i : Image) (m : MoeEntry) (j : SelJob) (mem : List Host.Cell) (d : Dev) :
    d.buildRoutes sector entry i m j mem =
      (writeLists sector (setCounts i m ((d.routeLists sector m j mem).map List.length) (d.secImg sector).live) (d.secImg sector).hosts (d.secImg sector).shadow
        (d.writeRoutes sector i m (d.routeLists sector m j mem) mem),
       let k := (d.routesDone sector ((List.range m.experts).map (expertHolder m)).eraseDups).secImgPut sector
         { (d.secImg sector) with live := setCounts i m ((d.routeLists sector m j mem).map List.length) (d.secImg sector).live }
       { k with sel := { k.sel with routed := (sector * 65536 + entry) :: d.sel.routed } }) := by
  have himg := Dev.routesDone_secImg sector sector ((List.range m.experts).map (expertHolder m)).eraseDups d
  have hsel := Dev.routesDone_sel sector ((List.range m.experts).map (expertHolder m)).eraseDups d
  rw [← himg, ← hsel]
  rfl

theorem exec_routeBuildDone {s : State} (hs : s.dev.serving = true) {sector entry t : Nat} {i : Image} {m : MoeEntry} {d : Dev} (hd : d = s.dev.advance t)
    (hi : d.activeImg sector = some i) (hm : i.moe[entry]? = some m) :
    exec (.routeBuildDone sector entry t) s = .next (s.afterBoth
      (if d.routeSignals sector ≤ entry || d.sel.routed.contains (sector * 65536 + entry) then (s.mem, d)
       else ((d.routeJob sector m s.mem).map (fun j => d.buildRoutes sector entry i m j s.mem)).getD (s.mem, d))) := by
  subst hd
  change execRouteBuildDone sector entry t s = _
  rw [execRouteBuildDone, onServingMem_after hs]
  simp only [hi, hm]
  cases (s.dev.advance t).routeJob sector m s.mem <;> rfl

/-- Settles O23: the builder's work read off part by part, each holding core's count rising once because its image core occurs once. -/
theorem routesBuiltOnce : Obligations.RoutesBuiltOnce := by
  unfold Obligations.RoutesBuiltOnce
  intro s sector entry t i m d hs hd hi hm
  have hrow := exec_routeBuildDone hs hd hi hm
  refine ⟨fun j lists hsig hnew hj hl => ⟨?built, ?bytes, ?routed, fun e he => ?counts⟩, fun h => ?kept⟩
  case built =>
    rw [hrow, if_neg (by rw [hnew]; simpa using hsig), hj]
    rfl
  case bytes =>
    subst hl
    rw [Dev.buildRoutes_eq]
  case routed => rw [Dev.buildRoutes_eq]
  case counts =>
    have hmem : expertHolder m e ∈ ((List.range m.experts).map (expertHolder m)).eraseDups :=
      List.mem_eraseDups.mpr (List.mem_map_of_mem (List.mem_range.mpr he))
    rw [Dev.buildRoutes_eq]
    exact Dev.imgRun_routesDone (nodup_eraseDups _) hmem d
  case kept =>
    rw [hrow, if_pos]
    rcases h with h | h
    · rw [h, Bool.or_true]
    · simp [h]

/-! ### A step at HEAD, and its flits on a later chip -/

/-- Settles O24: the row of the step's start, where HEAD may start one. -/
theorem headStepStarts : Obligations.HeadStepStarts := by
  unfold Obligations.HeadStepStarts
  intro s sector batch t d f hs hmay hd hf
  subst hf hd
  change execHeadStepStart sector batch t s = _
  rw [execHeadStepStart, onServingMem_after hs]
  exact congrArg (fun x => Host.Outcome.next (s.afterBoth x)) (if_neg (by rw [hmay]; decide))

section Flits
variable {s : State} (hs : s.dev.serving = true)
include hs

theorem exec_seg_matched {f : SegFlit} (h : (s.dev.openStep (batchKey f.sector f.batch) f).segMismatch f.sector f = false) :
    exec (.seg f) s = .next (s.after (s.dev.openStep (batchKey f.sector f.batch) f)) := by
  change execSeg f s = _
  rw [execSeg, onServing_after hs]
  exact congrArg (fun x => Host.Outcome.next (s.after x)) (if_neg (by rw [h]; decide))

theorem exec_row_leave {f : RowFlit} {sector batch : Nat} (pick : Nat) {st : Step} (hst : s.dev.stepIn (batchKey sector batch) f.step = some st)
    (hl : f.leave = true) : exec (.row f sector batch pick) s = .next (s.after (s.dev.stepUpd (batchKey sector batch) f.step
      (fun s => { s with leaves := s.leaves ++ [⟨f.sid, false, f.ended, f.status, f.prevCommit, f.prevPath⟩] }))) := by
  change execRow f sector batch pick s = _
  rw [execRow, onServingMem_after hs]
  simp only [hst, hl, Option.isNone_some, Bool.false_eq_true, if_false, if_true]
  rfl

theorem exec_row_taken {f : RowFlit} {sector batch pick : Nat} {st : Step} (hst : s.dev.stepIn (batchKey sector batch) f.step = some st)
    {r : StepRow × Dev} (hl : f.leave = false) (hr : r = Dev.rowTaken f (s.dev.rowStatus sector f pick)) :
    exec (.row f sector batch pick) s = .next (s.afterBoth
      (rowBytesMoved sector r.1 s.dev r.2 s.mem, r.2.stepUpd (batchKey sector batch) f.step (Step.withRow r.1))) := by
  subst hr
  change execRow f sector batch pick s = _
  rw [execRow, onServingMem_after hs]
  simp only [hst, hl, Option.isNone_some, Bool.false_eq_true, if_false]

theorem exec_digest_step {sector batch : Nat} (sid : Nat) (ds : List Nat) {st : Step}
    (hst : (s.dev.batch (batchKey sector batch)).next.or (s.dev.batch (batchKey sector batch)).running = some st) :
    exec (.digest sector batch sid ds) s = .next (s.after (s.dev.stepUpd (batchKey sector batch) st.number
      (fun s => { s with rows := s.rows.map (fun r => if r.sid = sid then { r with tNew := (r.tNew ++ ds).take r.qcount } else r) }))) := by
  change execDigest sector batch sid ds s = _
  rw [execDigest, onServing_after hs]
  simp only [hst]

theorem exec_data_more (sector batch segment addr : Nat) (bytes : List Byte) :
    exec (.data sector batch segment false addr bytes) s =
      .next (s.afterBoth (Mem.writes (stageAddr sector batch segment + addr) bytes s.mem, s.dev)) := by
  change execData sector batch segment false addr bytes s = _
  rw [execData, onServingMem_after hs]

theorem exec_data_last {sector batch segment : Nat} (addr : Nat) (bytes : List Byte) {st : Step} {i : Image} {g : SegEntry}
    (hst : ((s.dev.batch (batchKey sector batch)).running.toList ++ (s.dev.batch (batchKey sector batch)).next.toList).find?
      (fun s => !s.leaveOnly && !s.segs.contains segment) = some st)
    (hi : s.dev.activeImg sector = some i) (hg : i.segs.find? (fun g => !g.out && g.number == segment) = some g) :
    exec (.data sector batch segment true addr bytes) s = .next (s.afterBoth
      (inArrives sector batch g st (Mem.writes (stageAddr sector batch segment + addr) bytes s.mem)
        (s.dev.stepUpd (batchKey sector batch) st.number (fun s => { s with segs := segment :: s.segs })))) := by
  have hi' : (s.dev.stepUpd (batchKey sector batch) st.number (fun s => { s with segs := segment :: s.segs })).activeImg sector = some i := hi
  change execData sector batch segment true addr bytes s = _
  rw [execData, onServingMem_after hs]
  simp only [hst, hi', hg]

end Flits

section RowStatus
variable {sector pick : Nat} {f : RowFlit} {d : Dev}

/-- A row that comes with ST_SES_NOBUOY makes no Buoy (R223). -/
theorem Dev.rowStatus_noBuoy (hv : f.invalid = true) (hst : f.status = ST.SES_NOBUOY) : d.rowStatus sector f pick = (ST.SES_NOBUOY, d) := by
  simp only [Dev.rowStatus, hv, hst, and_self, if_true]
  rfl

variable (hv : f.invalid = false)
include hv

/-- A row that comes valid is checked against the context limit where the chip's own part stands (R65). -/
theorem Dev.rowStatus_valid : d.rowStatus sector f pick =
    (if (d.takeRow sector f pick).1 = ST.OK ∧ (d.takeRow sector f pick).2.posLimit sector < f.qbase + f.qcount then ST.SES_CTXFULL
      else (d.takeRow sector f pick).1, (d.takeRow sector f pick).2) := by
  simp only [Dev.rowStatus, hv, Bool.false_eq_true, false_and, if_false, Bool.not_false, true_and]

theorem Dev.rowStatus_failed {st : Nat} {e : Dev} (h : d.takeRow sector f pick = (st, e)) (hne : st ≠ ST.OK) : d.rowStatus sector f pick = (st, e) := by
  rw [Dev.rowStatus_valid hv, h]
  exact Prod.ext (if_neg fun x => hne x.1) rfl

theorem Dev.rowStatus_stands {e : Dev} (h : d.takeRow sector f pick = (ST.OK, e)) :
    d.rowStatus sector f pick = (if e.posLimit sector < f.qbase + f.qcount then ST.SES_CTXFULL else ST.OK, e) := by
  rw [Dev.rowStatus_valid hv, h]
  simp only [true_and]

end RowStatus

section TakeRow
variable {sector pick : Nat} {f : RowFlit} {d : Dev}

theorem Dev.takeRow_absent (hb : d.buoy f.sid = none) (hj : f.join = false) : d.takeRow sector f pick = (ST.SES_LOST, d) := by
  simp only [Dev.takeRow, Dev.readBuoy, hb, hj, Bool.not_false, if_true]

theorem Dev.takeRow_noRoom (hb : d.buoy f.sid = none) (hj : f.join = true) (hroom : d.buoyRoom sector = false) :
    d.takeRow sector f pick = (ST.SES_NOBUOY, d) := by
  simp only [Dev.takeRow, Dev.readBuoy, hb, hj, hroom, Bool.not_true, Bool.not_false, Bool.false_eq_true, if_false, if_true]

variable {b : Buoy} (hb : d.buoy f.sid = some b) (hok : b.bad = false)
include hb hok

theorem Dev.takeRow_lost (hst : b.state = 8) : d.takeRow sector f pick = (ST.SES_LOST, d) := by
  simp only [Dev.takeRow, Dev.readBuoy, hb, hok, hst, Bool.false_eq_true, if_false, if_true]

theorem Dev.takeRow_active (hst : b.state = 1) (hj : f.join = false) : d.takeRow sector f pick = (ST.OK, d) := by
  simp [Dev.takeRow, Dev.readBuoy, hb, hok, hst, hj]

theorem Dev.takeRow_join (hst : b.state = 3) (hj : f.join = true) :
    d.takeRow sector f pick = (ST.OK, ((d.transition f.sid 1).joinParts f.sid).markBeacon sector f.sid) := by
  simp [Dev.takeRow, Dev.readBuoy, hb, hok, hst, hj]

end TakeRow

/-- Settles O26: each flit's row on a later chip, and what the chip finds for a batch row. -/
theorem stepFlitsTaken : Obligations.StepFlitsTaken := by
  unfold Obligations.StepFlitsTaken
  refine ⟨⟨fun s f hs h => exec_seg_matched hs h, fun s f sector batch pick st hs hst => ⟨exec_row_leave hs pick hst, fun r hl hr => ⟨exec_row_taken hs hst hl hr, by rw [hr]; rfl⟩⟩,
    fun s sector batch sid ds st hs hst => exec_digest_step hs sid ds hst, fun s sector batch segment addr bytes mem hs hm => ?data⟩,
    fun sector f pick d => ⟨fun hv hst => Dev.rowStatus_noBuoy hv hst, fun hb hv hj => ?absent, fun hb hv hj hroom => ?noRoom, fun b hb hok => ?held⟩⟩
  case data =>
    subst hm
    exact ⟨exec_data_more hs .., fun st i g hst hi hg => exec_data_last hs addr bytes hst hi hg⟩
  case absent => exact Dev.rowStatus_failed hv (Dev.takeRow_absent hb hj) (by decide)
  case noRoom => exact Dev.rowStatus_failed hv (Dev.takeRow_noRoom hb hj hroom) (by decide)
  case held =>
    refine ⟨fun hst hv => ?_, fun hst hv hl hj => ?_, fun hst hv hl hj => ?_, fun k hst hj hv hk => ?_⟩
    · exact Dev.rowStatus_failed hv (Dev.takeRow_lost hb hok hst) (by decide)
    · rw [Dev.rowStatus_stands hv (Dev.takeRow_active hb hok hst hj), if_neg (by omega)]
    · rw [Dev.rowStatus_stands hv (Dev.takeRow_active hb hok hst hj), if_pos hl]
    · subst hk
      exact Dev.rowStatus_stands hv (Dev.takeRow_join hb hok hst hj)

/-- Settles O27: the mismatch branch of SEG, with the record that it writes. -/
theorem segmentMismatchFailsStep : Obligations.SegmentMismatchFailsStep := by
  unfold Obligations.SegmentMismatchFailsStep
  intro s f hs h
  change ∃ t r, execSeg f s = .next (s.after t) ∧ _
  rw [execSeg, onServing_after hs]
  exact ⟨_, _, congrArg (fun x => Host.Outcome.next (s.after x)) (if_pos h), rfl, rfl, rfl, rfl, rfl⟩

/-! ### TOKENS, the boundary and the delivery of a record -/

section Boundary
variable {s : State} (hs : s.dev.serving = true)
include hs

theorem exec_tokens_passed (hh : s.dev.isHead = false) (sector batch : Nat) (e : TokensEntry) :
    exec (.tokens sector batch e) s = .next (s.after (s.dev.emit (.tokens e none))) := by
  change execTokens sector batch e s = _
  rw [execTokens, onServing_after hs, if_pos (by rw [hh]; rfl)]

theorem exec_tokens_taken (hh : s.dev.isHead = true) {sector batch : Nat} {e : TokensEntry} {st : Step}
    (hst : (s.dev.batch (batchKey sector batch)).running = some st) (hn : st.number = e.step)
    (hrow : e.leave = false → st.rows.any (fun r => r.sid == e.sid) = true)
    (hleave : e.leave = true → st.leaves.any (fun l => l.sid == e.sid && !l.returned) = true)
    (hnew : (s.dev.batch (batchKey sector batch)).tokens.any (fun x => x.sid == e.sid && x.leave == e.leave) = false) :
    exec (.tokens sector batch e) s = .next (s.after (s.dev.takeTokens (batchKey sector batch) e)) := by
  have hknown : (if e.leave = true then st.leaves.any (fun l => l.sid == e.sid && !l.returned) else st.rows.any (fun r => r.sid == e.sid)) = true := by
    split
    case isTrue h => exact hleave h
    case isFalse h => exact hrow (by simpa using h)
  change execTokens sector batch e s = _
  rw [execTokens, onServing_after hs, if_neg (by rw [hh]; decide)]
  simp only [hst]
  rw [if_pos ⟨hn, hknown, by rw [hnew]; rfl⟩]

theorem exec_stepBoundary_due {sector batch t : Nat} {st : Step} (hst : (s.dev.batch (batchKey sector batch)).running = some st)
    (hdue : (s.dev.advance t).boundaryDue (s.dev.batch (batchKey sector batch)) st = true) :
    exec (.stepBoundary sector batch t) s = .next (s.afterBoth
      (boundary sector (batchKey sector batch) (s.dev.batch (batchKey sector batch)) st s.mem (s.dev.advance t))) := by
  have hst' : ((s.dev.advance t).batch (batchKey sector batch)).running = some st := hst
  change execStepBoundary sector batch t s = _
  rw [execStepBoundary, onServingMem_after hs]
  simp only [hst']
  exact congrArg (fun x => Host.Outcome.next (s.afterBoth x)) (if_pos hdue)

end Boundary

section Delivery
variable {s : State} {q t pad : Nat} {u : Queue} {r : BatchRecord} {rest : List BatchRecord} (hs : s.dev.serving = true) (hu : Tab.look q s.dev.que = some u)
  (hr : u.heldRecs = r :: rest) (hst : u.st ≠ .dead) (hp : pad = padBytes u r.bytes)
include hs hu hr hst hp

/-- The oldest held record of a queue that lives: it goes out where shapers and ring allow it; what is held too long ends the queue's turns (R230). -/
theorem exec_egressRecordSend_held : exec (.egressRecordSend q t) s = .next (s.after
    (if (s.dev.advance t).shaperOk q && (s.dev.advance t).portOk u && decide ((s.dev.advance t).ringUsed q u + pad + r.bytes ≤ 2 ^ u.ringLog2) then
       (let count := wrap 64 (u.produced + pad + r.bytes)
        let d : Dev := (Dev.queUpd q (fun u => { u with heldRecs := rest, produced := count, acks := if u.location = 2 then u.acks ++ [count] else u.acks })
          (s.dev.advance t)).shaperDebit q (s.dev.unitSize q r.bytes)
        let d := (if pad = 0 then d else d.portDebit u 8).portDebit u r.bytes
        let d := (if pad = 0 then d else d.emit (.pad q pad)).emit (.record r)
        ((if u.location = 2 then d else (d.emit (.produced q count)).bellGone q).queEvent q).delivered r)
     else if 2 ^ u.ringLog2 < (s.dev.advance t).ringUsed q u + pad + r.bytes ∧
         s.dev.get Reg.SES_SRV_CFG.egress_hold_kib * 1024 < (u.heldRecs.map (·.bytes)).sum then (s.dev.advance t).overrun q
     else s.dev.advance t)) := by
  have hu' : Tab.look q (s.dev.advance t).que = some u := hu
  have hlive : ¬ (u.st == .dead) = true := by simpa using hst
  subst hp
  change execEgressRecordSend q t s = _
  rw [execEgressRecordSend, onServing_after hs]
  simp only [hu', hr, if_neg hlive]
  rfl

end Delivery

/-- Settles O28: the rows of TOKENS, of a boundary that is due, and of the oldest held record by shapers, ring and limit. -/
theorem boundaryAndDelivery : Obligations.BoundaryAndDelivery := by
  unfold Obligations.BoundaryAndDelivery
  refine ⟨fun s sector batch e hs => ⟨fun hh => exec_tokens_passed hs hh sector batch e, fun st hh hst hn hrow hleave hnew => exec_tokens_taken hs hh hst hn hrow hleave hnew⟩,
    fun s sector batch t st hs hst hdue => exec_stepBoundary_due hs hst hdue, fun s q t pad u r rest hs hu hr hst hp => ?send⟩
  have hrow := exec_egressRecordSend_held (t := t) hs hu hr hst hp
  refine ⟨fun hshape hroom => ?_, fun count hshape hport hroom hc => ?_, fun hfull hheld => ?_, fun hfull hheld => ?_⟩
  · rw [hrow, if_neg (by rw [hshape, Bool.false_and]; decide), if_neg (fun h => absurd h.1 (by omega))]
  · rw [hrow, if_pos (by simp [hshape, hport, hroom]), hc]
  · rw [hrow, if_neg (by simpa using fun _ _ => hfull), if_neg (fun h => absurd h.2 (by omega))]
  · rw [hrow, if_neg (by simpa using fun _ _ => hfull), if_pos ⟨hfull, hheld⟩]

end Sys2Proof.Machine
end

section
/-! PROOFS. Layer images, and turns on HEAD: their commands run, or answer the first check that fails (R186 to R191, R203 to R208). -/
namespace Sys2Proof.Machine

/-! ### Administration commands by their issuer -/

theorem Dev.ownerAdmin_denied {h : EntryHdr} {e : Ent} {d d' : Dev} (hf : d'.fetch 0 64 h = some (e, d)) (ho : d.fromOwner e = false)
    (denied : Nat) (f : Ent → Dev → Dev) : d'.ownerAdmin h denied f = d.complete e denied 0 := by
  rw [Dev.ownerAdmin, Dev.admin_fetched hf, if_neg (by rw [ho]; decide)]

theorem Dev.ownerAdminMem_owner {h : EntryHdr} {e : Ent} {d d' : Dev} (hf : d'.fetch 0 64 h = some (e, d)) (ho : d.fromOwner e = true)
    (denied : Nat) (mem : List Host.Cell) (f : Ent → Dev → List Host.Cell × Dev) : d'.ownerAdminMem h denied mem f = f e d := by
  simp only [Dev.ownerAdminMem, hf, ho, if_true]

theorem Dev.ownerAdminMem_denied {h : EntryHdr} {e : Ent} {d d' : Dev} (hf : d'.fetch 0 64 h = some (e, d)) (ho : d.fromOwner e = false)
    (denied : Nat) (mem : List Host.Cell) (f : Ent → Dev → List Host.Cell × Dev) :
    d'.ownerAdminMem h denied mem f = (mem, d.complete e denied 0) := by
  simp only [Dev.ownerAdminMem, hf, ho, Bool.false_eq_true, if_false]

theorem State.afterBoth_mem (s : State) (d : Dev) : s.afterBoth (s.mem, d) = s.after d := rfl

/-! ### The image commands -/

section Images
variable {s : State} {h : EntryHdr} {n : Nat} {e : Ent} {d : Dev} (hs : s.dev.serving = true)
include hs

theorem exec_imageLoad_owner (hf : s.dev.fetch 0 64 h = some (e, d)) (ho : d.fromOwner e = true) (kind src len : Nat) (host : List Byte)
    (sig : SigVerdict) : exec (.imageLoad h n kind src len host sig) s = .next (s.afterBoth
      (d.imageLoad e n (imageOf (loadSource n kind src len host s.mem) sig)
        ((loadSource n kind src len host s.mem).take (fld (loadSource n kind src len host s.mem) 0x20 8)) s.mem)) := by
  change execImageLoad h n kind src len host sig s = _
  rw [execImageLoad, onServingMem_after hs, Dev.ownerAdminMem_owner hf ho]

theorem exec_imageLoad_denied (hf : s.dev.fetch 0 64 h = some (e, d)) (ho : d.fromOwner e = false) (kind src len : Nat) (host : List Byte)
    (sig : SigVerdict) : exec (.imageLoad h n kind src len host sig) s = .next (s.after (d.complete e ST.IMG_DENIED 0)) := by
  change execImageLoad h n kind src len host sig s = _
  rw [execImageLoad, onServingMem_after hs, Dev.ownerAdminMem_denied hf ho, State.afterBoth_mem]

theorem exec_imageActivate_none {t : Nat} (hf : (s.dev.advance t).fetch 0 64 h = some (e, d)) (ho : d.fromOwner e = true)
    (hst : (d.secImg n).staged = none) : exec (.imageActivate h n t) s = .next (s.after (d.complete e ST.IMG_NOSTAGED 0)) := by
  change execImageActivate h n t s = _
  rw [execImageActivate, onServing_after hs, Dev.ownerAdmin_of_fetch hf ho]
  simp only [hst]

/-- IMAGE_ACTIVATE of a staged image: sessions hold it off only where they exist and the layout differs. -/
theorem exec_imageActivate_staged {t : Nat} {i : Image} (hf : (s.dev.advance t).fetch 0 64 h = some (e, d)) (ho : d.fromOwner e = true)
    (hst : (d.secImg n).staged = some i) : exec (.imageActivate h n t) s = .next (s.after
      (if d.hasBuoy n && !(((d.secImg n).active.map (sameLayout · i)).getD false) then d.complete e ST.IMG_SESSIONS 0
       else if (d.secImg n).activating.isSome then d.complete e ST.IMG_NOSTAGED 0
       else d.secImgPut n { (d.secImg n) with activating := some (e, d.now) })) := by
  change execImageActivate h n t s = _
  rw [execImageActivate, onServing_after hs, Dev.ownerAdmin_of_fetch hf ho]
  simp only [hst]
  cases (d.secImg n).active <;> rfl

theorem exec_imageActivateTimer_due {t at_ : Nat} (ha : ((s.dev.advance t).secImg n).activating = some (e, at_))
    (hdue : at_ + 1000000 ≤ (s.dev.advance t).now) (hi : (s.dev.advance t).sectorIdle n = true) :
    exec (.imageActivateTimer n t) s = .next (s.afterBoth (activate n s.mem (s.dev.advance t))) := by
  have hc : (decide (at_ + ms 1 ≤ (s.dev.advance t).now) && (s.dev.advance t).sectorIdle n) = true := by
    rw [hi, Bool.and_true]
    exact decide_eq_true hdue
  change execImageActivateTimer n t s = _
  rw [execImageActivateTimer, onServingMem_after hs]
  simp only [ha, hc, if_true]

theorem exec_imageDiscard_free (hf : s.dev.fetch 0 64 h = some (e, d)) (ho : d.fromOwner e = true) (ha : (d.secImg n).activating = none) :
    exec (.imageDiscard h n) s = .next (s.after ((d.secImgPut n { (d.secImg n) with staged := none }).complete e ST.OK 0)) := by
  change execImageDiscard h n s = _
  rw [execImageDiscard, onServing_after hs, Dev.ownerAdmin_of_fetch hf ho]
  simp only [ha]

theorem exec_imageUnload_owner (hf : s.dev.fetch 0 64 h = some (e, d)) (ho : d.fromOwner e = true) :
    exec (.imageUnload h n) s = .next (s.after (if d.hasBuoy n then d.complete e ST.IMG_SESSIONS 0
      else (d.secImgPut n { (d.secImg n) with
        active := none, hosts := [], live := [], blobsInTier1 := [], shadow := [], faulted := false }).complete e ST.OK 0)) := by
  change execImageUnload h n s = _
  rw [execImageUnload, onServing_after hs, Dev.ownerAdmin_of_fetch hf ho]

end Images

/-- Settles O29: each image command by its issuer, and a load by the checks of R187 in their order. -/
theorem imageCommandsAnswered : Obligations.ImageCommandsAnswered := by
  unfold Obligations.ImageCommandsAnswered
  refine ⟨?load, ?others, ?denied⟩
  case load =>
    rintro s h n kind src len host bytes sig i e d hs hf ho rfl rfl
    rw [exec_imageLoad_owner hs hf ho]
    refine ⟨fun hroom => ?_, fun hroom => ?_⟩
    · rw [Dev.imageLoad, if_pos hroom, State.afterBoth_mem]
    have hfit := Nat.not_lt.mpr hroom
    refine ⟨fun hsig => ?_, fun hsig hfmt => ?_, fun hsig hfmt hrole => ?_, fun hsig hfmt h1 h2 h3 => ⟨fun r hbad => ?_, fun r hbad hres => ?_, fun hbad hres => ?_⟩⟩
    · rw [Dev.imageLoad, if_neg hfit, if_pos (by rw [hsig]; rfl), State.afterBoth_mem]
    · rw [Dev.imageLoad, if_neg hfit, if_neg (by rw [hsig]; decide), if_pos (by rw [hfmt]; rfl), State.afterBoth_mem]
    · rw [Dev.imageLoad, if_neg hfit, if_neg (by rw [hsig]; decide), if_neg (by rw [hfmt]; decide), if_pos hrole, State.afterBoth_mem]
    all_goals
      rw [Dev.imageLoad, if_neg hfit, if_neg (by rw [hsig]; decide), if_neg (by rw [hfmt]; decide), if_neg (by simp [h1, h2, h3])]
    · simp only [hbad, State.afterBoth_mem]
    · simp only [hbad, hres, State.afterBoth_mem]
    · simp only [hbad, hres]
  case others =>
    refine fun s h n t e d hs => ⟨fun hf ho => ⟨exec_imageActivate_none hs hf ho, fun i hst hb hl => ?_, fun i hst hl ha => ?_⟩,
      ?_, fun hf ho => ⟨exec_imageDiscard_free hs hf ho, fun hb => ?_, fun hb => ?_⟩⟩
    · have hno : ((d.secImg n).active.map (sameLayout · i)).getD false = false := by
        cases hact : (d.secImg n).active with
        | none => rfl
        | some a => exact hl a hact
      rw [exec_imageActivate_staged hs hf ho hst, hb, hno, if_pos (by decide)]
    · have hmay : (d.hasBuoy n && !(((d.secImg n).active.map (sameLayout · i)).getD false)) = false := by
        rcases hl with hb | ⟨a, hact, hsame⟩
        · rw [hb, Bool.false_and]
        · rw [hact, Option.map_some, Option.getD_some, hsame, Bool.not_true, Bool.and_false]
      rw [exec_imageActivate_staged hs hf ho hst, hmay, ha, if_neg (by decide), if_neg (by decide)]
    · rintro at_ i r rfl ha hst hdue hi rfl
      rw [exec_imageActivateTimer_due hs ha hdue hi]
      simp only [activate, ha, hst]
    · rw [exec_imageUnload_owner hs hf ho, if_pos hb]
    · rw [exec_imageUnload_owner hs hf ho, if_neg (by rw [hb]; decide)]
  case denied =>
    refine fun s h n t e d hs ho => ⟨fun hf => ⟨exec_imageLoad_denied hs hf ho, ?_, ?_⟩, fun hf => ?_⟩
    · change execImageDiscard h n s = _
      rw [execImageDiscard, onServing_after hs, Dev.ownerAdmin_denied hf ho]
    · change execImageUnload h n s = _
      rw [execImageUnload, onServing_after hs, Dev.ownerAdmin_denied hf ho]
    · change execImageActivate h n t s = _
      rw [execImageActivate, onServing_after hs, Dev.ownerAdmin_denied hf ho]

/-! ### TURN -/

section Turns
variable {s : State} {e : Ent} {d : Dev} {u : Queue} (hs : s.dev.serving = true)

theorem exec_turn_fetched {x : TurnEntry} {t : Nat} (hs : s.dev.serving = true)
    (hf : (s.dev.advance t).fetch 1 x.text.length x.hdr = some (e, d)) (hu : d.entQueue e = some u) (pick : Nat) :
    exec (.turn x pick t) s = .next (s.after (d.turn e u.sector pick x)) := by
  change execTurn x pick t s = _
  rw [execTurn, onServing_after hs]
  simp only [hf, hu]

section Checks
variable {x : TurnEntry} {n : Nat} {k : Dev} (hh : d.isHead = true) (himg : (d.activeImg n).isSome = true)
  (hw : d.inWindow e x.payloadOffset x.text.length = true) (hep : d.epochServed x.mapEpoch = true)
  (hk : k = (if d.ownSession n x.sid then (d.readBuoy x.sid).2 else d))
include hh himg hw hep hk

/-- The checks of R205 from the third on, in their order, on the device that has read the session's Buoy. -/
theorem Dev.turn_from_params (pick : Nat) : d.turn e n pick x =
    (let st := if k.turnParams n x = ST.OK then k.turnSession n x else k.turnParams n x
     if st ≠ ST.OK then k.complete e st (k.turnRefusal x st)
     else if k.turnTool x ≠ ST.OK then (k.flag Reg.SES_SRV_ERR.tool_seq).complete e ST.SRV_TOOLSEQ 0
     else if 262144 ≤ k.srv.turns.length then (k.flag Reg.SES_SRV_ERR.track_full).complete e ST.SRV_TRACKFULL 0
     else if (k.buoy x.sid).isSome then k.startTurn e x
     else if !k.buoyRoom n then k.complete e ST.SES_NOBUOY 0
     else (k.createSession x.sid n pick).startTurn e x) := by
  subst hk
  have himg' : (d.activeImg n).isNone = false := by rw [Option.isNone_eq_false_iff, himg]
  rw [Dev.turn, if_neg (by rw [hh]; decide), if_neg (by rw [himg']; decide), if_neg (by rw [hw]; decide), if_neg (by rw [hep]; decide)]

theorem Dev.turn_badParam (hp : k.turnParams n x ≠ ST.OK) (pick : Nat) : d.turn e n pick x = k.complete e ST.SRV_BADPARAM 0 := by
  have hbad : k.turnParams n x = ST.SRV_BADPARAM := by
    unfold Dev.turnParams at hp ⊢
    exact if_neg (fun hc => hp (if_pos hc))
  rw [Dev.turn_from_params hh himg hw hep hk, if_neg hp, hbad]
  rfl

theorem Dev.turn_badSession (hp : k.turnParams n x = ST.OK) {st : Nat} (hst : k.turnSession n x = st) (hne : st ≠ ST.OK) (pick : Nat) :
    d.turn e n pick x = k.complete e st (k.turnRefusal x st) := by
  rw [Dev.turn_from_params hh himg hw hep hk, if_pos hp, hst]
  exact if_pos hne

theorem Dev.turn_from_tool (hp : k.turnParams n x = ST.OK) (hse : k.turnSession n x = ST.OK) (pick : Nat) : d.turn e n pick x =
    (if k.turnTool x ≠ ST.OK then (k.flag Reg.SES_SRV_ERR.tool_seq).complete e ST.SRV_TOOLSEQ 0
     else if 262144 ≤ k.srv.turns.length then (k.flag Reg.SES_SRV_ERR.track_full).complete e ST.SRV_TRACKFULL 0
     else if (k.buoy x.sid).isSome then k.startTurn e x
     else if !k.buoyRoom n then k.complete e ST.SES_NOBUOY 0
     else (k.createSession x.sid n pick).startTurn e x) := by
  rw [Dev.turn_from_params hh himg hw hep hk, if_pos hp, hse]
  exact if_neg (fun h => h rfl)

theorem Dev.turn_from_room (hp : k.turnParams n x = ST.OK) (hse : k.turnSession n x = ST.OK) (htool : k.turnTool x = ST.OK)
    (hroom : k.srv.turns.length < 262144) (pick : Nat) : d.turn e n pick x =
    (if (k.buoy x.sid).isSome then k.startTurn e x
     else if !k.buoyRoom n then k.complete e ST.SES_NOBUOY 0
     else (k.createSession x.sid n pick).startTurn e x) := by
  rw [Dev.turn_from_tool hh himg hw hep hk hp hse, if_neg (fun h => h htool), if_neg (by omega)]

end Checks

/-! ### TURN_TEXT and CANCEL -/

section Named
variable {h : EntryHdr} {sid tag : Nat} (hs : s.dev.serving = true)
include hs

/-- TURN_TEXT of a fetched entry through a queue, by the role, the Sector and the tag (R206). -/
theorem exec_turnText_fetched {off : Nat} {text : List Byte} {more : Bool} (hf : s.dev.fetch 1 text.length h = some (e, d)) (hu : d.entQueue e = some u) :
    exec (.turnText h sid tag off text more) s = .next (s.after
      (if !d.isHead then d.complete e ST.ROLE_UNSERVED 0
       else if !d.ownSession u.sector sid then d.complete e ST.SES_UNKNOWN 0
       else ((d.namedTurn sid tag).map (fun w =>
         if !w.takesText then d.complete e ST.SRV_NOTURN 0
         else if !d.inWindow e off text.length then (d.complete e ST.SRV_PAYLOAD 0).failTurn sid 7 ST.SRV_PAYLOAD
         else
           let k : Dev := d.turnUpd sid (fun t => { t with texts := t.texts ++ [⟨e, text, more, false, d.tok.arrivals⟩] })
           { k with tok := { k.tok with arrivals := d.tok.arrivals + 1 } })).getD (d.complete e ST.SRV_NOTURN 0))) := by
  change execTurnText h sid tag off text more s = _
  rw [execTurnText, onServing_after hs]
  simp only [hf, hu]
  cases d.namedTurn sid tag <;> rfl

/-- CANCEL of a fetched entry through a queue, by the role, the Sector and the tag (R206). -/
theorem exec_cancel_fetched (hf : s.dev.fetch 1 0 h = some (e, d)) (hu : d.entQueue e = some u) :
    exec (.cancel h sid tag) s = .next (s.after
      (if !d.isHead then d.complete e ST.ROLE_UNSERVED 0
       else if !d.ownSession u.sector sid then d.complete e ST.SES_UNKNOWN 0
       else ((d.namedTurn sid tag).map (fun _ =>
         (d.turnUpd sid (fun t => { t with cancels := t.cancels ++ [e] })).failTurn sid 6 ST.SRV_CANCELLED)).getD (d.complete e ST.SRV_NOTURN 0))) := by
  change execCancel h sid tag s = _
  rw [execCancel, onServing_after hs]
  simp only [hf, hu]
  cases d.namedTurn sid tag <;> rfl

end Named
end Turns

/-- Settles O30: the checks of R205 in their order, and TURN_TEXT and CANCEL by role, Sector and tag. -/
theorem turnsAnswered : Obligations.TurnsAnswered := by
  unfold Obligations.TurnsAnswered
  refine ⟨⟨?turn, ?text, ?cancel⟩, ?refused, ?textRefused, ?cancelRefused⟩
  case turn =>
    intro s x pick t e d k u hs hf hu hh himg hw hep hk hp hse htool hroom
    rw [exec_turn_fetched hs hf hu, Dev.turn_from_room hh himg hw hep hk hp hse htool hroom]
    refine ⟨fun hb => ?_, fun hb hbr => ?_⟩
    · rw [if_pos hb]
    · rw [if_neg (by rw [hb]; decide), if_neg (by rw [hbr]; decide)]
  case text =>
    intro s h sid tag off text more e d u w hs hf hu hh hown hn htake hw
    rw [exec_turnText_fetched hs hf hu, hh, hown, hn, Option.map_some, Option.getD_some, if_neg (by decide), if_neg (by decide),
      if_neg (by rw [htake]; decide), if_neg (by rw [hw]; decide)]
  case cancel =>
    intro s h sid tag e d u w hs hf hu hh hown hn
    rw [exec_cancel_fetched hs hf hu, hh, hown, hn, Option.map_some, Option.getD_some, if_neg (by decide), if_neg (by decide)]
  case refused =>
    intro s x pick t e d k u hs hf hu
    rw [exec_turn_fetched hs hf hu]
    refine ⟨fun hh => ?_, fun hh himg => ?_, fun hh himg => ⟨fun hw => ?_, fun hw => ⟨fun hep => ?_, fun hep hk => ⟨fun hp => ?_, fun hp => ?_⟩⟩⟩⟩
    · rw [Dev.turn, if_pos (by rw [hh]; decide)]
    · rw [Dev.turn, if_neg (by rw [hh]; decide), if_pos (by rw [himg]; rfl)]
    · rw [Dev.turn, if_neg (by rw [hh]; decide), if_neg (by rw [Option.isNone_iff_eq_none]; exact Option.isSome_iff_ne_none.mp himg),
        if_pos (by rw [hw]; rfl)]
    · rw [Dev.turn, if_neg (by rw [hh]; decide), if_neg (by rw [Option.isNone_iff_eq_none]; exact Option.isSome_iff_ne_none.mp himg),
        if_neg (by rw [hw]; decide), if_pos (by rw [hep]; rfl)]
    · rw [Dev.turn_badParam hh himg hw hep hk hp]
    · refine ⟨fun hown => ?_, fun hown ht => ?_, fun b hown ht hbusy hb => ⟨fun hst => ?_, fun hst => ?_⟩, fun hse => ⟨fun htool => ?_, fun htool hfull => ?_, fun htool hroom hb hbr => ?_⟩⟩
      · rw [Dev.turn_badSession hh himg hw hep hk hp (if_pos (by rw [hown]; rfl)) (by decide)]
        rfl
      · rw [Dev.turn_badSession hh himg hw hep hk hp (st := ST.SES_BUSY) (by rw [Dev.turnSession, if_neg (by rw [hown]; decide), if_pos ht]) (by decide)]
        rfl
      · rw [Dev.turn_badSession hh himg hw hep hk hp (st := ST.SES_LOST) (by simp [Dev.turnSession, hown, ht, hbusy, hb, hst]) (by decide)]
        rfl
      · rw [Dev.turn_badSession hh himg hw hep hk hp (st := ST.SES_REMOTE) (by simp [Dev.turnSession, hown, ht, hbusy, hb, hst]) (by decide),
          Dev.turnRefusal, if_pos rfl, hb]
      · rw [Dev.turn_from_tool hh himg hw hep hk hp hse, if_pos htool]
      · rw [Dev.turn_from_tool hh himg hw hep hk hp hse, if_neg (fun h => h htool), if_pos hfull]
      · rw [Dev.turn_from_room hh himg hw hep hk hp hse htool hroom, hb, hbr, if_neg (by decide), if_pos (by decide)]
  case textRefused =>
    intro s h sid tag off text more e d u hs hf hu
    rw [exec_turnText_fetched hs hf hu]
    refine ⟨fun hh => ?_, fun hh hown => ?_, fun hh hown hn => ?_⟩
    · rw [hh, if_pos (by decide)]
    · rw [hh, hown, if_neg (by decide), if_pos (by decide)]
    · rw [hh, hown, hn, if_neg (by decide), if_neg (by decide), Option.map_none, Option.getD_none]
  case cancelRefused =>
    intro s h sid tag e d u hs hf hu
    rw [exec_cancel_fetched hs hf hu]
    refine ⟨fun hh => ?_, fun hh hown => ?_, fun hh hown hn => ?_⟩
    · rw [hh, if_pos (by decide)]
    · rw [hh, hown, if_neg (by decide), if_pos (by decide)]
    · rw [hh, hown, hn, if_neg (by decide), if_neg (by decide), Option.map_none, Option.getD_none]

end Sys2Proof.Machine
end

section
/-! PROOFS. Vocabularies, grammars, their transfer to TAIL, and the tokenizer (R260 to R264, R272, R282, R292). -/
namespace Sys2Proof.Machine

/-! ### A completion leaves the work of the device -/

/-- The state that a completion never changes: all but the registers, the queues, the shapers and what goes out. -/
structure DevWork where
  now : Nat
  daymark : Nat
  sec : Sec
  ses : Ses
  srv : Srv
  comp : Comp
  pool : Pool
  media : Media
  eng : Eng
  sel : Sel
  tok : Tok
  grm : Grm
  idx : Idx
  ckpt : Ckpt

/-- The work of a device. -/
def Dev.work (d : Dev) : DevWork := ⟨d.now, d.daymark, d.sec, d.ses, d.srv, d.comp, d.pool, d.media, d.eng, d.sel, d.tok, d.grm, d.idx, d.ckpt⟩

section KeepsWork
variable (d : Dev)

theorem Dev.shaperDebit_work (k size : Nat) : (d.shaperDebit k size).work = d.work := by
  unfold Dev.shaperDebit
  dsimp only
  split
  · split
    · split <;> rfl
    · rfl
  · rfl

theorem Dev.portDebit_work (u : Queue) (n : Nat) : (d.portDebit u n).work = d.work := by
  unfold Dev.portDebit
  split
  · exact foldl_keeps (fun e : Dev => e.work = d.work) (fun e f h => (e.shaperDebit_work _ f).trans h) _ rfl
  · rfl

theorem Dev.queFire_work (q : Nat) : (d.queFire q).work = d.work := by
  unfold Dev.queFire
  split <;> rfl

theorem Dev.queEvent_work (q : Nat) : (d.queEvent q).work = d.work := by
  unfold Dev.queEvent
  split
  · split
    · rfl
    · dsimp only
      split
      · exact Dev.queFire_work _ q
      · rfl
  · rfl

theorem Dev.writeCompletion_work (q : Nat) (c : Completion) (irq : Bool) : (d.writeCompletion q c irq).work = d.work := by
  unfold Dev.writeCompletion
  split
  · dsimp only
    split
    · exact (Dev.queEvent_work _ q).trans (Dev.portDebit_work _ _ 32)
    · exact Dev.portDebit_work _ _ 32
  · rfl

theorem Dev.postEnt_work (e : Ent) (status result : Nat) : (d.postEnt e status result).work = d.work := by
  unfold Dev.postEnt
  split
  · unfold Dev.postCompletion
    split
    · rfl
    · split
      · dsimp only
        split
        · split <;> rfl
        · split
          · rfl
          · exact Dev.writeCompletion_work _ _ _ _
      · rfl
  · split <;> rfl
  · rfl

theorem Dev.finishDeletes_work (fuel q : Nat) : (Dev.finishDeletes fuel q d).work = d.work := by
  induction fuel generalizing q d with
  | zero => rfl
  | succ fuel ih =>
    unfold Dev.finishDeletes
    split
    · split
      · split
        · dsimp only
          split
          · split
            · exact Dev.postEnt_work d _ _ _
            · exact (ih _ _).trans (Dev.postEnt_work d _ _ _)
          · exact Dev.postEnt_work d _ _ _
        · rfl
      · rfl
    · rfl

theorem Dev.complete_work (e : Ent) (status result : Nat) : (d.complete e status result).work = d.work := by
  unfold Dev.complete
  split
  · exact (Dev.finishDeletes_work _ _ _).trans (Dev.postEnt_work d e status result)
  · exact Dev.postEnt_work d e status result

theorem Dev.completeOpt_work (e : Option Ent) (status result : Nat) : (d.completeOpt e status result).work = d.work := by
  cases e with
  | none => rfl
  | some e => exact d.complete_work e status result

@[simp] theorem Dev.complete_tok (e : Ent) (status result : Nat) : (d.complete e status result).tok = d.tok :=
  congrArg DevWork.tok (d.complete_work e status result)

@[simp] theorem Dev.completeOpt_tok (e : Option Ent) (status result : Nat) : (d.completeOpt e status result).tok = d.tok :=
  congrArg DevWork.tok (d.completeOpt_work e status result)

@[simp] theorem Dev.complete_pool (e : Ent) (status result : Nat) : (d.complete e status result).pool = d.pool :=
  congrArg DevWork.pool (d.complete_work e status result)

@[simp] theorem Dev.completeOpt_pool (e : Option Ent) (status result : Nat) : (d.completeOpt e status result).pool = d.pool :=
  congrArg DevWork.pool (d.completeOpt_work e status result)

@[simp] theorem Dev.complete_idx (e : Ent) (status result : Nat) : (d.complete e status result).idx = d.idx :=
  congrArg DevWork.idx (d.complete_work e status result)

@[simp] theorem Dev.completeOpt_idx (e : Option Ent) (status result : Nat) : (d.completeOpt e status result).idx = d.idx :=
  congrArg DevWork.idx (d.completeOpt_work e status result)

@[simp] theorem Dev.complete_ckpt (e : Ent) (status result : Nat) : (d.complete e status result).ckpt = d.ckpt :=
  congrArg DevWork.ckpt (d.complete_work e status result)

@[simp] theorem Dev.completeOpt_ckpt (e : Option Ent) (status result : Nat) : (d.completeOpt e status result).ckpt = d.ckpt :=
  congrArg DevWork.ckpt (d.completeOpt_work e status result)

end KeepsWork

@[simp] theorem Dev.advance_now (t : Nat) (d : Dev) : (d.advance t).now = max d.now t := rfl

/-! ### The load and unload commands (R260 to R263) -/

section TokCommand
variable {d' d : Dev} {e : Ent} {h : EntryHdr} {limit id t : Nat} {f : Ent → Dev → Dev} (hf : (d'.advance t).fetch 0 64 h = some (e, d))
include hf

/-- R260: the owner, the role, the slot number. -/
theorem Dev.tokCommand_refused {st : Nat} (hst : st = (if d.fromOwner e = false then ST.TOK_DENIED else if d.isHead = false then ST.TOK_NOTHEAD
    else if limit ≤ id then ST.TOK_SLOT else ST.OK)) (hne : st ≠ ST.OK) : d'.tokCommand h limit id t f = d.complete e st 0 := by
  subst hst
  unfold Dev.tokCommand
  by_cases ho : d.fromOwner e = true
  · rw [Dev.ownerAdmin_of_fetch hf ho]
    by_cases hh : d.isHead = true
    · by_cases hl : limit ≤ id
      · simp [ho, hh, hl]
      · simp [ho, hh, hl] at hne
    · simp [ho, hh]
  · have ho : d.fromOwner e = false := by simpa using ho
    rw [Dev.ownerAdmin_denied hf ho, ho, if_pos rfl]

theorem Dev.tokCommand_runs (ho : d.fromOwner e = true) (hh : d.isHead = true) (hid : id < limit) : d'.tokCommand h limit id t f = f e d := by
  rw [Dev.tokCommand, Dev.ownerAdmin_of_fetch hf ho, if_neg (by rw [hh]; decide), if_neg (by omega)]

end TokCommand

section Commands
variable {s : State} {h : EntryHdr} {id sectors kind src len t : Nat} {host : List Byte} {sig : SigVerdict} (hs : s.dev.serving = true)
include hs

theorem exec_tokLoad {g : Bool} {limit : Nat} {c : Instr} (hc : g = false ∧ limit = 16 ∧ c = .vocabLoad h id sectors kind src len host sig t ∨
    g = true ∧ limit = 64 ∧ c = .grammarLoad h id sectors kind src len host sig t) :
    exec c s = .next (s.after (s.dev.tokCommand h limit id t
      (fun e => Dev.tokLoad g e id sectors len (tokSource sectors kind src len host s.mem) sig))) := by
  rcases hc with ⟨rfl, rfl, rfl⟩ | ⟨rfl, rfl, rfl⟩
  · change execVocabLoad h id sectors kind src len host sig t s = _
    rw [execVocabLoad, onServingMem_after hs, State.afterBoth_mem]
  · change execGrammarLoad h id sectors kind src len host sig t s = _
    rw [execGrammarLoad, onServingMem_after hs, State.afterBoth_mem]

theorem exec_vocabUnload_serving : exec (.vocabUnload h id t) s = .next (s.after (s.dev.tokCommand h 16 id t (fun e d =>
    ((Tab.look id d.tok.vocabs).map (fun v =>
      if v.phase != .resident then d.complete e ST.TOK_FREE 0
      else if d.vocabInUse id v.img then d.complete e ST.TOK_INUSE 0
      else d.putSlot id v.sectors v.bytes (.vocab v.img) .unloading (some e))).getD (d.complete e ST.TOK_FREE 0)))) := by
  change execVocabUnload h id t s = _
  rw [execVocabUnload, onServing_after hs]
  congr 4
  funext e d
  cases Tab.look id d.tok.vocabs <;> rfl

theorem exec_grammarUnload_serving : exec (.grammarUnload h id t) s = .next (s.after (s.dev.tokCommand h 64 id t (fun e d =>
    ((Tab.look id d.tok.grams).map (fun g =>
      if g.phase != .resident then d.complete e ST.TOK_FREE 0
      else if d.srv.turns.any (fun x => x.2.entry.grammarOn && x.2.entry.grammarId == id) then d.complete e ST.TOK_INUSE 0
      else d.putSlot id g.sectors g.bytes (.gram g.img) .unloading (some e))).getD (d.complete e ST.TOK_FREE 0)))) := by
  change execGrammarUnload h id t s = _
  rw [execGrammarUnload, onServing_after hs]
  congr 4
  funext e d
  cases Tab.look id d.tok.grams <;> rfl

/-- R260 refuses a load or unload before anything else. -/
theorem exec_tokCommand_refused {limit st : Nat} {c : Instr} {e : Ent} {d : Dev} (hf : (s.dev.advance t).fetch 0 64 h = some (e, d))
    (hc : limit = 16 ∧ (c = .vocabLoad h id sectors kind src len host sig t ∨ c = .vocabUnload h id t) ∨
      limit = 64 ∧ (c = .grammarLoad h id sectors kind src len host sig t ∨ c = .grammarUnload h id t))
    (hst : st = (if d.fromOwner e = false then ST.TOK_DENIED else if d.isHead = false then ST.TOK_NOTHEAD
      else if limit ≤ id then ST.TOK_SLOT else ST.OK)) (hne : st ≠ ST.OK) : exec c s = .next (s.after (d.complete e st 0)) := by
  rcases hc with ⟨rfl, rfl | rfl⟩ | ⟨rfl, rfl | rfl⟩
  · rw [exec_tokLoad hs (.inl ⟨rfl, rfl, rfl⟩), Dev.tokCommand_refused hf hst hne]
  · rw [exec_vocabUnload_serving hs, Dev.tokCommand_refused hf hst hne]
  · rw [exec_tokLoad hs (.inr ⟨rfl, rfl, rfl⟩), Dev.tokCommand_refused hf hst hne]
  · rw [exec_grammarUnload_serving hs, Dev.tokCommand_refused hf hst hne]

end Commands

/-! ### A load by the checks of R262 -/

section Load
variable {g : Bool} {e : Ent} {id sectors len : Nat} {bytes : List Byte} {sig : SigVerdict} {d : Dev}

theorem Dev.tokLoad_occupied (h : d.slotTaken g id = true) : d.tokLoad g e id sectors len bytes sig = d.complete e ST.TOK_OCCUPIED 0 := if_pos h

section Free
variable (hfree : d.slotTaken g id = false)
include hfree

theorem Dev.tokLoad_unsigned (hst : d.tokCheck len (tokImageOf g bytes sig) = ST.TOK_SIGNATURE) :
    d.tokLoad g e id sectors len bytes sig = d.sigRefused.complete e ST.TOK_SIGNATURE 0 := by
  rw [Dev.tokLoad, if_neg (by rw [hfree]; decide)]
  dsimp only
  rw [hst]
  rfl

theorem Dev.tokLoad_refused {st : Nat} (hst : d.tokCheck len (tokImageOf g bytes sig) = st) (hsig : st ≠ ST.TOK_SIGNATURE) (hne : st ≠ ST.OK) :
    d.tokLoad g e id sectors len bytes sig = d.complete e st 0 := by
  rw [Dev.tokLoad, if_neg (by rw [hfree]; decide)]
  dsimp only
  rw [hst]
  simp only [if_neg hsig, if_pos hne]

theorem Dev.tokLoad_solo (hst : d.tokCheck len (tokImageOf g bytes sig) = ST.OK) (hsolo : d.isSolo = true) :
    d.tokLoad g e id sectors len bytes sig = d.putSlot id sectors bytes (tokImageOf g bytes sig) .checked (some e) := by
  rw [Dev.tokLoad, if_neg (by rw [hfree]; decide)]
  dsimp only
  rw [hst]
  exact if_pos hsolo

theorem Dev.tokLoad_ring (hst : d.tokCheck len (tokImageOf g bytes sig) = ST.OK) (hsolo : d.isSolo = false) :
    d.tokLoad g e id sectors len bytes sig =
      (let k : Dev := d.putSlot id sectors bytes (tokImageOf g bytes sig) .loading (some e)
       (bulkFlits d.tok.xferSeq bytes).foldl (fun d f => d.emit f)
         (({ k with tok := { k.tok with xferSeq := wrap 32 (d.tok.xferSeq + 1) } } : Dev).emit
           (.bulkStart d.tok.xferSeq bytes.length (beNat (sha256Bytes bytes)) g id sectors))) := by
  rw [Dev.tokLoad, if_neg (by rw [hfree]; decide)]
  dsimp only
  rw [hst]
  exact if_neg (show ¬ d.isSolo = true by rw [hsolo]; decide)

end Free

theorem Dev.foldl_emit_out (es : List Emission) (d : Dev) : (es.foldl (fun d f => d.emit f) d).out = es.reverse ++ d.out := by
  induction es generalizing d with
  | nil => rfl
  | cons f es ih => rw [List.foldl_cons, ih, List.reverse_cons, List.append_assoc]; rfl

theorem Dev.foldl_emit_tok (es : List Emission) (d : Dev) : (es.foldl (fun d f => d.emit f) d).tok = d.tok :=
  foldl_keeps (fun k : Dev => k.tok = d.tok) (by exact fun _ _ h => h) es rfl

@[simp] theorem Dev.putSlot_out (id sectors : Nat) (bytes : List Byte) (img : TokImage) (p : SlotPhase) (ent : Option Ent) (d : Dev) :
    (d.putSlot id sectors bytes img p ent).out = d.out := by cases img <;> rfl

end Load

/-! ### The 1 ms timer (R262, R263) -/

section Timer
variable {s : State} {t id : Nat} (hs : s.dev.serving = true)
include hs

theorem exec_tokenSlotTimer_serving : exec (.tokenSlotTimer t) s =
    .next (s.after (Dev.settleSlots (fun since => decide (since + ms 1 ≤ max s.dev.now t)) (s.dev.advance t))) := by
  change execTokenSlotTimer t s = _
  rw [execTokenSlotTimer, onServing_after hs]
  rfl

theorem exec_tokenSlotTimer_vocab {v : VocabSlot} (hv : s.dev.tok.vocabs = [(id, v)]) (hg : s.dev.tok.grams = []) (hdue : v.since + 1000000 ≤ max s.dev.now t) :
    (v.phase = .checked → exec (.tokenSlotTimer t) s =
      .next (s.after (((s.dev.advance t).putSlot id v.sectors v.bytes (.vocab v.img) .resident none).completeOpt v.ent ST.OK 0))) ∧
    (v.phase = .unloading → exec (.tokenSlotTimer t) s = .next (s.after (((s.dev.advance t).delSlot false id).completeOpt v.ent ST.OK 0))) := by
  have hnow : (!decide (v.since + ms 1 ≤ max s.dev.now t)) = false := by rw [decide_eq_true (show v.since + ms 1 ≤ _ from hdue)]; rfl
  have hone (k : Dev) (hk : k.tok.grams = [])
      (he : Dev.settleVocab (fun since => decide (since + ms 1 ≤ max s.dev.now t)) (s.dev.advance t) (id, v) = k) :
      exec (.tokenSlotTimer t) s = .next (s.after k) := by
    rw [exec_tokenSlotTimer_serving hs, Dev.settleSlots, Dev.advance_tok, hv, List.foldl_cons, List.foldl_nil, he]
    simp only [hk, List.foldl_nil]
  refine ⟨fun hp => hone _ ?_ ?_, fun hp => hone _ ?_ ?_⟩
  · rw [Dev.completeOpt_tok]; exact hg
  · simp only [Dev.settleVocab, hnow, hp, Bool.false_eq_true, if_false]
  · rw [Dev.completeOpt_tok]; exact hg
  · simp only [Dev.settleVocab, hnow, hp, Bool.false_eq_true, if_false]

theorem exec_tokenSlotTimer_gram {g : GramSlot} (hv : s.dev.tok.vocabs = []) (hg : s.dev.tok.grams = [(id, g)]) (hdue : g.since + 1000000 ≤ max s.dev.now t) :
    (g.phase = .checked → exec (.tokenSlotTimer t) s =
      .next (s.after (((s.dev.advance t).putSlot id g.sectors g.bytes (.gram g.img) .resident none).completeOpt g.ent ST.OK 0))) ∧
    (g.phase = .unloading → exec (.tokenSlotTimer t) s = .next (s.after (((s.dev.advance t).delSlot true id).completeOpt g.ent ST.OK 0))) := by
  have hnow : (!decide (g.since + ms 1 ≤ max s.dev.now t)) = false := by rw [decide_eq_true (show g.since + ms 1 ≤ _ from hdue)]; rfl
  have hrun : exec (.tokenSlotTimer t) s = .next (s.after
      (Dev.settleGram (fun since => decide (since + ms 1 ≤ max s.dev.now t)) (s.dev.advance t) (id, g))) := by
    rw [exec_tokenSlotTimer_serving hs, Dev.settleSlots, Dev.advance_tok, hv, List.foldl_nil, Dev.advance_tok, hg, List.foldl_cons, List.foldl_nil]
  refine ⟨fun hp => ?_, fun hp => ?_⟩
  all_goals
    rw [hrun]
    simp only [Dev.settleGram, hnow, hp, Bool.false_eq_true, if_false]

end Timer

/-! ### The transfer to TAIL (R262, R502) -/

section Bulk
variable {s : State} {n offset : Nat} {bytes : List Byte} {sig : SigVerdict} (hs : s.dev.serving = true)
include hs

theorem exec_bulk_passed (ht : s.dev.isTail = false) : exec (.bulk n offset bytes sig) s = .next (s.after (s.dev.emit (.bulk n offset bytes))) := by
  change execBulk n offset bytes sig s = _
  rw [execBulk, onServing_after hs, if_pos (by rw [ht]; rfl)]

section Tail
variable {x : TokXfer} (ht : s.dev.isTail = true) (hx : Tab.look n s.dev.tok.xfers = some x) (ho : offset = x.data.length)
include ht hx ho

theorem exec_bulk_partial (hl : x.data.length + bytes.length < x.length) : exec (.bulk n offset bytes sig) s = .next (s.after
    { s.dev with tok := { s.dev.tok with xfers := Tab.put n { x with data := x.data ++ bytes } s.dev.tok.xfers } }) := by
  have htake : (x.data ++ bytes).take x.length = x.data ++ bytes := List.take_of_length_le (by rw [List.length_append]; omega)
  change execBulk n offset bytes sig s = _
  rw [execBulk, onServing_after hs, if_neg (by rw [ht]; decide)]
  simp only [hx, htake]
  rw [if_neg (fun h => h ho), if_pos (by rw [List.length_append]; exact hl)]

theorem exec_bulk_whole (hl : x.length ≤ x.data.length + bytes.length) {data : List Byte} (hdata : data = (x.data ++ bytes).take x.length)
    (hsha : beNat (sha256Bytes data) = x.sha) {d : Dev} (hd : d = ({ s.dev with tok := { s.dev.tok with xfers := Tab.del n s.dev.tok.xfers } } : Dev))
    {st : Nat} (hst : st = d.tokCheck x.length (tokImageOf x.isGram data sig)) : exec (.bulk n offset bytes sig) s = .next (s.after
      (let k := if st = ST.TOK_SIGNATURE then d.sigRefused else d
       (if st = ST.OK then k.putSlot x.id x.sectors data (tokImageOf x.isGram data sig) .checked none else k).emit (.tokReport x.isGram x.id st))) := by
  have hlen : ¬ data.length < x.length := by rw [hdata, List.length_take, List.length_append]; omega
  change execBulk n offset bytes sig s = _
  rw [execBulk, onServing_after hs, if_neg (by rw [ht]; decide)]
  simp only [hx, ← hdata, ← hd]
  rw [if_neg (fun h => h ho), if_neg hlen, if_neg (fun h => h hsha), ← hst]

end Tail
end Bulk

theorem exec_tokenImageCheckReport_vocab {s : State} {id t : Nat} {v : VocabSlot} (hs : s.dev.serving = true) (hv : Tab.look id s.dev.tok.vocabs = some v)
    (hp : v.phase = .loading) (status : Nat) : exec (.tokenImageCheckReport false id status t) s = .next (s.after
      (if status = ST.OK then (s.dev.advance t).putSlot id v.sectors v.bytes (.vocab v.img) .checked v.ent
       else ((s.dev.advance t).delSlot false id).completeOpt v.ent status 0)) := by
  change execTokenImageCheckReport false id status t s = _
  rw [execTokenImageCheckReport, onServing_after hs, if_neg (by decide)]
  simp only [Dev.advance_tok, hv]
  rw [hp, if_neg (by decide)]

theorem exec_tokenImageCheckReport_gram {s : State} {id t : Nat} {g : GramSlot} (hs : s.dev.serving = true) (hg : Tab.look id s.dev.tok.grams = some g)
    (hp : g.phase = .loading) (status : Nat) : exec (.tokenImageCheckReport true id status t) s = .next (s.after
      (if status = ST.OK then (s.dev.advance t).putSlot id g.sectors g.bytes (.gram g.img) .checked g.ent
       else ((s.dev.advance t).delSlot true id).completeOpt g.ent status 0)) := by
  change execTokenImageCheckReport true id status t s = _
  rw [execTokenImageCheckReport, onServing_after hs, if_pos rfl]
  simp only [Dev.advance_tok, hg]
  rw [hp, if_neg (by decide)]

/-! ### The tokenizer (R272, R282) -/

theorem exec_tokenizeEntry_next {s : State} {t sid : Nat} {u : Turn} {m : Moor} {p : TextPiece} {ps : List TextPiece} {v : VocabImage}
    (hs : s.dev.serving = true) (hn : (s.dev.advance t).nextText = some sid) (hu : s.dev.turnOf sid = some u) (hm : s.dev.moor sid = some m)
    (ht : u.texts = p :: ps) (hv : s.dev.vocab u.entry.vocab = some v) :
    exec (.tokenizeEntry t) s = .next (s.after ((s.dev.advance t).takeText sid u p v m)) := by
  have hu' : (s.dev.advance t).turnOf sid = some u := hu
  have hm' : (s.dev.advance t).moor sid = some m := hm
  have hv' : (s.dev.advance t).vocab u.entry.vocab = some v := hv
  change execTokenizeEntry t s = _
  rw [execTokenizeEntry, onServing_after hs]
  simp only [hn, hu', hm', hv', ht, List.head?_cons]

/-- Settles O31: the loads and unloads by R260, R262 and R263, the timer, the transfer to TAIL and its report, a turn's settings and its text. -/
theorem tokenImagesComplete : Obligations.TokenImagesComplete := by
  unfold Obligations.TokenImagesComplete
  refine ⟨?refused, ⟨?load, ?unload, ?timer⟩, ?start, ?bulk, ?report, ?cfg, ?text⟩
  case refused =>
    exact fun s h id sectors kind src len t host sig e d st limit c hs hf hc hst hne => exec_tokCommand_refused hs hf hc hst hne
  case load =>
    rintro s h id sectors kind src len t host bytes sig e d hs hf ho hh rfl
    refine ⟨fun hid hocc => ?_, fun hid hocc => ?_, fun g limit st c hc hid hfree hst => ?_⟩
    · rw [exec_tokLoad hs (.inl ⟨rfl, rfl, rfl⟩), Dev.tokCommand_runs hf ho hh hid, Dev.tokLoad_occupied (show d.slotTaken false id = true from hocc)]
    · rw [exec_tokLoad hs (.inr ⟨rfl, rfl, rfl⟩), Dev.tokCommand_runs hf ho hh hid, Dev.tokLoad_occupied (show d.slotTaken true id = true from hocc)]
    rw [exec_tokLoad hs hc, Dev.tokCommand_runs hf ho hh hid]
    refine ⟨fun h => ?_, fun hsig hne => ?_, fun hok hsolo => ?_, fun hok hsolo => ?_⟩
    · rw [h, Dev.tokLoad_unsigned hfree (hst.symm.trans h)]
    · rw [Dev.tokLoad_refused hfree hst.symm hsig hne]
    · rw [Dev.tokLoad_solo hfree (hst.symm.trans hok) hsolo]
    · refine ⟨_, rfl, ?_, ?_⟩
      · rw [Dev.tokLoad_ring hfree (hst.symm.trans hok) hsolo, Dev.foldl_emit_out]
        exact congrArg (fun l => _ ++ _ :: l) (Dev.putSlot_out ..)
      · rw [Dev.tokLoad_ring hfree (hst.symm.trans hok) hsolo, Dev.foldl_emit_tok, Dev.emit_tok]
  case unload =>
    refine fun s h id t e d hs hf ho hh => ⟨fun hid => ?_, fun hid => ?_⟩
    · rw [exec_vocabUnload_serving hs, Dev.tokCommand_runs hf ho hh hid]
      refine ⟨fun hv => ?_, fun v hv => ?_⟩
      · rw [hv, Option.map_none, Option.getD_none]
      · rw [hv, Option.map_some, Option.getD_some]
        refine ⟨fun hp => ?_, fun hp hu => ?_, fun hp hu => ?_⟩
        · rw [if_pos (by simpa using hp)]
        · rw [hp, hu, if_neg (by decide), if_pos rfl]
        · rw [hp, hu, if_neg (by decide), if_neg (by decide)]
    · rw [exec_grammarUnload_serving hs, Dev.tokCommand_runs hf ho hh hid]
      refine ⟨fun hg => ?_, fun g hg => ?_⟩
      · rw [hg, Option.map_none, Option.getD_none]
      · rw [hg, Option.map_some, Option.getD_some]
        refine ⟨fun hp => ?_, fun hp hu => ?_, fun hp hu => ?_⟩
        · rw [if_pos (by simpa using hp)]
        · rw [hp, hu, if_neg (by decide), if_pos rfl]
        · rw [hp, hu, if_neg (by decide), if_neg (by decide)]
  case timer =>
    exact fun s t id hs => ⟨fun v hv hg hdue => exec_tokenSlotTimer_vocab hs hv hg hdue, fun g hv hg hdue => exec_tokenSlotTimer_gram hs hv hg hdue⟩
  case start =>
    refine fun s n length sha id sectors g hs => ⟨fun ht hsolo => ?_, fun ht => ?_⟩
    · change execBulkStart n length sha g id sectors s = _
      rw [execBulkStart, onServing_after hs, if_pos (by rw [ht, hsolo]; rfl)]
    · change execBulkStart n length sha g id sectors s = _
      rw [execBulkStart, onServing_after hs, if_neg (by rw [ht, Bool.false_and]; decide)]
  case bulk =>
    refine fun s n offset bytes sig hs => ⟨exec_bulk_passed hs, fun x ht hx ho => ⟨exec_bulk_partial hs ht hx ho, fun d data st hl hdata hd hsha hst => ?_⟩⟩
    rw [exec_bulk_whole hs ht hx ho hl hdata hsha hd hst]
    refine ⟨fun hok => ?_, fun hne => ?_⟩
    · rw [hok]
      rfl
    · simp only [if_neg hne]
  case report =>
    refine fun s id status t hs => ⟨fun v hv hp => ?_, fun g hg hp => ?_⟩
    · rw [exec_tokenImageCheckReport_vocab hs hv hp]
      exact ⟨fun h => by rw [if_pos h], fun h => by rw [if_neg h]⟩
    · rw [exec_tokenImageCheckReport_gram hs hg hp]
      exact ⟨fun h => by rw [if_pos h], fun h => by rw [if_neg h]⟩
  case cfg =>
    refine fun s c hs => ⟨fun ht => ?_, fun ht => ?_⟩
    · change execTurnCfg c s = _
      rw [execTurnCfg, onServing_after hs, if_pos ht]
    · change execTurnCfg c s = _
      rw [execTurnCfg, onServing_after hs, if_neg (by rw [ht]; decide)]
  case text =>
    exact fun s t sid u m p ps v hs hn hu hm ht hv => exec_tokenizeEntry_next hs hn hu hm ht hv

end Sys2Proof.Machine
end

section
/-! PROOFS. Mask jobs, the selection unit and the merge of partial results (R239 to R249, R295 to R298). -/
namespace Sys2Proof.Machine

@[simp] theorem State.after_grm (s : State) (d : Dev) : (s.after d).dev.grm = d.grm := sendFrames_grm s.dev d

/-! ### Mask jobs -/

section Masks
variable {s : State} {t : Nat} (hs : s.dev.serving = true)
include hs

theorem exec_maskJobStart_takes {sector batch : Nat} {st : Step} (ht : (s.dev.advance t).isTail = true)
    (hj : (s.dev.advance t).jobStep sector batch = some st) : exec (.maskJobStart sector batch t) s = .next (s.after
      (let d : Dev := s.dev.advance t
       { d with grm := { d.grm with jobs := Tab.put sector (Tab.getD sector [] d.grm.jobs ++
           [⟨batch, st.number, max 1 (d.get (Reg.GRM_POOL.slots sector)), d.jobRows st⟩]) d.grm.jobs } })) := by
  change execMaskJobStart sector batch t s = _
  rw [execMaskJobStart, onServing_after hs, if_neg (by rw [ht]; decide)]
  simp only [hj]

theorem exec_grmSliceEnd_served {n : Nat} (hn : (s.dev.advance t).served = some n) : exec (.grmSliceEnd t) s = .next (s.after
    (let d : Dev := s.dev.advance t
     if d.maskWaits n then d else { d with grm := { d.grm with turn := (n + 1) % 16 } })) := by
  change execGrmSliceEnd t s = _
  rw [execGrmSliceEnd, onServing_after hs]
  simp only [hn]

end Masks

theorem Dev.countMask_grm (x : Nat × Nat × Bool) (d : Dev) : (d.countMask x).grm = d.grm := by
  unfold Dev.countMask
  dsimp only
  split <;> split <;> rfl

/-- MASK_READY of the row that the engine builds: the whole mask in its area, its address in the pool's row table, and its row ready. -/
theorem exec_maskReady_built {s : State} {sector row t a : Nat} {j : MaskJob} {r : MaskRow} {c : TailTurn} {d : Dev} (hs : s.dev.serving = true)
    (hd : d = s.dev.advance t) (hv : d.served = some sector) (hn : d.nextMask sector = some (j, r)) (ha : r.area.or (d.nextArea sector j.slots) = some a)
    (hc : d.tailTurn r.sid = some c) (hrow : r.row = row) : ∃ k : Dev, exec (.maskReady sector row t) s = .next (s.afterBoth
      ((let mem := Mem.writes (fbAddr sector (d.areaAddr sector j.slots a)) (bitsToBytes 32768 (d.nodeMask r.sid c r.path))
          (Mem.zero (fbAddr sector (d.areaAddr sector j.slots a)) 32768 s.mem)
        if d.stepTab sector j.step / 2 ^ 62 = 1 then
          Mem.writes (fbAddr sector (d.stepTab sector j.step + 16 * row + 8)) (leBytes 8 (d.areaAddr sector j.slots a)) mem
        else mem), k)) ∧
      k.grm.jobs = Tab.put sector ((Tab.getD sector [] d.grm.jobs).map (fun k =>
        if k.step = j.step then { k with rows := k.rows.map (fun q => if q.row = row then { q with area := some a, ready := true } else q) } else k)) d.grm.jobs := by
  subst hd
  change ∃ k : Dev, execMaskReady sector row t s = _ ∧ _
  rw [execMaskReady, onServingMem_after hs, if_neg (fun h => h hv)]
  simp only [hn, ha, hc]
  rw [if_neg (fun h => h hrow)]
  exact ⟨_, rfl, by rw [Dev.countMask_grm]⟩

/-! ### The selection unit -/

section Unit
variable {s : State} {core img t rows : Nat} {ties : List (List Nat)} {e : CoreEntry} {x : EngCtx} {run : SelRun} {j : SelJob} {d : Dev}
  (hs : s.dev.serving = true) (hd : d = s.dev.advance t) (he : d.coreEntry core img = some e) (hin : d.inStep core = true)
  (hrun : run = Tab.getD (selKey core img) ⟨0, 0, none⟩ d.sel.runs) (hgo : run.done < (d.imgRun core img).selGos) (hx : x = d.engCtx core img)
  (hj : j = x.selJob e run.done s.mem) (hrows : rows = (if j.rows = 0 then (d.coreRun core).rows else j.rows))
include hs hd he hin hrun hgo hx hj hrows

theorem exec_selJobDone_bad (hbad : j.bad rows = true ∨ 64 ≤ run.done) : exec (.selJobDone core img ties t) s = .next (s.afterBoth (s.mem,
    ((((d.flag Reg.SEL_ERR.bad_job).coreUpd core (fun r => { r with stepFailed := true })).report
      ⟨conditionId x.sector ST.SEL_BADJOB, 1, 2, core⟩).selPut (selKey core img) ⟨run.done + 1, 0, none⟩).imgUpd core img
        (fun r => { r with step := ListRun.bump 60 false r.step }))) := by
  have hgo' : ¬ ((!d.inStep core || decide ((d.imgRun core img).selGos ≤ run.done)) = true) := by simp [hin, hgo]
  have hbad' : (j.bad rows || decide (64 ≤ run.done)) = true := by simpa using hbad
  subst hd
  change execSelJobDone core img ties t s = _
  rw [execSelJobDone, onServingMem_after hs]
  simp only [he, ← hrun, ← hx, ← hj, ← hrows]
  rw [if_neg hgo', if_pos hbad']

/-- A job that is not bad runs from the row it has come to: to its end, or to a row that waits on its mask. -/
theorem exec_selJobDone_runs (hok : j.bad rows = false) (h64 : run.done < 64) {r : List Host.Cell × Dev × Option Nat}
    (hr : r = selRows x j (d.coreRun core).rowTab (d.coreRun core).stepNo ties ((List.range rows).drop run.row) (s.mem, d)) :
    exec (.selJobDone core img ties t) s = .next (s.afterBoth
      ((r.2.2.map (fun w => (r.1, (r.2.1.countWait (movedPast run.waiting w)).selPut (selKey core img)
          ⟨run.done, w, (stillWaits run.waiting w).or (some (w, r.2.1.now))⟩))).getD
        (r.1, ((r.2.1.countWait run.waiting).selPut (selKey core img) ⟨run.done + 1, 0, none⟩).imgUpd core img
          (fun r => { r with step := ListRun.bump 60 false r.step })))) := by
  have hgo' : ¬ ((!d.inStep core || decide ((d.imgRun core img).selGos ≤ run.done)) = true) := by simp [hin, hgo]
  have hok' : ¬ ((j.bad rows || decide (64 ≤ run.done)) = true) := by simp [hok, h64]
  subst hd
  change execSelJobDone core img ties t s = _
  rw [execSelJobDone, onServingMem_after hs]
  simp only [he, ← hrun, ← hx, ← hj, ← hrows]
  rw [if_neg hgo', if_neg hok']
  subst hr
  generalize selRows x j _ _ ties _ _ = q
  cases q.2.2 <;> rfl

end Unit

theorem stillWaits_or (v : Option (Nat × Nat)) (w now : Nat) : (stillWaits v w).or (some (w, now)) =
    some (w, v.elim now (fun u => if u.1 = w then u.2 else now)) := by
  cases v with
  | none => rfl
  | some u => by_cases h : u.1 = w <;> simp [stillWaits, Option.filter, h]; exact Prod.ext h rfl

theorem movedPast_eq (v : Option (Nat × Nat)) (w : Nat) : movedPast v w =
    v.elim none (fun u => if u.1 = w then none else some u) := by
  cases v with
  | none => rfl
  | some u => by_cases h : u.1 = w <;> simp [movedPast, Option.filter, h]

/-! ### The merge -/

section Merge
variable {s : State} {slot row n key step : Nat} {ties : List Nat} {heads : List (List Nat)} {ps : List SelRes} {d k : Dev} (hs : s.dev.serving = true)
  (hn : n = s.dev.com (Reg.SEL_MRG.sector slot)) (hm : s.dev.mergeReady slot row = some (key, ps))
  (hstep : step = (ps.headD (SelRes.blank 0 0 0 0 0)).step)
  (hd : d = { s.dev with sel := { s.dev.sel with parts := Tab.del key s.dev.sel.parts } })
include hs hn hm hstep hd

theorem exec_selMerge_overlap (hover : ps.any (fun a => ps.any (fun b => partlyOverlap a b)) = true) {r : StepRow} {base : Nat}
    (hr : (d.flag Reg.SEL_ERR.overlap).stepRowAt n step row = some (r, base)) :
    exec (.selMerge slot row ties heads) s = .next (s.after ((d.flag Reg.SEL_ERR.overlap).failRow n step r.sid ST.SEL_OVERLAP)) := by
  change execSelMerge slot row ties heads s = _
  rw [execSelMerge, onServing_after hs]
  simp only [hm, ← hn, ← hstep, ← hd]
  rw [if_pos hover]
  simp only [hr]

/-- Sources that lie apart are merged; the row is verified once its sampled rows are all merged. -/
theorem exec_selMerge_apart (hover : ps.any (fun a => ps.any (fun b => partlyOverlap a b)) = false)
    (hk : k = Dev.freeArea n step row { d with sel := { d.sel with merged := Tab.put (rowKey n step row) (mergeRow ties ps) d.sel.merged } }) :
    exec (.selMerge slot row ties heads) s = .next (s.after (((k.stepRowAt n step row).map (fun q =>
      if (sampledRows q.1 q.2).any (fun p => p.1 == row) && (sampledRows q.1 q.2).all (fun p => (k.mergedRow n step p.1).isSome)
      then k.verifyRow n step q.1 q.2 heads else k)).getD k)) := by
  change execSelMerge slot row ties heads s = _
  rw [execSelMerge, onServing_after hs]
  subst hd
  dsimp only at hk
  simp only [hm, ← hn, ← hstep]
  rw [if_neg (by rw [hover]; decide)]
  simp only [← hk]
  cases k.stepRowAt n step row <;> rfl

end Merge

/-- Settles O32: mask jobs and their rotation, the selection unit's jobs, and the merge with its verification. -/
theorem masksAndSelectionComplete : Obligations.MasksAndSelectionComplete := by
  unfold Obligations.MasksAndSelectionComplete
  refine ⟨⟨?start, ?slice, ?ready⟩, ?unit, ?merge⟩
  case start =>
    rintro s sector batch t st _ hs rfl ht hj
    exact exec_maskJobStart_takes hs ht hj
  case slice =>
    rintro s t n _ hs rfl hn
    refine ⟨fun hw => ?_, fun hw => ?_⟩
    · rw [exec_grmSliceEnd_served hs hn, if_neg (by rw [hw]; decide)]
    · rw [exec_grmSliceEnd_served hs hn, if_pos hw]
  case ready =>
    intro s sector row t a j r c d hs hd hv hn ha hc hrow
    obtain ⟨k, hrun, hjobs⟩ := exec_maskReady_built hs hd hv hn ha hc hrow
    refine ⟨_, hrun, rfl, ?_⟩
    change Tab.look sector (s.after k).dev.grm.jobs = _
    rw [State.after_grm, hjobs, Tab.look_put_same]
  case unit =>
    intro s core img t rows ties e x run j d hs hd he hin hrun hgo hx hj hrows
    refine ⟨exec_selJobDone_bad hs hd he hin hrun hgo hx hj hrows, fun r hok h64 hr => ?_⟩
    rw [exec_selJobDone_runs hs hd he hin hrun hgo hx hj hrows hok h64 hr]
    refine ⟨fun hnone => ?_, fun w since past hw hsince hpast => ?_⟩
    · rw [hnone, Option.map_none, Option.getD_none]
    · rw [hw, Option.map_some, Option.getD_some, stillWaits_or, movedPast_eq, hsince, hpast]
      cases run.waiting <;> rfl
  case merge =>
    intro s slot row n key step ties heads ps d k hs hn hm hstep hd hk
    refine ⟨fun hover r base hr => exec_selMerge_overlap hs hn hm hstep hd hover hr, fun hover => ?_⟩
    rw [exec_selMerge_apart hs hn hm hstep hd hover hk]
    refine ⟨fun hr => ?_, fun r base hr hany => ?_⟩
    · rw [hr, Option.map_none, Option.getD_none]
    · rw [hr, Option.map_some, Option.getD_some, hany, Bool.true_and]
      exact ⟨fun hall => by rw [if_pos hall], fun hall => by rw [if_neg (by rw [hall]; decide)]⟩

end Sys2Proof.Machine
end

section
/-! PROOFS. Ownership, queues and the events of a PCIe port (R473, R484 to R499, R511, R517). -/
namespace Sys2Proof.Machine

@[simp] theorem State.after_own (s : State) (d : Dev) : (s.after d).dev.own = d.own := sendFrames_own s.dev d

@[simp] theorem State.after_que (s : State) (d : Dev) : (s.after d).dev.que = d.que := sendFrames_que s.dev d

@[simp] theorem State.after_mctp (s : State) (d : Dev) : (s.after d).dev.mctp = d.mctp := sendFrames_mctp s.dev d

theorem Dev.answers_of_serving {d : Dev} (h : d.serving = true) : d.answers = true := by
  obtain ⟨hin, haw⟩ := (Bool.and_eq_true _ _).mp h
  rw [Dev.answers, haw, hin]
  rfl

/-! ### Reports leave every register that counts no report -/

/-- The fields that a report to the Foghorn may change. -/
def reportFields : List Fld :=
  [Reg.DBG_TRACE_LOST.count, Reg.FOG_STATUS.pending, Reg.FOG_STATUS.root_lost, Reg.FOG_IRQ.count, Reg.FOG_ROOTS.count, Reg.FOG_LOST.count,
   Reg.GLB_IRQ.root_fault, Reg.GLB_IRQ.error_entry]

section Unreported
variable {g : Fld} (h : ∀ f ∈ reportFields, f.key ≠ g.key)
include h

theorem Dev.get_trace_of_unreported (e : Bool) (b : Nat) (n : Option Nat) (r : TraceRec) (d : Dev) : (d.trace e b n r).get g = d.get g := by
  have hb (x : Dev) : (x.bump Reg.DBG_TRACE_LOST.count 1).get g = x.get g := Dev.get_bump_other (h _ (by decide)) 1 x
  unfold Dev.trace
  cases n <;> cases e <;> dsimp only <;> (repeat' split)
  all_goals first | rfl | exact hb _

theorem Dev.get_fogFire_of_unreported (r e : Bool) (d : Dev) : (d.fogFire r e).get g = d.get g := by
  have hgap (x : Dev) (y : FogGap) : ({ x with gap := y } : Dev).get g = x.get g := rfl
  unfold Dev.fogFire
  rw [hgap, Dev.get_put_other (h Reg.FOG_STATUS.pending (by decide)), Dev.get_bump_other (h Reg.FOG_IRQ.count (by decide))]
  cases r <;> cases e <;>
    simp [Dev.get_flag_other (h Reg.GLB_IRQ.root_fault (by decide)), Dev.get_flag_other (h Reg.GLB_IRQ.error_entry (by decide))]

theorem Dev.get_fogEvent_of_unreported (r e : Bool) (d : Dev) : (d.fogEvent r e).get g = d.get g := by
  unfold Dev.fogEvent
  split
  · split
    · exact Dev.get_flag_other (h Reg.FOG_STATUS.pending (by decide)) d
    · exact Dev.get_fogFire_of_unreported h r e d
  · exact Dev.get_fogFire_of_unreported h r e d

theorem Dev.get_newRoot_of_unreported (d : Dev) : d.newRoot.get g = d.get g := by
  rw [Dev.newRoot, Dev.get_fogEvent_of_unreported h, Dev.get_bump_other (h Reg.FOG_ROOTS.count (by decide))]

/-- A report leaves every field but those of `reportFields`. -/
theorem Dev.get_report_of_unreported (r : FogReport) (d : Dev) : (d.report r).get g = d.get g := by
  have hfog (x : Dev) (y : Tab FogEntry) : ({ x with fog := y } : Dev).get g = x.get g := rfl
  have hlost (x : Dev) : (x.bump Reg.FOG_LOST.count 1).get g = x.get g := Dev.get_bump_other (h _ (by decide)) 1 x
  unfold Dev.report
  refine Eq.trans ?_ (Dev.get_trace_of_unreported h false 2 none ⟨0x20, 16, [r.severity * 4 + r.cls, r.reporter, r.id, wrap 32 d.daymark]⟩ d)
  dsimp only
  split
  · exact get_ite ((Dev.get_newRoot_of_unreported h _).trans (hfog _ _)) (hfog _ _)
  · refine get_ite (hlost _) ?_
    split
    · rw [Dev.get_newRoot_of_unreported h, Dev.get_flag_other (h Reg.FOG_STATUS.root_lost (by decide)), hlost]
    · exact get_ite ((Dev.get_newRoot_of_unreported h _).trans (hfog _ _))
        (get_ite ((Dev.get_fogEvent_of_unreported h _ _ _).trans (hfog _ _)) (hfog _ _))

end Unreported

theorem Dev.report_own (r : FogReport) (d : Dev) : (d.report r).own = d.own := (Dev.reported_report r d).own

/-! ### A change of owner -/

/-- What a master that becomes owner finds (R383, R490, R545). -/
theorem Dev.becomeOwner_fields {m : Nat} (hm : m < 4) (d : Dev) :
    (d.becomeOwner m).owner = m ∧ (d.becomeOwner m).get Reg.OWN_STATE.state = 1 ∧ (d.becomeOwner m).get Reg.LENS_SAMP_CFG.enable = 0 ∧
      (d.becomeOwner m).get Reg.CNT_REC_CFG.enable = 0 ∧ (d.becomeOwner m).own.hbAt = d.now := by
  have hreport (f : Fld) (hf : ∀ x ∈ reportFields, x.key ≠ f.key) (h1 : Reg.GLB_IRQ.owner_change.key ≠ f.key) (h2 : Reg.OWN_STATE.changes.key ≠ f.key) :
      (d.becomeOwner m).get f = ((((d.endHandover.ownUpd (fun o => { o with claims := [], windowEnd := none, barred := 0, hbAt := d.endHandover.now })).put
        Reg.OWN_STATE.owner m).put Reg.OWN_STATE.state 1).put Reg.LENS_SAMP_CFG.enable 0 |>.put Reg.CNT_REC_CFG.enable 0).get f := by
    rw [Dev.becomeOwner, Dev.reportHub, Dev.get_report_of_unreported hf, Dev.get_flag_other h1, Dev.get_pfIrqBoth, Dev.get_bump_other h2]
    rfl
  refine ⟨?_, ?_, ?_, ?_, ?_⟩
  · rw [Dev.owner, hreport _ (by decide) (by decide) (by decide), Dev.get_put_other (by decide), Dev.get_put_other (by decide), Dev.get_put_other (by decide),
      Dev.get_put_same]
    exact Nat.mod_eq_of_lt (Nat.lt_of_lt_of_le hm (by decide))
  · rw [hreport _ (by decide) (by decide) (by decide), Dev.get_put_other (by decide), Dev.get_put_other (by decide), Dev.get_put_same]
    rfl
  · rw [hreport _ (by decide) (by decide) (by decide), Dev.get_put_other (by decide), Dev.get_put_same]
    rfl
  · rw [hreport _ (by decide) (by decide) (by decide), Dev.get_put_same]
    rfl
  · rw [Dev.becomeOwner, Dev.reportHub, Dev.report_own]
    rfl

theorem Dev.claimDone_unowned {m : Nat} {d : Dev} (hm : d.ownOrder.contains m = true) (hst : d.get Reg.OWN_STATE.state = 3) : d.claimDone m = d.becomeOwner m := by
  have hst : d.ownSt = 3 := hst
  rw [Dev.claimDone, if_neg (by rw [hm]; decide), if_neg (by rw [hst]; decide), if_pos hst]

theorem Dev.lapse_owned {d : Dev} (h : d.get Reg.OWN_STATE.state = 1) : d.lapse = d.endHandover.openWindow 2 d.owner := if_pos h

/-! ### The claim sequence -/

theorem Dev.claimWrite_complement {m t0 : Nat} {d : Dev} (h0 : Tab.look m d.own.half = some t0) (ht : d.now ≤ t0 + 1000000) :
    d.claimWrite m 0xB0A8B1AD = (d.ownUpd (fun o => { o with half := Tab.del m o.half })).claimDone m := by
  unfold Dev.claimWrite
  rw [if_neg (by decide), h0]
  exact if_pos ⟨rfl, ht⟩

theorem Dev.claimWrite_other {m v : Nat} {d : Dev} (hv : v ≠ 0x4F574E52)
    (h : v ≠ 0xB0A8B1AD ∨ Tab.look m d.own.half = none ∨ ∃ t0, Tab.look m d.own.half = some t0 ∧ t0 + 1000000 < d.now) :
    d.claimWrite m v = d.ownUpd (fun o => { o with half := Tab.del m o.half }) := by
  unfold Dev.claimWrite
  rw [if_neg hv]
  cases h0 : Tab.look m d.own.half with
  | none => rfl
  | some t0 =>
    refine if_neg ?_
    rintro ⟨rfl, hle⟩
    rcases h with h | h | ⟨t1, h, hlt⟩
    · exact h rfl
    · rw [h0] at h
      cases h
    · rw [h0, Option.some.injEq] at h
      subst h
      exact absurd (show d.now ≤ t0 + 1000000 from hle) (by omega)

section Claims
variable {s : State} {m : Master} {t : Nat} (ha : s.dev.answers = true)
include ha

theorem exec_ownClaim_answers (v : Nat) : exec (.ownClaim m v t) s = .next (s.after ((s.dev.advance t).claimWrite m.code v)) := by
  change execOwnClaim m v t s = _
  rw [execOwnClaim, onAwake_of_answers ha]

theorem exec_ownClaim_complement {t0 : Nat} (h0 : Tab.look m.code s.dev.own.half = some t0) (ht : (s.dev.advance t).now ≤ t0 + 1000000) :
    exec (.ownClaim m 0xB0A8B1AD t) s = .next (s.after (((s.dev.advance t).ownUpd (fun o => { o with half := Tab.del m.code o.half })).claimDone m.code)) := by
  rw [exec_ownClaim_answers ha]
  exact congrArg (fun x => Host.Outcome.next (s.after x)) (Dev.claimWrite_complement (d := s.dev.advance t) h0 ht)

/-- Anything but the claim value and, within 1 ms of it, its complement leaves no claim (R485). -/
theorem exec_ownClaim_other {v : Nat} (hv : v ≠ 0x4F574E52)
    (h : v ≠ 0xB0A8B1AD ∨ Tab.look m.code s.dev.own.half = none ∨ ∃ t0, Tab.look m.code s.dev.own.half = some t0 ∧ t0 + 1000000 < max s.dev.now t) :
    exec (.ownClaim m v t) s = .next (s.after ((s.dev.advance t).ownUpd (fun o => { o with half := Tab.del m.code o.half }))) := by
  rw [exec_ownClaim_answers ha]
  exact congrArg (fun x => Host.Outcome.next (s.after x)) (Dev.claimWrite_other (d := s.dev.advance t) hv h)

end Claims

/-- The window's end by the claimant of the highest priority (R486, R488). -/
theorem Dev.closeWindow_over {d : Dev} {w : Nat} (hw : d.own.windowEnd = some w) (hle : w ≤ d.now) : d.closeWindow =
    ((d.ownOrder.find? (fun m => d.own.claims.contains m && d.ownCandidate m)).map (fun m => d.becomeOwner m)).getD
      ((d.put Reg.OWN_STATE.state 3).ownUpd (fun o => { o with claims := [], windowEnd := none, barred := 0 })) := by
  unfold Dev.closeWindow
  simp only [hw]
  rw [if_pos hle]
  cases d.ownOrder.find? (fun m => d.own.claims.contains m && d.ownCandidate m) <;> rfl

theorem masterCode_lt (m : Master) : m.code < 4 := by cases m <;> decide

/-- Settles O33: the claim sequence, the window, the heartbeat and the handover, and what becoming owner brings. -/
theorem claimsComplete : Obligations.ClaimsComplete := by
  unfold Obligations.ClaimsComplete
  refine ⟨?_, fun s t ha => ⟨fun m t0 h0 ht hst hm => ?_, fun m v hv h => exec_ownClaim_other ha hv h⟩⟩
  · rintro s t _ ha rfl
    refine ⟨fun m => ?_, fun m t0 h0 ht => exec_ownClaim_complement ha h0 ht, fun w m hw hle hm => ?_, fun w hw hle hm => ?_, fun m ho => ?_, fun hst hle => ?_,
      fun m target ho hlt hc hne => ?_, fun e he hle => ?_⟩
    · rw [exec_ownClaim_answers ha, Dev.claimWrite, if_pos rfl]
      rfl
    · change execClaimWindowEnd t s = _
      rw [execClaimWindowEnd, onAwake_of_answers ha]
      rw [Dev.closeWindow_over hw hle, hm, Option.map_some, Option.getD_some]
    · change execClaimWindowEnd t s = _
      rw [execClaimWindowEnd, onAwake_of_answers ha]
      rw [Dev.closeWindow_over hw hle, hm, Option.map_none, Option.getD_none]
    · change execOwnHeartbeat m t s = _
      rw [execOwnHeartbeat, onAwake_of_answers ha]
      rw [Dev.ownerWrite_owner ho]
      rfl
    · have hlapse : (s.dev.advance t).ownSt = 1 ∧ (s.dev.advance t).own.hbAt + ms ((s.dev.advance t).orZero Reg.OWN_CFG.hb_ms 65536) ≤ (s.dev.advance t).now := ⟨hst, hle⟩
      change execHeartbeatLapse t s = _
      rw [execHeartbeatLapse, onAwake_of_answers ha]
      rw [if_pos hlapse, Dev.lapse_owned hst]
    · change execOwnHandover m target t s = _
      rw [execOwnHandover, onAwake_of_answers ha]
      rw [Dev.ownerWrite_owner ho, Nat.mod_eq_of_lt hlt, Dev.startHandover, if_pos (by rw [hc]; simpa using hne)]
      rfl
    · change execHandoverTimeout t s = _
      rw [execHandoverTimeout, onAwake_of_answers ha]
      simp only [he, if_pos hle]
  · have hrun := exec_ownClaim_complement ha h0 ht
    have hm' : ((s.dev.advance t).ownUpd (fun o => { o with half := Tab.del m.code o.half })).ownOrder.contains m.code = true := hm
    rw [Dev.claimDone_unowned hm' hst] at hrun
    obtain ⟨h1, h2, h3, h4, h5⟩ := Dev.becomeOwner_fields (masterCode_lt m) ((s.dev.advance t).ownUpd (fun o => { o with half := Tab.del m.code o.half }))
    refine ⟨_, hrun, ?_, ?_, ?_, ?_, ?_⟩
    · rw [Dev.owner, State.after_get]; exact h1
    · rw [State.after_get]; exact h2
    · rw [State.after_get]; exact h3
    · rw [State.after_get]; exact h4
    · rw [State.after_own]; exact h5

/-- Settles O34: each of these writes goes through the owner's gate of R487. -/
theorem otherMastersIgnored : Obligations.OtherMastersIgnored := by
  unfold Obligations.OtherMastersIgnored
  intro s m t hs ho
  have ha := Dev.answers_of_serving hs
  have hone (f : Dev → Dev) : onServing (fun d => d.ownerWrite m.code f) s = .next (s.after (s.dev.bump Reg.OWN_DENIED.count 1)) := by
    rw [onServing_after hs, Dev.ownerWrite_other ho]
  have hawake (f : Dev → Dev) : onAwake (fun d => (d.advance t).ownerWrite m.code f) s = .next (s.after ((s.dev.advance t).bump Reg.OWN_DENIED.count 1)) := by
    rw [onAwake_of_answers ha, Dev.ownerWrite_other (d := s.dev.advance t) ho]
  refine ⟨hawake _, fun _ => hawake _, fun env => ?_, fun _ => hone _, fun _ => hone _, hone _, fun _ _ => hone _⟩
  change execPwrCtrlReset m env s = _
  rw [execPwrCtrlReset, if_neg (by simp [ho]), onAwake_of_answers ha, Dev.ownerWrite_other ho]

/-! ### Queues -/

section Doorbells
variable {s : State} {q : Nat} {u : Queue} (hs : s.dev.serving = true)
include hs

theorem exec_queSqTail_may {m : Master} {fn : Fn} {tail : Nat} (ht : tail < 2 ^ 16) (hm : s.dev.mayRing m fn q = true) :
    exec (.queSqTail m fn q tail) s = .next (s.after (s.dev.setTail q tail)) := by
  change execQueSqTail m fn q tail s = _
  rw [execQueSqTail, onServing_after hs, Dev.ring, if_pos hm, Nat.mod_eq_of_lt ht]

theorem exec_queCqHead_may {m : Master} {fn : Fn} {head : Nat} (hh : head < 2 ^ 32) (hm : s.dev.mayRing m fn q = true) :
    exec (.queCqHead m fn q head) s = .next (s.after (s.dev.setHead q head)) := by
  change execQueCqHead m fn q head s = _
  rw [execQueCqHead, onServing_after hs, Dev.ring, if_pos hm, Nat.mod_eq_of_lt hh]

end Doorbells

section Queue
variable {d : Dev} {q : Nat} {u : Queue} (hu : Tab.look q d.que = some u)
include hu

theorem Dev.setTail_bell {tail : Nat} (hb : tail < 2 ^ u.ringLog2) (hst : u.st = .running) (hne : tail ≠ u.sqHead) :
    d.setTail q tail = (d.put (Reg.QUE_SQ_TAIL.tail q) tail).bell q tail := by
  unfold Dev.setTail
  simp only [hu]
  rw [if_neg (Nat.not_le.mpr hb), if_pos (by rw [hst]; simpa using hne)]

theorem Dev.setTail_bad {tail : Nat} (hb : 2 ^ u.ringLog2 ≤ tail) : d.setTail q tail = d.flag (Reg.QUE_ERR.bad_doorbell q) := by
  unfold Dev.setTail
  simp only [hu]
  rw [if_pos hb]

theorem Dev.setHead_eq (head : Nat) : d.setHead q head = (if u.kind = 2 then d.put (Reg.QUE_CQ_HEAD.head q) head
    else (Dev.releaseCompletions q u.held.length (d.put (Reg.QUE_CQ_HEAD.head q) head)).finishDelete q) := by
  unfold Dev.setHead
  simp only [hu]

end Queue

section QueueCommands
variable {s : State} {h : EntryHdr} {e : Ent} {d : Dev} (hs : s.dev.serving = true) (hf : s.dev.fetch 0 64 h = some (e, d)) (ho : d.fromOwner e = true)
include hs hf ho

theorem exec_queueCreate_owner (q : QueueSpec) : exec (.queueCreate h q) s = .next (s.after
    (if d.queueOk q then (d.createQueue q).complete e ST.OK ((d.createQueue q).createResult q.queue) else d.complete e ST.HOST_QUEUE 0)) := by
  change execQueueCreate h q s = _
  rw [execQueueCreate, onServing_after hs, Dev.ownerAdmin_of_fetch hf ho]

/-- QUEUE_DELETE of a queue that may be deleted and is not being deleted already (R497). -/
theorem exec_queueDelete_owner {q : Nat} {u : Queue} (hu : Tab.look q d.que = some u) (hq : 2 ≤ q) (hd : u.deleter = none) :
    exec (.queueDelete h q) s = .next (s.after
      (if u.kind = 2 ∧ d.egressNamed q then d.complete e ST.HOST_QBUSY 0 else d.startDelete e q u)) := by
  change execQueueDelete h q s = _
  rw [execQueueDelete, onServing_after hs, Dev.ownerAdmin_of_fetch hf ho]
  simp only [hu]
  rw [if_neg (by rw [hd]; simp; omega)]

theorem exec_peerSet_owner (i : Nat) (p : PeerEntry) : exec (.peerSet h i p) s = .next (s.after
    (if decide (256 ≤ i) || !peerOk p then d.complete e ST.HOST_PEER 0
     else if d.ckptUses i then ({ d with peersNext := Tab.put i p d.peersNext } : Dev).complete e ST.OK 0
     else ({ d with peers := Tab.put i p d.peers } : Dev).complete e ST.OK 0)) := by
  change execPeerSet h i p s = _
  rw [execPeerSet, onServing_after hs, Dev.ownerAdmin_of_fetch hf ho]

end QueueCommands

/-- Settles O35: the queue commands by issuer and check, the doorbells by who may ring, and the timer and the acknowledgement of a queue. -/
theorem queuesComplete : Obligations.QueuesComplete := by
  unfold Obligations.QueuesComplete
  refine ⟨fun s h e d hs hf => ⟨fun op => ?_, fun ho => ⟨fun q hq => ?_, fun q hq => ?_, fun q u hu hq hd hk => ?_, fun q u hu hq hd hk hn => ?_,
    fun i p hi hp hc => ?_, fun i p hip => ?_⟩, fun ho => ⟨fun q => ?_, fun q => ?_, fun i p => ?_⟩⟩, fun s q u hs hu => ?_⟩
  · change execAdminUnknownOpcode h op s = _
    rw [execAdminUnknownOpcode, onServing_after hs, Dev.admin_fetched hf]
  · rw [exec_queueCreate_owner hs hf ho, if_pos hq]
  · rw [exec_queueCreate_owner hs hf ho, if_neg (by rw [hq]; decide)]
  · rw [exec_queueDelete_owner hs hf ho hu hq hd, if_neg (fun h => by rw [hk h.1] at h; exact absurd h.2 (by decide))]
  · rw [exec_queueDelete_owner hs hf ho hu hq hd, if_pos ⟨hk, hn⟩]
  · rw [exec_peerSet_owner hs hf ho, if_neg (by rw [hp]; simpa using hi), if_neg (by rw [hc]; decide)]
  · rw [exec_peerSet_owner hs hf ho, if_pos (by simpa using hip)]
  · change execQueueCreate h q s = _
    rw [execQueueCreate, onServing_after hs, Dev.ownerAdmin_denied hf ho]
  · change execQueueDelete h q s = _
    rw [execQueueDelete, onServing_after hs, Dev.ownerAdmin_denied hf ho]
  · change execPeerSet h i p s = _
    rw [execPeerSet, onServing_after hs, Dev.ownerAdmin_denied hf ho]
  · refine ⟨fun m fn tail ht hm hb hst hne => ?_, fun m fn tail ht hm hb => ?_, fun m tail hm => ?_, fun m fn head hh hm => ⟨fun hk => ?_, fun hk => ?_⟩,
      fun tail head ht hh hl => ?_, fun t hp hdue => ?_, fun c rest hc => ?_⟩
    · rw [exec_queSqTail_may hs ht hm, Dev.setTail_bell hu hb hst hne]
    · rw [exec_queSqTail_may hs ht hm, Dev.setTail_bad hu hb]
    · change execQueSqTail m .pf q tail s = _
      rw [execQueSqTail, onServing_after hs, Dev.ring, if_neg (by rw [hm]; decide), if_pos (by decide)]
    · rw [exec_queCqHead_may hs hh hm, Dev.setHead_eq hu, if_pos hk]
    · rw [exec_queCqHead_may hs hh hm, Dev.setHead_eq hu, if_neg hk]
    · change execRdmaDoorbell q tail head s = _
      rw [execRdmaDoorbell, onServing_after hs]
      simp only [hu]
      rw [if_pos hl, Nat.mod_eq_of_lt ht, Nat.mod_eq_of_lt hh]
    · have hc : 0 < u.irqPending ∧ u.irqFirst + us ((s.dev.advance t).get (Reg.QUE_IRQ.delay_us q)) ≤ (s.dev.advance t).now := ⟨hp, hdue⟩
      change execIrqCoalesceTimer q t s = _
      rw [execIrqCoalesceTimer, onServing_after hs]
      simp only [Dev.advance_que, hu]
      rw [if_pos hc]
    · change execRdmaWriteAck q s = _
      rw [execRdmaWriteAck, onServing_after hs]
      simp only [hu, hc]

/-! ### The events of a port -/

/-- Settles O36: the function-level resets, the loss and return of the link, and PERST, each on its port. -/
theorem portEventsComplete : Obligations.PortEventsComplete := by
  unfold Obligations.PortEventsComplete
  refine fun s port t hport => ⟨fun vf hvf hs => ?_, fun ha => ⟨?_, ?_, ?_, fun speed width flit => ?_⟩⟩
  · change execVfFlr port vf s = _
    rw [execVfFlr, onServing_after hs, if_neg (by omega)]
  · change execPfFlr port t s = _
    rw [execPfFlr, onAwake_of_answers ha, if_neg (by omega)]
  · change execSurpriseLinkDown port t s = _
    rw [execSurpriseLinkDown, onAwake_of_answers ha, if_neg (by omega)]
  · change execPerst port t s = _
    rw [execPerst, onAwake_of_answers ha, if_neg (by omega)]
  · change ∃ u, execPcieLinkReturn port speed width flit s = .next u ∧ _
    rw [execPcieLinkReturn, onAwake_of_answers ha, if_neg (by omega)]
    refine ⟨_, rfl, ?_, ?_, ?_, ?_, State.after_que ..⟩
    all_goals
      rw [State.after_get]
      interval_cases port
    · rw [Dev.get_put_other (by decide), Dev.get_put_other (by decide), Dev.get_put_other (by decide), Dev.get_put_same]; rfl
    · rw [Dev.get_put_other (by decide), Dev.get_put_other (by decide), Dev.get_put_other (by decide), Dev.get_put_same]; rfl
    · rw [Dev.get_put_other (by decide), Dev.get_put_other (by decide), Dev.get_put_same]
    · rw [Dev.get_put_other (by decide), Dev.get_put_other (by decide), Dev.get_put_same]
    · rw [Dev.get_put_other (by decide), Dev.get_put_same]
    · rw [Dev.get_put_other (by decide), Dev.get_put_same]
    · rw [Dev.get_put_same]
      cases flit <;> rfl
    · rw [Dev.get_put_same]
      cases flit <;> rfl

end Sys2Proof.Machine
end

section
/-! PROOFS. The baseboard link's messages, the freeze, and the TAP's instructions (R475, R485, R488, R500, R556 to R558). -/
namespace Sys2Proof.Machine

/-! ### The baseboard link -/

section Mctp
variable {s : State} (hs : s.dev.serving = true) (hup : s.dev.mctp.up = true)
include hs hup

theorem onMctp_up (f : Dev → Dev) : onMctp f s = .next (s.after (f s.dev)) := by rw [onMctp, onServing_after hs, if_pos hup]

theorem exec_mctpAdmin_up (h : EntryHdr) : exec (.mctpAdmin h) s = .next (s.after
    (if 4 ≤ s.dev.mctp.outstanding.length then s.dev.emit (.mctpBusy h.cid)
     else { s.dev with mctp := { s.dev.mctp with arrived := s.dev.mctp.arrived ++ [h], outstanding := s.dev.mctp.outstanding ++ [h] } })) := by
  change execMctpAdmin h s = _
  rw [execMctpAdmin, onMctp_up hs hup]

theorem exec_regread_up (off w late : Nat) : exec (.regread off w late) s = .next (s.after
    (if !s.dev.takes .bmc .pf off w then s.dev.emit (.mctpReg mctpInvalidData 0)
     else if !s.dev.visible .bmc .pf off then s.dev.emit (.mctpReg mctpOk 0)
     else ((s.dev.stir off).emit (.mctpReg mctpOk ((s.dev.stir off).regValue 3 off))).afterRead off late)) := by
  change execRegread off w late s = _
  rw [execRegread, onMctp_up hs hup]

theorem exec_regwrite_up (off w v late : Nat) : exec (.regwrite off w v late) s =
    (if !s.dev.takes .bmc .pf off w then .next { s with dev := s.dev.emit (.mctpReg mctpInvalidData 0) }
     else regWrite .bmc .pf off (wrap (8 * w) v) late { s with dev := s.dev.emit (.mctpReg mctpOk 0) }) := by
  change execRegwrite off w v late s = _
  rw [execRegwrite, if_neg (by rw [hs, hup]; decide)]

theorem exec_pldmRequest_up (k : Nat) : exec (.pldmRequest k) s = .next (s.after
    (if 1 ≤ k ∧ k ≤ 3 then s.dev.drawn.emit (.mctpPldm k 0 s.dev.fresh) else s.dev.emit (.mctpPldm k 0x80 0))) := by
  change execPldmRequest k s = _
  rw [execPldmRequest, onMctp_up hs hup]

end Mctp

/-- A visible write that neither resets the device nor reads its memory is one of the register alone (R6). -/
theorem regWrite_visible {m : Master} {fn : Fn} {o v : Nat} {s : State} (hv : s.dev.visible m fn o = true)
    (hr : ¬ (o = 0x00020004 ∧ fieldBits Reg.PWR_CTRL.reset v = 1 ∧ s.dev.owner = m.code))
    (hg : ¬ (o = 0x0F000018 ∧ fieldBits Reg.DBG_MEM_CTRL.go v = 1 ∧ s.dev.owner = m.code)) (late : Nat) :
    regWrite m fn o v late s = .next (s.after (s.dev.writeReg m fn o v late)) := by
  rw [regWrite, if_neg (by rw [hv]; decide), if_neg hr]
  simp only [if_neg hg]
  rfl

/-- A claim window as it opens (R486, R488). -/
theorem Dev.openWindow_fields {st : Nat} (hst : st < 4) (barred : Nat) (d : Dev) :
    (d.openWindow st barred).owner = 0 ∧ (d.openWindow st barred).get Reg.OWN_STATE.state = st ∧
      (d.openWindow st barred).own = { d.own with claims := [], windowEnd := some (d.now + ms 2000), barred := barred } := by
  have hget (f : Fld) : (d.openWindow st barred).get f = ((d.put Reg.OWN_STATE.state st).put Reg.OWN_STATE.owner 0).get f := rfl
  refine ⟨?_, ?_, rfl⟩
  · rw [Dev.owner, hget, Dev.get_put_same]
    rfl
  · rw [hget, Dev.get_put_other (by decide), Dev.get_put_same]
    exact Nat.mod_eq_of_lt (Nat.lt_of_lt_of_le hst (by decide))

/-- The loss of the baseboard link while it is the owner is a lapse (R488). -/
theorem exec_mctpLinkLoss_owner {s : State} (hs : s.dev.serving = true) (ho : s.dev.owner = 3) (hst : s.dev.get Reg.OWN_STATE.state = 1) (t : Nat) :
    exec (.mctpLinkLoss t) s = .next (s.after (({ s.dev.advance t with mctp := { s.dev.mctp with up := false } } : Dev).endHandover.openWindow 2 3)) := by
  have hlapse (d : Dev) (h : d.owner = 3) (h1 : d.get Reg.OWN_STATE.state = 1) :
      (if d.owner = 3 then d.lapse else d) = d.endHandover.openWindow 2 3 := by rw [if_pos h, Dev.lapse_owned h1, h]
  change execMctpLinkLoss t s = _
  rw [execMctpLinkLoss, onServing_after hs]
  exact congrArg (fun x => Host.Outcome.next (s.after x)) (hlapse _ ho hst)

/-! ### The TAP -/

theorem onTap_live {s : State} (h : s.dev.tapLive = true) (f : Dev → Dev) : onTap f s = .next (s.after (f s.dev)) := by
  change Host.Outcome.next (s.after (if s.dev.tapLive then f s.dev else s.dev)) = _
  rw [if_pos h]

theorem leNat_reads_succ (n a : Nat) (m : List Host.Cell) :
    leNat (Mem.reads a (n + 1) m) = leNat (Mem.reads a n m) + (Mem.read (a + n) m).toNat * 2 ^ (8 * n) := by
  induction n generalizing a with
  | zero => simp [Mem.reads, leNat]
  | succ n ih =>
    have hstep : leNat (Mem.reads a (n + 1 + 1) m) = (Mem.read a m).toNat + 256 * leNat (Mem.reads (a + 1) (n + 1) m) := rfl
    have hfirst : leNat (Mem.reads a (n + 1) m) = (Mem.read a m).toNat + 256 * leNat (Mem.reads (a + 1) n m) := rfl
    rw [hstep, hfirst, ih, show a + 1 + n = a + (n + 1) by omega, show 8 * (n + 1) = 8 * n + 8 by omega, Nat.pow_add]
    ring

theorem leNat_reads (n a : Nat) (m : List Host.Cell) :
    leNat (Mem.reads a n m) = (List.range n).foldl (fun v i => v + (Mem.read (a + i) m).toNat * 2 ^ (8 * i)) 0 := by
  induction n with
  | zero => rfl
  | succ n ih => rw [leNat_reads_succ, ih, List.range_succ, List.foldl_append, List.foldl_cons, List.foldl_nil]

/-- Space 1 of the read-out is the cores' SRAM (R558). -/
theorem Dev.frzByte_core {core off i : Nat} (hcore : core < 32) (hoff : off + i < 2 ^ 24) (mem : List Host.Cell) (d : Dev) :
    d.frzByte (2 ^ 60 + core * 2 ^ 32 + off + i) mem = (Mem.read (coreAddr core off + i) mem).toNat := by
  have hspace : (2 ^ 60 + core * 2 ^ 32 + off + i) / 2 ^ 60 = 1 := by omega
  have hsel : (2 ^ 60 + core * 2 ^ 32 + off + i) / 2 ^ 32 % 32 = core := by omega
  have hpos : (2 ^ 60 + core * 2 ^ 32 + off + i) % 2 ^ 24 = off + i := by omega
  rw [Dev.frzByte, if_pos hspace, hsel, hpos, coreAddr, coreAddr, Nat.add_assoc]

section Capture
variable {d : Dev} {a : Nat} {mem : List Host.Cell} {ok : Bool}

theorem Dev.frzCapture_registers (hf : d.boot.frozen = true) (ha : a < 2 ^ 60) (h : d.debugLevel = 2 ∨ frzOpen (a % 2 ^ 28) = true) :
    d.frzCapture a ok mem = (d.regBytes (a % 2 ^ 28), false, false) := by
  rw [Dev.frzCapture, if_neg (by rw [hf]; decide), if_pos ⟨by omega, h⟩]

theorem Dev.frzCapture_denied (h : d.boot.frozen = false ∨ d.debugLevel < 2 ∧ (2 ^ 60 ≤ a ∨ frzOpen (a % 2 ^ 28) = false)) :
    d.frzCapture a ok mem = (0, true, false) := by
  rw [Dev.frzCapture]
  rcases h with hf | ⟨hl, hshut⟩
  · rw [if_pos (by rw [hf]; rfl)]
  · refine ite_eq_left_iff.mpr fun _ => ?_
    rw [if_neg, if_pos hl]
    rintro ⟨h0, h2 | hopen⟩
    · omega
    · rcases hshut with h | h
      · omega
      · rw [h] at hopen
        exact absurd hopen (by decide)

theorem Dev.frzCapture_space (hf : d.boot.frozen = true) (hl : d.debugLevel = 2) (ha : 2 ^ 60 ≤ a) : d.frzCapture a ok mem =
    (if d.frzFailed a ok then (0, false, true)
     else ((List.range 8).foldl (fun v i => v + wrap 8 (d.frzByte (a + i) mem) * 2 ^ (8 * i)) 0, false, false)) := by
  rw [Dev.frzCapture, if_neg (by rw [hf]; decide), if_neg (by rintro ⟨h, -⟩; omega), if_neg (by omega)]

theorem Dev.frzCapture_core {core off : Nat} (hf : d.boot.frozen = true) (hl : d.debugLevel = 2) (hcore : core < 32) (hoff : off + 8 ≤ 2 ^ 24) :
    d.frzCapture (2 ^ 60 + core * 2 ^ 32 + off) ok mem = (leNat (Mem.reads (coreAddr core off) 8 mem), false, false) := by
  have hspace : (2 ^ 60 + core * 2 ^ 32 + off) / 2 ^ 60 = 1 := by omega
  rw [Dev.frzCapture_space hf hl (by omega), if_neg (by rw [Dev.frzFailed, hspace]; simp), leNat_reads]
  refine congrArg (fun x => (x, false, false)) (List.foldl_ext _ _ _ fun v i hi => ?_)
  have hi : i < 8 := List.mem_range.mp hi
  rw [Dev.frzByte_core hcore (by omega), wrap_of_lt (BitVec.isLt _)]

end Capture

/-- FRZ_DATA by what its capture answers (R558). -/
theorem exec_frzData_captured {s : State} {load : Option Nat} {ok : Bool} {a : Nat} (ha : a = wrap 64 (load.getD s.dev.tap.frzAddr))
    {r : Nat × Bool × Bool} (hr : s.dev.frzCapture a ok s.mem = r) : exec (.frzData load ok) s = .next (s.after (Dev.emit (.tap 0x21 r.1)
      { s.dev with tap := { s.dev.tap with frzAddr := wrap 64 (a + 8), denied := s.dev.tap.denied || r.2.1, error := s.dev.tap.error || r.2.2 } })) := by
  subst ha hr
  rfl

/-- Settles O37: the messages of the baseboard link, and the TAP by what its captures may show. -/
theorem sideAccessComplete : Obligations.SideAccessComplete := by
  unfold Obligations.SideAccessComplete
  refine ⟨fun s t hs => ⟨fun hup => ⟨fun hst hm => ?claim, fun ho => ?beat, fun h hn => ?_, fun h hn => ?_, fun off w late ht => ⟨?_, fun v => ?_⟩,
      fun off w late ht hv => ⟨?_, fun v => ?_⟩, fun off w late ht hv => ⟨?_, fun v hr hg => ?write⟩, fun k h1 h3 => ?_, fun k hk => ?_, fun c x => ?control⟩,
    ?loss⟩,
    fun s => ⟨fun ns hns => ?freeze, fun cells => rfl, fun hl => ⟨?_, fun tok ok => ?_⟩, fun load a ok ha => ⟨?regs, ?denied, ?space⟩, ?core⟩⟩
  case claim =>
    change execMctpClaim t s = _
    rw [execMctpClaim, onServing_after hs]
    refine (congrArg (fun x => Host.Outcome.next (s.after x)) (if_pos hup)).trans ?_
    rw [Dev.claimDone_unowned (d := s.dev.advance t) hm hst]
  case beat =>
    have hc : ((s.dev.advance t).mctp.up && (s.dev.advance t).owner == 3) = true := by
      rw [Dev.advance_mctp, hup, show (s.dev.advance t).owner = 3 from ho]
      rfl
    change execMctpHeartbeat t s = _
    rw [execMctpHeartbeat, onServing_after hs]
    exact congrArg (fun x => Host.Outcome.next (s.after x)) (if_pos hc)
  · rw [exec_mctpAdmin_up hs hup, if_neg (by omega)]
  · rw [exec_mctpAdmin_up hs hup, if_pos hn]
  · rw [exec_regread_up hs hup, if_pos (by rw [ht]; rfl)]
    rfl
  · rw [exec_regwrite_up hs hup, if_pos (by rw [ht]; rfl)]
    rfl
  · rw [exec_regread_up hs hup, if_neg (by rw [ht]; decide), if_pos (by rw [hv]; rfl)]
    rfl
  · rw [exec_regwrite_up hs hup, if_neg (by rw [ht]; decide)]
    exact regWrite_outside (s := { s with dev := s.dev.emit (.mctpReg mctpOk 0) }) hv _ late
  · rw [exec_regread_up hs hup, if_neg (by rw [ht]; decide), if_neg (by rw [hv]; decide)]
    rfl
  case write =>
    rw [exec_regwrite_up hs hup, if_neg (by rw [ht]; decide)]
    refine regWrite_visible (s := { s with dev := s.dev.emit (.mctpReg mctpOk 0) }) hv ?_ ?_ late
    · rintro ⟨h1, h2, h3⟩
      rcases hr with h | h | h
      · exact h h1
      · exact h h3
      · rw [h] at h2
        exact absurd h2 (by decide)
    · rintro ⟨h1, h2, h3⟩
      rcases hg with h | h | h
      · exact h h1
      · exact h h3
      · rw [h] at h2
        exact absurd h2 (by decide)
  · rw [exec_pldmRequest_up hs hup, if_pos ⟨h1, h3⟩]
  · rw [exec_pldmRequest_up hs hup, if_neg (by omega)]
  case control =>
    change execMctpControl c x s = _
    rw [execMctpControl, onServing_after hs, if_pos (by rw [hup]; rfl)]
  case loss =>
    intro ho hst
    rw [exec_mctpLinkLoss_owner hs ho hst]
    obtain ⟨hown, hstate, hwin⟩ := Dev.openWindow_fields (st := 2) (by decide) 3 ({ s.dev.advance t with mctp := { s.dev.mctp with up := false } } : Dev).endHandover
    refine ⟨_, rfl, ?_, ?_, ?_, ?_, ?_⟩
    · rw [State.after_mctp]; rfl
    · rw [Dev.owner, State.after_get]; exact hown
    · rw [State.after_get]; exact hstate
    · rw [State.after_own, hwin]
    · rw [State.after_own, hwin]; rfl
  case freeze =>
    exact congrArg (fun x => Host.Outcome.next (s.after x)) (if_pos hns)
  · exact onTap_live hl (fun d => d.newNonce.2.emit (.tap 0x10 d.newNonce.1))
  · exact onTap_live hl (fun d => (d.unlock tok ok).2)
  case regs =>
    intro hf hlt h
    rw [exec_frzData_captured ha (Dev.frzCapture_registers hf hlt h), Bool.or_false, Bool.or_false]
  case denied =>
    intro h
    rw [exec_frzData_captured ha (Dev.frzCapture_denied h), Bool.or_true, Bool.or_false]
  case space =>
    refine fun hf hl hle => ⟨fun hb => ?_, fun hb => ?_⟩
    · rw [exec_frzData_captured ha (Dev.frzCapture_space hf hl hle), if_pos hb, Bool.or_false, Bool.or_true]
    · rw [exec_frzData_captured ha (Dev.frzCapture_space hf hl hle), if_neg (by rw [hb]; decide), Bool.or_false, Bool.or_false]
  case core =>
    intro core off ok hcore hoff hf hl
    have ha : 2 ^ 60 + core * 2 ^ 32 + off = wrap 64 ((some (2 ^ 60 + core * 2 ^ 32 + off)).getD s.dev.tap.frzAddr) :=
      (wrap_of_lt (by omega)).symm
    refine ⟨_, exec_frzData_captured ha (Dev.frzCapture_core hf hl hcore hoff), ?_⟩
    rw [State.after_out]
    rfl

end Sys2Proof.Machine
end

section
/-! PROOFS. Lemdin links, Locator queries over them, and the network (R24, R69 to R71, R501 to R510, R566). -/
namespace Sys2Proof.Machine

@[simp] theorem State.after_qps (s : State) (d : Dev) : (s.after d).dev.qps = d.qps := sendFrames_qps s.dev d

theorem Dev.portUsed_lt {i : Nat} {d : Dev} (h : d.portUsed i = true) : i < 8 := of_decide_eq_true ((Bool.and_eq_true _ _).mp h).1

theorem plain_lnkPort {i : Nat} (h : i < 8) : (Reg.LNK_PORT.state i).plain ∧ (Reg.LNK_PORT.lanes i).plain := by
  interval_cases i <;> exact ⟨⟨by decide, by decide⟩, by decide, by decide⟩

/-! ### Frames -/

section Frames
variable {s : State} {f : LinkFrame} (hs : s.dev.serving = true) (hu : s.dev.portUsed f.port = true) (hst : s.dev.get (Reg.LNK_PORT.state f.port) = 3)
include hu hst

theorem Dev.portSt_event (e : CntEvent) : (s.dev.event none e).portSt f.port = 3 :=
  (Dev.get_event (plain_lnkPort (Dev.portUsed_lt hu)).1 none e s.dev).trans hst

include hs

/-- LINK_FRAME on an up port: a frame that FEC could not mend, or the frame taken with its header. -/
theorem exec_linkFrame_up (hcor : f.corrected = false ∨ f.uncorrectable = true) (hcls : f.cls < 10 ∨ f.uncorrectable = true) {d : Dev}
    (hd : d = s.dev.event none (linkEvent 1 f.cls)) : exec (.linkFrame f) s = .next (s.after
      (if f.uncorrectable then
        (if f.cls = 8 then (d.bump Reg.LNK_LOC_DROP.count 1).flag Reg.LNK_ERR.loc_drop else d.emit (.nak f.port (d.lport f.port).rxSeq))
       else if f.cls = 0 ∨ f.cls = 8 then d.lportUpd f.port (LPort.take f) else (d.lportUpd f.port (LPort.take f)).sequenced f)) := by
  have hst' : s.dev.portSt f.port = 3 := hst
  have hst'' := Dev.portSt_event hu hst (linkEvent 1 f.cls)
  change execLinkFrame f s = _
  rw [execLinkFrame, onServing_after hs, if_neg (by rw [hu, hst']; decide)]
  subst hd
  by_cases hunc : f.uncorrectable = true
  · simp only [hunc, if_true]
  · have hc : f.corrected = false := hcor.resolve_right hunc
    have hlt : f.cls < 10 := hcls.resolve_right hunc
    simp only [hunc, hc, Bool.false_eq_true, if_false]
    rw [if_neg (by omega), if_neg (fun h => h hst'')]

end Frames

/-- A sequenced frame by its place against the expected one (R504). -/
theorem Dev.sequenced_cases (f : LinkFrame) (d : Dev) :
    (f.seq = (d.lport f.port).rxSeq → d.sequenced f =
      (d.lportUpd f.port (fun p => { p with rxSeq := (f.seq + 1) % 4096 })).emit (.delivered f.port f.cls f.seq)) ∧
    (f.seq ≠ (d.lport f.port).rxSeq → (f.seq + 4096 - (d.lport f.port).rxSeq) % 4096 < 2048 → d.sequenced f = d.emit (.nak f.port (d.lport f.port).rxSeq)) ∧
    (2048 ≤ (f.seq + 4096 - (d.lport f.port).rxSeq) % 4096 → f.seq < 4096 → d.sequenced f = d) := by
  refine ⟨fun h => ?_, fun h hlt => ?_, fun hle hseq => ?_⟩
  · rw [Dev.sequenced, if_pos h, ← h]
  · rw [Dev.sequenced, if_neg h, if_pos hlt]
  · rw [Dev.sequenced, if_neg (by omega), if_neg (by omega)]

/-! ### Training and identity -/

/-- What R510 and R98 do when the ring's ports change touches no register. -/
theorem Dev.ringChanged_regs (b : Bool) (d : Dev) : (d.ringChanged b).regs = d.regs := by
  have hop (sid : Nat) (e : Dev) : (e.resumeOp sid).regs = e.regs := by
    unfold Dev.resumeOp
    split
    · split <;> rfl
    · rfl
  have hresume (e : Dev) : e.ringResume.regs = e.regs :=
    foldl_keeps (fun x : Dev => x.regs = e.regs) (fun x p h => (hop p.1 x).trans h) _ rfl
  have hflits (p : Option Nat) (xs : List (Nat × List Byte)) (e : Dev) : (e.sendFlits p xs).regs = e.regs := by
    cases p <;> rfl
  unfold Dev.ringChanged
  split
  · rfl
  · split
    · split <;> rfl
    · dsimp only
      split
      · rfl
      · exact (hresume _).trans (hflits _ _ _)

theorem Dev.get_portMoves (f : Dev → Dev) (g : Fld) (d : Dev) : (d.portMoves f).get g = (f d).get g := Dev.get_of_regs (Dev.ringChanged_regs ..)

theorem laneCount_le (mask : Nat) : laneCount mask ≤ 4 := (List.length_filter_le ..).trans (by decide)

theorem Dev.get_replayFrom {g : Fld} (h : g.plain) (hg : Reg.LNK_REPLAY.count.key ≠ g.key) (i expected : Nat) (d : Dev) :
    (d.replayFrom i expected).get g = d.get g := by
  unfold Dev.replayFrom
  dsimp only
  rw [Dev.get_emit, Dev.get_event h, Dev.get_bump_other hg]
  rfl

section Training
variable {s : State} {port : Nat} (hs : s.dev.serving = true) (hu : s.dev.portUsed port = true)

include hs hu in
theorem exec_portTrain_trained {lanes : Nat} (hst : s.dev.get (Reg.LNK_PORT.state port) = 1) : ∃ d : Dev,
    d.regs = (if lanes % 16 = 15 then s.dev.put (Reg.LNK_PORT.lanes port) (laneCount (lanes % 16))
      else (s.dev.put (Reg.LNK_PORT.lanes port) (laneCount (lanes % 16))).flag Reg.LNK_ERR.lane_lost).regs ∧
    exec (.portTrain port lanes) s = .next (s.after
      (if laneCount (lanes % 16) < 2 then (d.put (Reg.LNK_PORT.state port) 5).lportUpd port (fun p => { p with trainStart := some d.now })
       else (d.put (Reg.LNK_PORT.state port) 2).emit (.ident port (d.myIdent port)))) := by
  have hc : (s.dev.portUsed port && s.dev.portSt port == 1) = true := by rw [hu, Dev.portSt, hst]; rfl
  change ∃ d : Dev, _ ∧ execPortTrain port lanes s = _
  rw [execPortTrain, onServing_after hs, if_pos hc]
  refine ⟨_, ?_, rfl⟩
  split <;> rfl

/-- What IDENT writes before the port's state, on the registers (R505). -/
def Dev.identTaken (port : Nat) (i : Ident) (d : Dev) : Dev :=
  (((d.put (Reg.LNK_PORT.peer_chip port) i.chipId).put (Reg.LNK_PEER.group port) i.groupId).put (Reg.LNK_PEER.position port) i.position).put
    (Reg.LNK_PEER.port port) i.port

theorem Dev.identFits_taken (hport : port < 8) (i j : Ident) {d e : Dev} (h : e.regs = (d.identTaken port j).regs) : e.identFits port i = d.identFits port i := by
  have hget (f : Fld) (hf : ∀ k < 8, (Reg.LNK_PORT.peer_chip k).key ≠ f.key ∧ (Reg.LNK_PEER.group k).key ≠ f.key ∧
      (Reg.LNK_PEER.position k).key ≠ f.key ∧ (Reg.LNK_PEER.port k).key ≠ f.key) : e.get f = d.get f := by
    obtain ⟨h1, h2, h3, h4⟩ := hf port hport
    rw [Dev.get_of_regs h, Dev.identTaken, Dev.get_put_other h4, Dev.get_put_other h3, Dev.get_put_other h2, Dev.get_put_other h1]
  have huse : e.portUse port = d.portUse port := by rw [Dev.portUse, Dev.portUse, hget _ (by decide)]
  have hgroup : e.groupId = d.groupId := by rw [Dev.groupId, Dev.groupId, hget _ (by decide)]
  have hpos : e.position = d.position := by rw [Dev.position, Dev.position, hget _ (by decide)]
  have hsize : e.groupSize = d.groupSize := by rw [Dev.groupSize, Dev.groupSize, hget _ (by decide)]
  rw [Dev.identFits, Dev.identFits, huse, hgroup, hpos, hsize]

include hs hu in
/-- IDENT in the identity phase: the port is up where the peer fits, else in mismatch (R24, R505). -/
theorem exec_ident_taken {i : Ident} (hst : s.dev.get (Reg.LNK_PORT.state port) = 2) : ∃ u, exec (.ident port i) s = .next u ∧
    (s.dev.identFits port i = true → u.dev.get (Reg.LNK_PORT.state port) = 3) ∧
    (s.dev.identFits port i = false → u.dev.get (Reg.LNK_PORT.state port) = 4 ∧ u.dev.get Reg.LNK_ERR.ident_mismatch = 1) := by
  have hc : (s.dev.portUsed port && s.dev.portSt port == 2) = true := by rw [hu, Dev.portSt, hst]; rfl
  have hport := Dev.portUsed_lt hu
  have hreplay : Reg.LNK_REPLAY.count.key ≠ (Reg.LNK_PORT.state port).key := by interval_cases port <;> decide
  have hmis : Reg.LNK_ERR.ident_mismatch.key ≠ (Reg.LNK_PORT.state port).key := by interval_cases port <;> decide
  change ∃ u, execIdent port i s = .next u ∧ _
  rw [execIdent, onServing_after hs, if_pos hc]
  refine ⟨_, rfl, fun hfit => ?_, fun hfit => ?_⟩
  · rw [State.after_get, Dev.get_portMoves]
    refine (congrArg (Dev.get _) (if_pos ((Dev.identFits_taken hport i i rfl).trans hfit))).trans ?_
    have hput (d : Dev) : (d.put (Reg.LNK_PORT.state port) 3).get (Reg.LNK_PORT.state port) = 3 := (Dev.get_put_same ..).trans rfl
    exact get_ite (hput _) ((Dev.get_replayFrom (plain_lnkPort hport).1 hreplay port _ _).trans (hput _))
  · have hno (d : Dev) (h : d.identFits port i = s.dev.identFits port i) : ¬ d.identFits port i = true := by rw [h, hfit]; decide
    rw [State.after_get, State.after_get, Dev.get_portMoves, Dev.get_portMoves]
    constructor
    · refine (congrArg (Dev.get _) (if_neg (hno _ (Dev.identFits_taken hport i i rfl)))).trans ?_
      exact (Dev.get_flag_other hmis _).trans ((Dev.get_put_same ..).trans rfl)
    · refine (congrArg (Dev.get _) (if_neg (hno _ (Dev.identFits_taken hport i i rfl)))).trans ?_
      exact (Dev.get_put_same ..).trans rfl

end Training

/-! ### Locator queries -/

section Locator
variable {die sid : Nat} {d : Dev}

/-- What counting a query leaves as it was. -/
theorem Dev.locCounted_keeps {k : Dev} (hk : k = ((d.bump Reg.LNK_LOC_Q.count 1).event none ⟨4, 5, 1, none, none, none, none⟩).event none (linkEvent 3 8)) :
    d.Reported k := by
  subst hk
  exact ((Dev.reported_put ..).trans (Dev.reported_event ..)).trans (Dev.reported_event ..)

theorem Dev.get_locCounted {f : Fld} (hp : f.plain) (hf : Reg.LNK_LOC_Q.count.key ≠ f.key) :
    (((d.bump Reg.LNK_LOC_Q.count 1).event none ⟨4, 5, 1, none, none, none, none⟩).event none (linkEvent 3 8)).get f = d.get f := by
  rw [Dev.get_event hp, Dev.get_event hp, Dev.get_bump_other hf]

theorem Dev.locAnswer_hit {e : LocEntry} (h : d.locLook die sid = some e) : ∃ k : Dev, d.locAnswer die sid = (e, k) ∧
    k.get Reg.SES_LC_HIT.count = satAdd Reg.SES_LC_HIT.count.width (d.get Reg.SES_LC_HIT.count) 1 := by
  have hrep := Dev.locCounted_keeps (d := d) rfl
  unfold Dev.locAnswer
  generalize hk : ((d.bump Reg.LNK_LOC_Q.count 1).event none ⟨4, 5, 1, none, none, none, none⟩).event none (linkEvent 3 8) = k at hrep
  have hlook : k.locLook die sid = some e := by rw [← h, Dev.locLook, Dev.locLook, hrep.loc]
  have hget (f : Fld) (hp : f.plain) (hf : Reg.LNK_LOC_Q.count.key ≠ f.key) : k.get f = d.get f := by rw [← hk, Dev.get_locCounted hp hf]
  simp only [hlook]
  refine ⟨_, rfl, ?_⟩
  rw [Dev.get_bump_same]
  exact congrArg (fun x => satAdd _ x 1) (hget _ (by unfold Fld.plain; decide) (by decide))

theorem Dev.locAnswer_miss (h : d.locLook die sid = none) : ∃ k : Dev, d.locAnswer die sid = (locMiss sid, k) ∧ k.ses = d.ses := by
  have hrep := Dev.locCounted_keeps (d := d) rfl
  unfold Dev.locAnswer
  generalize hk : ((d.bump Reg.LNK_LOC_Q.count 1).event none ⟨4, 5, 1, none, none, none, none⟩).event none (linkEvent 3 8) = k at hrep
  have hlook : k.locLook die sid = none := by rw [← h, Dev.locLook, Dev.locLook, hrep.loc]
  simp only [hlook]
  exact ⟨_, rfl, hrep.ses⟩

end Locator

section Query
variable {s : State} {port : Nat} (hs : s.dev.serving = true) (hu : s.dev.portUsed port = true)
  (hst : s.dev.get (Reg.LNK_PORT.state port) = 3 ∨ s.dev.get (Reg.LNK_PORT.state port) = 4)
include hu hst

theorem Dev.portAnswers : (s.dev.portUsed port && (s.dev.portSt port == 3 || s.dev.portSt port == 4)) = true := by
  rw [hu, Dev.portSt]
  rcases hst with h | h <;> rw [h] <;> rfl

include hs

theorem exec_locQuery_dropped (x chip group : Nat) (sids : List Nat) : exec (.locQuery port x chip group sids false) s =
    .next (s.after ((s.dev.bump Reg.LNK_LOC_DROP.count 1).flag Reg.LNK_ERR.loc_drop)) := by
  change execLocQuery port x chip group sids false s = _
  rw [execLocQuery, onServing_after hs, if_neg (by rw [Dev.portAnswers hu hst]; decide), if_pos (by decide)]

/-- A query of one session is answered, and one that misses a session with a Buoy has its entry installed (R70, R506). -/
theorem exec_locQuery_one (x chip group sid : Nat) {e : LocEntry} {k : Dev} (hk : s.dev.locAnswer (port / 4) sid = (e, k)) :
    exec (.locQuery port x chip group [sid] true) s = .next (s.after
      (let d := k.emit (.locReply port x s.dev.chipId s.dev.groupId [sid] [e])
       ([e].filter (fun e => !e.valid)).foldl (fun d e => if (d.buoyAt e.sid).isSome then d.locSync e.sid else d) d)) := by
  change execLocQuery port x chip group [sid] true s = _
  rw [execLocQuery, onServing_after hs, if_neg (by rw [Dev.portAnswers hu hst]; decide), if_neg (by decide)]
  simp only [List.take, Dev.locAnswers, hk]

end Query

theorem Dev.locLook_valid {die sid : Nat} {e : LocEntry} {d : Dev} (h : d.locLook die sid = some e) : e.valid = true := by
  have := List.find?_some h
  exact ((Bool.and_eq_true _ _).mp this).2

theorem Dev.locTake_kept {e : LocEntry} {d : Dev} (hv : e.valid = true) (h : Tab.look e.sid d.locQuery = none) (chip : Nat) :
    d.locTake chip e = Dev.emit (.locKept e) { d with locQuery := Tab.put e.sid e d.locQuery } := by
  rw [Dev.locTake, if_neg (by rw [hv]; decide), h]

theorem Dev.locTake_older {e h : LocEntry} {d : Dev} (hv : e.valid = true) (hl : Tab.look e.sid d.locQuery = some h) (hg : genOlder e.gen h.gen = true)
    (chip : Nat) : d.locTake chip e = d := by
  rw [Dev.locTake, if_neg (by rw [hv]; decide), hl]
  exact if_pos hg

/-! ### The timers of a port -/

section Timers
variable {s : State} {port t : Nat} (hs : s.dev.serving = true)
include hs

theorem exec_portTrainTimeout_down {x : Nat} (hu : s.dev.portUsed port = true) (hx : (s.dev.lport port).trainStart = some x)
    (hst : s.dev.get (Reg.LNK_PORT.state port) = 1 ∨ s.dev.get (Reg.LNK_PORT.state port) = 2) (hle : x + 50000000 ≤ max s.dev.now t) :
    exec (.portTrainTimeout port t) s = .next (s.after
      (((s.dev.advance t).put (Reg.LNK_PORT.state port) 5).lportUpd port (fun p => { p with trainStart := some (max s.dev.now t) }))) := by
  have hx' : ((s.dev.advance t).lport port).trainStart = some x := hx
  have hu' : (s.dev.advance t).portUsed port = true := hu
  have hc : ((s.dev.advance t).portSt port = 1 ∨ (s.dev.advance t).portSt port = 2) ∧ x + ms 50 ≤ (s.dev.advance t).now := ⟨hst, hle⟩
  change execPortTrainTimeout port t s = _
  rw [execPortTrainTimeout, onServing_after hs]
  simp only [hx', hu', Bool.not_true, Bool.false_eq_true, if_false]
  rw [if_pos hc]
  rfl

theorem exec_linkDownTimer_due {x i : Nat} (hx : s.dev.downSince = some x) (hd : s.dev.downPorts = [])
    (hle : x + s.dev.get Reg.LNK_CFG.down_ms * 1000000 ≤ max s.dev.now t) (hi : (List.range 8).find? (fun i => s.dev.portUse i == 1) = some i) :
    exec (.linkDownTimer t) s = .next (s.after (Dev.reportUnit 8 i 2 { s.dev.advance t with downSince := none })) := by
  have hd' : (s.dev.advance t).downPorts = [] := hd
  have hi' : (List.range 8).find? (fun i => (s.dev.advance t).portUse i == 1) = some i := hi
  have hc : decide (x + ms ((s.dev.advance t).get Reg.LNK_CFG.down_ms) ≤ (s.dev.advance t).now) = true := decide_eq_true hle
  change execLinkDownTimer t s = _
  rw [execLinkDownTimer, onServing_after hs]
  simp only [Dev.advance_downSince, hx, hd', hc, List.isEmpty_nil, Bool.and_self, if_true, hi']

end Timers

/-- Settles O38: frames by their sequence, training to identity, lanes, and Locator queries and their answers. -/
theorem linksComplete : Obligations.LinksComplete := by
  unfold Obligations.LinksComplete
  refine ⟨fun s hs => ⟨fun f d hu hst hd hunc hcor => ⟨fun hc => ?_, fun hc hlt => ?_⟩, fun f hu hst hunc hc => ?_, Dev.sequenced_cases, ?nak, ?retrain⟩,
    fun s port hs hu => ⟨?train, ?lost, fun x t hx hst hle => exec_portTrainTimeout_down hs hu hx hst hle, ?fits, ?mismatch,
      fun x i t hx hd hle hi => exec_linkDownTimer_due hs hx hd hle hi, ?drop, ?add⟩, fun s hs => ⟨?query, ?dropped, ?reply⟩⟩
  · rw [exec_linkFrame_up hs hu hst (.inl hcor) (.inl (by omega)) hd, if_neg (by rw [hunc]; decide), if_pos hc]
  · rw [exec_linkFrame_up hs hu hst (.inl hcor) (.inl (by omega)) hd, if_neg (by rw [hunc]; decide), if_neg (by omega)]
  · rw [exec_linkFrame_up hs hu hst (.inr hunc) (.inr hunc) rfl, if_pos hunc, if_neg hc]
  case nak =>
    intro port expected t hu hst
    have hc : ((s.dev.advance t).portUsed port && (s.dev.advance t).portSt port == 3) = true := by
      rw [show (s.dev.advance t).portUsed port = true from hu, show (s.dev.advance t).portSt port = 3 from hst]
      rfl
    change execNak port expected t s = _
    rw [execNak, onServing_after hs]
    exact congrArg (fun x => Host.Outcome.next (s.after x)) (if_pos hc)
  case retrain =>
    intro port t hu hst hten
    have hc : ((s.dev.advance t).portUsed port && (s.dev.advance t).portSt port == 3 &&
        decide (10 ≤ (((s.dev.advance t).lport port).replayTimes.filter (fun x => decide ((s.dev.advance t).now < x + ms 1))).length)) = true := by
      rw [show (s.dev.advance t).portUsed port = true from hu, show (s.dev.advance t).portSt port = 3 from hst]
      exact decide_eq_true hten
    change execLinkRetrain port t s = _
    rw [execLinkRetrain, onServing_after hs]
    exact congrArg (fun x => Host.Outcome.next (s.after x)) (if_pos hc)
  case train =>
    intro lanes hst hcount
    have hport := Dev.portUsed_lt hu
    have hkeys : (Reg.LNK_PORT.state port).key ≠ (Reg.LNK_PORT.lanes port).key ∧ Reg.LNK_ERR.lane_lost.key ≠ (Reg.LNK_PORT.lanes port).key := by
      interval_cases port <;> decide
    obtain ⟨d, hregs, hrun⟩ := exec_portTrain_trained hs hu (lanes := lanes) hst
    rw [if_neg (by omega)] at hrun
    refine ⟨_, hrun, ?_, ?_⟩
    · rw [State.after_get, Dev.get_emit, Dev.get_put_same]
      rfl
    · have hlanes : (s.dev.put (Reg.LNK_PORT.lanes port) (laneCount (lanes % 16))).get (Reg.LNK_PORT.lanes port) = laneCount (lanes % 16) :=
        (Dev.get_put_same ..).trans (Nat.mod_eq_of_lt (Nat.lt_of_le_of_lt (laneCount_le _) (show 4 < 2 ^ 3 by decide)))
      rw [State.after_get, Dev.get_emit, Dev.get_put_other hkeys.1, Dev.get_of_regs hregs]
      exact get_ite hlanes ((Dev.get_flag_other hkeys.2 _).trans hlanes)
  case lost =>
    intro lanes hst hcount
    have hport := Dev.portUsed_lt hu
    have hkey : (Reg.LNK_PORT.state port).key ≠ Reg.LNK_ERR.lane_lost.key := by interval_cases port <;> decide
    have hpart : ¬ lanes % 16 = 15 := fun h => by rw [h] at hcount; exact absurd hcount (by decide)
    obtain ⟨d, hregs, hrun⟩ := exec_portTrain_trained hs hu (lanes := lanes) hst
    rw [if_pos hcount] at hrun
    rw [if_neg hpart] at hregs
    refine ⟨_, hrun, ?_, ?_⟩
    · rw [State.after_get]
      exact (Dev.get_put_same (Reg.LNK_PORT.state port) 5 d).trans rfl
    · rw [State.after_get]
      refine (Dev.get_put_other hkey 5 d).trans ?_
      rw [Dev.get_of_regs hregs]
      exact (Dev.get_put_same ..).trans rfl
  case fits =>
    intro i hst hfit
    obtain ⟨u, hrun, hup, -⟩ := exec_ident_taken hs hu (i := i) hst
    exact ⟨u, hrun, hup hfit⟩
  case mismatch =>
    intro i hst hfit
    obtain ⟨u, hrun, -, hmis⟩ := exec_ident_taken hs hu (i := i) hst
    exact ⟨u, hrun, hmis hfit⟩
  case drop =>
    intro lane hl
    constructor
    · change execLaneErrorThreshold port lane s = _
      rw [execLaneErrorThreshold, onServing_after hs, if_pos hl]
    · change execLaneDrop port lane s = _
      rw [execLaneDrop, onServing_after hs, if_pos hl]
  case add =>
    intro lane hl
    have hl' (t : Nat) : (s.dev.advance t).laneOut port lane = true := hl
    refine ⟨?_, fun t x hx hle => ?_, fun t => ?_⟩
    · change execLaneAdd port lane s = _
      rw [execLaneAdd, onServing_after hs, if_pos hl]
    · have hdue : Tab.getD lane (s.dev.advance t).now ((s.dev.advance t).lport port).retrain + ms 1000 ≤ (s.dev.advance t).now := by
        rw [show ((s.dev.advance t).lport port).retrain = (s.dev.lport port).retrain from rfl, Tab.getD, hx]
        exact hle
      change execLaneTrainRetry port lane true t s = _
      rw [execLaneTrainRetry, onServing_after hs]
      exact congrArg (fun x => Host.Outcome.next (s.after x)) ((if_pos (hl' t)).trans ((if_neg (by decide)).trans (if_pos hdue)))
    · change execLaneTrainRetry port lane false t s = _
      rw [execLaneTrainRetry, onServing_after hs]
      exact congrArg (fun x => Host.Outcome.next (s.after x)) ((if_pos (hl' t)).trans (if_pos (by decide)))
  case query =>
    refine fun port x chip group sid hu hst => ⟨fun e he => ?_, fun hmiss hb => ?_⟩
    · obtain ⟨k, hk, hhit⟩ := Dev.locAnswer_hit he
      have hnone : [e].filter (fun e => !e.valid) = [] := by simp [Dev.locLook_valid he]
      refine ⟨_, exec_locQuery_one hs hu hst x chip group sid hk, ?_, ?_⟩
      · rw [State.after_out, hnone]
        rfl
      · rw [State.after_get, hnone]
        exact hhit
    · obtain ⟨k, hk, hses⟩ := Dev.locAnswer_miss hmiss
      have hb' (e : Emission) : (k.emit e).buoyAt sid = none := by
        rw [← hb, Dev.buoyAt, Dev.buoyAt, Dev.emit_ses, hses]
      refine ⟨_, exec_locQuery_one hs hu hst x chip group sid hk, ?_⟩
      have hall : [locMiss sid].filter (fun e => !e.valid) = [locMiss sid] := rfl
      rw [State.after_out, hall]
      simp only [List.foldl_cons, List.foldl_nil]
      rw [show (locMiss sid).sid = sid from rfl, hb', if_neg (by decide)]
      rfl
  case dropped =>
    exact fun port x chip group sids hu hst => exec_locQuery_dropped hs hu hst x chip group sids
  case reply =>
    have hone (x chip : Nat) (e : LocEntry) : exec (.locReply x chip [e]) s = .next (s.after (s.dev.locTake chip e)) := by
      change execLocReply x chip [e] s = _
      rw [execLocReply, onServing_after hs]
      rfl
    refine fun x chip e => ⟨fun hv => ?_, fun hv hl => ?_, fun h hv hl hg => ?_⟩
    · rw [hone, Dev.locTake, if_pos (by rw [hv]; rfl)]
    · rw [hone, Dev.locTake_kept hv hl]
    · rw [hone, Dev.locTake_older hv hl hg]

/-! ### The network -/

theorem Dev.head_out_emit (e : Emission) (d : Dev) : (d.emit e).out.head? = some e := rfl

@[simp] theorem Dev.qp_qpPut (q : QpRef) (x : Qp) (d : Dev) : (d.qpPut q x).qp q = x := Tab.getD_put_same ..

theorem Dev.qp_of_qps {d e : Dev} (h : d.qps = e.qps) (q : QpRef) : d.qp q = e.qp q := by rw [Dev.qp, Dev.qp, h]

section Network
variable {s : State} {q : QpRef} {t : Nat} (hs : s.dev.serving = true) (hq : s.dev.hasQp q = true)
include hs hq

theorem exec_roceRetxTimeout_live (he : (s.dev.qp q).error = false) : exec (.roceRetxTimeout q) s = .next (s.after
    (if (s.dev.qp q).retries < 7 then
      ((((s.dev.qpPut q { s.dev.qp q with retries := (s.dev.qp q).retries + 1 }).bump Reg.NET_RETX.count 1).event none
        ⟨7, 2, 1, none, none, none, none⟩).emit (.retransmit q))
     else s.dev.qpFails q)) := by
  change execRoceRetxTimeout q s = _
  rw [execRoceRetxTimeout, onServing_after hs, if_neg (by rw [hq, he]; decide)]

/-- A CNP halves the rate where none came within 50 us before it (R508). -/
theorem exec_cnp_counted : exec (.cnp q t) s = .next (s.after
    (let d := (s.dev.advance t).bump Reg.NET_CNP.count 1
     let x := { s.dev.qp q with lastRaise := max s.dev.now t }
     if (s.dev.qp q).lastCnp.any (fun c => decide (max s.dev.now t < c + 50000)) then d.qpPut q x
     else d.qpPut q { x with rate := x.rate / 2, lastCnp := some (max s.dev.now t) })) := by
  have hq' : (s.dev.advance t).hasQp q = true := hq
  change execCnp q t s = _
  rw [execCnp, onServing_after hs]
  dsimp only
  rw [if_pos hq', show ((s.dev.advance t).bump Reg.NET_CNP.count 1).qp q = s.dev.qp q from rfl]
  cases h : (s.dev.qp q).lastCnp <;> rfl

theorem exec_cnpRateRecover_due (hle : (s.dev.qp q).lastRaise + 500000 ≤ max s.dev.now t) : exec (.cnpRateRecover q t) s = .next (s.after
    ((s.dev.advance t).qpPut q { s.dev.qp q with rate := min (2 ^ 32) ((s.dev.qp q).rate + 2 ^ 28), lastRaise := max s.dev.now t })) := by
  have hq' : (s.dev.advance t).hasQp q = true := hq
  have hqp : (s.dev.advance t).qp q = s.dev.qp q := rfl
  change execCnpRateRecover q t s = _
  rw [execCnpRateRecover, onServing_after hs]
  dsimp only
  rw [hq', hqp, Dev.advance_now, us, decide_eq_true hle, if_pos (by decide)]

end Network

theorem ptpShown_of_range {offset : Int} (h1 : -2147483648 ≤ offset) (h2 : offset ≤ 2147483647) : ptpShown offset = (offset % 4294967296).toNat := by
  rw [ptpShown, min_eq_right h2, max_eq_right h1]

@[simp] theorem State.after_daymark (s : State) (d : Dev) : (s.after d).dev.daymark = d.daymark := sendFrames_daymark s.dev d

/-- Settles O39: a port's link, a connection's retransmission and rate, and a PTP exchange by whether the receiver is enabled. -/
theorem networkComplete : Obligations.NetworkComplete := by
  unfold Obligations.NetworkComplete
  refine fun s t hs => ⟨fun port hport => ⟨?down, ?up⟩, fun q hq he => ⟨fun hr => ?again, fun hr => ?fails, ?ecn⟩,
    fun q hq => ⟨fun hc => ?halved, fun hc => ?kept, fun hle => ?raised⟩, fun offset h1 h2 => ⟨fun hen => ?shown, fun hen hstep => ?steps⟩⟩
  case down =>
    have hkey : Reg.NET_ERR.link_down.key ≠ (Reg.NET_PORT.link_up port).key := by interval_cases port <;> decide
    change ∃ u, execEthLinkDown port s = .next u ∧ _
    rw [execEthLinkDown, onServing_after hs, if_pos hport]
    refine ⟨_, rfl, ?_, ?_⟩
    · rw [State.after_get, Dev.get_flag_other hkey, Dev.get_put_same]
      rfl
    · rw [State.after_get]
      exact (Dev.get_put_same ..).trans rfl
  case up =>
    change execEthLinkUp port s = _
    rw [execEthLinkUp, onServing_after hs, if_pos hport]
  case again =>
    rw [exec_roceRetxTimeout_live hs hq he, if_pos hr]
    refine ⟨_, rfl, by rw [State.after_out, Dev.head_out_emit], ?_⟩
    rw [Dev.qp_of_qps (State.after_qps ..) q, Dev.qp_of_qps (Dev.emit_qps _ _) q, Dev.qp_of_qps (Dev.reported_event _ _ _).qps q]
    exact Dev.qp_qpPut ..
  case fails => rw [exec_roceRetxTimeout_live hs hq he, if_neg (by omega)]
  case ecn =>
    change execEcnMarkedPacket q s = _
    rw [execEcnMarkedPacket, onServing_after hs, if_pos (by rw [hq, he]; rfl)]
  case halved =>
    have hno : (s.dev.qp q).lastCnp.any (fun c => decide (max s.dev.now t < c + 50000)) = false := by
      rcases hc with h | ⟨c, h, hle⟩
      · rw [h]; rfl
      · rw [h]; exact decide_eq_false (by omega)
    refine ⟨_, exec_cnp_counted hs hq, ?_⟩
    rw [Dev.qp_of_qps (State.after_qps ..) q, hno]
    simp
  case kept =>
    obtain ⟨c, h, hlt⟩ := hc
    have hyes : (s.dev.qp q).lastCnp.any (fun c => decide (max s.dev.now t < c + 50000)) = true := by rw [h]; exact decide_eq_true hlt
    refine ⟨_, exec_cnp_counted hs hq, ?_⟩
    rw [Dev.qp_of_qps (State.after_qps ..) q, hyes]
    simp
  case raised =>
    refine ⟨_, exec_cnpRateRecover_due hs hq hle, ?_⟩
    rw [Dev.qp_of_qps (State.after_qps ..) q, Dev.qp_qpPut]
    norm_num
  case shown =>
    have hoff : ¬ ((s.dev.advance t).put Reg.NET_PTP_OFFSET.offset (ptpShown offset)).get Reg.NET_PTP.enable = 1 := by
      rw [Dev.get_put_other (by decide), Dev.get_advance, hen]
      decide
    change execPtpSync offset t s = _
    rw [execPtpSync, onServing_after hs]
    simp only [if_neg hoff]
    rw [ptpShown_of_range h1 h2]
    rfl
  case steps =>
    have hon : ((s.dev.advance t).put Reg.NET_PTP_OFFSET.offset (ptpShown offset)).get Reg.NET_PTP.enable = 1 := by
      rw [Dev.get_put_other (by decide), Dev.get_advance, hen]
    have hcor : ((s.dev.advance t).put Reg.NET_PTP_OFFSET.offset (ptpShown offset)).ptpCorrection offset = -offset := by
      refine if_pos ?_
      rw [Dev.get_put_other (by decide), Dev.get_advance]
      exact hstep
    change ∃ u, execPtpSync offset t s = .next u ∧ _
    rw [execPtpSync, onServing_after hs]
    simp only [if_pos hon, hcor]
    exact ⟨_, rfl, State.after_daymark ..⟩

end Sys2Proof.Machine
end

section
/-! PROOFS. The start at VCORE, the firmware update, and the power states (R31, R519 to R536). -/
namespace Sys2Proof.Machine

@[simp] theorem State.after_boot (s : State) (d : Dev) : (s.after d).dev.boot = d.boot := sendFrames_boot s.dev d

/-! ### The start goes on, or fails -/

theorem Dev.get_openWindow {f : Fld} (h1 : Reg.OWN_STATE.state.key ≠ f.key) (h2 : Reg.OWN_STATE.owner.key ≠ f.key) (st barred : Nat) (d : Dev) :
    (d.openWindow st barred).get f = d.get f := by
  have hput : (d.openWindow st barred).get f = ((d.put Reg.OWN_STATE.state st).put Reg.OWN_STATE.owner 0).get f := rfl
  rw [hput, Dev.get_put_other h2, Dev.get_put_other h1]

/-- What a failed step of the start shows (R519, R520). -/
theorem Dev.startFails_fields {step st : Nat} (hstep : step < 16) (hst : st < 2 ^ 16) (hsec : ¬ (ST.SEC_PUF ≤ st ∧ st ≤ ST.SEC_LEVEL)) (d : Dev) :
    (d.startFails step st).get Reg.PWR_BOOT.mode = 2 ∧ (d.startFails step st).get Reg.PWR_BOOT.step = step ∧
      (d.startFails step st).get Reg.PWR_BOOT.status = st := by
  have hget (f : Fld) (h1 : Reg.OWN_STATE.state.key ≠ f.key) (h2 : Reg.OWN_STATE.owner.key ≠ f.key) :
      (d.startFails step st).get f = (((d.put Reg.PWR_BOOT.step step).put Reg.PWR_BOOT.status st).put Reg.PWR_BOOT.mode 2).get f := by
    rw [Dev.startFails, if_neg hsec, Dev.get_emit, Dev.get_openWindow h1 h2]
    rfl
  refine ⟨?_, ?_, ?_⟩
  · rw [hget _ (by decide) (by decide), Dev.get_put_same]
    rfl
  · rw [hget _ (by decide) (by decide), Dev.get_put_other (by decide), Dev.get_put_other (by decide), Dev.get_put_same]
    exact Nat.mod_eq_of_lt (Nat.lt_of_lt_of_le hstep (by decide))
  · rw [hget _ (by decide) (by decide), Dev.get_put_other (by decide), Dev.get_put_same]
    exact Nat.mod_eq_of_lt (Nat.lt_of_lt_of_le hst (by decide))

section Vcore
variable {s : State} {env : MediaEnv} {t w : Nat} (hv : s.dev.boot.vcoreEn = true) (hw : s.dev.boot.waitingPg = some w)
include hv hw

/-- VCORE is good for a start that waits for it: the start goes on from step 5. -/
theorem exec_vcorePgRise_start (hp : ∀ k, s.dev.boot.phase ≠ .exiting k) :
    exec (.vcorePgRise env t) s = .next { s with dev := ((s.dev.advance t).put Reg.PWR_AVS.pg 1).clocksUp env } := by
  have hw' : ((s.dev.advance t).put Reg.PWR_AVS.pg 1).boot.waitingPg = some w := hw
  change execVcorePgRise env t s = _
  rw [execVcorePgRise, if_neg (by rw [hv]; decide)]
  simp only [hw']
  cases hph : s.dev.boot.phase with
  | exiting k => exact absurd hph (hp k)
  | run | entering k | asleep k =>
    have hph' : ((s.dev.advance t).put Reg.PWR_AVS.pg 1).boot.phase = _ := hph
    simp only [hph']

theorem exec_vcorePgRise_noPll (hpll : env.pllLock = false) : ∃ d : Dev,
    exec (.vcorePgRise env t) s = .next { s with dev := d.startFails 5 ST.PWR_CLOCK } := by
  have hw' : ((s.dev.advance t).put Reg.PWR_AVS.pg 1).boot.waitingPg = some w := hw
  by_cases hp : ∃ k, s.dev.boot.phase = .exiting k
  · obtain ⟨k, hp⟩ := hp
    have hp' : ((s.dev.advance t).put Reg.PWR_AVS.pg 1).boot.phase = .exiting k := hp
    refine ⟨(s.dev.advance t).put Reg.PWR_AVS.pg 1, ?_⟩
    change execVcorePgRise env t s = _
    rw [execVcorePgRise, if_neg (by rw [hv]; decide)]
    simp only [hw', hp', hpll, Bool.not_false, if_true]
  · rw [not_exists] at hp
    rw [exec_vcorePgRise_start hv hw hp, Dev.clocksUp, if_pos (by rw [hpll]; rfl)]
    exact ⟨_, rfl⟩

end Vcore

/-! ### The firmware update -/

/-- Errors of the TDIs change registers alone. -/
theorem Dev.allTdis_regs (cause : Nat) (d : Dev) : ∃ rs, d.allTdis cause = { d with regs := rs } := by
  refine foldl_keeps (fun e : Dev => ∃ rs, e = { d with regs := rs }) (fun e k h => ?_) _ ⟨d.regs, rfl⟩
  obtain ⟨rs, rfl⟩ := h
  unfold Dev.tdiError
  dsimp only
  split
  · exact ⟨_, rfl⟩
  · exact ⟨_, rfl⟩

section Update
variable {s : State} {h : EntryHdr} {kind : Nat} {image : LightList} {e : Ent} {d : Dev} (hs : s.dev.serving = true)
  (hf : s.dev.fetch 0 64 h = some (e, d)) (ho : d.fromOwner e = true) (hsp : d.keepers.any (fun k => k.role == .spare) = true)
  (hdir : directoryOk image = true)
include hs hf ho hsp hdir

theorem exec_fwUpdate_refused (hc : d.checkImage image ≠ ST.OK) :
    exec (.fwUpdate h kind image) s = .next (s.after ((d.imageRefused (d.checkImage image)).complete e (d.checkImage image) 0)) := by
  change execFwUpdate h kind image s = _
  rw [execFwUpdate, onServing_after hs, Dev.ownerAdmin_of_fetch hf ho, if_neg (by rw [hsp]; decide)]
  simp only [hdir, if_true]
  rw [if_pos hc]

theorem exec_fwUpdate_taken (hc : d.checkImage image = ST.OK) : ∃ u : Dev, exec (.fwUpdate h kind image) s = .next (s.after (u.complete e ST.OK 0)) ∧
    u.boot.nor = some image ∧ u.sec.fwDigest = image.fw.digest ∧ u.boot.running = d.boot.running ∧ u.keepers = exchangeAll image.fw.digest d.keepers := by
  change ∃ u : Dev, execFwUpdate h kind image s = _ ∧ _
  rw [execFwUpdate, onServing_after hs, Dev.ownerAdmin_of_fetch hf ho, if_neg (by rw [hsp]; decide)]
  simp only [hdir, if_true]
  rw [if_neg (fun h => h hc)]
  refine ⟨_, rfl, ?_⟩
  obtain ⟨rs, hrs⟩ := Dev.allTdis_regs 4 (Dev.put Reg.SEC_SVN_RUN.fw image.fw.sig.securityVersion
    { d with keepers := exchangeAll image.fw.digest d.keepers, boot := { d.boot with nor := some image },
             sec := { d.sec with fwDigest := image.fw.digest, fwVersion := image.fw.sig.securityVersion } })
  rw [hrs]
  exact ⟨rfl, rfl, rfl, rfl⟩

end Update

/-- Settles O41: the rise of VCORE with and without the PLL, its time limit, and the firmware update. -/
theorem startAndUpdateComplete : Obligations.StartAndUpdateComplete := by
  unfold Obligations.StartAndUpdateComplete
  refine ⟨fun s env t w hv hw => ⟨fun k hp hpll l hl => ?_, fun hpll => ?_⟩, fun s t w hw hle => ?_,
    fun s h kind image e d hs hf ho hsp hdir => ⟨exec_fwUpdate_taken hs hf ho hsp hdir, exec_fwUpdate_refused hs hf ho hsp hdir⟩⟩
  · have hno : ∀ j, s.dev.boot.phase ≠ .exiting j := by
      intro j hj
      rcases hp with h | h | h <;> rw [h] at hj <;> cases hj
    have hrun : ((s.dev.advance t).put Reg.PWR_AVS.pg 1).boot.running = some l := hl
    rw [exec_vcorePgRise_start hv hw hno, Dev.clocksUp, if_neg (by rw [hpll]; decide)]
    refine ⟨((({ (s.dev.advance t).put Reg.PWR_AVS.pg 1 with boot := { s.dev.boot with waitingPg := none } } : Dev).put Reg.CLK_STATUS.pll_lock 1).put
      Reg.CLK_STATUS.on_bosc 0), ?_, ?_, ?_, ?_, rfl⟩
    · simp only [Dev.put_boot, Dev.advance_boot, hl]
    · rw [Dev.get_put_other (by decide), Dev.get_put_other (by decide)]
      exact (Dev.get_put_same Reg.PWR_AVS.pg 1 (s.dev.advance t)).trans rfl
    · rw [Dev.get_put_other (by decide), Dev.get_put_same]
      rfl
    · rw [Dev.get_put_same]
      rfl
  · obtain ⟨d, hrun⟩ := exec_vcorePgRise_noPll (t := t) hv hw hpll
    obtain ⟨hmode, hstep, hstatus⟩ := Dev.startFails_fields (step := 5) (st := ST.PWR_CLOCK) (by decide) (by decide) (by decide) d
    exact ⟨_, hrun, hmode, hstep, hstatus⟩
  · change execVcorePgTimeout t s = _
    simp only [execVcorePgTimeout, onDev, hw]
    exact congrArg (fun x => Host.Outcome.next (s.after x)) (if_pos hle)

/-! ### Power states -/

/-- A granted request for a state (R532). -/
theorem Dev.powerRequest_granted {target : Nat} {d : Dev} (ht : target = 2 ∨ target = 3 ∨ target = 4) (hb : target = 3 → d.banksSelected ≤ 6)
    (hp : d.boot.phase = .run) (hq : d.quiet = true) :
    (d.powerRequest target).boot.phase = .entering target ∧ (d.powerRequest target).get Reg.PWR_STATUS.state = target ∧
      (d.powerRequest target).get Reg.PWR_CTRL.status = ST.OK := by
  have hst : d.powerStatus target = ST.OK := by
    rw [Dev.powerStatus, if_neg (by omega), if_neg (by omega), if_neg (by simp [hp, hq])]
  rw [Dev.powerRequest]
  simp only [hst]
  rw [if_neg (fun h => h rfl)]
  have hget (f : Fld) (g : Boot → Boot) (e : Dev) : (e.bootUpd g).get f = e.get f := rfl
  refine ⟨rfl, ?_, ?_⟩
  · rw [hget, Dev.get_put_same]
    exact Nat.mod_eq_of_lt (Nat.lt_of_le_of_lt (by omega : target ≤ 4) (by decide))
  · rw [hget, Dev.get_put_other (by decide), Dev.get_put_same]
    rfl

section Wake
variable {s : State} {env : RomEnv} {target : Nat} {src : WakeSource} {level inLast8 : Bool}
  (hf : s.dev.boot.frozen = false) (hp : s.dev.boot.phase = .asleep target) (hw : s.dev.wakeEnabled target src = true)
include hf hp hw

/-- An enabled source ends the state entered (R533, R536). -/
theorem wakeBy_asleep : wakeBy src level inLast8 env s = exitState target (2 ^ src.bit) env s := by
  rw [wakeBy, if_neg (by rw [hf]; decide)]
  simp only [hp, hw, if_true]

end Wake

theorem exec_wakeEvent_asleep {s : State} {env : RomEnv} {t target : Nat} {src : WakeSource} {inLast8 : Bool} (hf : s.dev.boot.frozen = false)
    (hsrc : src = .wakeN ∨ src = .mctp) (hp : s.dev.boot.phase = .asleep target) (hw : s.dev.wakeEnabled target src = true) :
    exec (.wakeEvent src inLast8 env t) s = exitState target (2 ^ src.bit) env { s with dev := s.dev.advance t } := by
  rcases hsrc with rfl | rfl
  · exact wakeBy_asleep (s := { s with dev := s.dev.advance t }) hf hp hw
  · exact wakeBy_asleep (s := { s with dev := s.dev.advance t }) hf hp hw

theorem exec_comparatorMatch_asleep {s : State} {env : RomEnv} {t target k : Nat} {inLast8 : Bool} (hf : s.dev.boot.frozen = false) (hk : k < 4)
    (he : s.dev.get (Reg.CLK_CMPCTL.enable k) = 1) (hv : s.dev.get (Reg.CLK_CMP.value k) ≤ (s.dev.advance t).daymark)
    (hl : s.dev.get (Reg.CLK_CMPCTL.level k) = 1) (ht : target ≠ 4) (hp : s.dev.boot.phase = .asleep target)
    (hw : s.dev.wakeEnabled target (.comparator k) = true) :
    exec (.comparatorMatch k inLast8 env t) s = exitState target (2 ^ (WakeSource.comparator k).bit) env { s with dev := s.dev.advance t } := by
  have he' : (s.dev.advance t).get (Reg.CLK_CMPCTL.enable k) = 1 := he
  have hv' : (s.dev.advance t).get (Reg.CLK_CMP.value k) ≤ (s.dev.advance t).daymark := hv
  have hl' : (s.dev.advance t).cmpLevel k = true := by
    rw [Dev.cmpLevel, beq_iff_eq]
    exact hl
  have hp' : (s.dev.advance t).boot.phase = .asleep target := hp
  have hno : ¬ (4 ≤ k ∨ (s.dev.advance t).get (Reg.CLK_CMPCTL.enable k) = 0 ∨ (s.dev.advance t).daymark < (s.dev.advance t).get (Reg.CLK_CMP.value k) ∨
      (s.dev.advance t).boot.phase = .asleep 4) := by
    rintro (h | h | h | h)
    · omega
    · rw [he'] at h
      exact absurd h (by decide)
    · omega
    · rw [hp', PowerPhase.asleep.injEq] at h
      exact ht h
  change comparatorActs k inLast8 env { s with dev := s.dev.advance t } = _
  rw [comparatorActs]
  dsimp only
  rw [if_neg hno, if_pos hl']
  exact wakeBy_asleep (s := { s with dev := s.dev.advance t }) hf hp hw

/-! ### Idle quads and the stretch -/

/-- Setting a bit that is clear, in a field wide enough for it. -/
theorem testBit_set_of_clear {n k w : Nat} (hk : k < w) (hn : n.testBit k = false) : ((n + 2 ^ k) % 2 ^ w).testBit k = true := by
  rw [Nat.testBit_mod_two_pow, Nat.add_comm, Nat.testBit_two_pow_add_eq, hn]
  simp [hk]

/-- A limit of R31 is crossed: the stretch of a quad is some of 1 to 12. -/
theorem nextStretch_crossed (pg : Bool) (cur v : Nat) : 1 ≤ nextStretch pg true cur v ∧ nextStretch pg true cur v ≤ 12 := by
  cases pg
  · exact ⟨show 1 ≤ 12 by decide, Nat.le_refl 12⟩
  · have h := Nat.mod_lt v (show 0 < 12 by decide)
    change 1 ≤ 1 + v % 12 ∧ 1 + v % 12 ≤ 12
    omega

/-- The stretch of one quad is set for the next µs (R526, R530). -/
def Dev.stretchQuad (crossed : Bool) (d : Dev) (q : Nat) : Dev :=
  d.drawn.bootUpd (fun b => { b with stretch := Tab.put q (nextStretch (d.get Reg.PWR_AVS.pg == 1) crossed (Tab.getD q 0 d.boot.stretch) d.fresh) b.stretch })

/-- A quad that is stretched. -/
def Dev.stretched (q : Nat) (d : Dev) : Prop := ∃ v, Tab.look q d.boot.stretch = some v ∧ 1 ≤ v ∧ v ≤ 12

theorem Dev.stretched_stretchQuad_same (q : Nat) (d : Dev) : (d.stretchQuad true q).stretched q :=
  ⟨_, Tab.look_put_same _ _ _, nextStretch_crossed _ _ _⟩

theorem Dev.stretched_stretchQuad {q : Nat} {d : Dev} (h : d.stretched q) (j : Nat) : (d.stretchQuad true j).stretched q := by
  by_cases hj : j = q
  · subst hj
    exact d.stretched_stretchQuad_same j
  · obtain ⟨v, hv, hr⟩ := h
    exact ⟨v, (Tab.look_put_other hj _ _).trans hv, hr⟩

theorem Dev.stretched_foldl {q : Nat} {qs : List Nat} (hq : q ∈ qs) (d : Dev) : (qs.foldl (Dev.stretchQuad true) d).stretched q := by
  induction qs generalizing d with
  | nil => cases hq
  | cons j js ih =>
    rw [List.foldl_cons]
    rcases List.mem_cons.mp hq with rfl | hq
    · exact foldl_keeps (fun e : Dev => e.stretched q) (fun e k h => Dev.stretched_stretchQuad h k) js (d.stretched_stretchQuad_same q)
    · exact ih hq _

/-- VCORE_PG falls (R530). -/
def Dev.vcoreFalls (d : Dev) : Dev :=
  if d.serving && d.boot.phase == .run then
    ((d.put Reg.PWR_AVS.pg 0).bootUpd (fun b => { b with stretch := (List.range 8).map (fun q => (q, 12)) })).reportUnit 0xC 0 2
  else d.put Reg.PWR_AVS.pg 0

theorem Dev.serving_put_pg (v : Nat) (d : Dev) : (d.put Reg.PWR_AVS.pg v).serving = d.serving := by
  simp only [Dev.serving, Dev.inService, Dev.awake, Dev.put_boot, Dev.get_put_other (show Reg.PWR_AVS.pg.key ≠ Reg.PWR_BOOT.mode.key by decide)]

theorem exec_vcorePgFall (s : State) : exec .vcorePgFall s = .next (s.after s.dev.vcoreFalls) := by
  change Host.Outcome.next (s.after (if (s.dev.put Reg.PWR_AVS.pg 0).serving && s.dev.boot.phase == .run then _ else _)) = _
  rw [Dev.serving_put_pg, Dev.vcoreFalls]

theorem Dev.get_vcoreFalls (d : Dev) : d.vcoreFalls.get Reg.PWR_AVS.pg = 0 := by
  have hpg : (d.put Reg.PWR_AVS.pg 0).get Reg.PWR_AVS.pg = 0 := (Dev.get_put_same _ _ _).trans rfl
  exact get_ite ((Dev.get_reportUnit (by unfold Fld.plain; decide) _ _ _ _).trans hpg) hpg

/-- Settles O42: entry into a power state, the ways out, quads, the stretch and the Daymark write. -/
theorem powerComplete : Obligations.PowerComplete := by
  unfold Obligations.PowerComplete
  refine ⟨fun s m target hs ho ht hb hp hq => ?_, fun s env t target hp hf hl => ?_, fun s env t target src inLast8 hf hsrc hp hw => ⟨fun ht => ?_, fun ht => ?_⟩,
    fun s env t target k inLast8 hf hk he hv hl ht hp hw => ?_, fun s t quad hs hq hfree hidle hle => ?_, fun s => ?_, fun s p a o t hs hlim => ?_,
    fun s m v hs ho hptp => ?_⟩
  · change ∃ u, execPowerStateRequest m target s = .next u ∧ _
    have hmod : target % 8 = target := Nat.mod_eq_of_lt (by omega)
    obtain ⟨hphase, hstate, hstatus⟩ := Dev.powerRequest_granted ht hb hp hq
    rw [execPowerStateRequest, onServing_after hs, Dev.ownerWrite_owner ho, hmod]
    exact ⟨_, rfl, by rw [State.after_boot]; exact hphase, by rw [State.after_get]; exact hstate, by rw [State.after_get]; exact hstatus⟩
  · change execPowerEntryComplete env t s = _
    simp only [execPowerEntryComplete, hp]
    rw [if_neg (by rw [hf]; decide), if_pos hl]
  · rw [exec_wakeEvent_asleep hf hsrc hp hw, exitState, if_neg ht]
  · rw [exec_wakeEvent_asleep hf hsrc hp hw, exitState, if_pos ht]
    rfl
  · rw [exec_comparatorMatch_asleep hf hk he hv hl ht hp hw, exitState, if_neg ht]
  · have hidle' : ((s.dev.advance t).get Reg.PWR_STATUS.quads_idle).testBit quad = false := hidle
    have hle' : Tab.getD quad 0 (s.dev.advance t).boot.lastBusy + us ((s.dev.advance t).get Reg.PWR_CFG.idle_us) ≤ (s.dev.advance t).now := hle
    change ∃ u, execQuadIdleTimer quad t s = .next u ∧ _
    rw [execQuadIdleTimer, onServing_after hs]
    refine ⟨_, rfl, ?_⟩
    rw [State.after_get]
    dsimp only
    rw [if_pos (by rw [hfree, hidle', decide_eq_true hle', decide_eq_true hq]; rfl)]
    have hset : ((s.dev.advance t).put Reg.PWR_STATUS.quads_idle ((s.dev.advance t).get Reg.PWR_STATUS.quads_idle + 2 ^ quad)).get Reg.PWR_STATUS.quads_idle =
        ((s.dev.advance t).get Reg.PWR_STATUS.quads_idle + 2 ^ quad) % 2 ^ 8 := Dev.get_put_same _ _ _
    rw [get_ite ((Dev.get_put_other (by decide) _ _).trans hset) hset]
    exact testBit_set_of_clear hq hidle'
  · refine ⟨_, exec_vcorePgFall s, ?_, fun hs hp => ?_⟩
    · rw [State.after_get]
      exact Dev.get_vcoreFalls s.dev
    · rw [State.after_boot, Dev.vcoreFalls, if_pos (by rw [hs, hp]; rfl)]
      exact congrArg Boot.stretch (Dev.reported_report _ _).boot
  · have hcross : limitCrossed p a o = true := by
      rw [limitCrossed, Bool.or_eq_true, Bool.or_eq_true, Bool.and_eq_true, decide_eq_true_eq, decide_eq_true_eq, decide_eq_true_eq, decide_eq_true_eq]
      omega
    change ∃ u, execPowerStretchAdjust p a o t s = .next u ∧ _
    rw [execPowerStretchAdjust, onServing_after hs]
    refine ⟨_, rfl, fun q hq => ?_⟩
    have hall := Dev.stretched_foldl (List.mem_range.mpr hq) (s.dev.advance t)
    rw [State.after_boot, hcross]
    dsimp only
    split
    · exact hall
    · exact hall
  · change execClkDaymarkSet m v s = _
    rw [execClkDaymarkSet, onServing_after hs, Dev.ownerWrite_owner ho, Dev.setDaymark, if_neg (by rw [hptp]; decide)]
    rfl

end Sys2Proof.Machine
end

section
/-! PROOFS. Counters, the Lantern port, the memory read, the Foghorn and the failovers (R539 to R567). -/
namespace Sys2Proof.Machine

@[simp] theorem State.after_lantern (s : State) (d : Dev) : (s.after d).dev.lantern = d.lantern := sendFrames_lantern s.dev d
@[simp] theorem State.after_keepers (s : State) (d : Dev) : (s.after d).dev.keepers = d.keepers := sendFrames_keepers s.dev d

/-! ### Counters -/

/-- The keys of a chip counter's own registers are apart from CNT_OVF, and its count from every chain bit. -/
theorem key_chipCounter (k j : Nat) : (Reg.CNT_C.count k).key ≠ Reg.CNT_OVF.overflow.key ∧ Reg.CNT_OVF.overflow.key ≠ (Reg.CNT_C.count k).key ∧
    (Reg.CNT_C.count k).key ≠ (Reg.CNT_SEL.chain j).key ∧ Reg.CNT_OVF.overflow.key ≠ (Reg.CNT_SEL.chain j).key := by
  simp only [Fld.key, Reg.CNT_C.count, Reg.CNT_OVF.overflow, Reg.CNT_SEL.chain]
  omega

theorem Dev.get_overflow_chip (k step cmd : Nat) (f : Fld) (d : Dev) :
    (d.overflow (.chip k) step cmd).get f = (d.put Reg.CNT_OVF.overflow (d.get Reg.CNT_OVF.overflow ||| 2 ^ k)).get f := by
  rw [Dev.overflow]
  exact get_ite (Dev.get_pfIrqOwner _ _ _) rfl

/-- A chip counter that no chain goes on from: it wraps to zero and its overflow bit is set (R539). -/
theorem Dev.cntAdd_wraps {k : Nat} {d : Dev} (hk : k < 63) (hc : d.get (Reg.CNT_C.count k) = 2 ^ 48 - 1) (hn : d.get (Reg.CNT_SEL.chain (k + 1)) = 0)
    (step cmd fuel : Nat) : d.cntAdd step cmd (fuel + 1) (.chip k) = (d.put (Reg.CNT_C.count k) 0).overflow (.chip k) step cmd := by
  have hchain : ((d.put (Reg.CNT_C.count k) 0).overflow (.chip k) step cmd).get (Reg.CNT_SEL.chain (k + 1)) = 0 := by
    rw [Dev.get_overflow_chip, Dev.get_put_other (key_chipCounter k (k + 1)).2.2.2, Dev.get_put_other (key_chipCounter k (k + 1)).2.2.1, hn]
  have hnext : cntNext (.chip k) = some (.chip (k + 1)) := if_pos (by omega)
  have hwrap : ¬ d.get (cntRegs (.chip k)).count + 1 < 2 ^ 48 := by
    rw [show d.get (cntRegs (.chip k)).count = 2 ^ 48 - 1 from hc]
    decide
  rw [Dev.cntAdd]
  dsimp only
  rw [if_neg hwrap, hnext]
  refine if_neg ?_
  rw [show ((d.put (cntRegs (.chip k)).count 0).overflow (.chip k) step cmd).get (cntRegs (.chip (k + 1))).chain = 0 from hchain]
  simp

section Counters
variable {s : State} (hs : s.dev.serving = true) (hg : s.dev.get Reg.CNT_CFG.enable = 1)
include hs hg

theorem exec_counterOverflow {c : CounterRef} (he : s.dev.get (cntRegs c).enable = 1) (hc : s.dev.get (cntRegs c).chain = 0) (step cmd : Nat) :
    exec (.counterOverflow c step cmd) s = .next (s.after ((s.dev.put (cntRegs c).count (2 ^ 48 - 1)).cntAdd step cmd 64 c)) := by
  change execCounterOverflow c step cmd s = _
  rw [execCounterOverflow, onServing_after hs, if_pos (by rw [hg, he, hc]; rfl)]

theorem exec_counterOverflow_chip {k : Nat} (hk : k < 63) (he : s.dev.get (Reg.CNT_SEL.enable k) = 1) (hc : s.dev.get (Reg.CNT_SEL.chain k) = 0)
    (hn : s.dev.get (Reg.CNT_SEL.chain (k + 1)) = 0) (step cmd : Nat) :
    ∃ u, exec (.counterOverflow (.chip k) step cmd) s = .next u ∧ u.dev.get (Reg.CNT_C.count k) = 0 ∧
      (u.dev.get Reg.CNT_OVF.overflow).testBit k = true := by
  obtain ⟨hovf, hovf', hchain, -⟩ := key_chipCounter k (k + 1)
  have hfull : (s.dev.put (Reg.CNT_C.count k) (2 ^ 48 - 1)).get (Reg.CNT_C.count k) = 2 ^ 48 - 1 := (Dev.get_put_same _ _ _).trans (by rfl)
  have hrun := Dev.cntAdd_wraps hk hfull ((Dev.get_put_other hchain _ _).trans hn) step cmd 63
  refine ⟨_, exec_counterOverflow hs hg (c := .chip k) he hc step cmd, ?_, ?_⟩
  · rw [State.after_get, show (cntRegs (.chip k)).count = Reg.CNT_C.count k from rfl, hrun, Dev.get_overflow_chip, Dev.get_put_other hovf', Dev.get_put_same]
    exact Nat.zero_mod _
  · have hset : (wrap 64 ((((s.dev.put (Reg.CNT_C.count k) (2 ^ 48 - 1)).put (Reg.CNT_C.count k) 0).get Reg.CNT_OVF.overflow) ||| 2 ^ k)).testBit k = true := by
      rw [wrap, Nat.testBit_mod_two_pow, Nat.testBit_or, Nat.testBit_two_pow_self]
      simp
      omega
    rw [State.after_get, show (cntRegs (.chip k)).count = Reg.CNT_C.count k from rfl, hrun, Dev.get_overflow_chip, Dev.get_put_same]
    exact hset

end Counters

/-! ### The memory read -/

/-- DBG_MEM_DATA shows words. -/
def Dev.showWords (word : Nat → Nat) (ws : List Nat) (d : Dev) : Dev := ws.foldl (fun d w => d.put (Reg.DBG_MEM_DATA.bytes w) (word w)) d

theorem Dev.get_showWords {word : Nat → Nat} (hlt : ∀ w, word w < 2 ^ 32) {w : Nat} {ws : List Nat} (hw : w ∈ ws) (d : Dev) :
    (d.showWords word ws).get (Reg.DBG_MEM_DATA.bytes w) = word w := by
  induction ws using List.reverseRecOn with
  | nil => cases hw
  | append_singleton ws k ih =>
    have hstep : d.showWords word (ws ++ [k]) = (d.showWords word ws).put (Reg.DBG_MEM_DATA.bytes k) (word k) := List.foldl_append ..
    rw [hstep]
    by_cases hk : w = k
    · subst hk
      exact (Dev.get_put_same ..).trans (wrap_of_lt (hlt w))
    · have hmem : w ∈ ws := by simpa [hk] using hw
      have hkey : (Reg.DBG_MEM_DATA.bytes k).key ≠ (Reg.DBG_MEM_DATA.bytes w).key := by
        simp only [Fld.key, Reg.DBG_MEM_DATA.bytes]
        omega
      exact (Dev.get_put_other hkey ..).trans (ih hmem)

theorem key_memStatus (w : Nat) : Reg.DBG_MEM_CTRL.status.key ≠ (Reg.DBG_MEM_DATA.bytes w).key := by
  simp only [Fld.key, Reg.DBG_MEM_DATA.bytes, Reg.DBG_MEM_CTRL.status]
  omega

/-- The word that a memory read shows at `w` (R559). -/
def Dev.memWord (mem : List Host.Cell) (d : Dev) (w : Nat) : Nat :=
  leNat ((List.range 4).map (fun i => d.tierByte (d.get Reg.DBG_MEM_ADDR.address / 2 ^ 62 - 1) (d.get Reg.DBG_MEM_CTRL.sector)
    (d.get Reg.DBG_MEM_ADDR.address % 2 ^ 48 + (4 * w + i)) mem))

theorem Dev.memWord_lt (mem : List Host.Cell) (d : Dev) (w : Nat) : d.memWord mem w < 2 ^ 32 := by
  refine lt_of_lt_of_le (leNat_lt _) ?_
  rw [List.length_map, List.length_range]
  decide

theorem Dev.memRead_denied {mem : List Host.Cell} {d : Dev} (hl : d.debugLevel < 2) : d.memRead mem = d.put Reg.DBG_MEM_CTRL.status ST.SEC_LEVEL := by
  rw [Dev.memRead]
  exact if_pos hl

section MemRead
variable {mem : List Host.Cell} {d : Dev} (hl : d.debugLevel = 2)
include hl

theorem Dev.memRead_outside (h : d.fbOk (d.get Reg.DBG_MEM_CTRL.sector) (d.get Reg.DBG_MEM_ADDR.address) = false) :
    d.memRead mem = d.put Reg.DBG_MEM_CTRL.status ST.POOL_RANGE := by
  rw [Dev.memRead]
  dsimp only
  rw [if_neg (by omega), if_pos (by rw [h]; rfl)]

theorem Dev.memRead_shows (h : d.fbOk (d.get Reg.DBG_MEM_CTRL.sector) (d.get Reg.DBG_MEM_ADDR.address) = true) :
    d.memRead mem = (d.showWords (d.memWord mem) (List.range 64)).put Reg.DBG_MEM_CTRL.status ST.OK := by
  rw [Dev.memRead]
  dsimp only
  rw [if_neg (by omega), if_neg (by rw [h]; decide)]
  rfl

end MemRead

theorem exec_debugMemRead {s : State} {m : Master} (hs : s.dev.serving = true) (ho : s.dev.owner = m.code) :
    exec (.debugMemRead m) s = .next (s.after (s.dev.memRead s.mem)) := by
  change execDebugMemRead m s = _
  rw [execDebugMemRead, onServing_after hs, Dev.ownerWrite_owner ho]

theorem exec_debugMemRead_shows {s : State} {m : Master} (hs : s.dev.serving = true) (ho : s.dev.owner = m.code) (hl : s.dev.debugLevel = 2)
    (h : s.dev.fbOk (s.dev.get Reg.DBG_MEM_CTRL.sector) (s.dev.get Reg.DBG_MEM_ADDR.address) = true) :
    ∃ u, exec (.debugMemRead m) s = .next u ∧ u.dev.get Reg.DBG_MEM_CTRL.status = ST.OK ∧ u.mem = s.mem ∧
      ∀ w, w < 64 → u.dev.get (Reg.DBG_MEM_DATA.bytes w) = s.dev.memWord s.mem w := by
  refine ⟨_, exec_debugMemRead hs ho, ?_, rfl, fun w hw => ?_⟩
  · rw [State.after_get, Dev.memRead_shows hl h, Dev.get_put_same]
    rfl
  · rw [State.after_get, Dev.memRead_shows hl h, Dev.get_put_other (key_memStatus w)]
    exact Dev.get_showWords (Dev.memWord_lt s.mem s.dev) (List.mem_range.mpr hw) _

/-! ### The Lantern and the Foghorn -/

theorem exec_lanternSync {s : State} {t : Nat} (hs : s.dev.serving = true) (hl : 1 ≤ s.dev.debugLevel) (hb : s.dev.lantern.general.bytes = 0)
    (hlost : s.dev.lantern.general.lost = 0) :
    ∃ u, exec (.lanternSync t) s = .next u ∧ u.dev.lantern.general.recs = s.dev.lantern.general.recs ++ [⟨0x31, 16, [(s.dev.advance t).daymark]⟩] := by
  have hadd : TraceQueue.add ⟨0x31, 16, [(s.dev.advance t).daymark]⟩ (wrap 32 (s.dev.advance t).daymark) (s.dev.advance t).lantern.general =
      ({ s.dev.lantern.general with recs := s.dev.lantern.general.recs ++ [⟨0x31, 16, [(s.dev.advance t).daymark]⟩] }, true) := by
    rw [TraceQueue.add]
    exact if_pos (by rw [Dev.advance_lantern, hb, hlost]; exact (by decide : 0 + 16 + 0 ≤ 224))
  change ∃ u, execLanternSync t s = .next u ∧ _
  rw [execLanternSync, onServing_after hs]
  refine ⟨_, rfl, ?_⟩
  rw [State.after_lantern]
  dsimp only
  rw [if_pos (show 1 ≤ (s.dev.advance t).debugLevel from hl), hadd]
  rfl

section Fog
variable {s : State} (hs : s.dev.serving = true)
include hs

theorem exec_fogEntryFree {m : Master} (ho : s.dev.owner = m.code) (e : Nat) (same : Option FogReport) :
    exec (.fogEntryFree m e same) s = .next (s.after (s.dev.fogFree e same)) := by
  change execFogEntryFree m e same s = _
  rw [execFogEntryFree, onServing_after hs, Dev.ownerWrite_owner ho]

theorem exec_fogGapEnd {t g : Nat} (hg : s.dev.gap.until_ = some g) (hle : g ≤ max s.dev.now t) :
    exec (.fogGapEnd t) s = .next (s.after (if s.dev.gap.root || s.dev.gap.error then (s.dev.advance t).fogFire s.dev.gap.root s.dev.gap.error
      else { s.dev.advance t with gap := ⟨none, false, false⟩ })) := by
  have hg' : (s.dev.advance t).gap.until_ = some g := hg
  change execFogGapEnd t s = _
  rw [execFogGapEnd, onServing_after hs]
  dsimp only
  rw [hg']
  exact congrArg (fun d => Host.Outcome.next (s.after d)) (if_pos hle)

end Fog

theorem Dev.fogFree_alone (e : Nat) (d : Dev) : d.fogFree e none = { d with fog := Tab.del e d.fog } := by
  unfold Dev.fogFree
  cases Tab.look e d.fog <;> rfl

/-- A report of the entry's ID in the same cycle keeps the entry. -/
theorem Dev.fogFree_kept {e : Nat} {x : FogEntry} {r : FogReport} {d : Dev} (hx : Tab.look e d.fog = some x) (hid : x.id = r.id) :
    d.fogFree e (some r) = d.report r := by
  unfold Dev.fogFree
  simp only [hx, hid, beq_self_eq_true, if_true]

/-! ### Keepers -/

theorem Dev.getElem?_setRole (k j : Nat) (r : KeeperRole) (d : Dev) :
    (d.setRole k r).keepers[j]? = d.keepers[j]?.map (fun x => if j = k then { x with role := r } else x) := by
  simp only [Dev.setRole, List.getElem?_map, List.zip, List.getElem?_zipWith]
  by_cases h : j < d.keepers.length
  · simp [h]
  · simp [h]

theorem Dev.keeperRole_setRole_same {k : Nat} {x : KeeperRole} {d : Dev} (h : d.keeperRole k = some x) (r : KeeperRole) :
    (d.setRole k r).keeperRole k = some r := by
  obtain ⟨y, hy, -⟩ := Option.map_eq_some_iff.mp h
  rw [Dev.keeperRole, Dev.getElem?_setRole, hy]
  simp

theorem Dev.keeperRole_setRole_other {k j : Nat} (h : j ≠ k) (r : KeeperRole) (d : Dev) : (d.setRole k r).keeperRole j = d.keeperRole j := by
  rw [Dev.keeperRole, Dev.getElem?_setRole]
  simp [Dev.keeperRole, h]

/-- The first spare is the same when an active Keeper fails. -/
theorem Dev.findSpare_setRole {k : Nat} {d : Dev} (hk : d.keeperRole k = some .active) :
    (d.setRole k .failed).keepers.findIdx? (fun (x : Keeper) => x.role == KeeperRole.spare) =
      d.keepers.findIdx? (fun (x : Keeper) => x.role == KeeperRole.spare) := by
  have hspare : (d.setRole k .failed).keepers.map (fun x => x.role == KeeperRole.spare) = d.keepers.map (fun x => x.role == KeeperRole.spare) := by
    refine List.ext_getElem? (fun j => ?_)
    rw [List.getElem?_map, List.getElem?_map, Dev.getElem?_setRole]
    by_cases hj : j = k
    · subst hj
      obtain ⟨y, hy, hrole⟩ := Option.map_eq_some_iff.mp hk
      simp [hy, hrole]
    · simp [hj]
  have hmap (ks : List Keeper) : ks.findIdx? (fun (x : Keeper) => x.role == KeeperRole.spare) =
      (ks.map (fun x => x.role == KeeperRole.spare)).findIdx? id := by
    rw [List.findIdx?_map]
    rfl
  rw [hmap, hspare, ← hmap]

/-- A failed active Keeper gives its work to the lowest spare (R567). -/
theorem Dev.keeperFails_spare {k sp : Nat} {d : Dev} (hk : d.keeperRole k = some .active)
    (hsp : d.keepers.findIdx? (fun (x : Keeper) => x.role == KeeperRole.spare) = some sp) :
    d.keeperFails k = (((d.setRole k .failed).setRole sp .active).bump Reg.FOG_REP_KEEPER.count 1).reportUnit 0x9 k 2 := by
  rw [Dev.keeperFails, hk]
  simp only [Dev.findSpare_setRole hk, hsp]

theorem Dev.keeperRole_findSpare {sp : Nat} {d : Dev} (hsp : d.keepers.findIdx? (fun (x : Keeper) => x.role == KeeperRole.spare) = some sp) :
    d.keeperRole sp = some .spare := by
  obtain ⟨hlt, hrole, -⟩ := List.findIdx?_eq_some_iff_getElem.mp hsp
  rw [Dev.keeperRole, List.getElem?_eq_getElem hlt, Option.map_some, beq_iff_eq.mp hrole]

theorem exec_keeperFailover {s : State} {k sp : Nat} (hs : s.dev.serving = true) (hk : s.dev.keeperRole k = some .active)
    (hsp : s.dev.keepers.findIdx? (fun (x : Keeper) => x.role == KeeperRole.spare) = some sp) :
    ∃ u, exec (.keeperFailover k) s = .next u ∧ u.dev.keeperRole k = some .failed ∧ u.dev.keeperRole sp = some .active := by
  have hspare := Dev.keeperRole_findSpare hsp
  have hne : sp ≠ k := by
    intro h
    rw [h, hk] at hspare
    cases hspare
  have hroles (j : Nat) : (s.after (s.dev.keeperFails k)).dev.keeperRole j = ((s.dev.setRole k .failed).setRole sp .active).keeperRole j := by
    rw [Dev.keeperRole, State.after_keepers, Dev.keeperFails_spare hk hsp]
    exact congrArg (fun ks : List Keeper => ks[j]?.map (·.role)) (Dev.reported_report _ _).keepers
  change ∃ u, execKeeperFailover k s = .next u ∧ _
  rw [execKeeperFailover, onServing_after hs]
  refine ⟨_, rfl, ?_, ?_⟩
  · rw [hroles, Dev.keeperRole_setRole_other hne.symm, Dev.keeperRole_setRole_same hk]
  · rw [hroles]
    exact Dev.keeperRole_setRole_same ((Dev.keeperRole_setRole_other hne _ _).trans hspare) _

/-- Settles O43: counters, the Lantern, the memory read, the Foghorn and the failovers. -/
theorem observationComplete : Obligations.ObservationComplete := by
  unfold Obligations.ObservationComplete
  refine fun s hs => ⟨fun c step cmd hg he hc => exec_counterOverflow hs hg he hc step cmd,
    fun k step cmd hk hg he hc hn => exec_counterOverflow_chip hs hg hk he hc hn step cmd, ?_, fun t hl hb hlost => exec_lanternSync hs hl hb hlost,
    fun m ho => ⟨fun hl => ?_, fun hl hok => exec_debugMemRead_shows hs ho hl hok, fun hl hbad => ?_, fun e => ?_, fun e x r hx hid => ?_⟩,
    fun t g hg hle => ⟨fun hev => ?_, fun hroot herr => ?_⟩, fun k sp hk hsp => exec_keeperFailover hs hk hsp, fun core hcore => ?_⟩
  · change execLanternFrame s = _
    rw [execLanternFrame, onServing_after hs]
  · rw [exec_debugMemRead hs ho, Dev.memRead_denied hl]
  · rw [exec_debugMemRead hs ho, Dev.memRead_outside hl hbad]
  · rw [exec_fogEntryFree hs ho, Dev.fogFree_alone]
  · rw [exec_fogEntryFree hs ho, Dev.fogFree_kept hx hid]
  · rw [exec_fogGapEnd hs hg hle, if_pos ((Bool.or_eq_true _ _).mpr hev)]
  · rw [exec_fogGapEnd hs hg hle, if_neg (by rw [hroot, herr]; decide)]
  · change execSequencerCheckFail core s = _
    rw [execSequencerCheckFail, onServing_after hs, if_pos hcore]

end Sys2Proof.Machine
end

section
/-! PROOFS. Composition: staging, the pass, the switch, the drain and the grace period (R340 to R347). -/
namespace Sys2Proof.Machine

@[simp] theorem State.after_comp (s : State) (d : Dev) : (s.after d).dev.comp = d.comp := sendFrames_comp s.dev d

/-! ### Staging -/

section Admin
variable {s : State} {h : EntryHdr} {bytes : List Byte} {e : Ent} {d : Dev} (hs : s.dev.serving = true) (hf : s.dev.fetch 0 64 h = some (e, d))
include hs hf

theorem exec_sectorCompose_staged (ho : d.fromOwner e = true) (hok : d.checkMap (mapOf bytes) = ST.OK) : exec (.sectorCompose h bytes) s =
    .next (s.after (Dev.askPass (mapOf bytes).epoch { d with comp := { d.comp with staged := some (mapOf bytes), stager := some e } })) := by
  change execSectorCompose h bytes s = _
  rw [execSectorCompose, onServing_after hs, Dev.ownerAdmin_of_fetch hf ho]
  exact congrArg (fun x => Host.Outcome.next (s.after x)) (if_neg (fun h => h hok))

theorem exec_sectorCompose_refused (ho : d.fromOwner e = true) (hbad : d.checkMap (mapOf bytes) ≠ ST.OK) :
    exec (.sectorCompose h bytes) s = .next (s.after (d.complete e (d.checkMap (mapOf bytes)) 0)) := by
  change execSectorCompose h bytes s = _
  rw [execSectorCompose, onServing_after hs, Dev.ownerAdmin_of_fetch hf ho]
  exact congrArg (fun x => Host.Outcome.next (s.after x)) (if_pos hbad)

theorem exec_sectorCompose_denied (ho : d.fromOwner e = false) : exec (.sectorCompose h bytes) s = .next (s.after (d.complete e ST.SCT_DENIED 0)) := by
  change execSectorCompose h bytes s = _
  rw [execSectorCompose, onServing_after hs, Dev.ownerAdmin_denied hf ho]

end Admin

/-! ### The pass -/

section Elsewhere
variable {s : State} {m : CompMsg} {t : Nat} (hs : s.dev.serving = true) (hh : s.dev.isHead = false)
include hs hh

theorem exec_composeReq_elsewhere : exec (.composeReq m t) s = .next (s.after ((s.dev.advance t).emit (.compMsg m))) := by
  have hh' : ¬ (s.dev.advance t).isHead = true := by
    rw [show (s.dev.advance t).isHead = false from hh]
    decide
  change execComposeReq m t s = _
  rw [execComposeReq, onServing_after hs]
  dsimp only
  rw [if_neg hh']

/-- A chip that still holds two maps takes no third (R342). -/
theorem exec_compose_draining (hp : s.dev.comp.prev ≠ none) : exec (.compose m t) s = .next (s.after (s.dev.advance t)) := by
  have hh' : (s.dev.advance t).isHead = false := hh
  have hp' : (s.dev.advance t).comp.prev.isSome = true := Option.isSome_iff_ne_none.mpr hp
  change execCompose m t s = _
  rw [execCompose, onServing_after hs]
  simp only [hh', hp', Bool.false_eq_true, if_false, if_true]

theorem exec_compose_forwards (hp : s.dev.comp.prev = none) : exec (.compose m t) s = .next (s.after ((s.dev.advance t).emit (.compMsg
    (if presentMask ((s.dev.advance t).mapFor m.newEpoch).sects == m.present || m.status != ST.OK then m
      else { m with status := ST.SCT_GROUP, failPos := s.dev.position })))) := by
  have hh' : (s.dev.advance t).isHead = false := hh
  have hp' : (s.dev.advance t).comp.prev.isSome = false := by rw [Dev.advance_comp, hp]; rfl
  change execCompose m t s = _
  rw [execCompose, onServing_after hs]
  simp only [hh', hp', Bool.false_eq_true, if_false]
  rfl

theorem exec_switch_elsewhere : exec (.switch m t) s = .next (s.after (Dev.emit (.compMsg m)
    (if m.newEpoch = nextEpoch s.dev.comp.cur.epoch ∧ s.dev.comp.prev.isNone then (s.dev.advance t).switchMap m.newEpoch m.lastOldStep else s.dev.advance t))) := by
  have hh' : (s.dev.advance t).isHead = false := hh
  change execSwitch m t s = _
  rw [execSwitch, onServing_after hs]
  simp only [hh', Bool.false_eq_true, if_false]
  rfl

theorem exec_composeCancel_elsewhere :
    exec (.composeCancel m) s = .next (s.after (((s.dev.dropStaged m.status).flag Reg.SCT_ERR.compose_cancel).emit (.compMsg m))) := by
  change execComposeCancel m s = _
  rw [execComposeCancel, onServing_after hs]
  simp only [hh, Bool.false_eq_true, if_false]

end Elsewhere

section Head
variable {s : State} {m : CompMsg} {t e st : Nat} (hs : s.dev.serving = true) (hh : s.dev.isHead = true)
include hs hh

theorem exec_composeReq_head : exec (.composeReq m t) s = .next (s.after ((s.dev.advance t).startPass m.newEpoch)) := by
  have hh' : (s.dev.advance t).isHead = true := hh
  change execComposeReq m t s = _
  rw [execComposeReq, onServing_after hs]
  dsimp only
  rw [if_pos hh']

theorem exec_compose_back (hp : s.dev.comp.passMsg = some (0x11, m.newEpoch, st)) :
    exec (.compose m t) s = .next (s.after ((s.dev.advance t).composeBack m.newEpoch m.status m.failPos)) := by
  have hh' : (s.dev.advance t).isHead = true := hh
  have hp' : (s.dev.advance t).comp.passMsg = some (0x11, m.newEpoch, st) := hp
  change execCompose m t s = _
  rw [execCompose, onServing_after hs]
  simp only [hh', hp', if_true]

theorem exec_switch_back (hp : s.dev.comp.passMsg = some (0x12, e, st)) : exec (.switch m t) s = .next (s.after (s.dev.advance t).nextPass) := by
  have hh' : (s.dev.advance t).isHead = true := hh
  have hp' : (s.dev.advance t).comp.passMsg = some (0x12, e, st) := hp
  change execSwitch m t s = _
  rw [execSwitch, onServing_after hs]
  simp only [hh', hp', if_true]

theorem exec_composeCancel_back (hp : s.dev.comp.passMsg = some (0x13, e, st)) : exec (.composeCancel m) s = .next (s.after s.dev.nextPass) := by
  change execComposeCancel m s = _
  rw [execComposeCancel, onServing_after hs]
  simp only [hh, hp, if_true]

end Head

section Timers
variable {s : State} (hs : s.dev.serving = true)
include hs

theorem exec_graceExpiry {t : Nat} (hle : s.dev.comp.graceEnd ≤ max s.dev.now t) :
    exec (.graceExpiry t) s = .next (s.after { s.dev.advance t with comp := { s.dev.comp with graceEnd := 0 } }) := by
  change execGraceExpiry t s = _
  rw [execGraceExpiry, onServing_after hs]
  exact congrArg (fun x => Host.Outcome.next (s.after x)) (if_pos (decide_eq_true hle))

theorem exec_composeResend {t k e st : Nat} (hp : s.dev.comp.passMsg = some (k, e, st)) (hk : k ≠ 0x10) (hle : s.dev.comp.passAt + 10000000 ≤ max s.dev.now t) :
    ∃ u m, exec (.composeResend t) s = .next u ∧ u.dev.out.head? = some (.compMsg m) ∧ m.kind = k ∧ m.newEpoch = e ∧ u.dev.comp.passAt = max s.dev.now t := by
  have hp' : (s.dev.advance t).comp.passMsg = some (k, e, st) := hp
  have hdue : (k != 0x10 && decide ((s.dev.advance t).comp.passAt + ms 10 ≤ (s.dev.advance t).now)) = true := by
    rw [Bool.and_eq_true, bne_iff_ne, decide_eq_true_eq]
    exact ⟨hk, hle⟩
  change ∃ u m, execComposeResend t s = .next u ∧ _
  rw [execComposeResend, onServing_after hs]
  dsimp only
  rw [hp']
  dsimp only
  rw [if_pos hdue]
  refine ⟨_, _, rfl, (congrArg List.head? (State.after_out _ _)).trans rfl, ?_, ?_, ?_⟩
  · split
    · rfl
    · split <;> rfl
  · split
    · rfl
    · split <;> rfl
  · rw [State.after_comp]
    exact congrArg Comp.passAt (Dev.reported_report _ _).comp

theorem exec_mapDrainDone {p : CompMap} (hp : s.dev.comp.prev = some p) (h0 : s.dev.oldCount = 0) : exec .mapDrainDone s =
    .next (s.afterBoth (zeroTails p s.dev.comp.cur s.mem,
      (Dev.completeOpt s.dev.comp.stager ST.OK 0 (Dev.checkShares (Dev.takePends (fun q => q.block == Blk.sct)
        ((Dev.put Reg.SCT_DRAIN.draining 0 { s.dev with comp := { s.dev.comp with prev := none, prevOps := [], lastOld := [], stager := none } }).put
          Reg.SCT_EPOCH.previous 0)))).tryRepair.resumePass)) := by
  change execMapDrainDone s = _
  rw [execMapDrainDone, onServingMem_after hs]
  simp only [hp, h0, if_true]

end Timers

/-- Settles O44: composition completes. -/
theorem compositionComplete : Obligations.CompositionComplete := by
  unfold Obligations.CompositionComplete
  refine fun s t hs => ⟨fun h bytes e d hf => ⟨exec_sectorCompose_staged hs hf, exec_sectorCompose_refused hs hf, exec_sectorCompose_denied hs hf⟩,
    fun m => ⟨exec_composeReq_head hs, exec_composeReq_elsewhere hs⟩, fun m hh hp => exec_compose_draining hs hh hp,
    fun m hh hp => ⟨fun hok => ?_, fun hst hne => ?_⟩, fun m st hh hp => exec_compose_back hs hh hp,
    fun m hh => ⟨fun he hp => ?_, fun he => ?_, exec_composeCancel_elsewhere hs hh⟩,
    fun m e st hh => ⟨exec_switch_back hs hh, exec_composeCancel_back hs hh⟩, fun p hp h0 => exec_mapDrainDone hs hp h0, exec_graceExpiry hs,
    fun k e st hp hk hle => exec_composeResend hs hp hk hle⟩
  · rw [exec_compose_forwards hs hh hp, if_pos (by rw [Bool.or_eq_true, bne_iff_ne, beq_iff_eq]; exact hok.symm)]
  · rw [exec_compose_forwards hs hh hp, if_neg (by rw [Bool.or_eq_true, bne_iff_ne, beq_iff_eq]; tauto)]
  · rw [exec_switch_elsewhere hs hh, if_pos ⟨he, by rw [hp]; rfl⟩]
  · rw [exec_switch_elsewhere hs hh, if_neg (fun h => he h.1)]

/-! ### The switch -/

/-- A register that a switch reads or leaves: the grace period, and the drain. -/
def Fld.offSwitch (f : Fld) : Prop := f.key = Reg.SCT_CFG.grace_ms.key ∨ f.key = Reg.SCT_DRAIN.draining.key

theorem offSwitch_of {f g : Fld} (hf : f.offSwitch) (h : g.key ≠ Reg.SCT_CFG.grace_ms.key ∧ g.key ≠ Reg.SCT_DRAIN.draining.key) : g.key ≠ f.key := by
  rcases hf with e | e
  · rw [e]
    exact h.1
  · rw [e]
    exact h.2

/-- What a switch leaves as it is while it deals with the keys (R464, R473). -/
def Dev.switchSame (f : Fld) (d e : Dev) : Prop := e.comp = d.comp ∧ e.now = d.now ∧ e.get f = d.get f

theorem Dev.switchSame.trans {f : Fld} {a b c : Dev} (h : a.switchSame f b) (k : b.switchSame f c) : a.switchSame f c :=
  ⟨k.1.trans h.1, k.2.1.trans h.2.1, k.2.2.trans h.2.2⟩

theorem Dev.switchSame_ite {f : Fld} {c : Prop} [Decidable c] {d x : Dev} (h : d.switchSame f x) : d.switchSame f (if c then x else d) := by
  split
  · exact h
  · exact ⟨rfl, rfl, rfl⟩

theorem Dev.switchSame_trimUnits (f : Fld) (us : List Nat) (d : Dev) : d.switchSame f (d.trimUnits us) :=
  foldl_keeps (fun e : Dev => d.switchSame f e) (by exact fun e x h => h.trans ⟨rfl, rfl, rfl⟩) _ ⟨rfl, rfl, rfl⟩

section Switch
variable {f : Fld} (hf : f.offSwitch)
include hf

theorem Dev.switchSame_tdiError (t cause : Nat) (d : Dev) : d.switchSame f (d.tdiError t cause) := by
  have hstate : (Reg.SEC_TDI.state t).key ≠ f.key := offSwitch_of hf (by
    simp only [Fld.key, Reg.SEC_TDI.state, Reg.SCT_CFG.grace_ms, Reg.SCT_DRAIN.draining]
    omega)
  have hcause : (Reg.SEC_TDI.cause t).key ≠ f.key := offSwitch_of hf (by
    simp only [Fld.key, Reg.SEC_TDI.cause, Reg.SCT_CFG.grace_ms, Reg.SCT_DRAIN.draining]
    omega)
  have herr : Reg.SEC_ERR.tdi_error.key ≠ f.key := offSwitch_of hf (by decide)
  unfold Dev.tdiError
  dsimp only
  split
  · exact ⟨rfl, rfl, by rw [Dev.get_flag_other herr, Dev.get_put_other hcause, Dev.get_put_other hstate]⟩
  · exact ⟨rfl, rfl, rfl⟩

theorem Dev.switchSame_advanceGen (n : Nat) (d : Dev) : d.switchSame f (d.advanceGen n) := by
  have hgen : (Reg.SEC_KEYGEN.gen n).key ≠ f.key := offSwitch_of hf (by
    simp only [Fld.key, Reg.SEC_KEYGEN.gen, Reg.SCT_CFG.grace_ms, Reg.SCT_DRAIN.draining]
    omega)
  exact ⟨rfl, rfl, (Dev.get_put_other hgen _ (d.norUpd _)).trans rfl⟩

theorem Dev.switchSame_sectorTdis (n cause : Nat) (d : Dev) : d.switchSame f (d.sectorTdis n cause) :=
  (Dev.switchSame_tdiError hf n cause d).trans (Dev.switchSame_tdiError hf (16 + n) cause _)

theorem Dev.switchSame_switchKeys (a b : CompMap) (d : Dev) : d.switchSame f (d.switchKeys a b) := by
  refine foldl_keeps (fun e : Dev => d.switchSame f e) (fun e n h => h.trans ?_) (List.range 16) ⟨rfl, rfl, rfl⟩
  exact (Dev.switchSame_ite (((Dev.switchSame_advanceGen hf n e).trans (Dev.switchSame_trimUnits f _ _)).trans (Dev.switchSame_sectorTdis hf n 3 _))).trans
    (Dev.switchSame_ite (Dev.switchSame_sectorTdis hf n 2 _))

end Switch

/-- What the views show of one Sector (R361). -/
def Dev.showSector (d : Dev) (e : Nat × SectorDesc) : Dev :=
  let s := if e.2.present then e.2 else SectorDesc.absent
  let d := ((d.put (Reg.SCT_CORES.cores e.1) s.cores).put (Reg.SCT_INFO.present e.1) (b2n s.present)).put (Reg.SCT_INFO.sealed e.1) (b2n s.isSealed)
  let d := (d.put (Reg.SCT_INFO.user_counters e.1) (b2n s.userCounters)).put (Reg.SCT_INFO.t1_chunks e.1) s.t1Chunks
  let d := (d.put (Reg.SCT_S_INFO.sector e.1) e.1).put (Reg.SCT_S_INFO.epoch e.1) d.comp.cur.epoch
  d.put (Reg.SCT_S_INFO.cores e.1) ((List.range 32).filter (fun c => s.cores.testBit c)).length

theorem Dev.showMap_eq (d : Dev) :
    d.showMap = ((List.range 16).zip d.comp.cur.sects).foldl Dev.showSector (d.checkRanges.put Reg.SCT_EPOCH.current d.comp.cur.epoch) := by
  have hcomp : (d.checkRanges.put Reg.SCT_EPOCH.current d.comp.cur.epoch).comp = d.comp := by
    unfold Dev.checkRanges
    split <;> rfl
  rw [Dev.showMap]
  dsimp only
  rw [hcomp]
  rfl

theorem Dev.showSector_comp (d : Dev) (e : Nat × SectorDesc) : (d.showSector e).comp = d.comp := by
  simp only [Dev.showSector, Dev.put_comp]

theorem Dev.get_showSector_draining (d : Dev) (e : Nat × SectorDesc) : (d.showSector e).get Reg.SCT_DRAIN.draining = d.get Reg.SCT_DRAIN.draining := by
  have hput (f : Fld) (h : f.key ≠ Reg.SCT_DRAIN.draining.key) (v : Nat) (e : Dev) : (e.put f v).get Reg.SCT_DRAIN.draining = e.get Reg.SCT_DRAIN.draining :=
    Dev.get_put_other h v e
  rw [Dev.showSector]
  rw [hput, hput, hput, hput, hput, hput, hput, hput]
  all_goals
    simp only [Fld.key, Reg.SCT_DRAIN.draining, Reg.SCT_CORES.cores, Reg.SCT_INFO.present, Reg.SCT_INFO.sealed, Reg.SCT_INFO.user_counters,
      Reg.SCT_INFO.t1_chunks, Reg.SCT_S_INFO.sector, Reg.SCT_S_INFO.epoch, Reg.SCT_S_INFO.cores]
    omega

theorem Dev.get_showMap_draining (d : Dev) : d.showMap.get Reg.SCT_DRAIN.draining = d.get Reg.SCT_DRAIN.draining := by
  have hranges : d.checkRanges.get Reg.SCT_DRAIN.draining = d.get Reg.SCT_DRAIN.draining := get_ite (Dev.get_flag_other (by decide) d) rfl
  rw [Dev.showMap_eq]
  refine foldl_keeps (fun e : Dev => e.get Reg.SCT_DRAIN.draining = d.get Reg.SCT_DRAIN.draining)
    (fun e x h => (e.get_showSector_draining x).trans h) _ ?_
  rw [Dev.get_put_other (by decide), hranges]

@[simp] theorem Dev.showMap_comp (d : Dev) : d.showMap.comp = d.comp := by
  rw [Dev.showMap_eq]
  refine foldl_keeps (fun e : Dev => e.comp = d.comp) (fun e x h => (e.showSector_comp x).trans h) _ ?_
  unfold Dev.checkRanges
  split <;> rfl

/-- Settles O45: after a switch the current, the former and the staged map, the grace period and the drain. -/
theorem switchKeepsBothMaps : Obligations.SwitchKeepsBothMaps := by
  unfold Obligations.SwitchKeepsBothMaps
  intro epoch last d m hm
  have hgrace : (Reg.SCT_CFG.grace_ms).offSwitch := Or.inl rfl
  have hdrain : (Reg.SCT_DRAIN.draining).offSwitch := Or.inr rfl
  obtain ⟨hcomp, hnow, hms⟩ := Dev.switchSame_switchKeys hgrace d.comp.cur m ((d.put Reg.SCT_EPOCH.previous d.comp.cur.epoch).put Reg.SCT_DRAIN.draining 1)
  obtain ⟨-, -, hdr⟩ := Dev.switchSame_switchKeys hdrain d.comp.cur m ((d.put Reg.SCT_EPOCH.previous d.comp.cur.epoch).put Reg.SCT_DRAIN.draining 1)
  rw [Dev.switchMap]
  simp only [hm, Dev.showMap_comp, Dev.get_showMap_draining]
  refine ⟨trivial, ?_, trivial, ?_, ?_⟩
  · rw [hcomp]
    rfl
  · rw [hnow, hms, Dev.get_put_other (by decide), Dev.get_put_other (by decide)]
    rfl
  · refine hdr.trans ((Dev.get_put_same _ _ _).trans rfl)

end Sys2Proof.Machine
end

section
/-! PROOFS. The Lens, the stacks and the flash translation layer (R366 to R448). -/
namespace Sys2Proof.Machine

@[simp] theorem State.after_lens (s : State) (d : Dev) : (s.after d).dev.lens = d.lens := sendFrames_lens s.dev d
@[simp] theorem State.after_media (s : State) (d : Dev) : (s.after d).dev.media = d.media := sendFrames_media s.dev d

/-! ### The sampler -/

/-- What a sweep leaves as it is: its period (R381). -/
def Dev.periodSame (d e : Dev) : Prop :=
  e.now = d.now ∧ e.committed = d.committed ∧ e.get Reg.LENS_SAMP_CFG.interval = d.get Reg.LENS_SAMP_CFG.interval

theorem Dev.periodSame_sampleRecord (v : Nat) (d : Dev) : d.periodSame (d.sampleRecord v) := by
  have hdrop : d.periodSame ((d.bump Reg.LENS_SAMP_DROP.value 1).flag Reg.LENS_ERR.samp_drop) :=
    ⟨rfl, rfl, by rw [Dev.get_flag_other (by decide), Dev.get_bump_other (by decide)]⟩
  unfold Dev.sampleRecord
  dsimp only
  split
  · exact hdrop
  · split
    · exact hdrop
    · exact ⟨rfl, rfl, (Dev.get_emit ..).trans (Dev.get_put_other (by decide) _ _)⟩

theorem Dev.periodSame_lensSweep (d : Dev) : d.periodSame d.lensSweep := by
  refine foldl_keeps (fun e : Dev => d.periodSame e) (fun e x h => ?_) _ (d.periodSame_sampleRecord _)
  obtain ⟨hn, hc, hi⟩ := e.periodSame_sampleRecord (e.sampleOf x.1 x.2)
  exact ⟨hn.trans h.1, hc.trans h.2.1, hi.trans h.2.2⟩

theorem Dev.sweepPeriod_of_same {d e : Dev} (h : d.periodSame e) : e.sweepPeriod = d.sweepPeriod := by
  obtain ⟨-, hc, hi⟩ := h
  rw [Dev.sweepPeriod, Dev.sweepPeriod, Dev.orZero, Dev.orZero, Dev.slotW, Dev.slotW, Dev.com, Dev.com, hc, hi]

section Sampler
variable {s : State} {t : Nat} (hs : s.dev.serving = true)
include hs

theorem exec_lensSlotVisit (slot : Nat) : exec (.lensSlotVisit slot t) s = .next (s.after ((s.dev.advance t).visitSlot slot)) := by
  change execLensSlotVisit slot t s = _
  rw [execLensSlotVisit, onServing_after hs]

theorem exec_sampleSweep_off (h0 : s.dev.get Reg.LENS_SAMP_CFG.enable = 0) : exec (.sampleSweep t) s = .next (s.after (s.dev.advance t)) := by
  have h0' : (s.dev.advance t).get Reg.LENS_SAMP_CFG.enable = 0 := h0
  change execSampleSweep t s = _
  rw [execSampleSweep, onServing_after hs]
  dsimp only
  rw [if_neg (by rw [h0']; simp)]

theorem exec_sampleSweep_due (h1 : s.dev.get Reg.LENS_SAMP_CFG.enable = 1) (hle : s.dev.lens.sweepAt ≤ max s.dev.now t) :
    ∃ u, exec (.sampleSweep t) s = .next u ∧ u.dev.lens.sweepAt = max s.dev.now t + s.dev.sweepPeriod := by
  have h1' : (s.dev.advance t).get Reg.LENS_SAMP_CFG.enable = 1 := h1
  have hdue : ((s.dev.advance t).get Reg.LENS_SAMP_CFG.enable == 1 && decide ((s.dev.advance t).lens.sweepAt ≤ (s.dev.advance t).now)) = true := by
    rw [h1', Bool.and_eq_true, decide_eq_true_eq]
    exact ⟨rfl, hle⟩
  have hsame := (s.dev.advance t).periodSame_lensSweep
  change ∃ u, execSampleSweep t s = .next u ∧ _
  rw [execSampleSweep, onServing_after hs]
  refine ⟨_, rfl, ?_⟩
  rw [State.after_lens]
  dsimp only
  rw [if_pos hdue]
  dsimp only
  rw [hsame.1, Dev.sweepPeriod_of_same hsame]
  rfl

end Sampler

/-! ### Stacks -/

/-- A register of a stack is a plain one, that no report changes. -/
theorem plain_stack {i : Nat} (h : i < 12) : (Reg.STK_STATUS.temp i).plain ∧ (Reg.STK_STATUS.refresh_2x i).plain ∧ (Reg.STK_STATUS.halted i).plain ∧
    (Reg.STK_SPARE.busy i).plain ∧ (Reg.STK_ERR.spare_done i).plain := by
  simp only [Fld.plain, Fld.key, Reg.STK_STATUS.temp, Reg.STK_STATUS.refresh_2x, Reg.STK_STATUS.halted, Reg.STK_SPARE.busy, Reg.STK_ERR.spare_done]
  omega

theorem plain_channel {i c : Nat} (h : i < 12) (hc : c < 128) : (Reg.STK_CH.state i c).plain ∧ (Reg.STK_CH.slot i c).plain := by
  simp only [Fld.plain, Fld.key, Reg.STK_CH.state, Reg.STK_CH.slot]
  omega

/-- The fields of STK_STATUS are apart. -/
theorem key_stackStatus (i : Nat) : (Reg.STK_STATUS.temp i).key ≠ (Reg.STK_STATUS.refresh_2x i).key ∧
    (Reg.STK_STATUS.refresh_2x i).key ≠ (Reg.STK_STATUS.temp i).key ∧ (Reg.STK_STATUS.halted i).key ≠ (Reg.STK_STATUS.temp i).key ∧
    (Reg.STK_STATUS.halted i).key ≠ (Reg.STK_STATUS.refresh_2x i).key ∧ (Reg.STK_STATUS.temp i).key ≠ (Reg.STK_STATUS.halted i).key ∧
    (Reg.STK_STATUS.refresh_2x i).key ≠ (Reg.STK_STATUS.halted i).key := by
  simp only [Fld.key, Reg.STK_STATUS.temp, Reg.STK_STATUS.refresh_2x, Reg.STK_STATUS.halted]
  omega

/-- What a reading leaves in a register that a report does not change: the register after the sensor and the halt are set (R423). -/
theorem Dev.get_stackTemp {f : Fld} (hf : f.plain) (stack temp : Nat) (d : Dev) : (d.stackTemp stack temp).get f =
    (if temp < 100 then ((d.put (Reg.STK_STATUS.temp stack) (min temp 255)).put (Reg.STK_STATUS.refresh_2x stack) (b2n (decide (85 < temp)))).put
        (Reg.STK_STATUS.halted stack) 0
      else if 110 < temp ∧ d.get (Reg.STK_STATUS.halted stack) ≠ 1 then
        ((d.put (Reg.STK_STATUS.temp stack) (min temp 255)).put (Reg.STK_STATUS.refresh_2x stack) (b2n (decide (85 < temp)))).put (Reg.STK_STATUS.halted stack) 1
      else (d.put (Reg.STK_STATUS.temp stack) (min temp 255)).put (Reg.STK_STATUS.refresh_2x stack) (b2n (decide (85 < temp)))).get f := by
  have hcond : (decide (110 < temp) && !(d.get (Reg.STK_STATUS.halted stack) == 1)) = true ↔ 110 < temp ∧ d.get (Reg.STK_STATUS.halted stack) ≠ 1 := by
    simp
  rw [Dev.stackTemp]
  by_cases hcold : temp < 100
  · rw [if_pos hcold, if_pos hcold]
  · rw [if_neg hcold, if_neg hcold]
    by_cases hhot : 110 < temp ∧ d.get (Reg.STK_STATUS.halted stack) ≠ 1
    · rw [if_pos hhot, if_pos (hcond.mpr hhot), Dev.get_reportUnit hf]
    · rw [if_neg hhot, if_neg (fun h => hhot (hcond.mp h))]

theorem exec_stackTempEvent {s : State} {stack temp : Nat} (hs : s.dev.serving = true) (hi : stack < 12) (ht : temp < 256) :
    ∃ u, exec (.stackTempEvent stack temp) s = .next u ∧ u.dev.get (Reg.STK_STATUS.temp stack) = temp ∧
      u.dev.get (Reg.STK_STATUS.refresh_2x stack) = (if 85 < temp then 1 else 0) ∧
      u.dev.get (Reg.STK_STATUS.halted stack) = (if temp < 100 then 0 else if 110 < temp ∧ s.dev.get (Reg.STK_STATUS.halted stack) ≠ 1 then 1
        else s.dev.get (Reg.STK_STATUS.halted stack)) := by
  obtain ⟨htr, hrt, hht, hhr, hth, hrh⟩ := key_stackStatus stack
  obtain ⟨hpt, hpr, hph, -, -⟩ := plain_stack hi
  have htemp : ((s.dev.put (Reg.STK_STATUS.temp stack) (min temp 255)).put (Reg.STK_STATUS.refresh_2x stack) (b2n (decide (85 < temp)))).get
      (Reg.STK_STATUS.temp stack) = temp := by
    rw [Dev.get_put_other hrt, Dev.get_put_same, show min temp 255 = temp by omega]
    exact Nat.mod_eq_of_lt ht
  have hrefresh : ((s.dev.put (Reg.STK_STATUS.temp stack) (min temp 255)).put (Reg.STK_STATUS.refresh_2x stack) (b2n (decide (85 < temp)))).get
      (Reg.STK_STATUS.refresh_2x stack) = if 85 < temp then 1 else 0 := by
    rw [Dev.get_put_same]
    by_cases h : 85 < temp
    · rw [decide_eq_true h, if_pos h]
      rfl
    · rw [decide_eq_false h, if_neg h]
      rfl
  change ∃ u, execStackTempEvent stack temp s = .next u ∧ _
  rw [execStackTempEvent, onServing_after hs]
  refine ⟨_, rfl, ?_, ?_, ?_⟩
  · rw [State.after_get, Dev.get_stackTemp hpt]
    exact get_ite ((Dev.get_put_other hht _ _).trans htemp) (get_ite ((Dev.get_put_other hht _ _).trans htemp) htemp)
  · rw [State.after_get, Dev.get_stackTemp hpr]
    exact get_ite ((Dev.get_put_other hhr _ _).trans hrefresh) (get_ite ((Dev.get_put_other hhr _ _).trans hrefresh) hrefresh)
  · rw [State.after_get, Dev.get_stackTemp hph]
    by_cases hcold : temp < 100
    · rw [if_pos hcold, if_pos hcold, Dev.get_put_same]
      rfl
    · rw [if_neg hcold, if_neg hcold]
      by_cases hhot : 110 < temp ∧ s.dev.get (Reg.STK_STATUS.halted stack) ≠ 1
      · rw [if_pos hhot, if_pos hhot, Dev.get_put_same]
        rfl
      · rw [if_neg hhot, if_neg hhot, Dev.get_put_other hrh, Dev.get_put_other hth]

section Scrub
variable {s : State} {stack chan corrected : Nat} {poison nodes mac : List Nat} {pin retrain : Bool} (hs : s.dev.serving = true)
include hs

theorem exec_scrubPass : exec (.scrubPass stack chan corrected poison nodes mac pin retrain) s =
    .next (s.after (s.dev.scrub stack chan corrected poison nodes mac pin retrain)) := by
  change execScrubPass stack chan corrected poison nodes mac pin retrain s = _
  rw [execScrubPass, onServing_after hs]

end Scrub

theorem key_channelStates {i c k : Nat} (h : c ≠ k) : (Reg.STK_CH.state i c).key ≠ (Reg.STK_CH.state i k).key ∧
    (Reg.STK_CH.slot i c).key ≠ (Reg.STK_CH.slot i k).key := by
  simp only [Fld.key, Reg.STK_CH.state, Reg.STK_CH.slot]
  omega

theorem key_channelApart (i c k : Nat) : (Reg.STK_CH.state i c).key ≠ (Reg.STK_CH.slot i k).key ∧ (Reg.STK_CH.slot i c).key ≠ (Reg.STK_CH.state i k).key := by
  simp only [Fld.key, Reg.STK_CH.state, Reg.STK_CH.slot]
  omega

/-- STK_SPARE and STK_ERR are apart from the channels' fields. -/
theorem key_spareApart (i c : Nat) : (Reg.STK_SPARE.channel i).key ≠ (Reg.STK_CH.state i c).key ∧ (Reg.STK_SPARE.channel i).key ≠ (Reg.STK_CH.slot i c).key ∧
    (Reg.STK_SPARE.busy i).key ≠ (Reg.STK_CH.state i c).key ∧ (Reg.STK_SPARE.busy i).key ≠ (Reg.STK_CH.slot i c).key ∧
    (Reg.STK_SPARE.progress i).key ≠ (Reg.STK_CH.state i c).key ∧ (Reg.STK_SPARE.progress i).key ≠ (Reg.STK_CH.slot i c).key ∧
    (Reg.STK_ERR.spare_done i).key ≠ (Reg.STK_CH.state i c).key ∧ (Reg.STK_ERR.spare_done i).key ≠ (Reg.STK_CH.slot i c).key := by
  simp only [Fld.key, Reg.STK_CH.state, Reg.STK_CH.slot, Reg.STK_SPARE.channel, Reg.STK_SPARE.busy, Reg.STK_SPARE.progress, Reg.STK_ERR.spare_done]
  omega

theorem key_spare (i : Nat) : (Reg.STK_SPARE.progress i).key ≠ (Reg.STK_SPARE.busy i).key ∧ (Reg.STK_SPARE.spare i).key ≠ (Reg.STK_SPARE.busy i).key ∧
    (Reg.STK_ERR.spare_done i).key ≠ (Reg.STK_SPARE.busy i).key := by
  simp only [Fld.key, Reg.STK_SPARE.progress, Reg.STK_SPARE.busy, Reg.STK_SPARE.spare, Reg.STK_ERR.spare_done]
  omega

/-- A sparing copy that may start runs (R431, R432). -/
theorem Dev.startSparing_starts {stack chan c : Nat} {d : Dev} (hc : d.freeSpare stack = some c) (hno : (d.stack stack).sparing = none)
    (h0 : d.get (Reg.STK_CH.state stack chan) = 0) :
    ((d.startSparing stack chan).stack stack).sparing = some ⟨chan, c, d.slotOfChan stack chan⟩ ∧
      (d.startSparing stack chan).get (Reg.STK_SPARE.busy stack) = 1 := by
  obtain ⟨hpb, hsb, -⟩ := key_spare stack
  have hmay : ((d.stack stack).sparing.isNone && d.get (Reg.STK_CH.state stack chan) == 0) = true := by
    rw [hno, h0]
    rfl
  rw [Dev.startSparing]
  simp only [hc]
  rw [if_pos hmay]
  refine ⟨?_, ?_⟩
  · exact congrArg Stack.sparing (Tab.getD_put_same _ _ _ _)
  · rw [Dev.get_put_other hsb, Dev.get_put_other hpb, Dev.get_put_same]
    rfl

theorem exec_stkSpareStart {s : State} {m : Master} {stack chan c : Nat} (hs : s.dev.serving = true) (hchan : chan < 128) (ho : s.dev.owner = m.code)
    (hc : s.dev.freeSpare stack = some c) (hno : (s.dev.stack stack).sparing = none) (h0 : s.dev.get (Reg.STK_CH.state stack chan) = 0) :
    ∃ u, exec (.stkSpareStart m stack chan) s = .next u ∧ (u.dev.stack stack).sparing = some ⟨chan, c, s.dev.slotOfChan stack chan⟩ ∧
      u.dev.get (Reg.STK_SPARE.busy stack) = 1 := by
  have hget (k : Nat) : (s.dev.put (Reg.STK_SPARE.channel stack) chan).get (Reg.STK_CH.state stack k) = s.dev.get (Reg.STK_CH.state stack k) :=
    Dev.get_put_other (key_spareApart stack k).1 _ _
  have hc' : (s.dev.put (Reg.STK_SPARE.channel stack) chan).freeSpare stack = some c := by
    rw [Dev.freeSpare]
    simp only [hget]
    exact hc
  have hslot : (s.dev.put (Reg.STK_SPARE.channel stack) chan).slotOfChan stack chan = s.dev.slotOfChan stack chan :=
    Dev.get_put_other (key_spareApart stack chan).2.1 _ _
  obtain ⟨hsp, hbusy⟩ := Dev.startSparing_starts (d := s.dev.put (Reg.STK_SPARE.channel stack) chan) hc' hno ((hget chan).trans h0)
  change ∃ u, execStkSpareStart m stack chan s = .next u ∧ _
  rw [execStkSpareStart, onServing_after hs, Dev.ownerWrite_owner ho, show wrap 7 chan = chan from Nat.mod_eq_of_lt hchan]
  refine ⟨_, rfl, ?_, ?_⟩
  · rw [hslot] at hsp
    rw [Dev.stack, State.after_media]
    exact hsp
  · rw [State.after_get]
    exact hbusy

/-- The registers when a sparing copy has ended (R432, R449). -/
def Dev.sparedRegs (stack : Nat) (x : Sparing) (d : Dev) : Dev :=
  (((((((d.put (Reg.STK_CH.state stack x.spare) 0).put (Reg.STK_CH.slot stack x.spare) x.slot).put (Reg.STK_CH.state stack x.chan) 3).put
    (Reg.STK_CH.slot stack x.chan) 0x7F).put (Reg.STK_SPARE.busy stack) 0).put (Reg.STK_SPARE.progress stack) 100).flag (Reg.STK_ERR.spare_done stack))

theorem Dev.spareDone_eq {stack : Nat} {x : Sparing} {d : Dev} (hx : (d.stack stack).sparing = some x) : d.spareDone stack =
    (((d.stkUpd stack (fun s => { s with sparing := none })).sparedRegs stack x).reportUnit 0x3 (128 * stack + x.chan) 1).bump Reg.FOG_REP_CHANNEL.count 1 := by
  rw [Dev.spareDone]
  simp only [hx]
  rfl

theorem Dev.get_spareDone {stack : Nat} {x : Sparing} {d : Dev} {f : Fld} (hx : (d.stack stack).sparing = some x) (hf : f.plain) :
    (d.spareDone stack).get f = (d.sparedRegs stack x).get f := by
  rw [Dev.spareDone_eq hx, hf.bump (f := Reg.FOG_REP_CHANNEL.count) (not_plain_of_le (by decide)), Dev.get_reportUnit hf]
  rfl

theorem Dev.sparedRegs_media (stack : Nat) (x : Sparing) (d : Dev) : (d.sparedRegs stack x).media = d.media := by
  simp only [Dev.sparedRegs, Dev.flag, Dev.put_media]

theorem Dev.spareDone_sparing {stack : Nat} {x : Sparing} {d : Dev} (hx : (d.stack stack).sparing = some x) :
    ((d.spareDone stack).stack stack).sparing = none := by
  have hmedia : (d.spareDone stack).media = (d.stkUpd stack (fun s => { s with sparing := none })).media := by
    rw [Dev.spareDone_eq hx, Dev.bump_media, Dev.reportUnit, (Dev.reported_report _ _).media, Dev.sparedRegs_media]
  rw [Dev.stack, hmedia]
  exact congrArg Stack.sparing (Tab.getD_put_same _ _ _ _)

section SpareDone
variable {stack : Nat} {x : Sparing} (hne : x.chan ≠ x.spare) (d : Dev)
include hne

theorem Dev.get_spared_slot (hs : x.slot < 128) : (d.sparedRegs stack x).get (Reg.STK_CH.slot stack x.spare) = x.slot := by
  obtain ⟨-, -, -, hbusy, -, hprog, -, herr⟩ := key_spareApart stack x.spare
  rw [Dev.sparedRegs, Dev.get_flag_other herr, Dev.get_put_other hprog, Dev.get_put_other hbusy, Dev.get_put_other (key_channelStates hne).2,
    Dev.get_put_other (key_channelApart stack x.chan x.spare).1, Dev.get_put_same]
  exact Nat.mod_eq_of_lt hs

theorem Dev.get_spared_state : (d.sparedRegs stack x).get (Reg.STK_CH.state stack x.spare) = 0 := by
  obtain ⟨-, -, hbusy, -, hprog, -, herr, -⟩ := key_spareApart stack x.spare
  rw [Dev.sparedRegs, Dev.get_flag_other herr, Dev.get_put_other hprog, Dev.get_put_other hbusy, Dev.get_put_other (key_channelApart stack x.chan x.spare).2,
    Dev.get_put_other (key_channelStates hne).1, Dev.get_put_other (key_channelApart stack x.spare x.spare).2, Dev.get_put_same]
  rfl

end SpareDone

theorem Dev.get_spared_failed (stack : Nat) (x : Sparing) (d : Dev) : (d.sparedRegs stack x).get (Reg.STK_CH.state stack x.chan) = 3 := by
  obtain ⟨-, -, hbusy, -, hprog, -, herr, -⟩ := key_spareApart stack x.chan
  rw [Dev.sparedRegs, Dev.get_flag_other herr, Dev.get_put_other hprog, Dev.get_put_other hbusy, Dev.get_put_other (key_channelApart stack x.chan x.chan).2,
    Dev.get_put_same]
  rfl

theorem exec_channelSpareDone {s : State} {stack : Nat} {x : Sparing} (hs : s.dev.serving = true) (hi : stack < 12)
    (hx : (s.dev.stack stack).sparing = some x) (hne : x.chan ≠ x.spare) (hchan : x.chan < 128) (hspare : x.spare < 128) (hslot : x.slot < 128) :
    ∃ u, exec (.channelSpareDone stack) s = .next u ∧ (u.dev.stack stack).sparing = none ∧ u.dev.get (Reg.STK_CH.slot stack x.spare) = x.slot ∧
      u.dev.get (Reg.STK_CH.state stack x.spare) = 0 ∧ u.dev.get (Reg.STK_CH.state stack x.chan) = 3 ∧ u.dev.get (Reg.STK_SPARE.busy stack) = 0 ∧
      u.dev.get (Reg.STK_ERR.spare_done stack) = 1 := by
  obtain ⟨-, -, -, hbusy, herr⟩ := plain_stack hi
  obtain ⟨hpb, -, heb⟩ := key_spare stack
  change ∃ u, execChannelSpareDone stack s = .next u ∧ _
  rw [execChannelSpareDone, onServing_after hs]
  refine ⟨_, rfl, ?_, ?_, ?_, ?_, ?_, ?_⟩
  · rw [Dev.stack, State.after_media]
    exact Dev.spareDone_sparing hx
  · rw [State.after_get, Dev.get_spareDone hx (plain_channel hi hspare).2, Dev.get_spared_slot hne _ hslot]
  · rw [State.after_get, Dev.get_spareDone hx (plain_channel hi hspare).1, Dev.get_spared_state hne]
  · rw [State.after_get, Dev.get_spareDone hx (plain_channel hi hchan).1, Dev.get_spared_failed]
  · rw [State.after_get, Dev.get_spareDone hx hbusy, Dev.sparedRegs, Dev.get_flag_other heb, Dev.get_put_other hpb, Dev.get_put_same]
    rfl
  · rw [State.after_get, Dev.get_spareDone hx herr]
    exact (Dev.get_put_same _ _ _).trans rfl

/-- Settles O46: the calendar's visits, the sampler, and the stacks' events. -/
theorem lensAndStacksComplete : Obligations.LensAndStacksComplete := by
  unfold Obligations.LensAndStacksComplete
  refine ⟨fun s t hs => ⟨exec_lensSlotVisit hs, exec_sampleSweep_due hs, exec_sampleSweep_off hs⟩,
    fun s stack hs hi => ⟨fun temp ht => exec_stackTempEvent hs hi ht, fun chan corrected poison nodes mac pin retrain hc => ⟨fun h0 => ?_, fun hon => ?_⟩,
      fun m chan c hchan ho hc hno h0 => exec_stkSpareStart hs hchan ho hc hno h0,
      fun x hx hne hchan hspare hslot => exec_channelSpareDone hs hi hx hne hchan hspare hslot⟩⟩
  · rw [exec_scrubPass hs, Dev.scrub, if_pos h0]
  · rw [exec_scrubPass hs, Dev.scrub, if_neg hon]

end Sys2Proof.Machine
end

section
/-! PROOFS. The flash translation layer (R436 to R448). -/
namespace Sys2Proof.Machine

section Flash
variable {s : State} {t lun : Nat} (hs : s.dev.serving = true)
include hs

/-- FLASH_PROGRAM_DONE runs on the channel that is next (R439). -/
theorem exec_flashProgramDone {sector e key c : Nat} {ok : Bool} (hk : (s.dev.advance t).extentKey sector e = some key)
    (hc : (s.dev.advance t).nextChan sector = some c) : exec (.flashProgramDone sector e t ok) s = .next (s.after
      (((s.dev.advance t).flUpd (fun f => { f with lastChan := Tab.put sector c f.lastChan })).programExtent c e key ok)) := by
  change execFlashProgramDone sector e t ok s = _
  rw [execFlashProgramDone, onServing_after hs]
  simp only [hk, hc]

/-- A collection with no victim, or with enough free groups, only trims (R440, R441). -/
theorem exec_flashGc_idle {bad : List Nat} {ok : Bool} {d : Dev} (hd : d = (s.dev.advance t).trim)
    (hno : (d.freeGroups lun).length < d.get Reg.FLS_CFG.gc_low → d.gcVictim lun = none) : exec (.flashGc lun bad ok t) s = .next (s.after d) := by
  change execFlashGc lun bad ok t s = _
  rw [execFlashGc, onServing_after hs]
  dsimp only
  rw [← hd]
  split
  · next h =>
    rw [Bool.and_eq_true, decide_eq_true_eq] at h
    rw [hno h.2]
  · rfl

section Active
variable {d : Dev} (hd : d = (s.dev.advance t).trim) (ha : d.lunActive lun = true)
include hd ha

theorem exec_flashGc_victim {bad : List Nat} {ok : Bool} {g : Nat} (hlow : (d.freeGroups lun).length < d.get Reg.FLS_CFG.gc_low) (hg : d.gcVictim lun = some g) :
    exec (.flashGc lun bad ok t) s = .next (s.after
      (if (d.extentsIn lun g).any (fun e => bad.contains e) then d.retireGroup lun g bad
      else if ((d.relocateGroup lun g bad).extentsIn lun g).all (fun e => (d.relocateGroup lun g bad).media.flash.failed.contains e) then
        (d.relocateGroup lun g bad).eraseGroup lun g ok else d.relocateGroup lun g bad)) := by
  change execFlashGc lun bad ok t s = _
  rw [execFlashGc, onServing_after hs]
  dsimp only
  rw [← hd, ha, decide_eq_true hlow, if_pos (by rfl), hg]

theorem exec_wearLevel_spread {g : Nat}
    (hlt : d.get Reg.FLS_CFG2.wl_spread + (d.eraseCounts lun).foldl min ((d.eraseCounts lun).headD 0) < (d.eraseCounts lun).foldl max 0)
    (hg : bestBy false (fun g => (d.blockGroup lun g).erases) ((d.groupsOf lun).filter (fun g => !(d.extentsIn lun g).isEmpty)) = some g) :
    exec (.wearLevel lun t) s = .next (s.after (d.relocateGroup lun g [])) := by
  change execWearLevel lun t s = _
  rw [execWearLevel, onServing_after hs]
  dsimp only
  rw [← hd, ha, decide_eq_true hlt, if_pos (by rfl), hg]

theorem exec_wearLevel_even
    (hle : (d.eraseCounts lun).foldl max 0 ≤ d.get Reg.FLS_CFG2.wl_spread + (d.eraseCounts lun).foldl min ((d.eraseCounts lun).headD 0)) :
    exec (.wearLevel lun t) s = .next (s.after d) := by
  change execWearLevel lun t s = _
  rw [execWearLevel, onServing_after hs]
  dsimp only
  rw [← hd, ha, decide_eq_false (Nat.not_lt.mpr hle), if_neg (by decide)]

end Active

section Reads
variable {g : Nat} {weak : Bool} (ha : (s.dev.advance t).lunActive lun = true)
include ha

/-- Reads of a block group are counted, and at the limit, or after a weak one, its extents move (R446). -/
theorem exec_readDisturbRelocate {reads : Nat} {d : Dev} (hd : d = (s.dev.advance t).groupUpd lun g (fun b => { b with reads := b.reads + reads })) :
    exec (.readDisturbRelocate lun g reads weak t) s = .next (s.after
      (if weak || decide ((if s.dev.get Reg.FLS_CFG.rd_limit_k = 0 then 65536 else s.dev.get Reg.FLS_CFG.rd_limit_k) * 1000 ≤ (d.blockGroup lun g).reads) then
        (d.relocateGroup lun g []).groupUpd lun g (fun b => { b with reads := 0 }) else d)) := by
  change execReadDisturbRelocate lun g reads weak t s = _
  rw [execReadDisturbRelocate, onServing_after hs]
  dsimp only
  rw [if_pos ha, ← hd]
  subst hd
  rfl

/-- A scan of a block group (R447, R448). -/
theorem exec_retentionScan {bad : List Nat} (hr : s.dev.get Reg.FLS_CFG.retention_days ≠ 0) : exec (.retentionScan lun g weak bad t) s = .next (s.after
    (if !bad.isEmpty then (s.dev.advance t).retireGroup lun g bad
    else if weak then ((s.dev.advance t).relocateGroup lun g []).groupUpd lun g (fun b => { b with reads := 0 }) else s.dev.advance t)) := by
  have hr' : ((s.dev.advance t).lunActive lun && (s.dev.advance t).get Reg.FLS_CFG.retention_days != 0) = true := by
    rw [ha, Bool.true_and, bne_iff_ne]
    exact hr
  change execRetentionScan lun g weak bad t s = _
  rw [execRetentionScan, onServing_after hs]
  dsimp only
  rw [if_pos hr']

end Reads

theorem exec_flashChannelLost {chan : Nat} (h1 : s.dev.get (Reg.FLS_CH.state chan) = 1) : exec (.flashChannelLost chan) s = .next (s.after
    (((s.dev.put (Reg.FLS_CH.state chan) 2).flag Reg.FLS_ERR.channel_lost).reportUnit 0x5 chan 2)) := by
  change execFlashChannelLost chan s = _
  rw [execFlashChannelLost, onServing_after hs, if_pos (by rw [h1]; rfl)]

end Flash

/-- A program that succeeds at the pages taken (R439). -/
theorem Dev.programExtent_ok {chan e key l g p : Nat} {d d' : Dev} (hl : Dev.pickLun chan (d.flUpd (fun f => { f with seq := d.media.flash.seq + 1 })) = some l)
    (hp : Dev.takePages l (d.flUpd (fun f => { f with seq := d.media.flash.seq + 1 })) = some (g, p, d')) :
    d.programExtent chan e key true = d'.programAt l g p e (d.media.flash.seq + 1) key := by
  rw [Dev.programExtent]
  simp only [hl, hp, if_true]

/-- Settles O47: the translation layer's events. -/
theorem flashComplete : Obligations.FlashComplete := by
  unfold Obligations.FlashComplete
  refine fun s t hs => ⟨fun sector e key c l g p d' hk hc hl hp => ?_, fun lun bad ok d hd ha => ⟨fun _ hv => exec_flashGc_idle hs hd (fun _ => hv),
      fun hle => exec_flashGc_idle hs hd (fun h => absurd h (Nat.not_lt.mpr hle)), fun g hlow hg => ⟨fun hbad => ?_, fun hbad hall => ?_⟩,
      fun g hlt hg => exec_wearLevel_spread hs hd ha hlt hg, exec_wearLevel_even hs hd ha⟩,
    fun lun g reads weak d ha hd => ⟨fun hdue => ?_, fun hweak hlt => ?_⟩,
    fun lun g weak bad ha hr => ⟨fun hbad => ?_, fun hbad hweak => ?_, fun hbad hweak => ?_⟩, ?_, fun chan h1 => exec_flashChannelLost hs h1⟩
  · rw [exec_flashProgramDone hs hk hc, Dev.programExtent_ok hl hp]
    rfl
  · rw [exec_flashGc_victim hs hd ha hlow hg, if_pos hbad]
  · rw [exec_flashGc_victim hs hd ha hlow hg, if_neg (by rw [hbad]; decide), if_pos hall]
  · rw [exec_readDisturbRelocate hs ha hd, if_pos (by rw [Bool.or_eq_true, decide_eq_true_eq]; exact hdue)]
  · rw [exec_readDisturbRelocate hs ha hd, if_neg (by rw [hweak, Bool.false_or, decide_eq_true_eq]; exact Nat.not_le.mpr hlt)]
  · rw [exec_retentionScan hs ha hr, if_pos (by rw [Bool.not_eq_true', List.isEmpty_eq_false_iff]; exact hbad)]
  · rw [exec_retentionScan hs ha hr, hbad, if_neg (by decide), if_pos hweak]
  · rw [exec_retentionScan hs ha hr, hbad, if_neg (by decide), if_neg (by rw [hweak]; decide)]
  · change execTableFlush t s = _
    rw [execTableFlush, onServing_after hs]

end Sys2Proof.Machine
end

section
/-! PROOFS. Extents, grants and the events of the pool (R351 to R360). -/
namespace Sys2Proof.Machine

@[simp] theorem State.after_pool (s : State) (d : Dev) : (s.after d).dev.pool = d.pool := sendFrames_pool s.dev d

theorem State.afterBoth_pool (s : State) (mem : List Host.Cell) (d : Dev) : (s.afterBoth (mem, d)).dev.pool = d.pool := sendFrames_pool s.dev d

@[simp] theorem Dev.respond_pool (host op tag status result version : Nat) (data : List Byte) (d : Dev) :
    (d.respond host op tag status result version data).pool = d.pool := by
  simp only [Dev.respond, Dev.emit_pool, apply_ite Dev.pool, Dev.bump_pool, ite_self]

/-! ### Extent commands -/

section Owner
variable {s : State} {c : ExtentCmd} {e : Ent} {d : Dev} (hs : s.dev.serving = true) (hf : s.dev.fetch 0 64 c.hdr = some (e, d))
include hs hf

theorem exec_extentCreate (ho : d.fromOwner e = true) : exec (.extentCreate c) s = .next (s.after (d.extentCreate e c)) := by
  change execExtentCreate c s = _
  rw [execExtentCreate, onServing_after hs, Dev.ownerAdmin_of_fetch hf ho]

theorem exec_extentCreate_denied (ho : d.fromOwner e = false) : exec (.extentCreate c) s = .next (s.after (d.complete e ST.POOL_DENIED 0)) := by
  change execExtentCreate c s = _
  rw [execExtentCreate, onServing_after hs, Dev.ownerAdmin_denied hf ho]

theorem exec_extentShare_denied (ho : d.fromOwner e = false) : exec (.extentShare c) s = .next (s.after (d.complete e ST.POOL_DENIED 0)) := by
  change execExtentShare c s = _
  rw [execExtentShare, onServing_after hs, Dev.ownerAdmin_denied hf ho]

theorem exec_extentShare_unknown (ho : d.fromOwner e = true) (hx : d.extentOf c.handle = none) :
    exec (.extentShare c) s = .next (s.after (d.complete e ST.POOL_NOEXTENT 0)) := by
  change execExtentShare c s = _
  rw [execExtentShare, onServing_after hs, Dev.ownerAdmin_of_fetch hf ho]
  simp only [hx]

theorem exec_extentShare {k : Nat} {x : Extent} (ho : d.fromOwner e = true) (hx : d.extentOf c.handle = some (k, x)) :
    exec (.extentShare c) s = .next (s.after (if x.grants.length ≥ 8 then d.complete e ST.POOL_NOSPACE 0
      else (d.extUpd k (fun x => { x with grants := x.grants ++ [Grant.new c.host c.rights] })).complete e ST.OK 0)) := by
  change execExtentShare c s = _
  rw [execExtentShare, onServing_after hs, Dev.ownerAdmin_of_fetch hf ho]
  simp only [hx]

end Owner

section Create
variable {e : Ent} {c : ExtentCmd} {d : Dev} {k g : Nat} (hb : c.bytes ≠ 0) (hm : c.bytes % 65536 = 0) (ht : c.tier = 1 ∨ c.tier = 2)
  (hn : d.extentNext = some (k, g))
include hb hm ht hn

theorem Dev.extentCreate_full (hlt : d.partition c.host c.tier < d.partitionUsed c.host c.tier + (if c.rights.testBit 3 then 2 * c.bytes else c.bytes)) :
    d.extentCreate e c = d.complete e ST.POOL_NOSPACE 0 := by
  rw [Dev.extentCreate, if_neg (by omega)]
  simp only [hn]
  rw [if_neg (Nat.not_le.mpr hlt)]

theorem Dev.extentCreate_fits (hle : d.partitionUsed c.host c.tier + (if c.rights.testBit 3 then 2 * c.bytes else c.bytes) ≤ d.partition c.host c.tier) :
    ∃ u : Dev, d.extentCreate e c = u.complete e ST.OK (k + g * 65536) ∧ u.que = d.que ∧
      ∃ x, Tab.look k u.pool.extents = some x ∧ x.live = true ∧ x.gen = g ∧ x.host = c.host ∧ x.tier = c.tier ∧ x.bytes = c.bytes ∧
        x.publishable = c.rights.testBit 3 ∧ x.version = 0 ∧ x.grants = [⟨c.host, c.rights % 8, false, 0, []⟩] := by
  rw [Dev.extentCreate, if_neg (by omega)]
  simp only [hn]
  rw [if_pos hle]
  exact ⟨_, rfl, rfl, _, Tab.look_put_same _ _ _, rfl, rfl, rfl, rfl, rfl, rfl, rfl, rfl⟩

end Create

section Revoke
variable {s : State} {c : ExtentCmd} {t : Nat} {e : Ent} {d : Dev} (hs : s.dev.serving = true) (hf : (s.dev.advance t).fetch 0 64 c.hdr = some (e, d))
include hs hf

theorem exec_extentRevoke_denied (ho : d.fromOwner e = false) : exec (.extentRevoke c t) s = .next (s.after (d.complete e ST.POOL_DENIED 0)) := by
  change execExtentRevoke c t s = _
  rw [execExtentRevoke, onServing_after hs, Dev.ownerAdmin_denied hf ho]

theorem exec_extentRevoke_unknown (ho : d.fromOwner e = true) (hx : d.extentOf c.handle = none) :
    exec (.extentRevoke c t) s = .next (s.after (d.complete e ST.POOL_NOEXTENT 0)) := by
  change execExtentRevoke c t s = _
  rw [execExtentRevoke, onServing_after hs, Dev.ownerAdmin_of_fetch hf ho]
  simp only [hx]

theorem exec_extentRevoke {k : Nat} {x : Extent} (ho : d.fromOwner e = true) (hx : d.extentOf c.handle = some (k, x)) :
    exec (.extentRevoke c t) s = .next (s.after (if x.grants.any (fun g => c.host == 0xFFFF || g.host == c.host) then
      d.extUpd k (Extent.drain (fun g => c.host == 0xFFFF || g.host == c.host)
        (d.now + (if c.drainUs = 0 then d.get Reg.POOL_CFG.drain_us else c.drainUs) * 1000) (some e))
      else d.complete e ST.POOL_NOEXTENT 0)) := by
  change execExtentRevoke c t s = _
  rw [execExtentRevoke, onServing_after hs, Dev.ownerAdmin_of_fetch hf ho]
  simp only [hx, us]

end Revoke

/-! ### The last grant -/

/-- The extents of a device after some completions. -/
theorem Dev.pool_foldl_complete (es : List Ent) (st res : Nat) (d : Dev) :
    (es.foldl (fun d e => d.complete e st res) d).pool = d.pool ∧ (es.foldl (fun d e => d.complete e st res) d).idx = d.idx :=
  foldl_keeps (fun x : Dev => x.pool = d.pool ∧ x.idx = d.idx) (fun x e h => ⟨(x.complete_pool e st res).trans h.1, (x.complete_idx e st res).trans h.2⟩) es
    ⟨rfl, rfl⟩

/-- With its last grant an extent that no index opens on ends (R358). -/
theorem Dev.destroyGrant_last {k host : Nat} {mem : List Host.Cell} {x : Extent} {g : Grant} {d : Dev} (hx : Tab.look k d.pool.extents = some x)
    (hl : x.live = true) (hg : x.grants = [g]) (hh : g.host = host) (hdr : g.draining = true) (he : g.drainEnd ≤ d.now)
    (hi : d.idx.idx.any (fun e => e.2.st == 1 && e.2.base == poolAddr k 0) = false) :
    (d.destroyGrant k host mem).1 = (if x.window.isSome then mem else Mem.zero (poolAddr k 0) x.taken mem) ∧
      (Tab.look k (d.destroyGrant k host mem).2.pool.extents).map (·.live) = some false := by
  have hfind : x.grants.find? (fun g => g.draining && g.host == host) = some g := by simp [hg, hdr, hh]
  have hends : (x.live && ((d.grantHosts x g).all (fun h => d.poolInFlight k h == 0) || decide (g.drainEnd ≤ d.now))) = true := by
    rw [hl, decide_eq_true he, Bool.or_true]
    rfl
  have herase : x.grants.erase g = [] := by rw [hg, List.erase_cons_head]
  rw [Dev.destroyGrant]
  simp only [hx, hfind, hends, herase, if_true, (Dev.pool_foldl_complete _ _ _ _).2, Dev.extUpd, hi, Bool.false_and, Bool.false_eq_true, if_false,
    List.isEmpty_nil]
  refine ⟨trivial, ?_⟩
  rw [Tab.look_upd_same, (Dev.pool_foldl_complete _ _ _ _).1]
  dsimp only
  rw [Tab.look_upd_same, hx]
  rfl

theorem exec_grantDestroy_last {s : State} {k host t : Nat} {x : Extent} {g : Grant} (hs : s.dev.serving = true)
    (hx : Tab.look k s.dev.pool.extents = some x) (hl : x.live = true) (hg : x.grants = [g]) (hh : g.host = host) (hdr : g.draining = true)
    (he : g.drainEnd ≤ max s.dev.now t) (hi : s.dev.idx.idx.any (fun e => e.2.st == 1 && e.2.base == poolAddr k 0) = false) :
    ∃ u, exec (.grantDestroy k host t) s = .next u ∧ u.mem = (if x.window.isSome then s.mem else Mem.zero (poolAddr k 0) x.taken s.mem) ∧
      (Tab.look k u.dev.pool.extents).map (·.live) = some false := by
  obtain ⟨hmem, hlive⟩ := Dev.destroyGrant_last (mem := s.mem) (d := s.dev.advance t) hx hl hg hh hdr he hi
  change ∃ u, execGrantDestroy k host t s = .next u ∧ _
  rw [execGrantDestroy, onServingMem_after hs]
  refine ⟨_, rfl, hmem, ?_⟩
  rw [State.afterBoth_pool]
  exact hlive

/-! ### Timers and responses -/

section Timers
variable {s : State} {t : Nat} {d : Dev} (hs : s.dev.serving = true) (hd : d = s.dev.advance t)
include hs hd

theorem exec_poolQueueRelease {r : PoolReq} {qs : List PoolReq} (hq : Tab.getD r.host [] d.pool.queues = r :: qs) (hok : d.bucketOk r.host = true) :
    exec (.poolQueueRelease r t) s = .next (s.afterBoth (Dev.poolServe r s.mem (Dev.bucketDebit r.host r.length
      { d with pool := { d.pool with queues := Tab.put r.host qs d.pool.queues } }))) := by
  change execPoolQueueRelease r t s = _
  rw [execPoolQueueRelease, onServingMem_after hs, ← hd]
  simp only [hq, hok, and_self, if_true]

theorem exec_publishWindowEnd {k w : Nat} {x : Extent} {p : StagedPub} (hx : Tab.look k d.pool.extents = some x) (hw : x.windowEnd = some w) (hle : w ≤ d.now)
    (hp : pubWinner x.version x.staged = some p) :
    ∃ u, exec (.publishWindowEnd k t) s = .next u ∧ u.mem = Mem.writes (poolAddr k ((1 - x.half) * x.bytes + p.offset)) p.bytes s.mem ∧
      (Tab.look k u.dev.pool.extents).map (·.version) = some p.version ∧ (Tab.look k u.dev.pool.extents).map (·.half) = some (1 - x.half) := by
  have hanswers (es : List StagedPub) (f : Dev → StagedPub → Dev) (hf : ∀ e q, (f e q).pool = e.pool) (e : Dev) : (es.foldl f e).pool = e.pool :=
    foldl_keeps (fun y : Dev => y.pool = e.pool) (fun y q h => (hf y q).trans h) es rfl
  change ∃ u, execPublishWindowEnd k t s = .next u ∧ _
  rw [execPublishWindowEnd, onServingMem_after hs, ← hd, Dev.publishEnd]
  simp only [hx, hw, hp]
  rw [if_neg (Nat.not_lt.mpr hle)]
  refine ⟨_, rfl, rfl, ?_, ?_⟩
  all_goals
    rw [State.afterBoth_pool, hanswers _ _ (fun e q => Dev.respond_pool _ _ _ _ _ _ _ e), Dev.extUpd]
    dsimp only
    rw [Tab.look_upd_same, hx]
    rfl

theorem exec_handoverOverlapEnd {k h w : Nat} {x : Extent} (hx : Tab.look k d.pool.extents = some x) (ho : x.oldWriter = some (h, w)) (hle : w ≤ d.now) :
    ∃ u, exec (.handoverOverlapEnd k t) s = .next u ∧ Tab.look k u.dev.pool.extents = some { setWriter h false x with oldWriter := none } := by
  change ∃ u, execHandoverOverlapEnd k t s = .next u ∧ _
  rw [execHandoverOverlapEnd, onServing_after hs, ← hd]
  refine ⟨_, rfl, ?_⟩
  rw [State.after_pool, Dev.extUpd]
  dsimp only
  rw [Tab.look_upd_same, hx, Option.map_some]
  simp only [ho, if_pos hle, Extent.endOverlap]

theorem exec_codeMemberTimeout {sid m : Nat} {w : CodedWrite} (hw : Tab.look sid d.pool.coded = some w)
    (hle : w.started + d.get Reg.POOL_CFG.code_timeout_ms * 1000000 ≤ d.now) :
    exec (.codeMemberTimeout sid m t) s = .next (s.afterBoth (d.codedFail sid m s.mem)) := by
  change execCodeMemberTimeout sid m t s = _
  rw [execCodeMemberTimeout, onServingMem_after hs, ← hd]
  simp only [hw]
  rw [if_pos (show w.started + ms (d.get Reg.POOL_CFG.code_timeout_ms) ≤ d.now from hle)]

end Timers

theorem exec_poolResponse {s : State} {p : PoolResp} {o : PoolOut} (hs : s.dev.serving = true) (ho : Tab.look p.tag s.dev.pool.requests = some o) :
    (o.opened = false → exec (.poolResponse p) s = .next (s.after
      (Dev.flag Reg.POOL_ERR.late_discard { s.dev with pool := { s.dev.pool with requests := Tab.del p.tag s.dev.pool.requests } }))) ∧
    (o.opened = true → p.status = ST.OK → exec (.poolResponse p) s = .next (s.afterBoth (Dev.codedAck o.sid o.member s.mem
      { s.dev with pool := { s.dev.pool with requests := Tab.del p.tag s.dev.pool.requests } }))) := by
  refine ⟨fun hclosed => ?_, fun hopen hst => ?_⟩
  · change execPoolResponse p s = _
    rw [execPoolResponse, onServingMem_after hs]
    simp only [ho, hclosed, Bool.not_false, if_true]
    exact congrArg Host.Outcome.next (State.afterBoth_mem s _)
  · change execPoolResponse p s = _
    rw [execPoolResponse, onServingMem_after hs]
    simp only [ho, hopen, hst, Bool.not_true, Bool.false_eq_true, if_false, if_true]

/-- Settles O48: the extent commands, and the events of the pool. -/
theorem extentEventsComplete : Obligations.ExtentEventsComplete := by
  unfold Obligations.ExtentEventsComplete
  refine ⟨⟨fun s c e d hs hf ho => ⟨fun k g hb hm ht hn hle => ?_, fun k g hb hm ht hn hlt => ?_, fun k x hx => ⟨fun hroom => ?_, fun hfull => ?_⟩,
      exec_extentShare_unknown hs hf ho⟩,
      fun s c e d hs hf ho => ⟨exec_extentCreate_denied hs hf ho, exec_extentShare_denied hs hf ho⟩,
      fun s c t e d hs hf => ⟨exec_extentRevoke_denied hs hf, exec_extentRevoke_unknown hs hf, fun k x ho hx => ⟨fun hany => ?_, fun hnone => ?_⟩⟩,
      fun s k host t x g hs hx hl hg hh hdr he hi => exec_grantDestroy_last hs hx hl hg hh hdr he hi⟩,
    fun s t d hs hd => ⟨fun r qs hq hok => exec_poolQueueRelease hs hd hq hok, fun k x w p hx hw hle hp => exec_publishWindowEnd hs hd hx hw hle hp,
      fun k x h w hx ho hle => exec_handoverOverlapEnd hs hd hx ho hle, fun p o ho => exec_poolResponse hs ho,
      fun sid m w hw hle => exec_codeMemberTimeout hs hd hw hle⟩⟩
  · obtain ⟨u, hu, hq, hx⟩ := Dev.extentCreate_fits (e := e) hb hm ht hn hle
    exact ⟨u, by rw [exec_extentCreate hs hf ho, hu], hq, hx⟩
  · rw [exec_extentCreate hs hf ho, Dev.extentCreate_full hb hm ht hn hlt]
  · rw [exec_extentShare hs hf ho hx, if_neg (by omega)]
  · rw [exec_extentShare hs hf ho hx, if_pos hfull]
  · rw [exec_extentRevoke hs hf ho hx, if_pos hany]
  · rw [exec_extentRevoke hs hf ho hx, if_neg (by rw [hnone]; decide)]

end Sys2Proof.Machine
end

section
/-! PROOFS. Pool requests (R353 to R359). -/
namespace Sys2Proof.Machine

/-- Each command of a pool request checks and runs it under its own code (R353). -/
theorem exec_poolCommand {s : State} {r : PoolReq} {t : Nat} {c : Nat × Instr} (hs : s.dev.serving = true) (hc : c ∈ poolCommands r t) :
    exec c.2 s = .next (s.afterBoth ((s.dev.advance t).poolRequest c.1 r s.mem)) := by
  have hrow (code : Nat) : onServingMem (fun mem d => (d.advance t).poolRequest code r mem) s =
      .next (s.afterBoth ((s.dev.advance t).poolRequest code r s.mem)) := onServingMem_after hs
  simp only [poolCommands, List.mem_cons, List.not_mem_nil, or_false] at hc
  rcases hc with rfl | rfl | rfl | rfl | rfl | rfl | rfl | rfl | rfl
  · exact hrow 1
  · exact hrow 2
  · exact hrow 3
  · exact hrow 4
  · exact hrow 5
  · exact hrow 6
  · exact hrow 7
  · exact hrow 8
  · exact hrow 9

/-! ### What a request meets -/

section Meets
variable {code : Nat} {r : PoolReq} {mem : List Host.Cell} {d : Dev}

theorem Dev.poolRequest_failed {st : Nat} (hst : d.poolCheck code r = st) (hne : st ≠ ST.OK) (htag : st = ST.POOL_NOEXTENT ∨ r.tagOk = true) :
    d.poolRequest code r mem = (mem, (if st = ST.EPOCH_STALE then d.stale (d.partySector r.host) else d).respond r.host r.op r.tag st 0 0 []) := by
  rw [Dev.poolRequest]
  dsimp only
  rw [hst]
  by_cases hno : st = ST.POOL_NOEXTENT
  · rw [if_pos hno, if_neg (by rw [hno]; decide)]
  · rw [if_neg hno, htag.resolve_left hno, if_neg (by decide), if_pos hne]

theorem Dev.poolRequest_forged (hst : d.poolCheck code r ≠ ST.POOL_NOEXTENT) (htag : r.tagOk = false) :
    d.poolRequest code r mem = (mem, d.flag Reg.POOL_ERR.auth) := by
  rw [Dev.poolRequest]
  dsimp only
  rw [if_neg hst, htag, if_pos (by rfl)]

theorem Dev.pinRead_queues : (d.pinRead r mem).pool.queues = d.pool.queues := by
  unfold Dev.pinRead
  split
  · split <;> rfl
  · rfl

section Passes
variable (hst : d.poolCheck code r = ST.OK) (htag : r.tagOk = true)
include hst htag

theorem Dev.poolRequest_passes : d.poolRequest code r mem =
    (if (Tab.getD r.host [] d.pool.queues).isEmpty && d.bucketOk r.host then (d.bucketDebit r.host r.length).poolRun r mem
    else if (Tab.getD r.host [] d.pool.queues).length ≥ 256 then (mem, d.respond r.host r.op r.tag ST.POOL_BUSY 0 0 [])
    else (mem, { d.pinRead r mem with pool := { (d.pinRead r mem).pool with
      queues := Tab.put r.host (Tab.getD r.host [] d.pool.queues ++ [r]) (d.pinRead r mem).pool.queues } })) := by
  rw [Dev.poolRequest]
  dsimp only
  rw [hst, htag, if_neg (by decide), if_neg (by decide), if_neg (fun h => h rfl)]

theorem Dev.poolRequest_runs (hq : Tab.getD r.host [] d.pool.queues = []) (hb : d.bucketOk r.host = true) :
    d.poolRequest code r mem = (d.bucketDebit r.host r.length).poolRun r mem := by
  rw [Dev.poolRequest_passes hst htag, hq, hb, if_pos (by rfl)]

end Passes

/-- A handle of no live extent of its generation (R352, R355). -/
theorem Dev.poolCheck_unknown (hx : d.extentOf r.handle = none) : d.poolCheck code r = ST.POOL_NOEXTENT := by
  rw [Dev.poolCheck]
  simp only [hx]

theorem Dev.poolCheck_revoked {k : Nat} {x : Extent} {g : Grant} (hx : d.extentOf r.handle = some (k, x)) (hg : d.grantOf x r.host = some g)
    (hdr : g.draining = true) : d.poolCheck code r = ST.POOL_REVOKED := by
  rw [Dev.poolCheck]
  simp only [hx, hg, hdr, if_true]

theorem Dev.pinRead_publishable {k : Nat} {x : Extent} (hx : d.extentOf r.handle = some (k, x)) (hop : r.op = 1) (hp : x.publishable = true) :
    d.pinRead r mem = { d with pool := { d.pool with pinned := d.pool.pinned ++ [(r, x.version, d.extBytes k x r.offset r.length mem)] } } := by
  rw [Dev.pinRead]
  simp only [hx]
  rw [if_pos ⟨hop, hp⟩]

theorem Dev.pinRead_plain {k : Nat} {x : Extent} (hx : d.extentOf r.handle = some (k, x)) (h : r.op ≠ 1 ∨ x.publishable = false) : d.pinRead r mem = d := by
  rw [Dev.pinRead]
  simp only [hx]
  refine if_neg (fun hboth => ?_)
  rcases h with h | h
  · exact h hboth.1
  · rw [h] at hboth
    exact absurd hboth.2 (by decide)

end Meets

/-- Settles O50: requests that wait, or are turned away. -/
theorem poolRequestsTurnedAway : Obligations.PoolRequestsTurnedAway := by
  unfold Obligations.PoolRequestsTurnedAway
  refine ⟨fun s r t d c hs hd hc hst htag hwait => ⟨fun hroom => ?_, fun k x hx => ⟨Dev.pinRead_publishable hx, Dev.pinRead_plain hx⟩, fun hfull => ?_⟩,
    fun s r t d c hs hd hc => ⟨fun st hst hne htag => ?_, fun hne htag => ?_⟩,
    fun r d op => ⟨Dev.poolCheck_unknown, fun k x g hx hg hdr => Dev.poolCheck_revoked hx hg hdr⟩⟩
  · have hno : ¬ ((Tab.getD r.host [] d.pool.queues).isEmpty && d.bucketOk r.host) = true := by
      rw [Bool.and_eq_true, List.isEmpty_iff]
      rintro ⟨hempty, hok⟩
      rcases hwait with h | h
      · exact h hempty
      · rw [h] at hok
        cases hok
    rw [exec_poolCommand hs hc, ← hd, Dev.poolRequest_passes hst htag, if_neg hno, if_neg (by omega), State.afterBoth_mem, Dev.pinRead_queues]
  · have hno : ¬ ((Tab.getD r.host [] d.pool.queues).isEmpty && d.bucketOk r.host) = true := by
      rw [Bool.and_eq_true, List.isEmpty_iff]
      rintro ⟨hempty, -⟩
      rw [hempty] at hfull
      exact absurd hfull (by decide)
    rw [exec_poolCommand hs hc, ← hd, Dev.poolRequest_passes hst htag, if_neg hno, if_pos hfull, State.afterBoth_mem]
  · rw [exec_poolCommand hs hc, ← hd, Dev.poolRequest_failed hst hne htag, State.afterBoth_mem]
  · rw [exec_poolCommand hs hc, ← hd, Dev.poolRequest_forged hne htag, State.afterBoth_mem]

/-! ### What a request does -/

section Runs
variable {r : PoolReq} {mem : List Host.Cell} {k : Nat} {x : Extent} {b : Dev} (hx : b.extentOf r.handle = some (k, x))
include hx

theorem Dev.poolRun_read (hop : r.op = 1) : b.poolRun r mem = (mem, b.respond r.host 1 r.tag ST.OK 0 x.shown (b.extBytes k x r.offset r.length mem)) := by
  simp only [Dev.poolRun, hx, hop]

theorem Dev.poolRun_write (hop : r.op = 2) :
    b.poolRun r mem = (Mem.writes (extAddr k x r.offset) (r.data.take r.length) mem, b.respond r.host 2 r.tag ST.OK 0 x.shown []) := by
  simp only [Dev.poolRun, hx, hop]

theorem Dev.poolRun_fill (hop : r.op = 3) :
    b.poolRun r mem = (Mem.writes (extAddr k x r.offset) (fillBytes r.value r.length) mem, b.respond r.host 3 r.tag ST.OK 0 x.shown []) := by
  simp only [Dev.poolRun, hx, hop]

theorem Dev.poolRun_copy {j : Nat} {y : Extent} (hop : r.op = 4) (hy : b.extentOf r.auxHandle = some (j, y)) : b.poolRun r mem =
    (Mem.writes (extAddr k x r.offset) (b.extBytes j y r.auxOffset r.length mem) mem, b.respond r.host 4 r.tag ST.OK 0 x.shown []) := by
  simp only [Dev.poolRun, hx, hop, hy]

section Compare
variable {c : Nat × Option (List Byte)} (hop : r.op = 5) (hc : c = compareOf r (b.extBytes k x r.offset r.length mem))
include hop hc

theorem Dev.poolRun_compare (h : c.2 = none) : b.poolRun r mem = (mem, b.respond r.host 5 r.tag ST.OK c.1 x.shown []) := by
  simp only [Dev.poolRun, hx, hop, ← hc, h]

theorem Dev.poolRun_swap {bs : List Byte} (h : c.2 = some bs) (hw : x.window = none) :
    b.poolRun r mem = (Mem.writes (extAddr k x r.offset) bs mem, b.respond r.host 5 r.tag ST.OK c.1 x.shown []) := by
  simp only [Dev.poolRun, hx, hop, ← hc, h, hw]

/-- The compare of R119 on a move record's window. -/
theorem Dev.poolRun_claim {bs : List Byte} {sid : Nat} (h : c.2 = some bs) (hw : x.window = some sid) : b.poolRun r mem =
    (mem, Dev.respond r.host 5 r.tag ST.OK c.1 x.shown []
      { b with ses := { b.ses with records := Tab.upd sid (claimSwap r.offset bs) b.ses.records } }) := by
  simp only [Dev.poolRun, hx, hop, ← hc, h, hw]

end Compare

theorem Dev.poolRun_reduce (hop : r.op = 6) : b.poolRun r mem = (Mem.writes (extAddr k x r.offset)
    (reduceBytes r.flags (if r.flags.testBit 1 then 2 else 4) (r.length / (if r.flags.testBit 1 then 2 else 4)) (b.extBytes k x r.offset r.length mem) r.data) mem,
    b.respond r.host 6 r.tag ST.OK 0 x.shown []) := by
  simp only [Dev.poolRun, hx, hop]

section Writer
variable {g : Grant} (hg : b.grantOf x r.host = some g)
include hg

theorem Dev.poolRun_publish (hop : r.op = 7) : b.poolRun r mem = (if x.publishable && g.rights.testBit 2 then (mem, b.stagePublish k r mem)
    else (mem, b.respond r.host 7 r.tag ST.POOL_NOTOWNER x.version x.shown [])) := by
  simp only [Dev.poolRun, hx, hop, hg]

theorem Dev.poolRun_handover (hop : r.op = 8) : b.poolRun r mem = (if g.rights.testBit 2 && (x.oldWriter.map (fun w => w.1 != r.host)).getD true then
    (mem, b.handover k x r) else (mem, b.respond r.host 8 r.tag ST.POOL_NOTOWNER 0 x.shown [])) := by
  simp only [Dev.poolRun, hx, hop, hg]
  cases x.oldWriter <;> rfl

end Writer

theorem Dev.poolRun_release (hop : r.op = 9) : b.poolRun r mem = (if (x.oldWriter.map (fun w => w.1 == r.host)).getD false then
    (mem, (b.extUpd k Extent.endOverlap).respond r.host 9 r.tag ST.OK 0 x.shown [])
    else (mem, b.respond r.host 9 r.tag ST.POOL_NOTOWNER 0 x.shown [])) := by
  simp only [Dev.poolRun, hx, hop]
  cases x.oldWriter <;> rfl

end Runs

/-- Settles O49: a request that passes its checks runs at once. -/
theorem poolRequestsComplete : Obligations.PoolRequestsComplete := by
  unfold Obligations.PoolRequestsComplete
  intro s r t k x d b hs hd htag hq hok hb hx
  have hrun (c : Nat × Instr) (hc : c ∈ poolCommands r t) (hst : d.poolCheck c.1 r = ST.OK) : exec c.2 s = .next (s.afterBoth (b.poolRun r s.mem)) := by
    rw [exec_poolCommand hs hc, ← hd, Dev.poolRequest_runs hst htag hq hok, ← hb]
  have hread := hrun (1, .poolRead r t) (by simp [poolCommands])
  have hwrite := hrun (2, .poolWrite r t) (by simp [poolCommands])
  have hfill := hrun (3, .poolFill r t) (by simp [poolCommands])
  have hcopy := hrun (4, .poolCopy r t) (by simp [poolCommands])
  have hcompare := hrun (5, .poolCompare r t) (by simp [poolCommands])
  have hreduce := hrun (6, .poolReduce r t) (by simp [poolCommands])
  have hpublish := hrun (7, .poolPublish r t) (by simp [poolCommands])
  have hhandover := hrun (8, .poolHandover r t) (by simp [poolCommands])
  have hrelease := hrun (9, .poolRelease r t) (by simp [poolCommands])
  refine ⟨fun hst hop => ?_, fun hst hop => ?_, fun hst hop => ?_, fun j y hst hop hy => ?_,
    fun c hst hop hc => ⟨fun h => ?_, fun bs h hw => ?_, fun bs sid h hw => ?_⟩, fun hst hop => ?_,
    fun g hg => ⟨fun hst hop => ⟨fun hw hp => ?_, fun hno => ?_⟩, fun hst hop => ⟨fun hw hold => ?_, fun hno => ?_⟩⟩,
    fun hst hop => ⟨fun w hold => ?_, fun hold => ?_⟩⟩
  · rw [hread hst, Dev.poolRun_read hx hop, State.afterBoth_mem]
  · rw [hwrite hst, Dev.poolRun_write hx hop]
  · rw [hfill hst, Dev.poolRun_fill hx hop]
  · rw [hcopy hst, Dev.poolRun_copy hx hop hy]
  · rw [hcompare hst, Dev.poolRun_compare hx hop hc h, State.afterBoth_mem]
  · rw [hcompare hst, Dev.poolRun_swap hx hop hc h hw]
  · rw [hcompare hst, Dev.poolRun_claim hx hop hc h hw, State.afterBoth_mem]
  · rw [hreduce hst, Dev.poolRun_reduce hx hop]
  · rw [hpublish hst, Dev.poolRun_publish hx hg hop, hw, hp, if_pos (by rfl)]
  · rw [hpublish hst, Dev.poolRun_publish hx hg hop, if_neg (by rw [Bool.and_eq_true]; rcases hno with h | h <;> simp [h]), State.afterBoth_mem]
  · have hmay : (x.oldWriter.map (fun w => w.1 != r.host)).getD true = true := by
      cases how : x.oldWriter with
      | none => rfl
      | some w => exact bne_iff_ne.mpr (hold w.1 w.2 how)
    rw [hhandover hst, Dev.poolRun_handover hx hg hop, hw, hmay, if_pos (by rfl), State.afterBoth_mem]
  · have hno' : ¬ (g.rights.testBit 2 && (x.oldWriter.map (fun w => w.1 != r.host)).getD true) = true := by
      rcases hno with h | ⟨w, h⟩ <;> simp [h]
    rw [hhandover hst, Dev.poolRun_handover hx hg hop, if_neg hno', State.afterBoth_mem]
  · rw [hrelease hst, Dev.poolRun_release hx hop, hold, if_pos (by simp), State.afterBoth_mem]
  · rw [hrelease hst, Dev.poolRun_release hx hop, hold, if_neg (by simp), State.afterBoth_mem]

end Sys2Proof.Machine
end

section
/-! PROOFS. Vector search: the commands of an index (R316 to R319, R325). -/
namespace Sys2Proof.Machine

@[simp] theorem State.after_idx (s : State) (d : Dev) : (s.after d).dev.idx = d.idx := sendFrames_idx s.dev d

theorem State.afterBoth_idx (s : State) (mem : List Host.Cell) (d : Dev) : (s.afterBoth (mem, d)).dev.idx = d.idx := sendFrames_idx s.dev d

/-! ### INDEX_CREATE -/

/-- A field of the source: of an extent, or of host memory. -/
def sourceField (ext : Option (Nat × Extent)) (content : List (Nat × List Byte)) (mem : List Host.Cell) (o k : Nat) : Nat :=
  match ext with
  | some (j, _) => leNat (Mem.reads (poolAddr j o) k mem)
  | none => leNat ((List.range k).map (fun i => contentByte content (o + i)))

/-- The rest of INDEX_CREATE for a header read as `x`, with the place `o` of its range (R317). -/
def Dev.createFrom (e : Ent) (n sector : Nat) (ext : Option (Nat × Extent)) (len : Nat) (content : List (Nat × List Byte)) (b : Nat → Nat → Nat) (x : VecIndex)
    (o : Option Nat) (mem : List Host.Cell) (d : Dev) : List Host.Cell × Dev :=
  if !headerOk b x (match ext with | some (_, y) => min len y.bytes | none => len) then (mem, d.complete e ST.IDX_FORMAT 0)
  else if Tab.has n d.idx.idx then (mem, d.complete e ST.IDX_EXISTS 0)
  else
    match ext with
    | some (j, _) => (mem, d.openExtent e n sector j { x with base := poolAddr j 0, units := ceilDiv x.rangeBytes 65536 * 16 })
    | none =>
      match o with
      | none => (mem, d.complete e ST.IDX_NOSPACE 0)
      | some u =>
        (writeContent (tierAddr 2 sector (4096 * u)) x.rangeBytes content mem,
         ({ d with idx := { d.idx with idx := Tab.put n { x with base := tierAddr 2 sector (4096 * u), units := ceilDiv x.rangeBytes 65536 * 16 } d.idx.idx } } :
           Dev).complete e ST.OK 0)

section Create
variable {s : State} {h : EntryHdr} {n kind src len sector : Nat} {content : List (Nat × List Byte)} {e : Ent} {d : Dev}

theorem exec_indexCreate (hs : s.dev.serving = true) (hf : s.dev.fetch 0 64 h = some (e, d)) :
    exec (.indexCreate h n kind src len content) s = .next (s.afterBoth (d.indexCreate e n kind src len content s.mem)) := by
  change execIndexCreate h n kind src len content s = _
  rw [execIndexCreate, onServingMem_after hs]
  simp only [hf]

variable {mem : List Host.Cell} (hsec : d.entSector e = some sector)
include hsec

/-- A number, a source or an extent that does not do (R316, R317). -/
theorem Dev.indexCreate_badParam (hbad : 64 ≤ n ∨ (kind ≠ 0 ∧ kind ≠ 2) ∨ (kind = 2 ∧ d.sectorExtent src sector = none)) :
    d.indexCreate e n kind src len content mem = (mem, d.complete e ST.IDX_BADPARAM 0) := by
  have hcond : n ≥ 64 ∨ (kind ≠ 0 ∧ kind ≠ 2) ∨ (kind = 2 ∧ (if kind = 2 then d.sectorExtent src sector else none).isNone) := by
    rcases hbad with h | h | ⟨hk, hx⟩
    · exact Or.inl h
    · exact Or.inr (Or.inl h)
    · exact Or.inr (Or.inr ⟨hk, by rw [if_pos hk, hx]; rfl⟩)
  rw [Dev.indexCreate]
  simp -zeta only [hsec]
  exact if_pos hcond

/-- A create whose number and source do goes on to the header (R317). -/
theorem Dev.indexCreate_header (hn : n < 64) (hk : kind = 0 ∨ kind = 2) {ext : Option (Nat × Extent)}
    (hext : ext = if kind = 2 then d.sectorExtent src sector else none) (hsome : kind = 2 → ext.isNone = false) :
    d.indexCreate e n kind src len content mem =
      d.createFrom e n sector ext len content (sourceField ext content mem) (idxHeader sector 0 (sourceField ext content mem))
        (d.rangePlace sector (ceilDiv (idxHeader sector 0 (sourceField ext content mem)).rangeBytes 65536 * 16)) mem := by
  have hno : ¬ (n ≥ 64 ∨ (kind ≠ 0 ∧ kind ≠ 2) ∨ (kind = 2 ∧ (if kind = 2 then d.sectorExtent src sector else none).isNone)) := by
    rw [← hext]
    rintro (h | ⟨h0, h2⟩ | ⟨h2, hx⟩)
    · omega
    · omega
    · rw [hsome h2] at hx
      cases hx
  rw [Dev.indexCreate]
  simp -zeta only [hsec]
  refine (if_neg hno).trans ?_
  subst hext
  rfl

end Create

section From
variable {n sector len : Nat} {content : List (Nat × List Byte)} {e : Ent} {d : Dev} {b : Nat → Nat → Nat} {x : VecIndex} {mem : List Host.Cell}

theorem Dev.createFrom_host (o : Option Nat) : d.createFrom e n sector none len content b x o mem =
    (if !headerOk b x len then (mem, d.complete e ST.IDX_FORMAT 0)
    else if Tab.has n d.idx.idx then (mem, d.complete e ST.IDX_EXISTS 0)
    else o.elim (mem, d.complete e ST.IDX_NOSPACE 0) (fun u =>
      (writeContent (tierAddr 2 sector (4096 * u)) x.rangeBytes content mem,
        ({ d with idx := { d.idx with idx := Tab.put n { x with base := tierAddr 2 sector (4096 * u), units := ceilDiv x.rangeBytes 65536 * 16 } d.idx.idx } } :
          Dev).complete e ST.OK 0))) := by
  cases o <;> rfl

theorem Dev.createFrom_extent {j : Nat} {y : Extent} (o : Option Nat) : d.createFrom e n sector (some (j, y)) len content b x o mem =
    (if !headerOk b x (min len y.bytes) then (mem, d.complete e ST.IDX_FORMAT 0)
    else if Tab.has n d.idx.idx then (mem, d.complete e ST.IDX_EXISTS 0)
    else (mem, d.openExtent e n sector j { x with base := poolAddr j 0, units := ceilDiv x.rangeBytes 65536 * 16 })) := rfl

end From

section Sources
variable {s : State} {h : EntryHdr} {n kind src len sector : Nat} {content : List (Nat × List Byte)} {e : Ent} {d : Dev} {b : Nat → Nat → Nat} {x : VecIndex}
  (hs : s.dev.serving = true) (hf : s.dev.fetch 0 64 h = some (e, d)) (hsec : d.entSector e = some sector) (hn : n < 64) (hx : x = idxHeader sector 0 b)
include hs hf hsec hn hx

/-- A create from host memory (R317). -/
theorem exec_indexCreate_host (hb : ∀ o k, b o k = leNat ((List.range k).map (fun i => contentByte content (o + i)))) (hk : kind = 0) :
    exec (.indexCreate h n kind src len content) s = .next (s.afterBoth (d.createFrom e n sector none len content b x
      (d.rangePlace sector (ceilDiv x.rangeBytes 65536 * 16)) s.mem)) := by
  have hb' : b = sourceField none content s.mem := funext (fun o => funext (hb o))
  rw [exec_indexCreate hs hf, Dev.indexCreate_header hsec hn (Or.inl hk) (ext := none) (by rw [if_neg (by omega)]) (fun h => by omega), ← hb', hx]

/-- A create from an extent of the Sector's (R317). -/
theorem exec_indexCreate_extent {j : Nat} {y : Extent} (hk : kind = 2) (hy : d.sectorExtent src sector = some (j, y))
    (hb : ∀ o k, b o k = leNat (Mem.reads (poolAddr j o) k s.mem)) :
    exec (.indexCreate h n kind src len content) s = .next (s.afterBoth (d.createFrom e n sector (some (j, y)) len content b x
      (d.rangePlace sector (ceilDiv x.rangeBytes 65536 * 16)) s.mem)) := by
  have hb' : b = sourceField (some (j, y)) content s.mem := funext (fun o => funext (hb o))
  rw [exec_indexCreate hs hf, Dev.indexCreate_header hsec hn (Or.inr hk) (ext := some (j, y)) (by rw [if_pos hk, hy]) (fun _ => rfl), ← hb', hx]

end Sources

theorem Tab.has_of_look_ne {α : Type} {k : Nat} {t : Tab α} (h : Tab.look k t ≠ none) : Tab.has k t = true := Option.isSome_iff_ne_none.mpr h

theorem Tab.has_of_look_none {α : Type} {k : Nat} {t : Tab α} (h : Tab.look k t = none) : Tab.has k t = false := by
  rw [Tab.has, h]
  rfl

/-! ### INDEX_DROP -/

theorem Tab.mem_del {α : Type} {j k : Nat} {v : α} {t : Tab α} (hm : (k, v) ∈ t) (h : j ≠ k) : (k, v) ∈ Tab.del j t := by
  induction t with
  | nil => cases hm
  | cons e t ih =>
    obtain ⟨i, w⟩ := e
    rw [Tab.del]
    rcases List.mem_cons.mp hm with he | ht
    · rw [Prod.mk.injEq] at he
      rw [if_neg (by omega), he.1, he.2]
      exact List.mem_cons_self
    · split
      · exact ih ht
      · exact List.mem_cons_of_mem _ (ih ht)

/-- An open index under a drop: no command that waits stays, the queries that wait go, and it goes itself once none runs (R318). -/
def Dev.dropping (e : Ent) (n : Nat) (x : VecIndex) (d : Dev) : Dev :=
  let waiting := (d.idxQueries n).filter (fun q => q.2.phase == 0)
  let d := d.idxUpd n (fun x => { x with st := 3, writes := [], waiter := some e })
  let d := (x.writes.filter (fun w => !w.searching)).foldl (fun d w => d.complete w.ent ST.IDX_DROPPED 0) d
  let d := waiting.foldl (fun d q => (d.queryDel q.1).complete q.2.ent ST.IDX_DROPPED 0) d
  { d with idx := { d.idx with gather := Tab.del n d.idx.gather, tables := Tab.mapv (fun _ js =>
    js.map (fun j => { j with queries := j.queries.filter (fun q => !waiting.any (fun w => w.1 == q)) })) d.idx.tables } }

theorem Dev.indexDrop_open {e : Ent} {n : Nat} {x : VecIndex} {d : Dev} (hx : d.indexFor e n = some x) (h2 : x.st = 2) (mem : List Host.Cell) :
    d.indexDrop e n mem = (d.dropping e n x).finishDrop n mem := by
  have hst : idxStatus (some x) = ST.OK := by rw [idxStatus]; exact if_pos h2
  rw [Dev.indexDrop]
  simp only [hx]
  rw [if_neg (fun h => h hst)]
  rfl

theorem Dev.indexDrop_refused {e : Ent} {n : Nat} {d : Dev} (h : idxStatus (d.indexFor e n) ≠ ST.OK) (mem : List Host.Cell) :
    d.indexDrop e n mem = (mem, d.complete e (idxStatus (d.indexFor e n)) 0) := by
  rw [Dev.indexDrop]
  cases hx : d.indexFor e n with
  | none => rfl
  | some x =>
    rw [hx] at h
    exact if_pos h

section Dropping
variable {e : Ent} {n : Nat} {x : VecIndex} {d : Dev}

/-- The queries of a dropping index: those that wait have left. -/
theorem Dev.dropping_idx : (d.dropping e n x).idx.idx = Tab.upd n (fun x => { x with st := 3, writes := [], waiter := some e }) d.idx.idx ∧
    (d.dropping e n x).idx.queries = ((d.idxQueries n).filter (fun q => q.2.phase == 0)).foldl (fun t q => Tab.del q.1 t) d.idx.queries := by
  have hw (ws : List IdxWrite) (k : Dev) : (ws.foldl (fun d w => d.complete w.ent ST.IDX_DROPPED 0) k).idx = k.idx :=
    foldl_keeps (fun y : Dev => y.idx = k.idx) (fun y w h => (y.complete_idx _ _ _).trans h) ws rfl
  have hq (qs : List (Nat × QueryCtx)) (k : Dev) :
      (qs.foldl (fun d q => (d.queryDel q.1).complete q.2.ent ST.IDX_DROPPED 0) k).idx.idx = k.idx.idx ∧
      (qs.foldl (fun d q => (d.queryDel q.1).complete q.2.ent ST.IDX_DROPPED 0) k).idx.queries = qs.foldl (fun t q => Tab.del q.1 t) k.idx.queries := by
    induction qs generalizing k with
    | nil => exact ⟨rfl, rfl⟩
    | cons q qs ih =>
      obtain ⟨h1, h2⟩ := ih ((k.queryDel q.1).complete q.2.ent ST.IDX_DROPPED 0)
      rw [Dev.complete_idx] at h1 h2
      exact ⟨h1, h2⟩
  refine ⟨(hq _ _).1.trans ?_, (hq _ _).2.trans ?_⟩
  · rw [hw]
    rfl
  · rw [hw]
    rfl

/-- With no query under way a dropped index leaves, its range cleared (R318). -/
theorem Dev.finishDrop_dropping (hx : Tab.look n d.idx.idx = some x) (hq : d.idxQueries n = []) (mem : List Host.Cell) :
    ((d.dropping e n x).finishDrop n mem).1 = Mem.zero x.base (4096 * x.units) mem ∧
      Tab.look n ((d.dropping e n x).finishDrop n mem).2.idx.idx = none := by
  obtain ⟨hidx, hqueries⟩ := Dev.dropping_idx (e := e) (n := n) (x := x) (d := d)
  have hlook : Tab.look n (d.dropping e n x).idx.idx = some { x with st := 3, writes := [], waiter := some e } := by
    rw [hidx, Tab.look_upd_same, hx]
    rfl
  have hnone : (d.dropping e n x).idxQueries n = [] := by
    rw [Dev.idxQueries, hqueries, hq]
    exact hq
  rw [Dev.finishDrop]
  simp only [hlook, hnone]
  refine ⟨rfl, ?_⟩
  rw [if_pos ⟨trivial, rfl⟩, Dev.completeOpt_idx]
  exact Tab.look_del_same _ _

/-- A query that runs keeps a dropped index until its round ends (R318). -/
theorem Dev.finishDrop_running {k : Nat} {c : QueryCtx} (hx : Tab.look n d.idx.idx = some x) (hc : (k, c) ∈ d.idx.queries)
    (hone : ∀ p ∈ d.idx.queries, p.1 = k → p.2 = c) (hi : c.q.index = n) (hph : c.phase ≠ 0) (mem : List Host.Cell) :
    (d.dropping e n x).finishDrop n mem = (mem, d.dropping e n x) := by
  obtain ⟨hidx, hqueries⟩ := Dev.dropping_idx (e := e) (n := n) (x := x) (d := d)
  have hlook : Tab.look n (d.dropping e n x).idx.idx = some { x with st := 3, writes := [], waiter := some e } := by
    rw [hidx, Tab.look_upd_same, hx]
    rfl
  have hstays (qs : List (Nat × QueryCtx)) (hqs : ∀ q ∈ qs, q.1 ≠ k) (t : Tab QueryCtx) (ht : (k, c) ∈ t) : (k, c) ∈ qs.foldl (fun t q => Tab.del q.1 t) t := by
    induction qs generalizing t with
    | nil => exact ht
    | cons q qs ih => exact ih (fun p hp => hqs p (List.mem_cons_of_mem _ hp)) _ (Tab.mem_del ht (hqs q List.mem_cons_self))
  have hmem : (k, c) ∈ (d.dropping e n x).idxQueries n := by
    rw [Dev.idxQueries, List.mem_filter, hqueries]
    refine ⟨hstays _ (fun q hq hk => ?_) _ hc, beq_iff_eq.mpr hi⟩
    obtain ⟨hq, hzero⟩ := List.mem_filter.mp hq
    have hsame := hone q (List.mem_of_mem_filter hq) hk
    rw [hsame, beq_iff_eq] at hzero
    exact hph hzero
  rw [Dev.finishDrop]
  simp only [hlook]
  rw [if_neg (fun h => ?_)]
  exact List.ne_nil_of_mem hmem (List.isEmpty_iff.mp h.2)

end Dropping

section Drop
variable {s : State} {h : EntryHdr} {n : Nat} {e : Ent} {d : Dev} (hs : s.dev.serving = true) (hf : s.dev.fetch 0 64 h = some (e, d))
include hs hf

theorem exec_indexDrop : exec (.indexDrop h n) s = .next (s.afterBoth (d.indexDrop e n s.mem)) := by
  change execIndexDrop h n s = _
  rw [execIndexDrop, onServingMem_after hs]
  simp only [hf]

theorem exec_vecDelete (node : Nat) : exec (.vecDelete h n node) s = .next (s.after
    (if idxStatus (d.indexFor e n) ≠ ST.OK then d.complete e (idxStatus (d.indexFor e n)) 0
    else d.idxUpd n (fun x => { x with writes := x.writes ++ [.delete e node] }))) := by
  change execVecDelete h n node s = _
  rw [execVecDelete, onServing_after hs, Dev.admin_fetched hf]

theorem exec_indexDrop_idle {x : VecIndex} (hx : d.indexFor e n = some x) (h2 : x.st = 2) (hlook : Tab.look n d.idx.idx = some x) (hq : d.idxQueries n = []) :
    ∃ u, exec (.indexDrop h n) s = .next u ∧ u.mem = Mem.zero x.base (4096 * x.units) s.mem ∧ Tab.look n u.dev.idx.idx = none := by
  obtain ⟨hmem, hgone⟩ := Dev.finishDrop_dropping (e := e) hlook hq s.mem
  refine ⟨_, exec_indexDrop hs hf, ?_, ?_⟩
  · rw [Dev.indexDrop_open hx h2]
    exact hmem
  · rw [Dev.indexDrop_open hx h2, State.afterBoth_idx]
    exact hgone

theorem exec_indexDrop_running {x : VecIndex} {k : Nat} {c : QueryCtx} (hx : d.indexFor e n = some x) (h2 : x.st = 2) (hlook : Tab.look n d.idx.idx = some x)
    (hc : (k, c) ∈ d.idx.queries) (hone : ∀ p ∈ d.idx.queries, p.1 = k → p.2 = c) (hi : c.q.index = n) (hph : c.phase ≠ 0) :
    ∃ u, exec (.indexDrop h n) s = .next u ∧ u.mem = s.mem ∧ (Tab.look n u.dev.idx.idx).map (·.st) = some 3 := by
  have hrun := Dev.finishDrop_running (e := e) hlook hc hone hi hph s.mem
  refine ⟨_, exec_indexDrop hs hf, ?_, ?_⟩
  · rw [Dev.indexDrop_open hx h2, hrun]
    rfl
  · rw [Dev.indexDrop_open hx h2, hrun, State.afterBoth_idx, Dev.dropping_idx.1, Tab.look_upd_same, hlook]
    rfl

end Drop

/-! ### VEC_QUERY and VEC_INSERT -/

section Query
variable {s : State} {h : EntryHdr} {t : Nat} {e : Ent} {d : Dev} (hs : s.dev.serving = true) (hf : (s.dev.advance t).fetch 0 64 h = some (e, d))
include hs hf

theorem exec_vecQuery_refused {q : VecQuery} {v : List Byte} (hx : idxStatus (d.indexFor e q.index) ≠ ST.OK) :
    exec (.vecQuery h q v t) s = .next (s.after (d.complete e (idxStatus (d.indexFor e q.index)) 0)) := by
  change execVecQuery h q v t s = _
  rw [execVecQuery, onServing_after hs, Dev.admin_fetched hf]
  cases hi : d.indexFor e q.index with
  | none => rfl
  | some x =>
    rw [hi] at hx
    exact congrArg (fun y => Host.Outcome.next (s.after y)) (if_pos hx)

theorem exec_vecInsert_refused {n key off res : Nat} {v : List Byte} (hx : idxStatus (d.indexFor e n) ≠ ST.OK) :
    exec (.vecInsert h n key off res v t) s = .next (s.after (d.complete e (idxStatus (d.indexFor e n)) 0)) := by
  change execVecInsert h n key off res v t s = _
  rw [execVecInsert, onServing_after hs, Dev.admin_fetched hf]
  cases hi : d.indexFor e n with
  | none => rfl
  | some x =>
    rw [hi] at hx
    exact congrArg (fun y => Host.Outcome.next (s.after y)) (if_pos hx)

theorem exec_vecQuery_open {q : VecQuery} {v : List Byte} {x : VecIndex} (hx : d.indexFor e q.index = some x) (h2 : x.st = 2) :
    exec (.vecQuery h q v t) s = .next (s.after
      (if !d.queryOk e x q v then d.complete e ST.IDX_BADPARAM 0
      else if !d.tableOk x.sector then d.complete e ST.IDX_NOTABLE 0
      else if !d.queryRoom x then d.complete e ST.IDX_BUSY 0
      else d.beginQuery e false x q v)) := by
  have hst : idxStatus (some x) = ST.OK := by rw [idxStatus]; exact if_pos h2
  change execVecQuery h q v t s = _
  rw [execVecQuery, onServing_after hs, Dev.admin_fetched hf]
  simp only [hx]
  rw [if_neg (fun h => h hst)]

theorem exec_vecInsert_open {n key off res : Nat} {v : List Byte} {x : VecIndex} {ok : Bool} (hx : d.indexFor e n = some x) (h2 : x.st = 2)
    (hok : ok = (d.inWindow e off (2 * x.dim) && d.inWindow e res 16 && !(x.metric == 2 && vecZero (vecCodes x.dim v)))) :
    exec (.vecInsert h n key off res v t) s = .next (s.after
      (if !ok then d.complete e ST.IDX_BADPARAM 0
      else if !d.tableOk x.sector then d.complete e ST.IDX_NOTABLE 0
      else (d.idxUpd n (fun x => { x with writes := x.writes ++ [.insert e key v res 0 [] []] })).startInserts n 1)) := by
  have hst : idxStatus (some x) = ST.OK := by rw [idxStatus]; exact if_pos h2
  change execVecInsert h n key off res v t s = _
  rw [execVecInsert, onServing_after hs, Dev.admin_fetched hf]
  simp only [hx]
  rw [if_neg (fun h => h hst), hok]

end Query

end Sys2Proof.Machine
end

section
/-! PROOFS. Vector search: distance tables and read rounds (R313 to R315, R319 to R324). -/
namespace Sys2Proof.Machine

/-! ### Distance tables -/

/-- The table of a query, packed, and the code of an insert's vector (R311 to R315). -/
def VecIndex.packedOf (x : VecIndex) (mem : List Host.Cell) (v : List Byte) : Option (List Nat × FpVal × FpVal) :=
  packTable (x.table (x.metric == 0) (tableRow x.metric (vecCodes x.dim v)) mem)

theorem VecIndex.tabled_vector (x : VecIndex) (mem : List Host.Cell) (c : QueryCtx) : (x.tabled mem c).vector = c.vector ∧ (x.tabled mem c).insert = c.insert ∧
    (x.tabled mem c).q = c.q := by
  unfold VecIndex.tabled
  dsimp only
  split <;> exact ⟨rfl, rfl, rfl⟩

/-- A table computed again is the same. -/
theorem VecIndex.tabled_tabled (x : VecIndex) (mem : List Host.Cell) (c : QueryCtx) : x.tabled mem (x.tabled mem c) = x.tabled mem c := by
  obtain ⟨hv, hi, -⟩ := x.tabled_vector mem c
  conv_lhs => rw [VecIndex.tabled]
  dsimp only
  rw [hv, hi]
  unfold VecIndex.tabled
  dsimp only
  cases packTable (x.table (x.metric == 0) (tableRow x.metric (vecCodes x.dim c.vector)) mem) <;> rfl

/-- A query of a DIST_TABLE gets its table. -/
def Dev.tableQuery (mem : List Host.Cell) (d : Dev) (q : Nat) : Dev :=
  match Tab.look q d.idx.queries with
  | some c => (match Tab.look c.q.index d.idx.idx with
      | some x => { d with idx := { d.idx with queries := Tab.put q (x.tabled mem c) d.idx.queries } }
      | none => d)
  | none => d

section TableQuery
variable {mem : List Host.Cell} {d : Dev}

theorem Dev.tableQuery_keeps (q : Nat) : (d.tableQuery mem q).idx.idx = d.idx.idx ∧ (d.tableQuery mem q).idx.tables = d.idx.tables := by
  unfold Dev.tableQuery
  split
  · split <;> exact ⟨rfl, rfl⟩
  · exact ⟨rfl, rfl⟩

theorem Dev.look_tableQuery_same {q : Nat} {c : QueryCtx} {x : VecIndex} (hc : Tab.look q d.idx.queries = some c) (hx : Tab.look c.q.index d.idx.idx = some x) :
    Tab.look q (d.tableQuery mem q).idx.queries = some (x.tabled mem c) := by
  rw [Dev.tableQuery]
  simp only [hc, hx]
  exact Tab.look_put_same _ _ _

theorem Dev.look_tableQuery_other {q k : Nat} (h : k ≠ q) : Tab.look q (d.tableQuery mem k).idx.queries = Tab.look q d.idx.queries := by
  unfold Dev.tableQuery
  split
  · split
    · exact Tab.look_put_other h _ _
    · rfl
  · rfl

end TableQuery

theorem Dev.tableQueries_keeps (mem : List Host.Cell) (qs : List Nat) (d : Dev) :
    (qs.foldl (Dev.tableQuery mem) d).idx.idx = d.idx.idx ∧ (qs.foldl (Dev.tableQuery mem) d).idx.tables = d.idx.tables :=
  foldl_keeps (fun y : Dev => y.idx.idx = d.idx.idx ∧ y.idx.tables = d.idx.tables)
    (fun y q h => ⟨y.tableQuery_keeps (mem := mem) q |>.1.trans h.1, y.tableQuery_keeps (mem := mem) q |>.2.trans h.2⟩) qs ⟨rfl, rfl⟩

/-- Once a query has its table, further queries leave it. -/
theorem Dev.look_tableQueries_done {mem : List Host.Cell} {q : Nat} {c : QueryCtx} {x : VecIndex} (qs : List Nat) {d : Dev}
    (hc : Tab.look q d.idx.queries = some (x.tabled mem c)) (hx : Tab.look c.q.index d.idx.idx = some x) :
    Tab.look q (qs.foldl (Dev.tableQuery mem) d).idx.queries = some (x.tabled mem c) := by
  induction qs generalizing d with
  | nil => exact hc
  | cons k ks ih =>
    rw [List.foldl_cons]
    refine ih ?_ (by rw [(Dev.tableQuery_keeps k).1]; exact hx)
    by_cases hk : k = q
    · subst hk
      have hx' : Tab.look (x.tabled mem c).q.index d.idx.idx = some x := by rw [(x.tabled_vector mem c).2.2]; exact hx
      rw [Dev.look_tableQuery_same hc hx', x.tabled_tabled]
    · rw [Dev.look_tableQuery_other hk, hc]

theorem Dev.look_tableQueries {mem : List Host.Cell} {q : Nat} {c : QueryCtx} {x : VecIndex} {qs : List Nat} {d : Dev} (hq : q ∈ qs)
    (hc : Tab.look q d.idx.queries = some c) (hx : Tab.look c.q.index d.idx.idx = some x) :
    Tab.look q (qs.foldl (Dev.tableQuery mem) d).idx.queries = some (x.tabled mem c) := by
  induction qs generalizing d with
  | nil => cases hq
  | cons k ks ih =>
    rw [List.foldl_cons]
    have hx' : Tab.look c.q.index (d.tableQuery mem k).idx.idx = some x := by rw [(Dev.tableQuery_keeps k).1]; exact hx
    by_cases hk : k = q
    · subst hk
      exact Dev.look_tableQueries_done ks (Dev.look_tableQuery_same hc hx) hx'
    · refine ih ((List.mem_cons.mp hq).resolve_left (fun h => hk h.symm)) ?_ hx'
      rw [Dev.look_tableQuery_other hk, hc]

@[simp] theorem Dev.cmdRecord_idx (r : CmdRec) (d : Dev) : (d.cmdRecord r).idx = d.idx := by
  have htrace := (Dev.reported_trace false 3 (some r.sector) ⟨0x10, 64, (r.bytes.drop 1).map BitVec.toNat⟩ d).idx
  unfold Dev.cmdRecord
  split
  · dsimp only
    split
    · exact htrace
    · split <;> exact htrace
  · rfl

/-- A DIST_TABLE that may issue gives its queries their tables (R313 to R315). -/
theorem exec_distTable_ready {s : State} {core t : Nat} {d : Dev} {j : TableJob} {js : List TableJob} (hs : s.dev.serving = true) (hd : d = s.dev.advance t)
    (hj : Tab.getD core [] d.idx.tables = j :: js) (hready : d.distReady core j = true) :
    ∃ u, exec (.distTable core t) s = .next u ∧ u.mem = s.mem ∧ Tab.getD core [] u.dev.idx.tables = js ∧
      ∀ q c x, q ∈ j.queries → Tab.look q d.idx.queries = some c → Tab.look c.q.index d.idx.idx = some x →
        Tab.look q u.dev.idx.queries = some (x.tabled s.mem c) := by
  have hev (code eng no : Nat) (cmd : EngCmd) (k : Dev) : (((k.event (some core) (keeperEvent 2 code j.sector k.keeperNo)).coreTrace j.sector core 2 code 1).engineTrace
      j.sector core eng code cmd no).idx = k.idx :=
    ((Dev.reported_trace ..).idx.trans (Dev.reported_trace ..).idx).trans (Dev.reported_event ..).idx
  change ∃ u, execDistTable core t s = .next u ∧ _
  rw [execDistTable, onServingMem_after hs, ← hd]
  dsimp only
  rw [hj]
  dsimp only
  rw [if_pos hready]
  refine ⟨_, rfl, rfl, ?_, fun q c x hq hc hx => ?_⟩
  · rw [State.afterBoth_idx, Dev.cmdRecord_idx, hev]
    refine (congrArg (Tab.getD core []) (Dev.tableQueries_keeps s.mem j.queries _).2).trans ?_
    rw [hev]
    exact Tab.getD_put_same _ _ _ _
  · rw [State.afterBoth_idx, Dev.cmdRecord_idx, hev]
    refine Dev.look_tableQueries hq ?_ ?_
    · rw [hev]
      exact hc
    · rw [hev]
      exact hx

/-- The image core whose list has a DIST_TABLE at its head issues it as any other command. -/
theorem Dev.listTable_runs {d : Dev} {core img : Nat} {i : Issue} (mem : List Host.Cell) (ht : d.tableHead core = some img) (h : d.headRuns core img i) :
    d.listTable core mem = d.engineRan core img i (plainBody EngCtx.distTable (d.issueCtx core img i) i.cmd mem d) := by
  have hop : i.cmd.opcode = 0x20 := by
    obtain ⟨hi, e, he, -⟩ := h
    have hfound := List.find?_some ht
    simp only [hi, he, Bool.and_eq_true, beq_iff_eq] at hfound
    exact hfound.1.1
  rw [Dev.listTable, ht]
  exact runHead_runs hop _ mem h

theorem exec_distTable_list {s : State} {core t img : Nat} {i : Issue} {d : Dev} (hs : s.dev.serving = true) (hd : d = s.dev.advance t)
    (hno : ∀ j js, Tab.getD core [] d.idx.tables = j :: js → d.distReady core j = false) (ht : d.tableHead core = some img) (h : d.headRuns core img i) :
    exec (.distTable core t) s = .next (s.afterBoth (d.engineRan core img i (plainBody EngCtx.distTable (d.issueCtx core img i) i.cmd s.mem d))) := by
  change execDistTable core t s = _
  rw [execDistTable, onServingMem_after hs, ← hd]
  dsimp only
  rw [← Dev.listTable_runs s.mem ht h]
  cases hj : Tab.getD core [] d.idx.tables with
  | nil => rfl
  | cons j js => exact congrArg (fun x => Host.Outcome.next (s.afterBoth x)) (if_neg (by rw [hno j js hj]; exact Bool.false_ne_true))

/-- A DIST_TABLE that has waited goes first, or ends its queries where the core has left the Sector (R314). -/
theorem exec_tableWaitTimer {s : State} {core t : Nat} {d : Dev} {j : TableJob} {js : List TableJob} (hs : s.dev.serving = true) (hd : d = s.dev.advance t)
    (hj : Tab.getD core [] d.idx.tables = j :: js) (hdue : j.since + d.get Reg.IDX_CFG.table_wait_us * 1000 ≤ d.now) :
    exec (.tableWaitTimer core t) s = .next (s.after (if (d.secCores j.sector).contains core
      then { d with idx := { d.idx with tables := Tab.put core ({ j with urgent := true } :: js) d.idx.tables } }
      else j.queries.foldl (fun d q => d.queryFail q ST.IDX_NOTABLE) { d with idx := { d.idx with tables := Tab.put core js d.idx.tables } })) := by
  change execTableWaitTimer core t s = _
  rw [execTableWaitTimer, onServing_after hs, ← hd]
  dsimp only
  rw [hj]
  exact congrArg (fun x => Host.Outcome.next (s.after x)) (if_pos hdue)

/-- The gathered queries of an index whose time has run out go to the table core (R319). -/
theorem exec_queryBatchTimer {s : State} {sector t n since : Nat} {qs : List Nat} {x : VecIndex} {d : Dev} (hs : s.dev.serving = true)
    (hd : d = s.dev.advance t) (hg : d.idx.gather = [(n, (qs, since))]) (hx : Tab.look n d.idx.idx = some x) (hsec : x.sector = sector)
    (hdue : since + d.get Reg.IDX_CFG.batch_us * 1000 ≤ d.now) :
    exec (.queryBatchTimer sector t) s = .next (s.after (d.flushGather n)) := by
  have hdue' : since + us (d.get Reg.IDX_CFG.batch_us) ≤ d.now := hdue
  change execQueryBatchTimer sector t s = _
  rw [execQueryBatchTimer, onServing_after hs, ← hd]
  simp only [hg, List.filter_cons, List.filter_nil, hx, hsec, beq_self_eq_true, Bool.and_true, hdue', decide_true, if_true, List.foldl_cons, List.foldl_nil]

/-! ### Read rounds -/

section Round
variable {d : Dev} {k : Nat} {c : QueryCtx} {x : VecIndex} {failed : List Nat} {mem : List Host.Cell}

/-- What a round leaves of a live index's query: its result, the next round, or the rerank (R321 to R324). -/
theorem Dev.roundDone_live (hc : Tab.look k d.idx.queries = some c) (hx : Tab.look c.q.index d.idx.idx = some x) (hphase : c.phase ≠ 0) (hst : x.st ≠ 3)
    {r : QueryCtx × Bool} {v : Dev} {p : QueryCtx} (hr : r = c.roundRead x mem failed) (hv : v = (d.roundCounted x.sector c failed).roundFlags r)
    (hp : p = r.1.pick.1) :
    d.roundDone k failed mem =
      if c.phase = 3 then (mem, v.queryEnd k x true r.1 mem)
      else if r.1.pick.2 then (mem, { v with idx := { v.idx with queries := Tab.put k p v.idx.queries } })
      else if p.q.rerank && !p.insert then
        (mem, { v with idx := { v.idx with queries := Tab.put k { p with round := p.results.take p.q.rerankN, phase := 3 } v.idx.queries } })
      else (mem, v.queryEnd k x false p mem) := by
  subst hp hv hr
  rw [Dev.roundDone]
  simp only [hc, hx, if_neg hphase, if_neg hst]
  rfl

/-- A round of a query of an index that is being dropped ends it (R318). -/
theorem Dev.roundDone_dropping (hc : Tab.look k d.idx.queries = some c) (hx : Tab.look c.q.index d.idx.idx = some x) (hphase : c.phase ≠ 0) (hst : x.st = 3) :
    d.roundDone k failed mem = (((d.roundCounted x.sector c failed).queryDel k).complete c.ent ST.IDX_DROPPED 0).finishDrop c.q.index mem := by
  rw [Dev.roundDone]
  simp only [hc, hx, if_neg hphase, if_pos hst]
  rfl

end Round

theorem exec_queryRoundDone {s : State} (hs : s.dev.serving = true) (k : Nat) (failed : List Nat) :
    exec (.queryRoundDone k failed) s = .next (s.afterBoth (s.dev.roundDone k failed s.mem)) :=
  onServingMem_after hs ..

section CreateAnswers
variable {s : State} {h : EntryHdr} {n kind src len sector : Nat} {content : List (Nat × List Byte)} {e : Ent} {d : Dev} {b : Nat → Nat → Nat} {x : VecIndex}
  (hs : s.dev.serving = true) (hf : s.dev.fetch 0 64 h = some (e, d)) (hsec : d.entSector e = some sector) (hn : n < 64) (hx : x = idxHeader sector 0 b)
include hs hf hsec hn hx

/-- INDEX_CREATE from host memory: the first failing check's status, or the index in its place (R317). -/
theorem exec_indexCreate_host_answers (hb : ∀ o k, b o k = leNat ((List.range k).map (fun i => contentByte content (o + i)))) (hk : kind = 0) :
    (headerOk b x len = false → exec (.indexCreate h n kind src len content) s = .next (s.after (d.complete e ST.IDX_FORMAT 0))) ∧
    (headerOk b x len = true → Tab.look n d.idx.idx ≠ none →
      exec (.indexCreate h n kind src len content) s = .next (s.after (d.complete e ST.IDX_EXISTS 0))) ∧
    (headerOk b x len = true → Tab.look n d.idx.idx = none → d.rangePlace sector (ceilDiv x.rangeBytes 65536 * 16) = none →
      exec (.indexCreate h n kind src len content) s = .next (s.after (d.complete e ST.IDX_NOSPACE 0))) ∧
    (∀ u, headerOk b x len = true → Tab.look n d.idx.idx = none → d.rangePlace sector (ceilDiv x.rangeBytes 65536 * 16) = some u →
      ∃ k : Dev, exec (.indexCreate h n kind src len content) s = .next (s.afterBoth
        (writeContent (tierAddr 2 sector (4096 * u)) x.rangeBytes content s.mem, k.complete e ST.OK 0)) ∧
        Tab.look n k.idx.idx = some { x with base := tierAddr 2 sector (4096 * u), units := ceilDiv x.rangeBytes 65536 * 16 }) := by
  rw [exec_indexCreate_host hs hf hsec hn hx hb hk]
  generalize d.rangePlace sector (ceilDiv x.rangeBytes 65536 * 16) = o
  rw [Dev.createFrom_host]
  refine ⟨fun hok => ?_, fun hok hl => ?_, fun hok hl ho => ?_, fun u hok hl ho => ?_⟩ <;> simp -zeta only [hok, Bool.not_true, Bool.not_false, Bool.false_eq_true, if_true, if_false]
  · exact congrArg Host.Outcome.next (State.afterBoth_mem ..)
  · rw [if_pos (Tab.has_of_look_ne hl)]
    exact congrArg Host.Outcome.next (State.afterBoth_mem ..)
  · rw [if_neg (by rw [Tab.has_of_look_none hl]; decide), ho]
    exact congrArg Host.Outcome.next (State.afterBoth_mem ..)
  · rw [if_neg (by rw [Tab.has_of_look_none hl]; decide), ho]
    exact ⟨_, rfl, Tab.look_put_same _ _ _⟩

/-- INDEX_CREATE from an extent: the first failing check's status, or the index opens on the extent in place (R317). -/
theorem exec_indexCreate_extent_answers {j : Nat} {y : Extent} (hk : kind = 2) (hy : d.sectorExtent src sector = some (j, y))
    (hb : ∀ o k, b o k = leNat (Mem.reads (poolAddr j o) k s.mem)) :
    (headerOk b x (min len y.bytes) = false → exec (.indexCreate h n kind src len content) s = .next (s.after (d.complete e ST.IDX_FORMAT 0))) ∧
    (headerOk b x (min len y.bytes) = true → Tab.look n d.idx.idx ≠ none →
      exec (.indexCreate h n kind src len content) s = .next (s.after (d.complete e ST.IDX_EXISTS 0))) ∧
    (headerOk b x (min len y.bytes) = true → Tab.look n d.idx.idx = none →
      exec (.indexCreate h n kind src len content) s = .next (s.after
        (d.openExtent e n sector j { x with base := poolAddr j 0, units := ceilDiv x.rangeBytes 65536 * 16 }))) := by
  rw [exec_indexCreate_extent hs hf hsec hn hx hk hy hb]
  generalize d.rangePlace sector (ceilDiv x.rangeBytes 65536 * 16) = o
  rw [Dev.createFrom_extent]
  refine ⟨fun hok => ?_, fun hok hl => ?_, fun hok hl => ?_⟩ <;> simp -zeta only [hok, Bool.not_true, Bool.not_false, Bool.false_eq_true, if_true, if_false]
  · exact congrArg Host.Outcome.next (State.afterBoth_mem ..)
  · rw [if_pos (Tab.has_of_look_ne hl)]
    exact congrArg Host.Outcome.next (State.afterBoth_mem ..)
  · rw [if_neg (by rw [Tab.has_of_look_none hl]; decide)]
    exact congrArg Host.Outcome.next (State.afterBoth_mem ..)

end CreateAnswers

/-- Settles O51: vector index commands, distance tables and read rounds complete. -/
theorem vectorSearchComplete : Obligations.VectorSearchComplete := by
  refine ⟨⟨fun s h n kind src len content e d sector hs hf hsec => ⟨fun hbad => ?_,
        fun b x hn hb hxb hkind => exec_indexCreate_host_answers hs hf hsec hn hxb hb hkind,
        fun b x j y hn hkind hext hb hxb => exec_indexCreate_extent_answers hs hf hsec hn hxb hkind hext hb⟩,
      fun s h n e d hs hf => ⟨fun hst => ⟨?_, fun node => (exec_vecDelete hs hf node).trans ?_⟩, fun hst node => (exec_vecDelete hs hf node).trans ?_,
        fun x hx hst hlook => ⟨exec_indexDrop_idle hs hf hx hst hlook, fun q c hmem huniq hidx hphase => exec_indexDrop_running hs hf hx hst hlook hmem huniq hidx hphase⟩⟩,
      fun s h t e d hs hf => ⟨fun q v hst => exec_vecQuery_refused hs hf hst, fun q v x hx hst => ?_, fun n key off res v hst => exec_vecInsert_refused hs hf hst,
        fun n key off res v x ok hx hst hok => ?_⟩⟩,
    ⟨fun s core t d hs hd => ⟨fun j js hj hready => exec_distTable_ready hs hd hj hready, fun img i hno ht h => exec_distTable_list hs hd hno ht h,
        fun j js hj hdue => ⟨fun hin => (exec_tableWaitTimer hs hd hj hdue).trans (by rw [if_pos hin]),
          fun hout => (exec_tableWaitTimer hs hd hj hdue).trans (by rw [if_neg (by rw [hout]; decide)])⟩⟩,
      fun s sector t n since qs x d hs hd hg hx hsec hdue => exec_queryBatchTimer hs hd hg hx hsec hdue,
      fun s k c x failed d hs hc hx hphase hd => ⟨fun hst => ?_, fun r v p hst hr hv hp => ?_⟩⟩⟩
  · rw [exec_indexCreate hs hf, Dev.indexCreate_badParam hsec hbad]
    exact congrArg Host.Outcome.next (State.afterBoth_mem ..)
  · rw [exec_indexDrop hs hf, Dev.indexDrop_refused hst]
    exact congrArg Host.Outcome.next (State.afterBoth_mem ..)
  · rw [if_pos hst]
  · rw [if_neg (fun h => h hst)]
  · rw [exec_vecQuery_open hs hf hx hst]
    exact ⟨fun hok => by simp only [hok, Bool.not_false, if_true], fun hok ht => by simp only [hok, ht, Bool.not_true, Bool.not_false, Bool.false_eq_true, if_false, if_true],
      fun hok ht hr => by simp only [hok, ht, hr, Bool.not_true, Bool.not_false, Bool.false_eq_true, if_false, if_true],
      fun hok ht hr => by simp only [hok, ht, hr, Bool.not_true, Bool.false_eq_true, if_false]⟩
  · rw [exec_vecInsert_open hs hf hx hst hok]
    exact ⟨fun hok => by simp only [hok, Bool.not_false, if_true], fun hok ht => by simp only [hok, ht, Bool.not_true, Bool.not_false, Bool.false_eq_true, if_false, if_true],
      fun hok ht => by simp only [hok, ht, Bool.not_true, Bool.false_eq_true, if_false]⟩
  · rw [exec_queryRoundDone hs, Dev.roundDone_dropping hc hx hphase hst, hd]
  · rw [exec_queryRoundDone hs, Dev.roundDone_live hc hx hphase hst hr (hd ▸ hv) hp]
    refine ⟨fun h3 => ?_, fun h3 hgo => ?_, fun h3 hgo hre hin => ?_, fun h3 hgo hend => ?_⟩
    · rw [if_pos h3]
      exact congrArg Host.Outcome.next (State.afterBoth_mem ..)
    · rw [if_neg h3, if_pos hgo]
      exact congrArg Host.Outcome.next (State.afterBoth_mem ..)
    · rw [if_neg h3, if_neg (by rw [hgo]; decide), if_pos (by rw [hre, hin]; rfl)]
      exact congrArg Host.Outcome.next (State.afterBoth_mem ..)
    · have hno : ¬ (p.q.rerank && !p.insert) = true := by
        rcases hend with h | h <;> rw [h]
        · rw [Bool.false_and]
          exact Bool.false_ne_true
        · rw [Bool.not_true, Bool.and_false]
          exact Bool.false_ne_true
      rw [if_neg h3, if_neg (by rw [hgo]; decide), if_neg hno]
      exact congrArg Host.Outcome.next (State.afterBoth_mem ..)

end Sys2Proof.Machine
end

section
/-! PROOFS. The writer, the repair sweep and the return of node slots (R325 to R330). -/
namespace Sys2Proof.Machine

/-! ### What an index keeps while searches start

Searches that start, and queries that fail before their walk, change nothing of an index but its waiting commands. -/

/-- An index without its waiting commands. -/
def Dev.bareIndex (n : Nat) (d : Dev) : Option VecIndex := (Tab.look n d.idx.idx).map (fun x => { x with writes := [] })

section BareIndex
variable {n : Nat} {d : Dev}

theorem Dev.bareIndex_of_idx {k : Dev} (h : k.idx.idx = d.idx.idx) : k.bareIndex n = d.bareIndex n := by
  rw [Dev.bareIndex, h]
  rfl

theorem Dev.bareIndex_writes (m : Nat) (f : List IdxWrite → List IdxWrite) :
    (d.idxUpd m (fun x => { x with writes := f x.writes })).bareIndex n = d.bareIndex n := by
  change (Tab.look n (Tab.upd m _ d.idx.idx)).map _ = (Tab.look n d.idx.idx).map _
  by_cases h : m = n
  · rw [h, Tab.look_upd_same, Option.map_map]
    rfl
  · rw [Tab.look_upd_other h]

theorem Dev.bareIndex_complete (e : Ent) (st res : Nat) : (d.complete e st res).bareIndex n = d.bareIndex n :=
  Dev.bareIndex_of_idx (by rw [Dev.complete_idx])

theorem Dev.bareIndex_queryFail (q st : Nat) : (d.queryFail q st).bareIndex n = d.bareIndex n := by
  have hdel : ∀ k : Nat, (d.queryDel k).bareIndex n = d.bareIndex n := fun _ => rfl
  unfold Dev.queryFail
  split
  · rfl
  · dsimp only
    split
    · exact (Dev.bareIndex_writes _ (fun ws => ws.filter (fun w => w.ent != _))).trans (Dev.bareIndex_complete _ _ _)
    · exact Dev.bareIndex_complete _ _ _

theorem Dev.takeTabCore_idx (m : Nat) : (d.takeTabCore m).idx = d.idx := by
  have hadopt (l : List (Nat × Nat)) (k : Dev) : (k.adopt l).idx = k.idx := foldl_keeps (fun y : Dev => y.idx = k.idx) (by exact fun _ _ h => h) l rfl
  exact foldl_keeps (fun y : Dev => y.idx = d.idx) (by exact fun y p h => (hadopt _ y).trans h) _ rfl

theorem Dev.bareIndex_flushGather (m : Nat) : (d.flushGather m).bareIndex n = d.bareIndex n := by
  unfold Dev.flushGather
  split
  · next g x _ _ =>
    have htake (k : Dev) (h : k.idx.idx = d.idx.idx) : (k.takeTabCore x.sector).bareIndex n = d.bareIndex n :=
      Dev.bareIndex_of_idx (by rw [Dev.takeTabCore_idx, h])
    dsimp only
    split
    · exact htake _ rfl
    · exact foldl_keeps (fun y : Dev => y.bareIndex n = d.bareIndex n) (fun y q h => (y.bareIndex_queryFail q _).trans h) g.1 (htake _ rfl)
  · rfl

theorem Dev.bareIndex_beginQuery (e : Ent) (insert : Bool) (x : VecIndex) (q : VecQuery) (v : List Byte) : (d.beginQuery e insert x q v).bareIndex n = d.bareIndex n := by
  unfold Dev.beginQuery
  dsimp only
  split
  · exact Dev.bareIndex_flushGather _
  · rfl

theorem Dev.bareIndex_startInserts (m fuel : Nat) : (d.startInserts m fuel).bareIndex n = d.bareIndex n := by
  induction fuel generalizing d with
  | zero => rfl
  | succ fuel ih =>
    rw [Dev.startInserts]
    split
    · rfl
    · split
      · split
        · next e key v off p code found _ =>
          exact ih.trans ((Dev.bareIndex_beginQuery ..).trans
            (Dev.bareIndex_writes _ (fun ws => ws.map (fun w => if w.ent = e then .insert e key v off 1 [] [] else w))))
        · rfl
      · rfl

theorem Dev.bareIndex_startAllInserts : d.startAllInserts.bareIndex n = d.bareIndex n :=
  foldl_keeps (fun y : Dev => y.bareIndex n = d.bareIndex n) (fun y e h => (y.bareIndex_startInserts e.1 _).trans h) d.idx.idx rfl

/-- A field of an index that searches leave alone, as the next state holds it. -/
theorem State.after_bareIndex {α : Type} {s : State} {r : List Host.Cell × Dev} {z : VecIndex} (h : r.2.bareIndex n = some z)
    (f : VecIndex → α) (hf : ∀ y : VecIndex, f { y with writes := [] } = f y) {v : α} (hv : f z = v) :
    (Tab.look n (s.afterBoth r).dev.idx.idx).map f = some v := by
  subst hv
  obtain ⟨mem, k⟩ := r
  obtain ⟨y, hy, rfl⟩ := Option.map_eq_some_iff.mp h
  rw [State.afterBoth_idx, hy, Option.map_some, hf]

theorem Dev.bareIndex_upd {x : VecIndex} (hx : Tab.look n d.idx.idx = some x) (f : VecIndex → VecIndex) :
    (d.idxUpd n f).bareIndex n = some { f x with writes := [] } := by
  change (Tab.look n (Tab.upd n f d.idx.idx)).map _ = _
  rw [Tab.look_upd_same, hx]
  rfl

end BareIndex

/-! ### The writer (R325 to R327) -/

section Writer
variable {n : Nat} {x : VecIndex} {e : Ent} {mem : List Host.Cell} {d : Dev} {bad : Bool}

theorem Dev.writePayload_idx (off : Nat) (bytes : List Byte) : (d.writePayload e off bytes).idx = d.idx := by
  unfold Dev.writePayload
  split <;> rfl

section Delete
variable {node : Nat}

theorem Dev.writeDelete_noNode (h : x.hwm ≤ node ∨ (bad = false ∧ (x.readRec node mem).inUse = false)) :
    d.writeDelete n x e node bad mem = (mem, d.writeEnd n e ST.IDX_NONODE 0) := by
  rw [Dev.writeDelete]
  dsimp only
  by_cases hw : node ≥ x.hwm
  · rw [if_pos hw]
  · obtain ⟨hb, hu⟩ := h.resolve_left hw
    rw [if_neg hw, if_neg (by rw [hb]; decide), if_pos (by rw [hu]; rfl)]

theorem Dev.writeDelete_unreadable (hw : node < x.hwm) (hb : bad = true) :
    d.writeDelete n x e node bad mem = (mem, ((d.flag Reg.IDX_ERR.read_error).bump Reg.IDX_READ_ERRORS.count 1).writeEnd n e ST.IDX_READFAIL 0) := by
  rw [Dev.writeDelete]
  dsimp only
  rw [if_neg (by omega), if_pos hb]

/-- A delete whose record can be read and is in use (R327). -/
theorem Dev.writeDelete_inUse (hw : node < x.hwm) (hb : bad = false) (hu : (x.readRec node mem).inUse = true) :
    d.writeDelete n x e node bad mem = if (x.readRec node mem).del ≠ noTomb then (mem, d.writeEnd n e ST.IDX_DELETED 0)
      else (x.writeRec node { x.readRec node mem with del := x.epoch + 1 } mem,
        (((d.idxUpd n (fun x => { x with epoch := x.epoch + 1, tombs := node :: x.tombs, writes := x.writes.drop 1 })).bump Reg.IDX_DELETES.count 1).complete e ST.OK
          (wrap 48 (x.epoch + 1))).startAllInserts) := by
  rw [Dev.writeDelete]
  dsimp only
  rw [if_neg (by omega), if_neg (by rw [hb]; decide), if_neg (by rw [hu]; decide)]

end Delete

section Insert
variable {key off : Nat} {v : List Byte} {code found : List Nat}

theorem Dev.writeInsert_full (hf : x.freed = []) (hc : x.capacity ≤ x.hwm) :
    d.writeInsert n x e key v off code found bad mem = (mem, d.writeEnd n e ST.IDX_FULL 0) := by
  rw [Dev.writeInsert]
  dsimp only
  rw [if_pos ⟨by rw [hf]; rfl, hc⟩]

theorem insertRoom_not_full (h : x.freed ≠ [] ∨ x.hwm < x.capacity) : ¬ (x.freed.min?.isNone = true ∧ x.hwm ≥ x.capacity) := by
  rintro ⟨hnone, hfull⟩
  rw [Option.isNone_iff_eq_none, List.min?_eq_none_iff] at hnone
  exact h.elim (fun hf => hf hnone) (by omega)

theorem Dev.writeInsert_unreadable (h : x.freed ≠ [] ∨ x.hwm < x.capacity) (hb : bad = true) :
    d.writeInsert n x e key v off code found bad mem =
      (mem, ((d.flag Reg.IDX_ERR.read_error).bump Reg.IDX_READ_ERRORS.count 1).writeEnd n e ST.IDX_READFAIL 0) := by
  rw [Dev.writeInsert]
  dsimp only
  rw [if_neg (insertRoom_not_full h), if_pos hb]

/-- An insert takes its node at the next epoch (R326). -/
theorem Dev.bareIndex_writeInsert (h : x.freed ≠ [] ∨ x.hwm < x.capacity) (hb : bad = false) (hx : Tab.look n d.idx.idx = some x) {node : Nat}
    (hn : node = x.freed.min?.getD x.hwm) :
    (d.writeInsert n x e key v off code found bad mem).2.bareIndex n =
      some { x with epoch := x.epoch + 1, hwm := max x.hwm (node + 1), freed := x.freed.erase node, entries := if x.entries.isEmpty then [node] else x.entries, writes := [] } := by
  subst hn
  rw [Dev.writeInsert]
  dsimp only
  rw [if_neg (insertRoom_not_full h), if_neg (by rw [hb]; decide)]
  refine Dev.bareIndex_startAllInserts.trans ((Dev.bareIndex_complete ..).trans ((Dev.bareIndex_of_idx ?_).trans
    (Dev.bareIndex_upd hx (fun _ => { x with
      epoch := x.epoch + 1, hwm := max x.hwm (x.freed.min?.getD x.hwm + 1), freed := x.freed.erase (x.freed.min?.getD x.hwm),
      entries := if x.entries.isEmpty then [x.freed.min?.getD x.hwm] else x.entries, writes := x.writes.drop 1 }))))
  rw [Dev.writePayload_idx]
  rfl

end Insert

end Writer

section Exec
variable {s : State} {n : Nat} {x : VecIndex} (hs : s.dev.serving = true) (hx : Tab.look n s.dev.idx.idx = some x)
include hs hx

theorem exec_insertWritePhase_delete {e : Ent} {node : Nat} {rest : List IdxWrite} (hw : x.writes = .delete e node :: rest) (bad : Bool) :
    exec (.insertWritePhase n bad) s = .next (s.afterBoth (s.dev.writeDelete n x e node bad s.mem)) := by
  change execInsertWritePhase n bad s = _
  rw [execInsertWritePhase, onServingMem_after hs]
  simp only [hx, hw]

theorem exec_insertWritePhase_insert {e : Ent} {key off : Nat} {v : List Byte} {code found : List Nat} {rest : List IdxWrite}
    (hw : x.writes = .insert e key v off 2 code found :: rest) (bad : Bool) :
    exec (.insertWritePhase n bad) s = .next (s.afterBoth (s.dev.writeInsert n x e key v off code found bad s.mem)) := by
  change execInsertWritePhase n bad s = _
  rw [execInsertWritePhase, onServingMem_after hs]
  simp only [hx, hw]

/-! ### The sweep and the freed slots (R329, R330) -/

theorem exec_repairSweep (bad : Bool) :
    exec (.repairSweep n bad) s = .next (s.afterBoth (if x.st = 2 ∧ x.hwm ≠ 0 ∧ s.dev.get (Reg.IDX_REPAIR.share n) ≠ 0 then s.dev.sweep n x bad s.mem else (s.mem, s.dev))) := by
  change execRepairSweep n bad s = _
  rw [execRepairSweep, onServingMem_after hs]
  simp only [hx]

end Exec

/-- A block that cannot be read is skipped (R329). -/
theorem Dev.sweep_unreadable (n : Nat) (x : VecIndex) (mem : List Host.Cell) (d : Dev) : (d.sweep n x true mem).1 = mem := by
  unfold Dev.sweep
  dsimp only
  split <;> rfl

/-- What an index is once a freed slot's node ID has returned (R330). -/
def VecIndex.slotFreed (x : VecIndex) (node : Nat) (mem : List Host.Cell) : VecIndex :=
  let heir := ((x.readRec node mem).neighs.filter (fun g => (x.readRec g.node mem).visible x.epoch)).head?
  let es := match heir with | some g => x.entries.map (fun n => if n = node then g.node else n) | none => x.entries.erase node
  { x with entries := if x.entries.contains node then es.eraseDups else x.entries, freed := node :: x.freed, tombs := x.tombs.filter (fun n => n != node),
           passTombs := x.passTombs.filter (fun n => n != node), freeable := x.freeable.filter (fun e => e.1 != node) }

section NodeSlotFree
variable {s : State} {n : Nat} {x : VecIndex} (hs : s.dev.serving = true) (hx : Tab.look n s.dev.idx.idx = some x) {node del : Nat}
  (hfree : x.freeable.find? (fun e => e.1 == node) = some (node, del)) (hst : x.st = 2)
include hs hx hfree

theorem exec_nodeSlotFree_held (hheld : s.dev.nodeHeld n x node del s.mem = true) : exec (.nodeSlotFree n node) s = .next (s.after s.dev) := by
  change execNodeSlotFree n node s = _
  rw [execNodeSlotFree, onServingMem_after hs]
  simp only [hx, hfree, hheld, Bool.not_true, Bool.false_eq_true, and_false, if_false]
  exact congrArg Host.Outcome.next (State.afterBoth_mem ..)

include hst

/-- A slot that nothing holds returns its node ID (R330). -/
theorem exec_nodeSlotFree_free (hheld : s.dev.nodeHeld n x node del s.mem = false) :
    ∃ mem, exec (.nodeSlotFree n node) s = .next (s.afterBoth (mem, s.dev.idxUpd n (fun _ => x.slotFreed node s.mem))) := by
  change ∃ mem, execNodeSlotFree n node s = _
  rw [execNodeSlotFree, onServingMem_after hs]
  simp only [hx, hfree]
  rw [if_pos ⟨hst, by rw [hheld]; rfl⟩]
  exact ⟨_, rfl⟩

end NodeSlotFree

/-- Settles O52: the writer, the repair sweep and the return of node slots complete. -/
theorem vectorWritesComplete : Obligations.VectorWritesComplete := by
  intro s n x hs hx
  refine ⟨fun e node rest bad hw => ?_, fun e key v off code found rest bad hw => ?_, fun bad => ⟨fun h => ⟨?_, fun hb => ?_⟩, fun h => ?_⟩,
    fun node del hfree hst => ⟨exec_nodeSlotFree_held hs hx hfree, fun hheld => ?_⟩⟩
  · rw [exec_insertWritePhase_delete hs hx hw]
    refine ⟨fun h => ?_, fun hlt hb => ?_, fun hlt hb hu hd => ?_, fun hlt hb hu hd => ⟨_, rfl, ?_⟩⟩
    · rw [Dev.writeDelete_noNode h, State.afterBoth_mem]
    · rw [Dev.writeDelete_unreadable hlt hb, State.afterBoth_mem]
    · rw [Dev.writeDelete_inUse hlt hb hu, if_pos hd, State.afterBoth_mem]
    · rw [Dev.writeDelete_inUse hlt hb hu, if_neg (fun h => h hd)]
      have hbare := Dev.bareIndex_startAllInserts.trans ((Dev.bareIndex_complete (d := (s.dev.idxUpd n (fun x =>
        { x with epoch := x.epoch + 1, tombs := node :: x.tombs, writes := x.writes.drop 1 })).bump Reg.IDX_DELETES.count 1) e ST.OK (wrap 48 (x.epoch + 1))).trans
          (Dev.bareIndex_upd hx _))
      exact ⟨rfl, State.after_bareIndex hbare (fun y => y.epoch) (fun _ => rfl) rfl, State.after_bareIndex hbare (fun y => y.tombs) (fun _ => rfl) rfl⟩
  · rw [exec_insertWritePhase_insert hs hx hw]
    refine ⟨fun hf hc => ?_, fun h hb => ?_, fun node h hb hn => ⟨_, rfl, ?_⟩⟩
    · rw [Dev.writeInsert_full hf hc, State.afterBoth_mem]
    · rw [Dev.writeInsert_unreadable h hb, State.afterBoth_mem]
    · have hbare := Dev.bareIndex_writeInsert (e := e) (key := key) (off := off) (v := v) (code := code) (found := found) (mem := s.mem) h hb hx hn
      exact ⟨State.after_bareIndex hbare (fun y => y.epoch) (fun _ => rfl) rfl, State.after_bareIndex hbare (fun y => y.hwm) (fun _ => rfl) rfl,
        State.after_bareIndex hbare (fun y => y.freed) (fun _ => rfl) rfl⟩
  · rw [exec_repairSweep hs hx, if_pos h]
  · rw [hb]
    exact Dev.sweep_unreadable n x s.mem s.dev
  · rw [exec_repairSweep hs hx, if_neg (fun ⟨h2, h0, hshare⟩ => h.elim (fun g => g h2) (fun g => g.elim h0 hshare)), State.afterBoth_mem]
  · obtain ⟨mem, hexec⟩ := exec_nodeSlotFree_free hs hx hfree hst hheld
    have hbare := Dev.bareIndex_upd hx (fun _ => x.slotFreed node s.mem)
    refine ⟨_, hexec, State.after_bareIndex hbare (fun y => y.freed) (fun _ => rfl) rfl, State.after_bareIndex hbare (fun y => y.freeable) (fun _ => rfl) rfl, fun hno => ?_⟩
    refine State.after_bareIndex hbare (fun y => y.entries) (fun _ => rfl) ?_
    rw [VecIndex.slotFreed]
    exact if_neg (by rw [hno]; decide)

end Sys2Proof.Machine
end

section
/-! PROOFS. The passes of a checkpoint (R397 to R403, R412). -/
namespace Sys2Proof.Machine

theorem State.after_ckpt (s : State) (d : Dev) : (s.after d).dev.ckpt = d.ckpt := sendFrames_ckpt s.dev d

theorem Dev.sendPeers_keeps (m : CkptMsg) (d : Dev) : (d.sendPeers m).regs = d.regs ∧ (d.sendPeers m).ckpt = d.ckpt :=
  foldl_keeps (fun z : Dev => z.regs = d.regs ∧ z.ckpt = d.ckpt) (by exact fun z p h => h) d.ckptPeers ⟨rfl, rfl⟩

/-! ### A checkpoint begins (R397, R398) -/

section Take
variable {d : Dev} {ent : Option Ent} {mask newest : Nat} {full peers : Bool}

theorem Dev.takeCkpt_notCoordinator (h : d.isCoordinator = false) : d.takeCkpt ent mask full peers newest = (ST.CKPT_NOTCOORD, d) := by
  rw [Dev.takeCkpt, if_pos (by rw [h]; rfl)]

variable (hc : d.isCoordinator = true)
include hc

theorem Dev.takeCkpt_busy (h : d.ckpt.run.isSome = true ∨ d.ckpt.restoring.isSome = true) : d.takeCkpt ent mask full peers newest = (ST.CKPT_BUSY, d) := by
  have hbusy : (d.ckpt.run.isSome || d.ckpt.restoring.isSome) = true := Bool.or_eq_true_iff.mpr h
  rw [Dev.takeCkpt, if_neg (by rw [hc]; decide), if_pos hbusy]

variable (hrun : d.ckpt.run = none) (hres : d.ckpt.restoring = none)
include hrun hres

theorem Dev.takeCkpt_noPeer (hp : peers = false) : d.takeCkpt ent mask full peers newest = (ST.CKPT_PEER, d) := by
  rw [Dev.takeCkpt, if_neg (by rw [hc]; decide), if_neg (by rw [hrun, hres]; decide), if_pos (by rw [hp]; rfl)]

theorem Dev.takeCkpt_noKey (hp : peers = true) (hk : d.seedsOk d.domainId mask = false) : d.takeCkpt ent mask full peers newest = (ST.CKPT_NOKEY, d) := by
  rw [Dev.takeCkpt, if_neg (by rw [hc]; decide), if_neg (by rw [hrun, hres]; decide), if_neg (by rw [hp]; decide), if_pos (by rw [hk]; rfl)]

/-- A checkpoint that passes its checks sends QUIESCE to every group. -/
theorem Dev.takeCkpt_starts (hp : peers = true) (hk : d.seedsOk d.domainId mask = true) :
    ∃ k, d.takeCkpt ent mask full peers newest = (ST.OK, k) ∧ k.get Reg.CKPT_STATUS.phase = 1 ∧ k.ckpt.lastAt = d.ckpt.lastAt ∧
      k.ckpt.run = some (CkptRun.start ((newest + 1) % 2 ^ 64) mask full true ent d.now) ∧
      ∃ m, k.out.head? = some (.ckptMsg none m) ∧ m.kind = 0x20 ∧ m.seq = (newest + 1) % 2 ^ 64 := by
  rw [Dev.takeCkpt, if_neg (by rw [hc]; decide), if_neg (by rw [hrun, hres]; decide), if_neg (by rw [hp]; decide), if_neg (by rw [hk]; decide)]
  refine ⟨_, rfl, ?_, ?_, ?_, _, rfl, rfl, rfl⟩
  · exact (Dev.get_of_regs (Dev.sendPeers_keeps _ _).1).trans (Dev.get_put_same _ _ _)
  · change (Dev.sendPeers _ _).ckpt.lastAt = _
    rw [(Dev.sendPeers_keeps _ _).2]
    rfl
  · change (Dev.sendPeers _ _).ckpt.run = _
    rw [(Dev.sendPeers_keeps _ _).2]
    rfl

end Take

section TakeExec
variable {s : State} {h : EntryHdr} {e : Ent} {d : Dev} {mask newest t : Nat} {full peers : Bool}
  (hs : s.dev.serving = true) (hf : (s.dev.advance t).fetch 0 64 h = some (e, d))
include hs hf

theorem exec_ckptTake_denied (ho : d.fromOwner e = false) : exec (.ckptTake h mask full peers newest t) s = .next (s.after (d.complete e ST.CKPT_DENIED 0)) := by
  change execCkptTake h mask full peers newest t s = _
  rw [execCkptTake, onServing_after hs, Dev.ownerAdmin_denied hf ho]

variable (ho : d.fromOwner e = true)
include ho

theorem exec_ckptTake : exec (.ckptTake h mask full peers newest t) s = .next (s.after
    (if (d.takeCkpt (some e) mask full peers newest).1 = ST.OK then (d.takeCkpt (some e) mask full peers newest).2
      else d.complete e (d.takeCkpt (some e) mask full peers newest).1 0)) := by
  change execCkptTake h mask full peers newest t s = _
  rw [execCkptTake, onServing_after hs, Dev.ownerAdmin_of_fetch hf ho]

theorem exec_ckptTake_refused {st : Nat} (hst : st ≠ ST.OK) (hr : d.takeCkpt (some e) mask full peers newest = (st, d)) :
    exec (.ckptTake h mask full peers newest t) s = .next (s.after (d.complete e st 0)) := by
  rw [exec_ckptTake hs hf ho, hr, if_neg hst]

theorem exec_ckptTake_starts (hc : d.isCoordinator = true) (hrun : d.ckpt.run = none) (hres : d.ckpt.restoring = none) (hp : peers = true)
    (hk : d.seedsOk d.domainId mask = true) :
    ∃ u, exec (.ckptTake h mask full peers newest t) s = .next u ∧ u.dev.get Reg.CKPT_STATUS.phase = 1 ∧
      u.dev.ckpt.run = some (CkptRun.start ((newest + 1) % 2 ^ 64) mask full true (some e) d.now) ∧
      (∃ m, u.dev.out.head? = some (.ckptMsg none m) ∧ m.kind = 0x20 ∧ m.seq = (newest + 1) % 2 ^ 64) := by
  obtain ⟨k, hr, hphase, -, hrun', hout⟩ := Dev.takeCkpt_starts (ent := some e) (newest := newest) (full := full) hc hrun hres hp hk
  refine ⟨s.after k, by rw [exec_ckptTake hs hf ho, hr, if_pos rfl], ?_, ?_, ?_⟩
  · rw [State.after_get, hphase]
  · rw [State.after_ckpt, hrun']
  · rw [State.after_out]
    exact hout

end TakeExec

section Interval
variable {s : State} {peers : Bool} {newest t mask : Nat} {d k : Dev} (hs : s.dev.serving = true) (hd : d = s.dev.advance t)
  (hi : d.get Reg.CKPT_CFG.interval_s ≠ 0) (hc : d.isCoordinator = true) (hdue : d.ckpt.lastAt + 1000000000 * d.get Reg.CKPT_CFG.interval_s ≤ d.now)
  (hmask : mask = ((List.range 16).map (fun n => if d.present n then 2 ^ n else 0)).sum) (hk : k = { d with ckpt := { d.ckpt with lastAt := d.now } })
include hs hd hi hc hdue hmask hk

theorem exec_ckptIntervalTimer : exec (.ckptIntervalTimer peers newest t) s = .next (s.after
    (if k.ckpt.run.isSome || k.ckpt.restoring.isSome then k
      else if (k.takeCkpt none mask false peers newest).1 = ST.OK then (k.takeCkpt none mask false peers newest).2
        else k.put Reg.CKPT_STATUS.status (k.takeCkpt none mask false peers newest).1)) := by
  have hcond : d.get Reg.CKPT_CFG.interval_s ≠ 0 ∧ d.isCoordinator = true ∧ d.ckpt.lastAt + ms (1000 * d.get Reg.CKPT_CFG.interval_s) ≤ d.now :=
    ⟨hi, hc, by rw [ms]; omega⟩
  change execCkptIntervalTimer peers newest t s = _
  rw [execCkptIntervalTimer, onServing_after hs, ← hd, if_pos hcond, hk, hmask]
  rfl

theorem exec_ckptIntervalTimer_busy (h : d.ckpt.run.isSome = true ∨ d.ckpt.restoring.isSome = true) :
    exec (.ckptIntervalTimer peers newest t) s = .next (s.after k) := by
  have hbusy : (k.ckpt.run.isSome || k.ckpt.restoring.isSome) = true := by
    rw [hk]
    exact Bool.or_eq_true_iff.mpr h
  rw [exec_ckptIntervalTimer hs hd hi hc hdue hmask hk, if_pos hbusy]

variable (hrun : d.ckpt.run = none) (hres : d.ckpt.restoring = none)
include hrun hres

theorem exec_ckptIntervalTimer_refused {st : Nat} (hst : st ≠ ST.OK) (hr : k.takeCkpt none mask false peers newest = (st, k)) :
    exec (.ckptIntervalTimer peers newest t) s = .next (s.after (k.put Reg.CKPT_STATUS.status st)) := by
  have hidle : (k.ckpt.run.isSome || k.ckpt.restoring.isSome) = false := by
    rw [hk]
    change (d.ckpt.run.isSome || d.ckpt.restoring.isSome) = false
    rw [hrun, hres]
    rfl
  rw [exec_ckptIntervalTimer hs hd hi hc hdue hmask hk, hidle, if_neg Bool.false_ne_true, hr, if_neg hst]

theorem exec_ckptIntervalTimer_starts (hp : peers = true) (hseeds : d.seedsOk d.domainId mask = true) :
    ∃ u, exec (.ckptIntervalTimer peers newest t) s = .next u ∧ u.dev.get Reg.CKPT_STATUS.phase = 1 ∧ u.dev.ckpt.lastAt = d.now ∧
      u.dev.ckpt.run = some (CkptRun.start ((newest + 1) % 2 ^ 64) mask false true none d.now) := by
  have hkc : k.isCoordinator = true := by rw [hk]; exact hc
  have hkrun : k.ckpt.run = none := by rw [hk]; exact hrun
  have hkres : k.ckpt.restoring = none := by rw [hk]; exact hres
  have hkseeds : k.seedsOk k.domainId mask = true := by rw [hk]; exact hseeds
  obtain ⟨v, hr, hphase, hlast, hrun', -⟩ := Dev.takeCkpt_starts (ent := none) (newest := newest) (full := false) hkc hkrun hkres hp hkseeds
  refine ⟨s.after v, ?_, ?_, ?_, ?_⟩
  · rw [exec_ckptIntervalTimer hs hd hi hc hdue hmask hk, hkrun, hkres, hr]
    rfl
  · rw [State.after_get, hphase]
  · rw [State.after_ckpt, hlast, hk]
  · rw [State.after_ckpt, hrun', hk]

end Interval

/-! ### The messages of a checkpoint (R398 to R401, R412) -/

section Messages
variable {s : State} {t : Nat} {d : Dev} (hs : s.dev.serving = true) (hd : d = s.dev.advance t)
include hs hd

theorem exec_quiesce_body (m : CkptMsg) (hh : d.isHead = false) :
    exec (.quiesce m t) s = .next (s.after ((d.joinRun m).emit (.ckptMsg none (noteCkpt ((d.joinRun m).seedStatus m) (d.joinRun m).position m)))) := by
  change execQuiesce m t s = _
  rw [execQuiesce, onServing_after hs, ← hd, if_pos (by rw [hh]; rfl)]

/-- QUIESCE at another group's HEAD goes down its own ring. -/
theorem exec_quiesce_otherGroup {m : CkptMsg} {r : CkptRun} (hh : d.isHead = true) (hg : m.groupId ≠ d.groupId) (hm : d.runOf m = false)
    (hr : (d.joinRun m).ckpt.run = some r) :
    exec (.quiesce m t) s = .next (s.after ((d.joinRun m).sendRing
      (noteCkpt ((d.joinRun m).seedStatus m) (d.joinRun m).position ((d.joinRun m).ckptMk 0x20 r ST.OK)))) := by
  change execQuiesce m t s = _
  rw [execQuiesce, onServing_after hs, ← hd, if_neg (by rw [hh]; decide), if_neg hg, if_neg (by rw [hm]; decide)]
  simp only [hr]

/-- QUIESCE is back at its sender. -/
theorem exec_quiesce_back {m : CkptMsg} (hh : d.isHead = true) (hg : m.groupId = d.groupId) (hm : d.runOf m = true) :
    exec (.quiesce m t) s = .next (s.after (((d.ringReturned m).runUpd (fun r => if r.ringBack then r else
      { r with ringBack := true, status := if r.status = ST.OK then m.status else r.status, failPos := m.failPos })).readyCheck.releaseHeld)) := by
  change execQuiesce m t s = _
  rw [execQuiesce, onServing_after hs, ← hd, if_neg (by rw [hh]; decide), if_pos hg, if_pos hm]

theorem exec_cut (m : CkptMsg) :
    exec (.cut m t) s = .next (s.after
      (if !d.isHead then (if d.runOf m then (d.runUpd (fun r => { r with cutting := true })).put Reg.CKPT_STATUS.phase 2 else d).emit (.ckptMsg none m)
      else if m.groupId = d.groupId then d.ringReturned m else if d.runOf m then d.beginCut else d)) := by
  change execCut m t s = _
  rw [execCut, onServing_after hs, ← hd]

theorem exec_ckptCommit (m : CkptMsg) : exec (.ckptCommit m t) s = .next (s.after (d.endMsg m Dev.commitBase)) := by
  change execCkptCommit m t s = _
  rw [execCkptCommit, onServing_after hs, ← hd]

theorem exec_ckptReady {m : CkptMsg} (hc : d.isCoordinator = true) (hm : d.runOf m = true) :
    exec (.ckptReady m t) s = .next (s.after ((d.groupReady m.groupId m.status).releaseHeld)) := by
  change execCkptReady m t s = _
  rw [execCkptReady, onServing_after hs, ← hd, if_pos (by rw [hc, hm]; rfl)]

/-- A group that is not ready in time: the checkpoint is abandoned (R400). -/
theorem exec_quiesceTimeout {r : CkptRun} (hr : d.ckpt.run = some r) (hcoord : r.coord = true) (hcut : r.cutting = false)
    (hdue : r.startedAt + (if d.get Reg.CKPT_CFG.quiesce_ms = 0 then 256 else d.get Reg.CKPT_CFG.quiesce_ms) * 1000000 ≤ d.now) :
    exec (.quiesceTimeout t) s = .next (s.after ((d.abandonAll ST.CKPT_QUIESCE).releaseHeld)) := by
  have hdue' : r.startedAt + ms (d.orZero Reg.CKPT_CFG.quiesce_ms 256) ≤ d.now := hdue
  have hcond : (r.coord && !r.cutting && decide (r.startedAt + ms (d.orZero Reg.CKPT_CFG.quiesce_ms 256) ≤ d.now)) = true := by
    rw [hcoord, hcut, decide_eq_true hdue']
    rfl
  change execQuiesceTimeout t s = _
  rw [execQuiesceTimeout, onServing_after hs, ← hd]
  simp only [hr]
  rw [if_pos hcond]

theorem exec_ckptMsgResend {m : CkptMsg} {a : Nat} (hm : d.ckpt.passMsg = some (m, a)) (hdue : a + 10000000 ≤ d.now) :
    exec (.ckptMsgResend t) s = .next (s.after (Dev.emit (.ckptMsg none m) { d with ckpt := { d.ckpt with passMsg := some (m, d.now) } })) := by
  change execCkptMsgResend t s = _
  rw [execCkptMsgResend, onServing_after hs, ← hd]
  simp only [hm]
  exact congrArg (fun x => Host.Outcome.next (s.after x)) (if_pos hdue)

/-- The cut of a chip whose Sectors are all ready (R402 to R404). -/
theorem exec_chipCut {r : CkptRun} (hr : d.ckpt.run = some r) (hcut : r.cutting = true) (hdone : r.cutDone = false)
    (hready : (sectorsOf r.sectors).all (fun n => d.cutReady r n) = true) :
    ∃ k : Dev, exec (.chipCut t) s = .next (s.after k.releaseHeld) ∧ k.get Reg.CKPT_EPOCH.epoch = wrap Reg.CKPT_EPOCH.epoch.width (d.get Reg.CKPT_EPOCH.epoch + 1) ∧
      k.get Reg.CKPT_STATUS.phase = 3 ∧ (k.ckpt.run.map (·.cutDone)) = some true := by
  have hcond : (r.cutting && !r.cutDone && (sectorsOf r.sectors).all (fun n => d.cutReady r n)) = true := by
    rw [hcut, hdone, hready]
    rfl
  have hkey : Reg.CKPT_STATUS.phase.key ≠ Reg.CKPT_EPOCH.epoch.key := by decide
  change ∃ k : Dev, execChipCut t s = _ ∧ _
  rw [execChipCut, onServing_after hs, ← hd, Dev.chipCut]
  simp only [hr]
  rw [if_pos hcond]
  refine ⟨_, rfl, ?_, Dev.get_put_same _ _ _, ?_⟩
  · rw [Dev.get_put_other hkey]
    exact Dev.get_put_same _ _ _
  · change Option.map _ (Option.map _ d.ckpt.run) = _
    rw [hr]
    rfl

end Messages

/-! ### The end of a run (R403, R412) -/

section EndMsg
variable {d : Dev} {m : CkptMsg} (f : Dev → Dev)

theorem Dev.endMsg_body (hh : d.isHead = false) : d.endMsg m f = (if d.runOf m then (f d).releaseHeld else d).emit (.ckptMsg none m) := by
  rw [Dev.endMsg, if_pos (by rw [hh]; rfl)]

theorem Dev.endMsg_back (hh : d.isHead = true) (hg : m.groupId = d.groupId) : d.endMsg m f = d.ringReturned m := by
  rw [Dev.endMsg, if_neg (by rw [hh]; decide), if_pos hg]

theorem Dev.endMsg_otherGroup (hh : d.isHead = true) (hg : m.groupId ≠ d.groupId) (hm : d.runOf m = true) :
    d.endMsg m f = (f d).releaseHeld.sendRing { m with groupId := d.groupId } := by
  rw [Dev.endMsg, if_neg (by rw [hh]; decide), if_neg hg, if_pos hm]
  simp only [hm, if_true]

end EndMsg

theorem exec_abandon {s : State} (hs : s.dev.serving = true) (m : CkptMsg) : exec (.abandon m) s = .next (s.after (s.dev.endMsg m (fun d => d.dropRun m.status))) :=
  onServing_after hs ..

/-- Settles O53: the passes of a checkpoint complete. -/
theorem checkpointPassesComplete : Obligations.CheckpointPassesComplete := by
  refine ⟨⟨fun s h mask newest t full peers e d hs hf => ⟨exec_ckptTake_denied hs hf, fun ho hc => ?_, fun ho hc => ⟨fun hbusy => ?_, fun hrun hres => ⟨fun hp => ?_, fun hp hk => ?_,
        exec_ckptTake_starts hs hf ho hc hrun hres⟩⟩⟩,
      fun s peers newest t mask d k hs hd hi hc hdue hmask hk => ⟨exec_ckptIntervalTimer_busy hs hd hi hc hdue hmask hk, fun hrun hres => ⟨fun hp => ?_, fun hp hseeds => ?_,
        exec_ckptIntervalTimer_starts hs hd hi hc hdue hmask hk hrun hres⟩⟩⟩,
    fun s t d hs hd => ⟨fun m hh => ⟨exec_quiesce_body hs hd m hh, fun hm => ⟨?_, ?_⟩, fun hm => ⟨?_, ?_⟩⟩,
      fun m hh hg => ⟨fun r hm hr => exec_quiesce_otherGroup hs hd hh hg hm hr, fun hm => ⟨?_, ?_⟩⟩,
      fun m hh hg => ⟨?_, ?_, exec_quiesce_back hs hd hh hg⟩,
      fun m hc hm => exec_ckptReady hs hd hc hm, fun r hr hcoord hcut hdue => exec_quiesceTimeout hs hd hr hcoord hcut hdue,
      fun r hr hcut hdone hready => exec_chipCut hs hd hr hcut hdone hready, fun m a hm hdue => exec_ckptMsgResend hs hd hm hdue,
      fun m => ⟨fun hh hm => ?_, fun hh hm => ?_, fun hh hg => ?_, fun hh hg hm => ?_⟩⟩⟩
  · exact exec_ckptTake_refused hs hf ho (by decide) (Dev.takeCkpt_notCoordinator hc)
  · exact exec_ckptTake_refused hs hf ho (by decide) (Dev.takeCkpt_busy hc hbusy)
  · exact exec_ckptTake_refused hs hf ho (by decide) (Dev.takeCkpt_noPeer hc hrun hres hp)
  · exact exec_ckptTake_refused hs hf ho (by decide) (Dev.takeCkpt_noKey hc hrun hres hp hk)
  · exact exec_ckptIntervalTimer_refused hs hd hi hc hdue hmask hk hrun hres (by decide) (by subst hk; exact Dev.takeCkpt_noPeer hc hrun hres hp)
  · exact exec_ckptIntervalTimer_refused hs hd hi hc hdue hmask hk hrun hres (by decide) (by subst hk; exact Dev.takeCkpt_noKey hc hrun hres hp hseeds)
  · rw [exec_cut hs hd, hh, hm]
    rfl
  · rw [exec_ckptCommit hs hd, Dev.endMsg_body _ hh, if_pos hm]
  · rw [exec_cut hs hd, hh, hm]
    rfl
  · rw [exec_ckptCommit hs hd, Dev.endMsg_body _ hh, if_neg (by rw [hm]; decide)]
  · rw [exec_cut hs hd, hh, if_neg hg, hm]
    rfl
  · rw [exec_ckptCommit hs hd, Dev.endMsg_otherGroup _ hh hg hm]
  · rw [exec_cut hs hd, hh, if_pos hg]
    rfl
  · rw [exec_ckptCommit hs hd, Dev.endMsg_back _ hh hg]
  · rw [exec_abandon hs, Dev.endMsg_body _ hh, if_pos hm]
  · rw [exec_abandon hs, Dev.endMsg_body _ hh, if_neg (by rw [hm]; decide)]
  · rw [exec_abandon hs, Dev.endMsg_back _ hh hg]
  · rw [exec_abandon hs, Dev.endMsg_otherGroup _ hh hg hm]

end Sys2Proof.Machine
end

section
/-! PROOFS. The copy of a checkpoint, its lists and reports, and restores (R405 to R418). -/
namespace Sys2Proof.Machine

/-! ### The copy, the lists and the reports (R405 to R412) -/

/-- A peer whose list has not come gets an empty one (R411). -/
def emptyList (t : Tab (List Nat)) (c : Nat) : Tab (List Nat) := if Tab.has c t then t else Tab.put c [] t

theorem has_emptyList_same (c : Nat) (t : Tab (List Nat)) : Tab.has c (emptyList t c) = true := by
  by_cases h : Tab.has c t = true
  · rw [emptyList, if_pos h, h]
  · rw [emptyList, if_neg h, Tab.has, Tab.look_put_same]
    rfl

theorem has_emptyList {c : Nat} {t : Tab (List Nat)} (h : Tab.has c t = true) (k : Nat) : Tab.has c (emptyList t k) = true := by
  by_cases hk : k = c
  · rw [hk]
    exact has_emptyList_same c t
  · rw [emptyList]
    split
    · exact h
    · rw [Tab.has, Tab.look_put_other hk]
      exact h

theorem has_foldl_emptyList {c : Nat} (cs : List Nat) {t : Tab (List Nat)} (h : c ∈ cs ∨ Tab.has c t = true) : Tab.has c (cs.foldl emptyList t) = true := by
  induction cs generalizing t with
  | nil => exact h.resolve_left (List.not_mem_nil)
  | cons k ks ih =>
    refine ih ?_
    rcases h with h | h
    · rcases List.mem_cons.mp h with rfl | hks
      · exact Or.inr (has_emptyList_same c t)
      · exact Or.inl hks
    · exact Or.inr (has_emptyList h k)

section Copy
variable {s : State} {t : Nat} {d : Dev} {r : CkptRun} (hs : s.dev.serving = true) (hd : d = s.dev.advance t)
include hs hd

theorem exec_ckptCopy (fits writes : Bool) : exec (.ckptCopy fits writes t) s = .next (s.after (d.copyStep fits writes s.mem)) := by
  change execCkptCopy fits writes t s = _
  rw [execCkptCopy, onServing_after hs, ← hd]

theorem exec_report (m : CkptMsg) (chips : List CkptChip) (es : List ShardEntry) (gs : List CkptGroup) (st : Nat) :
    exec (.report m chips es gs st t) s = .next (s.after (if !d.isHead then d.emit (.ckptReport none m chips es gs)
      else if d.runOf m then (d.takeReport m.groupId m.status chips es gs st).releaseHeld else d)) := by
  change execReport m chips es gs st t s = _
  rw [execReport, onServing_after hs, ← hd]

variable (hr : d.ckpt.run = some r)
include hr

theorem exec_dedupListTimeout {a : Nat} (ha : r.listsSince = some a) (hdue : a + 10000000 ≤ d.now) :
    exec (.dedupListTimeout t) s = .next (s.after (d.runUpd (fun r => { r with lists := (d.ckptPeers.map (·.2)).foldl emptyList r.lists }))) := by
  change execDedupListTimeout t s = _
  rw [execDedupListTimeout, onServing_after hs, ← hd]
  cases r
  subst ha
  simp only [hr]
  exact congrArg (fun x => Host.Outcome.next (s.after x)) (if_pos hdue)

/-- After 10 ms every peer's list is in (R411). -/
theorem exec_dedupListTimeout_listsIn {a : Nat} (ha : r.listsSince = some a) (hdue : a + 10000000 ≤ d.now) :
    ∃ u, exec (.dedupListTimeout t) s = .next u ∧ ∃ r', u.dev.ckpt.run = some r' ∧ u.dev.listsIn r' = true := by
  refine ⟨_, exec_dedupListTimeout hs hd hr ha hdue, { r with lists := (d.ckptPeers.map (·.2)).foldl emptyList r.lists }, ?_, ?_⟩
  · rw [State.after_ckpt]
    exact congrArg (Option.map _) hr
  · have hpeers (k : Dev) : (s.after k).dev.ckptPeers = k.ckptPeers := by
      unfold Dev.ckptPeers
      simp only [State.after_get]
    rw [Dev.listsIn, hpeers, List.all_eq_true]
    exact fun p hp => has_foldl_emptyList _ (Or.inl (List.mem_map_of_mem hp))

end Copy

section CopyStep
variable {d : Dev} {r : CkptRun} (hr : d.ckpt.run = some r) (hcut : r.cutDone = true) (hrep : r.reported = false) (fits writes : Bool) (mem : List Host.Cell)
include hr hcut hrep

theorem Dev.copyStep_pending (hp : r.pend ≠ []) : d.copyStep fits writes mem = d.copyNext r mem := by
  have hne : (!r.pend.isEmpty) = true := by
    rw [List.isEmpty_eq_false_iff.mpr hp]
    rfl
  rw [Dev.copyStep]
  simp only [hr]
  rw [if_neg (by rw [hcut, hrep]; decide), if_pos hne]

variable (hp : r.pend = [])
include hp

theorem Dev.copyStep_build (hsh : r.shards = none) : d.copyStep fits writes mem = d.buildShards r := by
  rw [Dev.copyStep]
  simp only [hr]
  rw [if_neg (by rw [hcut, hrep]; decide), if_neg (by rw [hp]; decide)]
  simp only [hsh]

theorem Dev.copyStep_write {shards : List Shard} (hsh : r.shards = some shards) :
    d.copyStep fits writes mem = if d.listsIn r then (d.writeShards r shards fits writes).releaseHeld else d := by
  rw [Dev.copyStep]
  simp only [hr]
  rw [if_neg (by rw [hcut, hrep]; decide), if_neg (by rw [hp]; decide)]
  simp only [hsh]

end CopyStep

theorem exec_dedupDigestList {s : State} (hs : s.dev.serving = true) (chip : Nat) (ds : List Nat) :
    exec (.dedupDigestList chip ds) s = .next (s.after (s.dev.runUpd (fun r => { r with lists := Tab.put chip ds r.lists }))) := onServing_after hs ..

/-! ### A restore (R414 to R418) -/

section Candidates
variable {d : Dev} (e : Ent) {sectors dom grp : Nat} {cold : Bool} {c : RestoreCand} (cs : List RestoreCand)

theorem Dev.tryCands_broken (h : candWhole dom grp c = false) : d.tryCands e sectors cold dom grp (c :: cs) = d.tryCands e sectors cold dom grp cs := by
  rw [Dev.tryCands, if_pos (by rw [h]; rfl)]

variable (hwhole : candWhole dom grp c = true)
include hwhole

theorem Dev.tryCands_unplaced (h : d.placementOk sectors grp c = false) :
    d.tryCands e sectors cold dom grp (c :: cs) = d.restoreEnd e ST.CKPT_PLACEMENT 0 := by
  rw [Dev.tryCands, if_neg (by rw [hwhole]; decide), if_pos (by rw [h]; rfl)]

variable (hplace : d.placementOk sectors grp c = true)
include hplace

theorem Dev.tryCands_short {x : Nat} (h : d.restoreShort sectors grp cold c = some x) :
    d.tryCands e sectors cold dom grp (c :: cs) = d.restoreEnd e ST.IMG_NOFIT x := by
  rw [Dev.tryCands, if_neg (by rw [hwhole]; decide), if_neg (by rw [hplace]; decide), if_pos (Or.inl (by rw [h]; rfl)), h]
  rfl

/-- A candidate that fits: its shards decide (R415, R416). -/
theorem Dev.tryCands_fits (hshort : d.restoreShort sectors grp cold c = none) (hroom : c.otherRoom = true) :
    d.tryCands e sectors cold dom grp (c :: cs) = if candShards c ≠ ST.OK then (d.shardMark (candShards c)).tryCands e sectors cold dom grp cs
      else Dev.emit (.restoreChain (c.chain.map (fun l => l.manifest.seq)))
        (Dev.put Reg.CKPT_STATUS.phase 5 { d with ckpt := { d.ckpt with restoring := some (e, sectors, cold, c :: cs, grp) } }) := by
  rw [Dev.tryCands, if_neg (by rw [hwhole]; decide), if_neg (by rw [hplace]; decide), if_neg (by rw [hshort, hroom]; decide)]

end Candidates

section Restore
variable {s : State} {h : EntryHdr} {sectors dom grp q seeds : Nat} {cold : Bool} {cands : List RestoreCand} {e : Ent} {d : Dev}
  (hs : s.dev.serving = true) (hf : s.dev.fetch 0 64 h = some (e, d))
include hs hf

theorem exec_ckptRestore_denied (ho : d.fromOwner e = false) :
    exec (.ckptRestore h sectors cold q dom grp seeds cands) s = .next (s.after (d.complete e ST.CKPT_DENIED 0)) := by
  change execCkptRestore h sectors cold q dom grp seeds cands s = _
  rw [execCkptRestore, onServing_after hs, Dev.ownerAdmin_denied hf ho]

variable (ho : d.fromOwner e = true)
include ho

theorem exec_ckptRestore_notHead (hh : d.isHead = false) :
    exec (.ckptRestore h sectors cold q dom grp seeds cands) s = .next (s.after (d.complete e ST.CKPT_NOTCOORD 0)) := by
  change execCkptRestore h sectors cold q dom grp seeds cands s = _
  rw [execCkptRestore, onServing_after hs, Dev.ownerAdmin_of_fetch hf ho, if_pos (by rw [hh]; rfl)]

/-- CKPT_RESTORE at an idle HEAD: the checks of R414 in their order. -/
theorem exec_ckptRestore_idle (hh : d.isHead = true) (hrun : d.ckpt.run = none) (hres : d.ckpt.restoring = none) :
    exec (.ckptRestore h sectors cold q dom grp seeds cands) s = .next (s.after
      (if (sectorsOf sectors).any (fun n => d.sectorBuoys n != 0) then d.complete e ST.CKPT_NOTEMPTY 0
      else if (sectorsOf sectors).any (fun n => (d.activeImg n).isNone) then d.complete e ST.IMG_NOIMAGE 0
      else if !d.seedsOk dom sectors || seeds != ST.OK then d.complete e ST.CKPT_NOKEY 0
      else d.tryCands e sectors cold dom grp ((cands.filter (fun c => q == 0 || decide (c.seq ≤ q))).mergeSort (fun a b => decide (b.seq ≤ a.seq))))) := by
  change execCkptRestore h sectors cold q dom grp seeds cands s = _
  rw [execCkptRestore, onServing_after hs, Dev.ownerAdmin_of_fetch hf ho, if_neg (by rw [hh]; decide), if_neg (by rw [hrun, hres]; decide)]

end Restore

section Commit
variable {s : State} {sectors grp : Nat} {cold : Bool} {cand : RestoreCand} (hs : s.dev.serving = true)
include hs

/-- HEAD at the end of a restore: its candidate is placed, or the next is tried (R415, R418). -/
theorem exec_restoreCommit_head {e : Ent} {mask g st : Nat} {cd : Bool} {c : RestoreCand} {cs : List RestoreCand} (hh : s.dev.isHead = true)
    (hr : s.dev.ckpt.restoring = some (e, mask, cd, c :: cs, g)) :
    exec (.restoreCommit sectors cold grp cand st) s = .next (s.afterBoth
      (if st ≠ ST.OK then (s.mem, (s.dev.shardMark st).tryCands e mask cd ((candManifest c).elim 0 (fun m => m.domain)) g cs)
      else ((restoreAll mask cd (some c.seq) (s.dev.restored mask g c) s.mem s.dev).1,
        (restoreAll mask cd (some c.seq) (s.dev.restored mask g c) s.mem s.dev).2.restoreEnd e ST.OK c.seq))) := by
  change execRestoreCommit sectors cold grp cand st s = _
  rw [execRestoreCommit, onServingMem_after hs, if_pos hh]
  simp only [hr]
  cases candManifest c <;> rfl

theorem exec_restoreCommit_body (hh : s.dev.isHead = false) :
    exec (.restoreCommit sectors cold grp cand ST.OK) s = .next (s.afterBoth (restoreAll sectors cold none (s.dev.restored sectors grp cand) s.mem s.dev)) := by
  change execRestoreCommit sectors cold grp cand ST.OK s = _
  rw [execRestoreCommit, onServingMem_after hs, if_neg (by rw [hh]; decide), if_pos rfl]

end Commit

/-- Settles O54: the copy, the digest lists, the reports and a restore complete. -/
theorem checkpointCopiesAndRestores : Obligations.CheckpointCopiesAndRestores := by
  refine ⟨fun s t d r hs hd hr => ⟨fun fits writes hcut hrep hp => ?_, fun fits writes hcut hrep hp hsh => ?_, fun fits writes shards hcut hrep hp hsh => ?_,
      exec_dedupDigestList hs, fun a ha hdue => exec_dedupListTimeout_listsIn hs hd hr ha hdue, fun m chips es gs st hh => ?_, fun m chips es gs st hh hm => ?_⟩,
    fun s h sectors dom grp q seeds cold cands e d hs hf => ⟨exec_ckptRestore_denied hs hf, exec_ckptRestore_notHead hs hf, fun ho hh hrun hres => ?_⟩,
    fun d e sectors dom grp cold c cs => ⟨rfl, Dev.tryCands_broken e cs, Dev.tryCands_unplaced e cs, fun x hw hp hx => Dev.tryCands_short e cs hw hp hx,
      fun hw hp hshort hroom => ?_⟩,
    fun s sectors grp cold cand hs => ⟨fun e mask cd c cs g st hh hr => ?_, exec_restoreCommit_body hs⟩⟩
  · rw [exec_ckptCopy hs hd, Dev.copyStep_pending hr hcut hrep _ _ _ hp]
  · rw [exec_ckptCopy hs hd, Dev.copyStep_build hr hcut hrep _ _ _ hp hsh]
  · rw [exec_ckptCopy hs hd, Dev.copyStep_write hr hcut hrep _ _ _ hp hsh]
    exact ⟨fun h => by rw [if_pos h], fun h => by rw [if_neg (by rw [h]; decide)]⟩
  · rw [exec_report hs hd, if_pos (by rw [hh]; rfl)]
  · rw [exec_report hs hd, if_neg (by rw [hh]; decide), if_pos hm]
  · rw [exec_ckptRestore_idle hs hf ho hh hrun hres]
    refine ⟨fun hany => by rw [if_pos hany], fun hempty => ⟨fun himg => ?_, fun himg hkey => ?_, fun himg hseeds hst => ?_⟩⟩
    · rw [if_neg (by rw [hempty]; decide), if_pos himg]
    · have hno : (!d.seedsOk dom sectors || seeds != ST.OK) = true := by
        rcases hkey with h | h
        · rw [h]
          rfl
        · rw [bne_iff_ne.mpr h, Bool.or_true]
      rw [if_neg (by rw [hempty]; decide), if_neg (by rw [himg]; decide), if_pos hno]
    · rw [if_neg (by rw [hempty]; decide), if_neg (by rw [himg]; decide), if_neg (by rw [hseeds, hst]; decide)]
  · rw [Dev.tryCands_fits e cs hw hp hshort hroom]
    exact ⟨fun h => if_pos h, fun h => if_neg (fun hne => hne h)⟩
  · rw [exec_restoreCommit_head hs hh hr]
    refine ⟨fun h => by rw [if_neg (fun hne => hne h)], fun m h hm => ?_⟩
    rw [if_pos h, hm, State.afterBoth_mem]
    rfl

end Sys2Proof.Machine
end

section
/-! PROOFS. The security messages, and the debug unlock (R459, R460, R465, R467, R470, R475, R476, R478). -/
namespace Sys2Proof.Machine

/-! ### The debug unlock (R475, R476) -/

/-- A token that is presented spends its nonce. -/
def Dev.spendNonce (tok : DebugToken) (d : Dev) : Dev :=
  { d with sec := { d.sec with nonce := if d.sec.nonce = some tok.nonce then none else d.sec.nonce } }

/-- The debug level rises to the token's, never falling. -/
def Dev.raiseDebug (tok : DebugToken) (d : Dev) : Dev := d.put Reg.SEC_STATUS.debug_level (max (d.get Reg.SEC_STATUS.debug_level) tok.level)

theorem Dev.unlock_eq (tok : DebugToken) (ok : Bool) (d : Dev) : d.unlock tok ok =
    if !d.tokenOk tok then (ST.SEC_UNLOCK, (if !d.anchorSigOk tok.sig then (d.spendNonce tok).sigRefused else d.spendNonce tok).flag Reg.SEC_ERR.unlock_fail)
    else if tok.level = 1 then (ST.OK, (d.spendNonce tok).raiseDebug tok)
    else if !ok then (ST.SEC_COUNTER, (d.spendNonce tok).counterFail)
    else (ST.OK, Dev.raiseDebug tok (Dev.allTdis 1 (((d.spendNonce tok).norUpd (fun n => { n with counter2 := wrap 32 (n.counter2 + 1) })).put Reg.SEC_DBG_COUNT.count
      (wrap 32 (d.sec.nor.counter2 + 1))))) := rfl

/-- The token's nonce is spent, and the debug level still stands as it did. -/
structure Dev.Presented (tok : DebugToken) (d k : Dev) : Prop where
  nonce : k.sec.nonce ≠ some tok.nonce
  level : k.get Reg.SEC_STATUS.debug_level = d.get Reg.SEC_STATUS.debug_level

section Presented
variable {tok : DebugToken} {d k : Dev}

theorem Dev.presented_spendNonce (tok : DebugToken) (d : Dev) : d.Presented tok (d.spendNonce tok) := by
  refine ⟨?_, rfl⟩
  change (if d.sec.nonce = some tok.nonce then none else d.sec.nonce) ≠ _
  split
  · exact fun h => nomatch h
  · assumption

theorem Dev.Presented.put (h : d.Presented tok k) {f : Fld} (hf : f.key ≠ Reg.SEC_STATUS.debug_level.key) (v : Nat) : d.Presented tok (k.put f v) :=
  ⟨h.nonce, by rw [Dev.get_put_other hf]; exact h.level⟩

theorem Dev.Presented.sigRefused (h : d.Presented tok k) : d.Presented tok k.sigRefused := (h.put (by decide) _).put (by decide) _

theorem Dev.Presented.tdiError (h : d.Presented tok k) (t cause : Nat) : d.Presented tok (k.tdiError t cause) := by
  have hstate : (Reg.SEC_TDI.state t).key ≠ Reg.SEC_STATUS.debug_level.key := by
    simp only [Fld.key, Reg.SEC_TDI.state, Reg.SEC_STATUS.debug_level]
    omega
  have hcause : (Reg.SEC_TDI.cause t).key ≠ Reg.SEC_STATUS.debug_level.key := by
    simp only [Fld.key, Reg.SEC_TDI.cause, Reg.SEC_STATUS.debug_level]
    omega
  unfold Dev.tdiError
  dsimp only
  split
  · exact ((h.put hstate _).put hcause _).put (by decide) _
  · exact h

theorem Dev.Presented.allTdis (h : d.Presented tok k) (cause : Nat) : d.Presented tok (k.allTdis cause) :=
  foldl_keeps (fun y : Dev => d.Presented tok y) (fun _ t hy => hy.tdiError t cause) _ h

/-- The level rises within its two bits. -/
theorem Dev.Presented.raised (h : d.Presented tok k) (hd : d.get Reg.SEC_STATUS.debug_level ≤ 2) (ht : tok.level ≤ 2) :
    d.get Reg.SEC_STATUS.debug_level ≤ (k.raiseDebug tok).get Reg.SEC_STATUS.debug_level ∧ (k.raiseDebug tok).sec.nonce ≠ some tok.nonce := by
  have hsmall : max (k.get Reg.SEC_STATUS.debug_level) tok.level < 2 ^ Reg.SEC_STATUS.debug_level.width :=
    lt_of_le_of_lt (max_le (h.level ▸ hd) ht) (by decide)
  refine ⟨?_, h.nonce⟩
  rw [Dev.raiseDebug, Dev.get_put_same, wrap_of_lt hsmall, ← h.level]
  exact le_max_left _ _

end Presented

theorem tokenOk_level {tok : DebugToken} {d : Dev} (h : d.tokenOk tok = true) : tok.level = 1 ∨ tok.level = 2 := by
  simp only [Dev.tokenOk, Bool.and_eq_true, Bool.or_eq_true, beq_iff_eq] at h
  exact h.1.1.1.1.2

theorem tokenOk_frozen {tok : DebugToken} {d : Dev} (hf : d.boot.frozen = true) (ht : tok.level = 2) : d.tokenOk tok = false := by
  rw [Dev.tokenOk, hf, ht]
  exact Bool.and_false _

/-- However a presentation ends, the level has not fallen and the nonce is spent. -/
theorem Dev.unlock_keeps (tok : DebugToken) (ok : Bool) {d : Dev} (hd : d.get Reg.SEC_STATUS.debug_level ≤ 2) :
    d.get Reg.SEC_STATUS.debug_level ≤ (d.unlock tok ok).2.get Reg.SEC_STATUS.debug_level ∧ (d.unlock tok ok).2.sec.nonce ≠ some tok.nonce := by
  have hspent := Dev.presented_spendNonce tok d
  have same {k : Dev} (h : d.Presented tok k) : d.get Reg.SEC_STATUS.debug_level ≤ k.get Reg.SEC_STATUS.debug_level ∧ k.sec.nonce ≠ some tok.nonce :=
    ⟨h.level.ge, h.nonce⟩
  rw [Dev.unlock_eq]
  by_cases hok : d.tokenOk tok = true
  · have hlevel : tok.level ≤ 2 := by
      rcases tokenOk_level hok with h | h <;> omega
    rw [if_neg (by rw [hok]; decide)]
    by_cases h1 : tok.level = 1
    · rw [if_pos h1]
      exact hspent.raised hd hlevel
    · rw [if_neg h1]
      cases ok with
      | false => exact same (hspent.put (by decide) _)
      | true => exact Dev.Presented.raised (Dev.Presented.allTdis (Dev.Presented.put (k := (d.spendNonce tok).norUpd _) ⟨hspent.nonce, hspent.level⟩ (by decide) _) 1) hd hlevel
  · rw [Bool.not_eq_true] at hok
    rw [hok, if_pos (by decide)]
    refine same (Dev.Presented.put ?_ (by decide) _)
    split
    · exact hspent.sigRefused
    · exact hspent

/-! ### The security messages (R459, R460, R465, R467, R470) -/

/-- A seed installed for the Sectors of a mask. -/
theorem look_foldl_seeds {dom seed n : Nat} (ns : List Nat) (t : Tab Nat) :
    Tab.look (dom * 16 + n) (ns.foldl (fun t k => Tab.put (dom * 16 + k) seed t) t) = if n ∈ ns then some seed else Tab.look (dom * 16 + n) t := by
  induction ns generalizing t with
  | nil => exact (if_neg List.not_mem_nil).symm
  | cons k ks ih =>
    rw [List.foldl_cons, ih]
    by_cases hk : k = n
    · subst hk
      rw [Tab.look_put_same, if_pos List.mem_cons_self, ite_self]
    · rw [Tab.look_put_other (by omega)]
      exact if_congr (by rw [List.mem_cons, or_iff_right (fun h => hk h.symm)]) rfl rfl

section Messages
variable {s : State} {ch : SecChannel} (ha : s.dev.answers = true)
include ha

section InSession
variable (hs : s.dev.securityOk ch = true)
include hs

theorem exec_anchorSet (key : Nat) (sig : Signature) :
    exec (.anchorSet ch key sig) s = .next (s.after ((s.dev.anchorSet key sig).2.2.emit (.secResp ch (s.dev.anchorSet key sig).1 (s.dev.anchorSet key sig).2.1))) :=
  onAwake_security ha hs _

theorem exec_anchorSet_taken {key : Nat} {sig : Signature} (hv : sigVerifies sig = true) (h1 : sig.signer = 1) (hk : s.dev.sec.nor.anchor = some sig.keyId) :
    exec (.anchorSet ch key sig) s = .next (s.after (((s.dev.norUpd (fun n => { n with anchor := some key })).showAnchor).emit (.secResp ch ST.OK []))) := by
  have hcond : (sigVerifies sig && sig.signer == 1 && s.dev.sec.nor.anchor == some sig.keyId) = true := by
    rw [hv, h1, hk]
    exact beq_self_eq_true _
  rw [exec_anchorSet ha hs, Dev.anchorSet, if_pos hcond]

theorem exec_anchorSet_refused {key : Nat} {sig : Signature} (h : sigVerifies sig = false ∨ sig.signer ≠ 1 ∨ s.dev.sec.nor.anchor ≠ some sig.keyId) :
    exec (.anchorSet ch key sig) s = .next (s.after (s.dev.sigRefused.emit (.secResp ch ST.SEC_SIG []))) := by
  have hcond : ¬ (sigVerifies sig && sig.signer == 1 && s.dev.sec.nor.anchor == some sig.keyId) = true := by
    simp only [Bool.and_eq_true, beq_iff_eq]
    rintro ⟨⟨hv, h1⟩, hk⟩
    exact h.elim (fun h => Bool.false_ne_true (h.symm.trans hv)) (fun h => h.elim (fun h => h h1) (fun h => h hk))
  rw [exec_anchorSet ha hs, Dev.anchorSet, if_neg hcond]

theorem exec_hostKeySet_free {host : Nat} (hh : host < 256) (hg : s.dev.hostHoldsGrant host = false) (key : Nat) :
    exec (.hostKeySet ch host key) s = .next (s.after
      (Dev.emit (.secResp ch ST.OK []) { s.dev with sec := { s.dev.sec with hostKeys := Tab.put host key s.dev.sec.hostKeys } })) := by
  change onAwake (fun d => d.security ch (fun d => d.hostKeySet (wrap 8 host) key)) s = _
  rw [onAwake_security ha hs, wrap_of_lt hh, Dev.hostKeySet, if_neg (by rw [hg]; decide)]

theorem exec_domainSeedSet_free {dom : Nat} (hb : s.dev.domainBusy dom = false) (mask seed : Nat) :
    exec (.domainSeedSet ch mask dom seed) s = .next (s.after (Dev.emit (.secResp ch ST.OK [])
      { s.dev with sec := { s.dev.sec with seeds := (sectorsOf mask).foldl (fun t n => Tab.put (dom * 16 + n) seed t) s.dev.sec.seeds } })) := by
  change onAwake (fun d => d.security ch (fun d => d.domainSeedSet mask dom seed)) s = _
  rw [onAwake_security ha hs, Dev.domainSeedSet, if_neg (by rw [hb]; decide)]

theorem exec_domainSeedSet_seeds {dom : Nat} (hb : s.dev.domainBusy dom = false) (mask seed : Nat) :
    ∃ u, exec (.domainSeedSet ch mask dom seed) s = .next u ∧ u.dev.out = .secResp ch ST.OK [] :: s.dev.out ∧ ∀ n, n < 16 →
      Tab.look (dom * 16 + n) u.dev.sec.seeds = if mask.testBit n then some seed else Tab.look (dom * 16 + n) s.dev.sec.seeds := by
  refine ⟨_, exec_domainSeedSet_free ha hs hb mask seed, State.after_out _ _, fun n hn => ?_⟩
  have hmem : n ∈ sectorsOf mask ↔ mask.testBit n = true := by rw [sectorsOf, List.mem_filter, List.mem_range, and_iff_right hn]
  rw [State.after_sec]
  exact (look_foldl_seeds _ _).trans (if_congr hmem rfl rfl)

/-- SVN_COMMIT whose counters advance (R460). -/
theorem exec_svnCommit_taken :
    ∃ u, exec (.svnCommit ch true) s = .next u ∧ u.dev.sec.nor.counter0 = max s.dev.sec.nor.counter0 s.dev.sec.fwVersion ∧
      u.dev.sec.nor.counter1 = max s.dev.sec.nor.counter1 s.dev.sec.cfgVersion ∧ u.dev.out = .secResp ch ST.OK [] :: s.dev.out := by
  refine ⟨_, onAwake_security ha hs (fun d => d.svnCommit true), ?_, ?_, ?_⟩
  · rw [State.after_sec]
    rfl
  · rw [State.after_sec]
    rfl
  · rw [State.after_out]
    rfl

end InSession

/-- A security message outside a session that may carry it is refused (R467). -/
theorem onAwake_security_refused (hs : s.dev.securityOk ch = false) (f : Dev → Nat × List Nat × Dev) :
    onAwake (fun d => d.security ch f) s = .next (s.after (s.dev.emit (.secResp ch ST.SEC_SESSION []))) := by
  rw [onAwake_of_answers ha, Dev.security, if_neg (by rw [hs]; decide)]

end Messages

/-- Settles O55: the security messages inside a session that may carry them and outside, and the debug unlock. -/
theorem securityMessagesAnswered : Obligations.SecurityMessagesAnswered := by
  refine ⟨fun s ch ha hs => ⟨fun key sig => exec_anchorSet_taken ha hs, fun key sig => exec_anchorSet_refused ha hs, fun host key hh hg => exec_hostKeySet_free ha hs hh hg key,
      fun host key hh hg => exec_hostKeySet_inUse ha hs hh hg key, fun mask dom seed hb => exec_domainSeedSet_seeds ha hs hb mask seed,
      fun mask dom seed hb => exec_domainSeedSet_inUse ha hs hb mask seed, onAwake_security ha hs (fun d => d.svnCommit false), exec_svnCommit_taken ha hs,
      onAwake_security ha hs _, fun tok ok => onAwake_security ha hs _, fun nonce mask => ⟨_, onAwake_security ha hs _⟩⟩,
    fun s ch ha hs => ⟨fun key sig => onAwake_security_refused ha hs _, fun host key => onAwake_security_refused ha hs _, fun mask dom seed => onAwake_security_refused ha hs _,
      fun ok => onAwake_security_refused ha hs _, onAwake_security_refused ha hs _, fun tok ok => onAwake_security_refused ha hs _,
      fun nonce mask => onAwake_security_refused ha hs _⟩,
    fun d tok ok hd => ⟨(Dev.unlock_keeps tok ok hd).1, (Dev.unlock_keeps tok ok hd).2, fun hf ht => ?_⟩⟩
  rw [Dev.unlock_eq, tokenOk_frozen hf ht]
  rfl

end Sys2Proof.Machine
end

section
/-! PROOFS. The SPDM responder, IDE key management and the TEE device interfaces (R455, R456, R469 to R474). -/
namespace Sys2Proof.Machine

/-! ### SPDM (R455, R456, R469, R470) -/

section Spdm
variable {s : State} {ch : SecChannel} (ha : s.dev.answers = true)
include ha

/-- A request in its order is answered. -/
theorem onAwake_needs {c : Dev → Bool} (h : c s.dev = true) (f : Dev → Dev) : onAwake (fun d => d.needs ch (c d) f) s = .next (s.after (f s.dev)) := by
  rw [onAwake_of_answers ha, Dev.needs, if_pos h]

/-- A request out of its order is unexpected. -/
theorem onAwake_needs_unexpected {c : Dev → Bool} (h : c s.dev = false) (f : Dev → Dev) :
    onAwake (fun d => d.needs ch (c d) f) s = .next (s.after (s.dev.emit (.spdmError ch 0x04))) := by
  rw [onAwake_of_answers ha, Dev.needs, if_neg (by rw [h]; decide)]
  rfl

theorem exec_negotiateAlgorithms (h : (s.dev.spdmLink ch).capabilities = true) (p ml a : Bool) :
    exec (.negotiateAlgorithms ch p ml a) s = .next (s.after (if p = true ∧ a = true then
      (s.dev.linkPut ch ⟨true, true, true⟩).emit (.spdm ch 0x63 [384, 256]) else s.dev.emit (.spdmError ch 0x01))) := by
  refine (onAwake_needs ha (c := fun d => (d.spdmLink ch).capabilities) h _).trans (congrArg (fun x => Host.Outcome.next (s.after x)) ?_)
  exact if_congr Bool.and_eq_true_iff rfl rfl

/-- Before the algorithms are agreed, what needs them is unexpected. -/
theorem exec_unnegotiated (h : (s.dev.spdmLink ch).algorithms = false) {slot nonce i mst : Nat} {ma ac : Bool} {c : Instr}
    (hc : c ∈ [Instr.getDigests ch, .getCertificate ch slot, .challenge ch nonce, .getMeasurements ch i, .keyExchange ch mst ma ac]) :
    exec c s = .next (s.after (s.dev.emit (.spdmError ch 0x04))) := by
  simp only [List.mem_cons, List.not_mem_nil, or_false] at hc
  rcases hc with rfl | rfl | rfl | rfl | rfl <;> exact onAwake_needs_unexpected ha (c := fun d => (d.spdmLink ch).algorithms) h _

section Negotiated
variable (h : (s.dev.spdmLink ch).algorithms = true)
include h

theorem exec_getCertificate (slot : Nat) : exec (.getCertificate ch slot) s = .next (s.after
    ((s.dev.certChain slot).elim (s.dev.emit (.spdmError ch 0x01)) (fun c => s.dev.emit (.spdm ch 0x02 (slot :: c))))) := by
  refine (onAwake_needs ha (c := fun d => (d.spdmLink ch).algorithms) h _).trans (congrArg (fun x => Host.Outcome.next (s.after x)) ?_)
  cases s.dev.certChain slot <;> rfl

theorem exec_keyExchange (mst : Nat) (ma ac : Bool) : exec (.keyExchange ch mst ma ac) s = .next (s.after
    (if 8 ≤ s.dev.sec.spdm.length then s.dev.emit (.spdmError ch 0x03)
    else (Tab.firstFree s.dev.sec.spdm 1 9).elim (s.dev.emit (.spdmError ch 0x03)) (fun k =>
      (s.dev.spdmSet (Tab.put k ⟨ch.transport, ch.fn, false, ma, ac, mst, 0⟩ s.dev.sec.spdm)).emit (.spdm ch 0x64 [k])))) := by
  refine (onAwake_needs ha (c := fun d => (d.spdmLink ch).algorithms) h _).trans (congrArg (fun x => Host.Outcome.next (s.after x)) ?_)
  cases Tab.firstFree s.dev.sec.spdm 1 9 <;> rfl

/-- What an agreed negotiation answers (R455, R456, R469, R470). -/
theorem exec_negotiated :
    (∃ vs, exec (.getDigests ch) s = .next (s.after (s.dev.emit (.spdm ch 0x01 (3 :: vs))))) ∧
    (∀ slot, s.dev.certChain slot = none → exec (.getCertificate ch slot) s = .next (s.after (s.dev.emit (.spdmError ch 0x01)))) ∧
    (∀ slot c, s.dev.certChain slot = some c → exec (.getCertificate ch slot) s = .next (s.after (s.dev.emit (.spdm ch 0x02 (slot :: c))))) ∧
    (∀ nonce, ∃ v, exec (.challenge ch nonce) s = .next (s.after (s.dev.drawn.emit (.spdm ch 0x03 [nonce, s.dev.fresh, v])))) ∧
    (∀ i, exec (.getMeasurements ch i) s = .next (s.after (s.dev.emit (.spdm ch 0x60 (s.dev.measures ch.fn (if i = 0xFF then List.range 24 else [i]) s.mem))))) ∧
    (∀ k mst ma ac, s.dev.sec.spdm.length < 8 → Tab.firstFree s.dev.sec.spdm 1 9 = some k → exec (.keyExchange ch mst ma ac) s = .next (s.after
      ((s.dev.spdmSet (Tab.put k ⟨ch.transport, ch.fn, false, ma, ac, mst, 0⟩ s.dev.sec.spdm)).emit (.spdm ch 0x64 [k])))) ∧
    (∀ mst ma ac, 8 ≤ s.dev.sec.spdm.length → exec (.keyExchange ch mst ma ac) s = .next (s.after (s.dev.emit (.spdmError ch 0x03)))) := by
  refine ⟨⟨_, onAwake_needs ha (c := fun d => (d.spdmLink ch).algorithms) h _⟩, fun slot hn => ?_, fun slot c hc => ?_,
    fun nonce => ⟨_, onAwake_needs ha (c := fun d => (d.spdmLink ch).algorithms) h _⟩, fun i => onAwake_needs ha (c := fun d => (d.spdmLink ch).algorithms) h _,
    fun k mst ma ac hl hk => ?_, fun mst ma ac hl => ?_⟩
  · rw [exec_getCertificate ha h, hn]
    rfl
  · rw [exec_getCertificate ha h, hc]
    rfl
  · rw [exec_keyExchange ha h, if_neg (by omega), hk]
    rfl
  · rw [exec_keyExchange ha h, if_pos hl]

end Negotiated

/-- Outside a session, what needs one is unexpected. -/
theorem exec_noSession (h : (s.dev.spdmSession ch).isSome = false) {c : Instr} (hc : c ∈ [Instr.heartbeat ch, .keyUpdate ch, .endSession ch]) :
    exec c s = .next (s.after (s.dev.emit (.spdmError ch 0x04))) := by
  simp only [List.mem_cons, List.not_mem_nil, or_false] at hc
  rcases hc with rfl | rfl | rfl <;> exact onAwake_needs_unexpected ha (c := fun d => (d.spdmSession ch).isSome) h _

end Spdm

/-! ### IDE key management (R471) -/

section Ide
variable {d : Dev} {port stream : Nat}

@[simp] theorem Dev.tdiError_sec (t cause : Nat) : (d.tdiError t cause).sec = d.sec := by
  unfold Dev.tdiError
  dsimp only
  split <;> rfl

theorem Dev.ideStream_of_sec {k : Dev} (h : k.sec = d.sec) : k.ideStream port stream = d.ideStream port stream := by
  unfold Dev.ideStream
  rw [h]

theorem Dev.ideStream_idePut (x : IdeStream) : (d.idePut port stream x).ideStream port stream = x := Tab.getD_put_same _ _ _ _

theorem Dev.ideStream_ideInsecure : (d.ideInsecure port stream).ideStream port stream = { d.ideStream port stream with insecure := true, active := none } := by
  unfold Dev.ideInsecure
  dsimp only
  split
  · rw [Dev.ideStream_of_sec (Dev.tdiError_sec _ _), Dev.ideStream_idePut]
  · exact Dev.ideStream_idePut _

/-- An error of a TDI changes no register of the block but those of the TDI and its flag. -/
theorem Dev.get_tdiError_other {g : Fld} {t : Nat} (hg : g.off < 0x00040080) (hlo : g.lo < 64) (he : Reg.SEC_ERR.tdi_error.key ≠ g.key) (cause : Nat) :
    (d.tdiError t cause).get g = d.get g := by
  have hstate : (Reg.SEC_TDI.state t).key ≠ g.key := by
    simp only [Fld.key, Reg.SEC_TDI.state]
    omega
  have hcause : (Reg.SEC_TDI.cause t).key ≠ g.key := by
    simp only [Fld.key, Reg.SEC_TDI.cause]
    omega
  unfold Dev.tdiError
  dsimp only
  split
  · rw [Dev.flag, Dev.get_put_other he, Dev.get_put_other hcause, Dev.get_put_other hstate]
  · rfl

/-- A TDI that was locked or ran is in ERROR with its cause (R473). -/
theorem Dev.get_tdiError {t cause : Nat} (h : d.get (Reg.SEC_TDI.state t) = 1 ∨ d.get (Reg.SEC_TDI.state t) = 2) :
    (d.tdiError t cause).get (Reg.SEC_TDI.state t) = 3 ∧ (d.tdiError t cause).get (Reg.SEC_TDI.cause t) = wrap 8 cause := by
  have herrState : Reg.SEC_ERR.tdi_error.key ≠ (Reg.SEC_TDI.state t).key := by
    simp only [Fld.key, Reg.SEC_TDI.state, Reg.SEC_ERR.tdi_error]
    omega
  have herrCause : Reg.SEC_ERR.tdi_error.key ≠ (Reg.SEC_TDI.cause t).key := by
    simp only [Fld.key, Reg.SEC_TDI.cause, Reg.SEC_ERR.tdi_error]
    omega
  have hcauseState : (Reg.SEC_TDI.cause t).key ≠ (Reg.SEC_TDI.state t).key := by
    simp only [Fld.key, Reg.SEC_TDI.state, Reg.SEC_TDI.cause]
    omega
  rw [Dev.tdiError, if_pos h, Dev.flag, Dev.get_put_other herrState, Dev.get_put_other hcauseState, Dev.get_put_same, Dev.get_put_other herrCause, Dev.get_put_same]
  exact ⟨rfl, rfl⟩

end Ide

section IdeKm
variable {s : State} {ch : SecChannel} {port stream : Nat} (ha : s.dev.answers = true)

section InSession
variable (hs : (s.dev.spdmSession ch).isSome = true) (hfn : ch.fn = .pf) (htr : ch.transport = port) (hport : port < 2)
include ha hs hfn htr hport

/-- An IDE_KM message inside a session of the physical function's DOE of the port. -/
theorem onAwake_ideKm (hstream : stream < 17) (f : Dev → Dev) : onAwake (fun d => d.ideKm ch port stream f) s = .next (s.after (f s.dev)) := by
  have hcond : ((s.dev.spdmSession ch).isSome && ch.fn == .pf && ch.transport == port && decide (port < 2)) = true := by
    rw [hs, hfn, htr, decide_eq_true hport, beq_self_eq_true port]
    rfl
  rw [onAwake_of_answers ha, Dev.ideKm, if_pos hcond, if_pos hstream]

theorem exec_ideKmQuery : exec (.ideKmQuery ch port) s = .next (s.after (s.dev.emit (.spdm ch 0x103
    (port :: 17 :: 2 :: (List.range 17).map (fun k => b2n (!(s.dev.ideStream port k).insecure)))))) := onAwake_ideKm ha hs hfn htr hport (by decide) _

variable (hstream : stream < 17)
include hstream

theorem exec_kSetGo (set : Nat) : exec (.kSetGo ch port stream set) s = .next (s.after
    (if Tab.has set (s.dev.ideStream port stream).keys then
      (s.dev.idePut port stream { s.dev.ideStream port stream with active := some set, insecure := false }).emit (.spdm ch 0x101 [port, stream, set])
    else s.dev.emit (.spdmError ch 0x01))) := onAwake_ideKm ha hs hfn htr hport hstream _

theorem exec_kSetStop (set : Nat) : exec (.kSetStop ch port stream set) s = .next (s.after
    ((if (s.dev.ideStream port stream).active == some set then
        (s.dev.idePut port stream { s.dev.ideStream port stream with keys := Tab.del set (s.dev.ideStream port stream).keys }).ideInsecure port stream
      else s.dev.idePut port stream { s.dev.ideStream port stream with keys := Tab.del set (s.dev.ideStream port stream).keys }).emit
        (.spdm ch 0x102 [port, stream, set]))) := onAwake_ideKm ha hs hfn htr hport hstream _

/-- A stream that stops its active set is insecure (R471). -/
theorem exec_kSetStop_active {set : Nat} (hact : (s.dev.ideStream port stream).active = some set) :
    ∃ u, exec (.kSetStop ch port stream set) s = .next u ∧ (u.dev.ideStream port stream).insecure = true ∧ (u.dev.ideStream port stream).active = none := by
  refine ⟨_, exec_kSetStop ha hs hfn htr hport hstream set, ?_⟩
  rw [if_pos (beq_iff_eq.mpr hact), Dev.ideStream_of_sec (State.after_sec _ _)]
  have hstream := Dev.ideStream_ideInsecure (d := s.dev.idePut port stream { s.dev.ideStream port stream with keys := Tab.del set (s.dev.ideStream port stream).keys })
    (port := port) (stream := stream)
  exact ⟨congrArg IdeStream.insecure hstream, congrArg IdeStream.active hstream⟩

end InSession

include ha

/-- A failed check: the stream is insecure, the failure is counted, and the TDI bound to it is in ERROR (R471, R473). -/
theorem exec_ideCheckFail : ∃ u, exec (.ideCheckFail port stream) s = .next u ∧
    (u.dev.ideStream port stream).insecure = true ∧ u.dev.get Reg.SEC_IDE_FAIL.count = satAdd Reg.SEC_IDE_FAIL.count.width (s.dev.get Reg.SEC_IDE_FAIL.count) 1 ∧
    ∀ n, n < 16 → stream = n + 1 → (s.dev.get (Reg.SEC_TDI.state (16 * port + n)) = 1 ∨ s.dev.get (Reg.SEC_TDI.state (16 * port + n)) = 2) →
      u.dev.get (Reg.SEC_TDI.state (16 * port + n)) = 3 ∧ u.dev.get (Reg.SEC_TDI.cause (16 * port + n)) = 5 := by
  refine ⟨_, onAwake_of_answers (f := fun d => (d.bump Reg.SEC_IDE_FAIL.count 1).ideInsecure port stream) ha, ?_, ?_, fun n hn hsn hst => ?_⟩
  · rw [Dev.ideStream_of_sec (State.after_sec _ _), Dev.ideStream_ideInsecure]
  · rw [State.after_get, Dev.ideInsecure]
    dsimp only
    refine get_ite ((Dev.get_tdiError_other (by decide) (by decide) (by decide) _).trans ?_) ?_ <;> exact Dev.get_bump_same _ _ _
  · subst hsn
    have hkey : Reg.SEC_IDE_FAIL.count.key ≠ (Reg.SEC_TDI.state (16 * port + n)).key := by
      simp only [Fld.key, Reg.SEC_TDI.state, Reg.SEC_IDE_FAIL.count]
      omega
    have hbound : 1 ≤ n + 1 ∧ n + 1 ≤ 16 := by omega
    have hst' : (s.dev.bump Reg.SEC_IDE_FAIL.count 1).get (Reg.SEC_TDI.state (16 * port + n)) = 1 ∨
        (s.dev.bump Reg.SEC_IDE_FAIL.count 1).get (Reg.SEC_TDI.state (16 * port + n)) = 2 := by
      rw [Dev.get_bump_other hkey]
      exact hst
    rw [State.after_get, State.after_get, Dev.ideInsecure, if_pos hbound, Nat.add_sub_cancel]
    exact Dev.get_tdiError (d := (s.dev.bump Reg.SEC_IDE_FAIL.count 1).idePut port (n + 1) _) hst'

end IdeKm

/-! ### TEE device interfaces (R472 to R474) -/

section Tdisp
variable {s : State} {ch : SecChannel} {tdi : Nat} (ha : s.dev.answers = true) (hs : (s.dev.spdmSession ch).isNone = false) (ht : tdi < 32)
include ha hs ht

theorem onAwake_tdisp (f : Dev → Dev) : onAwake (fun d => d.tdisp ch tdi f) s = .next (s.after (f s.dev)) := by
  rw [onAwake_of_answers ha, Dev.tdisp, if_neg (by rw [hs]; decide), if_neg (by omega)]

theorem exec_lockInterfaceRequest : exec (.lockInterfaceRequest ch tdi) s = .next (s.after
    (if 2 ≤ s.dev.debugLevel then s.dev.emit (.tdispError ch 0x0104)
    else if s.dev.get (Reg.SEC_TDI.state tdi) ≠ 0 then s.dev.emit (.tdispError ch 0x0004)
    else Dev.emit (.tdisp ch 0x03 []) { s.dev.put (Reg.SEC_TDI.state tdi) 1 with sec := { s.dev.sec with tdiEpoch := Tab.put tdi s.dev.comp.cur.epoch s.dev.sec.tdiEpoch } })) :=
  onAwake_tdisp ha hs ht _

/-- LOCK of an unlocked TDI: the epoch of the composition is the one at LOCK (R472). -/
theorem exec_lockInterfaceRequest_locks (hdbg : s.dev.debugLevel < 2) (hst : s.dev.get (Reg.SEC_TDI.state tdi) = 0) :
    ∃ u, exec (.lockInterfaceRequest ch tdi) s = .next u ∧ u.dev.get (Reg.SEC_TDI.state tdi) = 1 ∧ Tab.look tdi u.dev.sec.tdiEpoch = some s.dev.comp.cur.epoch := by
  refine ⟨_, exec_lockInterfaceRequest ha hs ht, ?_⟩
  rw [if_neg (by omega), if_neg (fun h => h hst), State.after_get, State.after_sec]
  exact ⟨Dev.get_put_same (Reg.SEC_TDI.state tdi) 1 s.dev, Tab.look_put_same _ _ _⟩

theorem exec_startInterfaceRequest : exec (.startInterfaceRequest ch tdi) s = .next (s.after
    (if s.dev.get (Reg.SEC_TDI.state tdi) = 1 then (s.dev.put (Reg.SEC_TDI.state tdi) 2).emit (.tdisp ch 0x06 []) else s.dev.emit (.tdispError ch 0x0004))) :=
  onAwake_tdisp ha hs ht _

/-- GET_DEVICE_INTERFACE_REPORT of a TDI that is locked or runs (R472). -/
theorem exec_getDeviceInterfaceReport : ∃ vs, exec (.getDeviceInterfaceReport ch tdi) s = .next (s.after
    (if s.dev.get (Reg.SEC_TDI.state tdi) = 1 ∨ s.dev.get (Reg.SEC_TDI.state tdi) = 2 then
      s.dev.emit (.tdisp ch 0x04 (vs ++ [tdi % 16, b2n (s.dev.sector (tdi % 16)).isSealed, Tab.getD tdi 0 s.dev.sec.tdiEpoch]))
    else s.dev.emit (.tdispError ch 0x0004))) := by
  refine ⟨(s.dev.que.filter (fun e => !e.2.pf && e.2.sector == tdi % 16)).map (fun e => 0x01000000 + 0x1000 * e.1) ++
    [0x0F110000 + 0x1000 * (tdi % 16), 0x06701000 + 0x1000 * (tdi % 16)], ?_⟩
  refine (onAwake_tdisp ha hs ht _).trans (congrArg (fun x => Host.Outcome.next (s.after x)) (if_congr Iff.rfl ?_ rfl))
  rw [List.append_assoc]
  rfl

end Tdisp

/-- Settles O56: the SPDM responder, IDE key management and the TEE device interfaces complete. -/
theorem protocolsComplete : Obligations.ProtocolsComplete := by
  refine ⟨fun s ch ha => ⟨onAwake_of_answers (f := fun d => (d.linkPut ch ⟨true, false, false⟩).emit (.spdm ch 0x04 [0x13])) ha, fun h => onAwake_needs ha (c := fun d => (d.spdmLink ch).version) h _,
      fun h => onAwake_needs_unexpected ha (c := fun d => (d.spdmLink ch).version) h _, fun p ml a h => exec_negotiateAlgorithms ha h p ml a,
      fun p ml a h => onAwake_needs_unexpected ha (c := fun d => (d.spdmLink ch).capabilities) h _, fun slot nonce i mst ma ac c h hc => exec_unnegotiated ha h hc,
      exec_negotiated ha, fun h => ⟨onAwake_needs ha (c := fun d => (d.handshake ch).isSome) h _, onAwake_needs ha (c := fun d => (d.handshake ch).isSome) h _⟩,
      fun c h hc => exec_noSession ha h hc, fun h => ⟨onAwake_needs ha (c := fun d => (d.spdmSession ch).isSome) h _,
        onAwake_needs ha (c := fun d => (d.spdmSession ch).isSome) h _, onAwake_needs ha (c := fun d => (d.spdmSession ch).isSome) h _⟩⟩,
    fun s ch port stream set ha hs hfn htr hport hstream => ⟨fun key => onAwake_ideKm ha hs hfn htr hport hstream _, fun hset => ?_, fun hset => ?_, fun hact => ?_,
      exec_kSetStop_active ha hs hfn htr hport hstream, exec_ideKmQuery ha hs hfn htr hport⟩,
    fun s port stream ha hport hstream => exec_ideCheckFail ha,
    fun s ch tdi ha hs ht => ⟨onAwake_tdisp ha hs ht _, onAwake_tdisp ha hs ht _, exec_lockInterfaceRequest_locks ha hs ht, fun hdbg hst => ?_, fun hdbg => ?_,
      fun hst => ?_, fun hst => ?_, fun hst => ?_, onAwake_tdisp ha hs ht _, fun hst => ?_, onAwake_tdisp ha hs ht _⟩⟩
  · rw [exec_kSetGo ha hs hfn htr hport hstream, if_pos hset]
  · rw [exec_kSetGo ha hs hfn htr hport hstream, if_neg (by rw [hset]; decide)]
  · rw [exec_kSetStop ha hs hfn htr hport hstream, if_neg (fun h => hact (beq_iff_eq.mp h))]
  · rw [exec_lockInterfaceRequest ha hs ht, if_neg (by omega), if_pos hst]
  · rw [exec_lockInterfaceRequest ha hs ht, if_pos hdbg]
  · obtain ⟨vs, hvs⟩ := exec_getDeviceInterfaceReport ha hs ht
    exact ⟨vs, hvs.trans (by rw [if_pos hst])⟩
  · obtain ⟨vs, hvs⟩ := exec_getDeviceInterfaceReport ha hs ht
    exact hvs.trans (by rw [if_neg (by omega)])
  · rw [exec_startInterfaceRequest ha hs ht, if_neg hst]
  · rw [exec_startInterfaceRequest ha hs ht, if_pos hst]

end Sys2Proof.Machine
end
